-- ==== Sys2Proof/Word.lean ====
section
/-! DEFINITION. The word types of the device and their plainest arithmetic (00_scope: units of time and position). -/

namespace Sys2Proof

/-- A 32-bit parameter word. -/
abbrev Word := BitVec 32

/-- A byte. -/
abbrev Byte := BitVec 8

/-- A 64-bit position or chronicle count (R4, R5). -/
abbrev Quad := BitVec 64

/-- Mites in one tick (00_scope, units). -/
def mitesPerTick : Nat := 32

/-- Mites in one REFCLK period, the step of the chronicle in WATCH (R20). -/
def mitesPerRef : Nat := 400

end Sys2Proof
end

