-- ==== Sys2Proof/Types.lean ====
section
/-! DEFINITION. The small types that commands and state share: pins, modes, roles, and the plain records of things
registered. -/

namespace Sys2Proof.Machine

/-- What the registers show of a Mint (03_mints R65, R66, MNT_STATE). -/
inductive MintMode | stopped | locked | holdover | pulling
deriving DecidableEq, Repr

/-- The code of MNT_STATE. -/
def MintMode.code : MintMode → Nat
  | .stopped => 0 | .locked => 1 | .holdover => 2 | .pulling => 3

/-- The states of the tally (02_tally R45). -/
inductive TallyMode | stopped | still | tracking | coasting | lost | reacquiring
deriving DecidableEq, Repr

/-- The state code of TLY_STATE (R45). -/
def TallyMode.code : TallyMode → Nat
  | .stopped => 0 | .still => 1 | .tracking => 2 | .coasting => 3 | .lost => 4 | .reacquiring => 5

/-- The power regimes (18_power). -/
inductive Regime | full | lean | watch
deriving DecidableEq, Repr

/-- The code of PWR_REGIME. -/
def Regime.code : Regime → Nat
  | .full => 0 | .lean => 1 | .watch => 2

/-- The DCO words of a Mint (03_mints R62, R63): Mint L has a second DCO, for the Wharf. -/
structure Dco where
  main : Word := 0
  wharf : Word := 0
deriving DecidableEq, Repr

/-- A change of a Mint's output from off to on or back, and the mite of the low phase in which it takes effect (03_mints R69). -/
structure GateEdge where
  on : Bool
  mite : Rat
deriving DecidableEq, Repr

/-- What the outside brings to a tick: the differential voltage at each input and phase (04_converters R73), the errors that arise in
Hall, each a half of a word and whether two bits of it have changed (12_hall R250), the levels on the GPIO balls, the rising edges
of TCK with TMS and TDI (20_package R410, R426), and the regulator channels that let every write fail (18_power R385). -/
structure TickIn where
  volts : Vector (Vector Int 2) 17
  flips : List (Fin 16777216 × Bool) := []
  gpio : BitVec 16 := 0
  scan : List (Bool × Bool) := []
  mute : BitVec 6 := 0
deriving DecidableEq, Repr

/-- A pad level of a Signboard link that differs from what was composed (14_signboard R308): its data pair and bit slot, in a clock
cycle of a line. -/
structure PadFlip where
  pair : Fin 4
  slot : Fin 7
  cycle : Fin 8192
  line : Fin 8192
deriving DecidableEq, Repr

/-- What the sweeps of a training find (13_dram R283, R285): the first and last passing points of every bit that is not listed, none
where it has no passing window; those of the bits that are listed, by rate, subchannel, target and bit; and whether the devices say that
they support RFM (R282). -/
structure Training where
  eye : Option (Nat × Nat) := some (0, 1023)
  bits : List (Nat × Option (Nat × Nat)) := []
  rfm : Bool := false
deriving DecidableEq, Repr

/-- What REF_ABSENT reports (03_mints R65): a reference without edges for 64 periods, or phase errors above the
threshold on some Mints for 64 periods. -/
inductive RefLoss
  | noEdges (cp0 : Bool)
  | overThreshold (mints : List (Fin 5))
deriving DecidableEq, Repr

/-- The pins of a tally port (R34). -/
inductive TallyPin | a | b | z
deriving DecidableEq, Repr

/-- The reply codes of STATUS[3:0] (16_barter R341). -/
inductive Code
  | ok | badOpcode | badParam | stopLocked | notAdmitted | dependentRunning | busyRetry | range | noData | imageError
  | internal
deriving DecidableEq, Repr

/-- The number of a reply code (R341). -/
def Code.num : Code → Nat
  | .ok => 0 | .badOpcode => 1 | .badParam => 2 | .stopLocked => 3 | .notAdmitted => 4 | .dependentRunning => 5
  | .busyRetry => 6 | .range => 7 | .noData => 8 | .imageError => 9 | .internal => 15

/-- The coefficients of a slice (05_calibration R102); the INL entries that are not zero, by entry number. -/
structure Coef where
  ofs : Int := 0
  gain : Int := 0
  skew : Int := 0
  bw : Int := 0
  inl : List (Nat × Int) := []
deriving DecidableEq, Repr

/-- What an access finds in a half of a Hall word (R250): its check bits are not modelled, so a command that reads says what they
show (DESIGN CHOICE, log entry 14). -/
inductive Ecc | clean | corrected | uncorrectable
deriving DecidableEq, Repr

/-- The errors in the ten symbols of a codeword of record memory as a burst reads it, symbol i in bits [8i+7:8i]: what differs from
the codeword that was written (R287). -/
abbrev SymbolErrors := BitVec 80

/-- What the decoder finds in a codeword of record memory (R287). -/
inductive Codeword | clean | corrected (symbol : Fin 10) | uncorrectable
deriving DecidableEq, Repr

/-- A received Crier frame (15_crier R314): its content, its CRC byte, whether it holds a code violation, and the arrival of
its comma on the chronicle in sixteenths of a mite. -/
structure CrierFrame where
  w : Quad
  crc : Byte
  violation : Bool := false
  arrival : Nat := 0
deriving DecidableEq, Repr

/-- What the device learns of its flash by SFDP (17_image R357): the density in bytes, 1-4-4 fast read with a quad-enable
method, the 4-byte Address Instruction Table, the sector size, and the times of a sector erase and of a page program in
mites. -/
structure Sfdp where
  density : Nat
  quad : Bool
  addr4 : Bool
  sector : Nat
  eraseMites : Nat
  pageMites : Nat
deriving DecidableEq, Repr

/-- What the power manager reads from a regulator (18_power R385): STATUS_WORD, READ_VOUT and READ_IOUT, each none where its
transaction and the retry fail. -/
structure Telemetry where
  status : Option (BitVec 16) := none
  vout : Option (BitVec 16) := none
  iout : Option (BitVec 16) := none
deriving DecidableEq, Repr

end Sys2Proof.Machine
end

