-- ==== Sys2Proof/Syntax.lean ====
section
/-! DEFINITION. The commands of the device: one constructor for each row of the opcode table. -/

namespace Sys2Proof

open Machine

/-- A command. -/
inductive Instr
  /-- PING (R338): A PING request is answered with the chronicle and the device nonce in force, and a PING with a
    differing nonce does not touch the replay window. -/
  | ping (body : List Byte)
  /-- RENEW (R338): A PING with the RENEW flag draws a new device nonce, empties the replay window and replies with
    RENEWED set. -/
  | renew (body : List Byte)
  /-- READ_PARAM (R346): Reads up to 64 parameters in the order listed, one item per tick, each with its own reply
    code. -/
  | readParam (body : List Byte)
  /-- WRITE_PARAM (R346): Writes up to 64 parameters in the order listed, one item per tick; a failing item does not
    stop later ones. -/
  | writeParam (body : List Byte)
  /-- PARAM_WRITE (R9): One write to a register that has no row of its own, judged field by field for access class,
    stop-lock and range. -/
  | paramWrite (n : BitVec 16) (w : Word)
  /-- STOP_FN (R28): Stops a function unless a running function depends on it; a stall in POST closes its segment
    under R181. -/
  | stopFn (body : List Byte)
  /-- START_FN (R24): Starts a function after the dependency, parameter and budget checks, bringing its stop-locked
    values into force together. -/
  | startFn (body : List Byte)
  /-- FETCH_HDR (R348): Returns consecutive segment headers of a stall's ring, stopping at the first slot whose SEGNO
    does not match. -/
  | fetchHdr (body : List Byte)
  /-- FETCH_SEG (R348): Returns a byte range of a segment's data area after checking that the slot has not been
    overwritten. -/
  | fetchSeg (body : List Byte)
  /-- FETCH_MEAS (R348): Returns entries of a stall's measurement ledger together with HEAD and TOTAL. -/
  | fetchMeas (body : List Byte)
  /-- FETCH_TILE (R244): Returns a 16 by 16 tile of a Steelyard map, from the live map or from the snapshot. -/
  | fetchTile (body : List Byte)
  /-- UPLOAD_OVERLAY (R349): Writes whole Hall words of an overlay buffer inside a LAYER region with OWNER = 2. -/
  | uploadOverlay (body : List Byte)
  /-- ACK_ATTN (R344): Clears the masked attention items if the attention number equals ASEQ; otherwise replies
    RANGE. -/
  | ackAttn (body : List Byte)
  /-- CONSIGN (R351): Queues a Wharf consignment of segments, a map, a ledger or a log to a given UDP destination. -/
  | consign (body : List Byte)
  /-- IMAGE_WRITE (R350): Passes image pages to the flash, erasing a sector first at a sector boundary, and refuses
    writes to the running slot. -/
  | imageWrite (body : List Byte)
  /-- IMAGE_COMMIT (R377): Checks a slot and, if it is valid and not already preferred, writes a new directory record
    naming it. -/
  | imageCommit (body : List Byte)
  /-- TOLL_READ (R397): Returns a run of toll counters, all latched in the same tick. -/
  | tollRead (body : List Byte)
  /-- LOG_READ (R401): Returns entries of the error log or of the DRAM error log, with head and total. -/
  | logRead (body : List Byte)
  /-- RESET_REQUEST (R350): With the confirmation word 0x5253, replies and then schedules an internal reset 1 ms
    after the reply. -/
  | resetRequest (body : List Byte)
  /-- BARTER_FRAME_RECEIVED (R337): A received UDP frame on port 47742 is authenticated, checked against the nonce
    and window, and either registered, resent or counted as a stranger. -/
  | barterFrameReceived (frame : List Byte)
  /-- ARP_REQUEST (R334): An ARP request for BTR_IP is answered with an ARP reply. -/
  | arpRequest (frame : List Byte)
  /-- ICMP_ECHO (R334): An ICMP echo request to BTR_IP is answered with an echo reply carrying the same data. -/
  | icmpEcho (frame : List Byte)
  /-- REQUEST_DEADLINE (R340): A request whose execution has not begun 900 ms after registration is answered
    BUSY_RETRY without effect. -/
  | requestDeadline
  /-- PLCA_FALLBACK (R333): When the PLCA status stops being OK, the device transmits under CSMA/CD and counts toll
    246. -/
  | plcaFallback
  /-- PLCA_RESTORE (R333): When the PLCA status is OK again, the device returns to PLCA transmission. -/
  | plcaRestore
  /-- FRAME_ABANDONED (R333): A frame is abandoned after 16 collision attempts under CSMA/CD, counting toll 247. -/
  | frameAbandoned
  /-- WHARF_LINK_UP (R351): The Wharf lane gains block lock with hi_ber false, and the link becomes UP. -/
  | wharfLinkUp
  /-- WHARF_LINK_LOSS (R354): The Wharf link leaves UP; the consignment in progress and the queued one are abandoned.
    -/
  | wharfLinkLoss
  /-- WHARF_CHUNK (R353): One 1,024-byte chunk of the consignment stream is sent as a UDP datagram, in ascending
    chunk order. -/
  | wharfChunk
  /-- LAUNCH_ARM (R55): Writing ARM = 1 latches a slot's target and direction, clears FIRED and LATE, and fires at
    once with LATE if the target lies just behind. -/
  | launchArm (k : Fin 64) (ctrl : Word)
  /-- LAUNCH_DISARM (R55): Writing ARM = 0 disarms a launch slot. -/
  | launchDisarm (k : Fin 64) (ctrl : Word)
  /-- LAUNCH_SLOT_FIRE (R56): A slot's target is crossed; the slot sets FIRED and its BELL, TOUT, START, SNAP and CRY
    actions take effect in the next tick. -/
  | launchSlotFire (k : Fin 64)
  /-- TOUT_PULSE_RISE (R56): A TRIG_OUT pin rises 40 ticks after the crossing instant of a firing with TOUT. -/
  | toutPulseRise (pin : Fin 4)
  /-- TOUT_PULSE_FALL (R56): A TRIG_OUT pin falls 16 ticks after its rising edge. -/
  | toutPulseFall (pin : Fin 4)
  /-- TALLY_SNAP_READ (R58): A read of TLY_SNAP_PLO latches the snapshot turns, chronicle and speed of the same tick.
    -/
  | tallySnapRead
  /-- CHRON_READ (R71): A read of MNT_CHRON_LO latches MNT_CHRON_HI and MNT_CHRON_ERA of the same tick. -/
  | chronRead
  /-- LASTSEG_READ (R199): A read of STLn_LASTSEG_LO latches STLn_LASTSEG_HI of the same tick. -/
  | lastsegRead (n : Fin 16)
  /-- YARD_SNAP_READ (R242): A read of YRDk_SNAP_CLO latches the other three snapshot registers of the same tick. -/
  | yardSnapRead (k : Fin 8)
  /-- FLIP_READ (R304): A read of SGN_FLIP_CLO latches the other three flip registers of the same tick. -/
  | flipRead
  /-- CRY_OFS_READ (R321): A read of CRY_OFS_LO latches the rest of the Crier chronicle offset. -/
  | cryOfsRead
  /-- W1C_CLEAR (R10): Writing 1 to a W1C bit clears it, unless the event that sets the bit falls in the same tick.
    -/
  | w1cClear (n : BitVec 16) (w : Word)
  /-- STALL_WINDOW_ACCESS (R130): An access to STLn_WIN_DATA reaches the descriptor or coefficient word at ADDR and
    increments ADDR; a write is ignored while the stall runs. -/
  | stallWindowAccess (n : Fin 16) (write : Option Word)
  /-- SIEVE_WINDOW_ACCESS (R207): An access to SIV_WIN_DATA reaches a coefficient word and increments ADDR; a write
    to a bank in use is ignored. -/
  | sieveWindowAccess (write : Option Word)
  /-- MEAS_SLOT_WINDOW_ACCESS (R229): An access to STLn_MS_DATA reaches a measurement-slot word and increments ADDR;
    words 0 and 1 are locked while the stall runs. -/
  | measSlotWindowAccess (n : Fin 16) (write : Option Word)
  /-- PALETTE_WINDOW_ACCESS (R303): An access to SGN_PAL_DATA reaches a shadow palette entry and increments
    SGN_PAL_ADDR. -/
  | paletteWindowAccess (write : Option Word)
  /-- ELOG_DATA_READ (R291): A read of DRM_ELOG_DATA returns the selected DRAM log word and advances WORD, carrying
    into ENTRY. -/
  | elogDataRead
  /-- LOG_DATA_READ (R401): A read of LOG_DATA returns the selected error-log word and advances WORD, carrying into
    ENTRY. -/
  | logDataRead
  /-- BANK_REQUEST (R210): Writing SIV_CHn_BANK.REQ requests a coefficient bank, giving a swap, a fade, or a queued
    request. -/
  | bankRequest (n : Fin 16) (w : Word)
  /-- SIV_SYNC (R213): Writing SIV_SYNC requests a synchronising reset of the named Sieve channels from the next
    tick's samples. -/
  | sivSync (w : Word)
  /-- YARD_CLEAR (R243): Writing YRDk_CTRL.CLEAR starts a clear of the map by SWAP64 operations in ascending address.
    -/
  | yardClear (k : Fin 8)
  /-- YARD_SNAP (R242): A snapshot freezes the map as of the snapshot tick and starts a copy to the snapshot region.
    -/
  | yardSnap (k : Fin 8)
  /-- SGN_COMMIT (R304): Writing SGN_COMMIT marks shadow groups pending, so that they come into force at the next
    latch. -/
  | sgnCommit (w : Word)
  /-- TRAINING_GO (R286): Writing DRM_TR_CTRL.GO starts a training-helper sweep on a frozen subchannel. -/
  | trainingGo (w : Word)
  /-- TRAINING_DELAY_WRITE (R286): Writing DRM_TR_DDATA sets a selected delay, refused on a subchannel that is not
    frozen. -/
  | trainingDelayWrite (w : Word)
  /-- TRAINING_SWEEP_DONE (R286): A training sweep completes, recording the first and last passing points in
    DRM_TR_RES and setting DONE. -/
  | trainingSweepDone (c : Fin 8) (reads : List (List (BitVec 640))) (counts : Vector (List Nat) 40)
  /-- OTP_PROGRAM (R367): Writing 0x4F54 to IMG_OTP_CTRL.KEY programs fuses into the selected OTP word, subject to
    the refusal rules. -/
  | otpProgram
  /-- OTP_PROGRAM_DONE (R367): OTP programming finishes within 2 ms and BUSY clears. -/
  | otpProgramDone
  /-- ROLLBACK_ADVANCE (R368): Writing IMG_ROLLBACK.ADVANCE blows counter fuses up to the running image's ROLLBACK
    level. -/
  | rollbackAdvance
  /-- REGIME_REQUEST_FULL (R388): Writing REQ = FULL requests a change to FULL, which completes within 1 ms while
    every function keeps running. -/
  | regimeRequestFull (admitLean : Bool) (wakeTo : Bool)
  /-- REGIME_REQUEST_LEAN (R389): Writing REQ = LEAN is checked against the LEAN DRAM total, then changes regime or
    is refused with RANGE. -/
  | regimeRequestLean (admitLean : Bool) (wakeTo : Bool)
  /-- REGIME_REQUEST_WATCH (R391): Writing REQ = WATCH is checked for Watch-store overlap and training, and entry
    begins 1 ms after the reply. -/
  | regimeRequestWatch (admitLean : Bool) (wakeTo : Bool)
  /-- REGIME_CHANGE (R388): A change between FULL and LEAN switches the Mint S divider, the coefficient set and the
    DRAM rate. -/
  | regimeChange
  /-- HALL_FREEZE_WRITE (R266): A write to HAL_FREEZEj freezes or unfreezes Hall arbiters, refused while stalls, maps
    or the Sieve run. -/
  | hallFreezeWrite (j : Fin 8) (w : Word)
  /-- DRAM_FREEZE_WRITE (R266): A write to ARB_DFREEZE freezes or unfreezes DRAM subchannel arbiters, refused while
    any stall runs. -/
  | dramFreezeWrite (w : Word)
  /-- REF_SELECT_WRITE (R61): A write of MNT_REF.SEL changes the Mint reference, which is a relock under R66. -/
  | refSelectWrite (w : Word)
  /-- TALLY_COUNT_EDGE (R34): A QUAD or PULSE edge is stamped, filtered and registered as a count measurement for the
    tracking loop. -/
  | tallyCountEdge (port : Fin 4) (a : Bool) (b : Bool) (stamp : Nat)
  /-- TALLY_MEASUREMENT (R43): A count, SINCOS phase pair, MAINS crossing or Crier TALLY frame updates the tracking
    loop and the tally state. -/
  | tallyMeasurement
  /-- TALLY_INDEX (R49): A rising TPn_Z edge homes the tally, shifts its count frame, or causes a rejoin beyond
    tolerance. -/
  | tallyIndex (port : Fin 4) (level : Bool) (stamp : Nat)
  /-- LOSS_INTERVAL_EXPIRY (R45): No measurement arrives within TLY_LOSS_FACTOR times the expected interval; the
    tally switches to the fallback port or begins coasting. -/
  | lossIntervalExpiry
  /-- STILL_TIME_EXPIRY (R45): TLY_STILL_TIME passes without an edge, sending TRACKING to STILL or REACQUIRING back
    to LOST. -/
  | stillTimeExpiry
  /-- COAST_MAX_EXPIRY (R45): TLY_COAST_MAX passes while coasting; the tally becomes LOST with its position frozen.
    -/
  | coastMaxExpiry
  /-- VAON_POWER_UP (R70): VAON is applied; the chronicle, era, retirement records and calibration coefficients start
    from their initial values. -/
  | vaonPowerUp
  /-- RESET_N_ASSERT (R430): RESET_N is asserted; non-always-on state returns to reset, while the Mints, chronicle
    and always-on records are kept. -/
  | resetNAssert
  /-- RESET_N_RELEASE (R383): RESET_N is released; the power manager sequences the rails and start-up begins. -/
  | resetNRelease
  /-- INTERNAL_RESET (R350): 1 ms after the RESET_REQUEST reply, the device acts as if RESET_N had been asserted and
    released. -/
  | internalReset
  /-- MINT_START (R430): A Mint starts from its last or factory DCO word and enters PULLING or HOLDOVER. -/
  | mintStart (m : Fin 5)
  /-- REF_ABSENT (R65): After 64 reference periods without an edge or above the threshold, each running Mint enters
    HOLDOVER with its word frozen. -/
  | refAbsent (loss : RefLoss) (words : Vector Dco 5)
  /-- REF_QUALIFIED (R66): The selected reference is qualified after 1,024 good periods, and each held Mint enters
    PULLING. -/
  | refQualified (cp0 : Bool)
  /-- PULLING_FREQ_SETTLED (R66): A pulling Mint's frequency error reaches zero and its phase detector is re-zeroed.
    -/
  | pullingFreqSettled (m : Fin 5) (word : Dco)
  /-- MINT_LOCK (R66): After 1,024 consecutive good periods the Mint returns to LOCKED, and CLOCK_HOLD may clear. -/
  | mintLock (m : Fin 5)
  /-- RELIEF_SETTLED (R78): The relief slice's 256-tick settling after a move ends, and its output becomes usable. -/
  | reliefSettled
  /-- REFEREE_WINDOW_END (R83): A referee window ends; the slice is judged clean or suspect, and the relief slice
    stays, moves on or starts a witness window. -/
  | refereeWindowEnd
  /-- WITNESS_WINDOW_END (R85): A witness window ends and either the suspect live slice or the relief slice is
    retired. -/
  | witnessWindowEnd
  /-- CAL_SHADOW_END (R107): The handover shadow ends; a handover to the relief slice is registered, or the slice is
    skipped. -/
  | calShadowEnd
  /-- CAL_SUBSTEP_END (R105): A tone sub-step of the dwell ends and the next sub-step begins. -/
  | calSubstepEnd
  /-- CAL_DWELL_END (R106): The calibration dwell ends and the 1,024-tick check begins. -/
  | calDwellEnd
  /-- CAL_CHECK_END (R108): The candidate coefficients are accepted or discarded, and the slice is reconnected to its
    input. -/
  | calCheckEnd (candidate : Coef)
  /-- CAL_RETURN_SETTLED (R106): The returned slice's 256 ticks of settling end and verification begins. -/
  | calReturnSettled
  /-- CAL_VERIFY_END (R109): Verification ends; the handback and coefficient step are registered, or the candidate is
    discarded. -/
  | calVerifyEnd (residuals : Rat × Rat)
  /-- CAL_RESTORE_SETTLED (R109): After a failed verification and 256 ticks of settling, the handback is registered
    with the old coefficients. -/
  | calRestoreSettled
  /-- RELIEF_SELFCAL_END (R112): The relief slice's own calibration ends and its candidate is accepted or rejected.
    -/
  | reliefSelfcalEnd (candidate : Coef) (skews : Vector Int 16)
  /-- CAL_INTERVAL_EXPIRY (R113): In STEADY, CAL_INTERVAL elapses and the next calibration begins. -/
  | calIntervalExpiry
  /-- CAL_AUX_PERIOD_EXPIRY (R120): CAL_AUX_PERIOD elapses; a full auxiliary calibration begins, or toll 27 is
    counted if the last is unfinished. -/
  | calAuxPeriodExpiry
  /-- AUX_CAL_COMPLETE (R122): The 64th fragment completes, and the new offset and gain are accepted or rejected. -/
  | auxCalComplete (ofs : Int) (gain : Nat)
  /-- AUX_PERIOD_START (R94): An AUX_SEQ_PERIOD start begins the regular sequence, or is skipped if the previous
    sequence is still running. -/
  | auxPeriodStart
  /-- AUX_CONVERSION_END (R98): An auxiliary conversion completes; its result is written, watched and used, and the
    next conversion is chosen. -/
  | auxConversionEnd (raw : Int)
  /-- AUX_WARMUP_DONE (R95): The 500-tick start-up delay of a powered-down auxiliary converter ends and acquisition
    begins. -/
  | auxWarmupDone
  /-- AUX_INJECT_REQUEST (R96): An injection source requests a conversion, which becomes pending or is dropped if one
    is already pending. -/
  | auxInjectRequest (source : Fin 19)
  /-- AUX_WATCH_TIMER (R96): AUX_WATCH_PERIOD elapses and injection source 17 requests a conversion. -/
  | auxWatchTimer
  /-- PM_MONITOR_ROUND (R96): Each millisecond the power manager requests its round of temperature and supply
    conversions. -/
  | pmMonitorRound
  /-- WGH_TEST_PERIOD_EXPIRY (R140): WGH_TEST_PERIOD elapses; the next weigher is selected for self-test, with a
    migration if needed, or the test is postponed. -/
  | wghTestPeriodExpiry
  /-- MIGRATION_COPY_DONE (R139): A migration's copy completes; the working state transfers at the next block
    boundary. -/
  | migrationCopyDone
  /-- MIGRATION_SWITCH (R139): After the 64-tick transfer, the destination weigher takes the source's place in the
    merge. -/
  | migrationSwitch
  /-- WGH_TEST_DONE (R140): A 262,144-tick self-test ends; the weigher becomes free or is retired. -/
  | wghTestDone (pass : Bool)
  /-- WGH_HANG (R142): A weigher has made no progress for WGH_HANG_LIMIT ticks; the watchdog resets it. -/
  | wghHang (w : Fin 68)
  /-- HUNG_CHAIN_RESTART (R142): A hung chain restarts with cleared state on a free weigher, or in place, at the next
    block boundary. -/
  | hungChainRestart (w : Fin 68)
  /-- TRIG_IN_EDGE (R153): An edge on a TRIG_IN pin is stamped and placed as a Bell condition. -/
  | trigInEdge (pin : Fin 4) (level : Bool) (stamp : Nat)
  /-- BELL_ADVANCE (R157): At an ARMED sample, ADV with QUAL moves the sequence to NEXT, applying the entry effects.
    -/
  | bellAdvance (n : Fin 16)
  /-- BELL_RESET (R157): An RST condition returns the sequence to state 0. -/
  | bellReset (n : Fin 16)
  /-- BELL_TIMER_EXPIRY (R159): A Bell timer's span elapses and its expiry event falls on that sample. -/
  | bellTimerExpiry (n : Fin 16) (k : Fin 2)
  /-- AUTO_TRIGGER (R167): The auto span elapses in a tick without an accepted trigger, and a FORCED trigger is made
    at the tick's last sample. -/
  | autoTrigger (n : Fin 16)
  /-- HOLDOFF_ELAPSED (R162): The holdoff elapses and, with any prefill met, the Bell becomes ARMED. -/
  | holdoffElapsed (n : Fin 16)
  /-- REARM_END (R146): STLn_BEL_REARM ticks have elapsed, and the next segment buffer begins. -/
  | rearmEnd (n : Fin 16)
  /-- BELL_DECISION (R165): The trigger decision is registered 24 or 56 ticks later, and CRY, LAUNCH and linked-Bell
    events issue. -/
  | bellDecision (n : Fin 16)
  /-- SEGMENT_CLOSE (R181): A segment closes at its last sample and receives its number; measurements and the ledger
    group are formed and the data are written. -/
  | segmentClose (n : Fin 16)
  /-- MERGE_READ_DONE (R278): The merge read of a partial final burst completes and the merged burst is written. -/
  | mergeReadDone (n : Fin 16) (found : Vector SymbolErrors 8)
  /-- HEADER_WRITE_DONE (R199): A segment header write completes; STLn_LASTSEG, SEG_READY and any measurement-limit
    effects are set. -/
  | headerWriteDone (n : Fin 16)
  /-- SIEVE_INPUT (R204): A chain output is taken by the Sieve and filtered through the channel's sections, taking
    any swap, fade step or reset. -/
  | sieveInput
  /-- SIEVE_OUTPUT_RELEASE (R208): A filtered output is released to the staging FIFO at its fixed offset from the
    input tick. -/
  | sieveOutputRelease
  /-- YARD_RUN_ADD (R238): After a run ends and its trigger is decided, its adds are issued as saturating ADD32
    operations to the map. -/
  | yardRunAdd (n : Fin 16)
  /-- DECAY_PERIOD_START (R241): A decay period begins; a sweep starts, or it is skipped if a sweep is still running.
    -/
  | decayPeriodStart (k : Fin 8)
  /-- DECAY_SWEEP_DONE (R241): A decay sweep finishes visiting every word of the map. -/
  | decaySweepDone (k : Fin 8)
  /-- SNAP_COPY_DONE (R242): The snapshot copy finishes and COPYING clears. -/
  | snapCopyDone (k : Fin 8)
  /-- CLEAR_DONE (R243): A map clear finishes and CLEARING clears. -/
  | clearDone (k : Fin 8)
  /-- HALL_READ (R247): A bank executes a granted read of one word, correcting single-bit errors. -/
  | hallRead (port : Fin 26) (addr : BitVec 27) (e0 : Ecc) (e1 : Ecc)
  /-- HALL_WRITE (R247): A bank executes a granted write of one or both halves of a word. -/
  | hallWrite (port : Fin 26) (addr : BitVec 27) (h0 : Bool) (h1 : Bool) (w : BitVec 128)
  /-- ADD32_WRAPPING (R248): A bank adds four 32-bit addends to selected lanes modulo 2^32. -/
  | add32Wrapping (port : Fin 26) (addr : BitVec 27) (mask : BitVec 4) (adds : Vector Word 4) (ret : Bool) (e0 : Ecc) (e1 : Ecc)
  /-- ADD32_SATURATING (R248): A bank adds four unsigned 32-bit addends to selected lanes with saturation. -/
  | add32Saturating (port : Fin 26) (addr : BitVec 27) (mask : BitVec 4) (adds : Vector Word 4) (ret : Bool) (e0 : Ecc) (e1 : Ecc)
  /-- SWAP32 (R248): A bank replaces selected 32-bit lanes and returns the old word. -/
  | swap32 (port : Fin 26) (addr : BitVec 27) (mask : BitVec 4) (vals : Vector Word 4) (e0 : Ecc) (e1 : Ecc)
  /-- SWAP64 (R248): A bank replaces selected 64-bit halves and returns the old word. -/
  | swap64 (port : Fin 26) (addr : BitVec 27) (h0 : Bool) (h1 : Bool) (vals : Vector Quad 2) (e0 : Ecc) (e1 : Ecc)
  /-- SCRUB_STEP (R251): The scrubber reads, corrects and writes back one Hall word within one slot. -/
  | scrubStep (e0 : Ecc) (e1 : Ecc)
  /-- HALL_SCRUB_PERIOD (R251): A Hall scrub period ends; toll 166 is counted if the pass has not ended. -/
  | hallScrubPeriod
  /-- HALL_REQUEST (R258): A port presents a Hall or DRAM request, which is granted, becomes a claim, or is parked.
    -/
  | hallRequest (arb : Fin 269) (port : Fin 26) (held : Bool) (work : List (BitVec 38)) (background : Bool)
  /-- DRAM_BURST (R277): The controller issues one BL16 burst from a class queue to the DRAM, decoding ECC on reads.
    -/
  | dramBurst (owner : Fin 4) (addr : BitVec 38) (write : Option (BitVec 512)) (scrub : Bool) (found : Vector SymbolErrors 8)
  /-- SR_ENTRY (R280): After DRM_IDLE_SR idle ticks, a subchannel precharges, issues SRE and gates its clocks. -/
  | srEntry (c : Fin 8)
  /-- SR_EXIT (R280): A request to a subchannel in self-refresh ungates its clocks and issues SRX. -/
  | srExit (c : Fin 8)
  /-- SR_EXIT_DONE (R280): tXS_DLL elapses after SRX and the first command may be issued. -/
  | srExitDone (c : Fin 8)
  /-- REFRESH_DUE (R279): A refresh interval falls due and REFab or REFsb commands are issued. -/
  | refreshDue (c : Fin 8)
  /-- MR4_READ (R279): The controller reads MR4 and sets the refresh rate accordingly. -/
  | mr4Read (code : Fin 3)
  /-- HAMMER_MITIGATION (R282): A row's activate count reaches DRM_HAMMER_TH and its neighbours are refreshed. -/
  | hammerMitigation (c : Fin 8) (bank : Fin 64) (row : Nat)
  /-- HAMMER_WINDOW_END (R282): The 32 ms refresh window ends and every hammer table is cleared. -/
  | hammerWindowEnd
  /-- RETRAIN_STEP (R284): One continuous retraining step adjusts a lane delay in a MAINT cycle. -/
  | retrainStep (c : Fin 8) (dqs : Bool) (lane : Fin 5) (delays : Option (Vector (BitVec 10) 8))
  /-- DRAM_SCRUB_PERIOD (R289): A DRAM scrub period ends; toll 195 is counted if the pass has not ended. -/
  | dramScrubPeriod (c : Fin 8)
  /-- HEADER_REWRITE (R290): An ECC error found in a written slot leads the Clerk to rewrite its header with an ECC
    flag, or to count toll 202. -/
  | headerRewrite (found : Vector SymbolErrors 8)
  /-- SIGNBOARD_LATCH (R296): The first line of vertical blanking begins; the frame count advances, pending commits
    flip, CRC checks resolve and an L1 fill starts. -/
  | signboardLatch (even0 : List PadFlip) (odd0 : List PadFlip) (even1 : List PadFlip) (odd1 : List PadFlip)
  /-- L1_FILL_DONE (R300): An L1 plot fill completes and is shown from the frame after the next latch. -/
  | l1FillDone
  /-- CRIER_PORT_SYNC (R316): A port achieves comma alignment and 1,024 clean symbols and enters SYNC. -/
  | crierPortSync (p : Fin 4)
  /-- IDLE_FRAME (R312): A received IDLE frame brings a downstream port UP or reveals a miswire or ring. -/
  | idleFrame (p : Fin 4) (f : CrierFrame)
  /-- TALLY_FRAME (R322): A received TALLY frame updates the chronicle offset, the lead in force and a CRIER-mode
    tally measurement. -/
  | tallyFrame (p : Fin 4) (f : CrierFrame)
  /-- CRY_PAIR (R324): A received CRY pair registers a cry and is forwarded on the other UP ports. -/
  | cryPair (p : Fin 4) (a : CrierFrame) (b : CrierFrame)
  /-- LAUNCH_PAIR (R327): A received LAUNCH pair arms a receive entry if it is addressed here, and is forwarded. -/
  | launchPair (p : Fin 4) (a : CrierFrame) (b : CrierFrame)
  /-- DELAY_REQUEST (R319): A received DELAY request is answered with TURN and ACCUM. -/
  | delayRequest (p : Fin 4) (f : CrierFrame)
  /-- DELAY_RESPONSE (R319): A DELAY response gives a hop-delay sample that updates CRY_HOP or is discarded. -/
  | delayResponse (p : Fin 4) (f : CrierFrame)
  /-- DELAY_REQUEST_DUE (R319): Every CRY_DELAY.PER cycles CP0 sends a DELAY request. -/
  | delayRequestDue
  /-- DELAY_UNANSWERED (R319): A DELAY request has no answer within 16 cycles, counting toll 239. -/
  | delayUnanswered
  /-- CRIER_LINK_LOSS (R316): A port loses commas or frames beyond the limit and goes DOWN, discarding its queues. -/
  | crierLinkLoss (p : Fin 4) (commas : Bool)
  /-- CRIER_ENTRY_FIRE (R327): An armed receive entry's target is crossed; its actions take effect and the entry is
    freed. -/
  | crierEntryFire (e : Fin 16)
  /-- RAIL_SETTLED (R383): A rail has stayed in its window for 1 ms and the next enable pin is raised. -/
  | railSettled
  /-- RAIL_TIMEOUT (R383): A rail fails to reach regulation within 20 ms; every enable pin is lowered and a retry is
    scheduled. -/
  | railTimeout
  /-- SEQUENCE_RETRY (R383): One second after a failed sequence, the rail sequence begins again. -/
  | sequenceRetry
  /-- BROWN_OUT (R384): A rail that should be on stays outside its window for more than 1 ms; every enable except
    PEN3 is lowered for 1 s. -/
  | brownOut
  /-- BROWN_OUT_RESTART (R384): After the 1 s hold, the rails and the start-up are run again as after a RESET_N
    release. -/
  | brownOutRestart
  /-- PM_ALERT (R385): PM_ALERT_N is asserted and each regulator's STATUS_WORD is read. -/
  | pmAlert (words : Vector (Option (BitVec 16)) 6)
  /-- PMBUS_POLL (R385): Every 100 ms the master reads the STATUS_WORD, READ_VOUT and READ_IOUT of each regulator. -/
  | pmbusPoll (words : Vector Telemetry 6)
  /-- VCORE_ADAPT (R386): Each millisecond the VCORE command moves by at most 5 mV according to the speed monitors.
    -/
  | vcoreAdapt (up : Option Bool)
  /-- TEMP_READING (R394): TJ is refreshed, and may set THERMAL or force LEAN or WATCH. -/
  | tempReading (sensor : Fin 12) (tj : BitVec 16)
  /-- THERMAL_RECOVERY (R394): TJ has stayed below 110 °C for 10 s, and the regime returns to REQ. -/
  | thermalRecovery
  /-- WATCH_ENTRY (R390): Functions are stopped, the Watch store is written, DRAM enters self-refresh, Mints stop and
    rails switch off. -/
  | watchEntry
  /-- WAKE_EVENT (R392): An enabled wake source fires in WATCH and the wake sequence begins. -/
  | wakeEvent (source : Fin 5)
  /-- WAKE_COMPLETE (R393): Rails, Mints, DRAM retrain and Watch-store restore finish, and the recorded functions are
    restarted. -/
  | wakeComplete (training : Machine.Training) (intact : Bool)
  /-- STARTUP (R370): The device reads the OTP, SFDP and directory, checks and applies an image slot, trains memory
    and starts the named functions. -/
  | startup (sfdp : Option Sfdp) (reread : List (Nat × Byte)) (training : Machine.Training)
  /-- FLASH_OPERATION_DONE (R377): The flash reports a program or erase complete, and the IMAGE_WRITE reply is sent.
    -/
  | flashOperationDone
  /-- TICK (R43): Each core-clock period (each REFCLK period in WATCH) advances the chronicle, runs the tally loop
    and broadcast, and carries the tick's samples through correction, Bell comparators, chains and the Hall arbiters.
    -/
  | tick (pins : Machine.TickIn)
  /-- CAL_TONE_SETTLED (R106): The 256 ticks after the slice under calibration is connected to the tone end, and the
    dwell's zero sub-step begins. -/
  | calToneSettled
  /-- SR_ENTRY_DONE (R280): Self-refresh entry completes with the clocks gated, and an exit follows at once if a
    request was parked during entry. -/
  | srEntryDone (c : Fin 8)
  /-- CRIER_TRANSMIT_CYCLE (R315): Every 64 ticks a Crier port begins a transmit cycle, sending TALLY or IDLE in slot
    0 and queued pairs, DELAY frames or IDLE in slots 1 and 2; the root puts its lead into force when it sends PH 7.
    -/
  | crierTransmitCycle (p : Fin 4)
  /-- VAON_REMOVAL (R89): VAON is removed, clearing the chronicle, retirement records, calibration coefficients and
    toll counters with everything else. -/
  | vaonRemoval
deriving DecidableEq, Repr

end Sys2Proof
end

