-- ==== Sys2Proof/Decode.lean ====
section
/-! DEFINITION. The words of the command table. The table gives its rows no bits: a command reaches the device as an event, a
register access, or a request in a frame, whose bytes the field link takes apart (Machine/Barter.lean). -/

namespace Sys2Proof

/-- The command that a word spells by the table's bits: none, as no row has any. -/
def decodeTableWord (_nbits _w : Nat) : Option Instr := none

end Sys2Proof
end

