-- ==== Sys2Proof/Config.lean ====
section
/-! DEFINITION. What an implementation fixes and what the spec leaves open: constants with no body, of which nothing can
be proved, so that a claim holds whatever they are. -/

namespace Sys2Proof

/-- FREE VALUE (DESIGN CHOICE, log entry 7): the values the spec calls random or leaves open, by the number of the draw. -/
opaque Config.freeValue : Nat → Nat

/-- The part of 2π beyond its first 30 decimals, in 2^-32 of the last of them, as the tracking loop uses it (02_tally R43;
DEDUCED, log entry 8). -/
opaque Config.twoPiTail : Fin 4294967296

/-- The factory-trimmed free-running word of each DCO of each Mint (03_mints R62; DESIGN CHOICE, log entry 12). -/
opaque Config.factoryDco : Fin 5 → Fin 2 → BitVec 32

/-- The frequency step of one unit of a DCO's word in ppm (03_mints R66; DESIGN CHOICE, log entry 12). -/
opaque Config.dcoStep : Fin 5 → Fin 2 → Rat

/-- FREE VALUE: whether the reference lies below the frequency of a Mint that began pulling at a chronicle mite (03_mints R66;
DESIGN CHOICE, log entry 12). -/
opaque Config.pullsDown : Fin 5 → Nat → Bool

/-- FREE VALUE: where in its period, in 2^-32 of it, a Mint's output has its next low phase at a chronicle mite (03_mints R69; DESIGN
CHOICE, log entry 86). -/
opaque Config.lowPhase : Fin 5 → Nat → Fin 4294967296

/-- FREE VALUE: whether a reference that has been absent, or not yet seen, registers edges again at a chronicle mite (03_mints R60;
DESIGN CHOICE, log entry 86). -/
opaque Config.edgesBack : Bool → Nat → Bool

/-- Whether a quotient whose rounding the spec does not state is rounded up (DESIGN CHOICE, log entry 22). -/
opaque Config.roundsUp : Rat → Bool

/-- The cubic Farrow interpolation of four consecutive inputs at a fraction of the middle interval (06_weighers R132; log
entry 9). -/
opaque Config.farrow : Int → Int → Int → Int → Rat → Rat

/-- FREE VALUE: the instruction that bits shifted into the TAP, the last first, select where they are not all ones: true for the
boundary-scan cells (20_package R426; DESIGN CHOICE, log entry 84). -/
opaque Config.scanInstr : List Bool → Bool

/-- DEV_REV: silicon revision and firmware (19_tolls R404). DESIGN CHOICE (log entry 12). -/
opaque Config.devRev : BitVec 32

/-- The serial number, and the factory MAC with its byte 0 in the low bits (19_tolls R404). -/
opaque Config.serial : BitVec 64
opaque Config.factoryMac : BitVec 48

end Sys2Proof
end

