-- ==== Sys2Proof/Machine/Regs.lean ====
section
/-! DEFINITION. The parameter table: every register of the block index (R403) with its fields, transcribed from
the field tables of the spec. `R.X` is a register (its number, and how its instances are laid out), `F.X_Y` the field
Y of register X. A register `STL_...` has one instance per stall, 0x100 apart; k counts the instances inside a block. -/

namespace Sys2Proof.Machine

/-- The access classes of R8. -/
inductive Acc | lv | sl | im | ro | w1c
deriving DecidableEq, Repr

/-- The values a field admits when it is written (R429). -/
inductive Range
  /-- every value of the field's width -/
  | any
  /-- a value inside one of the intervals, bounds included -/
  | inside (iv : List (Nat × Nat))
  /-- a multiple of `m` from `lo` to `hi` -/
  | multiple (lo hi m : Nat)
  /-- the tally time format (R51) -/
  | tallyTime
  /-- the Bell span format (R172); whether zero is admitted, and how many units are: 4, or 5 with events -/
  | span (zero : Bool) (units : Nat)
  /-- `n` codes of `w` bits, each inside one of the intervals -/
  | packed (n w : Nat) (iv : List (Nat × Nat))
deriving DecidableEq, Repr

/-- One field of a register: its place, its access class, its reset value, the values it admits. -/
structure FieldDef where
  lo : Nat
  width : Nat
  acc : Acc
  reset : Nat
  range : Range
deriving DecidableEq, Repr

/-- One register with all its instances: number `base + stride * k`, and `+ 0x100 * n` for stall n. -/
structure RegDef where
  name : String
  base : Nat
  stride : Nat
  count : Nat
  perStall : Bool
  fields : List FieldDef
deriving DecidableEq, Repr

/-- The number of instance k (of stall n) of a register. -/
def RegDef.num (r : RegDef) (k : Nat := 0) (n : Nat := 0) : Nat :=
  r.base + r.stride * k + (if r.perStall then 0x100 * n else 0)

/-- Where one field of a register stands. -/
structure Fld where
  base : Nat
  stride : Nat
  perStall : Bool
  lo : Nat
  width : Nat
deriving DecidableEq, Repr

/-- The parameter number of the field's register, instance k (of stall n). -/
def Fld.num (f : Fld) (k : Nat := 0) (n : Nat := 0) : Nat :=
  f.base + f.stride * k + (if f.perStall then 0x100 * n else 0)

/-- A bit range of a word, as a number. -/
def bitsOf (w : Word) (lo width : Nat) : Nat := (w.toNat >>> lo) % 2 ^ width

/-- The field's value in a word. -/
def Fld.get (f : Fld) (w : Word) : Nat := bitsOf w f.lo f.width

/-- A word holding only this field. -/
def Fld.put (f : Fld) (v : Nat) : Word := BitVec.ofNat 32 ((v % 2 ^ f.width) <<< f.lo)

/-- DEV_ID, after R404. -/
def R.DEV_ID : RegDef :=
  { name := "DEV_ID", base := 0x0000, stride := 0, count := 1, perStall := false, fields := [
    ⟨0, 16, .ro, 0x4016, .any⟩,
    ⟨16, 16, .ro, 0x5459, .any⟩] }
def F.DEV_ID_PART : Fld := ⟨0x0000, 0, false, 0, 16⟩
def F.DEV_ID_VENDOR : Fld := ⟨0x0000, 0, false, 16, 16⟩
/-- DEV_REV, after R404. -/
def R.DEV_REV : RegDef :=
  { name := "DEV_REV", base := 0x0001, stride := 0, count := 1, perStall := false, fields := [
    ⟨0, 8, .ro, 0, .any⟩,
    ⟨8, 8, .ro, 0, .any⟩,
    ⟨16, 8, .ro, 0, .any⟩] }
def F.DEV_REV_SILICON : Fld := ⟨0x0001, 0, false, 0, 8⟩
def F.DEV_REV_FW_MAJOR : Fld := ⟨0x0001, 0, false, 8, 8⟩
def F.DEV_REV_FW_MINOR : Fld := ⟨0x0001, 0, false, 16, 8⟩
/-- DEV_SERIAL_LO, after R404. -/
def R.DEV_SERIAL_LO : RegDef :=
  { name := "DEV_SERIAL_LO", base := 0x0002, stride := 0, count := 1, perStall := false, fields := [
    ⟨0, 32, .ro, 0, .any⟩] }
def F.DEV_SERIAL_LO_SLO : Fld := ⟨0x0002, 0, false, 0, 32⟩
/-- DEV_SERIAL_HI, after R404. -/
def R.DEV_SERIAL_HI : RegDef :=
  { name := "DEV_SERIAL_HI", base := 0x0003, stride := 0, count := 1, perStall := false, fields := [
    ⟨0, 32, .ro, 0, .any⟩] }
def F.DEV_SERIAL_HI_SHI : Fld := ⟨0x0003, 0, false, 0, 32⟩
/-- DEV_FMAC_LO, after R404. -/
def R.DEV_FMAC_LO : RegDef :=
  { name := "DEV_FMAC_LO", base := 0x0004, stride := 0, count := 1, perStall := false, fields := [
    ⟨0, 32, .ro, 0, .any⟩] }
def F.DEV_FMAC_LO_MACL : Fld := ⟨0x0004, 0, false, 0, 32⟩
/-- DEV_FMAC_HI, after R404. -/
def R.DEV_FMAC_HI : RegDef :=
  { name := "DEV_FMAC_HI", base := 0x0005, stride := 0, count := 1, perStall := false, fields := [
    ⟨0, 16, .ro, 0, .any⟩] }
def F.DEV_FMAC_HI_MACH : Fld := ⟨0x0005, 0, false, 0, 16⟩
/-- DEV_TMASKj, after R400. -/
def R.DEV_TMASK : RegDef :=
  { name := "DEV_TMASKj", base := 0x0010, stride := 1, count := 5, perStall := false, fields := [
    ⟨0, 32, .lv, 0, .any⟩] }
def F.DEV_TMASK_MASK : Fld := ⟨0x0010, 1, false, 0, 32⟩
/-- DEV_TMASK5, after R400. -/
def R.DEV_TMASK5 : RegDef :=
  { name := "DEV_TMASK5", base := 0x0015, stride := 1, count := 2, perStall := false, fields := [
    ⟨0, 32, .lv, 1, .any⟩] }
def F.DEV_TMASK5_MASK : Fld := ⟨0x0015, 1, false, 0, 32⟩
/-- DEV_TMASK7, after R400. -/
def R.DEV_TMASK7 : RegDef :=
  { name := "DEV_TMASK7", base := 0x0017, stride := 0, count := 1, perStall := false, fields := [
    ⟨0, 32, .lv, 0x10000, .any⟩] }
def F.DEV_TMASK7_MASK : Fld := ⟨0x0017, 0, false, 0, 32⟩
/-- MNT_REF, after R430. -/
def R.MNT_REF : RegDef :=
  { name := "MNT_REF", base := 0x0100, stride := 0, count := 1, perStall := false, fields := [
    ⟨0, 1, .lv, 0, .any⟩,
    ⟨1, 1, .lv, 1, .any⟩,
    ⟨2, 1, .ro, 0, .any⟩,
    ⟨3, 1, .ro, 0, .any⟩] }
def F.MNT_REF_SEL : Fld := ⟨0x0100, 0, false, 0, 1⟩
def F.MNT_REF_AUTO : Fld := ⟨0x0100, 0, false, 1, 1⟩
def F.MNT_REF_REF_OK : Fld := ⟨0x0100, 0, false, 2, 1⟩
def F.MNT_REF_CP0_OK : Fld := ⟨0x0100, 0, false, 3, 1⟩
/-- MNT_LOCK_TH, after R68. -/
def R.MNT_LOCK_TH : RegDef :=
  { name := "MNT_LOCK_TH", base := 0x0101, stride := 0, count := 1, perStall := false, fields := [
    ⟨0, 11, .lv, 0xfa, .inside [(20, 2000)]⟩] }
def F.MNT_LOCK_TH_TH : Fld := ⟨0x0101, 0, false, 0, 11⟩
/-- MNT_P_FREQ, after R63. -/
def R.MNT_P_FREQ : RegDef :=
  { name := "MNT_P_FREQ", base := 0x0102, stride := 0, count := 1, perStall := false, fields := [
    ⟨0, 32, .sl, 0x497e7400, .inside [(400000000, 1792000000)]⟩] }
def F.MNT_P_FREQ_FREQ : Fld := ⟨0x0102, 0, false, 0, 32⟩
/-- MNT_STATE, after R68. -/
def R.MNT_STATE : RegDef :=
  { name := "MNT_STATE", base := 0x0103, stride := 0, count := 1, perStall := false, fields := [
    ⟨0, 2, .ro, 0, .any⟩,
    ⟨2, 2, .ro, 0, .any⟩,
    ⟨4, 2, .ro, 0, .any⟩,
    ⟨6, 2, .ro, 0, .any⟩,
    ⟨8, 2, .ro, 0, .any⟩,
    ⟨10, 1, .ro, 0, .any⟩] }
def F.MNT_STATE_S : Fld := ⟨0x0103, 0, false, 0, 2⟩
def F.MNT_STATE_C : Fld := ⟨0x0103, 0, false, 2, 2⟩
def F.MNT_STATE_M : Fld := ⟨0x0103, 0, false, 4, 2⟩
def F.MNT_STATE_L : Fld := ⟨0x0103, 0, false, 6, 2⟩
def F.MNT_STATE_P : Fld := ⟨0x0103, 0, false, 8, 2⟩
def F.MNT_STATE_ACTIVE : Fld := ⟨0x0103, 0, false, 10, 1⟩
/-- MNT_HOLD_LO, after R68. -/
def R.MNT_HOLD_LO : RegDef :=
  { name := "MNT_HOLD_LO", base := 0x0104, stride := 0, count := 1, perStall := false, fields := [
    ⟨0, 32, .ro, 0, .any⟩] }
def F.MNT_HOLD_LO_HOLD : Fld := ⟨0x0104, 0, false, 0, 32⟩
/-- MNT_HOLD_HI, after R68. -/
def R.MNT_HOLD_HI : RegDef :=
  { name := "MNT_HOLD_HI", base := 0x0105, stride := 0, count := 1, perStall := false, fields := [
    ⟨0, 32, .ro, 0, .any⟩] }
def F.MNT_HOLD_HI_HOLD : Fld := ⟨0x0105, 0, false, 0, 32⟩
/-- MNT_CHRON_LO, after R71. -/
def R.MNT_CHRON_LO : RegDef :=
  { name := "MNT_CHRON_LO", base := 0x0106, stride := 0, count := 1, perStall := false, fields := [
    ⟨0, 32, .ro, 0, .any⟩] }
def F.MNT_CHRON_LO_CLO : Fld := ⟨0x0106, 0, false, 0, 32⟩
/-- MNT_CHRON_HI, after R71. -/
def R.MNT_CHRON_HI : RegDef :=
  { name := "MNT_CHRON_HI", base := 0x0107, stride := 0, count := 1, perStall := false, fields := [
    ⟨0, 32, .ro, 0, .any⟩] }
def F.MNT_CHRON_HI_CHI : Fld := ⟨0x0107, 0, false, 0, 32⟩
/-- MNT_CHRON_ERA, after R71. -/
def R.MNT_CHRON_ERA : RegDef :=
  { name := "MNT_CHRON_ERA", base := 0x0108, stride := 0, count := 1, perStall := false, fields := [
    ⟨0, 16, .ro, 0, .any⟩] }
def F.MNT_CHRON_ERA_ERA : Fld := ⟨0x0108, 0, false, 0, 16⟩
/-- TLY_SRC, after R39. -/
def R.TLY_SRC : RegDef :=
  { name := "TLY_SRC", base := 0x0200, stride := 0, count := 1, perStall := false, fields := [
    ⟨0, 2, .sl, 0, .any⟩,
    ⟨2, 1, .sl, 0, .any⟩,
    ⟨3, 2, .sl, 0, .any⟩,
    ⟨5, 1, .sl, 0, .any⟩,
    ⟨6, 1, .sl, 0, .any⟩] }
def F.TLY_SRC_PRIMARY : Fld := ⟨0x0200, 0, false, 0, 2⟩
def F.TLY_SRC_FB_EN : Fld := ⟨0x0200, 0, false, 2, 1⟩
def F.TLY_SRC_FB_PORT : Fld := ⟨0x0200, 0, false, 3, 2⟩
def F.TLY_SRC_FB_RETURN : Fld := ⟨0x0200, 0, false, 5, 1⟩
def F.TLY_SRC_PRESET : Fld := ⟨0x0200, 0, false, 6, 1⟩
/-- TLY_PRESET_LO, after R39. -/
def R.TLY_PRESET_LO : RegDef :=
  { name := "TLY_PRESET_LO", base := 0x0201, stride := 0, count := 1, perStall := false, fields := [
    ⟨0, 32, .sl, 0, .any⟩] }
def F.TLY_PRESET_LO_PRESET : Fld := ⟨0x0201, 0, false, 0, 32⟩
/-- TLY_PRESET_HI, after R39. -/
def R.TLY_PRESET_HI : RegDef :=
  { name := "TLY_PRESET_HI", base := 0x0202, stride := 0, count := 1, perStall := false, fields := [
    ⟨0, 32, .sl, 0, .any⟩] }
def F.TLY_PRESET_HI_PRESET : Fld := ⟨0x0202, 0, false, 0, 32⟩
/-- TLY_TPn_MODE, after R39. -/
def R.TLY_TP_MODE : RegDef :=
  { name := "TLY_TPn_MODE", base := 0x0204, stride := 1, count := 4, perStall := false, fields := [
    ⟨0, 3, .sl, 0, .inside [(0, 6)]⟩,
    ⟨3, 1, .sl, 0, .any⟩,
    ⟨4, 2, .sl, 0, .inside [(0, 2)]⟩,
    ⟨6, 1, .sl, 0, .any⟩,
    ⟨8, 4, .sl, 0, .any⟩,
    ⟨12, 4, .sl, 0, .any⟩,
    ⟨16, 4, .sl, 0, .any⟩,
    ⟨20, 12, .sl, 0, .any⟩] }
def F.TLY_TP_MODE_MODE : Fld := ⟨0x0204, 1, false, 0, 3⟩
def F.TLY_TP_MODE_Z_EN : Fld := ⟨0x0204, 1, false, 3, 1⟩
def F.TLY_TP_MODE_DIR : Fld := ⟨0x0204, 1, false, 4, 2⟩
def F.TLY_TP_MODE_MEDGES : Fld := ⟨0x0204, 1, false, 6, 1⟩
def F.TLY_TP_MODE_FILT : Fld := ⟨0x0204, 1, false, 8, 4⟩
def F.TLY_TP_MODE_AUX_A : Fld := ⟨0x0204, 1, false, 12, 4⟩
def F.TLY_TP_MODE_AUX_B : Fld := ⟨0x0204, 1, false, 16, 4⟩
def F.TLY_TP_MODE_MHYST : Fld := ⟨0x0204, 1, false, 20, 12⟩
/-- TLY_TPn_COUNT, after R39. -/
def R.TLY_TP_COUNT : RegDef :=
  { name := "TLY_TPn_COUNT", base := 0x0208, stride := 1, count := 4, perStall := false, fields := [
    ⟨0, 30, .sl, 0, .any⟩] }
def F.TLY_TP_COUNT_COUNT : Fld := ⟨0x0208, 1, false, 0, 30⟩
/-- TLY_BW, after R44. -/
def R.TLY_BW : RegDef :=
  { name := "TLY_BW", base := 0x020C, stride := 0, count := 1, perStall := false, fields := [
    ⟨0, 16, .lv, 0x64, .inside [(1, 50000)]⟩] }
def F.TLY_BW_BW : Fld := ⟨0x020C, 0, false, 0, 16⟩
/-- TLY_LOSS_FACTOR, after R51. -/
def R.TLY_LOSS_FACTOR : RegDef :=
  { name := "TLY_LOSS_FACTOR", base := 0x020D, stride := 0, count := 1, perStall := false, fields := [
    ⟨0, 8, .lv, 0x30, .inside [(24, 255)]⟩] }
def F.TLY_LOSS_FACTOR_FACTOR : Fld := ⟨0x020D, 0, false, 0, 8⟩
/-- TLY_STILL_TIME, after R51. -/
def R.TLY_STILL_TIME : RegDef :=
  { name := "TLY_STILL_TIME", base := 0x020E, stride := 0, count := 1, perStall := false, fields := [
    ⟨0, 32, .lv, 0x79502f9, .tallyTime⟩] }
def F.TLY_STILL_TIME_STILL : Fld := ⟨0x020E, 0, false, 0, 32⟩
/-- TLY_COAST_MAX, after R51. -/
def R.TLY_COAST_MAX : RegDef :=
  { name := "TLY_COAST_MAX", base := 0x020F, stride := 0, count := 1, perStall := false, fields := [
    ⟨0, 32, .lv, 0x61dcd65, .tallyTime⟩] }
def F.TLY_COAST_MAX_CMAX : Fld := ⟨0x020F, 0, false, 0, 32⟩
/-- TLY_REJOIN, after R51. -/
def R.TLY_REJOIN : RegDef :=
  { name := "TLY_REJOIN", base := 0x0210, stride := 0, count := 1, perStall := false, fields := [
    ⟨0, 1, .lv, 0, .any⟩,
    ⟨8, 4, .lv, 2, .inside [(2, 15)]⟩] }
def F.TLY_REJOIN_POLICY : Fld := ⟨0x0210, 0, false, 0, 1⟩
def F.TLY_REJOIN_REACQ : Fld := ⟨0x0210, 0, false, 8, 4⟩
/-- TLY_SLEW_MAX, after R51. -/
def R.TLY_SLEW_MAX : RegDef :=
  { name := "TLY_SLEW_MAX", base := 0x0211, stride := 0, count := 1, perStall := false, fields := [
    ⟨0, 32, .lv, 0x10000, .inside [(1, 2147483648)]⟩] }
def F.TLY_SLEW_MAX_SLEW : Fld := ⟨0x0211, 0, false, 0, 32⟩
/-- TLY_INDEX_TOL, after R51. -/
def R.TLY_INDEX_TOL : RegDef :=
  { name := "TLY_INDEX_TOL", base := 0x0212, stride := 0, count := 1, perStall := false, fields := [
    ⟨0, 32, .lv, 0x400000, .any⟩] }
def F.TLY_INDEX_TOL_TOL : Fld := ⟨0x0212, 0, false, 0, 32⟩
/-- TLY_INDEX_OFFSET, after R51. -/
def R.TLY_INDEX_OFFSET : RegDef :=
  { name := "TLY_INDEX_OFFSET", base := 0x0213, stride := 0, count := 1, perStall := false, fields := [
    ⟨0, 32, .sl, 0, .any⟩] }
def F.TLY_INDEX_OFFSET_ZOFS : Fld := ⟨0x0213, 0, false, 0, 32⟩
/-- TLY_CLOCK_INC, after R51. -/
def R.TLY_CLOCK_INC : RegDef :=
  { name := "TLY_CLOCK_INC", base := 0x0214, stride := 0, count := 1, perStall := false, fields := [
    ⟨0, 32, .lv, 0, .any⟩] }
def F.TLY_CLOCK_INC_INC : Fld := ⟨0x0214, 0, false, 0, 32⟩
/-- TLY_LATE_SPAN, after R57. -/
def R.TLY_LATE_SPAN : RegDef :=
  { name := "TLY_LATE_SPAN", base := 0x0215, stride := 0, count := 1, perStall := false, fields := [
    ⟨0, 32, .lv, 0x10000000, .any⟩] }
def F.TLY_LATE_SPAN_SPAN : Fld := ⟨0x0215, 0, false, 0, 32⟩
/-- TLY_LATE_MITES, after R57. -/
def R.TLY_LATE_MITES : RegDef :=
  { name := "TLY_LATE_MITES", base := 0x0216, stride := 0, count := 1, perStall := false, fields := [
    ⟨0, 32, .lv, 0x2000000, .any⟩] }
def F.TLY_LATE_MITES_MSPAN : Fld := ⟨0x0216, 0, false, 0, 32⟩
/-- TLY_STATE, after R57. -/
def R.TLY_STATE : RegDef :=
  { name := "TLY_STATE", base := 0x0220, stride := 0, count := 1, perStall := false, fields := [
    ⟨0, 3, .ro, 0, .any⟩,
    ⟨3, 2, .ro, 0, .any⟩,
    ⟨5, 1, .ro, 0, .any⟩,
    ⟨6, 1, .ro, 0, .any⟩,
    ⟨7, 1, .ro, 0, .any⟩] }
def F.TLY_STATE_STATE : Fld := ⟨0x0220, 0, false, 0, 3⟩
def F.TLY_STATE_ACTIVE : Fld := ⟨0x0220, 0, false, 3, 2⟩
def F.TLY_STATE_ON_FB : Fld := ⟨0x0220, 0, false, 5, 1⟩
def F.TLY_STATE_INDEXED : Fld := ⟨0x0220, 0, false, 6, 1⟩
def F.TLY_STATE_SLEWING : Fld := ⟨0x0220, 0, false, 7, 1⟩
/-- TLY_SNAP_PLO, after R57. -/
def R.TLY_SNAP_PLO : RegDef :=
  { name := "TLY_SNAP_PLO", base := 0x0221, stride := 0, count := 1, perStall := false, fields := [
    ⟨0, 32, .ro, 0, .any⟩] }
def F.TLY_SNAP_PLO_PLO : Fld := ⟨0x0221, 0, false, 0, 32⟩
/-- TLY_SNAP_PHI, after R57. -/
def R.TLY_SNAP_PHI : RegDef :=
  { name := "TLY_SNAP_PHI", base := 0x0222, stride := 0, count := 1, perStall := false, fields := [
    ⟨0, 32, .ro, 0, .any⟩] }
def F.TLY_SNAP_PHI_PHI : Fld := ⟨0x0222, 0, false, 0, 32⟩
/-- TLY_SNAP_CLO, after R57. -/
def R.TLY_SNAP_CLO : RegDef :=
  { name := "TLY_SNAP_CLO", base := 0x0223, stride := 0, count := 1, perStall := false, fields := [
    ⟨0, 32, .ro, 0, .any⟩] }
def F.TLY_SNAP_CLO_CLO : Fld := ⟨0x0223, 0, false, 0, 32⟩
/-- TLY_SNAP_CHI, after R57. -/
def R.TLY_SNAP_CHI : RegDef :=
  { name := "TLY_SNAP_CHI", base := 0x0224, stride := 0, count := 1, perStall := false, fields := [
    ⟨0, 32, .ro, 0, .any⟩] }
def F.TLY_SNAP_CHI_CHI : Fld := ⟨0x0224, 0, false, 0, 32⟩
/-- TLY_SNAP_SPD, after R57. -/
def R.TLY_SNAP_SPD : RegDef :=
  { name := "TLY_SNAP_SPD", base := 0x0225, stride := 0, count := 1, perStall := false, fields := [
    ⟨0, 32, .ro, 0, .any⟩] }
def F.TLY_SNAP_SPD_SPD : Fld := ⟨0x0225, 0, false, 0, 32⟩
/-- TLY_LAST_JUMP, after R57. -/
def R.TLY_LAST_JUMP : RegDef :=
  { name := "TLY_LAST_JUMP", base := 0x0226, stride := 0, count := 1, perStall := false, fields := [
    ⟨0, 32, .ro, 0, .any⟩] }
def F.TLY_LAST_JUMP_JUMP : Fld := ⟨0x0226, 0, false, 0, 32⟩
/-- TLY_INDEX_LAST, after R57. -/
def R.TLY_INDEX_LAST : RegDef :=
  { name := "TLY_INDEX_LAST", base := 0x0227, stride := 0, count := 1, perStall := false, fields := [
    ⟨0, 32, .ro, 0, .any⟩] }
def F.TLY_INDEX_LAST_ZC : Fld := ⟨0x0227, 0, false, 0, 32⟩
/-- TLY_LSk_TLO, after R57. -/
def R.TLY_LS_TLO : RegDef :=
  { name := "TLY_LSk_TLO", base := 0x0240, stride := 3, count := 64, perStall := false, fields := [
    ⟨0, 32, .lv, 0, .any⟩] }
def F.TLY_LS_TLO_TARGET : Fld := ⟨0x0240, 3, false, 0, 32⟩
/-- TLY_LSk_THI, after R57. -/
def R.TLY_LS_THI : RegDef :=
  { name := "TLY_LSk_THI", base := 0x0241, stride := 3, count := 64, perStall := false, fields := [
    ⟨0, 32, .lv, 0, .any⟩] }
def F.TLY_LS_THI_TARGET : Fld := ⟨0x0241, 3, false, 0, 32⟩
/-- TLY_LSk_CTRL, after R57. -/
def R.TLY_LS_CTRL : RegDef :=
  { name := "TLY_LSk_CTRL", base := 0x0242, stride := 3, count := 64, perStall := false, fields := [
    ⟨0, 1, .lv, 0, .any⟩,
    ⟨1, 1, .lv, 0, .any⟩,
    ⟨2, 2, .lv, 0, .inside [(0, 2)]⟩,
    ⟨4, 1, .lv, 0, .any⟩,
    ⟨5, 1, .lv, 0, .any⟩,
    ⟨6, 1, .lv, 0, .any⟩,
    ⟨7, 1, .lv, 0, .any⟩,
    ⟨8, 1, .lv, 0, .any⟩,
    ⟨9, 4, .lv, 0, .any⟩,
    ⟨13, 2, .lv, 0, .any⟩,
    ⟨15, 3, .lv, 0, .any⟩,
    ⟨24, 1, .ro, 0, .any⟩,
    ⟨25, 1, .ro, 0, .any⟩] }
def F.TLY_LS_CTRL_ARM : Fld := ⟨0x0242, 3, false, 0, 1⟩
def F.TLY_LS_CTRL_BASE : Fld := ⟨0x0242, 3, false, 1, 1⟩
def F.TLY_LS_CTRL_DIR : Fld := ⟨0x0242, 3, false, 2, 2⟩
def F.TLY_LS_CTRL_BELL : Fld := ⟨0x0242, 3, false, 4, 1⟩
def F.TLY_LS_CTRL_TOUT : Fld := ⟨0x0242, 3, false, 5, 1⟩
def F.TLY_LS_CTRL_START : Fld := ⟨0x0242, 3, false, 6, 1⟩
def F.TLY_LS_CTRL_SNAP : Fld := ⟨0x0242, 3, false, 7, 1⟩
def F.TLY_LS_CTRL_CRY : Fld := ⟨0x0242, 3, false, 8, 1⟩
def F.TLY_LS_CTRL_STALL : Fld := ⟨0x0242, 3, false, 9, 4⟩
def F.TLY_LS_CTRL_PIN : Fld := ⟨0x0242, 3, false, 13, 2⟩
def F.TLY_LS_CTRL_YARD : Fld := ⟨0x0242, 3, false, 15, 3⟩
def F.TLY_LS_CTRL_FIRED : Fld := ⟨0x0242, 3, false, 24, 1⟩
def F.TLY_LS_CTRL_LATE : Fld := ⟨0x0242, 3, false, 25, 1⟩
/-- CNV_MODE, after R78. -/
def R.CNV_MODE : RegDef :=
  { name := "CNV_MODE", base := 0x0300, stride := 0, count := 1, perStall := false, fields := [
    ⟨0, 3, .im, 4, .inside [(0, 4)]⟩] }
def F.CNV_MODE_IL : Fld := ⟨0x0300, 0, false, 0, 3⟩
/-- CNV_OVR, after R80. -/
def R.CNV_OVR : RegDef :=
  { name := "CNV_OVR", base := 0x0302, stride := 0, count := 1, perStall := false, fields := [
    ⟨0, 16, .w1c, 0, .any⟩] }
def F.CNV_OVR_OVR : Fld := ⟨0x0302, 0, false, 0, 16⟩
/-- CNV_RELIEF, after R90. -/
def R.CNV_RELIEF : RegDef :=
  { name := "CNV_RELIEF", base := 0x0303, stride := 0, count := 1, perStall := false, fields := [
    ⟨0, 2, .ro, 0, .any⟩,
    ⟨2, 4, .ro, 0, .any⟩,
    ⟨6, 2, .ro, 0, .any⟩,
    ⟨8, 1, .ro, 0, .any⟩] }
def F.CNV_RELIEF_ROLE : Fld := ⟨0x0303, 0, false, 0, 2⟩
def F.CNV_RELIEF_TARGET : Fld := ⟨0x0303, 0, false, 2, 4⟩
def F.CNV_RELIEF_SUSPECT : Fld := ⟨0x0303, 0, false, 6, 2⟩
def F.CNV_RELIEF_WITNESS : Fld := ⟨0x0303, 0, false, 8, 1⟩
/-- CNV_RETIRED, after R90. -/
def R.CNV_RETIRED : RegDef :=
  { name := "CNV_RETIRED", base := 0x0304, stride := 0, count := 1, perStall := false, fields := [
    ⟨0, 17, .ro, 0, .any⟩] }
def F.CNV_RETIRED_RET : Fld := ⟨0x0304, 0, false, 0, 17⟩
/-- CAL_MODE, after R122. -/
def R.CAL_MODE : RegDef :=
  { name := "CAL_MODE", base := 0x0400, stride := 0, count := 1, perStall := false, fields := [
    ⟨0, 2, .lv, 1, .inside [(0, 2)]⟩] }
def F.CAL_MODE_MODE : Fld := ⟨0x0400, 0, false, 0, 2⟩
/-- CAL_INTERVAL, after R122. -/
def R.CAL_INTERVAL : RegDef :=
  { name := "CAL_INTERVAL", base := 0x0401, stride := 0, count := 1, perStall := false, fields := [
    ⟨0, 32, .lv, 0x3e8, .inside [(1, 4294967295)]⟩] }
def F.CAL_INTERVAL_INT : Fld := ⟨0x0401, 0, false, 0, 32⟩
/-- CAL_DWELL, after R122. -/
def R.CAL_DWELL : RegDef :=
  { name := "CAL_DWELL", base := 0x0402, stride := 0, count := 1, perStall := false, fields := [
    ⟨0, 32, .lv, 0x2625a0, .multiple 250000 25000000 80⟩] }
def F.CAL_DWELL_DWELL : Fld := ⟨0x0402, 0, false, 0, 32⟩
/-- CAL_HANDOVER, after R122. -/
def R.CAL_HANDOVER : RegDef :=
  { name := "CAL_HANDOVER", base := 0x0403, stride := 0, count := 1, perStall := false, fields := [
    ⟨0, 5, .lv, 0x10, .inside [(10, 24)]⟩] }
def F.CAL_HANDOVER_HLOG : Fld := ⟨0x0403, 0, false, 0, 5⟩
/-- CAL_VERIFY, after R122. -/
def R.CAL_VERIFY : RegDef :=
  { name := "CAL_VERIFY", base := 0x0404, stride := 0, count := 1, perStall := false, fields := [
    ⟨0, 5, .lv, 0x10, .inside [(10, 24)]⟩] }
def F.CAL_VERIFY_VLOG : Fld := ⟨0x0404, 0, false, 0, 5⟩
/-- CAL_FREEZE, after R122. -/
def R.CAL_FREEZE : RegDef :=
  { name := "CAL_FREEZE", base := 0x0405, stride := 0, count := 1, perStall := false, fields := [
    ⟨0, 17, .lv, 0, .any⟩] }
def F.CAL_FREEZE_FRZ : Fld := ⟨0x0405, 0, false, 0, 17⟩
/-- CAL_AREF, after R122. -/
def R.CAL_AREF : RegDef :=
  { name := "CAL_AREF", base := 0x0406, stride := 0, count := 1, perStall := false, fields := [
    ⟨0, 32, .im, 0x7a120, .any⟩] }
def F.CAL_AREF_AREF : Fld := ⟨0x0406, 0, false, 0, 32⟩
/-- CAL_STATUS, after R122. -/
def R.CAL_STATUS : RegDef :=
  { name := "CAL_STATUS", base := 0x0407, stride := 0, count := 1, perStall := false, fields := [
    ⟨0, 3, .ro, 0, .any⟩,
    ⟨3, 5, .ro, 0, .any⟩,
    ⟨8, 5, .ro, 0, .any⟩,
    ⟨13, 2, .ro, 0, .any⟩,
    ⟨15, 1, .ro, 0, .any⟩,
    ⟨16, 16, .ro, 0, .any⟩] }
def F.CAL_STATUS_STEP : Fld := ⟨0x0407, 0, false, 0, 3⟩
def F.CAL_STATUS_SLICE : Fld := ⟨0x0407, 0, false, 3, 5⟩
def F.CAL_STATUS_LAST_SLICE : Fld := ⟨0x0407, 0, false, 8, 5⟩
def F.CAL_STATUS_MODE_NOW : Fld := ⟨0x0407, 0, false, 13, 2⟩
def F.CAL_STATUS_FIRST : Fld := ⟨0x0407, 0, false, 15, 1⟩
def F.CAL_STATUS_STEPS : Fld := ⟨0x0407, 0, false, 16, 16⟩
/-- CAL_QUALITY, after R122. -/
def R.CAL_QUALITY : RegDef :=
  { name := "CAL_QUALITY", base := 0x0408, stride := 0, count := 1, perStall := false, fields := [
    ⟨0, 16, .ro, 0xc000, .any⟩,
    ⟨16, 16, .ro, 0, .any⟩] }
def F.CAL_QUALITY_SPUR : Fld := ⟨0x0408, 0, false, 0, 16⟩
def F.CAL_QUALITY_SKEW_RMS : Fld := ⟨0x0408, 0, false, 16, 16⟩
/-- CAL_LASTSTEP_LO, after R122. -/
def R.CAL_LASTSTEP_LO : RegDef :=
  { name := "CAL_LASTSTEP_LO", base := 0x0409, stride := 0, count := 1, perStall := false, fields := [
    ⟨0, 32, .ro, 0, .any⟩] }
def F.CAL_LASTSTEP_LO_LO : Fld := ⟨0x0409, 0, false, 0, 32⟩
/-- CAL_LASTSTEP_HI, after R122. -/
def R.CAL_LASTSTEP_HI : RegDef :=
  { name := "CAL_LASTSTEP_HI", base := 0x040A, stride := 0, count := 1, perStall := false, fields := [
    ⟨0, 32, .ro, 0, .any⟩] }
def F.CAL_LASTSTEP_HI_HI : Fld := ⟨0x040A, 0, false, 0, 32⟩
/-- CAL_LIM_OFS, after R122. -/
def R.CAL_LIM_OFS : RegDef :=
  { name := "CAL_LIM_OFS", base := 0x0410, stride := 0, count := 1, perStall := false, fields := [
    ⟨0, 16, .lv, 0x4000, .any⟩,
    ⟨16, 16, .lv, 0x100, .any⟩] }
def F.CAL_LIM_OFS_ABS : Fld := ⟨0x0410, 0, false, 0, 16⟩
def F.CAL_LIM_OFS_STEP : Fld := ⟨0x0410, 0, false, 16, 16⟩
/-- CAL_LIM_GAIN, after R122. -/
def R.CAL_LIM_GAIN : RegDef :=
  { name := "CAL_LIM_GAIN", base := 0x0411, stride := 0, count := 1, perStall := false, fields := [
    ⟨0, 16, .lv, 0x7ae1, .any⟩,
    ⟨16, 16, .lv, 0x419, .any⟩] }
def F.CAL_LIM_GAIN_ABS : Fld := ⟨0x0411, 0, false, 0, 16⟩
def F.CAL_LIM_GAIN_STEP : Fld := ⟨0x0411, 0, false, 16, 16⟩
/-- CAL_LIM_SKEW, after R122. -/
def R.CAL_LIM_SKEW : RegDef :=
  { name := "CAL_LIM_SKEW", base := 0x0412, stride := 0, count := 1, perStall := false, fields := [
    ⟨0, 16, .lv, 0x7d0, .any⟩,
    ⟨16, 16, .lv, 0xc8, .any⟩] }
def F.CAL_LIM_SKEW_ABS : Fld := ⟨0x0412, 0, false, 0, 16⟩
def F.CAL_LIM_SKEW_STEP : Fld := ⟨0x0412, 0, false, 16, 16⟩
/-- CAL_LIM_BW, after R122. -/
def R.CAL_LIM_BW : RegDef :=
  { name := "CAL_LIM_BW", base := 0x0413, stride := 0, count := 1, perStall := false, fields := [
    ⟨0, 16, .lv, 0x4000, .any⟩,
    ⟨16, 16, .lv, 0x51f, .any⟩] }
def F.CAL_LIM_BW_ABS : Fld := ⟨0x0413, 0, false, 0, 16⟩
def F.CAL_LIM_BW_STEP : Fld := ⟨0x0413, 0, false, 16, 16⟩
/-- CAL_LIM_INL, after R122. -/
def R.CAL_LIM_INL : RegDef :=
  { name := "CAL_LIM_INL", base := 0x0414, stride := 0, count := 1, perStall := false, fields := [
    ⟨0, 8, .lv, 0x7f, .any⟩,
    ⟨8, 8, .lv, 0x20, .any⟩] }
def F.CAL_LIM_INL_ABS : Fld := ⟨0x0414, 0, false, 0, 8⟩
def F.CAL_LIM_INL_STEP : Fld := ⟨0x0414, 0, false, 8, 8⟩
/-- CAL_INL_SEL, after R122. -/
def R.CAL_INL_SEL : RegDef :=
  { name := "CAL_INL_SEL", base := 0x0418, stride := 0, count := 1, perStall := false, fields := [
    ⟨0, 5, .lv, 0, .inside [(0, 16)]⟩,
    ⟨5, 4, .lv, 0, .any⟩] }
def F.CAL_INL_SEL_SLICE : Fld := ⟨0x0418, 0, false, 0, 5⟩
def F.CAL_INL_SEL_GROUP : Fld := ⟨0x0418, 0, false, 5, 4⟩
/-- CAL_INL_DATA, after R122. -/
def R.CAL_INL_DATA : RegDef :=
  { name := "CAL_INL_DATA", base := 0x0419, stride := 0, count := 1, perStall := false, fields := [
    ⟨0, 32, .ro, 0, .any⟩] }
def F.CAL_INL_DATA_INL : Fld := ⟨0x0419, 0, false, 0, 32⟩
/-- CAL_AUX_PERIOD, after R122. -/
def R.CAL_AUX_PERIOD : RegDef :=
  { name := "CAL_AUX_PERIOD", base := 0x0420, stride := 0, count := 1, perStall := false, fields := [
    ⟨0, 32, .lv, 0x3e8, .any⟩] }
def F.CAL_AUX_PERIOD_PER : Fld := ⟨0x0420, 0, false, 0, 32⟩
/-- CAL_AUX_STAT, after R122. -/
def R.CAL_AUX_STAT : RegDef :=
  { name := "CAL_AUX_STAT", base := 0x0421, stride := 0, count := 1, perStall := false, fields := [
    ⟨0, 16, .ro, 0, .any⟩,
    ⟨16, 1, .ro, 0, .any⟩,
    ⟨17, 7, .ro, 0, .any⟩] }
def F.CAL_AUX_STAT_ROUNDS : Fld := ⟨0x0421, 0, false, 0, 16⟩
def F.CAL_AUX_STAT_ACTIVE : Fld := ⟨0x0421, 0, false, 16, 1⟩
def F.CAL_AUX_STAT_FRAG : Fld := ⟨0x0421, 0, false, 17, 7⟩
/-- CAL_AUX_INT, after R122. -/
def R.CAL_AUX_INT : RegDef :=
  { name := "CAL_AUX_INT", base := 0x0422, stride := 0, count := 1, perStall := false, fields := [
    ⟨0, 16, .ro, 0, .any⟩,
    ⟨16, 16, .ro, 0, .any⟩] }
def F.CAL_AUX_INT_OFS : Fld := ⟨0x0422, 0, false, 0, 16⟩
def F.CAL_AUX_INT_GAIN : Fld := ⟨0x0422, 0, false, 16, 16⟩
/-- CAL_CHECK_WINDOW, after R90. -/
def R.CAL_CHECK_WINDOW : RegDef :=
  { name := "CAL_CHECK_WINDOW", base := 0x0440, stride := 0, count := 1, perStall := false, fields := [
    ⟨0, 5, .lv, 0x10, .inside [(10, 24)]⟩] }
def F.CAL_CHECK_WINDOW_WLOG : Fld := ⟨0x0440, 0, false, 0, 5⟩
/-- CAL_PLAUS_LIMIT, after R90. -/
def R.CAL_PLAUS_LIMIT : RegDef :=
  { name := "CAL_PLAUS_LIMIT", base := 0x0441, stride := 0, count := 1, perStall := false, fields := [
    ⟨0, 16, .lv, 0x100, .inside [(1, 65535)]⟩] }
def F.CAL_PLAUS_LIMIT_LIMIT : Fld := ⟨0x0441, 0, false, 0, 16⟩
/-- CAL_REFEREE, after R90. -/
def R.CAL_REFEREE : RegDef :=
  { name := "CAL_REFEREE", base := 0x0442, stride := 0, count := 1, perStall := false, fields := [
    ⟨0, 16, .ro, 0, .any⟩,
    ⟨16, 4, .ro, 0, .any⟩,
    ⟨20, 1, .ro, 0, .any⟩,
    ⟨21, 1, .ro, 0, .any⟩] }
def F.CAL_REFEREE_MAD : Fld := ⟨0x0442, 0, false, 0, 16⟩
def F.CAL_REFEREE_SLICE : Fld := ⟨0x0442, 0, false, 16, 4⟩
def F.CAL_REFEREE_SUSP : Fld := ⟨0x0442, 0, false, 20, 1⟩
def F.CAL_REFEREE_WIT : Fld := ⟨0x0442, 0, false, 21, 1⟩
/-- CAL_CSk_OFS, after R122. -/
def R.CAL_CS_OFS : RegDef :=
  { name := "CAL_CSk_OFS", base := 0x0450, stride := 4, count := 17, perStall := false, fields := [
    ⟨0, 16, .ro, 0, .any⟩] }
def F.CAL_CS_OFS_OFS : Fld := ⟨0x0450, 4, false, 0, 16⟩
/-- CAL_CSk_GAIN, after R122. -/
def R.CAL_CS_GAIN : RegDef :=
  { name := "CAL_CSk_GAIN", base := 0x0451, stride := 4, count := 17, perStall := false, fields := [
    ⟨0, 16, .ro, 0, .any⟩] }
def F.CAL_CS_GAIN_G : Fld := ⟨0x0451, 4, false, 0, 16⟩
/-- CAL_CSk_SKEW, after R122. -/
def R.CAL_CS_SKEW : RegDef :=
  { name := "CAL_CSk_SKEW", base := 0x0452, stride := 4, count := 17, perStall := false, fields := [
    ⟨0, 16, .ro, 0, .any⟩] }
def F.CAL_CS_SKEW_SKEW : Fld := ⟨0x0452, 4, false, 0, 16⟩
/-- CAL_CSk_BW, after R122. -/
def R.CAL_CS_BW : RegDef :=
  { name := "CAL_CSk_BW", base := 0x0453, stride := 4, count := 17, perStall := false, fields := [
    ⟨0, 16, .ro, 0, .any⟩] }
def F.CAL_CS_BW_BW : Fld := ⟨0x0453, 4, false, 0, 16⟩
/-- CAL_RSKp, after R122. -/
def R.CAL_RSK : RegDef :=
  { name := "CAL_RSKp", base := 0x04A0, stride := 1, count := 16, perStall := false, fields := [
    ⟨0, 16, .ro, 0, .any⟩] }
def F.CAL_RSK_SKEW : Fld := ⟨0x04A0, 1, false, 0, 16⟩
/-- AUX_SEQ_LEN, after R100. -/
def R.AUX_SEQ_LEN : RegDef :=
  { name := "AUX_SEQ_LEN", base := 0x0500, stride := 0, count := 1, perStall := false, fields := [
    ⟨0, 6, .sl, 0, .inside [(0, 32)]⟩] }
def F.AUX_SEQ_LEN_LEN : Fld := ⟨0x0500, 0, false, 0, 6⟩
/-- AUX_SEQ_PERIOD, after R100. -/
def R.AUX_SEQ_PERIOD : RegDef :=
  { name := "AUX_SEQ_PERIOD", base := 0x0501, stride := 0, count := 1, perStall := false, fields := [
    ⟨0, 32, .sl, 0, .any⟩] }
def F.AUX_SEQ_PERIOD_PERIOD : Fld := ⟨0x0501, 0, false, 0, 32⟩
/-- AUX_KEEP_WARM, after R100. -/
def R.AUX_KEEP_WARM : RegDef :=
  { name := "AUX_KEEP_WARM", base := 0x0502, stride := 0, count := 1, perStall := false, fields := [
    ⟨0, 20, .lv, 0x271, .any⟩] }
def F.AUX_KEEP_WARM_KW : Fld := ⟨0x0502, 0, false, 0, 20⟩
/-- AUX_PAIR, after R100. -/
def R.AUX_PAIR : RegDef :=
  { name := "AUX_PAIR", base := 0x0503, stride := 0, count := 1, perStall := false, fields := [
    ⟨0, 8, .sl, 0, .any⟩] }
def F.AUX_PAIR_PAIR : Fld := ⟨0x0503, 0, false, 0, 8⟩
/-- AUX_WATCH_PERIOD, after R100. -/
def R.AUX_WATCH_PERIOD : RegDef :=
  { name := "AUX_WATCH_PERIOD", base := 0x0505, stride := 0, count := 1, perStall := false, fields := [
    ⟨0, 32, .lv, 0, .any⟩] }
def F.AUX_WATCH_PERIOD_WP : Fld := ⟨0x0505, 0, false, 0, 32⟩
/-- AUX_SEQn, after R100. -/
def R.AUX_SEQ : RegDef :=
  { name := "AUX_SEQn", base := 0x0510, stride := 1, count := 32, perStall := false, fields := [
    ⟨0, 6, .sl, 0, .any⟩] }
def F.AUX_SEQ_CHAN : Fld := ⟨0x0510, 1, false, 0, 6⟩
/-- AUX_INJn, after R100. -/
def R.AUX_INJ : RegDef :=
  { name := "AUX_INJn", base := 0x0530, stride := 1, count := 16, perStall := false, fields := [
    ⟨0, 6, .lv, 0, .any⟩,
    ⟨6, 1, .lv, 0, .any⟩] }
def F.AUX_INJ_CHAN : Fld := ⟨0x0530, 1, false, 0, 6⟩
def F.AUX_INJ_EN : Fld := ⟨0x0530, 1, false, 6, 1⟩
/-- AUX_INJ16, after R100. -/
def R.AUX_INJ16 : RegDef :=
  { name := "AUX_INJ16", base := 0x0540, stride := 0, count := 1, perStall := false, fields := [
    ⟨0, 6, .lv, 0, .any⟩,
    ⟨6, 1, .lv, 0, .any⟩,
    ⟨8, 6, .lv, 0, .any⟩] }
def F.AUX_INJ16_CHAN : Fld := ⟨0x0540, 0, false, 0, 6⟩
def F.AUX_INJ16_EN : Fld := ⟨0x0540, 0, false, 6, 1⟩
def F.AUX_INJ16_SLOT : Fld := ⟨0x0540, 0, false, 8, 6⟩
/-- AUX_INJ17, after R100. -/
def R.AUX_INJ17 : RegDef :=
  { name := "AUX_INJ17", base := 0x0541, stride := 0, count := 1, perStall := false, fields := [
    ⟨0, 6, .lv, 0, .any⟩,
    ⟨6, 1, .lv, 0, .any⟩] }
def F.AUX_INJ17_CHAN : Fld := ⟨0x0541, 0, false, 0, 6⟩
def F.AUX_INJ17_EN : Fld := ⟨0x0541, 0, false, 6, 1⟩
/-- AUX_CORn, after R100. -/
def R.AUX_COR : RegDef :=
  { name := "AUX_CORn", base := 0x0550, stride := 1, count := 16, perStall := false, fields := [
    ⟨0, 16, .lv, 0, .any⟩,
    ⟨16, 16, .lv, 0x8000, .any⟩] }
def F.AUX_COR_OFFSET : Fld := ⟨0x0550, 1, false, 0, 16⟩
def F.AUX_COR_GAIN : Fld := ⟨0x0550, 1, false, 16, 16⟩
/-- AUX_RESc, after R100. -/
def R.AUX_RES : RegDef :=
  { name := "AUX_RESc", base := 0x0560, stride := 1, count := 35, perStall := false, fields := [
    ⟨0, 16, .ro, 0, .any⟩,
    ⟨16, 8, .ro, 0, .any⟩,
    ⟨24, 1, .ro, 0, .any⟩] }
def F.AUX_RES_RESULT : Fld := ⟨0x0560, 1, false, 0, 16⟩
def F.AUX_RES_COUNT : Fld := ⟨0x0560, 1, false, 16, 8⟩
def F.AUX_RES_VALID : Fld := ⟨0x0560, 1, false, 24, 1⟩
/-- AUX_WATCHk, after R100. -/
def R.AUX_WATCH : RegDef :=
  { name := "AUX_WATCHk", base := 0x0590, stride := 2, count := 8, perStall := false, fields := [
    ⟨0, 6, .lv, 0, .any⟩,
    ⟨6, 1, .lv, 0, .any⟩,
    ⟨7, 1, .lv, 1, .any⟩,
    ⟨8, 4, .lv, 1, .inside [(1, 15)]⟩,
    ⟨12, 1, .lv, 0, .any⟩,
    ⟨13, 2, .lv, 0, .any⟩] }
def F.AUX_WATCH_CHAN : Fld := ⟨0x0590, 2, false, 0, 6⟩
def F.AUX_WATCH_EN : Fld := ⟨0x0590, 2, false, 6, 1⟩
def F.AUX_WATCH_OUTSIDE : Fld := ⟨0x0590, 2, false, 7, 1⟩
def F.AUX_WATCH_COUNT : Fld := ⟨0x0590, 2, false, 8, 4⟩
def F.AUX_WATCH_WAKE : Fld := ⟨0x0590, 2, false, 12, 1⟩
def F.AUX_WATCH_ATTN : Fld := ⟨0x0590, 2, false, 13, 2⟩
/-- AUX_WATCHk_TH, after R100. -/
def R.AUX_WATCH_TH : RegDef :=
  { name := "AUX_WATCHk_TH", base := 0x0591, stride := 2, count := 8, perStall := false, fields := [
    ⟨0, 16, .lv, 0, .any⟩,
    ⟨16, 16, .lv, 0xffff, .any⟩] }
def F.AUX_WATCH_TH_LOW : Fld := ⟨0x0591, 2, false, 0, 16⟩
def F.AUX_WATCH_TH_HIGH : Fld := ⟨0x0591, 2, false, 16, 16⟩
/-- AUX_WATCH_STAT, after R100. -/
def R.AUX_WATCH_STAT : RegDef :=
  { name := "AUX_WATCH_STAT", base := 0x05A0, stride := 0, count := 1, perStall := false, fields := [
    ⟨0, 8, .w1c, 0, .any⟩,
    ⟨8, 8, .ro, 0, .any⟩] }
def F.AUX_WATCH_STAT_TRIP : Fld := ⟨0x05A0, 0, false, 0, 8⟩
def F.AUX_WATCH_STAT_NOW : Fld := ⟨0x05A0, 0, false, 8, 8⟩
/-- WGH_TEST_PERIOD, after R143. -/
def R.WGH_TEST_PERIOD : RegDef :=
  { name := "WGH_TEST_PERIOD", base := 0x0600, stride := 0, count := 1, perStall := false, fields := [
    ⟨0, 16, .lv, 0x3c, .any⟩] }
def F.WGH_TEST_PERIOD_PER : Fld := ⟨0x0600, 0, false, 0, 16⟩
/-- WGH_HANG_LIMIT, after R143. -/
def R.WGH_HANG_LIMIT : RegDef :=
  { name := "WGH_HANG_LIMIT", base := 0x0601, stride := 0, count := 1, perStall := false, fields := [
    ⟨0, 16, .lv, 0x1000, .inside [(512, 65535)]⟩] }
def F.WGH_HANG_LIMIT_LIM : Fld := ⟨0x0601, 0, false, 0, 16⟩
/-- WGH_POOL, after R143. -/
def R.WGH_POOL : RegDef :=
  { name := "WGH_POOL", base := 0x0602, stride := 0, count := 1, perStall := false, fields := [
    ⟨0, 7, .ro, 0x44, .any⟩,
    ⟨8, 7, .ro, 0, .any⟩,
    ⟨16, 7, .ro, 0x44, .any⟩,
    ⟨23, 1, .ro, 0, .any⟩,
    ⟨24, 7, .ro, 0x40, .any⟩] }
def F.WGH_POOL_HEALTHY : Fld := ⟨0x0602, 0, false, 0, 7⟩
def F.WGH_POOL_ASSIGNED : Fld := ⟨0x0602, 0, false, 8, 7⟩
def F.WGH_POOL_FREE : Fld := ⟨0x0602, 0, false, 16, 7⟩
def F.WGH_POOL_SPARE_LOW : Fld := ⟨0x0602, 0, false, 23, 1⟩
def F.WGH_POOL_LIMIT : Fld := ⟨0x0602, 0, false, 24, 7⟩
/-- WGH_TEST, after R143. -/
def R.WGH_TEST : RegDef :=
  { name := "WGH_TEST", base := 0x0603, stride := 0, count := 1, perStall := false, fields := [
    ⟨0, 7, .ro, 0, .any⟩,
    ⟨7, 1, .ro, 0, .any⟩,
    ⟨8, 7, .ro, 0, .any⟩,
    ⟨15, 1, .ro, 0, .any⟩,
    ⟨16, 16, .ro, 0, .any⟩] }
def F.WGH_TEST_NEXT : Fld := ⟨0x0603, 0, false, 0, 7⟩
def F.WGH_TEST_RUNNING : Fld := ⟨0x0603, 0, false, 7, 1⟩
def F.WGH_TEST_LAST : Fld := ⟨0x0603, 0, false, 8, 7⟩
def F.WGH_TEST_FAIL : Fld := ⟨0x0603, 0, false, 15, 1⟩
def F.WGH_TEST_TESTS : Fld := ⟨0x0603, 0, false, 16, 16⟩
/-- WGH_RETIRED0, after R143. -/
def R.WGH_RETIRED0 : RegDef :=
  { name := "WGH_RETIRED0", base := 0x0604, stride := 0, count := 1, perStall := false, fields := [
    ⟨0, 32, .ro, 0, .any⟩] }
def F.WGH_RETIRED0_RET : Fld := ⟨0x0604, 0, false, 0, 32⟩
/-- WGH_RETIRED1, after R143. -/
def R.WGH_RETIRED1 : RegDef :=
  { name := "WGH_RETIRED1", base := 0x0605, stride := 0, count := 1, perStall := false, fields := [
    ⟨0, 32, .ro, 0, .any⟩] }
def F.WGH_RETIRED1_RET : Fld := ⟨0x0605, 0, false, 0, 32⟩
/-- WGH_RETIRED2, after R143. -/
def R.WGH_RETIRED2 : RegDef :=
  { name := "WGH_RETIRED2", base := 0x0606, stride := 0, count := 1, perStall := false, fields := [
    ⟨0, 4, .ro, 0, .any⟩] }
def F.WGH_RETIRED2_RET : Fld := ⟨0x0606, 0, false, 0, 4⟩
/-- WGH_OWNk, after R143. -/
def R.WGH_OWN : RegDef :=
  { name := "WGH_OWNk", base := 0x0610, stride := 1, count := 68, perStall := false, fields := [
    ⟨0, 4, .ro, 0, .any⟩,
    ⟨4, 3, .ro, 0, .any⟩,
    ⟨8, 6, .ro, 0, .any⟩] }
def F.WGH_OWN_STALL : Fld := ⟨0x0610, 1, false, 0, 4⟩
def F.WGH_OWN_ROLE : Fld := ⟨0x0610, 1, false, 4, 3⟩
def F.WGH_OWN_SHARE : Fld := ⟨0x0610, 1, false, 8, 6⟩
/-- STLn_SRC, after R125. -/
def R.STL_SRC : RegDef :=
  { name := "STLn_SRC", base := 0x1000, stride := 0, count := 1, perStall := true, fields := [
    ⟨0, 1, .sl, 0, .any⟩,
    ⟨1, 4, .sl, 0, .any⟩,
    ⟨8, 4, .sl, 0, .any⟩,
    ⟨12, 3, .sl, 0, .any⟩,
    ⟨16, 1, .sl, 0, .any⟩] }
def F.STL_SRC_KIND : Fld := ⟨0x1000, 0, true, 0, 1⟩
def F.STL_SRC_CHAN : Fld := ⟨0x1000, 0, true, 1, 4⟩
def F.STL_SRC_FROM : Fld := ⟨0x1000, 0, true, 8, 4⟩
def F.STL_SRC_STAGE : Fld := ⟨0x1000, 0, true, 12, 3⟩
def F.STL_SRC_WAIT : Fld := ⟨0x1000, 0, true, 16, 1⟩
/-- STLn_STATE, after R127. -/
def R.STL_STATE : RegDef :=
  { name := "STLn_STATE", base := 0x1001, stride := 0, count := 1, perStall := true, fields := [
    ⟨0, 2, .ro, 0, .any⟩] }
def F.STL_STATE_STATE : Fld := ⟨0x1001, 0, true, 0, 2⟩
/-- STLn_MEAS_CTRL, after R228. -/
def R.STL_MEAS_CTRL : RegDef :=
  { name := "STLn_MEAS_CTRL", base := 0x1002, stride := 0, count := 1, perStall := true, fields := [
    ⟨0, 5, .sl, 0, .any⟩] }
def F.STL_MEAS_CTRL_REGION : Fld := ⟨0x1002, 0, true, 0, 5⟩
/-- STLn_MEAS_FAIL, after R228. -/
def R.STL_MEAS_FAIL : RegDef :=
  { name := "STLn_MEAS_FAIL", base := 0x1003, stride := 0, count := 1, perStall := true, fields := [
    ⟨0, 32, .w1c, 0, .any⟩] }
def F.STL_MEAS_FAIL_FAIL : Fld := ⟨0x1003, 0, true, 0, 32⟩
/-- STLn_MEAS_HEAD, after R228. -/
def R.STL_MEAS_HEAD : RegDef :=
  { name := "STLn_MEAS_HEAD", base := 0x1004, stride := 0, count := 1, perStall := true, fields := [
    ⟨0, 12, .ro, 0, .any⟩] }
def F.STL_MEAS_HEAD_HEAD : Fld := ⟨0x1004, 0, true, 0, 12⟩
/-- STLn_MEAS_TOTAL, after R228. -/
def R.STL_MEAS_TOTAL : RegDef :=
  { name := "STLn_MEAS_TOTAL", base := 0x1005, stride := 0, count := 1, perStall := true, fields := [
    ⟨0, 32, .ro, 0, .any⟩] }
def F.STL_MEAS_TOTAL_TOTAL : Fld := ⟨0x1005, 0, true, 0, 32⟩
/-- STLn_MS_ADDR, after R228. -/
def R.STL_MS_ADDR : RegDef :=
  { name := "STLn_MS_ADDR", base := 0x1006, stride := 0, count := 1, perStall := true, fields := [
    ⟨0, 7, .lv, 0, .any⟩] }
def F.STL_MS_ADDR_ADDR : Fld := ⟨0x1006, 0, true, 0, 7⟩
/-- STLn_MS_DATA, after R228. -/
def R.STL_MS_DATA : RegDef :=
  { name := "STLn_MS_DATA", base := 0x1007, stride := 0, count := 1, perStall := true, fields := [
    ⟨0, 32, .lv, 0, .any⟩] }
def F.STL_MS_DATA_DATA : Fld := ⟨0x1007, 0, true, 0, 32⟩
/-- STLn_FORMAT, after R195. -/
def R.STL_FORMAT : RegDef :=
  { name := "STLn_FORMAT", base := 0x1020, stride := 0, count := 1, perStall := true, fields := [
    ⟨0, 3, .sl, 1, .inside [(0, 4)]⟩,
    ⟨4, 3, .sl, 2, .inside [(0, 4)]⟩,
    ⟨8, 5, .sl, 0xa, .inside [(7, 20)]⟩] }
def F.STL_FORMAT_FMT : Fld := ⟨0x1020, 0, true, 0, 3⟩
def F.STL_FORMAT_NSHIFT : Fld := ⟨0x1020, 0, true, 4, 3⟩
def F.STL_FORMAT_CBLOG : Fld := ⟨0x1020, 0, true, 8, 5⟩
/-- STLn_SEGLEN, after R195. -/
def R.STL_SEGLEN : RegDef :=
  { name := "STLn_SEGLEN", base := 0x1021, stride := 0, count := 1, perStall := true, fields := [
    ⟨0, 32, .sl, 0x40, .inside [(2, 4294967295)]⟩] }
def F.STL_SEGLEN_SEGLEN : Fld := ⟨0x1021, 0, true, 0, 32⟩
/-- STLn_RING_BASE, after R178. -/
def R.STL_RING_BASE : RegDef :=
  { name := "STLn_RING_BASE", base := 0x1022, stride := 0, count := 1, perStall := true, fields := [
    ⟨0, 21, .sl, 0, .any⟩] }
def F.STL_RING_BASE_BASE : Fld := ⟨0x1022, 0, true, 0, 21⟩
/-- STLn_RING_SIZE, after R178. -/
def R.STL_RING_SIZE : RegDef :=
  { name := "STLn_RING_SIZE", base := 0x1023, stride := 0, count := 1, perStall := true, fields := [
    ⟨0, 22, .sl, 0, .inside [(0, 2097152)]⟩] }
def F.STL_RING_SIZE_SIZE : Fld := ⟨0x1023, 0, true, 0, 22⟩
/-- STLn_POST, after R195. -/
def R.STL_POST : RegDef :=
  { name := "STLn_POST", base := 0x1024, stride := 0, count := 1, perStall := true, fields := [
    ⟨0, 32, .sl, 0x400, .any⟩] }
def F.STL_POST_POST_LO : Fld := ⟨0x1024, 0, true, 0, 32⟩
/-- STLn_POST_HI, after R195. -/
def R.STL_POST_HI : RegDef :=
  { name := "STLn_POST_HI", base := 0x1025, stride := 0, count := 1, perStall := true, fields := [
    ⟨0, 8, .sl, 0, .any⟩] }
def F.STL_POST_HI_POST_HI : Fld := ⟨0x1025, 0, true, 0, 8⟩
/-- STLn_RING_CTRL, after R178. -/
def R.STL_RING_CTRL : RegDef :=
  { name := "STLn_RING_CTRL", base := 0x1026, stride := 0, count := 1, perStall := true, fields := [
    ⟨0, 1, .sl, 0, .any⟩,
    ⟨8, 21, .sl, 0, .inside [(0, 1048576)]⟩] }
def F.STL_RING_CTRL_POLICY : Fld := ⟨0x1026, 0, true, 0, 1⟩
def F.STL_RING_CTRL_SEGMAX : Fld := ⟨0x1026, 0, true, 8, 21⟩
/-- STLn_RING_STAT, after R178. -/
def R.STL_RING_STAT : RegDef :=
  { name := "STLn_RING_STAT", base := 0x1027, stride := 0, count := 1, perStall := true, fields := [
    ⟨0, 21, .ro, 0, .any⟩,
    ⟨24, 1, .ro, 0, .any⟩] }
def F.STL_RING_STAT_SLOTS : Fld := ⟨0x1027, 0, true, 0, 21⟩
def F.STL_RING_STAT_FULL : Fld := ⟨0x1027, 0, true, 24, 1⟩
/-- STLn_LASTSEG_LO, after R200. -/
def R.STL_LASTSEG_LO : RegDef :=
  { name := "STLn_LASTSEG_LO", base := 0x1028, stride := 0, count := 1, perStall := true, fields := [
    ⟨0, 32, .ro, 0xffffffff, .any⟩] }
def F.STL_LASTSEG_LO_LO : Fld := ⟨0x1028, 0, true, 0, 32⟩
/-- STLn_LASTSEG_HI, after R200. -/
def R.STL_LASTSEG_HI : RegDef :=
  { name := "STLn_LASTSEG_HI", base := 0x1029, stride := 0, count := 1, perStall := true, fields := [
    ⟨0, 8, .ro, 0xff, .any⟩] }
def F.STL_LASTSEG_HI_HI : Fld := ⟨0x1029, 0, true, 0, 8⟩
/-- STLn_SLOT, after R178. -/
def R.STL_SLOT : RegDef :=
  { name := "STLn_SLOT", base := 0x102A, stride := 0, count := 1, perStall := true, fields := [
    ⟨0, 32, .ro, 0, .any⟩] }
def F.STL_SLOT_LINES : Fld := ⟨0x102A, 0, true, 0, 32⟩
/-- STLn_CHAIN, after R131. -/
def R.STL_CHAIN : RegDef :=
  { name := "STLn_CHAIN", base := 0x1038, stride := 0, count := 1, perStall := true, fields := [
    ⟨0, 4, .sl, 0, .inside [(0, 8)]⟩] }
def F.STL_CHAIN_NSTAGES : Fld := ⟨0x1038, 0, true, 0, 4⟩
/-- STLn_WIN_ADDR, after R131. -/
def R.STL_WIN_ADDR : RegDef :=
  { name := "STLn_WIN_ADDR", base := 0x1039, stride := 0, count := 1, perStall := true, fields := [
    ⟨0, 9, .lv, 0, .inside [(0, 319)]⟩] }
def F.STL_WIN_ADDR_ADDR : Fld := ⟨0x1039, 0, true, 0, 9⟩
/-- STLn_WIN_DATA, after R131. -/
def R.STL_WIN_DATA : RegDef :=
  { name := "STLn_WIN_DATA", base := 0x103A, stride := 0, count := 1, perStall := true, fields := [
    ⟨0, 32, .sl, 0, .any⟩] }
def F.STL_WIN_DATA_DATA : Fld := ⟨0x103A, 0, true, 0, 32⟩
/-- STLn_LANES, after R138. -/
def R.STL_LANES : RegDef :=
  { name := "STLn_LANES", base := 0x103B, stride := 0, count := 1, perStall := true, fields := [
    ⟨0, 16, .ro, 0, .any⟩,
    ⟨16, 7, .ro, 0, .any⟩] }
def F.STL_LANES_EIGHTHS : Fld := ⟨0x103B, 0, true, 0, 16⟩
def F.STL_LANES_WGHS : Fld := ⟨0x103B, 0, true, 16, 7⟩
/-- STLn_ADMIT, after R138. -/
def R.STL_ADMIT : RegDef :=
  { name := "STLn_ADMIT", base := 0x103C, stride := 0, count := 1, perStall := true, fields := [
    ⟨0, 1, .ro, 0, .any⟩,
    ⟨1, 1, .ro, 0, .any⟩,
    ⟨2, 1, .ro, 0, .any⟩,
    ⟨3, 1, .ro, 0, .any⟩,
    ⟨4, 1, .ro, 0, .any⟩,
    ⟨16, 7, .ro, 0, .any⟩] }
def F.STL_ADMIT_LANE : Fld := ⟨0x103C, 0, true, 0, 1⟩
def F.STL_ADMIT_DRAM : Fld := ⟨0x103C, 0, true, 1, 1⟩
def F.STL_ADMIT_HALL : Fld := ⟨0x103C, 0, true, 2, 1⟩
def F.STL_ADMIT_SIEVE : Fld := ⟨0x103C, 0, true, 3, 1⟩
def F.STL_ADMIT_DEP : Fld := ⟨0x103C, 0, true, 4, 1⟩
def F.STL_ADMIT_NEED : Fld := ⟨0x103C, 0, true, 16, 7⟩
/-- STLn_BEL_CTRL, after R173. -/
def R.STL_BEL_CTRL : RegDef :=
  { name := "STLn_BEL_CTRL", base := 0x1040, stride := 0, count := 1, perStall := true, fields := [
    ⟨0, 4, .sl, 1, .inside [(1, 8)]⟩,
    ⟨4, 1, .sl, 0, .any⟩] }
def F.STL_BEL_CTRL_NSTATES : Fld := ⟨0x1040, 0, true, 0, 4⟩
def F.STL_BEL_CTRL_PREFILL_WAIT : Fld := ⟨0x1040, 0, true, 4, 1⟩
/-- STLn_BEL_REARM, after R173. -/
def R.STL_BEL_REARM : RegDef :=
  { name := "STLn_BEL_REARM", base := 0x1041, stride := 0, count := 1, perStall := true, fields := [
    ⟨0, 16, .sl, 0xa, .inside [(10, 65535)]⟩] }
def F.STL_BEL_REARM_REARM : Fld := ⟨0x1041, 0, true, 0, 16⟩
/-- STLn_BEL_HOLDOFF, after R173. -/
def R.STL_BEL_HOLDOFF : RegDef :=
  { name := "STLn_BEL_HOLDOFF", base := 0x1042, stride := 0, count := 1, perStall := true, fields := [
    ⟨0, 32, .lv, 0, .span true 5⟩] }
def F.STL_BEL_HOLDOFF_HOLD : Fld := ⟨0x1042, 0, true, 0, 32⟩
/-- STLn_BEL_HOLDSRC, after R173. -/
def R.STL_BEL_HOLDSRC : RegDef :=
  { name := "STLn_BEL_HOLDSRC", base := 0x1043, stride := 0, count := 1, perStall := true, fields := [
    ⟨0, 6, .lv, 0, .inside [(0, 1), (4, 20), (24, 63)]⟩] }
def F.STL_BEL_HOLDSRC_SRC : Fld := ⟨0x1043, 0, true, 0, 6⟩
/-- STLn_BEL_AUTO, after R173. -/
def R.STL_BEL_AUTO : RegDef :=
  { name := "STLn_BEL_AUTO", base := 0x1044, stride := 0, count := 1, perStall := true, fields := [
    ⟨0, 32, .lv, 0, .span true 4⟩] }
def F.STL_BEL_AUTO_AUTO : Fld := ⟨0x1044, 0, true, 0, 32⟩
/-- STLn_BEL_CMPk_CFG, after R173. -/
def R.STL_BEL_CMP_CFG : RegDef :=
  { name := "STLn_BEL_CMPk_CFG", base := 0x1048, stride := 2, count := 4, perStall := true, fields := [
    ⟨0, 3, .sl, 0, .inside [(0, 4)]⟩,
    ⟨4, 2, .sl, 0, .inside [(0, 2)]⟩,
    ⟨8, 6, .sl, 1, .inside [(1, 63)]⟩,
    ⟨16, 16, .lv, 0, .inside [(0, 32767)]⟩] }
def F.STL_BEL_CMP_CFG_TYPE : Fld := ⟨0x1048, 2, true, 0, 3⟩
def F.STL_BEL_CMP_CFG_POL : Fld := ⟨0x1048, 2, true, 4, 2⟩
def F.STL_BEL_CMP_CFG_SPAN : Fld := ⟨0x1048, 2, true, 8, 6⟩
def F.STL_BEL_CMP_CFG_HYST : Fld := ⟨0x1048, 2, true, 16, 16⟩
/-- STLn_BEL_CMPk_LVL, after R173. -/
def R.STL_BEL_CMP_LVL : RegDef :=
  { name := "STLn_BEL_CMPk_LVL", base := 0x1049, stride := 2, count := 4, perStall := true, fields := [
    ⟨0, 16, .lv, 0, .any⟩,
    ⟨16, 16, .lv, 0, .any⟩] }
def F.STL_BEL_CMP_LVL_A : Fld := ⟨0x1049, 2, true, 0, 16⟩
def F.STL_BEL_CMP_LVL_B : Fld := ⟨0x1049, 2, true, 16, 16⟩
/-- STLn_BEL_Sk_COND, after R173. -/
def R.STL_BEL_S_COND : RegDef :=
  { name := "STLn_BEL_Sk_COND", base := 0x1050, stride := 2, count := 8, perStall := true, fields := [
    ⟨0, 6, .sl, 0, .inside [(0, 1), (4, 20), (24, 63)]⟩,
    ⟨8, 6, .sl, 0, .inside [(0, 1), (4, 20), (24, 63)]⟩,
    ⟨16, 4, .sl, 0, .inside [(0, 8)]⟩,
    ⟨20, 1, .sl, 0, .any⟩,
    ⟨21, 3, .sl, 0, .any⟩] }
def F.STL_BEL_S_COND_ADV : Fld := ⟨0x1050, 2, true, 0, 6⟩
def F.STL_BEL_S_COND_RST : Fld := ⟨0x1050, 2, true, 8, 6⟩
def F.STL_BEL_S_COND_QUAL : Fld := ⟨0x1050, 2, true, 16, 4⟩
def F.STL_BEL_S_COND_QINV : Fld := ⟨0x1050, 2, true, 20, 1⟩
def F.STL_BEL_S_COND_NEXT : Fld := ⟨0x1050, 2, true, 21, 3⟩
/-- STLn_BEL_Sk_ACT, after R173. -/
def R.STL_BEL_S_ACT : RegDef :=
  { name := "STLn_BEL_Sk_ACT", base := 0x1051, stride := 2, count := 8, perStall := true, fields := [
    ⟨0, 1, .sl, 0, .any⟩,
    ⟨1, 1, .sl, 0, .any⟩,
    ⟨2, 1, .sl, 0, .any⟩,
    ⟨3, 1, .sl, 0, .any⟩,
    ⟨4, 1, .sl, 0, .any⟩,
    ⟨8, 2, .sl, 0, .any⟩,
    ⟨10, 6, .sl, 0, .any⟩,
    ⟨16, 4, .sl, 0, .any⟩] }
def F.STL_BEL_S_ACT_TRIGGER : Fld := ⟨0x1051, 2, true, 0, 1⟩
def F.STL_BEL_S_ACT_MARK : Fld := ⟨0x1051, 2, true, 1, 1⟩
def F.STL_BEL_S_ACT_CRY : Fld := ⟨0x1051, 2, true, 2, 1⟩
def F.STL_BEL_S_ACT_LAUNCH : Fld := ⟨0x1051, 2, true, 3, 1⟩
def F.STL_BEL_S_ACT_COUNT : Fld := ⟨0x1051, 2, true, 4, 1⟩
def F.STL_BEL_S_ACT_COUNTER : Fld := ⟨0x1051, 2, true, 8, 2⟩
def F.STL_BEL_S_ACT_SLOT : Fld := ⟨0x1051, 2, true, 10, 6⟩
def F.STL_BEL_S_ACT_CRYCH : Fld := ⟨0x1051, 2, true, 16, 4⟩
/-- STLn_BEL_CNTk_CFG, after R173. -/
def R.STL_BEL_CNT_CFG : RegDef :=
  { name := "STLn_BEL_CNTk_CFG", base := 0x1060, stride := 2, count := 4, perStall := true, fields := [
    ⟨0, 6, .sl, 0, .inside [(0, 1), (4, 20), (24, 63)]⟩,
    ⟨8, 8, .sl, 0, .any⟩,
    ⟨16, 8, .sl, 0, .any⟩] }
def F.STL_BEL_CNT_CFG_SRC : Fld := ⟨0x1060, 2, true, 0, 6⟩
def F.STL_BEL_CNT_CFG_RUNMASK : Fld := ⟨0x1060, 2, true, 8, 8⟩
def F.STL_BEL_CNT_CFG_CLRMASK : Fld := ⟨0x1060, 2, true, 16, 8⟩
/-- STLn_BEL_CNTk_TGT, after R173. -/
def R.STL_BEL_CNT_TGT : RegDef :=
  { name := "STLn_BEL_CNTk_TGT", base := 0x1061, stride := 2, count := 4, perStall := true, fields := [
    ⟨0, 16, .sl, 1, .inside [(1, 65535)]⟩,
    ⟨16, 16, .ro, 0, .any⟩] }
def F.STL_BEL_CNT_TGT_TARGET : Fld := ⟨0x1061, 2, true, 0, 16⟩
def F.STL_BEL_CNT_TGT_VALUE : Fld := ⟨0x1061, 2, true, 16, 16⟩
/-- STLn_BEL_TMRk_CFG, after R173. -/
def R.STL_BEL_TMR_CFG : RegDef :=
  { name := "STLn_BEL_TMRk_CFG", base := 0x1068, stride := 2, count := 2, perStall := true, fields := [
    ⟨0, 8, .sl, 0, .any⟩] }
def F.STL_BEL_TMR_CFG_STARTMASK : Fld := ⟨0x1068, 2, true, 0, 8⟩
/-- STLn_BEL_TMRk_DUR, after R173. -/
def R.STL_BEL_TMR_DUR : RegDef :=
  { name := "STLn_BEL_TMRk_DUR", base := 0x1069, stride := 2, count := 2, perStall := true, fields := [
    ⟨0, 32, .sl, 1, .span false 4⟩] }
def F.STL_BEL_TMR_DUR_DUR : Fld := ⟨0x1069, 2, true, 0, 32⟩
/-- STLn_BEL_TPOS_LO, after R173. -/
def R.STL_BEL_TPOS_LO : RegDef :=
  { name := "STLn_BEL_TPOS_LO", base := 0x106C, stride := 0, count := 1, perStall := true, fields := [
    ⟨0, 32, .lv, 0, .any⟩] }
def F.STL_BEL_TPOS_LO_TLO : Fld := ⟨0x106C, 0, true, 0, 32⟩
/-- STLn_BEL_TPOS_HI, after R173. -/
def R.STL_BEL_TPOS_HI : RegDef :=
  { name := "STLn_BEL_TPOS_HI", base := 0x106D, stride := 0, count := 1, perStall := true, fields := [
    ⟨0, 32, .lv, 0, .any⟩] }
def F.STL_BEL_TPOS_HI_THI : Fld := ⟨0x106D, 0, true, 0, 32⟩
/-- STLn_BEL_TPOS_CTRL, after R173. -/
def R.STL_BEL_TPOS_CTRL : RegDef :=
  { name := "STLn_BEL_TPOS_CTRL", base := 0x106E, stride := 0, count := 1, perStall := true, fields := [
    ⟨0, 2, .sl, 0, .inside [(0, 2)]⟩,
    ⟨2, 1, .sl, 0, .any⟩] }
def F.STL_BEL_TPOS_CTRL_DIR : Fld := ⟨0x106E, 0, true, 0, 2⟩
def F.STL_BEL_TPOS_CTRL_PERTURN : Fld := ⟨0x106E, 0, true, 2, 1⟩
/-- STLn_BEL_EXT, after R173. -/
def R.STL_BEL_EXT : RegDef :=
  { name := "STLn_BEL_EXT", base := 0x106F, stride := 0, count := 1, perStall := true, fields := [
    ⟨0, 4, .sl, 0, .any⟩] }
def F.STL_BEL_EXT_FALL : Fld := ⟨0x106F, 0, true, 0, 4⟩
/-- STLn_BEL_STAT, after R173. -/
def R.STL_BEL_STAT : RegDef :=
  { name := "STLn_BEL_STAT", base := 0x1070, stride := 0, count := 1, perStall := true, fields := [
    ⟨0, 3, .ro, 0, .any⟩,
    ⟨4, 3, .ro, 0, .any⟩,
    ⟨7, 1, .ro, 0, .any⟩] }
def F.STL_BEL_STAT_PHASE : Fld := ⟨0x1070, 0, true, 0, 3⟩
def F.STL_BEL_STAT_STATE : Fld := ⟨0x1070, 0, true, 4, 3⟩
def F.STL_BEL_STAT_LINKED : Fld := ⟨0x1070, 0, true, 7, 1⟩
/-- STLn_BEL_MISS, after R173. -/
def R.STL_BEL_MISS : RegDef :=
  { name := "STLn_BEL_MISS", base := 0x1071, stride := 0, count := 1, perStall := true, fields := [
    ⟨0, 16, .ro, 0, .any⟩,
    ⟨16, 16, .ro, 0, .any⟩] }
def F.STL_BEL_MISS_IGNORED : Fld := ⟨0x1071, 0, true, 0, 16⟩
def F.STL_BEL_MISS_OVERLAP : Fld := ⟨0x1071, 0, true, 16, 16⟩
/-- SIV_CTRL, after R216. -/
def R.SIV_CTRL : RegDef :=
  { name := "SIV_CTRL", base := 0x2000, stride := 0, count := 1, perStall := false, fields := [
    ⟨0, 5, .sl, 0x10, .inside [(1, 16)]⟩] }
def F.SIV_CTRL_SECTIONS : Fld := ⟨0x2000, 0, false, 0, 5⟩
/-- SIV_SYNC, after R216. -/
def R.SIV_SYNC : RegDef :=
  { name := "SIV_SYNC", base := 0x2001, stride := 0, count := 1, perStall := false, fields := [
    ⟨0, 16, .lv, 0, .any⟩] }
def F.SIV_SYNC_SYNC : Fld := ⟨0x2001, 0, false, 0, 16⟩
/-- SIV_LOAD, after R216. -/
def R.SIV_LOAD : RegDef :=
  { name := "SIV_LOAD", base := 0x2002, stride := 0, count := 1, perStall := false, fields := [
    ⟨0, 17, .ro, 0, .any⟩] }
def F.SIV_LOAD_LOAD : Fld := ⟨0x2002, 0, false, 0, 17⟩
/-- SIV_WIN_ADDR, after R207. -/
def R.SIV_WIN_ADDR : RegDef :=
  { name := "SIV_WIN_ADDR", base := 0x2003, stride := 0, count := 1, perStall := false, fields := [
    ⟨0, 12, .lv, 0, .any⟩] }
def F.SIV_WIN_ADDR_ADDR : Fld := ⟨0x2003, 0, false, 0, 12⟩
/-- SIV_WIN_DATA, after R207. -/
def R.SIV_WIN_DATA : RegDef :=
  { name := "SIV_WIN_DATA", base := 0x2004, stride := 0, count := 1, perStall := false, fields := [
    ⟨0, 32, .lv, 0, .any⟩] }
def F.SIV_WIN_DATA_DATA : Fld := ⟨0x2004, 0, false, 0, 32⟩
/-- SIV_FADE_LEN, after R216. -/
def R.SIV_FADE_LEN : RegDef :=
  { name := "SIV_FADE_LEN", base := 0x2005, stride := 0, count := 1, perStall := false, fields := [
    ⟨0, 16, .lv, 0x100, .inside [(1, 65535)]⟩] }
def F.SIV_FADE_LEN_L : Fld := ⟨0x2005, 0, false, 0, 16⟩
/-- SIV_SETTLE, after R216. -/
def R.SIV_SETTLE : RegDef :=
  { name := "SIV_SETTLE", base := 0x2006, stride := 0, count := 1, perStall := false, fields := [
    ⟨0, 16, .lv, 0x40, .any⟩] }
def F.SIV_SETTLE_SETTLE : Fld := ⟨0x2006, 0, false, 0, 16⟩
/-- SIV_CHn_CFG, after R216. -/
def R.SIV_CH_CFG : RegDef :=
  { name := "SIV_CHn_CFG", base := 0x2010, stride := 4, count := 16, perStall := false, fields := [
    ⟨0, 5, .sl, 0, .any⟩,
    ⟨5, 1, .sl, 0, .any⟩,
    ⟨6, 1, .sl, 0, .any⟩,
    ⟨7, 1, .im, 0, .any⟩,
    ⟨8, 4, .im, 3, .inside [(3, 3), (5, 5), (7, 7), (9, 9), (11, 11), (13, 13), (15, 15)]⟩,
    ⟨16, 8, .sl, 0, .inside [(0, 16), (248, 255)]⟩] }
def F.SIV_CH_CFG_K : Fld := ⟨0x2010, 4, false, 0, 5⟩
def F.SIV_CH_CFG_FADE_EN : Fld := ⟨0x2010, 4, false, 5, 1⟩
def F.SIV_CH_CFG_SYNC_SEG : Fld := ⟨0x2010, 4, false, 6, 1⟩
def F.SIV_CH_CFG_MEDIAN : Fld := ⟨0x2010, 4, false, 7, 1⟩
def F.SIV_CH_CFG_MWIN : Fld := ⟨0x2010, 4, false, 8, 4⟩
def F.SIV_CH_CFG_OSHIFT : Fld := ⟨0x2010, 4, false, 16, 8⟩
/-- SIV_CHn_BANK, after R216. -/
def R.SIV_CH_BANK : RegDef :=
  { name := "SIV_CHn_BANK", base := 0x2011, stride := 4, count := 16, perStall := false, fields := [
    ⟨0, 1, .lv, 0, .any⟩] }
def F.SIV_CH_BANK_REQ : Fld := ⟨0x2011, 4, false, 0, 1⟩
/-- SIV_CHn_STAT, after R216. -/
def R.SIV_CH_STAT : RegDef :=
  { name := "SIV_CHn_STAT", base := 0x2012, stride := 4, count := 16, perStall := false, fields := [
    ⟨0, 1, .ro, 0, .any⟩,
    ⟨1, 1, .ro, 0, .any⟩,
    ⟨2, 1, .ro, 0, .any⟩,
    ⟨3, 1, .ro, 0, .any⟩,
    ⟨16, 16, .ro, 0, .any⟩] }
def F.SIV_CH_STAT_FORCE : Fld := ⟨0x2012, 4, false, 0, 1⟩
def F.SIV_CH_STAT_FADING : Fld := ⟨0x2012, 4, false, 1, 1⟩
def F.SIV_CH_STAT_QUEUED : Fld := ⟨0x2012, 4, false, 2, 1⟩
def F.SIV_CH_STAT_QBANK : Fld := ⟨0x2012, 4, false, 3, 1⟩
def F.SIV_CH_STAT_SETTLE : Fld := ⟨0x2012, 4, false, 16, 16⟩
/-- YRDk_GEOM, after R244. -/
def R.YRD_GEOM : RegDef :=
  { name := "YRDk_GEOM", base := 0x2100, stride := 16, count := 8, perStall := false, fields := [
    ⟨0, 13, .sl, 0x1000, .inside [(1, 4096)]⟩,
    ⟨16, 5, .sl, 0x10, .inside [(1, 16)]⟩] }
def F.YRD_GEOM_COLS : Fld := ⟨0x2100, 16, false, 0, 13⟩
def F.YRD_GEOM_RSEL : Fld := ⟨0x2100, 16, false, 16, 5⟩
/-- YRDk_AXIS, after R244. -/
def R.YRD_AXIS : RegDef :=
  { name := "YRDk_AXIS", base := 0x2101, stride := 16, count := 8, perStall := false, fields := [
    ⟨0, 2, .sl, 0, .inside [(0, 2)]⟩,
    ⟨2, 1, .sl, 0, .any⟩,
    ⟨4, 4, .sl, 2, .any⟩,
    ⟨16, 16, .sl, 0x200, .any⟩] }
def F.YRD_AXIS_XAXIS : Fld := ⟨0x2101, 16, false, 0, 2⟩
def F.YRD_AXIS_NOFORCED : Fld := ⟨0x2101, 16, false, 2, 1⟩
def F.YRD_AXIS_YSHIFT : Fld := ⟨0x2101, 16, false, 4, 4⟩
def F.YRD_AXIS_YOFS : Fld := ⟨0x2101, 16, false, 16, 16⟩
/-- YRDk_XSTEP, after R244. -/
def R.YRD_XSTEP : RegDef :=
  { name := "YRDk_XSTEP", base := 0x2102, stride := 16, count := 8, perStall := false, fields := [
    ⟨0, 32, .sl, 0x400, .inside [(1, 4294967295)]⟩] }
def F.YRD_XSTEP_XSTEP : Fld := ⟨0x2102, 16, false, 0, 32⟩
/-- YRDk_XOFS, after R244. -/
def R.YRD_XOFS : RegDef :=
  { name := "YRDk_XOFS", base := 0x2103, stride := 16, count := 8, perStall := false, fields := [
    ⟨0, 32, .sl, 0, .any⟩] }
def F.YRD_XOFS_XOFS : Fld := ⟨0x2103, 16, false, 0, 32⟩
/-- YRDk_XPHASE, after R244. -/
def R.YRD_XPHASE : RegDef :=
  { name := "YRDk_XPHASE", base := 0x2104, stride := 16, count := 8, perStall := false, fields := [
    ⟨0, 32, .sl, 0, .any⟩] }
def F.YRD_XPHASE_XPHASE : Fld := ⟨0x2104, 16, false, 0, 32⟩
/-- YRDk_MAXTPS, after R244. -/
def R.YRD_MAXTPS : RegDef :=
  { name := "YRDk_MAXTPS", base := 0x2105, stride := 16, count := 8, perStall := false, fields := [
    ⟨0, 32, .sl, 0, .any⟩] }
def F.YRD_MAXTPS_MAXTPS : Fld := ⟨0x2105, 16, false, 0, 32⟩
/-- YRDk_EVERY, after R244. -/
def R.YRD_EVERY : RegDef :=
  { name := "YRDk_EVERY", base := 0x2106, stride := 16, count := 8, perStall := false, fields := [
    ⟨0, 16, .sl, 1, .inside [(1, 65535)]⟩] }
def F.YRD_EVERY_EVERY : Fld := ⟨0x2106, 16, false, 0, 16⟩
/-- YRDk_REGION, after R244. -/
def R.YRD_REGION : RegDef :=
  { name := "YRDk_REGION", base := 0x2107, stride := 16, count := 8, perStall := false, fields := [
    ⟨0, 5, .sl, 0, .any⟩,
    ⟨8, 5, .sl, 0, .any⟩,
    ⟨13, 1, .sl, 0, .any⟩] }
def F.YRD_REGION_MAP : Fld := ⟨0x2107, 16, false, 0, 5⟩
def F.YRD_REGION_SNAPR : Fld := ⟨0x2107, 16, false, 8, 5⟩
def F.YRD_REGION_SNAP_EN : Fld := ⟨0x2107, 16, false, 13, 1⟩
/-- YRDk_DECAY, after R244. -/
def R.YRD_DECAY : RegDef :=
  { name := "YRDk_DECAY", base := 0x2108, stride := 16, count := 8, perStall := false, fields := [
    ⟨0, 5, .lv, 0, .any⟩,
    ⟨16, 16, .lv, 0x3e8, .inside [(1, 65535)]⟩] }
def F.YRD_DECAY_K : Fld := ⟨0x2108, 16, false, 0, 5⟩
def F.YRD_DECAY_PERIOD : Fld := ⟨0x2108, 16, false, 16, 16⟩
/-- YRDk_CTRL, after R244. -/
def R.YRD_CTRL : RegDef :=
  { name := "YRDk_CTRL", base := 0x2109, stride := 16, count := 8, perStall := false, fields := [
    ⟨0, 1, .lv, 0, .any⟩,
    ⟨1, 1, .lv, 0, .any⟩] }
def F.YRD_CTRL_CLEAR : Fld := ⟨0x2109, 16, false, 0, 1⟩
def F.YRD_CTRL_SNAP : Fld := ⟨0x2109, 16, false, 1, 1⟩
/-- YRDk_STAT, after R244. -/
def R.YRD_STAT : RegDef :=
  { name := "YRDk_STAT", base := 0x210A, stride := 16, count := 8, perStall := false, fields := [
    ⟨0, 1, .ro, 0, .any⟩,
    ⟨1, 1, .ro, 0, .any⟩,
    ⟨2, 1, .ro, 0, .any⟩,
    ⟨3, 1, .ro, 0, .any⟩,
    ⟨16, 16, .ro, 0, .any⟩] }
def F.YRD_STAT_CLEARING : Fld := ⟨0x210A, 16, false, 0, 1⟩
def F.YRD_STAT_SWEEPING : Fld := ⟨0x210A, 16, false, 1, 1⟩
def F.YRD_STAT_COPYING : Fld := ⟨0x210A, 16, false, 2, 1⟩
def F.YRD_STAT_SUSPENDED : Fld := ⟨0x210A, 16, false, 3, 1⟩
def F.YRD_STAT_SNAPS : Fld := ⟨0x210A, 16, false, 16, 16⟩
/-- YRDk_LOAD, after R244. -/
def R.YRD_LOAD : RegDef :=
  { name := "YRDk_LOAD", base := 0x210B, stride := 16, count := 8, perStall := false, fields := [
    ⟨0, 18, .ro, 0, .any⟩] }
def F.YRD_LOAD_LOAD : Fld := ⟨0x210B, 16, false, 0, 18⟩
/-- YRDk_SNAP_CLO, after R244. -/
def R.YRD_SNAP_CLO : RegDef :=
  { name := "YRDk_SNAP_CLO", base := 0x210C, stride := 16, count := 8, perStall := false, fields := [
    ⟨0, 32, .ro, 0, .any⟩] }
def F.YRD_SNAP_CLO_CLO : Fld := ⟨0x210C, 16, false, 0, 32⟩
/-- YRDk_SNAP_CHI, after R244. -/
def R.YRD_SNAP_CHI : RegDef :=
  { name := "YRDk_SNAP_CHI", base := 0x210D, stride := 16, count := 8, perStall := false, fields := [
    ⟨0, 32, .ro, 0, .any⟩] }
def F.YRD_SNAP_CHI_CHI : Fld := ⟨0x210D, 16, false, 0, 32⟩
/-- YRDk_SNAP_PLO, after R244. -/
def R.YRD_SNAP_PLO : RegDef :=
  { name := "YRDk_SNAP_PLO", base := 0x210E, stride := 16, count := 8, perStall := false, fields := [
    ⟨0, 32, .ro, 0, .any⟩] }
def F.YRD_SNAP_PLO_PLO : Fld := ⟨0x210E, 16, false, 0, 32⟩
/-- YRDk_SNAP_PHI, after R244. -/
def R.YRD_SNAP_PHI : RegDef :=
  { name := "YRDk_SNAP_PHI", base := 0x210F, stride := 16, count := 8, perStall := false, fields := [
    ⟨0, 32, .ro, 0, .any⟩] }
def F.YRD_SNAP_PHI_PHI : Fld := ⟨0x210F, 16, false, 0, 32⟩
/-- HAL_SLOT0, after R266. -/
def R.HAL_SLOT0 : RegDef :=
  { name := "HAL_SLOT0", base := 0x2200, stride := 0, count := 1, perStall := false, fields := [
    ⟨0, 30, .im, 0x3fffffff, .packed 6 5 [(0, 25), (31, 31)]⟩] }
def F.HAL_SLOT0_E : Fld := ⟨0x2200, 0, false, 0, 30⟩
/-- HAL_SLOT1, after R266. -/
def R.HAL_SLOT1 : RegDef :=
  { name := "HAL_SLOT1", base := 0x2201, stride := 0, count := 1, perStall := false, fields := [
    ⟨0, 30, .im, 0x3fffffff, .packed 6 5 [(0, 25), (31, 31)]⟩] }
def F.HAL_SLOT1_E : Fld := ⟨0x2201, 0, false, 0, 30⟩
/-- HAL_SLOT2, after R266. -/
def R.HAL_SLOT2 : RegDef :=
  { name := "HAL_SLOT2", base := 0x2202, stride := 0, count := 1, perStall := false, fields := [
    ⟨0, 20, .im, 0xfffff, .packed 4 5 [(0, 25), (31, 31)]⟩] }
def F.HAL_SLOT2_E : Fld := ⟨0x2202, 0, false, 0, 20⟩
/-- HAL_SCRUB, after R266. -/
def R.HAL_SCRUB : RegDef :=
  { name := "HAL_SCRUB", base := 0x2203, stride := 0, count := 1, perStall := false, fields := [
    ⟨0, 16, .lv, 0xa, .inside [(1, 65535)]⟩] }
def F.HAL_SCRUB_PERIOD : Fld := ⟨0x2203, 0, false, 0, 16⟩
/-- HAL_SCRUB_STAT, after R266. -/
def R.HAL_SCRUB_STAT : RegDef :=
  { name := "HAL_SCRUB_STAT", base := 0x2204, stride := 0, count := 1, perStall := false, fields := [
    ⟨0, 23, .ro, 0, .any⟩,
    ⟨23, 1, .ro, 0, .any⟩,
    ⟨24, 8, .ro, 0, .any⟩] }
def F.HAL_SCRUB_STAT_WORD : Fld := ⟨0x2204, 0, false, 0, 23⟩
def F.HAL_SCRUB_STAT_LATE : Fld := ⟨0x2204, 0, false, 23, 1⟩
def F.HAL_SCRUB_STAT_PASSES : Fld := ⟨0x2204, 0, false, 24, 8⟩
/-- HAL_ECC_ADDR, after R266. -/
def R.HAL_ECC_ADDR : RegDef :=
  { name := "HAL_ECC_ADDR", base := 0x2205, stride := 0, count := 1, perStall := false, fields := [
    ⟨0, 27, .ro, 0, .any⟩,
    ⟨27, 1, .ro, 0, .any⟩] }
def F.HAL_ECC_ADDR_ADDR : Fld := ⟨0x2205, 0, false, 0, 27⟩
def F.HAL_ECC_ADDR_UNCORR : Fld := ⟨0x2205, 0, false, 27, 1⟩
/-- HAL_FREEZEj, after R266. -/
def R.HAL_FREEZE : RegDef :=
  { name := "HAL_FREEZEj", base := 0x2208, stride := 1, count := 8, perStall := false, fields := [
    ⟨0, 32, .lv, 0, .any⟩] }
def F.HAL_FREEZE_FRZ : Fld := ⟨0x2208, 1, false, 0, 32⟩
/-- HAL_IDLEj, after R266. -/
def R.HAL_IDLE : RegDef :=
  { name := "HAL_IDLEj", base := 0x2210, stride := 1, count := 8, perStall := false, fields := [
    ⟨0, 32, .ro, 0xffffffff, .any⟩] }
def F.HAL_IDLE_IDLE : Fld := ⟨0x2210, 1, false, 0, 32⟩
/-- ARB_DSLOTw, after R266. -/
def R.ARB_DSLOT : RegDef :=
  { name := "ARB_DSLOTw", base := 0x2220, stride := 1, count := 6, perStall := false, fields := [
    ⟨0, 30, .im, 0x3fffffff, .packed 10 3 [(0, 3), (7, 7)]⟩] }
def F.ARB_DSLOT_E : Fld := ⟨0x2220, 1, false, 0, 30⟩
/-- ARB_DSLOT6, after R266. -/
def R.ARB_DSLOT6 : RegDef :=
  { name := "ARB_DSLOT6", base := 0x2226, stride := 0, count := 1, perStall := false, fields := [
    ⟨0, 12, .im, 0xfff, .packed 4 3 [(0, 3), (7, 7)]⟩] }
def F.ARB_DSLOT6_E : Fld := ⟨0x2226, 0, false, 0, 12⟩
/-- ARB_DFREEZE, after R266. -/
def R.ARB_DFREEZE : RegDef :=
  { name := "ARB_DFREEZE", base := 0x2228, stride := 0, count := 1, perStall := false, fields := [
    ⟨0, 8, .lv, 0, .any⟩] }
def F.ARB_DFREEZE_FRZ : Fld := ⟨0x2228, 0, false, 0, 8⟩
/-- ARB_DIDLE, after R266. -/
def R.ARB_DIDLE : RegDef :=
  { name := "ARB_DIDLE", base := 0x2229, stride := 0, count := 1, perStall := false, fields := [
    ⟨0, 8, .ro, 0xff, .any⟩] }
def F.ARB_DIDLE_IDLE : Fld := ⟨0x2229, 0, false, 0, 8⟩
/-- HAL_Q_SEL, after R266. -/
def R.HAL_Q_SEL : RegDef :=
  { name := "HAL_Q_SEL", base := 0x2230, stride := 0, count := 1, perStall := false, fields := [
    ⟨0, 9, .lv, 0, .inside [(0, 263)]⟩,
    ⟨9, 5, .lv, 0, .any⟩] }
def F.HAL_Q_SEL_ARB : Fld := ⟨0x2230, 0, false, 0, 9⟩
def F.HAL_Q_SEL_PORT : Fld := ⟨0x2230, 0, false, 9, 5⟩
/-- HAL_Q_STAT, after R266. -/
def R.HAL_Q_STAT : RegDef :=
  { name := "HAL_Q_STAT", base := 0x2231, stride := 0, count := 1, perStall := false, fields := [
    ⟨0, 5, .ro, 0, .any⟩,
    ⟨5, 5, .ro, 0, .any⟩,
    ⟨10, 1, .ro, 0, .any⟩] }
def F.HAL_Q_STAT_DEPTH : Fld := ⟨0x2231, 0, false, 0, 5⟩
def F.HAL_Q_STAT_HIGH : Fld := ⟨0x2231, 0, false, 5, 5⟩
def F.HAL_Q_STAT_CLAIM : Fld := ⟨0x2231, 0, false, 10, 1⟩
/-- HAL_RGNd_BASE, after R266. -/
def R.HAL_RGN_BASE : RegDef :=
  { name := "HAL_RGNd_BASE", base := 0x2240, stride := 2, count := 32, perStall := false, fields := [
    ⟨0, 15, .im, 0, .any⟩] }
def F.HAL_RGN_BASE_BASE : Fld := ⟨0x2240, 2, false, 0, 15⟩
/-- HAL_RGNd_CFG, after R266. -/
def R.HAL_RGN_CFG : RegDef :=
  { name := "HAL_RGNd_CFG", base := 0x2241, stride := 2, count := 32, perStall := false, fields := [
    ⟨0, 16, .im, 0, .any⟩,
    ⟨16, 3, .im, 0, .any⟩,
    ⟨19, 5, .im, 0, .any⟩] }
def F.HAL_RGN_CFG_SIZE : Fld := ⟨0x2241, 2, false, 0, 16⟩
def F.HAL_RGN_CFG_KIND : Fld := ⟨0x2241, 2, false, 16, 3⟩
def F.HAL_RGN_CFG_OWNER : Fld := ⟨0x2241, 2, false, 19, 5⟩
/-- DRM_TOPO, after R291. -/
def R.DRM_TOPO : RegDef :=
  { name := "DRM_TOPO", base := 0x2300, stride := 0, count := 1, perStall := false, fields := [
    ⟨0, 1, .im, 0, .any⟩,
    ⟨1, 2, .im, 0, .inside [(0, 2)]⟩,
    ⟨3, 1, .im, 0, .any⟩] }
def F.DRM_TOPO_WIDTH : Fld := ⟨0x2300, 0, false, 0, 1⟩
def F.DRM_TOPO_DENS : Fld := ⟨0x2300, 0, false, 1, 2⟩
def F.DRM_TOPO_RANKS : Fld := ⟨0x2300, 0, false, 3, 1⟩
/-- DRM_MAP, after R291. -/
def R.DRM_MAP : RegDef :=
  { name := "DRM_MAP", base := 0x2301, stride := 0, count := 1, perStall := false, fields := [
    ⟨0, 4, .im, 4, .inside [(0, 8)]⟩] }
def F.DRM_MAP_GRAIN : Fld := ⟨0x2301, 0, false, 0, 4⟩
/-- DRM_IDLE_SR, after R291. -/
def R.DRM_IDLE_SR : RegDef :=
  { name := "DRM_IDLE_SR", base := 0x2302, stride := 0, count := 1, perStall := false, fields := [
    ⟨0, 24, .lv, 0x30d4, .inside [(0, 0), (1024, 16777215)]⟩] }
def F.DRM_IDLE_SR_IDLE : Fld := ⟨0x2302, 0, false, 0, 24⟩
/-- DRM_HAMMER_TH, after R291. -/
def R.DRM_HAMMER_TH : RegDef :=
  { name := "DRM_HAMMER_TH", base := 0x2303, stride := 0, count := 1, perStall := false, fields := [
    ⟨0, 16, .lv, 0x1000, .inside [(256, 65535)]⟩] }
def F.DRM_HAMMER_TH_TH : Fld := ⟨0x2303, 0, false, 0, 16⟩
/-- DRM_REFRESH, after R291. -/
def R.DRM_REFRESH : RegDef :=
  { name := "DRM_REFRESH", base := 0x2304, stride := 0, count := 1, perStall := false, fields := [
    ⟨0, 8, .lv, 0x10, .inside [(1, 255)]⟩,
    ⟨8, 1, .ro, 0, .any⟩,
    ⟨9, 1, .ro, 0, .any⟩] }
def F.DRM_REFRESH_MR4_PER : Fld := ⟨0x2304, 0, false, 0, 8⟩
def F.DRM_REFRESH_RATE2 : Fld := ⟨0x2304, 0, false, 8, 1⟩
def F.DRM_REFRESH_RFM : Fld := ⟨0x2304, 0, false, 9, 1⟩
/-- DRM_RETRAIN, after R291. -/
def R.DRM_RETRAIN : RegDef :=
  { name := "DRM_RETRAIN", base := 0x2305, stride := 0, count := 1, perStall := false, fields := [
    ⟨0, 16, .lv, 0x64, .inside [(10, 65535)]⟩,
    ⟨16, 8, .lv, 8, .any⟩,
    ⟨24, 8, .lv, 0x10, .any⟩] }
def F.DRM_RETRAIN_PERIOD : Fld := ⟨0x2305, 0, false, 0, 16⟩
def F.DRM_RETRAIN_DRIFT_LIM : Fld := ⟨0x2305, 0, false, 16, 8⟩
def F.DRM_RETRAIN_MINEYE : Fld := ⟨0x2305, 0, false, 24, 8⟩
/-- DRM_SCRUB, after R291. -/
def R.DRM_SCRUB : RegDef :=
  { name := "DRM_SCRUB", base := 0x2306, stride := 0, count := 1, perStall := false, fields := [
    ⟨0, 16, .lv, 0x18, .any⟩] }
def F.DRM_SCRUB_PERIOD : Fld := ⟨0x2306, 0, false, 0, 16⟩
/-- DRM_SCRUB_STAT, after R291. -/
def R.DRM_SCRUB_STAT : RegDef :=
  { name := "DRM_SCRUB_STAT", base := 0x2307, stride := 0, count := 1, perStall := false, fields := [
    ⟨0, 16, .ro, 0, .any⟩,
    ⟨16, 1, .ro, 0, .any⟩] }
def F.DRM_SCRUB_STAT_PASSES : Fld := ⟨0x2307, 0, false, 0, 16⟩
def F.DRM_SCRUB_STAT_LATE : Fld := ⟨0x2307, 0, false, 16, 1⟩
/-- DRM_STAT, after R291. -/
def R.DRM_STAT : RegDef :=
  { name := "DRM_STAT", base := 0x2308, stride := 0, count := 1, perStall := false, fields := [
    ⟨0, 8, .ro, 0, .any⟩,
    ⟨8, 1, .ro, 0, .any⟩,
    ⟨9, 1, .ro, 0, .any⟩,
    ⟨10, 1, .ro, 0, .any⟩] }
def F.DRM_STAT_SR : Fld := ⟨0x2308, 0, false, 0, 8⟩
def F.DRM_STAT_TRAINED : Fld := ⟨0x2308, 0, false, 8, 1⟩
def F.DRM_STAT_RATE : Fld := ⟨0x2308, 0, false, 9, 1⟩
def F.DRM_STAT_TABLE_OK : Fld := ⟨0x2308, 0, false, 10, 1⟩
/-- DRM_BUDGET, after R291. -/
def R.DRM_BUDGET : RegDef :=
  { name := "DRM_BUDGET", base := 0x2309, stride := 0, count := 1, perStall := false, fields := [
    ⟨0, 20, .ro, 0, .any⟩] }
def F.DRM_BUDGET_RESV : Fld := ⟨0x2309, 0, false, 0, 20⟩
/-- DRM_CHARGE, after R291. -/
def R.DRM_CHARGE : RegDef :=
  { name := "DRM_CHARGE", base := 0x230A, stride := 0, count := 1, perStall := false, fields := [
    ⟨0, 20, .ro, 0, .any⟩] }
def F.DRM_CHARGE_CHARGE : Fld := ⟨0x230A, 0, false, 0, 20⟩
/-- DRM_ECC_CTRL, after R291. -/
def R.DRM_ECC_CTRL : RegDef :=
  { name := "DRM_ECC_CTRL", base := 0x230B, stride := 0, count := 1, perStall := false, fields := [
    ⟨0, 1, .lv, 0, .any⟩] }
def F.DRM_ECC_CTRL_LOGCORR : Fld := ⟨0x230B, 0, false, 0, 1⟩
/-- DRM_ELOG_SEL, after R291. -/
def R.DRM_ELOG_SEL : RegDef :=
  { name := "DRM_ELOG_SEL", base := 0x230C, stride := 0, count := 1, perStall := false, fields := [
    ⟨0, 6, .lv, 0, .any⟩,
    ⟨6, 2, .lv, 0, .any⟩] }
def F.DRM_ELOG_SEL_ENTRY : Fld := ⟨0x230C, 0, false, 0, 6⟩
def F.DRM_ELOG_SEL_WORD : Fld := ⟨0x230C, 0, false, 6, 2⟩
/-- DRM_ELOG_DATA, after R291. -/
def R.DRM_ELOG_DATA : RegDef :=
  { name := "DRM_ELOG_DATA", base := 0x230D, stride := 0, count := 1, perStall := false, fields := [
    ⟨0, 32, .ro, 0, .any⟩] }
def F.DRM_ELOG_DATA_DATA : Fld := ⟨0x230D, 0, false, 0, 32⟩
/-- DRM_ELOG_HEAD, after R291. -/
def R.DRM_ELOG_HEAD : RegDef :=
  { name := "DRM_ELOG_HEAD", base := 0x230E, stride := 0, count := 1, perStall := false, fields := [
    ⟨0, 6, .ro, 0, .any⟩,
    ⟨8, 24, .ro, 0, .any⟩] }
def F.DRM_ELOG_HEAD_HEAD : Fld := ⟨0x230E, 0, false, 0, 6⟩
def F.DRM_ELOG_HEAD_TOTAL : Fld := ⟨0x230E, 0, false, 8, 24⟩
/-- DRM_HAMMER_STAT, after R291. -/
def R.DRM_HAMMER_STAT : RegDef :=
  { name := "DRM_HAMMER_STAT", base := 0x230F, stride := 0, count := 1, perStall := false, fields := [
    ⟨0, 32, .ro, 0, .any⟩] }
def F.DRM_HAMMER_STAT_MITIG : Fld := ⟨0x230F, 0, false, 0, 32⟩
/-- DRM_TR_CTRL, after R291. -/
def R.DRM_TR_CTRL : RegDef :=
  { name := "DRM_TR_CTRL", base := 0x2320, stride := 0, count := 1, perStall := false, fields := [
    ⟨0, 3, .lv, 0, .any⟩,
    ⟨3, 1, .lv, 0, .any⟩,
    ⟨4, 2, .lv, 0, .any⟩,
    ⟨6, 1, .lv, 0, .any⟩,
    ⟨7, 1, .ro, 0, .any⟩,
    ⟨16, 16, .lv, 0x40, .inside [(1, 65535)]⟩] }
def F.DRM_TR_CTRL_SUB : Fld := ⟨0x2320, 0, false, 0, 3⟩
def F.DRM_TR_CTRL_RANK : Fld := ⟨0x2320, 0, false, 3, 1⟩
def F.DRM_TR_CTRL_MODE : Fld := ⟨0x2320, 0, false, 4, 2⟩
def F.DRM_TR_CTRL_GO : Fld := ⟨0x2320, 0, false, 6, 1⟩
def F.DRM_TR_CTRL_DONE : Fld := ⟨0x2320, 0, false, 7, 1⟩
def F.DRM_TR_CTRL_COUNT : Fld := ⟨0x2320, 0, false, 16, 16⟩
/-- DRM_TR_SEED, after R291. -/
def R.DRM_TR_SEED : RegDef :=
  { name := "DRM_TR_SEED", base := 0x2321, stride := 0, count := 1, perStall := false, fields := [
    ⟨0, 31, .lv, 1, .inside [(1, 2147483647)]⟩] }
def F.DRM_TR_SEED_SEED : Fld := ⟨0x2321, 0, false, 0, 31⟩
/-- DRM_TR_SWEEP, after R291. -/
def R.DRM_TR_SWEEP : RegDef :=
  { name := "DRM_TR_SWEEP", base := 0x2322, stride := 0, count := 1, perStall := false, fields := [
    ⟨0, 4, .lv, 0, .inside [(0, 7)]⟩,
    ⟨4, 10, .lv, 0, .any⟩,
    ⟨14, 10, .lv, 0x3ff, .any⟩,
    ⟨24, 6, .lv, 1, .inside [(1, 63)]⟩] }
def F.DRM_TR_SWEEP_TARGET : Fld := ⟨0x2322, 0, false, 0, 4⟩
def F.DRM_TR_SWEEP_START : Fld := ⟨0x2322, 0, false, 4, 10⟩
def F.DRM_TR_SWEEP_END : Fld := ⟨0x2322, 0, false, 14, 10⟩
def F.DRM_TR_SWEEP_STEP : Fld := ⟨0x2322, 0, false, 24, 6⟩
/-- DRM_TR_DSEL, after R291. -/
def R.DRM_TR_DSEL : RegDef :=
  { name := "DRM_TR_DSEL", base := 0x2323, stride := 0, count := 1, perStall := false, fields := [
    ⟨0, 6, .lv, 0, .inside [(0, 39)]⟩,
    ⟨6, 3, .lv, 0, .any⟩,
    ⟨9, 4, .lv, 0, .inside [(0, 7)]⟩] }
def F.DRM_TR_DSEL_BIT : Fld := ⟨0x2323, 0, false, 0, 6⟩
def F.DRM_TR_DSEL_SUB : Fld := ⟨0x2323, 0, false, 6, 3⟩
def F.DRM_TR_DSEL_TARGET : Fld := ⟨0x2323, 0, false, 9, 4⟩
/-- DRM_TR_DDATA, after R291. -/
def R.DRM_TR_DDATA : RegDef :=
  { name := "DRM_TR_DDATA", base := 0x2324, stride := 0, count := 1, perStall := false, fields := [
    ⟨0, 10, .lv, 0, .any⟩] }
def F.DRM_TR_DDATA_DLY : Fld := ⟨0x2324, 0, false, 0, 10⟩
/-- DRM_TR_ERR0, after R291. -/
def R.DRM_TR_ERR0 : RegDef :=
  { name := "DRM_TR_ERR0", base := 0x2325, stride := 0, count := 1, perStall := false, fields := [
    ⟨0, 32, .ro, 0, .any⟩] }
def F.DRM_TR_ERR0_ERR : Fld := ⟨0x2325, 0, false, 0, 32⟩
/-- DRM_TR_ERR1, after R291. -/
def R.DRM_TR_ERR1 : RegDef :=
  { name := "DRM_TR_ERR1", base := 0x2326, stride := 0, count := 1, perStall := false, fields := [
    ⟨0, 8, .ro, 0, .any⟩] }
def F.DRM_TR_ERR1_ERR : Fld := ⟨0x2326, 0, false, 0, 8⟩
/-- DRM_TR_RES, after R291. -/
def R.DRM_TR_RES : RegDef :=
  { name := "DRM_TR_RES", base := 0x2327, stride := 0, count := 1, perStall := false, fields := [
    ⟨0, 10, .ro, 0, .any⟩,
    ⟨10, 10, .ro, 0, .any⟩,
    ⟨20, 12, .ro, 0, .any⟩] }
def F.DRM_TR_RES_FIRST : Fld := ⟨0x2327, 0, false, 0, 10⟩
def F.DRM_TR_RES_LAST : Fld := ⟨0x2327, 0, false, 10, 10⟩
def F.DRM_TR_RES_ERRS : Fld := ⟨0x2327, 0, false, 20, 12⟩
/-- SGN_CTRL, after R308. -/
def R.SGN_CTRL : RegDef :=
  { name := "SGN_CTRL", base := 0x2400, stride := 0, count := 1, perStall := false, fields := [
    ⟨0, 1, .sl, 0, .any⟩,
    ⟨1, 1, .sl, 0, .any⟩,
    ⟨2, 1, .sl, 0, .any⟩] }
def F.SGN_CTRL_MAP : Fld := ⟨0x2400, 0, false, 0, 1⟩
def F.SGN_CTRL_HSPOL : Fld := ⟨0x2400, 0, false, 1, 1⟩
def F.SGN_CTRL_VSPOL : Fld := ⟨0x2400, 0, false, 2, 1⟩
/-- SGN_HACT, after R308. -/
def R.SGN_HACT : RegDef :=
  { name := "SGN_HACT", base := 0x2401, stride := 0, count := 1, perStall := false, fields := [
    ⟨0, 12, .sl, 0x3c0, .inside [(8, 2048)]⟩] }
def F.SGN_HACT_HACT : Fld := ⟨0x2401, 0, false, 0, 12⟩
/-- SGN_HBLK, after R308. -/
def R.SGN_HBLK : RegDef :=
  { name := "SGN_HBLK", base := 0x2402, stride := 0, count := 1, perStall := false, fields := [
    ⟨0, 10, .sl, 0x18, .inside [(1, 1023)]⟩,
    ⟨10, 10, .sl, 0x10, .inside [(1, 1023)]⟩,
    ⟨20, 10, .sl, 0x28, .inside [(1, 1023)]⟩] }
def F.SGN_HBLK_HFP : Fld := ⟨0x2402, 0, false, 0, 10⟩
def F.SGN_HBLK_HSW : Fld := ⟨0x2402, 0, false, 10, 10⟩
def F.SGN_HBLK_HBP : Fld := ⟨0x2402, 0, false, 20, 10⟩
/-- SGN_VACT, after R308. -/
def R.SGN_VACT : RegDef :=
  { name := "SGN_VACT", base := 0x2403, stride := 0, count := 1, perStall := false, fields := [
    ⟨0, 12, .sl, 0x4b0, .inside [(1, 4095)]⟩] }
def F.SGN_VACT_VACT : Fld := ⟨0x2403, 0, false, 0, 12⟩
/-- SGN_VBLK, after R308. -/
def R.SGN_VBLK : RegDef :=
  { name := "SGN_VBLK", base := 0x2404, stride := 0, count := 1, perStall := false, fields := [
    ⟨0, 10, .sl, 3, .inside [(1, 1023)]⟩,
    ⟨10, 10, .sl, 6, .inside [(1, 1023)]⟩,
    ⟨20, 10, .sl, 0x1a, .inside [(1, 1023)]⟩] }
def F.SGN_VBLK_VFP : Fld := ⟨0x2404, 0, false, 0, 10⟩
def F.SGN_VBLK_VSW : Fld := ⟨0x2404, 0, false, 10, 10⟩
def F.SGN_VBLK_VBP : Fld := ⟨0x2404, 0, false, 20, 10⟩
/-- SGN_REGIONS, after R308. -/
def R.SGN_REGIONS : RegDef :=
  { name := "SGN_REGIONS", base := 0x2405, stride := 0, count := 1, perStall := false, fields := [
    ⟨0, 5, .sl, 0, .any⟩] }
def F.SGN_REGIONS_PLOT : Fld := ⟨0x2405, 0, false, 0, 5⟩
/-- SGN_LAYERS, after R308. -/
def R.SGN_LAYERS : RegDef :=
  { name := "SGN_LAYERS", base := 0x2408, stride := 0, count := 1, perStall := false, fields := [
    ⟨0, 3, .lv, 0, .any⟩,
    ⟨3, 1, .lv, 0, .any⟩,
    ⟨8, 24, .lv, 0, .any⟩] }
def F.SGN_LAYERS_EN : Fld := ⟨0x2408, 0, false, 0, 3⟩
def F.SGN_LAYERS_ECRC_EN : Fld := ⟨0x2408, 0, false, 3, 1⟩
def F.SGN_LAYERS_BG : Fld := ⟨0x2408, 0, false, 8, 24⟩
/-- SGN_L0_SRC, after R308. -/
def R.SGN_L0_SRC : RegDef :=
  { name := "SGN_L0_SRC", base := 0x2409, stride := 0, count := 1, perStall := false, fields := [
    ⟨0, 3, .lv, 0, .any⟩,
    ⟨3, 1, .lv, 0, .any⟩,
    ⟨4, 1, .lv, 0, .any⟩,
    ⟨8, 5, .lv, 0, .any⟩] }
def F.SGN_L0_SRC_MAP : Fld := ⟨0x2409, 0, false, 0, 3⟩
def F.SGN_L0_SRC_SNAP : Fld := ⟨0x2409, 0, false, 3, 1⟩
def F.SGN_L0_SRC_LOG : Fld := ⟨0x2409, 0, false, 4, 1⟩
def F.SGN_L0_SRC_SHIFT : Fld := ⟨0x2409, 0, false, 8, 5⟩
/-- SGN_Ln_POS, after R308. -/
def R.SGN_L_POS : RegDef :=
  { name := "SGN_Ln_POS", base := 0x240A, stride := 2, count := 3, perStall := false, fields := [
    ⟨0, 13, .lv, 0, .any⟩,
    ⟨16, 13, .lv, 0, .any⟩] }
def F.SGN_L_POS_X0 : Fld := ⟨0x240A, 2, false, 0, 13⟩
def F.SGN_L_POS_Y0 : Fld := ⟨0x240A, 2, false, 16, 13⟩
/-- SGN_Ln_SIZE, after R308. -/
def R.SGN_L_SIZE : RegDef :=
  { name := "SGN_Ln_SIZE", base := 0x240B, stride := 2, count := 3, perStall := false, fields := [
    ⟨0, 13, .lv, 1, .inside [(1, 8192)]⟩,
    ⟨16, 13, .lv, 1, .inside [(1, 4095)]⟩] }
def F.SGN_L_SIZE_W : Fld := ⟨0x240B, 2, false, 0, 13⟩
def F.SGN_L_SIZE_H : Fld := ⟨0x240B, 2, false, 16, 13⟩
/-- SGN_L1_SRC, after R308. -/
def R.SGN_L1_SRC : RegDef :=
  { name := "SGN_L1_SRC", base := 0x2410, stride := 0, count := 1, perStall := false, fields := [
    ⟨0, 4, .lv, 0, .any⟩,
    ⟨4, 5, .lv, 0, .inside [(0, 8), (24, 31)]⟩,
    ⟨16, 16, .lv, 0, .any⟩] }
def F.SGN_L1_SRC_STALL : Fld := ⟨0x2410, 0, false, 0, 4⟩
def F.SGN_L1_SRC_VSH : Fld := ⟨0x2410, 0, false, 4, 5⟩
def F.SGN_L1_SRC_VOFS : Fld := ⟨0x2410, 0, false, 16, 16⟩
/-- SGN_L1_COLOUR, after R308. -/
def R.SGN_L1_COLOUR : RegDef :=
  { name := "SGN_L1_COLOUR", base := 0x2411, stride := 0, count := 1, perStall := false, fields := [
    ⟨0, 24, .lv, 0xffff00, .any⟩] }
def F.SGN_L1_COLOUR_RGB : Fld := ⟨0x2411, 0, false, 0, 24⟩
/-- SGN_L2_ADDR, after R308. -/
def R.SGN_L2_ADDR : RegDef :=
  { name := "SGN_L2_ADDR", base := 0x2412, stride := 0, count := 1, perStall := false, fields := [
    ⟨0, 27, .lv, 0, .multiple 0 134217712 16⟩] }
def F.SGN_L2_ADDR_ADDR : Fld := ⟨0x2412, 0, false, 0, 27⟩
/-- SGN_L2_ECRC, after R308. -/
def R.SGN_L2_ECRC : RegDef :=
  { name := "SGN_L2_ECRC", base := 0x2413, stride := 0, count := 1, perStall := false, fields := [
    ⟨0, 32, .lv, 0, .any⟩] }
def F.SGN_L2_ECRC_ECRC : Fld := ⟨0x2413, 0, false, 0, 32⟩
/-- SGN_PAL_ADDR, after R308. -/
def R.SGN_PAL_ADDR : RegDef :=
  { name := "SGN_PAL_ADDR", base := 0x2418, stride := 0, count := 1, perStall := false, fields := [
    ⟨0, 9, .lv, 0, .any⟩] }
def F.SGN_PAL_ADDR_ADDR : Fld := ⟨0x2418, 0, false, 0, 9⟩
/-- SGN_PAL_DATA, after R308. -/
def R.SGN_PAL_DATA : RegDef :=
  { name := "SGN_PAL_DATA", base := 0x2419, stride := 0, count := 1, perStall := false, fields := [
    ⟨0, 24, .lv, 0, .any⟩,
    ⟨24, 8, .lv, 0, .any⟩] }
def F.SGN_PAL_DATA_RGB : Fld := ⟨0x2419, 0, false, 0, 24⟩
def F.SGN_PAL_DATA_ALPHA : Fld := ⟨0x2419, 0, false, 24, 8⟩
/-- SGN_COMMIT, after R308. -/
def R.SGN_COMMIT : RegDef :=
  { name := "SGN_COMMIT", base := 0x2420, stride := 0, count := 1, perStall := false, fields := [
    ⟨0, 5, .lv, 0, .any⟩,
    ⟨8, 5, .ro, 0, .any⟩,
    ⟨13, 1, .ro, 0, .any⟩] }
def F.SGN_COMMIT_GROUPS : Fld := ⟨0x2420, 0, false, 0, 5⟩
def F.SGN_COMMIT_PEND : Fld := ⟨0x2420, 0, false, 8, 5⟩
def F.SGN_COMMIT_FLIP_PENDING : Fld := ⟨0x2420, 0, false, 13, 1⟩
/-- SGN_FRAME, after R308. -/
def R.SGN_FRAME : RegDef :=
  { name := "SGN_FRAME", base := 0x2421, stride := 0, count := 1, perStall := false, fields := [
    ⟨0, 32, .ro, 0, .any⟩] }
def F.SGN_FRAME_FRAME : Fld := ⟨0x2421, 0, false, 0, 32⟩
/-- SGN_FLIP_FRAME, after R308. -/
def R.SGN_FLIP_FRAME : RegDef :=
  { name := "SGN_FLIP_FRAME", base := 0x2422, stride := 0, count := 1, perStall := false, fields := [
    ⟨0, 32, .ro, 0, .any⟩] }
def F.SGN_FLIP_FRAME_FF : Fld := ⟨0x2422, 0, false, 0, 32⟩
/-- SGN_FLIP_CLO, after R308. -/
def R.SGN_FLIP_CLO : RegDef :=
  { name := "SGN_FLIP_CLO", base := 0x2423, stride := 0, count := 1, perStall := false, fields := [
    ⟨0, 32, .ro, 0, .any⟩] }
def F.SGN_FLIP_CLO_ : Fld := ⟨0x2423, 0, false, 0, 32⟩
/-- SGN_FLIP_CHI, after R308. -/
def R.SGN_FLIP_CHI : RegDef :=
  { name := "SGN_FLIP_CHI", base := 0x2424, stride := 0, count := 1, perStall := false, fields := [
    ⟨0, 32, .ro, 0, .any⟩] }
def F.SGN_FLIP_CHI_ : Fld := ⟨0x2424, 0, false, 0, 32⟩
/-- SGN_FLIP_PLO, after R308. -/
def R.SGN_FLIP_PLO : RegDef :=
  { name := "SGN_FLIP_PLO", base := 0x2425, stride := 0, count := 1, perStall := false, fields := [
    ⟨0, 32, .ro, 0, .any⟩] }
def F.SGN_FLIP_PLO_ : Fld := ⟨0x2425, 0, false, 0, 32⟩
/-- SGN_FLIP_PHI, after R308. -/
def R.SGN_FLIP_PHI : RegDef :=
  { name := "SGN_FLIP_PHI", base := 0x2426, stride := 0, count := 1, perStall := false, fields := [
    ⟨0, 32, .ro, 0, .any⟩] }
def F.SGN_FLIP_PHI_ : Fld := ⟨0x2426, 0, false, 0, 32⟩
/-- SGN_Ln_DONE_FRAME, after R308. -/
def R.SGN_L_DONE_FRAME : RegDef :=
  { name := "SGN_Ln_DONE_FRAME", base := 0x2427, stride := 1, count := 3, perStall := false, fields := [
    ⟨0, 32, .ro, 0, .any⟩] }
def F.SGN_L_DONE_FRAME_DONE : Fld := ⟨0x2427, 1, false, 0, 32⟩
/-- SGN_RB, after R308. -/
def R.SGN_RB : RegDef :=
  { name := "SGN_RB", base := 0x242A, stride := 0, count := 1, perStall := false, fields := [
    ⟨0, 1, .w1c, 0, .any⟩,
    ⟨1, 1, .w1c, 0, .any⟩,
    ⟨2, 1, .w1c, 0, .any⟩] }
def F.SGN_RB_RB0_ERR : Fld := ⟨0x242A, 0, false, 0, 1⟩
def F.SGN_RB_RB1_ERR : Fld := ⟨0x242A, 0, false, 1, 1⟩
def F.SGN_RB_ECRC_ERR : Fld := ⟨0x242A, 0, false, 2, 1⟩
/-- SGN_RB_FRAME, after R308. -/
def R.SGN_RB_FRAME : RegDef :=
  { name := "SGN_RB_FRAME", base := 0x242B, stride := 0, count := 1, perStall := false, fields := [
    ⟨0, 32, .ro, 0, .any⟩] }
def F.SGN_RB_FRAME_RBF : Fld := ⟨0x242B, 0, false, 0, 32⟩
/-- CRY_CTRL, after R330. -/
def R.CRY_CTRL : RegDef :=
  { name := "CRY_CTRL", base := 0x2500, stride := 0, count := 1, perStall := false, fields := [
    ⟨0, 4, .sl, 0, .any⟩,
    ⟨4, 1, .sl, 0, .any⟩] }
def F.CRY_CTRL_PEN : Fld := ⟨0x2500, 0, false, 0, 4⟩
def F.CRY_CTRL_ROOT : Fld := ⟨0x2500, 0, false, 4, 1⟩
/-- CRY_LEAD, after R330. -/
def R.CRY_LEAD : RegDef :=
  { name := "CRY_LEAD", base := 0x2501, stride := 0, count := 1, perStall := false, fields := [
    ⟨0, 20, .lv, 0x10000, .any⟩] }
def F.CRY_LEAD_LEAD : Fld := ⟨0x2501, 0, false, 0, 20⟩
/-- CRY_DELAY, after R330. -/
def R.CRY_DELAY : RegDef :=
  { name := "CRY_DELAY", base := 0x2502, stride := 0, count := 1, perStall := false, fields := [
    ⟨0, 16, .lv, 0x400, .inside [(16, 65535)]⟩,
    ⟨16, 16, .lv, 0xa0, .any⟩] }
def F.CRY_DELAY_PER : Fld := ⟨0x2502, 0, false, 0, 16⟩
def F.CRY_DELAY_TOL : Fld := ⟨0x2502, 0, false, 16, 16⟩
/-- CRY_ASYM, after R330. -/
def R.CRY_ASYM : RegDef :=
  { name := "CRY_ASYM", base := 0x2503, stride := 0, count := 1, perStall := false, fields := [
    ⟨0, 16, .lv, 0, .any⟩] }
def F.CRY_ASYM_ASYM : Fld := ⟨0x2503, 0, false, 0, 16⟩
/-- CRY_PORTk, after R330. -/
def R.CRY_PORT : RegDef :=
  { name := "CRY_PORTk", base := 0x2504, stride := 1, count := 4, perStall := false, fields := [
    ⟨0, 3, .ro, 0, .any⟩,
    ⟨3, 1, .ro, 0, .any⟩,
    ⟨4, 1, .ro, 0, .any⟩,
    ⟨5, 1, .ro, 0, .any⟩,
    ⟨16, 16, .ro, 0, .any⟩] }
def F.CRY_PORT_STATE : Fld := ⟨0x2504, 1, false, 0, 3⟩
def F.CRY_PORT_PRXOK : Fld := ⟨0x2504, 1, false, 3, 1⟩
def F.CRY_PORT_MISWIRE : Fld := ⟨0x2504, 1, false, 4, 1⟩
def F.CRY_PORT_RING : Fld := ⟨0x2504, 1, false, 5, 1⟩
def F.CRY_PORT_ERRS : Fld := ⟨0x2504, 1, false, 16, 16⟩
/-- CRY_HOP, after R330. -/
def R.CRY_HOP : RegDef :=
  { name := "CRY_HOP", base := 0x2508, stride := 0, count := 1, perStall := false, fields := [
    ⟨0, 32, .ro, 0, .any⟩] }
def F.CRY_HOP_HOP : Fld := ⟨0x2508, 0, false, 0, 32⟩
/-- CRY_ACCUM, after R330. -/
def R.CRY_ACCUM : RegDef :=
  { name := "CRY_ACCUM", base := 0x2509, stride := 0, count := 1, perStall := false, fields := [
    ⟨0, 24, .ro, 0x400, .any⟩,
    ⟨24, 1, .ro, 0, .any⟩] }
def F.CRY_ACCUM_ACCUM : Fld := ⟨0x2509, 0, false, 0, 24⟩
def F.CRY_ACCUM_LEAD_SHORT : Fld := ⟨0x2509, 0, false, 24, 1⟩
/-- CRY_ID, after R330. -/
def R.CRY_ID : RegDef :=
  { name := "CRY_ID", base := 0x250A, stride := 0, count := 1, perStall := false, fields := [
    ⟨0, 16, .ro, 0, .any⟩,
    ⟨16, 1, .ro, 0, .any⟩,
    ⟨17, 1, .ro, 0, .any⟩] }
def F.CRY_ID_PATH : Fld := ⟨0x250A, 0, false, 0, 16⟩
def F.CRY_ID_DEEP : Fld := ⟨0x250A, 0, false, 16, 1⟩
def F.CRY_ID_IS_ROOT : Fld := ⟨0x250A, 0, false, 17, 1⟩
/-- CRY_DEPTH, after R330. -/
def R.CRY_DEPTH : RegDef :=
  { name := "CRY_DEPTH", base := 0x250B, stride := 0, count := 1, perStall := false, fields := [
    ⟨0, 16, .ro, 0, .any⟩] }
def F.CRY_DEPTH_DEPTH : Fld := ⟨0x250B, 0, false, 0, 16⟩
/-- CRY_LEAD_NOW, after R330. -/
def R.CRY_LEAD_NOW : RegDef :=
  { name := "CRY_LEAD_NOW", base := 0x250C, stride := 0, count := 1, perStall := false, fields := [
    ⟨0, 20, .ro, 0x10000, .any⟩] }
def F.CRY_LEAD_NOW_LEAD : Fld := ⟨0x250C, 0, false, 0, 20⟩
/-- CRY_OFS_LO, after R330. -/
def R.CRY_OFS_LO : RegDef :=
  { name := "CRY_OFS_LO", base := 0x250D, stride := 0, count := 1, perStall := false, fields := [
    ⟨0, 32, .ro, 0, .any⟩] }
def F.CRY_OFS_LO_LO : Fld := ⟨0x250D, 0, false, 0, 32⟩
/-- CRY_OFS_HI, after R330. -/
def R.CRY_OFS_HI : RegDef :=
  { name := "CRY_OFS_HI", base := 0x250E, stride := 0, count := 1, perStall := false, fields := [
    ⟨0, 32, .ro, 0, .any⟩] }
def F.CRY_OFS_HI_HI : Fld := ⟨0x250E, 0, false, 0, 32⟩
/-- CRY_OFS_ERA, after R330. -/
def R.CRY_OFS_ERA : RegDef :=
  { name := "CRY_OFS_ERA", base := 0x250F, stride := 0, count := 1, perStall := false, fields := [
    ⟨0, 16, .ro, 0, .any⟩] }
def F.CRY_OFS_ERA_ERA : Fld := ⟨0x250F, 0, false, 0, 16⟩
/-- CRY_OFS_FR, after R330. -/
def R.CRY_OFS_FR : RegDef :=
  { name := "CRY_OFS_FR", base := 0x2510, stride := 0, count := 1, perStall := false, fields := [
    ⟨0, 8, .ro, 0, .any⟩] }
def F.CRY_OFS_FR_FR : Fld := ⟨0x2510, 0, false, 0, 8⟩
/-- CRY_RXL, after R330. -/
def R.CRY_RXL : RegDef :=
  { name := "CRY_RXL", base := 0x2511, stride := 0, count := 1, perStall := false, fields := [
    ⟨0, 16, .ro, 0, .any⟩] }
def F.CRY_RXL_ARMED : Fld := ⟨0x2511, 0, false, 0, 16⟩
/-- CRY_LTk_A, after R330. -/
def R.CRY_LT_A : RegDef :=
  { name := "CRY_LTk_A", base := 0x2540, stride := 2, count := 64, perStall := false, fields := [
    ⟨0, 16, .lv, 0, .any⟩,
    ⟨16, 1, .lv, 0, .any⟩,
    ⟨17, 1, .lv, 0, .any⟩,
    ⟨18, 1, .lv, 0, .any⟩,
    ⟨19, 2, .lv, 0, .inside [(0, 2)]⟩] }
def F.CRY_LT_A_PATH : Fld := ⟨0x2540, 2, false, 0, 16⟩
def F.CRY_LT_A_BCAST : Fld := ⟨0x2540, 2, false, 16, 1⟩
def F.CRY_LT_A_SELF : Fld := ⟨0x2540, 2, false, 17, 1⟩
def F.CRY_LT_A_BASE : Fld := ⟨0x2540, 2, false, 18, 1⟩
def F.CRY_LT_A_DIR : Fld := ⟨0x2540, 2, false, 19, 2⟩
/-- CRY_LTk_B, after R330. -/
def R.CRY_LT_B : RegDef :=
  { name := "CRY_LTk_B", base := 0x2541, stride := 2, count := 64, perStall := false, fields := [
    ⟨0, 4, .lv, 0, .any⟩,
    ⟨4, 4, .lv, 0, .any⟩,
    ⟨8, 2, .lv, 0, .any⟩,
    ⟨10, 3, .lv, 0, .any⟩] }
def F.CRY_LT_B_ACT : Fld := ⟨0x2541, 2, false, 0, 4⟩
def F.CRY_LT_B_STALL : Fld := ⟨0x2541, 2, false, 4, 4⟩
def F.CRY_LT_B_PIN : Fld := ⟨0x2541, 2, false, 8, 2⟩
def F.CRY_LT_B_YARD : Fld := ⟨0x2541, 2, false, 10, 3⟩
/-- BTR_MAC_HI, after R354. -/
def R.BTR_MAC_HI : RegDef :=
  { name := "BTR_MAC_HI", base := 0x2600, stride := 0, count := 1, perStall := false, fields := [
    ⟨0, 16, .im, 0, .any⟩] }
def F.BTR_MAC_HI_MACH : Fld := ⟨0x2600, 0, false, 0, 16⟩
/-- BTR_MAC_LO, after R354. -/
def R.BTR_MAC_LO : RegDef :=
  { name := "BTR_MAC_LO", base := 0x2601, stride := 0, count := 1, perStall := false, fields := [
    ⟨0, 32, .im, 0, .any⟩] }
def F.BTR_MAC_LO_MACL : Fld := ⟨0x2601, 0, false, 0, 32⟩
/-- BTR_IP, after R354. -/
def R.BTR_IP : RegDef :=
  { name := "BTR_IP", base := 0x2602, stride := 0, count := 1, perStall := false, fields := [
    ⟨0, 32, .im, 0, .any⟩] }
def F.BTR_IP_IP : Fld := ⟨0x2602, 0, false, 0, 32⟩
/-- BTR_PLCA, after R354. -/
def R.BTR_PLCA : RegDef :=
  { name := "BTR_PLCA", base := 0x2603, stride := 0, count := 1, perStall := false, fields := [
    ⟨0, 8, .im, 0xff, .any⟩,
    ⟨8, 8, .im, 8, .inside [(1, 255)]⟩,
    ⟨16, 8, .im, 0x20, .inside [(1, 255)]⟩] }
def F.BTR_PLCA_ID : Fld := ⟨0x2603, 0, false, 0, 8⟩
def F.BTR_PLCA_NCOUNT : Fld := ⟨0x2603, 0, false, 8, 8⟩
def F.BTR_PLCA_TO : Fld := ⟨0x2603, 0, false, 16, 8⟩
/-- BTR_LINK, after R354. -/
def R.BTR_LINK : RegDef :=
  { name := "BTR_LINK", base := 0x2604, stride := 0, count := 1, perStall := false, fields := [
    ⟨0, 1, .ro, 0, .any⟩,
    ⟨1, 1, .ro, 0, .any⟩] }
def F.BTR_LINK_PLCA_OK : Fld := ⟨0x2604, 0, false, 0, 1⟩
def F.BTR_LINK_CSMA : Fld := ⟨0x2604, 0, false, 1, 1⟩
/-- BTR_STATUS, after R354. -/
def R.BTR_STATUS : RegDef :=
  { name := "BTR_STATUS", base := 0x2605, stride := 0, count := 1, perStall := false, fields := [
    ⟨0, 16, .ro, 0, .any⟩,
    ⟨16, 16, .ro, 0, .any⟩] }
def F.BTR_STATUS_STATUS : Fld := ⟨0x2605, 0, false, 0, 16⟩
def F.BTR_STATUS_ASEQ : Fld := ⟨0x2605, 0, false, 16, 16⟩
/-- BTR_QUEUE, after R354. -/
def R.BTR_QUEUE : RegDef :=
  { name := "BTR_QUEUE", base := 0x2606, stride := 0, count := 1, perStall := false, fields := [
    ⟨0, 4, .ro, 0, .any⟩] }
def F.BTR_QUEUE_DEPTH : Fld := ⟨0x2606, 0, false, 0, 4⟩
/-- WHF_CTRL, after R354. -/
def R.WHF_CTRL : RegDef :=
  { name := "WHF_CTRL", base := 0x2610, stride := 0, count := 1, perStall := false, fields := [
    ⟨0, 5, .sl, 0, .any⟩] }
def F.WHF_CTRL_REGION : Fld := ⟨0x2610, 0, false, 0, 5⟩
/-- WHF_MAC_HI, after R354. -/
def R.WHF_MAC_HI : RegDef :=
  { name := "WHF_MAC_HI", base := 0x2611, stride := 0, count := 1, perStall := false, fields := [
    ⟨0, 16, .im, 0, .any⟩] }
def F.WHF_MAC_HI_MACH : Fld := ⟨0x2611, 0, false, 0, 16⟩
/-- WHF_MAC_LO, after R354. -/
def R.WHF_MAC_LO : RegDef :=
  { name := "WHF_MAC_LO", base := 0x2612, stride := 0, count := 1, perStall := false, fields := [
    ⟨0, 32, .im, 0, .any⟩] }
def F.WHF_MAC_LO_MACL : Fld := ⟨0x2612, 0, false, 0, 32⟩
/-- WHF_STAT, after R354. -/
def R.WHF_STAT : RegDef :=
  { name := "WHF_STAT", base := 0x2613, stride := 0, count := 1, perStall := false, fields := [
    ⟨0, 1, .ro, 0, .any⟩,
    ⟨1, 1, .ro, 0, .any⟩,
    ⟨2, 1, .ro, 0, .any⟩] }
def F.WHF_STAT_LINK : Fld := ⟨0x2613, 0, false, 0, 1⟩
def F.WHF_STAT_ACTIVE : Fld := ⟨0x2613, 0, false, 1, 1⟩
def F.WHF_STAT_QUEUED : Fld := ⟨0x2613, 0, false, 2, 1⟩
/-- WHF_CID, after R354. -/
def R.WHF_CID : RegDef :=
  { name := "WHF_CID", base := 0x2614, stride := 0, count := 1, perStall := false, fields := [
    ⟨0, 32, .ro, 0, .any⟩] }
def F.WHF_CID_CID : Fld := ⟨0x2614, 0, false, 0, 32⟩
/-- WHF_SENT, after R354. -/
def R.WHF_SENT : RegDef :=
  { name := "WHF_SENT", base := 0x2615, stride := 0, count := 1, perStall := false, fields := [
    ⟨0, 32, .ro, 0, .any⟩] }
def F.WHF_SENT_SENT : Fld := ⟨0x2615, 0, false, 0, 32⟩
/-- PWR_REGIME, after R394. -/
def R.PWR_REGIME : RegDef :=
  { name := "PWR_REGIME", base := 0x2700, stride := 0, count := 1, perStall := false, fields := [
    ⟨0, 2, .lv, 0, .inside [(0, 2)]⟩,
    ⟨2, 2, .ro, 0, .any⟩,
    ⟨4, 1, .ro, 0, .any⟩,
    ⟨5, 1, .lv, 0, .any⟩,
    ⟨6, 1, .lv, 0, .any⟩] }
def F.PWR_REGIME_REQ : Fld := ⟨0x2700, 0, false, 0, 2⟩
def F.PWR_REGIME_NOW : Fld := ⟨0x2700, 0, false, 2, 2⟩
def F.PWR_REGIME_FORCED : Fld := ⟨0x2700, 0, false, 4, 1⟩
def F.PWR_REGIME_ADMIT_LEAN : Fld := ⟨0x2700, 0, false, 5, 1⟩
def F.PWR_REGIME_WAKE_TO : Fld := ⟨0x2700, 0, false, 6, 1⟩
/-- PWR_WAKE_EN, after R394. -/
def R.PWR_WAKE_EN : RegDef :=
  { name := "PWR_WAKE_EN", base := 0x2701, stride := 0, count := 1, perStall := false, fields := [
    ⟨0, 5, .lv, 0x10, .any⟩] }
def F.PWR_WAKE_EN_EN : Fld := ⟨0x2701, 0, false, 0, 5⟩
/-- PWR_WAKE_TPS, after R394. -/
def R.PWR_WAKE_TPS : RegDef :=
  { name := "PWR_WAKE_TPS", base := 0x2702, stride := 0, count := 1, perStall := false, fields := [
    ⟨0, 32, .lv, 0x10000, .any⟩] }
def F.PWR_WAKE_TPS_TPS : Fld := ⟨0x2702, 0, false, 0, 32⟩
/-- PWR_WAKE_CAUSE, after R394. -/
def R.PWR_WAKE_CAUSE : RegDef :=
  { name := "PWR_WAKE_CAUSE", base := 0x2703, stride := 0, count := 1, perStall := false, fields := [
    ⟨0, 5, .w1c, 0, .any⟩] }
def F.PWR_WAKE_CAUSE_CAUSE : Fld := ⟨0x2703, 0, false, 0, 5⟩
/-- PWR_THERM, after R394. -/
def R.PWR_THERM : RegDef :=
  { name := "PWR_THERM", base := 0x2704, stride := 0, count := 1, perStall := false, fields := [
    ⟨0, 8, .lv, 0x69, .inside [(85, 115)]⟩] }
def F.PWR_THERM_TJ_WARN : Fld := ⟨0x2704, 0, false, 0, 8⟩
/-- PWR_TEMP, after R394. -/
def R.PWR_TEMP : RegDef :=
  { name := "PWR_TEMP", base := 0x2705, stride := 0, count := 1, perStall := false, fields := [
    ⟨0, 16, .ro, 0, .any⟩,
    ⟨16, 4, .ro, 0, .any⟩] }
def F.PWR_TEMP_TJ : Fld := ⟨0x2705, 0, false, 0, 16⟩
def F.PWR_TEMP_SENSOR : Fld := ⟨0x2705, 0, false, 16, 4⟩
/-- PWR_STAT, after R394. -/
def R.PWR_STAT : RegDef :=
  { name := "PWR_STAT", base := 0x2706, stride := 0, count := 1, perStall := false, fields := [
    ⟨0, 1, .ro, 0, .any⟩,
    ⟨1, 1, .w1c, 0, .any⟩,
    ⟨2, 1, .ro, 0, .any⟩,
    ⟨4, 3, .ro, 0, .any⟩,
    ⟨16, 16, .w1c, 0, .any⟩] }
def F.PWR_STAT_RAILS_OK : Fld := ⟨0x2706, 0, false, 0, 1⟩
def F.PWR_STAT_FAULT : Fld := ⟨0x2706, 0, false, 1, 1⟩
def F.PWR_STAT_THERMAL : Fld := ⟨0x2706, 0, false, 2, 1⟩
def F.PWR_STAT_FAIL_CH : Fld := ⟨0x2706, 0, false, 4, 3⟩
def F.PWR_STAT_SHED : Fld := ⟨0x2706, 0, false, 16, 16⟩
/-- PWR_VCORE, after R394. -/
def R.PWR_VCORE : RegDef :=
  { name := "PWR_VCORE", base := 0x2707, stride := 0, count := 1, perStall := false, fields := [
    ⟨0, 10, .ro, 0x352, .any⟩,
    ⟨16, 10, .ro, 0, .any⟩] }
def F.PWR_VCORE_CMD : Fld := ⟨0x2707, 0, false, 0, 10⟩
def F.PWR_VCORE_READ : Fld := ⟨0x2707, 0, false, 16, 10⟩
/-- PWR_RGk_CFG, after R394. -/
def R.PWR_RG_CFG : RegDef :=
  { name := "PWR_RGk_CFG", base := 0x2710, stride := 2, count := 6, perStall := false, fields := [
    ⟨0, 7, .im, 0, .any⟩,
    ⟨7, 1, .im, 0, .any⟩,
    ⟨8, 5, .im, 0, .any⟩] }
def F.PWR_RG_CFG_ADDR : Fld := ⟨0x2710, 2, false, 0, 7⟩
def F.PWR_RG_CFG_PEC : Fld := ⟨0x2710, 2, false, 7, 1⟩
def F.PWR_RG_CFG_EXP : Fld := ⟨0x2710, 2, false, 8, 5⟩
/-- PWR_RGk_STAT, after R394. -/
def R.PWR_RG_STAT : RegDef :=
  { name := "PWR_RGk_STAT", base := 0x2711, stride := 2, count := 6, perStall := false, fields := [
    ⟨0, 16, .ro, 0, .any⟩,
    ⟨16, 16, .ro, 0, .any⟩] }
def F.PWR_RG_STAT_STATUS : Fld := ⟨0x2711, 2, false, 0, 16⟩
def F.PWR_RG_STAT_IOUT : Fld := ⟨0x2711, 2, false, 16, 16⟩
/-- TOL_CNTi, after R403. -/
def R.TOL_CNT : RegDef :=
  { name := "TOL_CNTi", base := 0x2800, stride := 1, count := 256, perStall := false, fields := [
    ⟨0, 32, .ro, 0, .any⟩] }
def F.TOL_CNT_COUNT : Fld := ⟨0x2800, 1, false, 0, 32⟩
/-- LOG_HEAD, after R402. -/
def R.LOG_HEAD : RegDef :=
  { name := "LOG_HEAD", base := 0x2900, stride := 0, count := 1, perStall := false, fields := [
    ⟨0, 8, .ro, 0, .any⟩,
    ⟨8, 24, .ro, 0, .any⟩] }
def F.LOG_HEAD_HEAD : Fld := ⟨0x2900, 0, false, 0, 8⟩
def F.LOG_HEAD_TOTAL : Fld := ⟨0x2900, 0, false, 8, 24⟩
/-- LOG_SEL, after R402. -/
def R.LOG_SEL : RegDef :=
  { name := "LOG_SEL", base := 0x2901, stride := 0, count := 1, perStall := false, fields := [
    ⟨0, 8, .lv, 0, .any⟩,
    ⟨8, 2, .lv, 0, .any⟩] }
def F.LOG_SEL_ENTRY : Fld := ⟨0x2901, 0, false, 0, 8⟩
def F.LOG_SEL_WORD : Fld := ⟨0x2901, 0, false, 8, 2⟩
/-- LOG_DATA, after R402. -/
def R.LOG_DATA : RegDef :=
  { name := "LOG_DATA", base := 0x2902, stride := 0, count := 1, perStall := false, fields := [
    ⟨0, 32, .ro, 0, .any⟩] }
def F.LOG_DATA_DATA : Fld := ⟨0x2902, 0, false, 0, 32⟩
/-- IMG_STAT, after R380. -/
def R.IMG_STAT : RegDef :=
  { name := "IMG_STAT", base := 0x2A00, stride := 0, count := 1, perStall := false, fields := [
    ⟨0, 2, .ro, 0, .any⟩,
    ⟨2, 1, .ro, 0, .any⟩,
    ⟨3, 1, .ro, 0, .any⟩,
    ⟨4, 1, .ro, 0, .any⟩,
    ⟨8, 4, .ro, 0, .any⟩,
    ⟨12, 4, .ro, 0, .any⟩] }
def F.IMG_STAT_SOURCE : Fld := ⟨0x2A00, 0, false, 0, 2⟩
def F.IMG_STAT_SLOT : Fld := ⟨0x2A00, 0, false, 2, 1⟩
def F.IMG_STAT_SIGCHK : Fld := ⟨0x2A00, 0, false, 3, 1⟩
def F.IMG_STAT_PREF : Fld := ⟨0x2A00, 0, false, 4, 1⟩
def F.IMG_STAT_FAIL_A : Fld := ⟨0x2A00, 0, false, 8, 4⟩
def F.IMG_STAT_FAIL_B : Fld := ⟨0x2A00, 0, false, 12, 4⟩
/-- IMG_BUILD, after R380. -/
def R.IMG_BUILD : RegDef :=
  { name := "IMG_BUILD", base := 0x2A01, stride := 0, count := 1, perStall := false, fields := [
    ⟨0, 32, .ro, 0, .any⟩] }
def F.IMG_BUILD_BUILD : Fld := ⟨0x2A01, 0, false, 0, 32⟩
/-- IMG_ROLLBACK, after R380. -/
def R.IMG_ROLLBACK : RegDef :=
  { name := "IMG_ROLLBACK", base := 0x2A02, stride := 0, count := 1, perStall := false, fields := [
    ⟨0, 7, .ro, 0, .any⟩,
    ⟨8, 7, .ro, 0, .any⟩,
    ⟨16, 1, .lv, 0, .any⟩] }
def F.IMG_ROLLBACK_LEVEL : Fld := ⟨0x2A02, 0, false, 0, 7⟩
def F.IMG_ROLLBACK_COUNT : Fld := ⟨0x2A02, 0, false, 8, 7⟩
def F.IMG_ROLLBACK_ADVANCE : Fld := ⟨0x2A02, 0, false, 16, 1⟩
/-- IMG_START, after R380. -/
def R.IMG_START : RegDef :=
  { name := "IMG_START", base := 0x2A03, stride := 0, count := 1, perStall := false, fields := [
    ⟨0, 16, .ro, 0, .any⟩] }
def F.IMG_START_MS : Fld := ⟨0x2A03, 0, false, 0, 16⟩
/-- IMG_FLASH, after R380. -/
def R.IMG_FLASH : RegDef :=
  { name := "IMG_FLASH", base := 0x2A04, stride := 0, count := 1, perStall := false, fields := [
    ⟨0, 5, .ro, 0, .any⟩,
    ⟨5, 1, .ro, 0, .any⟩,
    ⟨6, 1, .ro, 0, .any⟩] }
def F.IMG_FLASH_DENS : Fld := ⟨0x2A04, 0, false, 0, 5⟩
def F.IMG_FLASH_QUAD : Fld := ⟨0x2A04, 0, false, 5, 1⟩
def F.IMG_FLASH_ADDR4 : Fld := ⟨0x2A04, 0, false, 6, 1⟩
/-- IMG_OTP_SEL, after R380. -/
def R.IMG_OTP_SEL : RegDef :=
  { name := "IMG_OTP_SEL", base := 0x2A08, stride := 0, count := 1, perStall := false, fields := [
    ⟨0, 5, .lv, 0, .any⟩] }
def F.IMG_OTP_SEL_WORD : Fld := ⟨0x2A08, 0, false, 0, 5⟩
/-- IMG_OTP_DATA, after R380. -/
def R.IMG_OTP_DATA : RegDef :=
  { name := "IMG_OTP_DATA", base := 0x2A09, stride := 0, count := 1, perStall := false, fields := [
    ⟨0, 32, .lv, 0, .any⟩] }
def F.IMG_OTP_DATA_DATA : Fld := ⟨0x2A09, 0, false, 0, 32⟩
/-- IMG_OTP_CTRL, after R380. -/
def R.IMG_OTP_CTRL : RegDef :=
  { name := "IMG_OTP_CTRL", base := 0x2A0A, stride := 0, count := 1, perStall := false, fields := [
    ⟨0, 16, .lv, 0, .any⟩,
    ⟨16, 1, .ro, 0, .any⟩] }
def F.IMG_OTP_CTRL_KEY : Fld := ⟨0x2A0A, 0, false, 0, 16⟩
def F.IMG_OTP_CTRL_BUSY : Fld := ⟨0x2A0A, 0, false, 16, 1⟩

/-- The registers of block DEV. -/
def regsDEV : List RegDef := [
  R.DEV_ID, R.DEV_REV, R.DEV_SERIAL_LO, R.DEV_SERIAL_HI, R.DEV_FMAC_LO, R.DEV_FMAC_HI,
  R.DEV_TMASK, R.DEV_TMASK5, R.DEV_TMASK7]

/-- The registers of block MNT. -/
def regsMNT : List RegDef := [
  R.MNT_REF, R.MNT_LOCK_TH, R.MNT_P_FREQ, R.MNT_STATE, R.MNT_HOLD_LO, R.MNT_HOLD_HI,
  R.MNT_CHRON_LO, R.MNT_CHRON_HI, R.MNT_CHRON_ERA]

/-- The registers of block TLY. -/
def regsTLY : List RegDef := [
  R.TLY_SRC, R.TLY_PRESET_LO, R.TLY_PRESET_HI, R.TLY_TP_MODE, R.TLY_TP_COUNT, R.TLY_BW,
  R.TLY_LOSS_FACTOR, R.TLY_STILL_TIME, R.TLY_COAST_MAX, R.TLY_REJOIN, R.TLY_SLEW_MAX, R.TLY_INDEX_TOL,
  R.TLY_INDEX_OFFSET, R.TLY_CLOCK_INC, R.TLY_LATE_SPAN, R.TLY_LATE_MITES, R.TLY_STATE, R.TLY_SNAP_PLO,
  R.TLY_SNAP_PHI, R.TLY_SNAP_CLO, R.TLY_SNAP_CHI, R.TLY_SNAP_SPD, R.TLY_LAST_JUMP, R.TLY_INDEX_LAST,
  R.TLY_LS_TLO, R.TLY_LS_THI, R.TLY_LS_CTRL]

/-- The registers of block CNV. -/
def regsCNV : List RegDef := [
  R.CNV_MODE, R.CNV_OVR, R.CNV_RELIEF, R.CNV_RETIRED]

/-- The registers of block CAL. -/
def regsCAL : List RegDef := [
  R.CAL_MODE, R.CAL_INTERVAL, R.CAL_DWELL, R.CAL_HANDOVER, R.CAL_VERIFY, R.CAL_FREEZE,
  R.CAL_AREF, R.CAL_STATUS, R.CAL_QUALITY, R.CAL_LASTSTEP_LO, R.CAL_LASTSTEP_HI, R.CAL_LIM_OFS,
  R.CAL_LIM_GAIN, R.CAL_LIM_SKEW, R.CAL_LIM_BW, R.CAL_LIM_INL, R.CAL_INL_SEL, R.CAL_INL_DATA,
  R.CAL_AUX_PERIOD, R.CAL_AUX_STAT, R.CAL_AUX_INT, R.CAL_CHECK_WINDOW, R.CAL_PLAUS_LIMIT, R.CAL_REFEREE,
  R.CAL_CS_OFS, R.CAL_CS_GAIN, R.CAL_CS_SKEW, R.CAL_CS_BW, R.CAL_RSK]

/-- The registers of block AUX. -/
def regsAUX : List RegDef := [
  R.AUX_SEQ_LEN, R.AUX_SEQ_PERIOD, R.AUX_KEEP_WARM, R.AUX_PAIR, R.AUX_WATCH_PERIOD, R.AUX_SEQ,
  R.AUX_INJ, R.AUX_INJ16, R.AUX_INJ17, R.AUX_COR, R.AUX_RES, R.AUX_WATCH,
  R.AUX_WATCH_TH, R.AUX_WATCH_STAT]

/-- The registers of block WGH. -/
def regsWGH : List RegDef := [
  R.WGH_TEST_PERIOD, R.WGH_HANG_LIMIT, R.WGH_POOL, R.WGH_TEST, R.WGH_RETIRED0, R.WGH_RETIRED1,
  R.WGH_RETIRED2, R.WGH_OWN]

/-- The registers of block STL. -/
def regsSTL : List RegDef := [
  R.STL_SRC, R.STL_STATE, R.STL_MEAS_CTRL, R.STL_MEAS_FAIL, R.STL_MEAS_HEAD, R.STL_MEAS_TOTAL,
  R.STL_MS_ADDR, R.STL_MS_DATA, R.STL_FORMAT, R.STL_SEGLEN, R.STL_RING_BASE, R.STL_RING_SIZE,
  R.STL_POST, R.STL_POST_HI, R.STL_RING_CTRL, R.STL_RING_STAT, R.STL_LASTSEG_LO, R.STL_LASTSEG_HI,
  R.STL_SLOT, R.STL_CHAIN, R.STL_WIN_ADDR, R.STL_WIN_DATA, R.STL_LANES, R.STL_ADMIT,
  R.STL_BEL_CTRL, R.STL_BEL_REARM, R.STL_BEL_HOLDOFF, R.STL_BEL_HOLDSRC, R.STL_BEL_AUTO, R.STL_BEL_CMP_CFG,
  R.STL_BEL_CMP_LVL, R.STL_BEL_S_COND, R.STL_BEL_S_ACT, R.STL_BEL_CNT_CFG, R.STL_BEL_CNT_TGT, R.STL_BEL_TMR_CFG,
  R.STL_BEL_TMR_DUR, R.STL_BEL_TPOS_LO, R.STL_BEL_TPOS_HI, R.STL_BEL_TPOS_CTRL, R.STL_BEL_EXT, R.STL_BEL_STAT,
  R.STL_BEL_MISS]

/-- The registers of block SIV. -/
def regsSIV : List RegDef := [
  R.SIV_CTRL, R.SIV_SYNC, R.SIV_LOAD, R.SIV_WIN_ADDR, R.SIV_WIN_DATA, R.SIV_FADE_LEN,
  R.SIV_SETTLE, R.SIV_CH_CFG, R.SIV_CH_BANK, R.SIV_CH_STAT]

/-- The registers of block YRD. -/
def regsYRD : List RegDef := [
  R.YRD_GEOM, R.YRD_AXIS, R.YRD_XSTEP, R.YRD_XOFS, R.YRD_XPHASE, R.YRD_MAXTPS,
  R.YRD_EVERY, R.YRD_REGION, R.YRD_DECAY, R.YRD_CTRL, R.YRD_STAT, R.YRD_LOAD,
  R.YRD_SNAP_CLO, R.YRD_SNAP_CHI, R.YRD_SNAP_PLO, R.YRD_SNAP_PHI]

/-- The registers of block HAL. -/
def regsHAL : List RegDef := [
  R.HAL_SLOT0, R.HAL_SLOT1, R.HAL_SLOT2, R.HAL_SCRUB, R.HAL_SCRUB_STAT, R.HAL_ECC_ADDR,
  R.HAL_FREEZE, R.HAL_IDLE, R.HAL_Q_SEL, R.HAL_Q_STAT, R.HAL_RGN_BASE, R.HAL_RGN_CFG]

/-- The registers of block ARB. -/
def regsARB : List RegDef := [
  R.ARB_DSLOT, R.ARB_DSLOT6, R.ARB_DFREEZE, R.ARB_DIDLE]

/-- The registers of block DRM. -/
def regsDRM : List RegDef := [
  R.DRM_TOPO, R.DRM_MAP, R.DRM_IDLE_SR, R.DRM_HAMMER_TH, R.DRM_REFRESH, R.DRM_RETRAIN,
  R.DRM_SCRUB, R.DRM_SCRUB_STAT, R.DRM_STAT, R.DRM_BUDGET, R.DRM_CHARGE, R.DRM_ECC_CTRL,
  R.DRM_ELOG_SEL, R.DRM_ELOG_DATA, R.DRM_ELOG_HEAD, R.DRM_HAMMER_STAT, R.DRM_TR_CTRL, R.DRM_TR_SEED,
  R.DRM_TR_SWEEP, R.DRM_TR_DSEL, R.DRM_TR_DDATA, R.DRM_TR_ERR0, R.DRM_TR_ERR1, R.DRM_TR_RES]

/-- The registers of block SGN. -/
def regsSGN : List RegDef := [
  R.SGN_CTRL, R.SGN_HACT, R.SGN_HBLK, R.SGN_VACT, R.SGN_VBLK, R.SGN_REGIONS,
  R.SGN_LAYERS, R.SGN_L0_SRC, R.SGN_L_POS, R.SGN_L_SIZE, R.SGN_L1_SRC, R.SGN_L1_COLOUR,
  R.SGN_L2_ADDR, R.SGN_L2_ECRC, R.SGN_PAL_ADDR, R.SGN_PAL_DATA, R.SGN_COMMIT, R.SGN_FRAME,
  R.SGN_FLIP_FRAME, R.SGN_FLIP_CLO, R.SGN_FLIP_CHI, R.SGN_FLIP_PLO, R.SGN_FLIP_PHI, R.SGN_L_DONE_FRAME,
  R.SGN_RB, R.SGN_RB_FRAME]

/-- The registers of block CRY. -/
def regsCRY : List RegDef := [
  R.CRY_CTRL, R.CRY_LEAD, R.CRY_DELAY, R.CRY_ASYM, R.CRY_PORT, R.CRY_HOP,
  R.CRY_ACCUM, R.CRY_ID, R.CRY_DEPTH, R.CRY_LEAD_NOW, R.CRY_OFS_LO, R.CRY_OFS_HI,
  R.CRY_OFS_ERA, R.CRY_OFS_FR, R.CRY_RXL, R.CRY_LT_A, R.CRY_LT_B]

/-- The registers of block BTR. -/
def regsBTR : List RegDef := [
  R.BTR_MAC_HI, R.BTR_MAC_LO, R.BTR_IP, R.BTR_PLCA, R.BTR_LINK, R.BTR_STATUS,
  R.BTR_QUEUE]

/-- The registers of block WHF. -/
def regsWHF : List RegDef := [
  R.WHF_CTRL, R.WHF_MAC_HI, R.WHF_MAC_LO, R.WHF_STAT, R.WHF_CID, R.WHF_SENT]

/-- The registers of block PWR. -/
def regsPWR : List RegDef := [
  R.PWR_REGIME, R.PWR_WAKE_EN, R.PWR_WAKE_TPS, R.PWR_WAKE_CAUSE, R.PWR_THERM, R.PWR_TEMP,
  R.PWR_STAT, R.PWR_VCORE, R.PWR_RG_CFG, R.PWR_RG_STAT]

/-- The registers of block TOL. -/
def regsTOL : List RegDef := [
  R.TOL_CNT]

/-- The registers of block LOG. -/
def regsLOG : List RegDef := [
  R.LOG_HEAD, R.LOG_SEL, R.LOG_DATA]

/-- The registers of block IMG. -/
def regsIMG : List RegDef := [
  R.IMG_STAT, R.IMG_BUILD, R.IMG_ROLLBACK, R.IMG_START, R.IMG_FLASH, R.IMG_OTP_SEL,
  R.IMG_OTP_DATA, R.IMG_OTP_CTRL]

/-- Every register of the block index (R403). -/
def allRegs : List RegDef :=
  regsDEV ++ regsMNT ++ regsTLY ++ regsCNV ++ regsCAL ++ regsAUX ++ regsWGH ++ regsSTL ++ regsSIV ++ regsYRD ++ regsHAL ++ regsARB ++ regsDRM ++ regsSGN ++ regsCRY ++ regsBTR ++ regsWHF ++ regsPWR ++ regsTOL ++ regsLOG ++ regsIMG

end Sys2Proof.Machine
end

