-- ==== Sys2Proof/Machine/Sparse.lean ====
section
/-! DEFINITION. Maps with a default: a list of (key, value) pairs in one canonical form, keys strictly rising and no
entry equal to what an unlisted key reads as. Memories, the parameter words and the toll counters are held so. -/

namespace Sys2Proof.Machine

/-- What key `k` reads as. -/
def Sparse.get {α : Type} (d : Nat → α) : List (Nat × α) → Nat → α
  | [], k => d k
  | (j, v) :: m, k => if k < j then d k else if k = j then v else Sparse.get d m k

/-- The cell of key `k`, listed only where it differs from the default. -/
def Sparse.cell {α : Type} [DecidableEq α] (d : Nat → α) (k : Nat) (v : α) : List (Nat × α) :=
  if v = d k then [] else [(k, v)]

/-- `m` with `v` at key `k`. -/
def Sparse.set {α : Type} [DecidableEq α] (d : Nat → α) : List (Nat × α) → Nat → α → List (Nat × α)
  | [], k, v => Sparse.cell d k v
  | (j, w) :: m, k, v =>
    if k < j then Sparse.cell d k v ++ (j, w) :: m
    else if k = j then Sparse.cell d k v ++ m
    else (j, w) :: Sparse.set d m k v

/-- The canonical form: keys strictly rising, no entry equal to the default. -/
def Sparse.wf {α : Type} [DecidableEq α] (d : Nat → α) : List (Nat × α) → Bool
  | [] => true
  | (j, v) :: m => decide (v ≠ d j) && m.all (fun c => decide (j < c.1)) && Sparse.wf d m

/-- Every key of a list of pairs written in turn. -/
def Sparse.setAll {α : Type} [DecidableEq α] (d : Nat → α) (m : List (Nat × α)) (l : List (Nat × α)) :
    List (Nat × α) :=
  l.foldl (fun a c => Sparse.set d a c.1 c.2) m

/-- The register that holds parameter number `n`, with its instance in the block and its stall. -/
def locate (n : Nat) : Option (RegDef × Nat × Nat) :=
  allRegs.findSome? fun r =>
    let st := if r.perStall then (n - 0x1000) / 0x100 else 0
    let m := n - (if r.perStall then 0x100 * st else 0)
    if r.perStall && (n < 0x1000 || 0x2000 ≤ n) then none
    else if m < r.base then none
    else
      let k := if r.stride = 0 then 0 else (m - r.base) / r.stride
      if m = r.base + r.stride * k && k < r.count then some (r, k, st) else none

/-- The value a parameter word has at reset, by its field table: the fields that hold what is written to them. -/
def RegDef.resetWord (r : RegDef) : Word :=
  r.fields.foldl (fun w f =>
    match f.acc with
    | .lv | .sl | .im => w ||| BitVec.ofNat 32 (f.reset <<< f.lo)
    | _ => w) 0

/-- The reset word of parameter `n`; zero for an unused number. -/
def resetWord (n : Nat) : Word :=
  match locate n with
  | some (r, _, _) => r.resetWord
  | none => 0

/-- The bits of a register whose fields have one of the given access classes. -/
def RegDef.mask (r : RegDef) (p : Acc → Bool) : Word :=
  r.fields.foldl (fun w f => if p f.acc then w ||| BitVec.ofNat 32 ((2 ^ f.width - 1) <<< f.lo) else w) 0

end Sys2Proof.Machine
end

