-- ==== Sys2Proof/Machine/State.lean ====
section
/-! DEFINITION. The state of the device, as plain data: every register, memory, queue, mode and pin the spec gives it,
and the queue of commands that wait. The default of every field is its value at reset. -/

namespace Sys2Proof.Machine

/-- A change of a tally pin's level that the glitch filter still holds (R34). -/
structure HeldChange where
  pin : TallyPin
  level : Bool
  stamp : Nat
deriving DecidableEq, Repr

/-- A tally port (R33 to R36, R41). -/
structure TallyPort where
  /-- levels registered after the glitch filter -/
  a : Bool := false
  b : Bool := false
  z : Bool := false
  /-- changes the filter holds, oldest first -/
  held : List HeldChange := []
  /-- the count number, in counts from the frame's origin -/
  count : Int := 0
  /-- the position of count 0 of the frame, in sub-grains -/
  frame : Rat := 0
  /-- stamp of the last count registered (R34, overrun) -/
  lastCount : Option Nat := none
  /-- whether the last count or phase ran in reverse (R49) -/
  reverse : Bool := false
  /-- the A/B phase, 0 to 3, at count 0 (R47) -/
  quad0 : Nat := 0
  /-- SINCOS: the last phase measured, 16 bits (R35) -/
  phase : Option Nat := none
  /-- SINCOS: the sample that waits for the other of its pair: its entry in the regular sequence, whether it is the cosine, its
  value and its stamp -/
  half : Option (Nat × Bool × Int × Nat) := none
  /-- MAINS: above the midpoint (R36) -/
  high : Bool := false
  /-- MAINS: the previous auxiliary sample and its stamp (R36) -/
  lastAux : Option (Int × Nat) := none
  /-- MAINS: stamp of the last passage of the midpoint, interpolated -/
  midStamp : Nat := 0
  /-- stamps of the last measurement and of the one before (R45, R50) -/
  lastMeas : Option Nat := none
  prevMeas : Option Nat := none
  /-- the position of the last measurement, in the port's own frame (R50) -/
  lastPos : Rat := 0
deriving DecidableEq, Repr

/-- A measurement registered for the tracking loop (R43). -/
structure Meas where
  port : Fin 4
  /-- the measured position, in sub-grains of the count frame -/
  pos : Rat
  /-- chronicle stamp in mites; a fraction for a compensated Crier frame -/
  stamp : Rat
deriving DecidableEq, Repr

/-- How the next measurement is expected (02_tally, before R45). -/
inductive Expect
  /-- no interval is known yet -/
  | none
  /-- a fixed interval, in mites -/
  | fixed (mites : Rat)
  /-- the time in which a trajectory of this speed and acceleration (per tick) covers `span` sub-grains -/
  | ramp (spd acc span : Rat)
deriving DecidableEq, Repr

/-- The tally (chapter 02). Positions are in sub-grains, speeds in sub-grains per tick. -/
structure Tally where
  mode : TallyMode := .stopped
  active : Fin 4 := 0
  onFb : Bool := false
  pos : Rat := 0
  spd : Rat := 0
  acc : Rat := 0
  /-- slew residue still to be closed (R48) -/
  residue : Rat := 0
  /-- STEP jump to apply in the present tick (R48) -/
  jump : Rat := 0
  /-- the part of the present tick, in ticks, that lies before the edge that ends REACQUIRING (R45) -/
  late : Rat := 0
  /-- a STEP is applied in the present tick -/
  stepped : Bool := false
  /-- the jump of a rejoin in the present tick (tally coincidences) -/
  rejoined : Option Rat := none
  /-- COASTING has ended in LOST in the present tick, whose motion is still the extrapolated one (R57, launch coincidences) -/
  leaving : Bool := false
  /-- the last broadcast: position, speed (whole sub-grains) and the chronicle of its tick (R43) -/
  bp : Int := 0
  bs : Int := 0
  bchron : Nat := 0
  /-- whether the last broadcast's tick was extrapolated, and whether it held a step or a slew (R46, R48) -/
  bcoast : Bool := false
  /-- tally-based targets were tested on that tick (R57) -/
  fires : Bool := false
  /-- the tally coasted, was LOST or reacquired when that tick closed (R46) -/
  wasCoast : Bool := false
  /-- a STEP was applied or a slew began in that tick (R46, R48) -/
  brejoin : Bool := false
  /-- a STEP was applied or a slew began in that tick, and a residue was left after it (R192) -/
  bbegins : Bool := false
  slewLeft : Bool := false
  /-- gain and spacing of the last measurement (R43, R49) -/
  gain : Rat := 0
  lastDt : Rat := 1
  /-- chronicle of the tick of the last measurement, and its stamp -/
  lastTick : Nat := 0
  lastStamp : Rat := 0
  /-- the position of the last measurement (R45) -/
  lastPos : Rat := 0
  /-- the expected interval to the next measurement (R45) -/
  expect : Expect := .none
  /-- the instant at which coasting began -/
  coastAt : Nat := 0
  /-- edges since LOST was left (R45) -/
  reacq : Nat := 0
  /-- the four ports -/
  ports : Vector TallyPort 4 := Vector.replicate 4 {}
  /-- measurements registered in the present tick and not yet taken, oldest first -/
  measQ : List Meas := []
  /-- the measurement the loop uses in the present tick -/
  loop : Option Meas := none
  /-- whether a measurement has been taken in the present tick (an edge beats a timeout) -/
  measured : Bool := false
  /-- index registered in the present tick: its stamp (R49) -/
  index : Option Nat := none
  /-- what the fallback port's position lies below the primary's (R50) -/
  fbOffset : Rat := 0
  /-- INDEXED (R49) -/
  indexed : Bool := false
  /-- TLY_LAST_JUMP and TLY_INDEX_LAST -/
  lastJump : Word := 0
  indexLast : Word := 0
  /-- the four latched snapshot words (R58) -/
  snapPhi : Word := 0
  snapClo : Word := 0
  snapChi : Word := 0
  snapSpd : Word := 0
deriving DecidableEq, Repr

/-- What arming a slot latches (R55). -/
structure Arming where
  target : Quad
  dir : Nat
  chron : Bool
deriving DecidableEq, Repr

/-- A launch slot (R52 to R56). -/
structure Slot where
  armed : Bool := false
  fired : Bool := false
  late : Bool := false
  latched : Arming := ⟨0, 0, false⟩
  /-- an arming or a disarm registered in the present tick, in force from the next (R39) -/
  arming : Option Arming := none
  disarm : Bool := false
  /-- the test at arming is still to be made (R55) -/
  test : Bool := false
  /-- the position at the last mite evaluated, in grains -/
  prev : Int := 0
deriving DecidableEq, Repr

/-- The actions of a firing, which take effect in the tick after the crossing tick (R56): those of a launch slot, or
those a Crier receive entry carries (15_crier R327). -/
structure Action where
  instant : Nat
  /-- chronicle of mite 0 of the tick in which the actions take effect -/
  due : Nat
  /-- what the firing asks for (R56) -/
  bell : Option (Fin 16) := none
  tout : Option (Fin 4) := none
  start : Option (Fin 16) := none
  snap : Option (Fin 8) := none
  /-- CRY: the words of the launch template as they stood at the firing, and the crossing position of a tally-based slot
  in grains (15_crier R326) -/
  cry : Option (Word × Word × Option Int) := none
  /-- launch slot 0 to 63, or 64 + e for Crier receive entry e -/
  unit : Nat := 0
  /-- the firing was late (R55) -/
  late : Bool := false
deriving DecidableEq, Repr

/-- A TRIG_OUT pin (R56): its level, rising edges to come, and the instant of its fall. -/
structure TrigOut where
  level : Bool := false
  rises : List Nat := []
  fall : Option Nat := none
deriving DecidableEq, Repr

/-- A Mint (chapter 03). -/
structure Mint where
  mode : MintMode := .stopped
  /-- PULLING: the frequency error has reached zero and the phase detector is re-zeroed (R66) -/
  settled : Bool := false
  /-- PULLING: chronicle of its beginning, and of the re-zeroing (R66) -/
  pullAt : Nat := 0
  zeroAt : Nat := 0
  /-- has run since VAON was applied (R430) -/
  ran : Bool := false
  /-- the present DCO words (R62, R63) -/
  dco : Dco := {}
  /-- the frozen words of HOLDOVER (R65) -/
  frozen : Dco := {}
  /-- outputs gated by the power manager (R69) -/
  gatedPower : Bool := true
  /-- the output's last change that has taken effect, and those still to come (R69) -/
  gates : List GateEdge := []
deriving DecidableEq, Repr

/-- The references (R60, R61) and the holdover length of Mint C (R68). -/
structure Refs where
  /-- each reference: seen present since it was last absent, and qualified -/
  refPresent : Bool := false
  refOk : Bool := false
  cp0Present : Bool := false
  cp0Ok : Bool := false
  /-- reference in use: CP0 (MNT_STATE.ACTIVE) -/
  active : Bool := false
  /-- a change of reference whose relock waits for its qualification (R61, R66) -/
  relockDue : Bool := false
  /-- chronicle at the present or last entry of Mint C into HOLDOVER -/
  holdStart : Nat := 0
  holding : Bool := false
  /-- the length of the last holdover, when it is over -/
  holdLen : Nat := 0
  /-- latched by a read of MNT_CHRON_LO (R71) -/
  chronHi : Word := 0
  chronEra : Word := 0
deriving DecidableEq, Repr

/-- What the relief slice is being moved for (R78). -/
inductive MoveFor | referee | witness (suspect : Fin 16) | calibration | retirement
deriving DecidableEq, Repr

/-- What the relief slice and a calibration are doing (04_converters R78 to R90, 05_calibration R106, R112). The instants
are chronicle mites. -/
inductive ReliefPhase
  | idle
  /-- moved to `target`, its output discarded until `due` -/
  | settling (goal : MoveFor) (due : Nat)
  /-- a referee window, or the witness window for a suspect slice -/
  | window (suspect : Option (Fin 16))
  /-- handover shadow: step 2 of R106 -/
  | shadow
  /-- the slice is connected to the tone and settles -/
  | tone (due : Nat)
  /-- sub-step 0 to 9 of the dwell, ending at `due` -/
  | dwell (sub : Nat) (due : Nat)
  /-- the check of the candidate, ending at `due` -/
  | check (due : Nat)
  /-- the slice is back on its input and settles until `due` -/
  | returning (due : Nat)
  | verify
  /-- after a failed verification, until `due` -/
  | restoring (due : Nat)
  /-- the relief slice's own calibration, ending at `due` -/
  | selfCal (due : Nat)
  /-- permanently in place of a retired slice -/
  | permanent
  /-- retired and powered down -/
  | off
deriving DecidableEq, Repr

/-- The converter front end (chapter 04). -/
structure Conv where
  /-- the relief slice (R82) -/
  phase : ReliefPhase := .idle
  /-- the live slice whose position the relief slice occupies -/
  target : Fin 16 := 0
  /-- the live slice the relief slice substitutes for, in force -/
  substitute : Option (Fin 16) := none
  /-- a handover registered in the present tick (R81): what `substitute` becomes with the next tick -/
  handover : Option (Option (Fin 16)) := none
  /-- consecutive suspect windows of each slice (R84) -/
  suspect : Vector Nat 16 := Vector.replicate 16 0
  /-- the slice of the next referee window -/
  refNext : Fin 16 := 0
  /-- CNV_RETIRED: the slice retired, 16 the relief slice -/
  retired : Option (Fin 17) := none
  /-- a slice whose retirement is decided, or has happened (R88) -/
  degraded : Bool := false
  /-- the running window: length and limit taken at its start, samples so far, sum of differences (R83) -/
  winLen : Nat := 0
  winLimit : Nat := 0
  winCount : Nat := 0
  winSum : Nat := 0
  /-- the window takes samples from this instant on; the sum of its signed differences (R90; 05_calibration R118) -/
  winFrom : Nat := 0
  winDiff : Int := 0
  /-- CAL_REFEREE -/
  lastMad : Nat := 0
  lastSlice : Nat := 0
  lastSusp : Bool := false
  lastWit : Bool := false
  /-- the value p carried per channel from the last container of the tick before (R103) -/
  carry : Vector Rat 16 := Vector.replicate 16 0
deriving DecidableEq, Repr

/-- Background calibration (chapter 05). -/
structure Cal where
  /-- coefficients of slices 0 to 16 for FULL, and for LEAN (R102) -/
  full : Vector Coef 17 := Vector.replicate 17 {}
  lean : Vector Coef 17 := Vector.replicate 17 {}
  /-- the relief slice's SKEW entries for the sixteen phases, for FULL and for LEAN -/
  reliefSkewFull : Vector Int 16 := Vector.replicate 16 0
  reliefSkewLean : Vector Int 16 := Vector.replicate 16 0
  /-- the slice under calibration, 16 the relief slice -/
  slice : Option (Fin 17) := none
  /-- the slice of the next calibration in the round -/
  next : Fin 17 := 0
  /-- slices skipped for the rest of the round (R107) -/
  skipped : List (Fin 17) := []
  /-- the candidate under check (R108) -/
  candidate : Option Coef := none
  /-- the zero interval of the present dwell: its samples, and how many (R104) -/
  zeroSum : Rat := 0
  zeroCount : Nat := 0
  /-- the round of R114 has still to end -/
  first : Bool := true
  /-- the mode in force (R115), as CAL_MODE codes it -/
  mode : Nat := 1
  /-- a calibration is asked for and waits for the relief slice -/
  request : Bool := false
  /-- chronicle of the start of the last calibration (R113) -/
  startAt : Nat := 0
  /-- a step that takes effect with the next tick (R110): whether it belongs to the LEAN set, the slice and its coefficients; for
  the relief slice its SKEW entries -/
  stepDue : Option (Bool × Fin 17 × Coef) := none
  reliefDue : Option (Vector Int 16) := none
  /-- positions that took a step at mite 0 of the present tick -/
  stepped : List (Fin 16) := []
  steps : Nat := 0
  /-- CAL_STEP (R110) -/
  lastSlice : Nat := 0
  lastStep : Nat := 0
  /-- residuals of each position's last verification (R118): mean difference, gain ratio minus one, lag in fs -/
  residuals : Vector (Rat × Rat × Rat) 16 := Vector.replicate 16 (0, 0, 0)
  spur : Word := 0xC000
  skewRms : Nat := 0
deriving DecidableEq, Repr

/-- What the auxiliary converter is converting (R91). -/
inductive AuxJob | entry (i : Nat) | injected (source : Fin 19) | fragment | last (i : Nat)
deriving DecidableEq, Repr

/-- A conversion in progress: its source, its channel, and the chronicle of its acquisition's beginning. -/
structure AuxConv where
  job : AuxJob
  chan : Nat
  start : Nat
deriving DecidableEq, Repr

/-- The latest result of a channel (R98). -/
structure AuxResult where
  result : Nat := 0
  count : Nat := 0
  valid : Bool := false
deriving DecidableEq, Repr

/-- A Watch comparator (R99). -/
structure WatchComp where
  hits : Nat := 0
  tripped : Bool := false
  now : Bool := false
deriving DecidableEq, Repr

/-- The auxiliary converter and its own calibration (04_converters R91 to R100, 05_calibration R119 to R122). -/
structure Auxiliary where
  /-- the conversion that runs -/
  conv : Option AuxConv := none
  /-- the next entry of the regular sequence in progress -/
  entry : Option Nat := none
  /-- chronicle of the next period start (R94) -/
  periodAt : Nat := 0
  /-- sources with a pending request (R96) -/
  pending : List (Fin 19) := []
  /-- sources whose trigger or firing has still to make its request (R96) -/
  asked : List (Fin 19) := []
  /-- chronicle of the next round of the power manager (R96) -/
  roundAt : Nat := 0
  /-- chronicle of the last power-down (R95) -/
  downAt : Nat := 0
  /-- the converter is powered up (R95) -/
  powered : Bool := false
  /-- the start-up delay of a powered-down converter ends (R95) -/
  warmAt : Option Nat := none
  /-- the 35 results, by channel -/
  results : Vector AuxResult 35 := Vector.replicate 35 {}
  comps : Vector WatchComp 8 := Vector.replicate 8 {}
  /-- chronicle of the next request of the Watch timer -/
  timerAt : Nat := 0
  /-- the power manager's round: the next code to request -/
  round : Option Nat := none
  /-- internal offset and gain (R122) -/
  ofs : Int := 0
  gain : Nat := 0x8000
  /-- calibration of the converter itself (R119, R120) -/
  calActive : Bool := false
  calFrag : Nat := 0
  calRounds : Nat := 0
  calStart : Nat := 0
  /-- the last calibration was unfinished at the expiry of CAL_AUX_PERIOD -/
  calLate : Bool := false
  /-- conversions since the last fragment (R120) -/
  sinceFrag : Nat := 0
deriving DecidableEq, Repr

/-- The status items of R342 and R343. -/
structure Status where
  level : Nat := 0
  attnNew : Bool := false
  segReady : Bool := false
  measLimit : Bool := false
  tollMoved : Bool := false
  aseq : Nat := 0
deriving DecidableEq, Repr
/-- What a weigher is doing (06_weighers, WGH_OWNk). -/
inductive Role | free | assigned | testing | source | destination | retired
deriving DecidableEq, Repr

/-- The code of WGH_OWNk.ROLE. -/
def Role.code : Role → Nat
  | .free => 0 | .assigned => 1 | .testing => 2 | .source => 3 | .destination => 4 | .retired => 5

/-- A weigher (R128, R137). -/
structure Weigher where
  role : Role := .free
  stall : Fin 16 := 0
  /-- position in the stall's dealing rotation -/
  share : Nat := 0
deriving DecidableEq, Repr

/-- How far a migration has come (R139): the copy, the wait for the block boundary after it, the transfer. -/
inductive MoveStage | copying | waiting | transferring
deriving DecidableEq, Repr

/-- A migration in progress. -/
structure Migration where
  src : Fin 68
  dst : Fin 68
  stage : MoveStage := .copying
  /-- chronicle at which the present phase is over -/
  due : Nat
deriving DecidableEq, Repr

/-- A chain that a hang has stopped, until it restarts at the next block boundary (R142). -/
structure Hung where
  /-- the weigher on which it restarts, and whether that is the one that hung -/
  weigher : Fin 68
  inPlace : Bool
  /-- the stall and its place in the dealing rotation -/
  stall : Fin 16
  share : Nat
  /-- the block of the stall's stream in which the watchdog reset the weigher -/
  block : Nat := 0
deriving DecidableEq, Repr

/-- The weigher pool (R137 to R142). -/
structure Pool where
  weighers : Vector Weigher 68 := Vector.replicate 68 {}
  /-- WGH_TEST -/
  next : Fin 68 := 0
  last : Fin 68 := 0
  failed : Bool := false
  tests : Nat := 0
  /-- the migration under way (R139) -/
  move : Option Migration := none
  /-- a test in progress, with the chronicle at which it ends -/
  test : Option (Fin 68 × Nat) := none
  /-- weighers to be tested out of turn (R142) -/
  outOfTurn : List (Fin 68) := []
  /-- hung weighers whose restart is due (R142) -/
  hung : List Hung := []
  /-- chronicle of the next expiry of WGH_TEST_PERIOD -/
  periodAt : Nat := 60 * 40000000000
deriving DecidableEq, Repr

/-- One value of a stream: a source sample, or an output of a stage with the source sample it is attributed to (R182). -/
structure Val where
  /-- number of the source sample, from START -/
  num : Nat := 0
  /-- chronicle of the source sample, and of mite 0 of its tick -/
  chron : Nat := 0
  tick : Nat := 0
  /-- the tally at that sample (R44): position in grains, the STEP jumps up to it in grains, the broadcast speed and the
  state of its tick -/
  pos : Int := 0
  jump : Int := 0
  spd : Int := 0
  mode : TallyMode := .stopped
  /-- the value, or the minimum and the maximum of a pair -/
  lo : Int := 0
  hi : Int := 0
  /-- TURNRES: the index of the sample point, and whether it was crossed in reverse -/
  point : Nat := 0
  reverse : Bool := false
  /-- a settling output of the Sieve (R214) -/
  settling : Bool := false
deriving DecidableEq, Repr

/-- The modes of DECIM. -/
inductive DecimMode | sample | peak | average | envelope
deriving DecidableEq, Repr

/-- What a stage does, with the fields of its descriptor (06_weighers). -/
inductive StageOp
  | pass
  | decim (mode : DecimMode) (d envn : Nat)
  | fir (taps fdec coef : Nat)
  | turnres (klog maxtps phase : Nat)
  | change (deadband : Nat) (linear : Bool)
  | measure (slots : Nat)
  | yard (map : Fin 8) (span : Bool)
  | tap
deriving DecidableEq, Repr

/-- A stage of a chain. -/
structure StageDef where
  op : StageOp
  shift : Int
deriving DecidableEq, Repr

/-- What START fixes for a stall (R128, R175, R179, R182). -/
structure Setup where
  /-- KIND = 1: the stall and the stage of the TAP -/
  tap : Option (Fin 16 × Nat) := none
  /-- KIND = 0: the channel -/
  chan : Nat := 0
  /-- the chain -/
  stages : List StageDef := []
  /-- the source is a pair source -/
  pair : Bool := false
  /-- the stream's nominal sample interval in mites (R149) -/
  nominal : Nat := 1
  /-- ticks by which an output may follow its source sample (a TURNRES before the TAP) -/
  lag : Nat := 0
  /-- capacity C, post-trigger count, Dtot, units U -/
  cap : Nat := 64
  post : Nat := 1
  dtot : Nat := 1
  units : Nat := 64
  /-- the record format, its NSHIFT and CBLOG -/
  fmt : Nat := 1
  nshift : Nat := 2
  cblog : Nat := 10
  /-- ring: its base, the slot size S in bytes, the slot count N; FILL -/
  ring : Bool := false
  base : Nat := 0
  slotBytes : Nat := 0
  slots : Nat := 0
  fill : Bool := false
  /-- Hall address of the ledger -/
  ledger : Nat := 0
  /-- the stall writes ledger entries (R432) -/
  entries : Bool := false
  /-- the stall's Sieve channel is in force (R202) -/
  sieve : Bool := false
  /-- charges taken at admission (R169, R194, R239, R255): least segment period in ticks, record bits per tick with their
  headers in FULL and in LEAN, words staged per tick, and for each YARD stage its map, runs per tick and word-adds per tick -/
  period : Rat := 0
  bits : Rat := 0
  bitsLean : Rat := 0
  staging : Rat := 0
  yards : List (Fin 8 × Rat × Rat) := []
  /-- the measurement slots as they stood at START (R229) -/
  ms : List (Nat × Word) := []
  /-- the source rate in samples per tick (R135) in FULL and in LEAN, and the ring's length in bytes -/
  rate : Rat := 0
  rateLean : Rat := 0
  ringBytes : Nat := 0
deriving DecidableEq, Repr

/-- The working state of a stage (R128). -/
structure StageState where
  /-- inputs since START -/
  n : Nat := 0
  /-- FIR: the inputs before, newest first -/
  line : List Int := []
  /-- DECIM: the group so far -/
  first : Int := 0
  sum : Int := 0
  lo : Int := 0
  hi : Int := 0
  /-- TURNRES: the last three inputs, newest first; the stretch that a STEP has set back, in grains (R133) -/
  vals : List Val := []
  redo : Option (Int × Int) := none
deriving DecidableEq, Repr

/-- The tags of one tick of a stall's stream (R46, R48, R67, R110, R143). -/
structure TickTag where
  tick : Nat
  /-- number of its first sample, and how many -/
  first : Nat
  count : Nat
  /-- COAST, HOLD (R46, R67) -/
  coast : Bool := false
  hold : Bool := false
  rejoin : Bool := false
  /-- a STEP is applied, or a slew begins, in this tick (R192) -/
  begins : Bool := false
  /-- a calibration step took effect at mite 0 of this tick (R110) -/
  cal : Bool := false
  /-- containers of this tick were lost (R143) -/
  lost : Bool := false
  /-- the tally is LOST, REACQUIRING or STOPPED (R223) -/
  noPos : Bool := false
deriving DecidableEq, Repr

/-- The phases of a Bell (R145). -/
inductive Phase | stopped | wait | rearm | hold | armed | post
deriving DecidableEq, Repr

/-- The phase code of R145. -/
def Phase.code : Phase → Nat
  | .stopped => 0 | .wait => 1 | .rearm => 2 | .hold => 3 | .armed => 4 | .post => 5

/-- One polarity of a comparator: armed, and its state (R150). -/
structure Half where
  armed : Bool := false
  on : Bool := false
deriving DecidableEq, Repr

/-- A comparator (R150): the values before, newest first, both polarities, and the inside of a WINDOW. -/
structure Comp where
  hist : List Int := []
  rise : Half := {}
  fall : Half := {}
  inside : Option Bool := none
deriving DecidableEq, Repr

/-- A Bell timer (R158, R159): the instant and the position of its start. -/
structure BellTimer where
  run : Bool := false
  expired : Bool := false
  start : Rat := 0
  pos : Rat := 0
deriving DecidableEq, Repr

/-- Something from outside the stream, by its condition code, still to be placed on a sample (R149): a TRIG_IN change of
level, which may or may not be a registered edge, a cry, or a linked Bell's trigger. -/
structure Outside where
  code : Nat
  instant : Rat
  level : Bool := false
  edge : Bool := true
deriving DecidableEq, Repr

/-- A trigger that a launch forces (R56, R164). -/
structure Forced where
  instant : Nat
  late : Bool
deriving DecidableEq, Repr

/-- What takes effect at a decision tick (R165). -/
inductive Decision
  | trigger (instant : Rat)
  | cry (chan : Nat) (chron pos : Rat)
  | launch (slot : Fin 64) (chron pos : Rat)
deriving DecidableEq, Repr

/-- What the last sample made happen in a Bell. -/
inductive Happening
  | begun | armed | advanced | reset | expired (k : Fin 2) | auto | ignored
deriving DecidableEq, Repr

/-- A Bell (chapter 07). -/
structure Bell where
  phase : Phase := .stopped
  state : Nat := 0
  linked : Bool := false
  /-- the sample before, if any since START -/
  prev : Option Val := none
  /-- the four comparators, the counters and the timers -/
  comps : Vector Comp 4 := Vector.replicate 4 {}
  counts : Vector Nat 4 := Vector.replicate 4 0
  timers : Vector BellTimer 2 := Vector.replicate 2 {}
  /-- the holdoff read at the last accepted trigger, zero when it has elapsed or there is none (R162); the instant and
  the position of that trigger, its sample's number, and the events counted since -/
  holdWord : Nat := 0
  holdAt : Rat := 0
  holdPos : Rat := 0
  holdNum : Nat := 0
  holdCount : Nat := 0
  /-- the auto span (R167): its start, and whether it has elapsed in the present tick -/
  autoAt : Nat := 0
  autoPos : Int := 0
  autoDue : Bool := false
  /-- an RST by a timer expiry, held to the end of its tick (R157) -/
  rstHeld : Bool := false
  /-- the buffer begins at the first sample at or after this instant (R126, R146) -/
  beginAt : Option Nat := none
  /-- the buffer's first sample, its number, and the dead time before it (R168) -/
  bufFrom : Option Nat := none
  /-- units attributed before that sample, as counted when they were dropped (08_records R183) -/
  bufUnits : Option Nat := none
  dead : Nat := 0
  /-- chronicle of the last segment's end, its last sample's interval included; none at first -/
  endedAt : Option Nat := none
  /-- the marks of the buffer: sample number and state (R160) -/
  marks : List (Nat × Nat) := []
  /-- TRIG_IN levels as of the last sample -/
  levels : Vector Bool 4 := Vector.replicate 4 false
  /-- outside inputs and forced triggers that wait -/
  outs : List Outside := []
  forces : List Forced := []
  /-- decisions whose latency runs (R165) -/
  decisions : List (Nat × Decision) := []
  /-- instants of the triggers accepted since START, oldest first (DELAY, R222) -/
  accepted : List Rat := []
  /-- segments ended since START (R178) -/
  ended : Nat := 0
  /-- source samples that wait to be evaluated, oldest first -/
  obs : List Val := []
  seen : List Happening := []
  /-- STLn_BEL_MISS -/
  ignored : Nat := 0
  overlap : Nat := 0
deriving DecidableEq, Repr

/-- The merge of a segment's last burst (R278): the burst's address, the new bits from its start, and how many. -/
structure Merge where
  addr : Nat
  bits : Nat
  count : Nat
  /-- the burst that the mover holds, its new units in place -/
  data : List Byte := []
deriving DecidableEq, Repr

/-- What a hang has taken out of the units of a stall's record (R142, R143, R183): the source samples of the units lost, and,
newest first, each restart's first sample with the units counted before it. -/
structure Gaps where
  lost : List Nat := []
  restarts : List (Nat × Nat) := []
  /-- units that have been dropped as no segment needs them, where their number does not follow from that of the samples (R183) -/
  gone : Nat := 0
deriving DecidableEq, Repr

/-- A segment from its trigger to its header (R179, R196). -/
structure Segment where
  setup : Setup
  trig : Val
  frac : Nat
  forced : Bool := false
  late : Bool := false
  shortPre : Bool := false
  shortPost : Bool := false
  /-- number of the buffer's first sample; the dead time -/
  first : Nat
  dead : Nat
  /-- units attributed before the buffer's first sample, and before the trigger's, as counted when they were dropped (R183) -/
  unitsFirst : Option Nat := none
  unitsTrig : Option Nat := none
  /-- number of the last sample, and whether it has passed; its place among the segments since START -/
  last : Nat
  ended : Bool := false
  ordinal : Nat := 0
  /-- whether its end is decided; its marks (R185) -/
  decided : Bool := false
  marks : List (Nat × Nat) := []
  /-- the stall has been started again since (R178) -/
  old : Bool := false
  /-- after a STOP: the values and tags the segment still needs, the units its stall had lost, and the tick by which the values are
  there -/
  own : Option (List (Nat × Val) × List TickTag) := none
  gaps : Gaps := {}
  readyAt : Nat := 0
  /-- from here on as it closed: its number, its data written, its merge, its ledger group, its units -/
  number : Option Nat := none
  merge : Option Merge := none
  entry : Nat := 0
  /-- its RESULT entries: slot and result -/
  results : List (Nat × Word) := []
  entries : Nat := 0
  /-- header fields that the close has fixed -/
  flags : Nat := 0
  calofs : Nat := 0
  firstUnit : Nat := 0
  utrig : Int := 0
  ucount : Nat := 0
  pre : Int := 0
  /-- chronicle of the tick in which it closed -/
  closedAt : Nat := 0
deriving DecidableEq, Repr

/-- A stall's function (STLn_STATE). -/
inductive StallMode | stopped | running | launchWait
deriving DecidableEq, Repr

/-- The code of STLn_STATE. -/
def StallMode.code : StallMode → Nat
  | .stopped => 0 | .running => 1 | .launchWait => 2

/-- A run of a YARD stage that waits for its adds (R237, R238): the map, and the words with their lanes. -/
structure YardRun where
  stall : Fin 16
  map : Fin 8
  /-- Hall word address and lane mask, in order -/
  adds : List (Nat × Nat)
deriving DecidableEq, Repr

/-- A stall (chapters 06 to 08, 10). -/
structure Stall where
  mode : StallMode := .stopped
  /-- a STOP registered in the present tick, to be finished with the tick's samples (R181) -/
  stopping : Bool := false
  /-- the setup taken at START -/
  setup : Setup := {}
  /-- the 320 words of the window (R130) and the 128 words of the measurement slots -/
  window : List (Nat × Word) := []
  msWords : List (Nat × Word) := []
  /-- words that the ADDR fields reach next -/
  lanes : Word := 0
  /-- STLn_ADMIT -/
  admitWord : Word := 0
  /-- STLn_RING_STAT and STLn_SLOT -/
  slotCount : Nat := 0
  slotLines : Nat := 0
  full : Bool := false
  /-- the header of a FILL ring's last segment has been written in the present tick (R178) -/
  filled : Bool := false
  /-- the next segment number, and the last segment closed (R177, R199) -/
  segNo : Nat := 0
  lastSeg : Nat := 2 ^ 40 - 1
  lastSegHi : Nat := 0xFF
  /-- STLn_MEAS_HEAD and STLn_MEAS_TOTAL -/
  head : Nat := 0
  total : Nat := 0
  /-- source samples since START -/
  samples : Nat := 0
  stageStates : List StageState := []
  /-- the streams at the input of each stage, and at the chain's output (index NSTAGES), in the present tick -/
  streams : List (List Val) := []
  /-- values kept for open segments: the stage whose input it is, or NSTAGES for the record's units -/
  kept : List (Nat × Val) := []
  tags : List TickTag := []
  gaps : Gaps := {}
  /-- ENVELOPE: the running envelope, the segments in it, the outputs for the stages after it, and whether an output emitted
  in the present tick saturated (R129) -/
  envelope : List (Nat × (Int × Int)) := []
  envCount : Nat := 0
  envOut : List Val := []
  envSat : Bool := false
  /-- its Bell -/
  bell : Bell := {}
  /-- its segments, oldest first -/
  segs : List Segment := []
  /-- ECC flags found in the slot that is being filled (R290) -/
  slotErrs : Nat := 0
  /-- runs whose adds have still to be issued -/
  runs : List YardRun := []
deriving DecidableEq, Repr

/-- From where on a synchronising reset applies to a Sieve channel (R213): the first input, the first input attributed to a
sample in a tick, or to a sample. -/
inductive SyncFrom | first | tick (t : Nat) | sample (n : Nat)
deriving DecidableEq, Repr

/-- The state words of the sixteen sections of a bank (R204). -/
abbrev SectionStates := Vector (Int × Int) 16

/-- A Sieve channel (chapter 09). Bank A is false, bank B true. -/
structure SieveChan where
  force : Bool := false
  /-- a fade to the other bank: its length, and the fade inputs taken -/
  fade : Option (Nat × Nat) := none
  /-- the old bank of a fade that is complete, in use until the next input (R211) -/
  retiring : Option Bool := none
  /-- the buffer's first sample whose reset an input has met before the Bell has evaluated it (R213) -/
  synced : Option Nat := none
  /-- a request that waits for the end of the fade (R212) -/
  queued : Option Bool := none
  /-- a bank requested and not yet taken, with the tick of its registration -/
  request : Option (Bool × Nat) := none
  /-- the two banks' section states -/
  bankA : SectionStates := Vector.replicate 16 (0, 0)
  bankB : SectionStates := Vector.replicate 16 (0, 0)
  /-- settling outputs still to come (R214) -/
  settle : Nat := 0
  resets : List SyncFrom := []
  /-- outputs that have reached the staging FIFO (R203) -/
  staged : Nat := 0
  /-- median mode: the inputs before, newest first (R215) -/
  window : List Int := []
deriving DecidableEq, Repr

/-- The Sieve (chapter 09). -/
structure Sieve where
  /-- the coefficient window (R206) -/
  coefs : List (Nat × Word) := []
  /-- words written in the last tick of a write: address, word before, chronicle of the tick (Sieve coincidences) -/
  recent : List (Nat × Word × Nat) := []
  /-- the sixteen channels -/
  chans : Vector SieveChan 16 := Vector.replicate 16 {}
  /-- inputs registered and not yet taken: channel, value, chronicle of the tick of registration -/
  inputs : List (Fin 16 × Val × Nat) := []
  /-- outputs computed and not yet released, with the chronicle of their release -/
  outputs : List (Nat × Fin 16 × Val) := []
  /-- ticks, by their first mite, in which the engine forms a value that clamps, with the toll due (R204) -/
  clamps : List (Nat × Nat) := []
deriving DecidableEq, Repr

/-- An access of port 16 that a pass still owes, its read made (R241, R242): the word of a copy for its snapshot, or what a sweep
subtracts from the four cells of a word. -/
inductive YardAccess
  | store (addr word : Nat)
  | lower (addr : Nat) (subs : List Nat)
deriving DecidableEq, Repr

/-- A Steelyard map (chapter 11). -/
structure Yard where
  /-- a clear, a sweep and a snapshot copy are under way; adds are suspended (R240 to R243) -/
  clearing : Bool := false
  sweeping : Bool := false
  copying : Bool := false
  suspended : Bool := false
  /-- snapshots taken, and the instant of the last: chronicle and position (R242) -/
  snaps : Nat := 0
  snapChron : Quad := 0
  snapPos : Quad := 0
  /-- latched by a read of YRDk_SNAP_CLO -/
  latchChi : Word := 0
  latchPlo : Word := 0
  latchPhi : Word := 0
  /-- a snapshot asked for by a write, to be taken in the next tick -/
  snapDue : Bool := false
  /-- K of the sweep in progress, and the chronicle of the next period start (R241) -/
  sweepK : Nat := 0
  periodAt : Nat := 0
  /-- words that the clear, the sweep and the snapshot copy have passed, and words copied ahead of the copy (R241 to R243) -/
  clearAt : Nat := 0
  sweepAt : Nat := 0
  copyAt : Nat := 0
  copied : List Nat := []
  /-- adds of runs that wait for their banks, each a word address and a lane mask (R238, R247) -/
  adds : List (Nat × Nat) := []
  /-- accesses that its passes owe, each with the chronicle from which it can be made -/
  owed : List (Nat × YardAccess) := []
deriving DecidableEq, Repr

/-- A request at an arbiter (R257, R260): its port (or DRAM owner code), held or single, the accesses still to make, and
whether it is background work (R261). -/
structure Request where
  port : Nat
  held : Bool := false
  left : Nat := 1
  background : Bool := false
  /-- the addresses of its accesses, in order, where they are known -/
  addrs : List Nat := []
deriving DecidableEq, Repr

/-- The present holder of an arbiter: its request, and the accesses up to the next burst boundary. -/
structure Holder where
  req : Request
  burst : Nat
  /-- the grant was made to a claim, which makes it single (R259) -/
  once : Bool := false
deriving DecidableEq, Repr

/-- An arbiter (R256 to R260). -/
structure Arbiter where
  holder : Option Holder := none
  /-- ports with a waiting claim, oldest first -/
  claims : List Nat := []
  /-- requests presented and not yet decided, in order -/
  live : List Request := []
  /-- parked requests, oldest first -/
  parked : List Request := []
  /-- the ranking pointer -/
  pointer : Nat := 0
  /-- the highest depth of each port's queue since RESET_N -/
  high : List (Nat × Nat) := []
deriving DecidableEq, Repr

/-- What the last Hall access returned to its port (R247, R248, R250). -/
structure HallAnswer where
  port : Nat := 0
  word : BitVec 128 := 0
  error : Bool := false
  /-- lanes that saturated -/
  sat : BitVec 4 := 0
  /-- chronicle at which it reaches the port -/
  due : Nat := 0
deriving DecidableEq, Repr

/-- Hall (chapter 12): the bytes; the halves that hold an uncorrectable error, by number; the errors that have arisen and that no
access has met yet, by half, with whether they are uncorrectable (R250); scrub, error address and the arbiters by number: 0 to 255
the banks, 256 to 263 the DRAM subchannels, 264 to 268 the transmit queues of CP0 to CP3 and of the Wharf (R263). -/
structure Hall where
  mem : List Host.Cell := []
  bad : List Nat := []
  latent : List (Nat × Bool) := []
  answer : HallAnswer := {}
  eccAddr : Nat := 0
  eccUncorr : Bool := false
  /-- scrub: the next word, a pass in progress, when it began, its period in seconds, LATE, passes -/
  scrubWord : Nat := 0
  scrubOn : Bool := true
  scrubStart : Nat := 0
  scrubPeriod : Nat := 10
  scrubLate : Bool := false
  scrubPasses : Nat := 0
  arbs : List (Nat × Arbiter) := []
  /-- ticks since RESET_N, DRAM cycles since RESET_N and the phase of the present one in 1/25 cycle (R256) -/
  tau : Nat := 0
  kappa : Nat := 0
  kphase : Nat := 0
deriving DecidableEq, Repr

/-- What a subchannel's self-refresh is doing (R280); while it enters, whether a request was parked. -/
inductive SelfRefresh | active | entering (asked : Bool) | asleep | exiting
deriving DecidableEq, Repr

/-- A bank of a subchannel (R271, R277, R282): its open row, and its hammer table of rows and counts. -/
structure Bank where
  openRow : Option Nat := none
  hammer : List (Nat × Nat) := []
deriving DecidableEq, Repr

/-- A sweep of the training helper, as its GO found the parameters (R286): MODE, START, END, STEP, COUNT and SEED. -/
structure Sweep where
  mode : Nat
  first : Nat
  last : Nat
  step : Nat
  count : Nat
  seed : Nat
deriving DecidableEq, Repr

/-- A DRAM subchannel (chapter 13). -/
structure Subchannel where
  sr : SelfRefresh := .active
  /-- consecutive idle ticks (R280), with the limit read when the count began -/
  idle : Nat := 0
  idleLimit : Nat := 12500
  /-- bursts in the queues of ACQ, READ, MAINT and CLERK, oldest first: the class and the address (R277) -/
  queue : List (Fin 4 × Nat) := []
  /-- the DRAM cycle has gone to MAINT work -/
  taken : Bool := false
  /-- a refresh is under way in which no retraining step has been made (R284) -/
  refreshing : Bool := false
  /-- chronicle of the next retraining round, and the byte lanes that the present one has still to sweep (R284) -/
  retrainAt : Nat := 0
  retrainLeft : Nat := 0
  /-- banks by number, rank included -/
  banks : List (Nat × Bank) := []
  /-- chronicle of the next refresh, and the bank indexes that have no REFsb yet in the present tREFI (R279) -/
  refreshAt : Nat := 0
  refreshLeft : List Nat := [0, 1, 2, 3]
  /-- scrub: the next burst, the pass clock in mites, a pass in progress, its overrun, passes completed (R289) -/
  scrubAt : Nat := 0
  scrubClock : Nat := 0
  scrubOn : Bool := true
  scrubLate : Bool := false
  passes : Nat := 0
  /-- the training-helper sweep that runs (R286) -/
  sweep : Option Sweep := none
deriving DecidableEq, Repr

/-- An entry of the DRAM error log (R291). -/
structure DramLogEntry where
  chron : Nat := 0
  addr : Nat := 0
  symbol : Nat := 0
  finder : Nat := 0
  uncorr : Bool := false
  codeword : Nat := 0
  stall : Nat := 0
deriving DecidableEq, Repr

/-- A header rewrite that waits (R290): the stall, the slot of its ring, and the flags to add. -/
structure Rewrite where
  stall : Fin 16
  slot : Nat
  flags : Nat
deriving DecidableEq, Repr

/-- What the last burst returned to its requester (R272, R288). -/
structure DramAnswer where
  owner : Nat := 0
  data : BitVec 512 := 0
  error : Bool := false
deriving DecidableEq, Repr

/-- The record memory (chapter 13): the bytes, and the codewords that hold an uncorrectable error, by number. -/
structure Dram where
  mem : List Host.Cell := []
  bad : List Nat := []
  answer : DramAnswer := {}
  trained : Bool := false
  rate2 : Bool := false
  /-- the devices support RFM (R282) -/
  rfm : Bool := false
  subs : Vector Subchannel 8 := Vector.replicate 8 {}
  /-- DRM_CHARGE -/
  charge : Nat := 0
  /-- the hammer threshold in force (R282), mitigations, and the end of the present window -/
  hammerTh : Nat := 4096
  mitigations : Nat := 0
  windowEnd : Nat := 1280000000
  /-- chronicle of the next MR4 read -/
  mr4At : Nat := 0
  /-- what the training at start-up found, and the delays changed since, by rate, subchannel, target and bit (R283, R284) -/
  eyes : Option Training := none
  delays : List (Nat × Nat) := []
  /-- mode registers of the devices as the board data set them, by rate, subchannel and address (R364) -/
  modeRegs : List (Nat × Nat) := []
  /-- the training helper: the last sweep's results and failures, DONE -/
  sweepDone : Bool := false
  results : Vector (BitVec 10 × BitVec 10 × BitVec 12) 40 := Vector.replicate 40 (0, 0, 0)
  errors : BitVec 40 := 0
  /-- the error log: its ring by entry number, the next entry, entries since RESET_N -/
  log : List (Nat × DramLogEntry) := []
  head : Nat := 0
  total : Nat := 0
  rewrites : List Rewrite := []
deriving DecidableEq, Repr


/-- An L1 plot (R300, R301): the stall and the segment, the half of the plot region that holds it, and its columns. -/
structure Plot where
  stall : Fin 16 := 0
  number : Nat := 0
  upper : Bool := false
  width : Nat := 0
deriving DecidableEq, Repr

/-- A fill of the spare half of the plot region (R300): what it plots, and the chronicle of its completion. -/
structure Fill where
  stall : Fin 16
  number : Nat
  done : Option (Nat × Plot) := none
deriving DecidableEq, Repr

/-- A panel line as fetched (R297): the bytes of Hall of the words it reads, and the addresses of those that answered with an error
(R303). -/
structure SignLine where
  line : Nat
  cells : List Host.Cell
  bad : List Nat
deriving DecidableEq, Repr

/-- The Signboard (chapter 14). The shadows of layers and enables are the parameter words as last written. -/
structure Signboard where
  /-- palettes: shadow and in force, by entry (R303) -/
  palette : List (Nat × Word) := []
  paletteForce : List (Nat × Word) := []
  /-- groups whose commit is pending, with the shadows as they stood at its registration (R304, R305) -/
  pending : List (Fin 5) := []
  pendWords : List (Nat × Word) := []
  pendPalette : List (Nat × Word) := []
  frame : Nat := 0
  /-- the last applied flip (R304) -/
  flipFrame : Nat := 0
  flipChron : Quad := 0
  flipPos : Quad := 0
  /-- latched by a read of SGN_FLIP_CLO -/
  latchChi : Word := 0
  latchPlo : Word := 0
  latchPhi : Word := 0
  done : Vector Nat 3 := Vector.replicate 3 0
  rbFrame : Nat := 0
  /-- the plot in force, and the fill of the other half -/
  plot : Option Plot := none
  fill : Option Fill := none
  /-- the scan of the frame (R297): the instant at which the fetch of line 0 may begin, the next line to be fetched and the instant
  of its fetch, and the lines fetched last, newest first: the one being scanned and the one after it -/
  fetchBase : Nat := 0
  nextLine : Nat := 0
  fetchAt : Nat := 0
  lines : List SignLine := []
  /-- the CRC-32 register over the overlay bytes fetched for the frame, whether an error has made it free, and whether the frame has
  held a fetch error (R303, R307) -/
  crc : Nat := 0xFFFFFFFF
  crcFree : Bool := false
  fetchErr : Bool := false
deriving DecidableEq, Repr
/-- The states of a Crier port (R316). -/
inductive PortState | off | down | sync | ranging | up
deriving DecidableEq, Repr

/-- The state code of R316. -/
def PortState.code : PortState → Nat
  | .off => 0 | .down => 1 | .sync => 2 | .ranging => 3 | .up => 4

/-- A Crier port (chapter 15). Times in sixteenths of a mite carry the name sixteenths. -/
structure CrierPort where
  state : PortState := .off
  prxok : Bool := false
  miswire : Bool := false
  ring : Bool := false
  errs : Nat := 0
  /-- chronicles of the ticks of the last discards, newest first, at most 16 (R316) -/
  discards : List Nat := []
  /-- pairs that wait: forwarded, originated LAUNCH, originated CRY, oldest first (R315, R330) -/
  forwarded : List (Quad × Quad) := []
  launches : List (Quad × Quad) := []
  cries : List (Quad × Quad) := []
  /-- DELAY responses that wait: the number, and the arrival of the request in sixteenths; a DELAY request that waits -/
  replies : List (Nat × Nat) := []
  request : Option Nat := none
  /-- chronicle of the last transmit cycle's beginning, and of the last that carried a DELAY frame (R315) -/
  cycleAt : Option Nat := none
  delayAt : Option Nat := none
  /-- the last frames sent, by slot -/
  sent : Vector Quad 3 := Vector.replicate 3 0
deriving DecidableEq, Repr

/-- A receive entry (R327): behaves as a launch slot, with the actions that its LAUNCH pair carried. -/
structure RxEntry where
  slot : Slot := {}
  act : Nat := 0
  stall : Fin 16 := 0
  pin : Fin 4 := 0
  yard : Fin 8 := 0
deriving DecidableEq, Repr

/-- The Crier (chapter 15). -/
structure Crier where
  ports : Vector CrierPort 4 := Vector.replicate 4 {}
  /-- hop delay of CP0 in sixteenths; samples gathered for a mean; consecutive discards; a mean replaces it (R319) -/
  hop : Rat := 0
  samples : List Rat := []
  rejected : Nat := 0
  remean : Bool := false
  /-- number of the next DELAY request; the one unanswered, with its departure in sixteenths; chronicle of the next -/
  seq : Nat := 0
  asked : Option (Nat × Nat) := none
  askAt : Nat := 0
  /-- accumulated latency received, in units of 4 mites (R320) -/
  accumIn : Nat := 0
  leadShort : Bool := false
  /-- this device's path, whether it lies more than 8 hops down, its depth, as last received (R311) -/
  path : Nat := 0
  deep : Bool := false
  depth : Nat := 0
  /-- the lead in force, as CRY_LEAD_NOW shows it (R325) -/
  lead : Nat := 65536
  /-- chronicle offset in mites, and whether the next complete cycle loads it whole (R321) -/
  ofs : Rat := 0
  fresh : Bool := true
  /-- latched by a read of CRY_OFS_LO -/
  ofsHi : Word := 0
  ofsEra : Word := 0
  ofsFr : Word := 0
  /-- receiver: FIELD of PH 0, 2, 3, 4, 6 of the present TALLY cycle; where that cycle began by the frames received, and its PH 0 arrival, in
  sixteenths; the position rebuilt,
  in grains, once PH 0 and PH 2 have been seen; the last TST; the tick of the last TALLY frame (R318, R322) -/
  fields : List (Nat × Nat) := []
  cycleAt : Int := 0
  ph0 : Nat := 0
  rxPos : Int := 0
  seen0 : Bool := false
  seen2 : Bool := false
  tst : Nat := 0
  lastFrame : Option Nat := none
  /-- transmitter: the root chronicle of the present TALLY cycle's PH 0, in mites (R318) -/
  txRoot : Rat := 0
  table : Vector (Option RxEntry) 16 := Vector.replicate 16 none
deriving DecidableEq, Repr

/-- An accepted Barter request (R336, R338): opcode, flags, sequence number, trailer, body, the source of its frame, and the
chronicle of the tick of its registration. -/
structure BarterRequest where
  op : Nat
  flags : Nat := 0
  seq : Nat := 0
  trailer : List Byte := []
  body : List Byte := []
  mac : List Byte := []
  ip : List Byte := []
  port : Nat := 0
  at_ : Nat := 0
deriving DecidableEq, Repr

/-- A kept reply (R339): its request's sequence number and trailer, and its own payload without the trailer, empty while the
reply has not been formed. -/
structure Kept where
  seq : Nat
  trailer : List Byte
  payload : List Byte
deriving DecidableEq, Repr

/-- A word of the Clerk's work on Hall for a request: one of zeros, which is no access (R244); one to be read; one to be written. -/
inductive ClerkItem
  | zeros
  | read (addr : Nat)
  | write (addr : Nat) (word : BitVec 128)
deriving DecidableEq, Repr

/-- What the Clerk has still to read or write in Hall for a request (R247, R348, R349): the request, the words left, the bytes of the
reply so far, whether an access answered with an error, and the map of whose snapshot it reads a tile (R244). -/
structure HallWork where
  req : Option BarterRequest
  items : List ClerkItem
  out : List Byte := []
  bad : Bool := false
  snap : Option (Fin 8) := none
deriving DecidableEq, Repr

/-- What the device has last sent on the field link: an ARP reply, an ICMP echo reply with its bytes after the checksum, or a
UDP datagram. Each goes to a MAC and an IP address. -/
inductive Sent
  | arp (mac ip : List Byte)
  | icmp (mac ip rest : List Byte)
  | udp (mac ip : List Byte) (port : Nat) (payload : List Byte)
deriving DecidableEq, Repr

/-- A READ_PARAM or WRITE_PARAM under way (R346): its request, the items still to do as number and value, the reply items
formed, and the first code that is not OK. -/
structure ParamRun where
  req : Option BarterRequest
  write : Bool
  count : Nat
  items : List (Nat × Nat)
  out : List Byte := []
  code : Code := .ok
deriving DecidableEq, Repr

/-- The field link and Barter (chapter 16). -/
structure Barter where
  /-- the Barter key in force (R337) -/
  key : List Byte := List.replicate 32 0
  nonce : Nat := 0
  /-- the replay window: HI and the numbers accepted (R338) -/
  hi : Nat := 0
  seen : List Nat := []
  /-- accepted requests that wait, oldest first; the replies kept, newest first -/
  queue : List BarterRequest := []
  kept : List Kept := []
  /-- what the Clerk is at: the items of a request on parameters, or its work on Hall (R346, R348, R349) -/
  run : Option ParamRun := none
  work : Option HallWork := none
  /-- body of the last reply formed, and the last frame sent -/
  reply : List Byte := []
  sent : Option Sent := none
  /-- the field link is up (R373) -/
  up : Bool := false
  plcaOk : Bool := false
  csma : Bool := false
  /-- an internal reset is due no sooner than this (R350) -/
  resetAt : Option Nat := none
  /-- WATCH: the waking frame that the PHY holds (R392) -/
  held : Option (List Byte) := none
deriving DecidableEq, Repr

/-- A consignment (R351). -/
structure Consign where
  cid : Nat
  kind : Nat
  port : Nat := 0
  mac : List Byte := []
  ip : List Byte := []
  unit : Nat := 0
  snap : Bool := false
  seg : Nat := 0
  count : Nat := 0
  /-- the next chunk, the chunk after the last requested, and the stream's length in bytes -/
  next : Nat := 0
  stop : Nat := 0
  total : Nat := 0
deriving DecidableEq, Repr

/-- The Wharf (R351 to R354). -/
structure Wharf where
  link : Bool := false
  current : Option Consign := none
  queued : Option Consign := none
  cid : Nat := 0
  sent : Nat := 0
  /-- the last datagram's payload, with the MAC, the IP address and the port it went to -/
  last : List Byte := []
  lastTo : List Byte × List Byte × Nat := ([], [], 0)
  /-- and those it came from (R353) -/
  lastFrom : List Byte × List Byte × Nat := ([], [], 0)
deriving DecidableEq, Repr

/-- Where the device stands in its start (17_image R370): in reset or sequencing its rails, applying an image, running one,
or in the safe state. -/
inductive BootPhase | down | applying | running | safe
deriving DecidableEq, Repr

/-- A program operation of the flash (R350, R377): the address, the bytes, and the request that waits for it. -/
structure FlashOp where
  addr : Nat
  bytes : List Byte
  req : Option BarterRequest
deriving DecidableEq, Repr

/-- The image flash, the OTP and the image that runs (chapter 17). -/
structure Image where
  phase : BootPhase := .down
  /-- the flash: its bytes, the operation under way, sectors torn by a reset; what SFDP told: usable density, 1-4-4 reads,
  4-byte addressing, sector size, and the times of an erase and of a page program in mites -/
  flash : List Host.Cell := []
  op : Option FlashOp := none
  torn : List Nat := []
  dens : Nat := 0
  quad : Bool := false
  addr4 : Bool := false
  sector : Nat := 4096
  eraseMites : Nat := 0
  pageMites : Nat := 0
  /-- the OTP words as programmed, and as read at the last start-up (R366, R367); the end of a programming -/
  otp : Vector Word 32 := Vector.replicate 32 0
  otpForce : Vector Word 32 := Vector.replicate 32 0
  otpUntil : Option Nat := none
  /-- IMG_STAT, IMG_BUILD, IMG_ROLLBACK, IMG_START; 0 preferred slot, 1 fallback slot, 2 safe state -/
  source : Nat := 0
  slot : Nat := 0
  sigchk : Bool := false
  failA : Nat := 0
  failB : Nat := 0
  build : Word := 0
  level : Nat := 0
  startMs : Nat := 0
  /-- chronicle of the last RESET_N release -/
  released : Nat := 0
  /-- the board section of the image: CL and CWL at both rates, mode-register entries, delay seeds (R364) -/
  latencies : List Nat := []
  modeRegs : List (Nat × Nat × Nat × Nat) := []
  seeds : List (Nat × Nat) := []
  /-- while the image is applied: the functions of its START section, and the LAUNCH entries that are still to be armed -/
  starts : List Nat := []
  arms : List (Fin 64 × Word) := []
deriving DecidableEq, Repr

/-- What the Watch store holds (18_power R390), beside what record memory shows of it: Hall, the parameters as written and in
force, the segment numbers, and the functions stopped, in order of START. -/
structure WatchStore where
  hall : List Host.Cell
  bad : List Nat
  written : List (Nat × Word)
  force : List (Nat × Word)
  segNos : List Nat
  run : List Nat
deriving DecidableEq, Repr

/-- The states of the TAP controller of IEEE 1149.1, which R426 names. PRESUMED (log entry 68). -/
inductive TapState
  | testLogicReset | runTest | selectDr | captureDr | shiftDr | exit1Dr | pauseDr | exit2Dr | updateDr
  | selectIr | captureIr | shiftIr | exit1Ir | pauseIr | exit2Ir | updateIr
deriving DecidableEq, Repr

/-- What the TAP's instruction selects (R426): the bypass bit, or the boundary-scan cells. -/
inductive TapInstr | bypass | boundary
deriving DecidableEq, Repr

/-- The boundary-scan port and the GPIO balls (R410, R426): the levels on the balls, which a pull-down holds low, their boundary-scan
cells, the bypass bit, the bits shifted towards the instruction, the last first, and the level of TDO. -/
structure Tap where
  ctrl : TapState := .testLogicReset
  instr : TapInstr := .bypass
  gpio : BitVec 16 := 0
  cells : BitVec 16 := 0
  bypass : Bool := false
  ir : List Bool := []
  tdo : Bool := false
deriving DecidableEq, Repr

/-- A write of the PMBus master (R385): the regulator's address, whether a PEC byte follows, the command's code, and its data. -/
structure PmWrite where
  addr : Nat
  pec : Bool
  code : Nat
  data : List Byte
deriving DecidableEq, Repr

/-- The power manager (chapter 18). -/
structure Power where
  /-- VAON is applied -/
  vaon : Bool := true
  /-- the regime in force -/
  regime : Regime := .full
  /-- WATCH: the always-on domain runs from REFCLK, else from Mint C in holdover (03_mints, before R72) -/
  watchOnRef : Bool := true
  /-- every sequenced rail is in regulation (R383) -/
  railsUp : Bool := false
  /-- RESET_N is asserted -/
  resetN : Bool := true
  /-- a RESET_N that was released while VAON was out of its window is taken as released then (20_package, coincidences) -/
  releaseAt : Option Nat := none
  /-- the enable pins, and the rail whose settling the sequence waits for, with the chronicle of its enable -/
  pen : Vector Bool 6 := Vector.replicate 6 false
  waiting : Option (Fin 6 × Nat) := none
  failCh : Nat := 0
  /-- the sequence begins again, or a brown-out's hold ends -/
  retryAt : Option Nat := none
  holdEnd : Option Nat := none
  /-- PM_ALERT_N has been counted since it was asserted (R385) -/
  alertSeen : Bool := false
  /-- regulator channels whose writes fail, twice each, as the outside has it (R385) -/
  mute : BitVec 6 := 0
  /-- the supply monitors' last results, codes 0x1C to 0x22, with their chronicles; those of the temperature sensors, codes 0x10 to 0x1B
  (04_converters R92; R382, R394) -/
  readings : Vector (Option (Nat × Nat)) 7 := Vector.replicate 7 none
  temps : Vector (Option Int) 12 := Vector.replicate 12 none
  vcoreCmd : Nat := 850
  vcoreRead : Nat := 0
  /-- STATUS_WORD and READ_IOUT of each channel -/
  channels : Vector (BitVec 16 × BitVec 16) 6 := Vector.replicate 6 (0, 0)
  /-- the writes that the PMBus master sent last (R385) -/
  sent : List PmWrite := []
  /-- TJ in 1/128 °C and its sensor; the status THERMAL; since when TJ has stayed below 110 °C -/
  tj : Int := 0
  sensor : Nat := 0
  thermal : Bool := false
  coolSince : Option Nat := none
  forced : Bool := false
  /-- temperature has forced WATCH, which is still to be entered (R394) -/
  watchForced : Bool := false
  /-- a change of regime that is due, and a WATCH entry that is, no sooner than its chronicle -/
  change : Option Regime := none
  watchAt : Option Nat := none
  /-- wake sources that have fired and wait, and a wake under way (R392, R393) -/
  wakes : List (Fin 5) := []
  waking : Bool := false
  store : Option WatchStore := none
deriving DecidableEq, Repr


/-- An entry of the error log (R402). -/
structure LogEntry where
  chron : Nat := 0
  kind : Nat := 0
  unit : Nat := 0
  toll : Nat := 0
  detail : Word := 0
deriving DecidableEq, Repr

/-- The error log (R401): its ring by entry number, the next entry, the entries written since RESET_N, and the entries
due in the present tick. -/
structure ErrorLog where
  entries : List (Nat × LogEntry) := []
  head : Nat := 0
  total : Nat := 0
  due : List LogEntry := []
deriving DecidableEq, Repr

/-- Why the machine stops. The spec lets nothing stop the device (R32), so no command of this model raises a fault; the
one constructor names what a fault would be. -/
inductive Fault
  /-- Raised by no command: the device counts every violation in a toll and goes on (R32). Safe. -/
  | halted
deriving DecidableEq, Repr

/-- Why a command is refused. -/
inductive Refusal
  /-- Raised by an arm of exec whose command has no meaning yet. Safe: the machine stops. -/
  | notModelled (mnemonic : String)
deriving DecidableEq, Repr

/-- What was registered in the present tick, for the coincidences that are judged tick by tick (log entry 3). -/
structure TickEvents where
  /-- references qualified: false REFCLK, true CP0 -/
  refQualified : List Bool := []
  /-- a loss of the reference was acted on: the Mints, the references and SEL before it, and the tolls it counted (lock
  coincidences) -/
  refLost : Option (Vector Mint 5 × Refs × Bool × List Nat) := none
  /-- Mint S or C was in HOLDOVER or PULLING when the tick began (R67) -/
  hold : Bool := false
  /-- W1C bits set in the present tick, by parameter number (R10) -/
  sticky : List (Nat × Word) := []
  /-- status items set in the present tick: 0 LEVEL and ATTN_NEW, 1 SEG_READY, 2 MEAS_LIMIT, 3 TOLL_MOVED (R344) -/
  items : List Nat := []
  /-- auxiliary sources whose request was dropped; the sequence starts again with entry 0; the converter powered down; an inserted
  fragment began; toll 27 was counted (auxiliary and calibration coincidences) -/
  auxDropped : List (Fin 19) := []
  /-- stalls that have counted toll 53 (06_weighers R129) -/
  satStalls : List (Fin 16) := []
  /-- a comparator with WAKE = 1 has tripped (04_converters R99) -/
  trips : Bool := false
  auxRestart : Bool := false
  auxDown : Bool := false
  auxInserted : Bool := false
  auxLate : Bool := false
  /-- TRIG_IN edges registered: the pin and the level entered (R153) -/
  trigEdges : List (Fin 4 × Bool) := []
  /-- limit words of measurement slots written in the present tick, as they were before: stall, word, value (R225) -/
  limits : List (Nat × Nat × Word) := []
  /-- requests presented: arbiter and port (R247) -/
  presented : List (Nat × Nat) := []
  /-- banks that have executed an access: the bank, its port, and for port 16 the map (R247) -/
  banks : List (Nat × Nat × Nat) := []
  /-- maps with a saturating add, maps whose period start met a sweep, maps with a snapshot taken (R238, R241, R242) -/
  yardSat : List (Fin 8) := []
  yardSkip : List (Fin 8) := []
  yardSnap : List (Fin 8) := []
  /-- stalls whose START was registered in the present tick: the next tick is the first in which they take samples -/
  started : List (Fin 16) := []
  /-- a STOP_FN or START_FN request took effect (R31) -/
  fnMoved : Bool := false
  /-- requests whose outcome another event of the tick may still change: one answered at its deadline, with the Barter part before it;
  an acknowledgement, with the status items before it, and whether an attention has come after it; a CONSIGN refused for the link
  (Barter and Wharf coincidences) -/
  expired : Option (BarterRequest × Barter) := none
  acked : Option (Option BarterRequest × Status) := none
  ackLost : Bool := false
  linkDown : Option (Option BarterRequest × Consign) := none
  /-- a rail's timeout was acted on: the enables, the rail waited for, RAILS_OK and FAIL_CH before it (00_scope, wording) -/
  railOut : Option (Vector Bool 6 × Option (Fin 6 × Nat) × Bool × Nat) := none
  /-- wake sources that fired before WATCH was asked for (Power coincidences) -/
  wakes : List (Fin 5) := []
  /-- CP0 was taken down by a loss of its line: the Crier before it, and the pairs discarded (Crier coincidences) -/
  linkLost : Option (Crier × Nat) := none
  /-- the Signboard has registered its latch, and the fill that it abandoned (14_signboard R300, R304) -/
  latched : Bool := false
  fillLost : Option Fill := none
  /-- counts of the tick that belong to samples of earlier ticks (07_bell R170, R171; 19_tolls R396) -/
  past : List (Nat × Nat) := []
  /-- DELAY requests of CP0 whose answer was missed in the present tick: number and departure (00_scope, wording) -/
  unanswered : Option (Nat × Nat) := none
  /-- RESET_N was asserted: the tolls and entries of the tick go with it (19_tolls, coincidences) -/
  reset : Bool := false
  /-- a timeout of the tally was acted on: the tally before it, and the tolls it counted (tally coincidences) -/
  timeout : Option (Tally × List Nat) := none
deriving DecidableEq, Repr

/-- The device. -/
structure State where
  /-- the chronicle: era in [79:64], mites in [63:0] (R4), at mite 0 of the present tick -/
  chron : BitVec 80 := 0
  /-- parameter words as last written, and as in force (R379) -/
  written : List (Nat × Word) := []
  force : List (Nat × Word) := []
  /-- parameter numbers whose LV fields come into force at the next tick (R39) -/
  nextTick : List Nat := []
  /-- the reply code of the last request or parameter access (16_barter R341) -/
  code : Code := .ok
  /-- the RUNNING functions, by function ID, in order of START -/
  run : List Nat := []
  tally : Tally := {}
  slots : Vector Slot 64 := Vector.replicate 64 {}
  acts : List Action := []
  trigOut : Vector TrigOut 4 := Vector.replicate 4 {}
  mints : Vector Mint 5 := Vector.replicate 5 {}
  refs : Refs := {}
  conv : Conv := {}
  cal : Cal := {}
  aux : Auxiliary := {}
  pool : Pool := {}
  stalls : Vector Stall 16 := Vector.replicate 16 {}
  sieve : Sieve := {}
  yards : Vector Yard 8 := Vector.replicate 8 {}
  hall : Hall := {}
  dram : Dram := {}
  sign : Signboard := {}
  /-- the STEP jumps so far, in grains (R152) -/
  jumps : Int := 0
  /-- the levels of the TRIG_IN pins (R153) -/
  trigIn : Vector Bool 4 := Vector.replicate 4 false
  crier : Crier := {}
  barter : Barter := {}
  wharf : Wharf := {}
  image : Image := {}
  power : Power := {}
  tap : Tap := {}
  status : Status := {}
  /-- the W1C bits that are set, by parameter number -/
  sticky : List (Nat × Word) := []
  /-- the toll counters (R396), and what the present tick adds to them (R397) -/
  tolls : List (Nat × Nat) := []
  tollDue : List (Nat × Nat) := []
  log : ErrorLog := {}
  ev : TickEvents := {}
  /-- numbers the free values used so far -/
  free : Nat := 0
  /-- the commands that wait, first in first out -/
  pending : List Instr := []
deriving DecidableEq, Repr

/-- The device right after VAON has been applied, before start-up (17_image R370). DEDUCED (log entry 5); the values of hidden
state: DESIGN CHOICE (log entry 4). -/
def State.reset : State := {}

/-- The answer of a command. -/
abbrev Result := Host.Outcome State Fault Refusal

end Sys2Proof.Machine
end

