-- ==== Sys2Proof/Machine/Ops.lean ====
section
/-! DEFINITION. The operations that every chapter shares: the time, the parameter words, tolls, the error log, free
values, signed fields and rounding. -/

namespace Sys2Proof.Machine

/-- Element `i` of a vector changed by `f`. -/
def updAt {α : Type} {n : Nat} (v : Vector α n) (i : Fin n) (f : α → α) : Vector α n :=
  v.set i.val (f v[i]) i.isLt

/-- The chronicle at mite 0 of the present tick, as a number (R4). -/
def State.now (s : State) : Nat := s.chron.toNat

/-- Mites by which one TICK advances the chronicle (R20; 03_mints, the chronicle in WATCH). DEDUCED (log entry 46). -/
def State.tickLen (s : State) : Nat :=
  if s.power.regime = .watch ∧ s.power.watchOnRef then mitesPerRef else mitesPerTick

/-- An instant lies before the end of the present tick: what expires there has expired in this tick or earlier. DESIGN
CHOICE (log entry 2). -/
def State.reached (s : State) (instant : Nat) : Bool := instant < s.now + s.tickLen

/-- The value in force of parameter word `n` (R379). -/
def State.word (s : State) (n : Nat) : Word := Sparse.get resetWord s.force n

/-- Parameter word `n` as last written (R379). -/
def State.lastWritten (s : State) (n : Nat) : Word := Sparse.get resetWord s.written n

/-- A field's value in force, instance k (of stall n). -/
def State.val (s : State) (f : Fld) (k : Nat := 0) (n : Nat := 0) : Nat := f.get (s.word (f.num k n))

/-- A one-bit field in force. -/
def State.flag (s : State) (f : Fld) (k : Nat := 0) (n : Nat := 0) : Bool := s.val f k n != 0

/-- A field's value as last written. -/
def State.wval (s : State) (f : Fld) (k : Nat := 0) (n : Nat := 0) : Nat := f.get (s.lastWritten (f.num k n))

/-- A one-bit field as last written. -/
def State.wflag (s : State) (f : Fld) (k : Nat := 0) (n : Nat := 0) : Bool := s.wval f k n != 0

/-- The two's complement reading of the low `w` bits of `v`. -/
def signed (w v : Nat) : Int :=
  if v % 2 ^ w < 2 ^ (w - 1) then (v % 2 ^ w : Nat) else (v % 2 ^ w : Nat) - (2 ^ w : Nat)

/-- A number in two's complement, 32 bits. -/
def wordOfInt (i : Int) : Word := BitVec.ofInt 32 i

/-- `i` held inside `lo` and `hi`. -/
def clampInt (lo hi i : Int) : Int := if i < lo then lo else if hi < i then hi else i

/-- `i` saturated to a signed field of `w` bits. -/
def satSigned (w : Nat) (i : Int) : Int := clampInt (-(2 ^ (w - 1) : Nat)) ((2 ^ (w - 1) : Nat) - 1) i

/-- Rounding to the nearest integer, ties away from zero. -/
def roundAway (x : Rat) : Int := if x < 0 then -((-x + 1 / 2).floor) else (x + 1 / 2).floor

/-- `n / d` rounded to the nearest integer, ties away from zero. -/
def roundDiv (n d : Int) : Int :=
  if n < 0 then -((2 * -n + d) / (2 * d)) else (2 * n + d) / (2 * d)

/-- A quotient whose rounding the spec does not state: the integer where it is exact, else one of its two neighbours
(DESIGN CHOICE, log entry 22). -/
def openRound (x : Rat) : Int :=
  if x.den = 1 then x.num else if Config.roundsUp x then x.floor + 1 else x.floor

/-- The absolute value of a rational. -/
def ratAbs (x : Rat) : Rat := if x < 0 then -x else x

/-- The signed 64-bit difference of two positions or chronicle counts, modulo 2^64 (R42). -/
def diff64 (p t : Int) : Int := signed 64 ((p - t) % (2 ^ 64 : Nat)).toNat

/-- Toll counter `i` counts `n` more in the present tick (R396). -/
def State.toll (s : State) (i : Nat) (n : Nat := 1) : State :=
  { s with tollDue := Sparse.set (fun _ => 0) s.tollDue i (Sparse.get (fun _ => 0) s.tollDue i + n) }

/-- Toll counter `i` counts `n` more, where there is anything to count. -/
def State.tollMany (s : State) (i n : Nat) : State := if n = 0 then s else s.toll i n

/-- Toll counter `i` counts once if `c` holds. -/
def State.tollIf (s : State) (c : Bool) (i : Nat) : State := if c then s.toll i else s

/-- A toll that a rule counts once a tick (R396). -/
def State.tollOnce (s : State) (i : Nat) : State :=
  if Sparse.get (fun _ => 0) s.tollDue i = 0 then s.toll i else s

/-- Toll counter `i` as it is read: its value before the present tick (R397). -/
def State.tollValue (s : State) (i : Nat) : Nat := Sparse.get (fun _ => 0) s.tolls i

/-- One count of toll `i` in the present tick is taken back, where a coincidence paragraph lets another event win. -/
def State.untoll (s : State) (i : Nat) : State :=
  { s with tollDue := Sparse.set (fun _ => 0) s.tollDue i (Sparse.get (fun _ => 0) s.tollDue i - 1) }

/-- One count of each of `l` is taken back. -/
def State.untollAll (s : State) (l : List Nat) : State := l.foldl (fun s i => s.untoll i) s

/-- What the present tick has counted in toll `i` so far. -/
def State.tollCounted (s : State) (i : Nat) : Nat := Sparse.get (fun _ => 0) s.tollDue i

/-- What `t` has counted in a toll beyond `s` belongs to an earlier tick than the present one. -/
def State.notePast (s t : State) (i : Nat) : State :=
  let d := t.tollCounted i - s.tollCounted i
  if d = 0 then t
  else { t with ev := { t.ev with past := Sparse.set (fun _ => 0) t.ev.past i (Sparse.get (fun _ => 0) t.ev.past i + d) } }

/-- An entry of the error log due in the present tick (R401, R402). -/
def State.logEvent (s : State) (kind unit toll : Nat) (detail : Int) : State :=
  { s with log := { s.log with due := s.log.due ++
    [{ chron := s.now % 2 ^ 64, kind := kind, unit := unit, toll := toll, detail := wordOfInt detail }] } }

/-- The next free value (DESIGN CHOICE, log entry 7), and the state in which it is used. -/
def State.draw (s : State) : Nat × State := (Config.freeValue s.free, { s with free := s.free + 1 })

/-- The status items as they were before an acknowledgement of the present tick: an attention of the tick is registered before it
(16_barter, coincidences). -/
def State.unack (s : State) : State :=
  match s.ev.acked with
  | some (_, old) => { s with
      status := { s.status with
        level := max s.status.level old.level, attnNew := s.status.attnNew || old.attnNew, segReady := s.status.segReady || old.segReady
        measLimit := s.status.measLimit || old.measLimit, tollMoved := s.status.tollMoved || old.tollMoved }
      ev := { s.ev with ackLost := true } }
  | none => s

/-- Attention is raised at a level (16_barter R343). -/
def State.attention (s : State) (level : Nat) : State :=
  let s := s.unack
  { s with
    status := { s.status with
      aseq := (s.status.aseq + 1) % 2 ^ 16, level := max s.status.level level, attnNew := true }
    ev := { s.ev with items := 0 :: s.ev.items } }

/-- W1C bits of parameter `n` are set by an event in the present tick (R8, R10). -/
def State.setSticky (s : State) (n : Nat) (bits : Word) : State :=
  { s with
    sticky := Sparse.set (fun _ => 0) s.sticky n (Sparse.get (fun _ => 0) s.sticky n ||| bits)
    ev := { s.ev with
      sticky := Sparse.set (fun _ => 0) s.ev.sticky n (Sparse.get (fun _ => 0) s.ev.sticky n ||| bits) } }

/-- The W1C bits of parameter `n` that are set. -/
def State.stickyBits (s : State) (n : Nat) : Word := Sparse.get (fun _ => 0) s.sticky n

/-- Writing 1 to W1C bits clears them, but for those whose event falls in the same tick (R8, R10). -/
def State.clearSticky (s : State) (n : Nat) (bits : Word) : State :=
  { s with
    sticky := Sparse.set (fun _ => 0) s.sticky n
      (s.stickyBits n &&& ~~~(bits &&& ~~~(Sparse.get (fun _ => 0) s.ev.sticky n))) }

/-- The reply code of an access (R341). -/
def State.answer (s : State) (c : Code) : State := { s with code := c }

/-- A parameter write is refused: toll 243, and the reply code (R341, R398). -/
def State.refuseWrite (s : State) (c : Code) : State := (s.toll 243).answer c

/-- The bits `mask` of parameter word `n` are written. -/
def State.setWritten (s : State) (n : Nat) (w mask : Word) : State :=
  { s with written := Sparse.set resetWord s.written n ((s.lastWritten n &&& ~~~mask) ||| (w &&& mask)) }

/-- The bits `mask` of parameter word `n` come into force. -/
def State.setForce (s : State) (n : Nat) (w mask : Word) : State :=
  { s with force := Sparse.set resetWord s.force n ((s.word n &&& ~~~mask) ||| (w &&& mask)) }

/-- The LV bits of parameter word `n` come into force at the first tick after the write (R39). -/
def State.atNextTick (s : State) (n : Nat) : State :=
  { s with nextTick := if s.nextTick.contains n then s.nextTick else s.nextTick ++ [n] }

/-- Parameter words come into force as last written. -/
def State.bringIntoForce (s : State) (ns : List Nat) : State :=
  ns.foldl (fun s i => s.setForce i (s.lastWritten i) (BitVec.allOnes 32)) s

/-- A trigger or a firing asks the auxiliary converter for a conversion (04_converters R96). -/
def State.askInjection (s : State) (i : Fin 19) : State := { s with aux := { s.aux with asked := s.aux.asked ++ [i] } }

/-- Function IDs (17_image R378). -/
def fnTally : Nat := 0x00
def fnStall (n : Fin 16) : Nat := 0x10 + n.val
def fnSieve : Nat := 0x20
def fnYard (k : Fin 8) : Nat := 0x30 + k.val
def fnSignboard : Nat := 0x40
def fnCrier : Nat := 0x50
def fnWharf : Nat := 0x60
def fnAux : Nat := 0x70

/-- A function is RUNNING. -/
def State.running (s : State) (fn : Nat) : Bool := s.run.contains fn

/-- The power manager changed. -/
def State.modPower (s : State) (f : Power → Power) : State := { s with power := f s.power }

end Sys2Proof.Machine
end

