-- ==== Sys2Proof/Machine/Mints.lean ====
section
/-! DEFINITION. The Mints, the references and the chronicle's reading (chapter 03). -/

namespace Sys2Proof.Machine

/-- The Mints by number: S, C, M, L, P. -/
def mintS : Fin 5 := 0
def mintC : Fin 5 := 1
def mintM : Fin 5 := 2
def mintL : Fin 5 := 3
def mintP : Fin 5 := 4

/-- A Mint changed. -/
def State.modMint (s : State) (m : Fin 5) (f : Mint → Mint) : State := { s with mints := updAt s.mints m f }

/-- The selected reference is qualified (R66). -/
def State.selectedOk (s : State) : Bool := if s.flag F.MNT_REF_SEL then s.refs.cp0Ok else s.refs.refOk

/-- The toll of a Mint's entry into HOLDOVER: 10 for S and C, 11 for the others (R65, R72). -/
def holdoverToll (m : Fin 5) : Nat := if m.val ≤ 1 then 10 else 11

/-- The length of the holdover of Mint C begins with zero (R68). -/
def State.beginHold (s : State) (m : Fin 5) : State :=
  if m = mintC then { s with refs := { s.refs with holding := true, holdStart := s.now, holdLen := 0 } } else s

/-- A reference is present (R60). Between its absence and its qualification no command tells when its edges are back: that is free.
DESIGN CHOICE (log entry 86). -/
def State.refSeen (s : State) (cp0 : Bool) : Bool :=
  (if cp0 then s.refs.cp0Present else s.refs.refPresent) || Config.edgesBack cp0 s.now

/-- The other reference is qualified (R61). -/
def State.otherOk (s : State) : Bool := if s.flag F.MNT_REF_SEL then s.refs.refOk else s.refs.cp0Ok

/-- The frequency of each DCO of each Mint in Hz (R63). That of Mint P is 32 times the pixel clock, MNT_P_FREQ in sixteenths of a
hertz: DEDUCED from the two maxima (log entry 21). -/
def State.mintDco (s : State) (m : Fin 5) : List Rat :=
  match m with
  | 0 => [20000000000]
  | 1 => [10000000000]
  | 2 => [12800000000]
  | 3 => [12500000000, 20625000000]
  | 4 => [2 * s.val F.MNT_P_FREQ_FREQ]

/-- The output divider of each Mint (R63): in LEAN Mints S and M change theirs. -/
def State.mintDivider (s : State) (m : Fin 5) : Rat :=
  let lean := s.power.regime == .lean
  match m with
  | 0 => if lean then 16 else 8
  | 1 => 8
  | 2 => if lean then 16 / 3 else 4
  | 3 => 2
  | 4 => 32

/-- The output frequencies of each Mint in Hz, while its outputs run (R63). -/
def State.mintRates (s : State) (m : Fin 5) : List Rat := (s.mintDco m).map (· / s.mintDivider m)

/-- The period of a Mint's (slowest) output, in mites. -/
def State.mintPeriod (s : State) (m : Fin 5) : Rat := 40000000000 / (s.mintRates m).headD 1

/-- How far phase `k` of Mint S lies behind phase 0, in mites (R63): a sixteenth of the period for each, 25 ps in FULL and 50 ps in
LEAN. -/
def State.tapDelay (s : State) (k : Fin 16) : Rat := k * s.mintPeriod mintS / 16

/-- Mint `m`'s output goes on or off (R69): in its next low phase, no sooner than a full period after the change before it. Where the
low phase lies is free. -/
def State.gateEdge (s : State) (m : Fin 5) (on : Bool) : State :=
  let p := s.mintPeriod m
  let from_ : Rat := match (s.mints[m]).gates.getLast? with
    | some g => max s.now (g.mite + p)
    | none => s.now
  { s with mints := updAt s.mints m fun x => { x with
      gates := x.gates ++ [⟨on, from_ + p * (Config.lowPhase m s.now).val / 4294967296⟩] } }

/-- What the power manager and, for Mint P, the Signboard ask of a Mint's output: it runs only where both allow it (R69). -/
def State.gateAsked (s : State) (m : Fin 5) : Bool :=
  let x := s.mints[m]
  x.mode != .stopped && !x.gatedPower && (m != mintP || s.running fnSignboard)

/-- The changes of an output from the last that has taken effect on. -/
def dropPast (now : Nat) : List GateEdge → List GateEdge
  | a :: b :: l => if b.mite ≤ now then dropPast now (b :: l) else a :: b :: l
  | l => l

/-- The output is on after the changes that have taken effect at mite `x`. -/
def gateLevel (l : List GateEdge) (x : Rat) : Bool :=
  match (l.filter fun g => decide (g.mite ≤ x)).getLast? with
  | some g => g.on
  | none => false

/-- The outputs' part in closing a tick (R69): the last request of the tick from each unit counts. -/
def State.gateMints (s : State) : State :=
  (List.finRange 5).foldl (fun s m =>
    let s1 := { s with mints := updAt s.mints m fun x => { x with gates := dropPast s.now x.gates } }
    let last := match (s1.mints[m]).gates.getLast? with | some g => g.on | none => false
    if last == s1.gateAsked m then s1 else s1.gateEdge m (s1.gateAsked m)) s

/-- The frequencies a Mint puts out at mite 0 of the present tick; none while its outputs are gated (R63, R69). -/
def State.mintOutputs (s : State) (m : Fin 5) : List Rat := if gateLevel (s.mints[m]).gates s.now then s.mintRates m else []

/-- Tap `k` of Mint S runs at a mite (R69): the taps change in ascending order within one period. -/
def State.tapRuns (s : State) (k : Fin 16) (x : Rat) : Bool := gateLevel (s.mints[mintS]).gates (x - s.tapDelay k)

/-- A DCO word some mites after it began pulling: 1 ppm per µs in steps of `step` ppm, up or down (R66). -/
def pulledWord (step : Rat) (down : Bool) (w : Word) (mites : Nat) : Word :=
  let n : Int := ((mites : Rat) / 40000 / ratAbs step).floor
  BitVec.ofInt 32 (if down then (w.toNat : Int) - n else w.toNat + n)

/-- The DCO words of a Mint at mite 0 of the present tick: while PULLING, they are on their way to the reference at 1 ppm per µs
(R66). On which side the reference lies is free. -/
def State.dcoNow (s : State) (m : Fin 5) : Dco :=
  let x := s.mints[m]
  let go (i : Fin 2) (w : Word) := pulledWord (Config.dcoStep m i) (Config.pullsDown m x.pullAt) w (s.now - x.pullAt)
  if x.mode == .pulling && !x.settled then ⟨go 0 x.dco.main, go 1 x.dco.wharf⟩ else x.dco

/-- Mint `m` loses its reference (R65; lock coincidences): from LOCKED to HOLDOVER with the word frozen at the average and
one toll; from PULLING back to HOLDOVER with the word of the first holdover, and toll 15. -/
def State.mintLoss (s : State) (m : Fin 5) (word : Dco) : State :=
  match (s.mints[m]).mode with
  | .locked =>
    ((s.modMint m fun x => { x with mode := .holdover, settled := false, frozen := word, dco := word }).beginHold
      m).toll (holdoverToll m)
  | .pulling =>
    let s1 := if s.refs.holding then s else s.beginHold m
    (s1.modMint m fun x => { x with mode := .holdover, settled := false, dco := x.frozen }).toll 15
  | _ => s

/-- A Mint that runs without a reference to follow is in HOLDOVER, from its present word (03_mints, the chronicle in WATCH). -/
def State.holdOver (s : State) (m : Fin 5) : State :=
  match (s.mints[m]).mode with
  | .locked => s.mintLoss m (s.mints[m]).dco
  | .pulling => s.mintLoss m (s.mints[m]).frozen
  | _ => s

/-- Mint `m` begins pulling towards the selected reference, from its present frequency (R66). -/
def State.mintPull (s : State) (m : Fin 5) : State :=
  s.modMint m fun x => if x.mode = .stopped then x else
    { x with mode := .pulling, settled := false, dco := s.dcoNow m, pullAt := s.now }

/-- Every Mint loses its reference. -/
def State.allLoss (s : State) (words : Vector Dco 5) : State :=
  (List.finRange 5).foldl (fun s m => s.mintLoss m words[m]) s

/-- A LOCKED Mint begins pulling to another reference (R61, R66). The word it falls back to where that is lost in PULLING is its
present one. DESIGN CHOICE (log entry 86). -/
def State.repull (s : State) (m : Fin 5) : State :=
  (s.modMint m fun x => if x.mode = .locked then { x with frozen := x.dco } else x).mintPull m

/-- The selected reference is qualified: every held Mint begins pulling, and every LOCKED one where a change of reference has waited
for it (R61, R66). -/
def State.allPull (s : State) : State :=
  let due := s.refs.relockDue
  (List.finRange 5).foldl (fun s m =>
    if (s.mints[m]).mode = .holdover ∨ (due ∧ (s.mints[m]).mode = .locked) then s.repull m else s)
    { s with refs := { s.refs with relockDue := false } }

/-- A relock of every Mint to the reference that SEL names (R61, R66; lock coincidences). Where it is qualified, every Mint begins
pulling. Where it is not, a pulling Mint pulls towards it, and the others stay as they are until it is qualified or R65 applies.
DEDUCED (log entry 21). -/
def State.relock (s : State) : State :=
  let s := { s with refs := { s.refs with active := s.flag F.MNT_REF_SEL, relockDue := !s.selectedOk } }
  (List.finRange 5).foldl (fun (s : State) (m : Fin 5) =>
    if (s.mints[m]).mode = .pulling then s.mintPull m else if s.selectedOk then s.repull m else s) s

/-- SEL takes the given value, written and in force. -/
def State.setRefSel (s : State) (v : Bool) : State :=
  let w := F.MNT_REF_SEL.put v.toNat
  let m := F.MNT_REF_SEL.put 1
  (s.setWritten (F.MNT_REF_SEL.num) w m).setForce (F.MNT_REF_SEL.num) w m

/-- A reference is present or absent, and qualified or not (R60). -/
def State.setRef (s : State) (cp0 present ok : Bool) : State :=
  { s with refs := if cp0 then { s.refs with cp0Present := present, cp0Ok := ok }
    else { s.refs with refPresent := present, refOk := ok } }

/-- The tolls that a step has counted more of (for the events whose effect another event of the tick takes back). -/
def State.tollsSince (s t : State) : List Nat :=
  [10, 11, 12, 13, 14, 15].flatMap fun i => List.replicate (t.tollCounted i - s.tollCounted i) i

/-- A loss takes effect, and what was before it is kept for an arrival in the same tick (lock coincidences). -/
def State.lostRef (s t : State) : State :=
  { t with ev := { t.ev with refLost := some (match s.ev.refLost with
      | some (m, r, sel, l) => (m, r, sel, l ++ s.tollsSince t)
      | none => (s.mints, s.refs, s.flag F.MNT_REF_SEL, s.tollsSince t)) } }

/-- The automatic switch, the selected reference being absent: AUTO, and the other qualified (R61). -/
def State.autoSwitch (s : State) : State :=
  if s.flag F.MNT_REF_AUTO && s.otherOk then
    s.lostRef ((s.setRefSel (!s.flag F.MNT_REF_SEL)).toll 14).relock
  else s

/-- The references with what a loss has changed taken back: `r` is what they were before it. -/
def Refs.takeBack (x r : Refs) : Refs :=
  { x with active := r.active, relockDue := r.relockDue, holdStart := r.holdStart, holding := r.holding, holdLen := r.holdLen }

/-- An arrival of the selected reference beats a loss acted on earlier in the same tick: the Mints stay as they were, no switch takes
place and no toll is counted (lock coincidences). -/
def State.arrivalWins (s : State) (cp0 : Bool) : State :=
  match s.ev.refLost with
  | some (m, r, sel, l) =>
    if sel = cp0 then
      { (s.untollAll l).setRefSel sel with
        mints := Vector.ofFn fun i =>
          if (m[i]).mode = .stopped then s.mints[i] else { m[i] with gates := (s.mints[i]).gates }
        refs := s.refs.takeBack r, ev := { s.ev with refLost := none } }
    else s
  | none => s

/-- The reference in question is seen in the present tick to be qualified: its arrival beats the loss (lock coincidences). -/
def State.arrivedNow (s : State) (cp0 : Bool) : Bool := s.ev.refQualified.contains cp0

/-- REF_ABSENT (R60, R61, R65): 64 periods without an edge, or above the threshold on some Mints, after which the selected reference
is to be qualified again (DEDUCED, log entry 21). A reference that becomes absent was present before, whether or not it had been
qualified again. -/
def refLoss (loss : RefLoss) (words : Vector Dco 5) (s : State) : State :=
  let sel := s.flag F.MNT_REF_SEL
  match loss with
  | .overThreshold ms =>
    if s.arrivedNow sel then s
    else
      let s1 := s.setRef sel (if sel then s.refs.cp0Present else s.refs.refPresent) false
      s.lostRef (ms.foldl (fun s m => if (s.mints[m]).mode = .locked then s.mintLoss m words[m] else s) s1)
  | .noEdges cp0 =>
    if s.arrivedNow cp0 then s
    else
      let s1 := s.setRef cp0 false false
      let s2 := if cp0 then s1.tollIf sel 13 else s1.toll 12
      if sel != cp0 then s2 else s.lostRef (s2.allLoss words).autoSwitch

/-- REF_ABSENT. -/
def execRefAbsent (loss : RefLoss) (words : Vector Dco 5) (s : State) : Result := .next (refLoss loss words s)

/-- REF_QUALIFIED (R60, R66): 1,024 good periods of a reference; each held Mint begins pulling where it is the selected
one. -/
def refQualify (cp0 : Bool) (s : State) : State :=
  let s0 := (s.arrivalWins cp0).setRef cp0 true true
  let s1 := { s0 with ev := { s0.ev with refQualified := cp0 :: s0.ev.refQualified } }
  if s1.flag F.MNT_REF_SEL == cp0 then s1.allPull else s1

/-- REF_QUALIFIED. -/
def execRefQualified (cp0 : Bool) (s : State) : Result := .next (refQualify cp0 s)

/-- How long a Mint pulls to `word`, in mites: 1 µs for each ppm of its error, that of the larger for Mint L's two DCOs (R66). -/
def Mint.pullMites (x : Mint) (m : Fin 5) (word : Dco) : Rat :=
  let part (i : Fin 2) (a b : Word) : Rat := ratAbs (((b.toNat : Int) - a.toNat : Int) * Config.dcoStep m i) * 40000
  let p := part 0 x.dco.main word.main
  if m = mintL then max p (part 1 x.dco.wharf word.wharf) else p

/-- PULLING_FREQ_SETTLED (R66): the frequency error reaches zero at DCO word `word`, x µs after the beginning for an error of x ppm,
and the phase detector is re-zeroed. -/
def pullSettle (m : Fin 5) (word : Dco) (s : State) : State :=
  let x := s.mints[m]
  if x.mode = .pulling ∧ !x.settled ∧ x.pullAt + x.pullMites m word < (s.now + s.tickLen : Nat) then
    s.modMint m fun x => { x with settled := true, dco := word, zeroAt := s.now }
  else s

/-- PULLING_FREQ_SETTLED. -/
def execPullingFreqSettled (m : Fin 5) (word : Dco) (s : State) : Result := .next (pullSettle m word s)

/-- The 1,024 reference periods of qualification and of lock, in mites (R60, R66). -/
def lockMites : Nat := 1024 * mitesPerRef

/-- The holdover length of Mint C is over (R68). -/
def State.endHold (s : State) (m : Fin 5) : State :=
  if m = mintC ∧ s.refs.holding then
    { s with refs := { s.refs with holding := false, holdLen := s.now - s.refs.holdStart } }
  else s

/-- MINT_LOCK (R66, R68): the 1,024th good period in a row after the re-zeroing. -/
def mintLocks (m : Fin 5) (s : State) : State :=
  let x := s.mints[m]
  if x.mode = .pulling ∧ x.settled ∧ s.reached (x.zeroAt + lockMites) then
    (s.modMint m fun x => { x with mode := .locked, settled := false }).endHold m
  else s

/-- MINT_LOCK. -/
def execMintLock (m : Fin 5) (s : State) : Result := .next (mintLocks m s)

/-- The regime allows the Mint to run (R393, R430, 18_power): every Mint in FULL and LEAN and once a wake has its rails; in
WATCH only Mint C, where REFCLK is absent. -/
def State.mintAllowed (s : State) (m : Fin 5) : Bool :=
  s.power.railsUp && (s.power.regime != .watch || s.power.waking || (m == mintC && !s.power.watchOnRef))

/-- A stopped Mint starts (R430): from its last DCO word or the factory word, into PULLING or HOLDOVER, without a toll. Only the
latter is a holdover entry for MNT_HOLD (R68; DESIGN CHOICE, log entry 86). -/
def State.startMint (s : State) (m : Fin 5) : State :=
  let x := s.mints[m]
  if x.mode != .stopped then s
  else
    let word : Dco := if x.ran then x.dco else ⟨Config.factoryDco m 0, Config.factoryDco m 1⟩
    let s1 := s.modMint m fun x => { x with
      mode := if s.selectedOk then .pulling else .holdover
      settled := false, pullAt := s.now, ran := true, dco := word, frozen := word, gatedPower := false }
    let s2 := if s.selectedOk then s1 else s1.beginHold m
    if m = mintC then { s2 with power := { s2.power with watchOnRef := false } } else s2

/-- MINT_START (R430): a Mint starts when its supply and regime allow it. -/
def mintStarts (m : Fin 5) (s : State) : State := if s.mintAllowed m then s.startMint m else s

/-- MINT_START. -/
def execMintStart (m : Fin 5) (s : State) : Result := .next (mintStarts m s)

/-- A Mint stops: its outputs are gated and it reads as stopped (R430). A holdover of Mint C that it cuts short is over (R68; DESIGN
CHOICE, log entry 86). -/
def State.stopMint (s : State) (m : Fin 5) : State :=
  (s.modMint m fun x => { x with mode := .stopped, settled := false, dco := s.dcoNow m, gatedPower := true }).endHold m

/-- Some running Mint is in HOLDOVER or PULLING: status bit CLOCK_HOLD (R67). -/
def State.clockHold (s : State) : Bool := s.mints.any fun x => x.mode == .holdover || x.mode == .pulling

/-- Mint S or C is in HOLDOVER or PULLING: the segment flag HOLD (R67). -/
def State.sampleHold (s : State) : Bool :=
  [mintS, mintC].any fun m => (s.mints[m]).mode == .holdover || (s.mints[m]).mode == .pulling

/-- REF_SELECT_WRITE (R61, R66): a write of MNT_REF. A change of SEL is a relock, and where AUTO finds the selected reference absent
and the other qualified, the device switches. -/
def refSelect (w : Word) (s : State) : State :=
  let mask := R.MNT_REF.mask (· == .lv)
  let old := s.flag F.MNT_REF_SEL
  let s1 := ((s.setWritten R.MNT_REF.base w mask).setForce R.MNT_REF.base w mask).answer .ok
  let s2 := if old != s1.flag F.MNT_REF_SEL then s1.relock else s1
  if s2.refSeen (s2.flag F.MNT_REF_SEL) then s2 else s2.autoSwitch

/-- REF_SELECT_WRITE. -/
def execRefSelectWrite (w : Word) (s : State) : Result := .next (refSelect w s)

/-- MNT_STATE. -/
def State.mintStateWord (s : State) : Word :=
  F.MNT_STATE_S.put (s.mints[mintS]).mode.code ||| F.MNT_STATE_C.put (s.mints[mintC]).mode.code |||
  F.MNT_STATE_M.put (s.mints[mintM]).mode.code ||| F.MNT_STATE_L.put (s.mints[mintL]).mode.code |||
  F.MNT_STATE_P.put (s.mints[mintP]).mode.code ||| F.MNT_STATE_ACTIVE.put s.refs.active.toNat

/-- The length of the present or last holdover of Mint C, in mites (R68). -/
def State.holdLength (s : State) : Nat := if s.refs.holding then s.now - s.refs.holdStart else s.refs.holdLen

/-- CHRON_READ (R71): a read of MNT_CHRON_LO latches the other two words. -/
def chronLatch (s : State) : State :=
  { s with refs := { s.refs with
      chronHi := BitVec.ofNat 32 (s.now / 2 ^ 32), chronEra := BitVec.ofNat 32 (s.now / 2 ^ 64) } }

/-- CHRON_READ. -/
def execChronRead (s : State) : Result := .next ((chronLatch s).answer .ok)

end Sys2Proof.Machine
end

