-- ==== Sys2Proof/Machine/Converters.lean ====
section
/-! DEFINITION. The converter slices (chapter 04): the interleave modes, the reference transfer, the correction of
chapter 05, the relief slice, handover and the referee. -/

namespace Sys2Proof.Machine

/-- Channels m of the interleave mode (R76). -/
def State.channels (s : State) : Nat := 2 ^ (s.val F.CNV_MODE_IL)

/-- Slices per channel (R76). -/
def State.slicesPerChannel (s : State) : Nat := 16 / s.channels

/-- Containers of one channel in a tick (R13). -/
def State.containersPerTick (s : State) : Nat := (if s.power.regime = .lean then 16 else 32) / s.channels

/-- Samples of one slice in a tick: two in FULL, one in LEAN. -/
def State.samplesPerSlice (s : State) : Nat := if s.power.regime = .lean then 1 else 2

/-- Mites between containers of one channel (R77). -/
def State.containerMites (s : State) : Nat := s.channels * (if s.power.regime = .lean then 2 else 1)

/-- The input of a channel (R76). -/
def State.inputOf (s : State) (c : Nat) : Nat := c * s.slicesPerChannel

/-- The channel of a live slice's position. -/
def State.channelOf (s : State) (k : Fin 16) : Nat := k.val / s.slicesPerChannel

/-- The reference transfer of a slice: a differential voltage in nanovolts to a raw code (R431). -/
def rawCode (nanovolts : Int) : Nat :=
  (clampInt 0 4095 ((nanovolts * 8192 + 4097 * 800000000) / (2 * 800000000))).toNat

/-- The INL correction at raw code `r`, interpolated linearly between the centres (R102). -/
def Coef.inlAt (c : Coef) (r : Nat) : Rat :=
  let at_ (e : Nat) : Int := Sparse.get (fun _ => 0) c.inl e
  if c.inl.isEmpty then 0
  else
    let x : Rat := ((r : Rat) - 63 / 2) / 64
    if x ≤ 0 then at_ 0
    else if 63 ≤ x then at_ 63
    else
      let i := x.floor.toNat
      at_ i + (x - i) * (at_ (i + 1) - at_ i)

/-- The value v of a sample after its gain step, in sixteenths of a corrected unit (R102, R103). -/
def Coef.gained (c : Coef) (r : Nat) : Rat :=
  let v : Rat := 64 * ((r : Rat) - 2048) - c.inlAt r - c.ofs
  v + v * c.gain / 1048576

/-- The BW term, which refers to the preceding container's value p, and the rounding (R103): the unclamped value. -/
def Coef.finish (c : Coef) (v p : Rat) : Int := roundAway ((v + c.bw * (v - p) / 65536) / 16)

/-- The clamp of the corrected value (R79). -/
def clampSample (x : Int) : Int := clampInt (-8192) 8191 x

/-- The coefficient set of the regime in force (R102, R111). -/
def State.coefs (s : State) : Vector Coef 17 := if s.power.regime = .lean then s.cal.lean else s.cal.full

/-- The relief slice's SKEW entries of the regime in force. -/
def State.reliefSkews (s : State) : Vector Int 16 :=
  if s.power.regime = .lean then s.cal.reliefSkewLean else s.cal.reliefSkewFull

/-- The slice that supplies a live slice's position: itself, or the relief slice, number 16 (R14). -/
def State.supplier (s : State) (k : Fin 16) : Fin 17 :=
  if s.conv.substitute = some k then 16 else ⟨k.val, by omega⟩

/-- One container of the corrected stream, with what the tick needs to know of it. -/
structure Container where
  value : Int
  overRange : Bool
deriving DecidableEq, Repr

/-- The containers of channel `c` in a tick, in order, and the value carried to the next tick (R76, R77, R103). `volts` are
the differential voltages of the seventeen slices' samples, in nanovolts. -/
def State.correct (s : State) (volts : Vector (Vector Int 2) 17) (c : Nat) : List Container × Rat :=
  let sp := s.slicesPerChannel
  (List.range s.containersPerTick).foldl (fun (out, p) j =>
    let k : Fin 16 := Fin.ofNat 16 (c * sp + j % sp)
    let sup := s.supplier k
    let raw := rawCode ((volts[sup])[Fin.ofNat 2 (j / sp)])
    let co := (s.coefs)[sup]
    let v := co.gained raw
    let x := co.finish v p
    (out ++ [⟨clampSample x, raw == 0 || raw == 4095 || clampSample x != x⟩], v))
    ([], s.conv.carry[Fin.ofNat 16 c])

/-- The corrected outputs of a slice (with coefficients `co`) at the containers of position `k`, which no stream need use:
what the referee and the shadows compare. -/
def State.shadowed (s : State) (volts : Vector (Vector Int 2) 17) (k : Fin 16) (sl : Fin 17) (co : Coef) : List Int :=
  let sp := s.slicesPerChannel
  let c := s.channelOf k
  ((List.range s.containersPerTick).foldl (fun (out, p) j =>
    let k' : Fin 16 := Fin.ofNat 16 (c * sp + j % sp)
    let sup := s.supplier k'
    let v := ((s.coefs)[sup]).gained (rawCode ((volts[sup])[Fin.ofNat 2 (j / sp)]))
    let mine := co.gained (rawCode ((volts[sl])[Fin.ofNat 2 (j / sp)]))
    (if k' = k then out ++ [clampSample (co.finish mine p)] else out, v))
    (([] : List Int), s.conv.carry[Fin.ofNat 16 c])).1

/-- A comparison window of 2^log samples begins (R83). -/
def Conv.beginWindow (c : Conv) (log limit : Nat) : Conv :=
  { c with winLen := 2 ^ log, winLimit := limit, winCount := 0, winSum := 0, winFrom := 0, winDiff := 0 }

/-- The window has all its samples. -/
def Conv.windowFull (c : Conv) : Bool := c.winLen ≤ c.winCount

/-- The window's mean absolute difference is above the limit (R83). -/
def Conv.windowSuspect (c : Conv) : Bool := c.winLen * c.winLimit < c.winSum * 16

/-- The samples of two slices at one position enter the window's sum of 40 bits (R83). -/
def Conv.compare (c : Conv) (a b : List Int) : Conv :=
  (a.zip b).foldl (fun c (x, y) =>
    if c.windowFull then c
    else { c with
      winCount := c.winCount + 1, winSum := (c.winSum + (x - y).natAbs) % 2 ^ 40, winDiff := c.winDiff + (x - y) }) c

/-- The place of the present tick in the relief slice's own calibration (R112): the index of its phase, from the lowest the mode uses,
and the ticks since that phase's settling began. The first takes a full dwell, the others half of one. -/
def State.selfCalAt (s : State) : Nat × Nat :=
  let d := s.val F.CAL_DWELL_DWELL
  let t := (s.now - s.cal.startAt) / mitesPerTick
  if t < 256 + d then (0, t)
  else
    let half := 256 + d / 2
    (min (s.slicesPerChannel - 1) (1 + (t - (256 + d)) / half), (t - (256 + d)) % half)

/-- The slice whose zero interval takes samples in the present tick, the first 256 ticks of it left out (R104, R105, R112). -/
def State.zeroSlice (s : State) : Option (Fin 17) :=
  let span := s.val F.CAL_DWELL_DWELL / 10
  match s.conv.phase, s.cal.slice with
  | .dwell 0 due, some k =>
    if due ≤ s.now + (span - 256) * mitesPerTick ∧ s.now < due then some k else none
  | .selfCal _, some k =>
    let (i, t) := s.selfCalAt
    if i = 0 ∧ 512 ≤ t ∧ t < 256 + span then some k else none
  | _, _ => none

/-- The samples of the zero interval enter the mean that OFS is (R104): the value v before its OFS step, with the coefficients in
force. DEDUCED (log entry 10). -/
def State.zeroTick (s : State) (volts : Vector (Vector Int 2) 17) : State :=
  match s.zeroSlice with
  | some k =>
    let v (i : Nat) : Rat :=
      let r := rawCode ((volts[k])[Fin.ofNat 2 i])
      64 * ((r : Rat) - 2048) - ((s.coefs)[k]).inlAt r
    let n := s.samplesPerSlice
    { s with cal := { s.cal with
        zeroSum := s.cal.zeroSum + ((List.range n).map v).sum, zeroCount := s.cal.zeroCount + n } }
  | none => s

/-- The referee's and the calibration's window takes the samples of the present tick. -/
def State.compareTick (s : State) (volts : Vector (Vector Int 2) 17) : State :=
  let k := s.conv.target
  let co := s.coefs
  let live := s.shadowed volts k ⟨k.val, by omega⟩ (match s.conv.phase, s.cal.candidate with
    | .verify, some cand => cand
    | _, _ => co[k.val])
  let relief := s.shadowed volts k 16 (co[16])
  if s.now < s.conv.winFrom then s
  else match s.conv.phase with
  | .window _ => { s with conv := s.conv.compare live relief }
  | .shadow => { s with conv := s.conv.compare live relief }
  | .verify => { s with conv := s.conv.compare live relief }
  | _ => s

/-- Mites the relief slice's output is discarded after a move: 256 ticks (R78). -/
def settleMites : Nat := 256 * mitesPerTick

/-- The relief slice moves to the position of live slice `k` (R78); where it still supplies a position in the present tick, which it
hands back with the next (R81), it moves then. -/
def State.moveRelief (s : State) (k : Fin 16) (goal : MoveFor) : State :=
  let from_ := if s.conv.handover = some none then s.now + s.tickLen else s.now
  { s with conv := { s.conv with target := k, phase := .settling goal (from_ + settleMites) } }

/-- The next live slice above `k`, wrapping (R84, R85). -/
def nextLive (k : Fin 16) : Fin 16 := Fin.ofNat 16 (k.val + 1)

/-- A referee window on `target` begins (R83). -/
def State.beginReferee (s : State) (suspect : Option (Fin 16)) : State :=
  { s with conv := { s.conv.beginWindow (s.val F.CAL_CHECK_WINDOW_WLOG) (s.val F.CAL_PLAUS_LIMIT_LIMIT) with
      phase := .window suspect } }

/-- Toll, attention and log entry of a retirement (R86, R87, R402). -/
def State.retireTolls (s : State) (slice : Fin 17) : State :=
  let t := if slice.val = 16 then 19 else 18
  (({ s with conv := { s.conv with degraded := true }, cal := { s.cal with request := false } }.toll t).attention
    2).logEvent 0x06 slice.val t 0

/-- What the last completed window leaves in CAL_REFEREE. -/
def Conv.recordWindow (c : Conv) (wit : Bool) : Conv :=
  { c with lastMad := min 65535 (c.winSum * 16 / c.winLen), lastSlice := c.target.val, lastSusp := c.windowSuspect
           lastWit := wit }

/-- The relief slice is due to end what it does in the present tick or earlier. -/
def State.reliefDue (s : State) (due : Nat) : Bool := s.reached due

/-- RELIEF_SETTLED (R78, R81, R86, R106): the output becomes usable from the next tick. -/
def reliefSettles (s : State) : State :=
  match s.conv.phase with
  | .settling goal due =>
    if !s.reliefDue due then s
    else match goal with
      | .referee => s.beginReferee none
      | .witness k => s.beginReferee (some k)
      | .calibration =>
        { s with
          conv := { s.conv.beginWindow (s.val F.CAL_HANDOVER_HLOG) (s.val F.CAL_PLAUS_LIMIT_LIMIT) with
            phase := .shadow } }
      | .retirement =>
        { s with conv := { s.conv with
            phase := .permanent, handover := some (some s.conv.target)
            retired := some ⟨s.conv.target.val, by omega⟩ } }
  | _ => s

/-- RELIEF_SETTLED. -/
def execReliefSettled (s : State) : Result := .next (reliefSettles s)

/-- CNV_RELIEF.ROLE: a substitution is in force, or it is permanent; shadowing; or neither. -/
def State.reliefRole (s : State) : Nat :=
  match s.conv.phase with
  | .permanent => 3
  | .window _ => 1
  | .shadow => 1
  | _ => if s.conv.substitute.isSome then 2 else 0

/-- CNV_RELIEF. -/
def State.reliefWord (s : State) : Word :=
  F.CNV_RELIEF_ROLE.put s.reliefRole ||| F.CNV_RELIEF_TARGET.put s.conv.target.val |||
  F.CNV_RELIEF_SUSPECT.put (s.conv.suspect[s.conv.target]) |||
  F.CNV_RELIEF_WITNESS.put (match s.conv.phase with | .window (some _) => 1 | _ => 0)

/-- CNV_RETIRED. -/
def State.retiredWord (s : State) : Word :=
  match s.conv.retired with
  | some k => BitVec.ofNat 32 (2 ^ k.val)
  | none => 0

/-- CAL_REFEREE. -/
def State.refereeWord (s : State) : Word :=
  F.CAL_REFEREE_MAD.put s.conv.lastMad ||| F.CAL_REFEREE_SLICE.put s.conv.lastSlice |||
  F.CAL_REFEREE_SUSP.put s.conv.lastSusp.toNat ||| F.CAL_REFEREE_WIT.put s.conv.lastWit.toNat

/-- The handover registered in the tick that closes takes effect (R81). -/
def State.openHandover (s : State) : State :=
  match s.conv.handover with
  | some h => { s with conv := { s.conv with substitute := h, handover := none } }
  | none => s

/-- A window in progress is discarded, and the next one starts at the next tick (R90). -/
def State.restartWindow (s : State) : State :=
  match s.conv.phase with
  | .window x =>
    let t := s.beginReferee x
    { t with conv := { t.conv with winFrom := s.now + s.tickLen } }
  | _ => s

end Sys2Proof.Machine
end

