-- ==== Sys2Proof/Machine/Trig.lean ====
section
/-! DEFINITION. The transcendental functions the spec names, to 128 fraction bits: the circle, the arctangent, the square root and
the decadic logarithm (02_tally R35, R43; 05_calibration R118; 10_measurements R222). DEDUCED (log entry 8): the spec states exact
values, which the model brackets. -/

namespace Sys2Proof.Machine

/-- 1 in fixed point, and 2π, 1/2π and log10 2 there, truncated. -/
def fixOne : Nat := 2 ^ 128
def fixTwoPi : Nat := 2138057168129933495719360746323741566601
def fixInvTwoPi : Nat := 54157620742477409023451113735280473968
def fixLog2 : Nat := 102435199438739363750012109250103232700

/-- `n` terms of an alternating power series: from `term`, each the one before times x² over k(k+1), or over k alone. -/
def fixSeries (x2 : Int) : Nat → Nat → Int → Int
  | 0, _, _ => 0
  | n + 1, k, term => term + fixSeries x2 n (k + 2) (-(term * x2 / fixOne) / (k * (k + 1) : Nat))

/-- Cosine and sine of an angle from 0 to π/4, in fixed point. -/
def fixCosSin (x : Int) : Int × Int :=
  let x2 := x * x / fixOne
  (fixSeries x2 20 1 fixOne, fixSeries x2 20 2 x)

/-- Cosine and sine of `f` turns, exact at whole quarters. -/
def turnCosSin (f : Rat) : Rat × Rat :=
  let r := f - f.floor
  let quarter := (r * 4).floor
  let part := r * 4 - quarter
  let angle (q : Rat) : Int := (q * fixTwoPi / 4).floor
  let (c, s) := if part ≤ 1 / 2 then fixCosSin (angle part) else (fixCosSin (angle (1 - part))).swap
  let (c, s) := ((c : Rat) / fixOne, (s : Rat) / fixOne)
  match quarter with
  | 0 => (c, s)
  | 1 => (-s, c)
  | 2 => (-c, -s)
  | _ => (s, -c)

/-- The terms of the arctangent's series. -/
def fixAtanSeries (x2 : Int) : Nat → Nat → Int → Int
  | 0, _, _ => 0
  | n + 1, k, power => power / (k : Nat) + fixAtanSeries x2 n (k + 2) (-(power * x2 / fixOne))

/-- The arctangent of y/x in turns, for 0 ≤ y ≤ x, exact at 0 and at 1. -/
def atanTurn (y x : Nat) : Rat :=
  if y = 0 then 0
  else if y = x then 1 / 8
  else
    let series (n d : Nat) : Rat :=
      let t : Int := (n * fixOne / d : Nat)
      ((fixAtanSeries (t * t / fixOne) 64 1 t * fixInvTwoPi : Int) : Rat) / ((fixOne : Rat) * fixOne)
    if 2 * y ≤ x then series y x else 1 / 8 - series (x - y) (x + y)

/-- atan2(s, c) in turns, from 0 to below 1; 0 where both are 0. -/
def atan2Turn (s c : Int) : Rat :=
  let y := s.natAbs
  let x := c.natAbs
  let first := if y ≤ x then atanTurn y x else 1 / 4 - atanTurn x y
  let half := if c < 0 then 1 / 2 - first else first
  if s < 0 then 1 - half else half

/-- The bits of a square root, highest first: the root so far, and how many bits are still to come. -/
def sqrtBits (n : Nat) : Nat → Nat → Nat
  | 0, r => r
  | k + 1, r => let t := r + 2 ^ k; sqrtBits n k (if t * t ≤ n then t else r)

/-- The square root of a number that is not negative, to 128 fraction bits. -/
def sqrtRat (x : Rat) : Rat :=
  let n := (x * fixOne * fixOne).floor.toNat
  (sqrtBits n (Nat.log2 n / 2 + 1) 0 : Rat) / fixOne

/-- The fraction bits of log2 of a mantissa from 1 to 2 in fixed point. -/
def logBits : Nat → Nat → Nat
  | 0, _ => 0
  | k + 1, m =>
    let q := m * m / fixOne
    if 2 * fixOne ≤ q then 2 ^ k + logBits k (q / 2) else logBits k q

/-- log10 of a positive number, to some 60 fraction bits. -/
def log10Rat (x : Rat) : Rat :=
  let up := Nat.log2 x.num.toNat
  let down := Nat.log2 x.den
  let e : Int := (up : Int) - down
  let scaled : Rat := if 0 ≤ e then x / 2 ^ e.toNat else x * 2 ^ (-e).toNat
  let (e, scaled) := if scaled < 1 then (e - 1, scaled * 2) else (e, scaled)
  let bits := logBits 64 (scaled * fixOne).floor.toNat
  ((e : Rat) + (bits : Rat) / 2 ^ 64) * fixLog2 / fixOne

/-- 2π, bracketed to one part in 10^30; the rest stays open. -/
def twoPi : Rat := (6283185307179586476925286766559 + (Config.twoPiTail.val : Rat) / 4294967296) / 10 ^ 30

/-- The 16-bit phase of a sine and a cosine sample (02_tally R35), its rounding open. -/
def phase16 (sine cosine : Int) : Rat := atan2Turn sine cosine * 65536

end Sys2Proof.Machine
end

