-- ==== Sys2Proof/Machine/Calibration.lean ====
section
/-! DEFINITION. Background calibration (chapter 05): the rotation, the acceptance of coefficients, the step; and the ends of
the referee's windows (04_converters R83 to R87), which decide what the relief slice does next. -/

namespace Sys2Proof.Machine

/-- Mites in one millisecond. -/
def msMites : Nat := 40000000

/-- A calibration of a slice may not run: frozen under R116, skipped under R107. -/
def State.calExcluded (s : State) (k : Fin 17) : Bool :=
  Nat.testBit (s.val F.CAL_FREEZE_FRZ) k.val || s.cal.skipped.contains k

/-- The first slice of the round from `k` on that is not passed over (R113). -/
def State.calPick (s : State) (k : Nat) : Option (Fin 17) :=
  (List.finRange 17).find? fun j => decide (k ≤ j.val) && !s.calExcluded j

/-- The mode that rotates: BRISK in the round of R114, else the mode in force. -/
def State.calMode (s : State) : Nat := if s.cal.first then 0 else s.cal.mode

/-- A round ends: the round of R114 is over, and no slice is skipped any more (R107, R114). -/
def State.endRound (s : State) : State := { s with cal := { s.cal with first := false, skipped := [], next := 0 } }

/-- Phases P of the interleave mode (R112). -/
def State.modePhases (s : State) : Nat := s.slicesPerChannel

/-- Mites the relief slice's own calibration takes (R112). -/
def State.selfCalMites (s : State) : Nat :=
  let d := s.val F.CAL_DWELL_DWELL
  (d + d * (s.modePhases - 1) / 2 + 256 * s.modePhases) * mitesPerTick

/-- The next calibration of the round begins: the move to the slice's position, or the relief slice's own (R106, R112), with the dwell
as written by then (CAL_DWELL). Where every slice is passed over, BRISK goes on asking (R113). -/
def State.beginCal (s : State) : State :=
  let s := { s with cal := { s.cal with request := false } }
  if s.conv.degraded then s
  else
    let s := if (s.calPick s.cal.next.val).isNone then s.endRound else s
    match s.calPick s.cal.next.val with
    | none => { s with cal := { s.cal with request := s.calMode == 0 } }
    | some k =>
      let s := s.bringIntoForce [R.CAL_DWELL.base]
      let s := { s with cal := { s.cal with
        slice := some k, next := k, startAt := s.now, candidate := none, zeroSum := 0, zeroCount := 0 } }
      if h : k.val < 16 then s.moveRelief ⟨k.val, h⟩ .calibration
      else { s with conv := { s.conv with phase := .selfCal (s.now + s.selfCalMites) } }

/-- The relief slice begins the next calibration, or shadows slice `k` where there is none to begin. -/
def State.beginCalOr (s : State) (k : Fin 16) : State :=
  let t := s.beginCal
  if t.cal.slice.isSome then t else t.moveRelief k .referee

/-- A referee window on slice `k` follows, or the calibration that is asked for (04_converters R84, referee
coincidences). -/
def State.reliefNext (s : State) (k : Fin 16) : State :=
  let s := { s with conv := { s.conv with refNext := k } }
  if s.cal.request then s.beginCalOr k else s.moveRelief k .referee

/-- REFEREE_WINDOW_END (R83 to R85). -/
def refereeEnd (s : State) : State :=
  match s.conv.phase with
  | .window none =>
    if !s.conv.windowFull then s
    else
      let k := s.conv.target
      let susp := s.conv.windowSuspect
      let s := { s with conv := s.conv.recordWindow false }
      if !susp then
        { s with conv := { s.conv with suspect := s.conv.suspect.set k.val 0 k.isLt } }.reliefNext (nextLive k)
      else
        let n : Nat := s.conv.suspect[k] + 1
        let s := ({ s with conv := { s.conv with suspect := s.conv.suspect.set k.val n k.isLt } }.toll 17).attention 1
        if 3 ≤ n then s.moveRelief (nextLive k) (.witness k)
        else if s.cal.request then s.reliefNext k
        else s.beginReferee none
  | _ => s

/-- REFEREE_WINDOW_END. -/
def execRefereeWindowEnd (s : State) : Result := .next (refereeEnd s)

/-- WITNESS_WINDOW_END (R85 to R87): slice `k` is retired, or the relief slice is. -/
def witnessEnd (s : State) : State :=
  match s.conv.phase with
  | .window (some k) =>
    if !s.conv.windowFull then s
    else
      let susp := s.conv.windowSuspect
      let s := { s with conv := s.conv.recordWindow true }
      if susp then
        let s := s.retireTolls 16
        { s with conv := { s.conv with phase := .off, retired := some 16 } }
      else (s.retireTolls ⟨k.val, by omega⟩).moveRelief k .retirement
  | _ => s

/-- WITNESS_WINDOW_END. -/
def execWitnessWindowEnd (s : State) : Result := .next (witnessEnd s)

/-- A calibration ends: the next slice of the round, the mode that takes effect at this boundary (R115), the next
calibration where the rotation calls for it, and one referee window first (R113). -/
def State.endCal (s : State) : State :=
  let k : Nat := match s.cal.slice with | some k => k.val | none => 0
  let s := { s with cal := { s.cal with slice := none, candidate := none } }
  let s := if 16 ≤ k then s.endRound else { s with cal := { s.cal with next := Fin.ofNat 17 (k + 1) } }
  let s := { s with cal := { s.cal with mode := s.val F.CAL_MODE_MODE } }
  let s := if (s.calPick s.cal.next.val).isNone then s.endRound else s
  -- one referee window follows, and what is asked for waits until it ends
  let brisk := s.calMode == 0
  let r := s.conv.refNext
  ({ s with cal := { s.cal with request := brisk || (s.calMode == 1 && s.cal.request) } }).moveRelief r .referee

/-- A handback without a step (R108, R109). -/
def State.handBack (s : State) : State :=
  ({ s with conv := { s.conv with handover := some none } }).endCal

/-- CAL_SHADOW_END (R106, R107). -/
def calShadowEnd (s : State) : State :=
  match s.conv.phase, s.cal.slice with
  | .shadow, some k =>
    if !s.conv.windowFull then s
    else if s.conv.windowSuspect then
      ({ s with cal := { s.cal with skipped := s.cal.skipped ++ [k] } }.toll 22).endCal
    else
      { s with conv := { s.conv with
          handover := some (some s.conv.target), phase := .tone (s.now + 257 * mitesPerTick) } }
  | _, _ => s

/-- CAL_SHADOW_END. -/
def execCalShadowEnd (s : State) : Result := .next (calShadowEnd s)

/-- Mites of sub-step `i` of the dwell (R105). -/
def State.substepMites (s : State) (i : Nat) : Nat :=
  let d := s.val F.CAL_DWELL_DWELL
  (match i with | 0 => d / 10 | 1 => 2 * d / 5 | _ => d / 16) * mitesPerTick

/-- CAL_TONE_SETTLED (R106): the zero sub-step begins. -/
def calToneSettled (s : State) : State :=
  match s.conv.phase with
  | .tone due => if s.reached due then { s with conv := { s.conv with phase := .dwell 0 (due + s.substepMites 0) } } else s
  | _ => s

/-- CAL_TONE_SETTLED. -/
def execCalToneSettled (s : State) : Result := .next (calToneSettled s)

/-- CAL_SUBSTEP_END (R105): the next sub-step begins. -/
def calSubstepEnd (s : State) : State :=
  match s.conv.phase with
  | .dwell i due =>
    if s.reached due ∧ i < 9 then
      { s with conv := { s.conv with phase := .dwell (i + 1) (due + s.substepMites (i + 1)) } }
    else s
  | _ => s

/-- CAL_SUBSTEP_END. -/
def execCalSubstepEnd (s : State) : Result := .next (calSubstepEnd s)

/-- The acceptance limits, which come into force with a check. -/
def limitWords : List Nat := (List.range 5).map (R.CAL_LIM_OFS.base + ·)

/-- CAL_DWELL_END (R106): the last sub-step ends, and the check begins, with the limits as written by then. -/
def calDwellEnd (s : State) : State :=
  match s.conv.phase with
  | .dwell 9 due =>
    if s.reached due then
      { s.bringIntoForce limitWords with conv := { s.conv with phase := .check (due + 1024 * mitesPerTick) } }
    else s
  | _ => s

/-- CAL_DWELL_END. -/
def execCalDwellEnd (s : State) : Result := .next (calDwellEnd s)

/-- A coefficient within its ABS limit and within STEP of the value in force (R108). -/
def withinLimits (abs_ step : Nat) (new old : Int) : Bool :=
  decide (new.natAbs ≤ abs_) && decide ((new - old).natAbs ≤ step)

/-- The ranges of the coefficients, but SKEW (R102). -/
def Coef.bodyInRange (c : Coef) : Bool :=
  decide (c.ofs.natAbs ≤ 32767) && decide (-32768 ≤ c.gain) && decide (c.gain ≤ 32767) && decide (-32768 ≤ c.bw) &&
  decide (c.bw ≤ 32767) && c.inl.all fun e => decide (e.2.natAbs ≤ 127)

/-- A candidate's coefficients but SKEW are in their ranges and accepted against those in force (R102, R108). -/
def State.acceptsBody (s : State) (new old : Coef) : Bool :=
  new.bodyInRange &&
  withinLimits (s.val F.CAL_LIM_OFS_ABS) (s.val F.CAL_LIM_OFS_STEP) new.ofs old.ofs &&
  withinLimits (s.val F.CAL_LIM_GAIN_ABS) (s.val F.CAL_LIM_GAIN_STEP) new.gain old.gain &&
  withinLimits (s.val F.CAL_LIM_BW_ABS) (s.val F.CAL_LIM_BW_STEP) new.bw old.bw &&
  (List.range 64).all fun e => withinLimits (s.val F.CAL_LIM_INL_ABS) (s.val F.CAL_LIM_INL_STEP)
    (Sparse.get (fun _ => 0) new.inl e) (Sparse.get (fun _ => 0) old.inl e)

/-- A SKEW value is in its range of 2,000 fs and accepted (R102, R108). -/
def State.acceptsSkew (s : State) (new old : Int) : Bool :=
  decide (new.natAbs ≤ 2000) && withinLimits (s.val F.CAL_LIM_SKEW_ABS) (s.val F.CAL_LIM_SKEW_STEP) new old

/-- The interleave mode hides the coefficients (R117). -/
def State.calHidden (s : State) : Bool := s.val F.CNV_MODE_IL == 0

/-- In IL1 a new SKEW value is referred to the mean of the sixteen positions' trims in force (R117). DEDUCED (log entry 10). -/
def State.referSkew (s : State) (v : Int) : Int :=
  if s.calHidden then v - openRound ((((List.finRange 16).map fun (k : Fin 16) => ((s.coefs)[k.val]).skew).sum : Int) / 16) else v

/-- The candidate as the dwell has measured it (R104, R117): OFS is the mean of the zero interval where its samples have been taken,
and the rest is what the sender says the estimates give. -/
def State.measured (s : State) (cand : Coef) : Coef :=
  { cand with
    ofs := if s.cal.zeroCount = 0 then cand.ofs else openRound (s.cal.zeroSum / (s.cal.zeroCount : Rat))
    skew := s.referSkew cand.skew }

/-- CAL_CHECK_END (R108; calibration coincidences): the candidate is accepted or discarded, and the slice goes back to its
input. -/
def calCheckEnd (cand : Coef) (s : State) : State :=
  match s.conv.phase, s.cal.slice with
  | .check due, some k =>
    if !s.reached due then s
    else
      let cand := s.measured cand
      let old := (s.coefs)[k]
      let ok := s.acceptsBody cand old && s.acceptsSkew cand.skew old.skew
      let frozen := Nat.testBit (s.val F.CAL_FREEZE_FRZ) k.val
      let s1 := { s with
        cal := { s.cal with candidate := if ok && !frozen then some cand else none }
        conv := { s.conv with phase := .returning (due + settleMites) } }
      s1.tollIf (!ok && !frozen) 23
  | _, _ => s

/-- CAL_CHECK_END. -/
def execCalCheckEnd (cand : Coef) (s : State) : Result := .next (calCheckEnd cand s)

/-- CAL_RETURN_SETTLED (R106): verification begins. -/
def calReturnSettled (s : State) : State :=
  match s.conv.phase with
  | .returning due =>
    if s.reached due then
      { s with
        conv := { s.conv.beginWindow (s.val F.CAL_VERIFY_VLOG) (s.val F.CAL_PLAUS_LIMIT_LIMIT) with phase := .verify } }
    else s
  | _ => s

/-- CAL_RETURN_SETTLED. -/
def execCalReturnSettled (s : State) : Result := .next (calReturnSettled s)

/-- The square of e_m and that of o_m for the residuals of a channel, its mean lag taken off (R118). -/
def residualLines (rs : List (Rat × Rat × Rat)) (m : Nat) : Rat × Rat :=
  let sp : Rat := rs.length
  let turn (k : Nat) : Rat × Rat := turnCosSin (-(m * k : Nat) / sp)
  let e := rs.zipIdx.foldl (fun (a : Rat × Rat) (r, k) =>
    let w := twoPi * r.2.2 * 66667 / 10000000000
    let (c, s) := turn k
    (a.1 + r.2.1 * c - w * s, a.2 + r.2.1 * s + w * c)) (0, 0)
  let o := rs.zipIdx.foldl (fun (a : Rat × Rat) (r, k) =>
    let (c, s) := turn k
    (a.1 + r.1 * c, a.2 + r.1 * s)) (0, 0)
  let size (x : Rat × Rat) : Rat := (x.1 * x.1 + x.2 * x.2) / (sp * sp)
  (size e, size o / (8192 * 8192))

/-- The residuals of the channels' positions, each channel's mean lag taken off its lags (R118). -/
def State.channelResiduals (s : State) : List (List (Rat × Rat × Rat)) :=
  let sp := s.slicesPerChannel
  (List.range s.channels).map fun c =>
    let rs := (s.cal.residuals.toList.drop (c * sp)).take sp
    let mean := (rs.map (·.2.2)).sum / (sp : Rat)
    rs.map fun r => (r.1, r.2.1, r.2.2 - mean)

/-- CAL_QUALITY is computed at a handback (R118); where every line is zero, whose logarithm the rule does not state, SPUR is a free
value (DESIGN CHOICE, log entry 85). -/
def State.renewQuality (s : State) : State :=
  let sp := s.slicesPerChannel
  let chans := s.channelResiduals
  let lines := chans.flatMap fun rs => (List.range (sp - 1)).flatMap fun m =>
    let (e, o) := residualLines rs (m + 1)
    [e, o]
  let top := lines.foldl max 0
  let rms := (chans.map fun rs => (rs.map fun r => r.2.2 * r.2.2).sum / (sp : Rat)).foldl max 0
  let (spur, s) : Nat × State :=
    if sp = 1 then (0xC000, s)
    else if top = 0 then s.draw
    else ((openRound (10 * log10Rat top * 128) % 65536).toNat, s)
  { s with cal := { s.cal with
      spur := BitVec.ofNat 32 (spur % 65536), skewRms := (openRound (sqrtRat rms)).toNat } }

/-- CAL_VERIFY_END (R108, R109): the handback, with the step, or the discard of the candidate. `res` are two residuals of
the verification, the gain ratio minus one and the lag; the third, the mean difference, is the window's (R118). -/
def calVerifyEnd (res : Rat × Rat) (s : State) : State :=
  match s.conv.phase, s.cal.slice with
  | .verify, some k =>
    if !s.conv.windowFull then s
    else match s.cal.candidate with
      | none => s.renewQuality.handBack
      | some cand =>
        let t := s.conv.target
        let o : Rat := (s.conv.winDiff : Rat) / (s.conv.winLen : Rat)
        let s := { s with cal := { s.cal with residuals := s.cal.residuals.set t.val (o, res.1, res.2) t.isLt } }
        if s.conv.windowSuspect then
          let s := (s.toll 24).attention 1
          { s with
            cal := { s.cal with candidate := none }
            conv := { s.conv with phase := .restoring (s.now + settleMites), refNext := t } }
        else ({ s with cal := { s.cal with stepDue := some (s.power.regime == Regime.lean, k, cand) } }).renewQuality.handBack
  | _, _ => s

/-- CAL_VERIFY_END. -/
def execCalVerifyEnd (res : Rat × Rat) (s : State) : Result := .next (calVerifyEnd res s)

/-- CAL_RESTORE_SETTLED (R109): the handback with the old coefficients. -/
def calRestoreSettled (s : State) : State :=
  match s.conv.phase with
  | .restoring due => if s.reached due then s.renewQuality.handBack else s
  | _ => s

/-- CAL_RESTORE_SETTLED. -/
def execCalRestoreSettled (s : State) : Result := .next (calRestoreSettled s)

/-- RELIEF_SELFCAL_END (R112): the relief slice's candidate, with its sixteen SKEW entries, of which those of the phases
the mode uses are measured. -/
def reliefSelfCalEnd (cand : Coef) (skews : Vector Int 16) (s : State) : State :=
  match s.conv.phase with
  | .selfCal due =>
    if !s.reached due then s
    else
      let s := s.bringIntoForce limitWords
      let used (p : Fin 16) : Bool := p.val % s.channels == 0
      let old := s.reliefSkews
      let cand := s.measured cand
      let skews := skews.map s.referSkew
      let ok := s.acceptsBody cand (s.coefs)[16] &&
        (List.finRange 16).all fun p => !used p || s.acceptsSkew skews[p] old[p]
      if ok then
        let sk := Vector.ofFn fun p : Fin 16 => if used p then skews[p] else old[p]
        ({ s with cal := { s.cal with stepDue := some (s.power.regime == Regime.lean, 16, cand), reliefDue := some sk } }).endCal
      else ((s.toll 25).attention 1).endCal
  | _ => s

/-- RELIEF_SELFCAL_END. -/
def execReliefSelfcalEnd (cand : Coef) (skews : Vector Int 16) (s : State) : Result :=
  .next (reliefSelfCalEnd cand skews s)

/-- A calibration is in progress. -/
def State.calRunning (s : State) : Bool := s.cal.slice.isSome

/-- The next calibration of the round is the relief slice's own. -/
def State.selfCalNext (s : State) : Bool := s.calPick s.cal.next.val == some 16

/-- A calibration is asked for: the relief slice's own pre-empts a referee window, and any other waits for what the relief slice is
doing (R90, referee coincidences, R115). Before the sample domain runs nothing begins. DEDUCED (log entry 10). -/
def State.askCal (s : State) : State :=
  if s.conv.degraded then s
  else match s.conv.phase with
    | .idle => s
    | .window none => if s.selfCalNext then s.beginCal else { s with cal := { s.cal with request := true } }
    | _ => { s with cal := { s.cal with request := true } }

/-- CAL_INTERVAL_EXPIRY (R113, R115): in STEADY, CAL_INTERVAL after the start of the last calibration. -/
def calIntervalExpiry (s : State) : State :=
  if s.calMode != 1 || !s.reached (s.cal.startAt + s.val F.CAL_INTERVAL_INT * msMites) then s else s.askCal

/-- CAL_INTERVAL_EXPIRY. -/
def execCalIntervalExpiry (s : State) : Result := .next (calIntervalExpiry s)

/-- A write of CAL_MODE takes effect at once if no calibration is in progress (R115). -/
def State.applyCalMode (s : State) : State :=
  if s.calRunning then s
  else
    let s1 := { s with cal := { s.cal with mode := s.val F.CAL_MODE_MODE } }
    if s1.calMode == 0 then s1.askCal
    else { s1 with cal := { s1.cal with request := false } }

/-- The relief slice and the rotation start with the sample domain (R88, R89, R114). A retirement that was decided and not yet carried
out goes on (R86). -/
def State.startRelief (s : State) : State :=
  let s := { s with cal := { s.cal with slice := none, candidate := none } }
  match s.conv.retired with
  | some k =>
    if h : k.val < 16 then
      { s with conv := { s.conv with phase := .permanent, target := ⟨k.val, h⟩, substitute := some ⟨k.val, h⟩
                                     handover := none, degraded := true } }
    else { s with conv := { s.conv with phase := .off, substitute := none, handover := none, degraded := true } }
  | none =>
    let s := { s with conv := { s.conv with phase := .idle, substitute := none, handover := none } }
    if s.conv.degraded then s.moveRelief s.conv.target .retirement
    else if s.calMode == 0 then s.beginCalOr s.conv.refNext
    else s.moveRelief s.conv.refNext .referee

/-- The coefficient step that is due takes effect at mite 0 of the present tick (R110, R112). -/
def State.openStep (s : State) : State :=
  match s.cal.stepDue with
  | none => { s with cal := { s.cal with stepped := [] } }
  | some (lean, k, co) =>
    let inForce := lean == (s.power.regime == .lean)
    let c := s.cal
    { s with cal := { c with
        full := if lean then c.full else c.full.set k.val co k.isLt
        lean := if lean then c.lean.set k.val co k.isLt else c.lean
        reliefSkewFull := if lean then c.reliefSkewFull else c.reliefDue.getD c.reliefSkewFull
        reliefSkewLean := if lean then c.reliefDue.getD c.reliefSkewLean else c.reliefSkewLean
        stepDue := none, reliefDue := none, steps := (c.steps + 1) % 65536, lastSlice := k.val
        lastStep := s.now % 2 ^ 64
        stepped := if h : k.val < 16 ∧ inForce = true then [⟨k.val, h.1⟩] else [] } }

/-- The rotation goes on after a change of regime (R111): in BRISK the abandoned slice is next at once, and else the relief slice
shadows until its interval. -/
def State.resumeRotation (s : State) : State :=
  if s.conv.degraded then s
  else if s.calMode == 0 then s.beginCalOr s.conv.refNext
  else s.moveRelief s.conv.refNext .referee

/-- The calibration in progress is abandoned; that is a rotation boundary, at which CAL_MODE takes effect (R111, R115). -/
def State.abandonCal (s : State) : State :=
  { s with
    conv := { s.conv with substitute := none, handover := none, phase := .idle }
    cal := { s.cal with
      slice := none, candidate := none, stepDue := none, reliefDue := none, mode := s.val F.CAL_MODE_MODE } }

/-- A change of regime abandons the calibration in progress, with a handback and its CAL_QUALITY where the relief slice supplies the
position (R118), and steps every position (R111), which is recorded as sixteen steps in ascending order. DEDUCED (log entry 10). -/
def State.regimeStep (s : State) : State :=
  let s := if s.calRunning then
      (if s.conv.substitute.isSome then s.renewQuality else s).abandonCal.resumeRotation
    else s.restartWindow
  { s with cal := { s.cal with
      stepped := List.finRange 16, lastSlice := 15, lastStep := s.now % 2 ^ 64, steps := (s.cal.steps + 16) % 65536 } }

/-- CAL_STATUS. -/
def State.calStatusWord (s : State) : Word :=
  let step : Nat := match s.cal.slice, s.conv.phase with
    | none, _ => 0
    | _, .settling _ _ => 1
    | _, .shadow => 2
    | _, .tone _ => 3
    | _, .dwell _ _ => 3
    | _, .check _ => 4
    | _, .selfCal _ => 6
    | _, _ => 5
  F.CAL_STATUS_STEP.put step ||| F.CAL_STATUS_SLICE.put (match s.cal.slice with | some k => k.val | none => 0) |||
  F.CAL_STATUS_LAST_SLICE.put s.cal.lastSlice ||| F.CAL_STATUS_MODE_NOW.put s.calMode |||
  F.CAL_STATUS_FIRST.put (s.cal.first && !s.conv.degraded && s.conv.phase != .idle).toNat ||| F.CAL_STATUS_STEPS.put s.cal.steps

/-- Word w of the readout of slice k: OFS, GAIN, SKEW, BW (R116, R117). -/
def State.coefWord (s : State) (k : Fin 17) (w : Nat) : Word :=
  if s.calHidden then 0
  else
    let c := (s.coefs)[k]
    let v : Int := match w with
      | 0 => c.ofs
      | 1 => c.gain
      | 2 => if k.val = 16 then
          -- the entry of the phase occupied: position i of a channel has phase i × m
          let i := match s.conv.phase with
            | .selfCal _ => s.selfCalAt.1
            | _ => s.conv.target.val % s.slicesPerChannel
          (s.reliefSkews)[Fin.ofNat 16 (i * s.channels)]
        else c.skew
      | _ => c.bw
    wordOfInt v &&& 0xFFFF

/-- CAL_RSKp (R116, R117). -/
def State.reliefSkewWord (s : State) (p : Fin 16) : Word :=
  if s.calHidden then 0 else wordOfInt ((s.reliefSkews)[p]) &&& 0xFFFF

/-- CAL_INL_DATA (R116, R117). -/
def State.inlWord (s : State) : Word :=
  if s.calHidden then 0
  else
    let c := (s.coefs)[Fin.ofNat 17 (s.val F.CAL_INL_SEL_SLICE)]
    let g := s.val F.CAL_INL_SEL_GROUP
    let e (i : Nat) : Nat := (Sparse.get (fun _ => (0 : Int)) c.inl (4 * g + i) % 256).toNat
    BitVec.ofNat 32 (e 0 + e 1 * 2 ^ 8 + e 2 * 2 ^ 16 + e 3 * 2 ^ 24)

end Sys2Proof.Machine
end

