-- ==== Sys2Proof/Machine/Tally.lean ====
section
/-! DEFINITION. The tally (chapter 02): edges, measurements, the tracking loop, stillness, coasting, loss, rejoin, the
index and the snapshot. -/

namespace Sys2Proof.Machine

/-- Sub-grains in a turn (R41). -/
def subgrainsPerTurn : Nat := 2 ^ 48

/-- The MODE code of a tally port (R33). -/
def State.portMode (s : State) (p : Fin 4) : Nat := s.val F.TLY_TP_MODE_MODE p

/-- The primary port of TLY_SRC. -/
def State.primaryPort (s : State) : Fin 4 := Fin.ofNat 4 (s.val F.TLY_SRC_PRIMARY)

/-- The fallback port, where it is enabled. -/
def State.fallbackPort (s : State) : Option (Fin 4) :=
  if s.flag F.TLY_SRC_FB_EN then some (Fin.ofNat 4 (s.val F.TLY_SRC_FB_PORT)) else none

/-- The tally tracks the port: it is primary, or an enabled fallback, and the tally runs (R33). -/
def State.portTracked (s : State) (p : Fin 4) : Bool :=
  s.tally.mode != .stopped && (s.primaryPort == p || s.fallbackPort == some p)

/-- The active port is in CLOCK mode (R37). -/
def State.tallyClock (s : State) : Bool := s.portMode s.tally.active == 5

/-- Counts per turn N of a port (R33, R41). -/
def State.countsPerTurn (s : State) (p : Fin 4) : Nat :=
  match s.portMode p with
  | 1 => s.val F.TLY_TP_COUNT_COUNT p
  | 2 => s.val F.TLY_TP_COUNT_COUNT p
  | 3 => s.val F.TLY_TP_COUNT_COUNT p * 65536
  | 4 => if s.flag F.TLY_TP_MODE_MEDGES p then 2 else 1
  | _ => 1

/-- The sub-grains of count `k`: k steps of D, and one more for each overflow of the error register, which r enters at
each step (R41). A reverse count undoes the same steps. -/
def countOffset (n : Nat) (k : Int) : Int :=
  k * (subgrainsPerTurn / n : Nat) + (k * (subgrainsPerTurn % n : Nat)) / (n : Int)

/-- The position of count `k` of a port, in sub-grains. -/
def TallyPort.posOf (t : TallyPort) (n : Nat) (k : Int) : Rat := t.frame + countOffset n k

/-- The count nearest to position `x` among those congruent to `c` modulo `m` (R47); of two equally near the lower. DESIGN CHOICE
(log entry 73). -/
def TallyPort.nearest (t : TallyPort) (n : Nat) (m : Nat) (c : Int) (x : Rat) : Int :=
  let k0 := ((x - t.frame) * n / (subgrainsPerTurn : Nat)).floor
  let base := c + m * ((k0 - c) / (m : Int))
  let closer (i j : Int) : Int :=
    if ratAbs (t.posOf n j - x) < ratAbs (t.posOf n i - x) then j else i
  closer (closer (base - m) base) (closer (base + m) (base + 2 * m))

/-- The quadrature phase of the A and B levels, in the order of forward motion (PRESUMED, log entry 18). -/
def quadPhase : Bool → Bool → Nat
  | false, false => 0
  | true, false => 1
  | true, true => 2
  | false, true => 3

/-- The direction of motion of one step of quadrature phase: some true in reverse, none for no or a double step. -/
def quadReverse (old new : Nat) : Option Bool :=
  match (new + 4 - old) % 4 with
  | 1 => some false
  | 3 => some true
  | _ => none

/-- DIR of a port inverts its natural direction. -/
def State.dirInverted (s : State) (p : Fin 4) : Bool := s.val F.TLY_TP_MODE_DIR p == 1

/-- The tally's state with port `p` changed. -/
def State.modPort (s : State) (p : Fin 4) (f : TallyPort → TallyPort) : State :=
  { s with tally := { s.tally with ports := updAt s.tally.ports p f } }

/-- The tally with a timeout of the present tick taken back: `before` is the tally before it. -/
def Tally.takeBack (t before : Tally) : Tally :=
  { t with
    mode := before.mode, active := before.active, onFb := before.onFb, spd := before.spd, acc := before.acc
    residue := before.residue, jump := before.jump, stepped := before.stepped, rejoined := before.rejoined
    leaving := before.leaving, lastJump := before.lastJump, lastStamp := before.lastStamp, lastTick := before.lastTick
    coastAt := before.coastAt, indexed := before.indexed, reacq := before.reacq, fbOffset := before.fbOffset
    ports := Vector.ofFn fun p => { t.ports[p] with
      frame := before.ports[p].frame, lastPos := t.ports[p].lastPos - (t.ports[p].frame - before.ports[p].frame) } }

/-- An edge of the active port beats a timeout acted on earlier in the same tick: no transition takes place and no toll is counted
(tally coincidences). -/
def State.edgeWins (s : State) (p : Fin 4) : State :=
  match s.ev.timeout with
  | some (before, tolls) =>
    if before.active = p then
      { s.untollAll tolls with
        tally := s.tally.takeBack before, ev := { s.ev with timeout := none } }
    else s
  | none => s

/-- A measurement of port `p` at a position is registered (R43). -/
def State.pushAt (s : State) (p : Fin 4) (pos stamp : Rat) : State :=
  let s1 := (s.edgeWins p).modPort p fun t => { t with lastPos := pos }
  { s1 with tally := { s1.tally with measQ := s1.tally.measQ ++ [⟨p, pos, stamp⟩] } }

/-- A measurement of port `p` is registered at its present count (R43). -/
def State.pushMeas (s : State) (p : Fin 4) (stamp : Rat) : State :=
  s.pushAt p ((s.tally.ports[p]).posOf (s.countsPerTurn p) (s.tally.ports[p]).count) stamp

/-- Mites within which a second count of a port is lost to overrun: 20 ns (R34). -/
def overrunMites : Nat := 800

/-- One count of a port, with its stamp: lost to overrun, or counted and registered as a measurement (R34, R41). -/
def State.registerCount (s : State) (p : Fin 4) (rev : Bool) (stamp : Nat) : State :=
  let t := s.tally.ports[p]
  if (match t.lastCount with | some c => decide (stamp < c + overrunMites) | none => false) then s.toll 2
  else
    (s.modPort p fun t => { t with
        count := if rev then t.count - 1 else t.count + 1, reverse := rev, lastCount := some stamp
        lastMeas := some stamp, prevMeas := t.lastMeas }).pushMeas p stamp

/-- New registered levels of A and B on a port, and the count they give (R34). -/
def State.registerAB (s : State) (p : Fin 4) (a b : Bool) (stamp : Nat) : State :=
  let t := s.tally.ports[p]
  let s' := s.modPort p fun t => { t with a := a, b := b }
  if !s.portTracked p then s'
  else match s.portMode p with
    | 1 =>
      if t.a != a && t.b != b then s'.toll 1
      else match quadReverse (quadPhase t.a t.b) (quadPhase a b) with
        | some rev => s'.registerCount p (rev != s.dirInverted p) stamp
        | none => s'
    | 2 =>
      if !t.a && a then
        s'.registerCount p (match s.val F.TLY_TP_MODE_DIR p with | 1 => true | 2 => b | _ => false) stamp
      else s'
    | _ => s'

/-- A port of this mode has a Z input (R33). -/
def modeHasIndex (mode : Nat) : Bool := mode == 1 || mode == 2 || mode == 3

/-- A new registered level of Z: its rising edge on a port with Z_EN is the index (R34, R49). Of two tracked ports only the active
one's is taken. DESIGN CHOICE (log entry 72). -/
def State.registerZ (s : State) (p : Fin 4) (level : Bool) (stamp : Nat) : State :=
  let t := s.tally.ports[p]
  let s' := s.modPort p fun t => { t with z := level }
  if level && !t.z && s.portTracked p && p == s.tally.active && modeHasIndex (s.portMode p) && s.flag F.TLY_TP_MODE_Z_EN p then
    { s' with tally := { s'.tally with index := some stamp } }
  else s'

/-- The glitch filter of a port, in mites (R34). -/
def State.filterMites (s : State) (p : Fin 4) : Nat := 32 * s.val F.TLY_TP_MODE_FILT p

/-- A change of one pin's level meets the filter: it cancels the held change it reverses, or is held (R34). -/
def State.holdChange (s : State) (p : Fin 4) (pin : TallyPin) (level : Bool) (stamp : Nat) : State :=
  let t := s.tally.ports[p]
  match t.held.find? (fun h => h.pin == pin && h.level != level && decide (stamp < h.stamp + s.filterMites p)) with
  | some h => (s.modPort p fun t => { t with held := t.held.erase h }).toll 0
  | none => s.modPort p fun t => { t with held := t.held ++ [⟨pin, level, stamp⟩] }

/-- The level a pin last took at the device's input, held changes included. -/
def TallyPort.pinLevel (t : TallyPort) (pin : TallyPin) : Bool :=
  match (t.held.filter (fun h => h.pin == pin)).getLast? with
  | some h => h.level
  | none => match pin with | .a => t.a | .b => t.b | .z => t.z

/-- The change of a pin to `level`, through the filter where it is not at that level already. -/
def State.filteredChange (s : State) (p : Fin 4) (pin : TallyPin) (level : Bool) (stamp : Nat) : State :=
  if (s.tally.ports[p]).pinLevel pin == level then s else s.holdChange p pin level stamp

/-- The stamp the device gives an edge: one mite, or 10 ns in WATCH until Mint C runs again (R21), rounded down to a multiple of 400
mites of the chronicle. DESIGN CHOICE (log entry 82). -/
def State.edgeStamp (s : State) (stamp : Nat) : Nat :=
  if s.power.regime = .watch ∧ s.power.watchOnRef then stamp / mitesPerRef * mitesPerRef else stamp

/-- Held changes of a port that have outlived the filter by the end of the present tick are registered, those of A and B
with one stamp together (R34). -/
def State.releaseHeld (s : State) (p : Fin 4) : State :=
  let due := (s.tally.ports[p]).held.filter fun h => decide (h.stamp + s.filterMites p ≤ s.now + s.tickLen)
  due.foldl (fun s h =>
    let t := s.tally.ports[p]
    if !t.held.contains h then s
    else match h.pin with
      | .z => (s.modPort p fun t => { t with held := t.held.erase h }).registerZ p h.level h.stamp
      | pin =>
        let other : TallyPin := if pin == .a then .b else .a
        let twin := t.held.find? fun g => g.pin == other && g.stamp == h.stamp
        let s' := s.modPort p fun t => { t with
          held := (match twin with | some g => t.held.erase g | none => t.held).erase h }
        let o := match twin with | some g => g.level | none => if pin == .a then t.b else t.a
        if pin == .a then s'.registerAB p h.level o h.stamp else s'.registerAB p o h.level h.stamp) s

/-- A port of this mode counts the edges of A and B (R33, R34): QUAD and PULSE. -/
def modeHasCounts (mode : Nat) : Bool := mode == 1 || mode == 2

/-- TALLY_COUNT_EDGE (R34): the levels of A and B after an edge on a port. Where the port is not tracked (R33), or its mode has no
such edges (R33, R37), nothing is filtered. -/
def countEdge (port : Fin 4) (a b : Bool) (stamp : Nat) (s : State) : State :=
  let st := s.edgeStamp stamp
  if !s.portTracked port || !modeHasCounts (s.portMode port) then
    (s.modPort port fun t => { t with held := t.held.filter fun h => h.pin == .z }).registerAB port a b st
  else if s.filterMites port = 0 then s.registerAB port a b st
  else (s.filteredChange port .a a st).filteredChange port .b b st

/-- TALLY_COUNT_EDGE. -/
def execTallyCountEdge (port : Fin 4) (a b : Bool) (stamp : Nat) (s : State) : Result :=
  .next (countEdge port a b stamp s)

/-- TALLY_INDEX (R34, R49): the level of Z after an edge. The correction is made when the tick is closed, after the
tick's counts (tally coincidences). Where the port is not tracked, or its mode has no Z (R33, R37), nothing is filtered. -/
def indexEdge (port : Fin 4) (level : Bool) (stamp : Nat) (s : State) : State :=
  let st := s.edgeStamp stamp
  if !s.portTracked port || !modeHasIndex (s.portMode port) then
    (s.modPort port fun t => { t with held := t.held.filter fun h => h.pin != .z }).registerZ port level st
  else if s.filterMites port = 0 then s.registerZ port level st
  else s.filteredChange port .z level st

/-- TALLY_INDEX. -/
def execTallyIndex (port : Fin 4) (level : Bool) (stamp : Nat) (s : State) : Result :=
  .next (indexEdge port level stamp s)

/-- A value in the tally time format, in mites (R51). -/
def tallyTimeMites (v : Nat) : Nat :=
  let m := v % 2 ^ 24 * 2 ^ (v / 2 ^ 24 % 64)
  if v / 2 ^ 30 = 0 then m * mitesPerTick else m

/-- The time, in ticks, from the start of the present tick to its end: 1, or 12.5 in WATCH (R21). -/
def State.tickStep (s : State) : Rat := (s.tickLen : Rat) / mitesPerTick

/-- A position in grains, rounded to the nearest with ties away from zero and saturated (R48). -/
def grainWord (subgrains : Rat) : Word := wordOfInt (satSigned 32 (roundAway (subgrains / 65536)))

/-- The loop's position, speed and acceleration advanced over the present tick (R43), and while coasting, and in the tick of the
rejoin, whose own motion is still extrapolated, with the speed clamped at zero (R46). Where REACQUIRING ends within the tick, the
motion is the part after that edge (R45). In CLOCK mode the loop's speed stands still: a counted primary resumes with the one it had
at the switch. DESIGN CHOICE (log entry 73). -/
def State.advanced (s : State) : Rat × Rat × Rat :=
  let t := s.tally
  let h := s.tickStep - t.late
  let v := t.spd + t.acc * h
  let p := t.pos + t.spd * h + t.acc * h * h / 2
  let coasted : Rat × Rat × Rat :=
    if (t.spd > 0 && v < 0) || (t.spd < 0 && v > 0) || t.spd == 0 then
      -- the speed reaches zero within the tick: the position stops at the turning point
      (t.pos + (if t.acc == 0 then 0 else -(t.spd * t.spd) / (2 * t.acc)), 0, 0)
    else (p, v, t.acc)
  match t.mode with
  | .tracking =>
    if s.tallyClock then (t.pos + s.val F.TLY_CLOCK_INC_INC * h, t.spd, 0)
    else if t.leaving then coasted
    else (p, v, t.acc)
  | .coasting => coasted
  | .lost => if t.leaving then coasted else (t.pos, 0, 0)
  | _ => (t.pos, 0, 0)

/-- Time from a stamp to the end of the present tick, in ticks (R43). -/
def State.back (s : State) (stamp : Rat) : Rat := ((s.now + s.tickLen : Nat) - stamp) / mitesPerTick

/-- The tally's own position at a stamp, extrapolated (R43, R47). -/
def State.extrapolated (s : State) (stamp : Rat) : Rat :=
  let (p, v, _) := s.advanced
  p - v * s.back stamp

/-- A rejoin by `j` sub-grains under TLY_REJOIN: a STEP, or a residue that replaces the one before (R48). -/
def State.rejoin (s : State) (j : Rat) : State :=
  let t := s.tally
  let t' := if s.flag F.TLY_REJOIN_POLICY then { t with residue := j }
    else { t with residue := 0, jump := t.jump + j, stepped := true }
  ({ s with tally := { t' with lastJump := grainWord j, rejoined := some j } }).toll 5

/-- The count of a port that a returning measurement is assigned to (R47). -/
def State.assignCount (s : State) (m : Meas) : Int :=
  let t := s.tally.ports[m.port]
  let n := s.countsPerTurn m.port
  let x := s.extrapolated m.stamp
  match s.portMode m.port with
  | 1 =>
    let d : Int := (quadPhase t.a t.b : Int) - t.quad0
    t.nearest n 4 (if s.dirInverted m.port then -d else d) x
  | 3 =>
    let ph : Int := (t.phase.getD 0 : Nat)
    t.nearest n 65536 (if s.dirInverted m.port then -ph else ph) x
  | _ => t.nearest n 1 0 x

/-- The measurement placed on its assigned count, or taken as it is in CRIER (R47). -/
def State.assign (s : State) (m : Meas) : State × Rat :=
  if s.portMode m.port == 6 then (s, m.pos)
  else
    let k := s.assignCount m
    (s.modPort m.port fun t => { t with count := k }, (s.tally.ports[m.port]).posOf (s.countsPerTurn m.port) k)

/-- The expectation after a measurement of a port (02_tally, before R45). -/
def State.expectation (s : State) (p : Fin 4) : Expect :=
  let t := s.tally.ports[p]
  match s.portMode p with
  | 3 => match t.lastMeas, t.prevMeas with
    | some a, some b => .fixed ((a - b : Nat) : Rat)
    | _, _ => .none
  | 6 => .fixed (64 * mitesPerTick)
  | _ => .ramp s.tally.spd s.tally.acc ((subgrainsPerTurn : Rat) / s.countsPerTurn p)

/-- Ticks from the tick of the last measurement to the present one, at least one (R43). -/
def State.measDt (s : State) : Rat := max 1 (((s.now - s.tally.lastTick : Nat) : Rat) / mitesPerTick)

/-- The loop's g for a measurement in the present tick (R43). -/
def State.measGain (s : State) : Rat :=
  min (twoPi * s.val F.TLY_BW_BW * s.measDt * 8 / 10000000000) (1 / 2)

/-- What every measurement of the active port leaves behind: its stamp, its position, its tick, the gains (R43), the
expectation. -/
def State.afterMeas (s : State) (m : Meas) : State :=
  { s with tally := { s.tally with
    measured := true, lastStamp := m.stamp, lastPos := m.pos, lastTick := s.now, gain := s.measGain, lastDt := s.measDt
    expect := s.expectation m.port } }

/-- The measurement becomes the loop's in the present tick (R43). -/
def State.forLoop (s : State) (m : Meas) : State :=
  { s with tally := { s.tally with loop := some m, measured := true } }

/-- A port that is not active tracks: its last measurement is no older than TLY_LOSS_FACTOR times the interval between
its last two (DEDUCED, log entry 19). A CLOCK port always tracks. -/
def State.portTracking (s : State) (p : Fin 4) : Bool :=
  s.portMode p == 5 ||
  match (s.tally.ports[p]).lastMeas, (s.tally.ports[p]).prevMeas with
  | some a, some b => decide (16 * (s.now - a) ≤ s.val F.TLY_LOSS_FACTOR_FACTOR * (a - b))
  | _, _ => false

/-- The fallback port's own position at a stamp: that of its last measurement, carried on at the tally's speed, or at
TLY_CLOCK_INC for a CLOCK port (R50). -/
def State.fallbackAt (s : State) (p : Fin 4) (stamp : Rat) : Option Rat :=
  let t := s.tally.ports[p]
  let v : Rat := if s.portMode p == 5 then s.val F.TLY_CLOCK_INC_INC else s.tally.spd
  t.lastMeas.map fun st => t.lastPos + v * (stamp - (st : Nat)) / mitesPerTick

/-- The fallback port's offset is measured at a measurement of the primary port while both track (R50). DEDUCED (log entry 19). -/
def State.measureOffset (s : State) (m : Meas) : State :=
  match s.fallbackPort with
  | some p =>
    if s.tally.mode == .tracking && !s.tally.onFb && s.portTracking p then
      match s.fallbackAt p m.stamp with
      | some x => { s with tally := { s.tally with fbOffset := m.pos - x } }
      | none => s
    else s
  | none => s

/-- The rejoin of a measurement, with its jump, and the offset to the fallback port measured anew (R45, R47, R50). The motion of
the tick of a rejoin from COASTING is still extrapolated (R46). -/
def State.rejoinAt (s : State) (m : Meas) : State :=
  let x := s.extrapolated m.stamp
  let (s', pos) := s.assign m
  let s1 := s'.rejoin (pos - x)
  (({ s1 with tally := { s1.tally with
      mode := .tracking, loop := none, leaving := decide (s.tally.mode = TallyMode.coasting) } }).afterMeas { m with pos := pos }).measureOffset
    { m with pos := pos }

/-- A measurement of the active port, by the table of R45. -/
def State.activeMeas (s : State) (m : Meas) : State :=
  let t := s.tally
  match t.mode with
  | .stopped => s
  | .still => ({ s with tally := { t with mode := .tracking } }).forLoop m
  | .tracking => s.forLoop m
  | .coasting => s.rejoinAt m
  | .lost =>
    let (s', pos) := s.assign m
    { s' with tally := { (s'.afterMeas { m with pos := pos }).tally with mode := .reacquiring, reacq := 1, expect := .none } }
  | .reacquiring =>
    let r := t.reacq + 1
    if r < s.val F.TLY_REJOIN_REACQ then
      { s with tally := { (s.afterMeas m).tally with reacq := r, expect := .none } }
    else
      -- the position has not moved: the jump is measured against the frozen position, and the motion at the speed now
      -- set begins at this edge (DEDUCED, log entry 69)
      let jump := m.pos - t.pos
      let dt := (m.stamp - t.lastStamp) / mitesPerTick
      let s' := s.rejoin jump
      (({ s' with tally := { s'.tally with
          mode := .tracking, reacq := 0, acc := 0, loop := none, late := s.tickStep - s.back m.stamp
          spd := if dt ≤ 0 then 0 else (m.pos - t.lastPos) / dt } }).afterMeas m).measureOffset m

/-- Counts a fallback switch or return and makes `p` the active port (R50). -/
def State.switchPort (s : State) (p : Fin 4) (fb : Bool) : State :=
  ({ s with tally := { s.tally with active := p, onFb := fb, loop := none } }).toll 7

/-- One measurement is taken: of the active port, or of the primary port that returns (R50). A return goes to TRACKING from whatever
state the fallback port was in. DEDUCED (log entry 19). -/
def State.takeMeas (s : State) (m : Meas) : State :=
  let t := s.tally
  if m.port = t.active then (s.measureOffset m).activeMeas m
  else if t.onFb && m.port = s.primaryPort then
    if s.flag F.TLY_SRC_FB_RETURN then (s.switchPort m.port false).rejoinAt m else s
  else s

/-- TALLY_MEASUREMENT (R43, R45): the earliest measurement registered and not yet taken. The loop runs with the latest one
when the tick is closed. -/
def takeMeasurement (s : State) : State :=
  match s.tally.measQ with
  | [] => s
  | m :: q => ({ s with tally := { s.tally with measQ := q } }).takeMeas m

/-- TALLY_MEASUREMENT. -/
def execTallyMeasurement (s : State) : Result := .next (takeMeasurement s)

/-- The changes that have outlived the filter are registered on every port. -/
def State.releaseAll (s : State) : State := (List.finRange 4).foldl (fun s p => s.releaseHeld p) s

/-- An edge of the active port is registered in the present tick, so it beats a timeout (tally coincidences). -/
def State.edgeInTick (s : State) : Bool :=
  s.tally.measured || s.releaseAll.tally.measQ.any (fun m => m.port == s.tally.active)

/-- The expected interval is unbounded: the trajectory stops before it has covered one span. One that no two measurements have
given yet is neither ended nor unbounded (02_tally, before R45). -/
def Expect.unbounded : Expect → Bool
  | .none => false
  | .fixed _ => false
  | .ramp v a span =>
    let v' := ratAbs v
    let a' := if v < 0 then -a else if v == 0 then ratAbs a else a
    if a' < 0 then decide (v' * v' < -(2 * a') * span) else v' == 0 && a' == 0

/-- The expected interval ends before `x` ticks are over. -/
def Expect.within (e : Expect) (x : Rat) : Bool :=
  match e with
  | .none => false
  | .fixed m => decide (m < x * mitesPerTick)
  | .ramp v a span =>
    let v' := ratAbs v
    let a' := if v < 0 then -a else if v == 0 then ratAbs a else a
    !(e.unbounded) && if a' < 0 && v' < -a' * x then true else decide (span < v' * x + a' * x * x / 2)

/-- The loss interval, TLY_LOSS_FACTOR times the expected interval, ends in the present tick or earlier (R45). -/
def State.lossDue (s : State) : Bool :=
  s.tally.expect.within (16 * s.back s.tally.lastStamp / s.val F.TLY_LOSS_FACTOR_FACTOR)

/-- The position of the fallback port, brought to the primary's frame, less the tally's own at the same instant (R50). -/
def State.fallbackJump (s : State) (p : Fin 4) : Rat :=
  let t := s.tally.ports[p]
  match t.lastMeas with
  | some st => t.lastPos + s.tally.fbOffset - s.extrapolated (st : Nat)
  | none => 0

/-- A timeout of the tally takes effect, and what was before it is kept for an edge that is still registered in this tick. -/
def State.timedOut (s : State) (tolls : List Nat) (after : State) : State :=
  { after with ev := { after.ev with timeout := some (match s.ev.timeout with
      | some (before, counted) => (before, counted ++ tolls)
      | none => (s.tally, tolls)) } }

/-- COASTING begins, with its toll (R45). The instant is mite 0 of the tick. DESIGN CHOICE (log entry 73). -/
def State.beginCoast (s : State) : State :=
  { s with tally := { s.tally with mode := .coasting, coastAt := s.now } }.toll 3

/-- LOSS_INTERVAL_EXPIRY (R45, R50). The offset at a switch is brought into the fallback port's own frame. After a switch the loss
interval and the dt of the first measurement run from mite 0 of its tick, with the expectation there was. DESIGN CHOICE (log entry
73). -/
def lossExpiry (s : State) : State :=
  if s.tally.mode != .tracking || s.tallyClock || s.edgeInTick || !s.lossDue then s
  else
    match s.fallbackPort with
    | some p =>
      if !s.tally.onFb && s.portTracking p then
        let j := s.fallbackJump p
        let off := s.tally.fbOffset
        let s' := (s.switchPort p true).modPort p fun t => { t with frame := t.frame + off, lastPos := t.lastPos + off }
        s.timedOut [7, 5]
          (({ s' with tally := { s'.tally with lastStamp := s.now, lastTick := s.now, fbOffset := 0 } }).rejoin j)
      else s.timedOut [3] s.beginCoast
    | none => s.timedOut [3] s.beginCoast

/-- LOSS_INTERVAL_EXPIRY. -/
def execLossIntervalExpiry (s : State) : Result := .next (lossExpiry s)

/-- TLY_STILL_TIME since the last measurement ends in the present tick or earlier. -/
def State.stillDue (s : State) : Bool :=
  decide (s.tally.lastStamp + tallyTimeMites (s.val F.TLY_STILL_TIME_STILL) < (s.now + s.tickLen : Nat))

/-- STILL_TIME_EXPIRY (R45). A slew residue is kept, and halted, in STILL; it is dropped on LOST. DESIGN CHOICE (log entry 73). -/
def stillExpiry (s : State) : State :=
  if s.edgeInTick || !s.stillDue then s
  else match s.tally.mode with
    | .tracking =>
      if s.tallyClock || !s.tally.expect.unbounded then s
      else s.timedOut [] { s with tally := { s.tally with mode := .still, spd := 0, acc := 0 } }
    | .reacquiring =>
      s.timedOut [4] ({ s with tally := { s.tally with mode := .lost, reacq := 0, indexed := false, residue := 0 } }.toll 4)
    | _ => s

/-- STILL_TIME_EXPIRY. -/
def execStillTimeExpiry (s : State) : Result := .next (stillExpiry s)

/-- COAST_MAX_EXPIRY (R45): LOST, and INDEXED clears; the position freezes at the end of the tick, whose crossings still count (R57,
launch coincidences). DEDUCED (log entry 90). A slew residue is dropped. DESIGN CHOICE (log entry 73). -/
def coastExpiry (s : State) : State :=
  if s.tally.mode != .coasting || s.edgeInTick
    || !s.reached (s.tally.coastAt + tallyTimeMites (s.val F.TLY_COAST_MAX_CMAX)) then s
  else s.timedOut [4] ({ s with tally := { s.tally with mode := .lost, leaving := true, indexed := false, residue := 0 } }.toll 4)

/-- COAST_MAX_EXPIRY. -/
def execCoastMaxExpiry (s : State) : Result := .next (coastExpiry s)

/-- The loop with the tick's measurement (R43): position, speed and acceleration after the tick's motion and correction. The error
is that of the pseudocode, whether or not a slew residue remains. -/
def State.loopStep (s : State) : State :=
  let t := s.tally
  let (p, v, a) := s.advanced
  match t.loop with
  | none => { s with tally := { t with pos := p, spd := v, acc := a } }
  | some m =>
    let dt := s.measDt
    let e := m.pos - (p - v * s.back m.stamp)
    let g := s.measGain
    ({ s with tally := { t with
        pos := p + 3 * g * e, spd := v + 3 * g * g * e / dt, acc := a + g * g * g * e / (dt * dt)
        loop := none } }).afterMeas m

/-- The position moves: it is held in STILL and frozen in LOST and REACQUIRING (R45). -/
def tallyMoves : TallyMode → Bool
  | .tracking => true | .coasting => true
  | .stopped => false | .still => false | .lost => false | .reacquiring => false

/-- One tick's part of a slew residue is closed (R43, R48). -/
def State.slewStep (s : State) : State :=
  let t := s.tally
  if !tallyMoves t.mode then s
  else
  let lim : Rat := s.val F.TLY_SLEW_MAX_SLEW * 65536 * s.tickStep
  let step := if lim < t.residue then lim else if t.residue < -lim then -lim else t.residue
  { s with tally := { t with pos := t.pos + step, residue := t.residue - step } }

/-- The index correction c: TLY_INDEX_OFFSET less the grain part of the position at the stamp, within half a turn
(R49). -/
def State.indexCorrection (s : State) (p0 stamp : Nat) (pos1 : Rat) (pos0 : Rat) : Rat :=
  let motion := (pos1.floor - pos0.floor)
  let j : Int := (stamp : Int) - p0
  let atZ : Rat := pos0.floor + ((motion * j) / (s.tickLen : Int)) + s.tally.residue + s.tally.jump
  let d : Rat := s.val F.TLY_INDEX_OFFSET_ZOFS * 65536 - atZ
  let turns := (d / subgrainsPerTurn + 1 / 2).floor
  d - turns * subgrainsPerTurn

/-- The index registered in the present tick is acted on (R49). `pos0` is the position at mite 0 of the tick. -/
def State.indexStep (s : State) (pos0 : Rat) : State :=
  match s.tally.index with
  | none => s
  | some stamp =>
    let s := { s with tally := { s.tally with index := none } }
    let t := s.tally
    match t.mode with
    | .stopped => s
    | .lost => s
    | _ =>
      let c := s.indexCorrection s.now stamp t.pos pos0
      let s := { (s.modPort t.active fun q => { q with frame := q.frame + c }) with
        tally := { (s.modPort t.active fun q => { q with frame := q.frame + c }).tally with
          indexLast := grainWord c, lastPos := t.lastPos + c, fbOffset := if t.onFb then t.fbOffset else t.fbOffset + c } }
      if !t.indexed then
        { s with tally := { s.tally with
          jump := t.jump + c, stepped := true, indexed := true, lastJump := grainWord c } }
      else if ratAbs c ≤ s.val F.TLY_INDEX_TOL_TOL * 65536 then
        let g := t.gain
        { s with tally := { s.tally with
          pos := t.pos + 3 * g * c, spd := t.spd + 3 * g * g * c / t.lastDt
          acc := t.acc + g * g * g * c / (t.lastDt * t.lastDt) } }
      else match t.rejoined with
        | some j =>
          -- a rejoin in the same tick: one combined jump, and both tolls (tally coincidences)
          let slews := s.flag F.TLY_REJOIN_POLICY
          ({ s with tally := { s.tally with
              jump := if slews then t.jump else t.jump + c, residue := if slews then t.residue + c else t.residue
              lastJump := grainWord (j + c) } }).toll 6
        | none => (s.rejoin (t.residue + c)).toll 6

/-- The state is one in which positions are not measured (R46). -/
def tallyCoasts : TallyMode → Bool
  | .coasting => true | .lost => true | .reacquiring => true
  | .stopped => false | .still => false | .tracking => false

/-- The tally is in a state in which tally-based targets are tested and fire (R55, R57). -/
def tallyPositioned : TallyMode → Bool
  | .still => true | .tracking => true | .coasting => true
  | .stopped => false | .lost => false | .reacquiring => false

/-- A CLOCK fallback port's own position advances by TLY_CLOCK_INC a tick (R37, R50). -/
def State.clockFallback (s : State) : State :=
  match s.fallbackPort with
  | some p =>
    if s.tally.mode != .stopped && s.portMode p == 5 then
      s.modPort p fun t => { t with
        lastPos := t.lastPos + s.val F.TLY_CLOCK_INC_INC * s.tickStep, lastMeas := some (s.now + s.tickLen) }
    else s
  | none => s

/-- The tally's part in closing the present tick (R43): the measurements left are taken, the loop runs, the residue
closes, the index is judged, P and S are broadcast, and a STEP is applied. The tick of a rejoin, whose own motion is still
extrapolated, carries COAST (R46). DEDUCED (log entry 90). -/
def State.tallyClose (s : State) : State :=
  let s := s.releaseAll
  let s := s.tally.measQ.foldl (fun s m => s.takeMeas m) { s with tally := { s.tally with measQ := [] } }
  let pos0 := s.tally.pos
  let coast := tallyCoasts s.tally.mode || s.tally.wasCoast
  let slewing := s.tally.residue != 0
  let s := (((s.loopStep).slewStep).indexStep pos0).clockFallback
  let t := s.tally
  let stays := !(t.leaving && t.mode == .lost)
  { s with tally := { t with
      spd := if stays then t.spd else 0, acc := if stays then t.acc else 0, leaving := false, rejoined := none
      fires := tallyPositioned t.mode || t.leaving, wasCoast := tallyCoasts t.mode
      bp := pos0.floor, bs := t.pos.floor - pos0.floor, bchron := s.now, bcoast := coast
      brejoin := t.stepped || slewing || t.residue != 0
      bbegins := t.stepped || ((!t.slewLeft || t.rejoined.isSome) && (slewing || t.residue != 0)), slewLeft := t.residue != 0
      pos := t.pos + t.jump, jump := 0, late := 0, stepped := false, measured := false } }

/-- The position of the mite `j` after mite 0 of the last broadcast's tick, in whole grains (R44). -/
def Tally.posAt (t : Tally) (len : Nat) (j : Int) : Int := (t.bp + (t.bs * j) / (len : Int)) / 65536

/-- The position at mite 0 of the present tick, in grains modulo 2^64 (R5, R42). -/
def State.positionNow (s : State) : Quad := BitVec.ofInt 64 (s.tally.pos.floor / 65536)

/-- P, S and the chronicle as the present tick broadcasts them, from what it has registered so far (R43, R58). DEDUCED (log
entry 67). -/
def State.broadcast (s : State) : Tally := s.tallyClose.tally

/-- TALLY_SNAP_READ (R58): the broadcast of the present tick is taken as the snapshot, and its other words are latched. -/
def snapRead (s : State) : State :=
  let t := s.broadcast
  let p : Nat := ((t.bp / 65536) % (2 ^ 64 : Nat)).toNat
  -- speed, signed 16.16 grains per tick, saturating
  let v : Rat := (t.bs : Rat) / s.tickStep
  { s with tally := { s.tally with
      snapPhi := BitVec.ofNat 32 (p / 2 ^ 32)
      snapClo := BitVec.ofNat 32 t.bchron, snapChi := BitVec.ofNat 32 (t.bchron / 2 ^ 32)
      snapSpd := wordOfInt (satSigned 32 v.floor) } }

/-- What TLY_SNAP_PLO reads (R58). -/
def State.snapPlo (s : State) : Word := BitVec.ofInt 32 (s.broadcast.bp / 65536)

/-- TALLY_SNAP_READ. -/
def execTallySnapRead (s : State) : Result := .next ((snapRead s).answer .ok)

/-- TLY_STATE. -/
def State.tallyStateWord (s : State) : Word :=
  let t := s.tally
  F.TLY_STATE_STATE.put t.mode.code ||| F.TLY_STATE_ACTIVE.put t.active.val |||
  F.TLY_STATE_ON_FB.put t.onFb.toNat ||| F.TLY_STATE_INDEXED.put t.indexed.toNat |||
  F.TLY_STATE_SLEWING.put (t.residue != 0).toNat

/-- The corrected code's midpoint passed by an auxiliary sample of a MAINS port (R36): the crossing is registered once the
hysteresis is passed, with the stamp interpolated between the samples that bracket the midpoint, to one of the two mites beside it
(log entry 22). The first sample only says on which side the waveform stands. DEDUCED (log entry 90). -/
def State.mainsSample (s : State) (p : Fin 4) (v : Int) (stamp : Nat) : State :=
  let t := s.tally.ports[p]
  let hyst : Int := 16 * s.val F.TLY_TP_MODE_MHYST p
  let mid : Nat := match t.lastAux with
    | some (u, st) =>
      if (u < 0 && v ≥ 0) || (u ≥ 0 && v < 0) then
        (openRound ((st : Rat) + (-u * ((stamp : Int) - st) : Int) / ((v - u : Int) : Rat))).toNat
      else t.midStamp
    | none => t.midStamp
  let s1 := s.modPort p fun t => { t with lastAux := some (v, stamp), midStamp := mid }
  let count (s : State) : State :=
    (s.modPort p fun t => { t with
      count := t.count + 1, reverse := false, lastMeas := some mid, prevMeas := t.lastMeas }).pushMeas p mid
  if t.lastAux.isNone then s1.modPort p fun t => { t with high := decide (0 ≤ v) }
  else if !t.high && v ≥ hyst && v > -1 then
    count (s1.modPort p fun t => { t with high := true })
  else if t.high && v ≤ -hyst && v < 0 then
    let s2 := s1.modPort p fun t => { t with high := false }
    if s.flag F.TLY_TP_MODE_MEDGES p then count s2 else s2
  else s1

/-- A phase pair of a SINCOS port (R35): the shorter way round, and the overspeed toll beyond a quarter period. DEDUCED
(log entry 20). A move of exactly half a period, where neither way is shorter, counts in reverse. DESIGN CHOICE (log entry 91). -/
def State.sincosPair (s : State) (p : Fin 4) (sine cosine : Int) (stamp : Nat) : State :=
  let t := s.tally.ports[p]
  let ph : Nat := (openRound (phase16 sine cosine) % 65536).toNat
  let n := s.countsPerTurn p
  let sgn : Int := if s.dirInverted p then -1 else 1
  match t.phase with
  | none =>
    -- the first pair fixes where the phase lies (DEDUCED, log entry 20)
    (s.modPort p fun t => { t with
      phase := some ph, count := sgn * ph, frame := s.tally.pos - countOffset n (sgn * ph)
      lastMeas := some stamp, prevMeas := t.lastMeas }).pushMeas p stamp
  | some old =>
    let d := signed 16 (ph + 65536 - old)
    let s1 := (s.modPort p fun t => { t with
      phase := some ph, count := t.count + sgn * d, reverse := decide (sgn * d < 0)
      lastMeas := some stamp, prevMeas := t.lastMeas }).pushMeas p stamp
    s1.tollIf (decide (16384 < d) || decide (d < -16384)) 2

/-- A sample of entry `i` of the regular sequence reaches a SINCOS port (R35): with the entry before it, it makes a pair, in
whichever order the two stand; otherwise it waits for the next. -/
def State.sincosSample (s : State) (p : Fin 4) (i chan : Nat) (v : Int) (stamp : Nat) : State :=
  let isSine := s.val F.TLY_TP_MODE_AUX_A p == chan
  let isCosine := s.val F.TLY_TP_MODE_AUX_B p == chan
  let waits := s.modPort p fun t => { t with half := some (i, !isSine, v, stamp) }
  match (s.tally.ports[p]).half with
  | some (j, cosine, u, st) =>
    if j + 1 == i && (if cosine then isSine else isCosine) then
      let s1 := s.modPort p fun t => { t with half := none }
      if cosine then s1.sincosPair p v u ((st + stamp) / 2) else s1.sincosPair p u v ((st + stamp) / 2)
    else waits
  | none => waits

/-- An auxiliary sample reaches the tally: a MAINS channel, or one of a SINCOS pair (R35, R36). `v` is the corrected code
less the midpoint of its range, `entry` its entry in the regular sequence, none for a request outside it. -/
def State.tallyAuxSample (s : State) (entry : Option Nat) (chan : Nat) (v : Int) (stamp : Nat) : State :=
  (List.finRange 4).foldl (fun s p =>
    if !s.portTracked p then s
    else match s.portMode p with
      | 4 => if s.val F.TLY_TP_MODE_AUX_A p = chan then s.mainsSample p v stamp else s
      | 3 =>
        match entry with
        | some i =>
          if s.val F.TLY_TP_MODE_AUX_A p = chan || s.val F.TLY_TP_MODE_AUX_B p = chan then s.sincosSample p i chan v stamp
          else s
        | none => s
      | _ => s) s

/-- A compensated TALLY frame is the measurement of a CRIER port (R38). -/
def State.crierMeas (s : State) (pos stamp : Rat) : State :=
  (List.finRange 4).foldl (fun s p =>
    if s.portTracked p && s.portMode p == 6 then
      (s.modPort p fun t => { t with lastMeas := some stamp.floor.toNat, prevMeas := t.lastMeas }).pushAt p
        ((s.tally.ports[p]).frame + pos) stamp
    else s) s

/-- The two channels are consecutive entries of the regular sequence in force (R35). -/
def State.consecutiveAux (s : State) (a b : Nat) : Bool :=
  (List.range (s.val F.AUX_SEQ_LEN_LEN - 1)).any fun i =>
    let x := s.val F.AUX_SEQ_CHAN i
    let y := s.val F.AUX_SEQ_CHAN (i + 1)
    (x == a && y == b) || (x == b && y == a)

/-- A port's fields as last written lie outside their ranges (R40). -/
def State.portBadParam (s : State) (p : Nat) : Bool :=
  let mode := s.wval F.TLY_TP_MODE_MODE p
  let dir := s.wval F.TLY_TP_MODE_DIR p
  let count := s.wval F.TLY_TP_COUNT_COUNT p
  let auxA := s.wval F.TLY_TP_MODE_AUX_A p
  let auxB := s.wval F.TLY_TP_MODE_AUX_B p
  mode == 0 || mode == 7 || dir == 3 || (dir == 2 && mode != 2) ||
  (mode == 1 && (count < 4 || 2 ^ 24 < count || count % 4 != 0)) ||
  (mode == 2 && (count < 1 || 2 ^ 24 < count)) ||
  (mode == 3 && (count < 1 || 8192 < count || !s.consecutiveAux auxA auxB))

/-- START_FN TALLY is refused with BAD_PARAM (R40). -/
def State.tallyBadParam (s : State) : Bool :=
  let p := s.wval F.TLY_SRC_PRIMARY
  let fb := s.wval F.TLY_SRC_FB_PORT
  s.portBadParam p || (s.wflag F.TLY_SRC_FB_EN && (fb == p || s.portBadParam fb))

/-- START of TALLY (R45), its parameters in force. The dt of the first measurement counts from the tick of START, and an index in
tolerance before any measurement has the gain 0. DESIGN CHOICE (log entry 73). -/
def State.startTally (s : State) : State :=
  let t := s.tally
  let p := s.primaryPort
  let preset : Rat := ((s.val F.TLY_PRESET_HI_PRESET * 2 ^ 32 + s.val F.TLY_PRESET_LO_PRESET : Nat) : Rat) * 65536
  let pos := if s.flag F.TLY_SRC_PRESET then preset else t.pos
  let clock := s.portMode p == 5
  { s with tally := { t with
      mode := if clock then .tracking else .still
      active := p, onFb := false, pos := pos, acc := 0
      spd := if clock then s.val F.TLY_CLOCK_INC_INC else 0
      residue := 0, jump := 0, late := 0, stepped := false, rejoined := none, leaving := false, wasCoast := false, gain := 0, lastDt := 1, lastTick := s.now, lastStamp := s.now
      lastPos := pos, expect := .none, reacq := 0, measQ := [], loop := none, index := none, indexed := false, fbOffset := 0
      ports := Vector.ofFn fun p => { t.ports[p] with
        count := 0, frame := if s.portMode p == 6 then 0 else pos, lastCount := none, reverse := false
        quad0 := quadPhase t.ports[p].a t.ports[p].b, phase := none, half := none, lastAux := none, high := false
        lastMeas := if s.portMode p == 5 then some s.now else none, prevMeas := none, lastPos := pos } } }

/-- STOP of TALLY: the position is held (R45). -/
def State.stopTally (s : State) : State :=
  { s with tally := { s.tally with
      mode := .stopped, spd := 0, acc := 0, residue := 0, jump := 0, late := 0, rejoined := none, leaving := false, measQ := [], loop := none, index := none } }

end Sys2Proof.Machine
end

