-- ==== Sys2Proof/Machine/Auxiliary.lean ====
section
/-! DEFINITION. The auxiliary converter, its injected requests, its Watch comparators (chapter 04) and its own calibration
(chapter 05). -/

namespace Sys2Proof.Machine

/-- Mites of a conversion, of its acquisition and of the start-up delay (R91, R95). -/
def auxConvMites : Nat := 625 * mitesPerTick
def auxAcqMites : Nat := 125 * mitesPerTick
def auxWarmMites : Nat := 500 * mitesPerTick

/-- A tick-valued parameter of the auxiliary converter, in mites; in WATCH in whole REFCLK periods (R98). -/
def State.auxMites (s : State) (v : Nat) : Nat :=
  if s.power.regime = .watch then (v * mitesPerTick + mitesPerRef - 1) / mitesPerRef * mitesPerRef
  else v * mitesPerTick

/-- The auxiliary converter changed. -/
def State.modAux (s : State) (f : Auxiliary → Auxiliary) : State := { s with aux := f s.aux }

/-- An acquisition begins in the present tick (R91, R96). -/
def State.beginConv (s : State) (job : AuxJob) (chan : Nat) : State :=
  let s := s.modAux fun a => { a with conv := some ⟨job, chan, s.now⟩, warmAt := none, powered := true }
  match job with
  | .injected i =>
    let s := s.modAux fun a => { a with pending := a.pending.erase i }
    -- a request of this source dropped earlier in the tick becomes pending after all (auxiliary coincidences)
    if s.ev.auxDropped.contains i then
      { (s.modAux fun a => { a with pending := a.pending ++ [i] }).untoll 20 with
        ev := { s.ev with auxDropped := s.ev.auxDropped.erase i } }
    else s
  | _ => s

/-- The channel an injection source converts (R96). -/
def State.injectChan (s : State) (i : Fin 19) : Nat :=
  if i.val < 18 then s.val F.AUX_INJ_CHAN i.val else s.aux.round.getD 0x10

/-- The pending source with the lowest number. -/
def Auxiliary.firstPending (a : Auxiliary) : Option (Fin 19) :=
  (List.finRange 19).find? fun i => a.pending.contains i

/-- Ends of the gap before the next regular acquisition (R119): none where no regular conversion is due. -/
def State.nextRegular (s : State) : Option Nat :=
  if !s.running fnAux || s.val F.AUX_SEQ_LEN_LEN = 0 then none
  else if s.aux.entry.isSome then some s.now
  else if s.val F.AUX_SEQ_PERIOD_PERIOD = 0 then some s.now
  else some s.aux.periodAt

/-- A calibration fragment fits before the next regular conversion (R119): before its acquisition where the converter keeps warm until
then, and else before its wake. -/
def State.fragmentFits (s : State) : Bool :=
  s.aux.calActive && decide (s.aux.calFrag < 64) && s.aux.pending.isEmpty &&
  match s.nextRegular with
  | none => true
  | some t =>
    let done := s.now + (if s.aux.powered then auxConvMites else auxConvMites + auxWarmMites)
    let warm := decide (t ≤ done + s.auxMites (s.val F.AUX_KEEP_WARM_KW))
    decide (done ≤ if warm then t else t - auxWarmMites)

/-- A fragment is to be inserted ahead of the next regular entry, as none has found a gap within 64 conversions (R120). -/
def State.fragmentInserts (s : State) : Bool :=
  s.aux.calActive && decide (s.aux.calFrag < 64) && decide (64 ≤ s.aux.sinceFrag) &&
  (s.val F.AUX_SEQ_PERIOD_PERIOD == 0 ||
    decide (s.now + ((s.val F.AUX_SEQ_LEN_LEN - s.aux.entry.getD 0) + 1) * auxConvMites ≤ s.aux.periodAt))

/-- The converter waits for its start-up delay (R95). -/
def State.warmUp (s : State) : State :=
  if s.aux.warmAt.isSome then s else s.modAux fun a => { a with warmAt := some (s.now + auxWarmMites) }

/-- At a conversion boundary the next conversion is chosen (R94, R96, R119, R120): a pending request, an inserted fragment,
the next regular entry, a fragment that fits; with none of them the converter keeps warm or powers down (R95). -/
def State.chooseConv (s : State) : State :=
  match s.aux.firstPending with
  | some i => if s.aux.powered then s.beginConv (.injected i) (s.injectChan i) else s.warmUp
  | none =>
    match s.aux.entry with
    | some e =>
      if s.fragmentInserts then
        let s := (s.beginConv .fragment 0).toll 26
        { s with ev := { s.ev with auxInserted := true } }
      else s.beginConv (.entry e) (s.val F.AUX_SEQ_CHAN e)
    | none =>
      if s.fragmentFits then
        if s.aux.powered then s.beginConv .fragment 0 else s.warmUp
      else
        let keep := match s.nextRegular with
          | some t => decide (t ≤ s.now + s.auxMites (s.val F.AUX_KEEP_WARM_KW))
          | none => false
        if keep then s
        else { s.modAux fun a => { a with powered := false, downAt := if a.powered then s.now else a.downAt } with
          ev := { s.ev with auxDown := s.ev.auxDown || s.aux.powered } }

/-- The regular sequence starts with entry 0 (R94). The converter began waking 500 ticks before the instant `due` of a period start, but
not before it was powered down (R95). -/
def State.startSequence (s : State) (due : Nat) : State :=
  let s := s.modAux fun a => { a with entry := some 0 }
  if s.aux.conv.isSome then s
  else if s.aux.powered then s.chooseConv
  else
    let awake := max due (s.aux.downAt + auxWarmMites)
    if awake ≤ s.now then (s.modAux fun a => { a with powered := true, warmAt := none }).chooseConv
    else s.modAux fun a => { a with warmAt := some (match a.warmAt with | some t => min t awake | none => awake) }

/-- AUX_PERIOD_START (R94; auxiliary coincidences): a start of the regular sequence. -/
def auxPeriodStart (s : State) : State :=
  let len := s.val F.AUX_SEQ_LEN_LEN
  let per := s.val F.AUX_SEQ_PERIOD_PERIOD
  if !s.running fnAux || len = 0 || per = 0 || !s.reached s.aux.periodAt then s
  else
    let due := s.aux.periodAt
    let s := s.modAux fun a => { a with periodAt := due + s.auxMites per }
    let ending := match s.aux.conv with
      | some c => match c.job with
        | .entry e => e + 1 == len && s.reached (c.start + auxConvMites)
        | _ => false
      | none => false
    if s.aux.entry.isSome && !ending then s.toll 21
    else if ending then { s with ev := { s.ev with auxRestart := true } }
    else s.startSequence due

/-- AUX_PERIOD_START. -/
def execAuxPeriodStart (s : State) : Result := .next (auxPeriodStart s)

/-- The channel is the even member of a differential pair set in AUX_PAIR (R92). -/
def State.auxPaired (s : State) (chan : Nat) : Bool :=
  decide (chan < 16) && Nat.testBit (s.val F.AUX_PAIR_PAIR) (chan / 2)

/-- The channel's results are signed (R92). -/
def State.auxSigned (s : State) (chan : Nat) : Bool :=
  (decide (chan < 16) && s.auxPaired chan) || (decide (0x10 ≤ chan) && decide (chan ≤ 0x1B))

/-- The corrected result of a conversion (R97): `raw` is the converter's internally calibrated code. -/
def State.auxCorrect (s : State) (chan : Nat) (raw : Int) : Int :=
  if chan < 16 then
    let o := signed 16 (s.val F.AUX_COR_OFFSET chan)
    let x := openRound (((raw - o) * s.val F.AUX_COR_GAIN chan : Int) / 32768)
    if s.auxPaired chan then clampInt (-32768) 32767 x else clampInt 0 65535 x
  else raw

/-- One comparator judges a result of its channel (R99). -/
def State.watchResult (s : State) (k : Fin 8) (chan : Nat) (v : Int) : State :=
  if !s.flag F.AUX_WATCH_EN k || s.val F.AUX_WATCH_CHAN k != chan then s
  else
    let bound (x : Nat) : Int := if s.auxSigned chan then signed 16 x else x
    let inside := decide (bound (s.val F.AUX_WATCH_TH_LOW k) ≤ v) && decide (v ≤ bound (s.val F.AUX_WATCH_TH_HIGH k))
    let hit := if s.flag F.AUX_WATCH_OUTSIDE k then !inside else inside
    let c := s.aux.comps[k]
    if !hit then s.modAux fun a => { a with comps := a.comps.set k.val { hits := 0 } k.isLt }
    else
      let n := c.hits + 1
      let trips := !c.tripped && decide (s.val F.AUX_WATCH_COUNT k ≤ n)
      let s := s.modAux fun a =>
        { a with comps := a.comps.set k.val { hits := n, tripped := c.tripped || trips, now := true } k.isLt }
      if trips then
        let s := s.setSticky R.AUX_WATCH_STAT.base (BitVec.ofNat 32 (2 ^ k.val))
        let s : State := { s with ev := { s.ev with trips := s.ev.trips || s.flag F.AUX_WATCH_WAKE k } }
        if s.val F.AUX_WATCH_ATTN k = 0 then s else s.attention (s.val F.AUX_WATCH_ATTN k)
      else s

/-- A result of an internal channel is the power manager's reading of its monitor or sensor (R92, R96). -/
def Power.reads (p : Power) (now chan : Nat) (v : Int) : Power :=
  if h : 0x10 ≤ chan ∧ chan < 0x1C then { p with temps := p.temps.set (chan - 0x10) (some v) (by omega) }
  else if h : 0x1C ≤ chan ∧ chan < 0x23 then { p with readings := p.readings.set (chan - 0x1C) (some (now, v.toNat)) (by omega) }
  else p

/-- A result replaces its channel's, is watched, and goes to the tally (R98, R99, R35, R36). `entry` is its entry in the regular
sequence. -/
def State.auxResult (s : State) (entry : Option Nat) (chan : Nat) (raw : Int) (stamp : Nat) : State :=
  let v := s.auxCorrect chan raw
  let w : Nat := (v % 65536).toNat
  let s := s.modAux fun a => { a with
    results := if h : chan < 35 then
      a.results.set chan { result := w, count := (a.results[chan].count + 1) % 256, valid := true } h else a.results }
  let s := s.modPower fun p => p.reads s.now chan v
  let s := (List.finRange 8).foldl (fun s k => s.watchResult k chan v) s
  s.tallyAuxSample entry chan (if s.auxSigned chan then v else v - 32768) stamp

/-- AUX_CONVERSION_END (R91, R98): the conversion in progress ends with code `raw`, and the next is chosen. -/
def auxConversionEnd (raw : Int) (s : State) : State :=
  match s.aux.conv with
  | none => s
  | some c =>
    if !s.reached (c.start + auxConvMites) then s
    else
      let s := s.modAux fun a => { a with conv := none, sinceFrag := a.sinceFrag + 1 }
      let s := match c.job with
        | .fragment => s.modAux fun a => { a with calFrag := a.calFrag + 1, sinceFrag := 0 }
        | .last e => s.auxResult (some e) c.chan raw (c.start + auxAcqMites)
        | .entry e =>
          let len := s.val F.AUX_SEQ_LEN_LEN
          -- an entry that the period start in this tick has set back to 0 stays so
          let nxt : Option Nat :=
            if s.ev.auxRestart then some 0
            else if s.aux.entry != some e then s.aux.entry
            else if e + 1 < len then some (e + 1)
            else if s.val F.AUX_SEQ_PERIOD_PERIOD = 0 then some 0 else none
          (s.modAux fun a => { a with entry := nxt }).auxResult (some e) c.chan raw (c.start + auxAcqMites)
        | .injected i =>
          let s := s.auxResult none c.chan raw (c.start + auxAcqMites)
          if i.val = 18 then
            -- the power manager requests the next code of its round (R96)
            match s.aux.round with
            | some k =>
              if k < 0x22 then s.modAux fun a => { a with round := some (k + 1), pending := a.pending ++ [i] }
              else s.modAux fun a => { a with round := none }
            | none => s
          else s
      s.chooseConv

/-- AUX_CONVERSION_END. -/
def execAuxConversionEnd (raw : Int) (s : State) : Result := .next (auxConversionEnd raw s)

/-- AUX_WARMUP_DONE (R95): acquisition begins. -/
def auxWarmupDone (s : State) : State :=
  match s.aux.warmAt with
  | none => s
  | some t => if s.reached t then (s.modAux fun a => { a with powered := true, warmAt := none }).chooseConv else s

/-- AUX_WARMUP_DONE. -/
def execAuxWarmupDone (s : State) : Result := .next (auxWarmupDone s)

/-- A conversion that began in the present tick gives way to a request of the same tick from source `i`, which is due at the same
boundary: a fragment, a regular entry, or the request of a source with a higher number (R96; auxiliary and calibration
coincidences). -/
def State.yieldConv (s : State) (i : Fin 19) : State :=
  match s.aux.conv with
  | some c =>
    if c.start != s.now then s
    else match c.job with
      | .fragment =>
        { (if s.ev.auxInserted then s.untoll 26 else s).modAux fun a => { a with conv := none } with
          ev := { s.ev with auxInserted := false } }
      | .entry _ => s.modAux fun a => { a with conv := none }
      | .injected j =>
        if j ≤ i then s
        else if s.aux.pending.contains j then (s.toll 20).modAux fun a => { a with conv := none }
        else s.modAux fun a => { a with conv := none, pending := a.pending ++ [j] }
      | .last _ => s
  | none => s

/-- A request of an injection source (R96; auxiliary and calibration coincidences): pending, or dropped and counted. It beats the
power-down and what began in the same tick and stands behind it. -/
def State.injectRequest (s : State) (i : Fin 19) : State :=
  if s.aux.pending.contains i then { s.toll 20 with ev := { s.ev with auxDropped := i :: s.ev.auxDropped } }
  else
    let s := (s.modAux fun a => { a with
      pending := a.pending ++ [i], powered := a.powered || s.ev.auxDown }).yieldConv i
    if s.aux.conv.isSome || s.aux.warmAt.isSome then s else s.chooseConv

/-- A source requests a conversion, if AUX_INJi enables it. -/
def State.requestIfEnabled (s : State) (i : Fin 19) : State :=
  if i.val < 18 && !s.flag F.AUX_INJ_EN i.val then s else s.injectRequest i

/-- AUX_INJECT_REQUEST (R96): the request of a trigger or a firing that source `i` stands for. -/
def auxInject (i : Fin 19) (s : State) : State :=
  if s.aux.asked.contains i then (s.modAux fun a => { a with asked := a.asked.erase i }).requestIfEnabled i else s

/-- The requests that the present tick still owes. -/
def State.takeInjections (s : State) : State := s.aux.asked.foldl (fun s i => auxInject i s) s

/-- AUX_INJECT_REQUEST. -/
def execAuxInjectRequest (i : Fin 19) (s : State) : Result := .next (auxInject i s)

/-- AUX_WATCH_TIMER (R96): AUX_WATCH_PERIOD elapses and source 17 requests. -/
def auxWatchTimer (s : State) : State :=
  let p := s.val F.AUX_WATCH_PERIOD_WP
  if p = 0 || !s.reached s.aux.timerAt then s
  else (s.modAux fun a => { a with timerAt := max a.timerAt s.now + s.auxMites p }).requestIfEnabled 17

/-- AUX_WATCH_TIMER. -/
def execAuxWatchTimer (s : State) : Result := .next (auxWatchTimer s)

/-- PM_MONITOR_ROUND (R96): each millisecond the power manager begins its round of codes 0x10 to 0x22, if the last one has ended. -/
def pmRound (s : State) : State :=
  if s.aux.round.isSome || !s.reached s.aux.roundAt then s
  else (s.modAux fun a => { a with round := some 0x10, roundAt := max a.roundAt s.now + msMites }).injectRequest 18

/-- PM_MONITOR_ROUND. -/
def execPmMonitorRound (s : State) : Result := .next (pmRound s)

/-- CAL_AUX_PERIOD_EXPIRY (05_calibration R120 and coincidences): a full calibration begins, or toll 27 is counted. -/
def calAuxPeriod (s : State) : State :=
  let p := s.val F.CAL_AUX_PERIOD_PER
  if p = 0 || !s.reached (s.aux.calStart + p * msMites) then s
  else if s.aux.calActive then
    if s.aux.calLate then s
    else { (s.modAux fun a => { a with calLate := true }).toll 27 with ev := { s.ev with auxLate := true } }
  else
    let s := s.modAux fun a =>
      { a with calActive := true, calFrag := 0, calStart := s.now, calLate := false, sinceFrag := 0 }
    if s.aux.conv.isNone && s.aux.warmAt.isNone then s.chooseConv else s

/-- CAL_AUX_PERIOD_EXPIRY. -/
def execCalAuxPeriodExpiry (s : State) : Result := .next (calAuxPeriod s)

/-- AUX_CAL_COMPLETE (R122): the 64th fragment is done; the offset and gain measured are accepted or rejected together. -/
def auxCalComplete (ofs : Int) (gain : Nat) (s : State) : State :=
  if !s.aux.calActive || s.aux.calFrag < 64 then s
  else
    let okO := decide (ofs.natAbs ≤ 512) && decide ((ofs - s.aux.ofs).natAbs ≤ 16)
    -- 0.99 to 1.01 in units of 2^-15
    let okG := decide (99 * 32768 ≤ gain * 100) && decide (gain * 100 ≤ 101 * 32768) &&
      decide (((gain : Int) - s.aux.gain).natAbs ≤ 16)
    -- it beats the expiry of the same tick, which then begins the next one (calibration coincidences)
    let again := s.ev.auxLate
    let s := if again then { s.untoll 27 with ev := { s.ev with auxLate := false } } else s
    let s := s.modAux fun a =>
      { a with calActive := again, calFrag := 0, calRounds := (a.calRounds + 1) % 65536, calLate := false
               calStart := if again then s.now else a.calStart }
    if okO && okG then s.modAux fun a => { a with ofs := ofs, gain := gain } else s.toll 28

/-- AUX_CAL_COMPLETE. -/
def execAuxCalComplete (ofs : Int) (gain : Nat) (s : State) : Result := .next (auxCalComplete ofs gain s)

/-- START_FN AUX is refused with BAD_PARAM (R93). -/
def State.auxBadParam (s : State) : Bool :=
  let len := s.wval F.AUX_SEQ_LEN_LEN
  let pair := s.wval F.AUX_PAIR_PAIR
  let bad (c : Nat) : Bool := decide (0x22 < c) || (decide (c < 16) && c % 2 == 1 && Nat.testBit pair (c / 2))
  (List.range len).any (fun i => bad (s.wval F.AUX_SEQ_CHAN i)) ||
  (List.range 18).any (fun i => bad (s.wval F.AUX_INJ_CHAN i)) ||
  (s.wval F.AUX_SEQ_PERIOD_PERIOD != 0 && decide (s.wval F.AUX_SEQ_PERIOD_PERIOD < 625 * len))

/-- START of AUX, its parameters in force (R94): results are not yet valid, and the sequence starts, after the start-up delay where
the converter is powered down (R95). -/
def State.startAux (s : State) : State :=
  let s := s.modAux fun a => { a with
    results := a.results.map fun r => { r with valid := false }
    entry := none, periodAt := s.now + s.auxMites (s.val F.AUX_SEQ_PERIOD_PERIOD) }
  if s.val F.AUX_SEQ_LEN_LEN = 0 then s else s.startSequence (s.now + auxWarmMites)

/-- A regular conversion whose sequence has been stopped is the last of that sequence. -/
def AuxJob.stopped : AuxJob → AuxJob
  | .entry e => .last e
  | j => j

/-- STOP of AUX: no regular sequence runs; the conversion in progress is completed, and injected conversions and the calibration go on
(R94, R96). -/
def State.stopAux (s : State) : State :=
  s.modAux fun a => { a with entry := none, conv := a.conv.map fun c => { c with job := c.job.stopped } }

/-- AUX_RESc (R98): the odd member of a pair is not valid. -/
def State.auxResWord (s : State) (c : Fin 35) : Word :=
  let r := s.aux.results[c]
  let odd := decide (c.val < 16) && c.val % 2 == 1 && Nat.testBit (s.val F.AUX_PAIR_PAIR) (c.val / 2)
  F.AUX_RES_RESULT.put r.result ||| F.AUX_RES_COUNT.put r.count ||| F.AUX_RES_VALID.put (r.valid && !odd).toNat

/-- AUX_WATCH_STAT. -/
def State.watchStatWord (s : State) : Word :=
  s.stickyBits R.AUX_WATCH_STAT.base |||
  BitVec.ofNat 32 ((List.finRange 8).foldl (fun n k => if (s.aux.comps[k]).now then n + 2 ^ (8 + k.val) else n) 0)

/-- CAL_AUX_STAT and CAL_AUX_INT. -/
def State.calAuxStatWord (s : State) : Word :=
  F.CAL_AUX_STAT_ROUNDS.put s.aux.calRounds ||| F.CAL_AUX_STAT_ACTIVE.put s.aux.calActive.toNat |||
  F.CAL_AUX_STAT_FRAG.put s.aux.calFrag
def State.calAuxIntWord (s : State) : Word :=
  (wordOfInt s.aux.ofs &&& 0xFFFF) ||| F.CAL_AUX_INT_GAIN.put s.aux.gain

end Sys2Proof.Machine
end

