-- ==== Sys2Proof/Machine/Chain.lean ====
section
/-! DEFINITION. Chains (chapter 06): stage descriptors and the rules a chain must keep, what each stage does with a
stream, and the rates and costs of stages. -/

namespace Sys2Proof.Machine

/-- The stalls with stall `n` changed. -/
def State.modStall (s : State) (n : Fin 16) (f : Stall → Stall) : State := { s with stalls := updAt s.stalls n f }

/-- Word `i` of a stall's window (R130). -/
def Stall.windowWord (t : Stall) (i : Nat) : Nat := (Sparse.get (fun _ => (0 : Word)) t.window i).toNat

/-- Bits `lo` to `lo + w - 1` of a number. -/
def natBits (v lo w : Nat) : Nat := v / 2 ^ lo % 2 ^ w

/-- No bit is set in a number but for the fields listed. -/
def onlyBits (v : Nat) (fields : List (Nat × Nat)) : Bool :=
  v == fields.foldl (fun a f => a + natBits v f.1 f.2 * 2 ^ f.1) 0

/-- A stage descriptor read from its eight words; none where it breaks a rule of its table (R131). -/
def decodeStage (w : Nat → Nat) : Option StageDef :=
  let sh := signed 8 (natBits (w 0) 8 8)
  let zero (from_ : Nat) : Bool := (List.range 8).all fun i => i < from_ || w i == 0
  let op : Option StageOp :=
    match natBits (w 0) 0 4 with
    | 0 => if zero 1 then some .pass else none
    | 1 =>
      let d := if w 2 = 0 then 2 ^ 24 else w 2
      let mode : DecimMode := match natBits (w 1) 0 2 with
        | 0 => .sample | 1 => .peak | 2 => .average | _ => .envelope
      if onlyBits (w 1) [(0, 2)] && w 2 < 2 ^ 24 && d != 1 && w 3 < 2 ^ 16 && zero 4 then some (.decim mode d (w 3))
      else none
    | 2 =>
      let taps := natBits (w 1) 0 7
      let fdec := natBits (w 1) 8 8
      let coef := natBits (w 2) 0 8
      if onlyBits (w 1) [(0, 7), (8, 8)] && onlyBits (w 2) [(0, 8)] && zero 3 && 1 ≤ taps && taps ≤ 64 &&
          1 ≤ fdec && fdec ≤ 64 && coef + taps ≤ 256 then some (.fir taps fdec coef) else none
    | 3 =>
      if onlyBits (w 1) [(0, 5)] && 6 ≤ w 1 && w 1 ≤ 16 && zero 4 then some (.turnres (w 1) (w 2) (w 3)) else none
    | 4 =>
      if onlyBits (w 1) [(0, 12), (16, 1)] && zero 2 then some (.change (natBits (w 1) 0 12) (natBits (w 1) 16 1 == 1))
      else none
    | 5 => if zero 2 then some (.measure (w 1)) else none
    | 6 =>
      if onlyBits (w 1) [(0, 3), (4, 1)] && zero 2 then
        some (.yard (Fin.ofNat 8 (natBits (w 1) 0 3)) (natBits (w 1) 4 1 == 1)) else none
    | 7 => if zero 1 then some .tap else none
    | _ => none
  if onlyBits (w 0) [(0, 4), (8, 8)] && -8 ≤ sh && sh ≤ 24 then op.map fun o => ⟨o, sh⟩ else none

/-- The stages of a stall as its window and `n` = NSTAGES give them. -/
def Stall.decodeChain (t : Stall) (n : Nat) : Option (List StageDef) :=
  (List.range n).mapM fun i => decodeStage fun w => t.windowWord (8 * i + w)

/-- A stage makes pairs. -/
def StageOp.makesPairs : StageOp → Bool
  | .decim .peak _ _ => true
  | .decim .envelope _ _ => true
  | _ => false

/-- Samples consumed for one output (R182): FACTOR or FDEC. -/
def StageOp.factor : StageOp → Nat
  | .decim _ d _ => d
  | .fir _ f _ => f
  | _ => 1

def StageOp.isTurnres : StageOp → Bool
  | .turnres _ _ _ => true
  | _ => false

def StageOp.isMeasure : StageOp → Bool
  | .measure _ => true
  | _ => false

def StageOp.isChange : StageOp → Bool
  | .change _ _ => true
  | _ => false

def StageOp.isYard : StageOp → Bool
  | .yard _ _ => true
  | _ => false

def StageOp.isEnvelope : StageOp → Bool
  | .decim .envelope _ _ => true
  | _ => false

/-- Dtot of a chain (R182). -/
def dtotOf (l : List StageDef) : Nat := l.foldl (fun a d => a * d.op.factor) 1

/-- The stages up to the last that makes pairs are followed only by YARD in span mode and by TAP (R131). -/
def pairsTail : List StageDef → Bool
  | [] => true
  | d :: l =>
    (!d.op.makesPairs || l.all (fun e => match e.op with | .yard _ span => span | .tap => true | _ => false)) &&
      pairsTail l

/-- The coefficients that a FIR uses have no reserved bit set (R131). -/
def Stall.coefsClean (t : Stall) (l : List StageDef) : Bool :=
  l.all fun d => match d.op with
    | .fir taps _ coef => (List.range taps).all fun i => t.windowWord (64 + coef + i) < 2 ^ 18
    | _ => true

/-- A chain keeps the rules of R131 that concern more than one stage. -/
def chainValid (l : List StageDef) (pair : Bool) : Bool :=
  decide ((l.filter (·.op.isTurnres)).length ≤ 1) && decide ((l.filter (·.op.isMeasure)).length ≤ 1) &&
  decide ((l.filter (·.op.isChange)).length ≤ 1) && (l.dropLast.all fun d => !d.op.isChange) && pairsTail l &&
  decide ((l.filter (·.op.isYard)).length ≤ 2) &&
  (!pair || l.all fun d => match d.op with
    | .pass => true | .tap => true | .measure _ => true | .yard _ span => span | _ => false)

/-- The output rate of a stage from its input rate, in samples per tick (R135). -/
def StageOp.rate (o : StageOp) (r : Rat) : Rat :=
  match o with
  | .decim _ d _ => r / d
  | .fir _ f _ => r / f
  | .turnres klog tps _ => if tps = 0 then r else min r (2 ^ klog * (tps / 65536) * (8 / 10000000000))
  | _ => r

/-- The rate of a stream after the stages given. -/
def rateAfter (r : Rat) (l : List StageDef) : Rat := l.foldl (fun r d => d.op.rate r) r

/-- The words 4i + w of the measurement slots; LOW and HIGH pass every result at reset (R225). -/
def msReset (i : Nat) : Word :=
  match i % 4 with
  | 2 => 0xFF800000
  | 3 => 0x7F800000
  | _ => 0

/-- Word `w` of measurement slot `i`. -/
def Stall.slotWord (t : Stall) (i w : Nat) : Nat := (Sparse.get msReset t.msWords (4 * i + w)).toNat

/-- TYPE of a measurement slot. -/
def Stall.slotType (t : Stall) (i : Nat) : Nat := natBits (t.slotWord i 0) 0 5

/-- The slots that a SLOTS word selects, ascending. -/
def selectedSlots (slots : Nat) : List Nat := (List.range 32).filter fun i => slots.testBit i

/-- PHASE, TURNMEAN and ORDER (R135, R220). -/
def angleType (ty : Nat) : Bool := ty == 0x12 || ty == 0x13 || ty == 0x14

/-- The cost of a stage in eighths of a lane-tick per tick (R135). -/
def Stall.stageCost (t : Stall) (o : StageOp) (r : Rat) : Rat :=
  match o with
  | .pass => 0
  | .tap => 0
  | .decim .sample _ _ => r
  | .decim .envelope d _ => 2 * r + 4 * (r / d)
  | .decim _ _ _ => 2 * r
  | .fir taps f _ => 8 * ((taps + 3) / 4 : Nat) * (r / f)
  | .turnres _ _ _ => r + 32 * o.rate r
  | .change _ _ => 2 * r
  | .measure slots =>
    let sel := selectedSlots slots
    let a := (sel.filter fun i => angleType (t.slotType i)).length
    (((sel.length - a + 3) / 4 + 4 * a : Nat) : Rat) * r
  | .yard _ span => if span then 2 * r else r

/-- The charge of a chain in eighths of a lane-tick per tick: 8 × L (R136). -/
def Stall.chainCost (t : Stall) : Rat → List StageDef → Rat
  | _, [] => 0
  | r, d :: l => t.stageCost d.op r + t.chainCost (d.op.rate r) l

/-- W, the weighers a charge of `cost` eighths needs (R136). -/
def weighersFor (cost : Rat) : Nat := ((cost / 64).ceil).toNat

/-- `x` times 2 to the power of minus `e`, rounded to nearest, ties away from zero. -/
def shiftRound (x : Int) (e : Int) : Int := if e ≤ 0 then x * 2 ^ (-e).toNat else roundDiv x (2 ^ e.toNat)

/-- A stage's output value, and whether it saturated (R129). -/
def stageOut (x : Int) (e : Int) : Int × Bool :=
  let y := shiftRound x e
  (satSigned 16 y, satSigned 16 y != y)

/-- What one input makes a stage do: its state, its outputs, whether one saturated, and the turns that begin while
output is suspended. -/
structure StageStep where
  st : StageState
  out : List Val := []
  sat : Bool := false
  turns : Nat := 0
deriving DecidableEq, Repr

/-- DECIM in a mode that emits for each group of D inputs. -/
def decimStep (mode : DecimMode) (d : Nat) (sh : Int) (st : StageState) (v : Val) : StageStep :=
  let fresh := st.n % d == 0
  let g : StageState := { st with
    n := st.n + 1
    first := if fresh then v.lo else st.first
    sum := if fresh then v.lo else st.sum + v.lo
    lo := if fresh then v.lo else min st.lo v.lo
    hi := if fresh then v.hi else max st.hi v.hi }
  if (st.n + 1) % d != 0 then { st := g }
  else
    let (x, y) : Int × Int := match mode with
      | .sample => (g.first, g.first)
      | .average => (g.sum, g.sum)
      | _ => (g.lo, g.hi)
    let (a, sa) := stageOut x sh
    let (b, sb) := stageOut y sh
    { st := g, out := [{ v with lo := a, hi := b }], sat := sa || sb }

/-- Tap `i` of a FIR, signed Q1.17. -/
def Stall.tapValue (t : Stall) (coef i : Nat) : Int := signed 18 (t.windowWord (64 + coef + i))

/-- FIR: a result for every input, every FDEC-th emitted (R182). -/
def Stall.firStep (t : Stall) (taps fdec coef : Nat) (sh : Int) (st : StageState) (v : Val) : StageStep :=
  let line := (v.lo :: st.line).take taps
  let st' : StageState := { st with n := st.n + 1, line := line }
  if (st.n + 1) % fdec != 0 then { st := st' }
  else
    let x := (line.zipIdx.map fun (u, i) => t.tapValue coef i * u).sum
    let (y, sat) := stageOut x (17 + sh)
    { st := st', out := [{ v with lo := y, hi := y }], sat := sat }

/-- The tally moves so that sample points are crossed (R133). -/
def pointsCrossed : TallyMode → Bool
  | .tracking => true | .coasting => true
  | _ => false

/-- A broadcast speed exceeds a bound in 16.16 turns per second (R134, R240). -/
def tooFast (spd : Int) (maxtps : Nat) : Bool :=
  maxtps != 0 && decide (maxtps * 2 ^ 32 < spd.natAbs * 1250000000)

/-- Turns that begin between two positions in grains. DEDUCED (log entry 64). -/
def turnsBegun (p q : Int) : Nat := (q / 2 ^ 32 - p / 2 ^ 32).natAbs

/-- The sample points crossed by a motion from `p` to `q` grains, in the order crossed (R132). -/
def pointsBetween (klog phase : Nat) (p q : Int) : List Int :=
  let g : Int := 2 ^ (32 - klog)
  let ph : Int := phase
  if p ≤ q then
    let m0 := (p - ph) / g
    (List.range ((q - ph) / g - m0).toNat).map fun (i : Nat) => ph + (m0 + 1 + i) * g
  else
    let m0 := -(-(p - ph) / g)
    (List.range (m0 - -(-(q - ph) / g)).toNat).map fun (i : Nat) => ph + (m0 - 1 - i) * g

/-- The motion from one sample to the next, STEP jumps taken out (R133, R152): where it ends. -/
def motionEnd (a b : Val) : Int := a.pos + diff64 b.pos a.pos - (b.jump - a.jump)

/-- The stretch that a STEP against the motion sets back, after a motion from `p` to `q` and a jump `j` (R133). DEDUCED
(log entry 50). -/
def setBack (redo : Option (Int × Int)) (p q j spd : Int) : Option (Int × Int) :=
  let dir := if q = p then spd else q - p
  let kept := match redo with
    | some (f, t) => if (f ≤ t && decide (t ≤ q)) || (t ≤ f && decide (q ≤ t)) then none else some (f, t)
    | none => none
  if (0 < dir && j < 0) || (dir < 0 && 0 < j) then
    some (q + j, match kept with | some (_, t) => t | none => q)
  else kept

/-- A point crossed in the direction of a set-back stretch lies in it: it has been emitted before. -/
def inSetBack (redo : Option (Int × Int)) (forward : Bool) (x : Int) : Bool :=
  match redo with
  | some (f, t) => if forward then decide (f < x) && decide (x ≤ t) else decide (t ≤ x) && decide (x < f)
  | none => false

/-- TURNRES: the crossings between the two samples before the newest (R132 to R134). -/
def turnresStep (klog maxtps phase : Nat) (sh : Int) (st : StageState) (v : Val) : StageStep :=
  let st' : StageState := { st with n := st.n + 1, vals := (v :: st.vals).take 3 }
  match st.vals with
  | b :: a :: rest =>
    let q := motionEnd a b
    let st' := { st' with redo := setBack st.redo a.pos q (b.jump - a.jump) b.spd }
    if !pointsCrossed b.mode then { st := st' }
    else if tooFast b.spd maxtps then { st := st', turns := turnsBegun a.pos q }
    else
      let fwd := decide (a.pos ≤ q)
      let pts := (pointsBetween klog phase a.pos q).filter fun x => !inSetBack st.redo fwd x
      let z : Int := match rest with | c :: _ => c.lo | [] => 0
      let make (x : Int) : Val × Bool :=
        let y := roundAway (Config.farrow z a.lo b.lo v.lo ((x - a.pos : Rat) / (q - a.pos)) / (2 : Rat) ^ sh)
        ({ b with
            lo := satSigned 16 y, hi := satSigned 16 y, reverse := !fwd
            point := (((x - phase) / (2 ^ (32 - klog) : Nat)) % (2 ^ klog : Nat)).toNat }, satSigned 16 y != y)
      let outs := pts.map make
      { st := st', out := outs.map (·.1), sat := outs.any (·.2) }
  | _ => { st := st' }

/-- One input of a stage. ENVELOPE emits at a segment's end (R184). -/
def Stall.stageStep (t : Stall) (d : StageDef) (st : StageState) (v : Val) : StageStep :=
  match d.op with
  | .decim .envelope _ _ => { st := { st with n := st.n + 1 } }
  | .decim mode k _ => decimStep mode k d.shift st v
  | .fir taps fdec coef => t.firStep taps fdec coef d.shift st v
  | .turnres klog tps phase => turnresStep klog tps phase d.shift st v
  | .pass => { st := { st with n := st.n + 1 }, out := [v] }
  | .tap => { st := { st with n := st.n + 1 }, out := [v] }
  | .change _ _ => { st := { st with n := st.n + 1 }, out := [v] }
  | .measure _ => { st := { st with n := st.n + 1 }, out := [v] }
  | .yard _ _ => { st := { st with n := st.n + 1 }, out := [v] }

/-- A tick's inputs of a stage. -/
def Stall.stageRun (t : Stall) (d : StageDef) : StageState → List Val → StageStep
  | st, [] => { st := st, out := if d.op.isEnvelope then t.envOut else [] }
  | st, v :: vs =>
    let a := t.stageStep d st v
    let b := t.stageRun d a.st vs
    { st := b.st, out := a.out ++ b.out, sat := a.sat || b.sat, turns := a.turns + b.turns }

/-- Units attributed to source samples before sample `a` in a chain of Dtot = `d` (R182), as if none had been lost. -/
def Gaps.counted (p : Gaps) (d a : Nat) : Nat :=
  let (r, c) := (p.restarts.find? fun e => decide (e.1 ≤ a)).getD (0, 0)
  c + (a - r) / d

/-- Units attributed to source samples before sample `a` (R182, R183): those lost to a hang do not count. -/
def Gaps.before (p : Gaps) (d a : Nat) : Nat := p.counted d a - (p.lost.filter fun x => decide (x < a)).length

/-- A tick of a chain: the states of its stages, the streams at each stage's input and at the output, and what the tick
counts. -/
structure ChainStep where
  sts : List StageState := []
  streams : List (List Val) := []
  sat : Bool := false
  turns : Nat := 0
deriving DecidableEq, Repr

/-- A tick of a chain on a stream. -/
def Stall.chainRun (t : Stall) : List StageDef → List StageState → List Val → ChainStep
  | [], _, vs => { streams := [vs] }
  | d :: ds, sts, vs =>
    let a := t.stageRun d (sts.headD {}) vs
    let b := t.chainRun ds sts.tail a.out
    { sts := a.st :: b.sts, streams := vs :: b.streams, sat := a.sat || b.sat, turns := a.turns + b.turns }

/-- The values of a channel's containers of the present tick, numbered from `first` (R44, R79). The tally's broadcast is
that of the tick. -/
def State.sourceVals (s : State) (first : Nat) (values : List Int) : List Val :=
  let t := s.tally
  values.zipIdx.map fun (x, i) =>
    let j := i * s.containerMites
    { num := first + i, chron := s.now + j, tick := s.now, pos := t.posAt s.tickLen j, jump := s.jumps, spd := t.bs
      mode := t.mode, lo := x, hi := x }

/-- The sample domain runs: Mint S clocks the slices, outside WATCH. -/
def State.sampling (s : State) : Bool := s.power.regime != .watch && (s.mints[mintS]).mode != .stopped

/-- A stall's chain takes samples: it runs, or its STOP was registered in the present tick (R126, R181). -/
def Stall.active (t : Stall) : Bool := t.mode != .stopped || t.stopping

end Sys2Proof.Machine
end

