-- ==== Sys2Proof/Machine/Launch.lean ====
section
/-! DEFINITION. The launch slots (chapter 02, R52 to R57) and the TRIG_OUT pins. The crossing test serves the Crier
receive entries too (15_crier R327). -/

namespace Sys2Proof.Machine

/-- A target is crossed in its direction (0 FWD, 1 REV, else ANY) when d goes from `d0` to `d1` (R52). -/
def crosses (dir : Nat) (d0 d1 : Int) : Bool :=
  let fwd := decide (d0 < 0) && decide (0 ≤ d1)
  let rev := decide (0 < d0) && decide (d1 ≤ 0)
  match dir with
  | 0 => fwd
  | 1 => rev
  | _ => fwd || rev

/-- Where a target is crossed: the instant, and the lateness of a LATE firing. -/
structure Crossed where
  instant : Nat
  late : Option Int
deriving DecidableEq, Repr

/-- The crossing of a tally-based target in a closed tick (R52, R53): the motion of the tick mite by mite, then the jump
of a STEP. `t` is the tally after the tick, `prev` the position at the last mite evaluated before it. -/
def tallyCrossing (t : Tally) (len : Nat) (a : Arming) (prev : Int) : Option Crossed :=
  let tgt : Int := a.target.toNat
  let d (p : Int) : Int := diff64 p tgt
  let at_ (j : Nat) : Int := if j = 0 then prev else t.posAt len (j - 1 : Nat)
  let post : Int := t.pos.floor / 65536
  let stop : Int := (t.bp + t.bs) / 65536
  match (List.range len).find? (fun j => crosses a.dir (d (at_ j)) (d (t.posAt len j))) with
  | some j => some ⟨t.bchron + j, none⟩
  | none =>
    if t.pos.floor = t.bp + t.bs then none
    else if crosses a.dir (d (t.posAt len (len - 1 : Nat))) (d stop) then some ⟨t.bchron + len, none⟩
    else if crosses a.dir (d stop) (d post) then some ⟨t.bchron + len, some (d post)⟩
    else none

/-- The position a slot was last evaluated at, after a closed tick. -/
def lastEvaluated (t : Tally) (len : Nat) : Int :=
  if t.pos.floor = t.bp + t.bs then t.posAt len (len - 1 : Nat) else t.pos.floor / 65536

/-- The crossing of a chronicle target in the tick that begins at `now` (R52). -/
def chronCrossing (now len : Nat) (target : Quad) : Option Crossed :=
  let off := (target.toNat + 2 ^ 64 - now % 2 ^ 64) % 2 ^ 64
  if off < len then some ⟨now + off, none⟩ else none

/-- The test at arming for a tally-based target (R55): behind within the span, the lateness in grains. -/
def lateAtArming (dir : Nat) (span : Nat) (backward : Bool) (d : Int) : Option Int :=
  let fwd := decide (0 ≤ d) && decide (d ≤ span)
  let rev := decide (-(span : Int) ≤ d) && decide (d ≤ 0)
  let hit := match dir with | 0 => fwd | 1 => rev | _ => if backward then rev else fwd
  if hit then some d else none

/-- The actions a launch slot's control word names (R56). -/
def State.slotAction (s : State) (k : Fin 64) (c : Crossed) : Action :=
  let a := (s.slots[k]).latched
  { instant := c.instant, due := s.now + s.tickLen, late := c.late.isSome, unit := k
    bell := if s.flag F.TLY_LS_CTRL_BELL k then some (Fin.ofNat 16 (s.val F.TLY_LS_CTRL_STALL k)) else none
    tout := if s.flag F.TLY_LS_CTRL_TOUT k then some (Fin.ofNat 4 (s.val F.TLY_LS_CTRL_PIN k)) else none
    start := if s.flag F.TLY_LS_CTRL_START k then some (Fin.ofNat 16 (s.val F.TLY_LS_CTRL_STALL k)) else none
    snap := if s.flag F.TLY_LS_CTRL_SNAP k then some (Fin.ofNat 8 (s.val F.TLY_LS_CTRL_YARD k)) else none
    cry := if s.flag F.TLY_LS_CTRL_CRY k then
        some (s.word (R.CRY_LT_A.num k), s.word (R.CRY_LT_B.num k),
          if a.chron then none else some (a.target.toNat + c.late.getD 0))
      else none }

/-- A LATE firing of slot or entry `unit` is logged (R56, R402). -/
def State.logLate (s : State) (chron : Bool) (unit toll : Nat) (lateness : Int) : State :=
  s.logEvent (if chron then 0x02 else 0x01) unit toll (satSigned 32 lateness)

/-- Slot `k` fires in the present tick (R54, R56): FIRED, LATE with its toll and its log entry, and the actions due in the
next tick; and the injected conversion of the slot that AUX_INJ16 names (04_converters R96). -/
def State.fireSlot (s : State) (k : Fin 64) (c : Crossed) : State :=
  let sl := s.slots[k]
  let act := s.slotAction k c
  let s0 := if s.val F.AUX_INJ16_SLOT = k.val then s.askInjection 16 else s
  let s1 := { s0 with
    slots := s.slots.set k.val { sl with armed := false, test := false, fired := true, late := c.late.isSome } k.isLt
    acts := s.acts ++ [act] }
  match c.late with
  | some l => (s1.toll 8).logLate sl.latched.chron k.val 8 l
  | none => s1

/-- The crossing of an armed target in the present tick, as `t`, the tally after the tick, shows it (R52, R57). -/
def State.slotHit (s : State) (t : Tally) (sl : Slot) : Option Crossed :=
  if !sl.armed || sl.test then none
  else if sl.latched.chron then chronCrossing s.now s.tickLen sl.latched.target
  else if t.fires then tallyCrossing t s.tickLen sl.latched sl.prev
  else none

/-- Slot `k`'s crossing in the present tick. -/
def State.slotCrossing (s : State) (t : Tally) (k : Fin 64) : Option Crossed := s.slotHit t s.slots[k]

/-- Slot `k` fires if its target is crossed in the present tick. -/
def State.fireIfCrossed (s : State) (t : Tally) (k : Fin 64) : State :=
  match s.slotCrossing t k with
  | some c => s.fireSlot k c
  | none => s

/-- LAUNCH_SLOT_FIRE (R52, R56): slot `k`, if its target is crossed in the present tick by what the tick has registered
so far. -/
def launchFire (k : Fin 64) (s : State) : State := s.fireIfCrossed s.tallyClose.tally k

/-- LAUNCH_SLOT_FIRE. -/
def execLaunchSlotFire (k : Fin 64) (s : State) : Result := .next (launchFire k s)

/-- The bits of TLY_LSk_CTRL that hold what is written to them. -/
def launchCtrlMask : Word := R.TLY_LS_CTRL.mask (· == .lv) &&& ~~~(F.TLY_LS_CTRL_ARM.put 1)

/-- The LV fields of a slot's control word are written (R39). -/
def State.writeLaunchCtrl (s : State) (k : Fin 64) (ctrl : Word) : State :=
  (s.setWritten (R.TLY_LS_CTRL.num k) ctrl launchCtrlMask).atNextTick (R.TLY_LS_CTRL.num k)

/-- A control word gives DIR its reserved code (R429). -/
def launchDirReserved (ctrl : Word) : Bool := F.TLY_LS_CTRL_DIR.get ctrl == 3

/-- The age of a chronicle target in mites at mite 0 of the present tick (R55). -/
def State.targetAge (s : State) (target : Quad) : Int := diff64 s.now target.toNat

/-- Arming of slot `k` to a target is registered, in force from the next tick (R39, R55); a chronicle target more than
TLY_LATE_MITES old is refused and counted, its age taken at mite 0 of the tick of the write. An earlier arming not yet
fired stays in force where its renewal is refused. DESIGN CHOICE (log entry 74). Answers whether it was accepted. -/
def State.armSlot (s : State) (k : Fin 64) (a : Arming) : State × Bool :=
  if a.chron && decide ((s.val F.TLY_LATE_MITES_MSPAN : Int) < s.targetAge a.target) then (s.toll 8, false)
  else ({ s with slots := updAt s.slots k fun sl =>
      { sl with arming := some a, disarm := false } }, true)

/-- The target a slot's registers hold (TLY_LSk_TLO and TLY_LSk_THI). -/
def State.slotTarget (s : State) (k : Fin 64) : Quad :=
  BitVec.ofNat 64 (s.wval F.TLY_LS_THI_TARGET k * 2 ^ 32 + s.wval F.TLY_LS_TLO_TARGET k)

/-- LAUNCH_ARM (R55): a write of TLY_LSk_CTRL with ARM = 1. The target is latched at the write: a target word written later in the
same tick is not in it. DESIGN CHOICE (log entry 74). -/
def launchArmWrite (k : Fin 64) (ctrl : Word) (s : State) : State :=
  if launchDirReserved ctrl then s.refuseWrite .range
  else
    let a : Arming := ⟨s.slotTarget k, F.TLY_LS_CTRL_DIR.get ctrl, F.TLY_LS_CTRL_BASE.get ctrl == 1⟩
    match s.armSlot k a with
    | (s', true) => (s'.writeLaunchCtrl k ctrl).answer .ok
    | (s', false) => s'.refuseWrite .range

/-- LAUNCH_ARM. -/
def execLaunchArm (k : Fin 64) (ctrl : Word) (s : State) : Result := .next (launchArmWrite k ctrl s)

/-- LAUNCH_DISARM (R55): a write of TLY_LSk_CTRL with ARM = 0. A crossing in the present tick still fires the slot
(launch coincidences). -/
def launchDisarmWrite (k : Fin 64) (ctrl : Word) (s : State) : State :=
  if launchDirReserved ctrl then s.refuseWrite .range
  else
    ({ s with slots := updAt s.slots k fun sl => { sl with arming := none, disarm := true } }.writeLaunchCtrl k
      ctrl).answer .ok

/-- LAUNCH_DISARM. -/
def execLaunchDisarm (k : Fin 64) (ctrl : Word) (s : State) : Result := .next (launchDisarmWrite k ctrl s)

/-- At mite 0 of the present tick an arming or a disarm takes effect, and the test at arming is made where the tally
allows it: the slot, and its firing at once (R39, R55). The present speed of ANY is that of the last tick's broadcast. DESIGN CHOICE
(log entry 74). -/
def State.slotOpen (s : State) (sl : Slot) : Slot × Option Crossed :=
  let pos : Int := s.tally.pos.floor / 65536
  let sl1 : Slot := match sl.arming with
    | some a => { sl with armed := true, fired := false, late := false, latched := a, arming := none, test := true
                          prev := pos }
    | none => if sl.disarm then { sl with armed := false, disarm := false, test := false } else sl
  if !sl1.armed || !sl1.test then (sl1, none)
  else
    let done := { sl1 with test := false, prev := pos }
    if sl1.latched.chron then
      let age := s.targetAge sl1.latched.target
      (done, if 0 < age then some ⟨s.now, some age⟩ else none)
    else if tallyPositioned s.tally.mode then
      let d := diff64 pos sl1.latched.target.toNat
      (done, (lateAtArming sl1.latched.dir (s.val F.TLY_LATE_SPAN_SPAN) (decide (s.tally.bs < 0)) d).map fun l =>
        ⟨s.now, some l⟩)
    else (sl1, none)

/-- Slot `k` at mite 0 of the present tick. -/
def State.openSlot (s : State) (k : Fin 64) : State :=
  let (sl, c) := s.slotOpen s.slots[k]
  let s1 := { s with slots := s.slots.set k.val sl k.isLt }
  match c with
  | some c => s1.fireSlot k c
  | none => s1

/-- An armed slot keeps the last position evaluated. -/
def Slot.evaluated (sl : Slot) (t : Tally) (len : Nat) : Slot :=
  if sl.armed then { sl with prev := lastEvaluated t len } else sl

/-- The launch table's part in closing a tick: the slots whose targets are crossed fire, in ascending order, and each
armed slot keeps the last position evaluated. -/
def State.closeSlots (s : State) : State :=
  let t := s.tally
  let s1 := (List.finRange 64).foldl (fun s k => s.fireIfCrossed t k) s
  { s1 with slots := s1.slots.map fun sl => sl.evaluated t s.tickLen }

/-- The launch table's part in opening a tick. -/
def State.openSlots (s : State) : State := (List.finRange 64).foldl (fun s k => s.openSlot k) s

/-- From the crossing instant to the rising edge of a TRIG_OUT pulse, and from there to its fall, in mites (R56). -/
def toutDelay : Nat := 40 * mitesPerTick
def toutLength : Nat := 16 * mitesPerTick

/-- A pin's rising edge that has come by the end of the present tick (R56). A pin that is high stays high. -/
def TrigOut.rise (t : TrigOut) (limit : Nat) : TrigOut :=
  match t.rises with
  | r :: rs => if r < limit then { t with level := true, rises := rs, fall := some (r + toutLength) } else t
  | [] => t

/-- A pin's fall that has come by the end of the present tick. -/
def TrigOut.drop (t : TrigOut) (limit : Nat) : TrigOut :=
  match t.fall with
  | some f => if f < limit then { t with level := false, fall := none } else t
  | none => t

/-- The TRIG_OUT pins with pin `p` changed. -/
def State.modTout (s : State) (p : Fin 4) (f : TrigOut → TrigOut) : State :=
  { s with trigOut := updAt s.trigOut p f }

/-- TOUT_PULSE_RISE (R56). -/
def execToutPulseRise (pin : Fin 4) (s : State) : Result :=
  .next (s.modTout pin fun t => t.rise (s.now + s.tickLen))

/-- TOUT_PULSE_FALL (R56). -/
def execToutPulseFall (pin : Fin 4) (s : State) : Result :=
  .next (s.modTout pin fun t => t.drop (s.now + s.tickLen))

/-- The pins' part in closing a tick: edges that have come and no command has made yet. -/
def State.closeTout (s : State) : State :=
  let limit := s.now + s.tickLen
  { s with trigOut := s.trigOut.map fun t =>
      ((t.rises.foldl (fun u _ => (match u.fall, u.rises with
        | some f, r :: _ => if f < r then u.drop limit else u
        | _, _ => u).rise limit) t)).drop limit }

/-- A TOUT action puts the pulse's rising edge on its pin, in the order of the instants (R56); in WATCH the pin has no supply
(20_package R411). -/
def State.toutPulse (s : State) (pin : Fin 4) (instant : Nat) : State :=
  let r := instant + toutDelay
  if s.power.regime = .watch then s
  else s.modTout pin fun t => { t with rises := t.rises.filter (decide <| · ≤ r) ++ r :: t.rises.filter (decide <| r < ·) }

end Sys2Proof.Machine
end

