-- ==== Sys2Proof/Machine/Bell.lean ====
section
/-! DEFINITION. The Bell (chapter 07): conditions, comparators, spans, the sequence, triggers, holdoff, auto mode and the
phases. One sample is evaluated by one function, State.bellSample; the commands that report a Bell event evaluate the
samples that wait up to the one at which that event happens, and TICK evaluates the rest (DESIGN CHOICE, log entry 23). -/

namespace Sys2Proof.Machine

/-- The Bell of stall `n` changed. -/
def State.modBell (s : State) (n : Fin 16) (f : Bell → Bell) : State :=
  s.modStall n fun t => { t with bell := f t.bell }

/-- The Bell of stall `n`. -/
def State.bell (s : State) (n : Fin 16) : Bell := (s.stalls[n]).bell

/-- The phase of stall `n`'s Bell is `p`. -/
def State.inPhase (s : State) (n : Fin 16) (p : Phase) : Bool := (s.bell n).phase == p

/-- F of a crossing of a level between two values: r in 1/1,024, rounded, at most 1,023 (R151). None where both values
are the level, for which the rule states no value. -/
def crossFrac (level prev v : Int) : Option Nat :=
  if v = prev then none
  else
    let x := roundDiv (if prev < v then 1024 * (v - level) else 1024 * (level - v)) ((v - prev).natAbs : Int)
    some (min 1023 x.toNat)

/-- What a comparator is set to (STLn_BEL_CMPk_CFG, STLn_BEL_CMPk_LVL). -/
structure CompSet where
  type : Nat
  pol : Nat
  span : Nat
  h : Int
  a : Int
  b : Int
deriving DecidableEq, Repr

/-- The setting in force of comparator `k` of stall `n`. -/
def State.compSet (s : State) (n : Fin 16) (k : Nat) : CompSet :=
  { type := s.val F.STL_BEL_CMP_CFG_TYPE k n, pol := s.val F.STL_BEL_CMP_CFG_POL k n
    span := s.val F.STL_BEL_CMP_CFG_SPAN k n, h := s.val F.STL_BEL_CMP_CFG_HYST k n
    a := signed 16 (s.val F.STL_BEL_CMP_LVL_A k n), b := signed 16 (s.val F.STL_BEL_CMP_LVL_B k n) }

/-- An event of a comparator: its F, or none where the rule states none. -/
abbrev CompEvent := Option (Option Nat)

/-- EDGE, one polarity; `up` for rising (R150). DEDUCED (log entry 57). -/
def edgeHalf (up : Bool) (c : CompSet) (h : Half) (prev : Option Int) (v : Int) : Half × CompEvent :=
  let hit := if up then decide (c.a ≤ v) else decide (v ≤ c.a)
  let arms := if up then decide (v ≤ c.a - c.h) else decide (c.a + c.h ≤ v)
  if h.armed && hit then
    ({ armed := false, on := true }, some (match prev with | some p => crossFrac c.a p v | none => some 0))
  else if arms then ({ armed := true, on := false }, none)
  else (h, none)

/-- SLOPE, one polarity, on the difference `d` (R150). -/
def slopeHalf (up : Bool) (c : CompSet) (h : Half) (d : Int) : Half × CompEvent :=
  let hit := if up then decide (c.a ≤ d) else decide (d ≤ -c.a)
  let arms := if up then decide (d < c.a - c.h) else decide (-c.a + c.h < d)
  if h.armed && hit then ({ armed := false, on := hit }, some (some 0))
  else ({ armed := h.armed || arms, on := hit }, none)

/-- RUNT, one polarity: armed beyond the first level, then on from the passage of that level until the event or the second
level (R150). DEDUCED (log entry 57). -/
def runtHalf (up : Bool) (c : CompSet) (h : Half) (prev : Option Int) (v : Int) : Half × CompEvent :=
  let back := if up then c.a - c.h else c.b + c.h
  let isBack := if up then decide (v ≤ back) else decide (back ≤ v)
  let first := if up then decide (c.a ≤ v) else decide (v ≤ c.b)
  let second := if up then decide (c.b ≤ v) else decide (v ≤ c.a)
  if h.on then
    if second then ({ armed := false, on := false }, none)
    else if isBack then
      ({ armed := true, on := false }, some (match prev with | some p => crossFrac back p v | none => some 0))
    else (h, none)
  else if h.armed && first then ({ armed := false, on := !second }, none)
  else if isBack then ({ armed := true, on := false }, none)
  else (h, none)

/-- WINDOW: the inside, and an ENTER or an EXIT (R150, R151). -/
def windowStep (c : CompSet) (inside : Option Bool) (prev : Option Int) (v : Int) : Bool × CompEvent × CompEvent :=
  let within := decide (c.a ≤ v) && decide (v ≤ c.b)
  match inside, prev with
  | some false, some p =>
    if within then (true, some (crossFrac (if p < c.a then c.a else c.b) p v), none) else (false, none, none)
  | some true, some p =>
    if v < c.a - c.h then (false, none, some (crossFrac (c.a - c.h) p v))
    else if c.b + c.h < v then (false, none, some (crossFrac (c.b + c.h) p v))
    else (true, none, none)
  | some i, none => (i, none, none)
  | none, _ => (within, none, none)

/-- The polarity's event: rising, falling, or either (R150). -/
def polarity (pol : Nat) (r f : CompEvent) : CompEvent :=
  match pol with
  | 0 => r
  | 1 => f
  | _ => match r with | some x => some x | none => f

/-- A comparator examines one value (R150). -/
def Comp.step (c : Comp) (w : CompSet) (v : Int) : Comp × CompEvent :=
  let prev := c.hist.head?
  let hist := (v :: c.hist).take 63
  match w.type with
  | 1 =>
    let (r, er) := edgeHalf true w c.rise prev v
    let (f, ef) := edgeHalf false w c.fall prev v
    ({ c with hist := hist, rise := r, fall := f }, polarity w.pol er ef)
  | 2 =>
    let (i, er, ef) := windowStep w c.inside prev v
    ({ c with hist := hist, inside := some i }, polarity w.pol er ef)
  | 3 =>
    match c.hist[w.span - 1]? with
    | some u =>
      let (r, er) := slopeHalf true w c.rise (v - u)
      let (f, ef) := slopeHalf false w c.fall (v - u)
      ({ c with hist := hist, rise := r, fall := f }, polarity w.pol er ef)
    | none => ({ c with hist := hist }, none)
  | 4 =>
    let (r, er) := runtHalf true w c.rise prev v
    let (f, ef) := runtHalf false w c.fall prev v
    ({ c with hist := hist, rise := r, fall := f }, polarity w.pol er ef)
  | _ => ({ c with hist := hist }, none)

/-- A comparator's state (R150). -/
def Comp.holds (c : Comp) (w : CompSet) : Bool :=
  match w.type with
  | 0 => false
  | 2 => c.inside.getD false
  | _ => if w.pol = 1 then c.fall.on else c.rise.on

/-- The comparators examine a value each; the events, with unstated fractions still open. -/
def compsStep (ws : Nat → CompSet) (cs : Vector Comp 4) (v : Int) : Vector Comp 4 × List (Nat × Option Nat) :=
  let r := Vector.ofFn fun (k : Fin 4) => (cs[k]).step (ws k) v
  (r.map (·.1), (List.finRange 4).filterMap fun k => (r[k]).2.map fun f => (k.val, f))

/-- A value in the span format: its unit and its number of units (07_bell, parameters). -/
def spanUnit (w : Nat) : Nat := w / 2 ^ 29
def spanValue (w : Nat) : Nat := w % 2 ^ 24 * 2 ^ (w / 2 ^ 24 % 32)

/-- The signed difference of two positions that may hold fractions, modulo 2^64 grains (R42). -/
def ratDiff64 (x : Rat) : Rat := x - (x / (2 ^ 64 : Nat) + 1 / 2).floor * (2 ^ 64 : Nat)

/-- A span has elapsed at sample `v` (R156). `count` is what the events unit has counted. -/
def spanElapsed (w : Nat) (start pos : Rat) (count : Nat) (v : Val) : Bool :=
  let n := spanValue w
  match spanUnit w with
  | 0 => decide (start + 32 * n ≤ (v.chron : Rat))
  | 1 => decide (start + n ≤ (v.chron : Rat))
  | 2 => tallyPositioned v.mode && decide ((n : Rat) ≤ ratAbs (ratDiff64 (v.pos - pos)))
  | 3 => tallyPositioned v.mode && decide ((n * 2 ^ 32 : Nat) ≤ ratAbs (ratDiff64 (v.pos - pos)))
  | _ => decide (n ≤ count)

/-- What one sample of a stream shows a Bell: its events with their fractions, the interval before it. -/
structure Conds where
  events : List (Nat × Nat) := []
  /-- P_t in mites (R149) -/
  interval : Nat := 1
  /-- position of the sample before -/
  prevPos : Int := 0
  /-- timers that expired at it -/
  expired : List (Fin 2) := []
deriving DecidableEq, Repr

/-- Events at one sample: those whose code is not among the events yet. -/
def addEvent (l : List (Nat × Nat)) (code f : Nat) : List (Nat × Nat) :=
  if l.any (·.1 == code) then l else l ++ [(code, f)]

/-- An event's F, or a free value where the rule states none (DESIGN CHOICE, log entry 24). -/
def State.settle (s : State) (f : Option Nat) : Nat × State :=
  match f with
  | some x => (x, s)
  | none => let (x, s') := s.draw; (x % 1024, s')

/-- The comparators of stall `n` examine a sample (R150, R151): every value of it, a pair's minimum first. -/
def State.formComps (s : State) (n : Fin 16) (v : Val) : List (Nat × Nat) × State :=
  let pair := (s.stalls[n]).setup.pair
  let b := s.bell n
  let (cs, es) := [v.lo, v.hi].take (if pair then 2 else 1) |>.foldl (fun (cs, es) x =>
    let (cs', es') := compsStep (s.compSet n) cs x
    (cs', es ++ es')) (b.comps, [])
  let s1 := s.modBell n fun b => { b with comps := cs }
  if b.prev.isNone then ([], s1)
  else es.foldl (fun (l, s) (k, f) =>
    let (x, s') := if pair then (0, s) else s.settle f
    (addEvent l (4 + k) x, s')) ([], s1)

/-- F of an instant before sample `v` (R149). -/
def outsideFrac (first : Bool) (interval : Nat) (v : Val) (instant : Rat) : Nat :=
  if first || interval = 0 then 0 else min 1023 (1024 * ((v.chron : Rat) - instant) / interval).floor.toNat

/-- What came from outside is placed on sample `v`: levels followed, edges, cries and links made events with the F of the
earliest (R149, R153 to R155). -/
def State.formOutside (s : State) (n : Fin 16) (interval : Nat) (v : Val) : List (Nat × Nat) × State :=
  let b := s.bell n
  let fall := s.val F.STL_BEL_EXT_FALL 0 n
  let due := b.outs.filter fun o => decide (o.instant ≤ (v.chron : Rat))
  let levels := due.foldl (fun (l : Vector Bool 4) o =>
    if o.code / 4 = 6 then l.set (o.code % 4) o.level (Nat.mod_lt _ (by omega)) else l) b.levels
  let s1 := s.modBell n fun b => { b with
    levels := levels, outs := b.outs.filter fun o => !decide (o.instant ≤ (v.chron : Rat)) }
  let acts := due.filter fun o => o.edge && (o.code / 4 != 6 || o.level != fall.testBit (o.code % 4))
  let ev := acts.foldl (fun (l : List (Nat × Nat)) o =>
    let f := if o.code / 16 = 2 then 0 else outsideFrac b.prev.isNone interval v o.instant
    if l.any (fun e => e.1 == o.code) then l.map (fun e => if e.1 = o.code then (e.1, max e.2 f) else e)
    else l ++ [(o.code, f)]) []
  (ev, s1)

/-- The target of the tally-position compare in force. -/
def State.tposTarget (s : State) (n : Fin 16) : Int :=
  s.val F.STL_BEL_TPOS_HI_THI 0 n * 2 ^ 32 + s.val F.STL_BEL_TPOS_LO_TLO 0 n

/-- The tally-position compare between two samples (R152): the F of a crossing. -/
def tallyCompare (dir : Nat) (perturn : Bool) (target : Int) (a v : Val) : Option Nat :=
  if !tallyPositioned v.mode then none
  else
    let w := if perturn then 32 else 64
    let d0 := signed w ((a.pos - target) % (2 ^ 64 : Nat)).toNat
    let j := v.jump - a.jump
    let m := motionEnd a v - a.pos
    if crosses dir d0 (d0 + m) then
      some (clampInt 0 1023 (roundDiv (1024 * (d0 + m).natAbs) (m.natAbs : Int))).toNat
    else if j != 0 && crosses dir (d0 + m) (d0 + m + j) then some 0
    else none

/-- Every condition at a sample is formed (R157, step 1): comparators, pins, cries, links, the tally compare, and the
timers whose span elapses (R159). -/
def State.formConds (s : State) (n : Fin 16) (v : Val) : Conds × State :=
  let b := s.bell n
  let interval := match b.prev with
    | some p => v.chron - p.chron
    | none => (s.stalls[n]).setup.nominal
  let (e1, s1) := s.formComps n v
  let (e2, s2) := s1.formOutside n interval v
  let e3 := match b.prev with
    | some p =>
      match tallyCompare (s.val F.STL_BEL_TPOS_CTRL_DIR 0 n) (s.flag F.STL_BEL_TPOS_CTRL_PERTURN 0 n) (s.tposTarget n)
          p v with
      | some f => [(0x14, f)]
      | none => []
    | none => []
  let exp := (List.finRange 2).filter fun (k : Fin 2) =>
    (b.timers[k]).run && spanElapsed (s.val F.STL_BEL_TMR_DUR_DUR k n) (b.timers[k]).start (b.timers[k]).pos 0 v
  let s3 := s2.modBell n fun b => { b with
    timers := exp.foldl (fun t k => updAt t k fun x => { x with run := false, expired := true }) b.timers }
  ({ events := e1 ++ e2 ++ e3, interval := interval, expired := exp
     prevPos := match b.prev with | some p => p.pos | none => v.pos }, s3)

/-- A condition occurs at the sample, or holds at it (R148). -/
def State.occurs (s : State) (n : Fin 16) (c : Conds) (code : Nat) : Bool :=
  let b := s.bell n
  if c.events.any (·.1 == code) then true
  else match code with
    | 0x01 => true
    | 0x0E => b.timers[0].run
    | 0x0F => b.timers[1].run
    | _ =>
      if code / 4 = 2 then (b.comps[Fin.ofNat 4 code]).holds (s.compSet n (code % 4))
      else if code / 4 = 7 then
        b.levels[Fin.ofNat 4 code] != (s.val F.STL_BEL_EXT_FALL 0 n).testBit (code % 4)
      else false

/-- The F of a condition at the sample (R149). -/
def Conds.frac (c : Conds) (code : Nat) : Nat := ((c.events.find? (·.1 == code)).map (·.2)).getD 0

/-- Counter `k` counts one: its target's event if it reaches it (R157, step 2). -/
def State.countUp (s : State) (n : Fin 16) (c : Conds) (k : Fin 4) (f : Nat) : Conds × State :=
  let x := (s.bell n).counts[k]
  let y := min 65535 (x + 1)
  let tgt := s.val F.STL_BEL_CNT_TGT_TARGET k n
  (if x < tgt ∧ tgt ≤ y then { c with events := addEvent c.events (0x10 + k) f } else c,
    s.modBell n fun b => { b with counts := b.counts.set k y })

/-- The counters of `l` that run in the state in force and whose event occurs count it; those that have not counted remain. -/
def State.countRound (s : State) (n : Fin 16) (c : Conds) (l : List (Fin 4)) : Conds × State × List (Fin 4) :=
  let st := (s.bell n).state
  l.foldl (fun (c, s, rest) (k : Fin 4) =>
    let src := s.val F.STL_BEL_CNT_CFG_SRC k n
    if (s.val F.STL_BEL_CNT_CFG_RUNMASK k n).testBit st && s.occurs n c src then
      let (c', s') := s.countUp n c k (c.frac src)
      (c', s', rest)
    else (c, s, rest ++ [k])) (c, s, [])

/-- Every counter that runs in the state in force counts its event, at most once (R157, step 2). A counter may count the event
of another, whichever has the lower number, so those left count again after each round. -/
def State.countAll (s : State) (n : Fin 16) (c : Conds) : Conds × State :=
  let (c1, s1, l1) := s.countRound n c (List.finRange 4)
  let (c2, s2, l2) := s1.countRound n c1 l1
  let (c3, s3, l3) := s2.countRound n c2 l2
  let (c4, s4, _) := s3.countRound n c3 l3
  (c4, s4)

/-- QUAL of state `st`, QINV included (R158). -/
def State.qualHolds (s : State) (n : Fin 16) (st : Nat) : Bool :=
  let b := s.bell n
  let q := s.val F.STL_BEL_S_COND_QUAL st n
  let r := match q with
    | 0 => true
    | 5 => b.timers[0].run
    | 6 => b.timers[1].run
    | 7 => b.timers[0].expired
    | 8 => b.timers[1].expired
    | _ => if q ≤ 4 then decide (s.val F.STL_BEL_CNT_TGT_TARGET (q - 1) n ≤ b.counts[Fin.ofNat 4 (q - 1)]) else true
  r != s.flag F.STL_BEL_S_COND_QINV st n

/-- The entry instant (R160): chronicle time and tally position, with their fractions. -/
def entryChron (c : Conds) (v : Val) (f : Nat) : Rat := v.chron - (f * c.interval : Nat) / (1024 : Rat)
def entryPos (c : Conds) (v : Val) (f : Nat) : Rat := v.pos - f * diff64 v.pos c.prevPos / 1024

/-- A number rounded to the nearest, ties upward, modulo 2^64 (R160). -/
def quadRound (x : Rat) : Quad := BitVec.ofInt 64 (x + 1 / 2).floor

/-- Decision latency in ticks (R165). -/
def Bell.latency (b : Bell) : Nat := if b.linked then 56 else 24

/-- What takes effect at the decision tick of a sample (R165). -/
def State.decideLater (s : State) (n : Fin 16) (v : Val) (d : Decision) : State :=
  s.modBell n fun b => { b with decisions := b.decisions ++ [(v.tick + mitesPerTick * b.latency, d)] }

/-- Samples of pre-trigger part Q (R179). -/
def Setup.pretrig (u : Setup) : Nat := u.cap - u.post

/-- States in force of stall `n`'s Bell. -/
def State.bellStates (s : State) (n : Nat) : Nat := min 8 (s.val F.STL_BEL_CTRL_NSTATES 0 n)

/-- A mask names a state in force. -/
def State.maskInForce (s : State) (n mask : Nat) : Bool := mask % 2 ^ s.bellStates n != 0

/-- Counter `k` of stall `n` is in force (R161). -/
def State.counterInForce (s : State) (n k : Nat) : Bool := s.maskInForce n (s.val F.STL_BEL_CNT_CFG_RUNMASK k n)

/-- Timer `k` of stall `n` is in force (R161). -/
def State.timerInForce (s : State) (n k : Nat) : Bool := s.maskInForce n (s.val F.STL_BEL_TMR_CFG_STARTMASK k n)

/-- The conditions that the stop-locked fields in force of stall `n`'s Bell name (R161). -/
def State.bellFixed (s : State) (n : Nat) : List Nat :=
  ((List.range (s.bellStates n)).flatMap fun k =>
    [s.val F.STL_BEL_S_COND_ADV k n, s.val F.STL_BEL_S_COND_RST k n]) ++
  (((List.range 4).filter fun k => s.counterInForce n k).map fun k => s.val F.STL_BEL_CNT_CFG_SRC k n)

/-- The conditions that the fields in force of stall `n`'s Bell name (R161). -/
def State.bellCodes (s : State) (n : Nat) : List Nat :=
  s.bellFixed n ++ (if spanUnit (s.wval F.STL_BEL_HOLDOFF_HOLD 0 n) = 4 then [s.wval F.STL_BEL_HOLDSRC_SRC 0 n] else [])

/-- The Bell uses another's triggers (R155): a stop-locked field names one, or HOLDSRC in force does while the holdoff counts
events. -/
def State.usesLinks (s : State) (n : Nat) : Bool :=
  (s.bellFixed n).any (fun c => c / 16 == 3) ||
    (spanUnit (s.wval F.STL_BEL_HOLDOFF_HOLD 0 n) == 4 && s.val F.STL_BEL_HOLDSRC_SRC 0 n / 16 == 3)

/-- The Bell of stall `n` is linked or not as the fields in force have become (R155). -/
def State.relink (s : State) (n : Fin 16) : State := s.modBell n fun b => { b with linked := s.usesLinks n }

/-- Something happened at the sample. -/
def State.happen (s : State) (n : Fin 16) (h : Happening) : State := s.modBell n fun b => { b with seen := b.seen ++ [h] }

/-- The segment in progress ends at sample `v` (R146, R168, R178). -/
def State.endSegment (s : State) (n : Fin 16) (c : Conds) (v : Val) : State :=
  s.modStall n fun t =>
    let k := t.bell.ended + 1
    { t with
      segs := t.segs.map fun g => if g.ended then g else { g with ended := true, last := v.num, ordinal := k }
      bell := { t.bell with
        phase := .rearm, bufFrom := none, marks := [], ended := k, endedAt := some (v.chron + c.interval)
        beginAt := if t.setup.fill && t.setup.ring && decide (t.setup.slots ≤ k) then none
          else some (v.tick + mitesPerTick * (s.val F.STL_BEL_REARM_REARM 0 n + 1)) } }

/-- A trigger is accepted at sample `v` (R162 to R164): the segment, the holdoff, the decision to come. -/
def State.accept (s : State) (n : Fin 16) (c : Conds) (v : Val) (f : Nat) (forced late : Bool) (instant : Rat) :
    State :=
  let u := (s.stalls[n]).setup
  let b := s.bell n
  let first := b.bufFrom.getD v.num
  let hold := s.lastWritten (F.STL_BEL_HOLDOFF_HOLD.num 0 n)
  let g : Segment := {
    setup := u, trig := v, frac := f, forced := forced, late := late
    shortPre := decide (v.num < first + u.pretrig), first := first, unitsFirst := b.bufUnits, dead := b.dead, last := v.num + u.post - 1
    marks := b.marks, flags := (s.stalls[n]).slotErrs }
  let s1 := s.modStall n fun t => { t with
    segs := t.segs ++ [g], slotErrs := 0
    bell := { t.bell with
      phase := .post, autoDue := false, rstHeld := false, accepted := t.bell.accepted ++ [instant]
      holdWord := hold.toNat, holdAt := instant, holdPos := entryPos c v f, holdNum := v.num, holdCount := 0 } }
  let s2 := ((s1.decideLater n v (.trigger instant)).relink n).askInjection (Fin.ofNat 19 n)
  if u.post = 1 then s2.endSegment n c v else s2

/-- The sequence enters state `k` at sample `v` (R157, step 5; R160). `trig` is false where a forced trigger comes before
the entry's own. -/
def State.enter (s : State) (n : Fin 16) (c : Conds) (v : Val) (k f : Nat) (trig : Bool) : Conds × State :=
  let s1 := s.modBell n fun b => { b with
    state := k
    counts := Vector.ofFn fun j => if (s.val F.STL_BEL_CNT_CFG_CLRMASK j n).testBit k then 0 else b.counts[j]
    timers := Vector.ofFn fun j =>
      if (s.val F.STL_BEL_TMR_CFG_STARTMASK j n).testBit k then
        { run := true, expired := false, start := entryChron c v f, pos := entryPos c v f }
      else b.timers[j] }
  let s2 := if s.flag F.STL_BEL_S_ACT_MARK k n then s1.modBell n fun b => { b with marks := b.marks ++ [(v.num, k)] }
    else s1
  let s3 := if s.flag F.STL_BEL_S_ACT_CRY k n then
      s2.decideLater n v (.cry (s.val F.STL_BEL_S_ACT_CRYCH k n) (entryChron c v f) (entryPos c v f))
    else s2
  let s4 := if s.flag F.STL_BEL_S_ACT_LAUNCH k n then
      s3.decideLater n v (.launch (Fin.ofNat 64 (s.val F.STL_BEL_S_ACT_SLOT k n)) (entryChron c v f) (entryPos c v f))
    else s3
  let (c5, s5) := if s.flag F.STL_BEL_S_ACT_COUNT k n then
      s4.countUp n c (Fin.ofNat 4 (s.val F.STL_BEL_S_ACT_COUNTER k n)) f
    else (c, s4)
  (c5, if s.flag F.STL_BEL_S_ACT_TRIGGER k n && trig then s5.accept n c v f false false (entryChron c v f) else s5)

/-- A trigger is ignored (R170); the counter counts at most once at a sample (R171). -/
def State.ignoreTrigger (s : State) (n : Fin 16) : State :=
  if (s.bell n).seen.contains .ignored then s
  else ((s.modBell n fun b => { b with ignored := (b.ignored + 1) % 65536 }).toll (64 + 4 * n)).happen n .ignored

/-- An overlap (R171). -/
def State.countOverlap (s : State) (n : Fin 16) : State :=
  (s.modBell n fun b => { b with overlap := (b.overlap + 1) % 65536 }).toll (64 + 4 * n + 1)

/-- The trigger condition: ADV of the lowest state whose NEXT carries TRIGGER (07_bell, ignored triggers). -/
def State.triggerCode (s : State) (n : Fin 16) : Option Nat :=
  ((List.range (s.val F.STL_BEL_CTRL_NSTATES 0 n)).find? fun k =>
    s.flag F.STL_BEL_S_ACT_TRIGGER (s.val F.STL_BEL_S_COND_NEXT k n) n).map fun k => s.val F.STL_BEL_S_COND_ADV k n

/-- The sample's part in the sequence (R157, steps 2 to 5): what it moves to, on which F, and whether by ADV. -/
def State.sequenceMove (s : State) (n : Fin 16) (c : Conds) : Option (Nat × Nat × Bool) × State :=
  let st := (s.bell n).state
  let adv := s.val F.STL_BEL_S_COND_ADV st n
  let rst := s.val F.STL_BEL_S_COND_RST st n
  if s.occurs n c adv && s.qualHolds n st then (some (s.val F.STL_BEL_S_COND_NEXT st n, c.frac adv, true), s)
  else if s.occurs n c rst then
    if rst = 0x0C ∨ rst = 0x0D then (none, s.modBell n fun b => { b with rstHeld := true })
    else (some (0, c.frac rst, false), s)
  else (none, s)

/-- A trigger forced by a launch, accepted at sample `v` (R164). -/
def State.acceptForced (s : State) (n : Fin 16) (c : Conds) (v : Val) (f : Forced) : State :=
  s.accept n c v (outsideFrac (s.bell n).prev.isNone c.interval v f.instant) false f.late f.instant

/-- The auto span ended in a tick without samples: after the tick of the sample before, and before that of sample `v` (R167).
DEDUCED (log entry 57). -/
def autoOverdue (w : Nat) (start prevTick : Nat) (v : Val) : Bool :=
  let in_ (i : Nat) : Bool := decide (prevTick + mitesPerTick ≤ i) && decide (i < v.tick)
  match spanUnit w with
  | 0 => in_ (start + 32 * spanValue w)
  | 1 => in_ (start + spanValue w)
  | _ => false

/-- Auto mode at sample `v` (R167): a trigger is forced at the tick's last sample, or at once where the tick in which the
span elapsed held no sample. -/
def State.autoStep (s : State) (n : Fin 16) (c : Conds) (v : Val) (last : Bool) : State :=
  let b := s.bell n
  let w := s.val F.STL_BEL_AUTO_AUTO 0 n
  if b.phase != .armed || spanValue w = 0 then s
  else
    let now := !b.autoDue && spanElapsed w b.autoAt b.autoPos 0 v
    if (b.autoDue || now) && (last || (now && autoOverdue w b.autoAt ((b.prev.map (·.tick)).getD v.tick) v)) then
      (s.accept n c v 0 true false v.chron).happen n .auto
    else if now then s.modBell n fun b => { b with autoDue := true }
    else s

/-- An armed sample (R157, R164, R167, R171). -/
def State.armedSample (s : State) (n : Fin 16) (c : Conds) (v : Val) (forced : List Forced) (last : Bool) :
    Conds × State :=
  let s := c.expired.foldl (fun s k => s.happen n (.expired k)) s
  let c := { c with events := c.expired.foldl (fun l k => addEvent l (0x0C + k.val) 0) c.events }
  let st := (s.bell n).state
  let (c, s) := s.countAll n c
  let (move, s) := s.sequenceMove n c
  let first := s.val F.STL_BEL_S_COND_ADV 0 n
  let taken := match move with | some (_, _, a) => a && s.val F.STL_BEL_S_COND_ADV st n == first | none => false
  let overlap := st != 0 && !taken && s.occurs n c first
  let s := if overlap then s.countOverlap n else s
  let seqTrig := match move with
    | some (k, f, _) => if s.flag F.STL_BEL_S_ACT_TRIGGER k n then some (entryChron c v f) else none
    | none => none
  -- a forced trigger with the earlier instant comes before the sequence's own (R164)
  let forcedFirst := match forced, seqTrig with
    | [], _ => false
    | _ :: _, none => true
    | f :: _, some i => decide ((f.instant : Rat) < i)
  let (c, s) := match move with
    | some (k, f, adv) =>
      let s1 := (s.modBell n fun b => { b with rstHeld := false }).happen n (if adv then .advanced else .reset)
      s1.enter n c v k f (!forcedFirst)
    | none => (c, s)
  let s := match forced with
    | [] => s
    | f :: fs =>
      if forcedFirst then
        let s1 := if seqTrig.isSome then s.ignoreTrigger n else s
        fs.foldl (fun s _ => s.ignoreTrigger n) (s1.acceptForced n c v f)
      else forced.foldl (fun s _ => s.ignoreTrigger n) s
  -- a reset held to the end of its tick (R157, step 4)
  let (c, s) := if last && (s.bell n).rstHeld && (s.bell n).phase == .armed then
      ((s.modBell n fun b => { b with rstHeld := false }).happen n .reset).enter n c v 0 0 true
    else (c, s)
  (c, s.autoStep n c v last)

/-- The beginning of a segment buffer at sample `v` resets the stall's Sieve channel where SYNC_SEG asks for it (R213), unless an input has
met that reset before the Bell has come to the sample. -/
def State.syncBuffer (s : State) (n : Fin 16) (v : Val) : State :=
  if (s.stalls[n]).setup.sieve && s.flag F.SIV_CH_CFG_SYNC_SEG n then
    { s with sieve := { s.sieve with
      chans := updAt s.sieve.chans n fun c =>
        if c.synced = some v.num then { c with synced := none } else { c with resets := c.resets ++ [.sample v.num] } } }
  else s

/-- A buffer begins at sample `v` if its time has come (R126, R146, R168). -/
def State.beginBuffer (s : State) (n : Fin 16) (v : Val) : State :=
  let b := s.bell n
  match b.beginAt with
  | some x =>
    if x ≤ v.chron then
      (s.modBell n fun b => { b with
        phase := .hold, beginAt := none, bufFrom := some v.num, bufUnits := none, marks := []
        dead := match b.endedAt with
          | some e => min (v.chron - e) 0xFFFFFFFE
          | none => 0xFFFFFFFF }).syncBuffer n v |>.happen n .begun
    else s
  | none => s

/-- The holdoff has elapsed at sample `v` (R162). DEDUCED (log entry 57). -/
def Bell.holdElapsed (b : Bell) (v : Val) : Bool :=
  spanValue b.holdWord = 0 || spanElapsed b.holdWord b.holdAt b.holdPos b.holdCount v

/-- A holdoff that elapses at sample `v` has elapsed, whatever phase the Bell is in (R156, R162). -/
def State.latchHold (s : State) (n : Fin 16) (v : Val) : State :=
  if (s.bell n).holdElapsed v then s.modBell n fun b => { b with holdWord := 0 } else s

/-- PREFILL_WAIT holds the Bell at sample `v` (R163). -/
def State.prefillShort (s : State) (n : Fin 16) (v : Val) : Bool :=
  s.flag F.STL_BEL_CTRL_PREFILL_WAIT 0 n &&
    decide (v.num < (s.bell n).bufFrom.getD v.num + (s.stalls[n]).setup.pretrig)

/-- The parameters of the Bell that come into force with an ARMED phase (R173). -/
def bellLive (n : Fin 16) : List Nat :=
  [F.STL_BEL_HOLDSRC_SRC.num 0 n, F.STL_BEL_AUTO_AUTO.num 0 n, F.STL_BEL_TPOS_LO_TLO.num 0 n,
    F.STL_BEL_TPOS_HI_THI.num 0 n] ++
  (List.range 4).flatMap fun k => [F.STL_BEL_CMP_CFG_HYST.num k n, F.STL_BEL_CMP_LVL_A.num k n]

/-- The Bell becomes ARMED at sample `v` if it may (R145, R162, R163, R173). -/
def State.armIfReady (s : State) (n : Fin 16) (v : Val) : State :=
  let b := s.bell n
  if b.phase == .hold && b.holdWord == 0 && !s.prefillShort n v then
    (((s.bringIntoForce (bellLive n)).relink n).modBell n fun b => { b with
      phase := .armed, autoAt := v.chron, autoPos := v.pos, autoDue := false, rstHeld := false }).happen n .armed
  else s

/-- An occurrence of HOLDSRC after the trigger's sample counts towards an events holdoff (R162). -/
def State.countHold (s : State) (n : Fin 16) (c : Conds) (v : Val) : State :=
  let b := s.bell n
  if spanUnit b.holdWord = 4 && b.holdNum < v.num && s.occurs n c (s.val F.STL_BEL_HOLDSRC_SRC 0 n) then
    s.modBell n fun b => { b with holdCount := b.holdCount + 1 }
  else s

/-- One sample of stall `n`'s stream is evaluated by its Bell (chapter 07). `last` says that it is the last of its tick.
DESIGN CHOICE (log entry 23). -/
def State.bellSample (s : State) (n : Fin 16) (v : Val) (last : Bool) : State :=
  let s := s.modBell n fun b => { b with seen := [] }
  if (s.bell n).phase == .stopped then s
  else
    let post := s.inPhase n .post
    let s := ((s.latchHold n v).beginBuffer n v).armIfReady n v
    let armedNow := (s.bell n).seen.contains .armed
    let (c, s) := s.formConds n v
    let forced := ((s.bell n).forces.filter fun f => decide (f.instant ≤ v.chron)).insertionSort
      fun a b => a.instant ≤ b.instant
    let s := s.modBell n fun b => { b with forces := b.forces.filter fun f => !decide (f.instant ≤ v.chron) }
    let trig := match s.triggerCode n with
      | some code => s.occurs n c code
      | none => false
    let (c, s) := match (s.bell n).phase with
      | .armed =>
        let (c, s) := if armedNow then s.enter n c v 0 0 true else (c, s)
        s.armedSample n c v forced last
      | .hold =>
        let short := s.prefillShort n v
        let s := if trig && short && (s.bell n).holdWord = 0 then s.ignoreTrigger n else s
        match forced with
        | [] => (c, s)
        | f :: fs =>
          (c, if short then forced.foldl (fun s _ => s.ignoreTrigger n) s
            else fs.foldl (fun s _ => s.ignoreTrigger n) (s.acceptForced n c v f))
      | p =>
        let s := if trig && (p == Phase.post || p == Phase.rearm) then s.ignoreTrigger n else s
        (c, forced.foldl (fun s _ => s.ignoreTrigger n) s)
    let s := s.countHold n c v
    let ends := post && (s.stalls[n]).segs.any fun g => !g.ended && g.last == v.num
    let s := if ends then s.endSegment n c v else s
    s.modBell n fun b => { b with prev := some v }

/-- Ticks by which a Bell evaluates its stream late: 32 when linked (R155), and what its outputs may lag behind. -/
def Stall.evalLag (t : Stall) : Nat := t.setup.lag + (if t.bell.linked then 32 else 0)

/-- The samples of stall `n` that a command of the present tick may evaluate: those of earlier ticks. -/
def State.dueSamples (s : State) (n : Fin 16) : Nat :=
  let t := s.stalls[n]
  (t.bell.obs.takeWhile fun v => v.tick + mitesPerTick * t.evalLag < s.now).length

/-- The samples of stall `n` that its Bell evaluates before a STOP of the present tick: those of the present tick too. -/
def State.stopSamples (s : State) (n : Fin 16) : Nat :=
  let t := s.stalls[n]
  (t.bell.obs.takeWhile fun v => v.tick + mitesPerTick * t.evalLag ≤ s.now).length

/-- The oldest waiting sample of stall `n` is evaluated; the tolls that it counts are those of its own tick. -/
def State.evalNext (s : State) (n : Fin 16) : State :=
  match (s.bell n).obs with
  | [] => s
  | v :: vs =>
    let last := match vs with | w :: _ => w.tick != v.tick | [] => true
    let t := (s.modBell n fun b => { b with obs := vs }).bellSample n v last
    if v.tick < s.now then s.notePast (s.notePast t (64 + 4 * n)) (64 + 4 * n + 1) else t

/-- The Bell of stall `n` is linked since it was `s` (R155): what it has still to evaluate is due 32 ticks later. -/
def State.becameLinked (s t : State) (n : Fin 16) : Bool := !(s.bell n).linked && (t.bell n).linked

/-- `k` waiting samples of stall `n` are evaluated, up to one that makes the Bell linked. -/
def State.evalMany (s : State) (n : Fin 16) : Nat → State
  | 0 => s
  | k + 1 => if s.becameLinked (s.evalNext n) n then s.evalNext n else (s.evalNext n).evalMany n k

/-- The waiting samples of stall `n`, at most `k`, are evaluated up to the first at which `h` happens; none if it happens
at none of them. -/
def State.scanFor (s : State) (n : Fin 16) (h : Happening) : Nat → Option State
  | 0 => none
  | k + 1 =>
    let s' := s.evalNext n
    if (s'.bell n).seen.contains h then some s'
    else if s.becameLinked s' n then none
    else s'.scanFor n h k

/-- A Bell event that a command reports: the samples up to it are evaluated; without it the state is unchanged. -/
def State.reportBell (s : State) (n : Fin 16) (h : Happening) : State := (s.scanFor n h (s.dueSamples n)).getD s

/-- REARM_END (R146). -/
def execRearmEnd (n : Fin 16) (s : State) : Result :=
  .next (if s.inPhase n .rearm then s.reportBell n .begun else s)

/-- HOLDOFF_ELAPSED (R162, R163). -/
def execHoldoffElapsed (n : Fin 16) (s : State) : Result := .next (s.reportBell n .armed)

/-- BELL_ADVANCE (R157). -/
def execBellAdvance (n : Fin 16) (s : State) : Result := .next (s.reportBell n .advanced)

/-- BELL_RESET (R157). -/
def execBellReset (n : Fin 16) (s : State) : Result := .next (s.reportBell n .reset)

/-- BELL_TIMER_EXPIRY (R159). -/
def execBellTimerExpiry (n : Fin 16) (k : Fin 2) (s : State) : Result := .next (s.reportBell n (.expired k))

/-- AUTO_TRIGGER (R167). -/
def execAutoTrigger (n : Fin 16) (s : State) : Result := .next (s.reportBell n .auto)

/-- Every sample that is due is evaluated, stall by stall. -/
def State.evalDue (s : State) : State := (List.finRange 16).foldl (fun s n => s.evalMany n (s.dueSamples n)) s

/-- Toll counter `i` as it is read (R397): the counts of the present tick are not in it, those of earlier ticks are, also where their
samples still wait to be evaluated (log entry 23). -/
def State.tollShown (s : State) (i : Nat) : Nat :=
  let t := s.evalDue
  min (2 ^ 32 - 1) (t.tollValue i + Sparse.get (fun _ => 0) t.ev.past i)

/-- Something from outside is kept for the Bell of a stall that runs (R149). -/
def State.offerOutside (s : State) (n : Fin 16) (o : Outside) : State :=
  if (s.bell n).phase == .stopped then s else s.modBell n fun b => { b with outs := b.outs ++ [o] }

/-- Something from outside is offered to every Bell. -/
def State.offerAll (s : State) (o : Outside) : State := (List.finRange 16).foldl (fun s n => s.offerOutside n o) s

/-- TRIG_IN_EDGE (R153): the pin's level is followed; at most one edge of each polarity is registered in a tick. In WATCH the pin has no
supply (20_package R411). -/
def trigInEdge (pin : Fin 4) (level : Bool) (stamp : Nat) (s : State) : State :=
  if s.power.regime = .watch then s else
  let fresh := !s.ev.trigEdges.contains (pin, level) && s.trigIn[pin] != level
  let s1 := { s with trigIn := s.trigIn.set pin level
                     ev := { s.ev with trigEdges := if fresh then (pin, level) :: s.ev.trigEdges else s.ev.trigEdges } }
  if s.trigIn[pin] == level then s
  else s1.offerAll { code := 0x18 + pin, instant := stamp, level := level, edge := fresh }

/-- TRIG_IN_EDGE. -/
def execTrigInEdge (pin : Fin 4) (level : Bool) (stamp : Nat) (s : State) : Result :=
  .next (trigInEdge pin level stamp s)

/-- A cry of channel `ch` is received, or sent by this device (R154): placed at the tick of its registration. -/
def State.receiveCry (s : State) (ch : Nat) : State := s.offerAll { code := 0x20 + ch, instant := s.now }

/-- A launch slot is armed by a LAUNCH action (R160): its registers are taken as an offset to the entry instant. The slot
keeps its direction and its actions. -/
def State.launchByBell (s : State) (k : Fin 64) (chron pos : Rat) : State :=
  let base := s.wflag F.TLY_LS_CTRL_BASE k
  let ofs : Rat := (s.slotTarget k).toNat
  let a : Arming := { target := quadRound ((if base then chron else pos) + ofs), dir := s.wval F.TLY_LS_CTRL_DIR k
                      chron := base }
  (s.armSlot k a).1

/-- A decision's effect (R165): the trigger is decided and reaches the linked Bells; a LAUNCH arms its slot. What a CRY
sends is the Crier's, see State.cryOut. -/
def State.applyDecision (s : State) (n : Fin 16) : Decision → State
  | .trigger i =>
    let s1 := s.modStall n fun t => { t with
      segs := (t.segs.takeWhile (·.decided)) ++ (match t.segs.dropWhile (·.decided) with
        | g :: gs => { g with decided := true } :: gs
        | [] => []) }
    (List.finRange 16).foldl (fun s m =>
      if (s.bell m).linked then s.offerOutside m { code := 0x30 + n, instant := i } else s) s1
  | .launch k c p => s.launchByBell k c p
  | .cry _ _ _ => s

end Sys2Proof.Machine
end

