-- ==== Sys2Proof/Machine/Crc.lean ====
section
/-! DEFINITION. The cyclic checks of the device: the CRC-32 of records, pages and consignments (08_records R198) and the
CRC-8 of Crier frames (15_crier). -/

namespace Sys2Proof.Machine

/-- One bit of a CRC-32 whose register shifts right. -/
def crc32Bit (c : Nat) : Nat := if c % 2 = 1 then (c / 2) ^^^ 0xEDB88320 else c / 2

/-- One byte of a CRC-32. -/
def crc32Byte (c : Nat) (b : Byte) : Nat :=
  crc32Bit (crc32Bit (crc32Bit (crc32Bit (crc32Bit (crc32Bit (crc32Bit (crc32Bit (c ^^^ b.toNat))))))))

/-- CRC-32, polynomial 0x04C11DB7 bit-reflected, all ones at first, inverted at the end (R198). -/
def crc32 (bs : List Byte) : Nat := bs.foldl crc32Byte 0xFFFFFFFF ^^^ 0xFFFFFFFF

/-- One bit of a CRC-8 of polynomial `p`, most significant bit first. -/
def crc8Bit (p c : Nat) : Nat := if 0x80 ≤ c then ((c * 2) ^^^ (0x100 + p)) % 256 else c * 2

/-- A CRC-8 of polynomial `p` from the register value `c` on. -/
def crc8 (p c : Nat) (bs : List Byte) : Nat :=
  bs.foldl (fun c b => crc8Bit p (crc8Bit p (crc8Bit p (crc8Bit p (crc8Bit p (crc8Bit p (crc8Bit p (crc8Bit p
    (c ^^^ b.toNat))))))))) c

end Sys2Proof.Machine
end

