-- ==== Sys2Proof/Machine/Crier.lean ====
section
/-! DEFINITION. The Crier links (chapter 15): the ports and their bring-up, the frames, hop delay and latency, the root
chronicle, cries, launches and the receive table. Log entry 28 names the readings taken here. -/

namespace Sys2Proof.Machine

/-- Mites in a cycle of 32 symbols, and in the eight cycles of a TALLY cycle (R313, R322). -/
def cycleMites : Nat := 2048
def tallyCycleMites : Nat := 16384

/-- The fixed latency of a device in mites (R320). -/
def deviceLatency : Nat := 4096

/-- Bits [lo + n - 1 : lo] of a frame (R314). -/
def frameBits (w : Quad) (lo n : Nat) : Nat := (w.toNat >>> lo) % 2 ^ n

/-- Content byte k of a frame is W[63 − 8k : 56 − 8k] (R314). -/
def frameBytes (w : Quad) : List Byte := (List.range 8).map fun k => BitVec.ofNat 8 (frameBits w (56 - 8 * k) 8)

/-- The CRC byte of a frame (R314). -/
def frameCrc (w : Quad) : Nat := crc8 0x07 0 (frameBytes w)

/-- Type codes of R317. -/
def frameIdle : Nat := 0
def frameTally : Nat := 1
def frameCryA : Nat := 2
def frameCryB : Nat := 3
def frameLaunchA : Nat := 4
def frameLaunchB : Nat := 5
def frameDelay : Nat := 6

/-- The type of a frame (R317). -/
def frameType (w : Quad) : Nat := frameBits w 61 3

/-- A frame whole: no code violation, its CRC right, its type not reserved (R314, R317). -/
def CrierFrame.good (f : CrierFrame) : Bool := !f.violation && f.crc.toNat == frameCrc f.w && frameType f.w != 7

/-- The root is the device with ROOT = 1 or with CP0 not enabled (R311). -/
def State.isRoot (s : State) : Bool := s.flag F.CRY_CTRL_ROOT || !(s.val F.CRY_CTRL_PEN).testBit 0

/-- The Crier changed. -/
def State.modCrier (s : State) (f : Crier → Crier) : State := { s with crier := f s.crier }

/-- A Crier port changed. -/
def State.modPortC (s : State) (p : Fin 4) (f : CrierPort → CrierPort) : State :=
  s.modCrier fun c => { c with ports := updAt c.ports p f }

/-- The state of a port. -/
def State.portState (s : State) (p : Fin 4) : PortState := (s.crier.ports[p]).state

/-- Lead in force in ticks: 0 stands for 2^20 (R325). -/
def State.leadTicks (s : State) : Nat := if s.crier.lead = 0 then 2 ^ 20 else s.crier.lead

/-- Path, depth and DEEP of this device; the root's path is 0 (R311, R317). -/
def State.ownPath (s : State) : Nat := if s.isRoot then 0 else s.crier.path
def State.ownDepth (s : State) : Nat := if s.isRoot then 0 else s.crier.depth
def State.ownDeep (s : State) : Bool := !s.isRoot && s.crier.deep

/-- The chronicle offset: zero at the root (R321). -/
def State.ownOfs (s : State) : Rat := if s.isRoot then 0 else s.crier.ofs

/-- The accumulated latency in mites (R320). -/
def State.accumMites (s : State) : Rat :=
  if s.isRoot then deviceLatency else s.crier.accumIn * 4 + s.crier.hop / 16 + deviceLatency

/-- The same in units of 4 mites (DESIGN CHOICE, log entry 22 on its rounding). -/
def State.accumUnits (s : State) : Nat := (openRound (s.accumMites / 4) % (2 ^ 24 : Nat)).toNat

/-- LEAD_SHORT follows the accumulated latency and the lead; its setting counts toll 238 and raises attention at level
warning (R329). -/
def State.judgeLead (s : State) : State :=
  let short := decide (((32 * s.leadTicks : Nat) : Rat) < s.accumMites)
  let s1 := s.modCrier fun c => { c with leadShort := short }
  if short && !s.crier.leadShort then (s1.toll 238).attention 2 else s1

/-- A port leaves UP: toll 233, and its queues are discarded with toll 236 for each pair (R316, R330). -/
def State.leaveUp (s : State) (p : Fin 4) : State :=
  let q := s.crier.ports[p]
  if q.state != .up then s
  else
    let s1 := (s.toll 233).modPortC p fun q => { q with forwarded := [], launches := [], cries := [] }
    let n := q.forwarded.length + q.launches.length + q.cries.length
    if n = 0 then s1 else s1.toll 236 n

/-- A port goes to DOWN or OFF: what was under way on its line is over. -/
def State.dropPort (s : State) (p : Fin 4) (next : PortState) : State :=
  let s1 := (s.leaveUp p).modPortC p fun q => { q with
    state := next, prxok := false, miswire := false, ring := false, discards := [], replies := [], request := none }
  if p = 0 then s1.modCrier fun c => { c with
    asked := none, samples := [], rejected := 0, remean := false, fields := [], seen0 := false, seen2 := false, tst := 0 }
  else s1

/-- START of CRIER: each enabled port goes to DOWN (R316); the device may have become the root (R329). -/
def State.startCrier (s : State) : State :=
  ((List.finRange 4).foldl (fun s p =>
    if (s.val F.CRY_CTRL_PEN).testBit p.val then s.modPortC p fun q => { q with state := .down } else s) s).judgeLead

/-- STOP of CRIER: every port goes to OFF, and every armed entry is discarded without a toll (R316, R328). -/
def State.stopCrier (s : State) : State :=
  ((List.finRange 4).foldl (fun s p => s.dropPort p .off) s).modCrier fun c =>
    { c with table := Vector.replicate 16 none }

/-- The receiver of a port follows its line: SYNC, RANGING or UP (R317, RXOK). -/
def PortState.synced (p : PortState) : Bool := p == .sync || p == .ranging || p == .up

/-- `n` frames received on port `p` are discarded: toll 232 once (R314). -/
def State.discardFrames (s : State) (p : Fin 4) (n : Nat) : State :=
  (s.modPortC p fun q => { q with
    errs := (q.errs + n) % 2 ^ 16, discards := (List.replicate n s.now ++ q.discards).take 16 }).toll 232

/-- A single frame that port `p` receives: discarded, or handed to `act` if it is of the given type (R314). -/
def State.receiveFrame (s : State) (p : Fin 4) (type : Nat) (f : CrierFrame) (act : State → State) : State :=
  if !(s.portState p).synced then s
  else if !f.good then s.discardFrames p 1
  else if frameType f.w = type then act s else s

/-- CRIER_PORT_SYNC (R316): a port in DOWN enters SYNC; CP0 goes on to RANGING. -/
def portSync (p : Fin 4) (s : State) : State :=
  if s.portState p != .down then s
  else if p = 0 then
    (s.modPortC p fun q => { q with state := .ranging }).modCrier fun c => { c with samples := [], asked := none }
  else s.modPortC p fun q => { q with state := .sync }

/-- CRIER_PORT_SYNC. -/
def execCrierPortSync (p : Fin 4) (s : State) : Result := .next (portSync p s)

/-- Port `p` comes UP. -/
def State.portUp (s : State) (p : Fin 4) : State :=
  let s1 := s.modPortC p fun q => { q with state := .up }
  if p = 0 then s1.modCrier fun c => { c with
    fresh := true, rejected := 0, remean := false, samples := [], askAt := s.now + cycleMites * s.val F.CRY_DELAY_PER }
  else s1

/-- The path of a device below a sender: the sender's, with its port at the sender's hop (R317). -/
def pathBelow (path depth port : Nat) : Nat := if depth < 8 then path % 4 ^ depth + port * 4 ^ depth else path

/-- An IDLE frame on CP0 gives this device its path and depth (R311, R317). -/
def State.takePlace (s : State) (w : Quad) : State :=
  let depth := frameBits w 24 16
  s.modCrier fun c => { c with
    path := pathBelow (frameBits w 40 16) depth (frameBits w 59 2)
    depth := min 65535 (depth + 1), deep := decide (8 < depth + 1) }

/-- What a good IDLE frame does (R312, R316). -/
def State.takeIdle (s : State) (p : Fin 4) (w : Quad) : State :=
  let q := s.crier.ports[p]
  let port := frameBits w 59 2
  let wrong := if p = 0 then port == 0 else port != 0
  let ring := p = 0 && frameBits w 24 16 == 65535
  let s1 := (s.modPortC p fun q => { q with
      prxok := frameBits w 58 1 == 1, miswire := q.miswire || wrong, ring := q.ring || ring }).tollIf
    ((wrong && !q.miswire) || (ring && !q.ring)) 234
  let s2 := if p = 0 && !wrong then s1.takePlace w else s1
  let q2 := s2.crier.ports[p]
  if q2.state == .sync && q2.prxok && !q2.miswire && !q2.ring then s2.portUp p else s2

/-- IDLE_FRAME (R312, R316). -/
def idleFrame (p : Fin 4) (f : CrierFrame) (s : State) : State :=
  s.receiveFrame p frameIdle f fun s => s.takeIdle p f.w

/-- IDLE_FRAME. -/
def execIdleFrame (p : Fin 4) (f : CrierFrame) (s : State) : Result := .next (idleFrame p f s)

/-- The number nearest `x` among those congruent to `v` modulo `m`. -/
def nearestMod (m : Nat) (v x : Int) : Int := v + m * ((x - v + (m / 2 : Nat)) / (m : Int))

/-- The receiver's position after a TALLY frame: grain wraps count turns, and PH 0 and PH 2 give the turns outright
(R322). -/
def Crier.rebuilt (c : Crier) (w : Quad) : Int :=
  let ph := frameBits w 58 3
  let field := frameBits w 0 24
  let pos := nearestMod (2 ^ 32) (frameBits w 24 32) c.rxPos
  let turns := (pos / (2 ^ 32 : Nat)) % (2 ^ 32 : Nat)
  let grains := pos % (2 ^ 32 : Nat)
  if ph = 0 then (turns - turns % (2 ^ 24 : Nat) + field) * (2 ^ 32 : Nat) + grains
  else if ph = 2 then (turns % (2 ^ 24 : Nat) + (field / 2 ^ 16 : Nat) * (2 ^ 24 : Nat)) * (2 ^ 32 : Nat) + grains
  else pos

/-- The root chronicle of a cycle's PH 0, in mites with its fraction, from the FIELDs of PH 2, 3, 4 and 6 (R318). -/
def rootChron (f2 f3 f4 f6 : Nat) : Rat :=
  ((f2 % 256 + f3 * 2 ^ 8 + f4 * 2 ^ 32 + f6 * 2 ^ 56 : Nat) : Rat) + ((f2 / 256 % 256 : Nat) : Rat) / 256

/-- The difference `a - b` of two 80-bit counts with fractions, taken modulo 2^80 and signed. -/
def diff80 (a b : Rat) : Rat :=
  let m : Rat := (2 ^ 80 : Nat)
  let d := a - b
  d - m * ((d / m + 1 / 2).floor : Rat)

/-- The offset of a complete cycle updates CRY_OFS, or loads it whole after a link has come UP (R321). -/
def Crier.updateOfs (c : Crier) : Crier :=
  match c.fields.lookup 0, c.fields.lookup 2, c.fields.lookup 3, c.fields.lookup 4, c.fields.lookup 6 with
  | some _, some f2, some f3, some f4, some f6 =>
    let sample := diff80 (rootChron f2 f3 f4 f6) (((c.ph0 : Rat) - c.hop) / 16)
    if c.fresh then { c with ofs := sample, fresh := false } else { c with ofs := c.ofs + diff80 sample c.ofs / 16 }
  | _, _, _, _, _ => c

/-- The arrival of PH 0 of the cycle that a TALLY frame belongs to, as its own arrival and its PH give it, in sixteenths (R322). -/
def cycleArrival (f : CrierFrame) : Int := (f.arrival : Int) - 16 * cycleMites * frameBits f.w 58 3

/-- A TALLY frame belongs to the cycle whose frames have been received last: their cycles begin less than half a cycle apart. -/
def Crier.sameCycle (c : Crier) (f : CrierFrame) : Bool := (cycleArrival f - c.cycleAt).natAbs < 8 * tallyCycleMites

/-- What a good TALLY frame does on CP0, UP (R318, R321, R322, R325). It gives no measurement before the first PH 0 and the
PH 2 after it, with which the position is rebuilt (R38). DEDUCED (log entry 28). -/
def State.takeTally (s : State) (f : CrierFrame) : State :=
  let w := f.w
  let ph := frameBits w 58 3
  let tst := frameBits w 56 2
  let field := frameBits w 0 24
  let s1 := s.modCrier fun c => { c with
    fields := (if c.sameCycle f then c.fields.filter fun x => x.1 != ph else []) ++ [(ph, field)], cycleAt := cycleArrival f
    ph0 := if ph = 0 then f.arrival else c.ph0
    rxPos := c.rebuilt w, seen0 := c.seen0 || ph == 0, seen2 := c.seen2 || (c.seen0 && ph == 2)
    tst := tst, lastFrame := some s.now }
  let s2 := if ph = 6 && !s.isRoot then s1.modCrier Crier.updateOfs else s1
  let s3 := if ph = 7 && !s.isRoot then (s2.modCrier fun c => { c with lead := field % 2 ^ 20 }).judgeLead else s2
  if (tst = 0 || tst = 1) && s3.crier.seen0 && s3.crier.seen2 then
    let pos := nearestMod (2 ^ 64) s3.crier.rxPos (s3.tally.pos.floor / 65536)
    s3.crierMeas (pos * 65536) (((f.arrival : Rat) - s3.crier.hop) / 16)
  else s3

/-- What a port holds, and for CP0 what its receiver has under way, as it was before a loss of its line. -/
def Crier.lineAsIn (c old : Crier) : Crier :=
  { c with
    ports := c.ports.set 0 old.ports[(0 : Fin 4)], asked := old.asked, samples := old.samples, rejected := old.rejected
    remean := old.remean, fields := old.fields, cycleAt := old.cycleAt, seen0 := old.seen0, seen2 := old.seen2, tst := old.tst }

/-- A good TALLY frame wins over a loss of CP0's line in the same tick: the port is UP again, and the loss counts nothing (Crier
coincidences). -/
def State.undoLoss (s : State) (p : Fin 4) (f : CrierFrame) : State :=
  match s.ev.linkLost with
  | some (old, n) =>
    if p = 0 && f.good && frameType f.w == frameTally && (old.ports[(0 : Fin 4)]).state == .up then
      let t := (s.modCrier fun c => c.lineAsIn old).untollAll (233 :: List.replicate n 236)
      { t with ev := { t.ev with linkLost := none } }
    else s
  | none => s

/-- TALLY_FRAME (R318, R322): acted on by CP0 while it is UP. -/
def tallyFrame (p : Fin 4) (f : CrierFrame) (s : State) : State :=
  (s.undoLoss p f).receiveFrame p frameTally f fun s => if p = 0 && s.portState 0 == .up then s.takeTally f else s

/-- TALLY_FRAME. -/
def execTallyFrame (p : Fin 4) (f : CrierFrame) (s : State) : Result := .next (tallyFrame p f s)

/-- Received frames carry TST 0b01 and the tally follows them: the samples of this time carry COAST (R322). -/
def State.crierCoast (s : State) : Bool :=
  s.portState 0 == .up && s.crier.tst == 1 && s.tally.mode != .stopped && s.portMode s.tally.active == 6

/-- Pairs a port may hold: forwarded, and originated (R330). -/
def forwardLimit : Nat := 4
def originLimit : Nat := 16

/-- A pair to forward waits on port `p`, or is dropped with toll 236 (R330). -/
def State.queueForward (s : State) (p : Fin 4) (pair : Quad × Quad) : State :=
  if (s.crier.ports[p]).forwarded.length < forwardLimit then
    s.modPortC p fun q => { q with forwarded := q.forwarded ++ [pair] }
  else s.toll 236

/-- A pair received on port `p` is forwarded on every other port that is UP (R311). -/
def State.forwardPair (s : State) (p : Fin 4) (pair : Quad × Quad) : State :=
  (List.finRange 4).foldl (fun s q => if q != p && s.portState q == .up then s.queueForward q pair else s) s

/-- A pair originated here waits on port `p`, or is dropped with toll 236 (R330). -/
def State.queueOwn (s : State) (p : Fin 4) (launch : Bool) (pair : Quad × Quad) : State :=
  let q := s.crier.ports[p]
  if q.launches.length + q.cries.length < originLimit then
    s.modPortC p fun q =>
      if launch then { q with launches := q.launches ++ [pair] } else { q with cries := q.cries ++ [pair] }
  else s.toll 236

/-- A pair originated here is sent on every port that is UP (R311). -/
def State.originate (s : State) (launch : Bool) (pair : Quad × Quad) : State :=
  (List.finRange 4).foldl (fun s p => if s.portState p == .up then s.queueOwn p launch pair else s) s

/-- A pair that port `p` receives: both discarded if either is, else acted on while the port is UP (R314, R316). -/
def State.receivePair (s : State) (p : Fin 4) (ta tb : Nat) (a b : CrierFrame) (act : State → State) : State :=
  if !(s.portState p).synced then s
  else if !a.good || !b.good then s.discardFrames p 2
  else if frameType a.w = ta && frameType b.w = tb && s.portState p == .up then act s else s

/-- CRY_PAIR (R324): the cry is registered and the pair forwarded. -/
def cryPair (p : Fin 4) (a b : CrierFrame) (s : State) : State :=
  s.receivePair p frameCryA frameCryB a b fun s => (s.receiveCry (frameBits a.w 56 4)).forwardPair p (a.w, b.w)

/-- CRY_PAIR. -/
def execCryPair (p : Fin 4) (a b : CrierFrame) (s : State) : Result := .next (cryPair p a b s)

/-- A frame of the given type with its fields, each a place and a value. -/
def mkFrame (type : Nat) (fields : List (Nat × Nat)) : Quad :=
  BitVec.ofNat 64 (fields.foldl (fun a f => a + f.2 * 2 ^ f.1) (type * 2 ^ 61))

/-- The low `n` bits of an integer in two's complement. -/
def lowIntBits (n : Nat) (i : Int) : Nat := (i % (2 ^ n : Nat)).toNat

/-- The CRY pair of a Bell's CRY action (R317, R324): channel, and the entry instant's root chronicle and position, rounded
as R160 says. -/
def State.mkCry (s : State) (ch : Nat) (chron pos : Rat) : Quad × Quad :=
  let c := (chron + s.ownOfs + 1 / 2).floor
  let g := (pos + 1 / 2).floor
  (mkFrame frameCryA [(60, s.ownDeep.toNat), (56, ch % 16), (40, s.ownPath), (0, lowIntBits 40 c)],
   mkFrame frameCryB [(24, lowIntBits 32 g), (0, lowIntBits 24 (g / (2 ^ 32 : Nat)))])

/-- A Bell's CRY action (R324): the pair is sent, and the device registers its own cry at once. -/
def State.cryOut (s : State) (ch : Nat) (chron pos : Rat) : State :=
  if s.running fnCrier then (s.originate false (s.mkCry ch chron pos)).receiveCry ch else s

/-- A decision's effect with its CRY (R165, R324). -/
def State.settleDecision (s : State) (n : Fin 16) (d : Decision) : State :=
  match d with
  | .cry ch c p => s.cryOut ch c p
  | d => s.applyDecision n d

/-- The decision at the head of stall `n`'s list takes effect if its tick has come (R165). -/
def State.nextDecision (s : State) (n : Fin 16) : State :=
  match (s.bell n).decisions with
  | (due, d) :: ds => if s.reached due then (s.modBell n fun b => { b with decisions := ds }).settleDecision n d else s
  | [] => s

/-- BELL_DECISION (R165). -/
def execBellDecision (n : Fin 16) (s : State) : Result := .next (s.nextDecision n)

/-- Target of a LAUNCH pair, its direction and its base, extended to this device's time (R327): a tally target to the value
nearest the present position, a chronicle target to the root chronicle nearest the present one and then to local time. -/
def State.extendTarget (s : State) (a b : Quad) : Arming :=
  let v : Int := frameBits b 0 56
  let base := frameBits a 59 1 == 1
  let t : Int := if base then
      openRound ((nearestMod (2 ^ 56) v (s.now + s.ownOfs).floor : Int) - s.ownOfs)
    else nearestMod (2 ^ 56) v (s.tally.pos.floor / 65536)
  { target := BitVec.ofInt 64 t, dir := frameBits a 57 2, chron := base }

/-- The lowest free entry of the receive table (R327). -/
def Crier.freeEntry (c : Crier) : Option (Fin 16) := (List.finRange 16).find? fun e => (c.table[e]).isNone

/-- A LAUNCH pair addressed to this device arms the lowest free entry, or is dropped with toll 236 (R327). A chronicle target
further in the past than TLY_LATE_MITES arms nothing, so that nothing fires, and counts toll 8 (R55). -/
def State.armEntry (s : State) (a b : Quad) : State :=
  match s.crier.freeEntry with
  | none => s.toll 236
  | some e =>
    let arm := s.extendTarget a b
    if arm.chron && decide ((s.val F.TLY_LATE_MITES_MSPAN : Int) < s.targetAge arm.target) then s.toll 8
    else s.modCrier fun c => { c with table := c.table.set e.val (some {
      slot := { arming := some arm }, act := frameBits a 36 4, stall := Fin.ofNat 16 (frameBits a 32 4)
      pin := Fin.ofNat 4 (frameBits a 30 2), yard := Fin.ofNat 8 (frameBits a 27 3) }) e.isLt }

/-- A LAUNCH pair is addressed to this device (R327). -/
def State.addressed (s : State) (a : Quad) : Bool :=
  frameBits a 60 1 == 1 || (!s.ownDeep && frameBits a 40 16 == s.ownPath)

/-- LAUNCH_PAIR (R327). -/
def launchPair (p : Fin 4) (a b : CrierFrame) (s : State) : State :=
  s.receivePair p frameLaunchA frameLaunchB a b fun s =>
    (if s.addressed a.w then s.armEntry a.w b.w else s).forwardPair p (a.w, b.w)

/-- LAUNCH_PAIR. -/
def execLaunchPair (p : Fin 4) (a b : CrierFrame) (s : State) : Result := .next (launchPair p a b s)

/-- The LAUNCH pair of a launch slot's CRY action (R326): the template's words, the crossing instant, and the crossing
position in grains. -/
def State.mkLaunch (s : State) (ta tb : Word) (instant : Nat) (pos : Int) : Quad × Quad :=
  let lost := s.tally.mode == .lost || s.tally.mode == .reacquiring || s.tally.mode == .stopped
  let base := F.CRY_LT_A_BASE.get ta == 1 || lost
  let lead := s.leadTicks
  let target : Int := if base then openRound ((instant + 32 * lead : Nat) + s.ownOfs)
    else pos + roundAway ((s.tally.bs : Rat) * lead / (65536 * s.tickStep))
  (mkFrame frameLaunchA [(60, F.CRY_LT_A_BCAST.get ta), (59, base.toNat), (57, F.CRY_LT_A_DIR.get ta),
     (40, F.CRY_LT_A_PATH.get ta), (36, F.CRY_LT_B_ACT.get tb), (32, F.CRY_LT_B_STALL.get tb),
     (30, F.CRY_LT_B_PIN.get tb), (27, F.CRY_LT_B_YARD.get tb), (11, s.ownPath)],
   mkFrame frameLaunchB [(0, lowIntBits 56 target)])

/-- A launch slot's CRY action, in the tick after the crossing tick (R56, R326). -/
def State.launchOut (s : State) (act : Action) : State :=
  match act.cry with
  | none => s
  | some (ta, tb, at_) =>
    if !s.running fnCrier then s
    else
      let pos := at_.getD (s.tally.posAt s.tickLen ((act.instant : Int) - s.tally.bchron))
      let pair := s.mkLaunch ta tb act.instant pos
      let s1 := s.originate true pair
      if F.CRY_LT_A_SELF.get ta = 1 then s1.armEntry pair.1 pair.2 else s1

/-- The actions of entry `e` (R327): those of ACT, as under R56. -/
def RxEntry.action (r : RxEntry) (e : Fin 16) (c : Crossed) (due : Nat) : Action :=
  { instant := c.instant, due := due, late := c.late.isSome, unit := 64 + e.val
    bell := if r.act.testBit 0 then some r.stall else none
    start := if r.act.testBit 1 then some r.stall else none
    tout := if r.act.testBit 2 then some r.pin else none
    snap := if r.act.testBit 3 then some r.yard else none }

/-- Entry `e` of the receive table set. -/
def State.setEntry (s : State) (e : Fin 16) (r : Option RxEntry) : State :=
  s.modCrier fun c => { c with table := c.table.set e.val r e.isLt }

/-- Entry `e` fires and is freed (R327): a LATE firing counts toll 237. -/
def State.fireEntry (s : State) (e : Fin 16) (r : RxEntry) (c : Crossed) : State :=
  let s1 := { s.setEntry e none with acts := s.acts ++ [r.action e c (s.now + s.tickLen)] }
  match c.late with
  | some l => (s1.toll 237).logLate r.slot.latched.chron (64 + e.val) 237 l
  | none => s1

/-- Entry `e` fires if its target is crossed in the present tick. -/
def State.fireEntryIfCrossed (s : State) (t : Tally) (e : Fin 16) : State :=
  match s.crier.table[e] with
  | none => s
  | some r => match s.slotHit t r.slot with
    | some c => s.fireEntry e r c
    | none => s

/-- CRIER_ENTRY_FIRE (R327). -/
def entryFire (e : Fin 16) (s : State) : State := s.fireEntryIfCrossed s.tallyClose.tally e

/-- CRIER_ENTRY_FIRE. -/
def execCrierEntryFire (e : Fin 16) (s : State) : Result := .next (entryFire e s)

/-- The receive table's part in closing a tick. -/
def State.closeEntries (s : State) : State :=
  let t := s.tally
  let s1 := (List.finRange 16).foldl (fun s e => s.fireEntryIfCrossed t e) s
  s1.modCrier fun c => { c with table := c.table.map fun r => r.map fun r => { r with slot := r.slot.evaluated t s.tickLen } }

/-- The receive table's part in opening a tick. -/
def State.openEntries (s : State) : State :=
  (List.finRange 16).foldl (fun s e =>
    match s.crier.table[e] with
    | none => s
    | some r =>
      let (sl, c) := s.slotOpen r.slot
      match c with
      | some c => s.fireEntry e { r with slot := sl } c
      | none => s.setEntry e (some { r with slot := sl })) s

/-- DELAY_REQUEST (R319): a response waits for its slot. -/
def delayRequest (p : Fin 4) (f : CrierFrame) (s : State) : State :=
  s.receiveFrame p frameDelay f fun s =>
    if frameBits f.w 60 1 = 1 then s
    else s.modPortC p fun q => { q with replies := q.replies ++ [(frameBits f.w 48 8, f.arrival)] }

/-- DELAY_REQUEST. -/
def execDelayRequest (p : Fin 4) (f : CrierFrame) (s : State) : Result := .next (delayRequest p f s)

/-- The mean of hop-delay samples. -/
def meanOf (l : List Rat) : Rat := l.sum / l.length

/-- Samples that a mean takes, and the discards in a row after which one replaces CRY_HOP (R316, R319). -/
def hopSamples : Nat := 16

/-- A hop-delay sample, in sixteenths (R316, R319). DEDUCED (log entry 28). -/
def State.hopSample (s : State) (d : Rat) : State :=
  let c := s.crier
  if s.portState 0 == .ranging || c.remean then
    let l := c.samples ++ [d]
    if l.length < hopSamples then s.modCrier fun c => { c with samples := l }
    else
      let s1 := (s.modCrier fun c => { c with hop := meanOf l, samples := [], remean := false, rejected := 0 }).judgeLead
      let q := s.crier.ports[(0 : Fin 4)]
      if q.state == .ranging && !q.miswire && !q.ring then s1.portUp 0 else s1
  else if (s.val F.CRY_DELAY_TOL : Rat) < ratAbs (d - c.hop) then
    (s.modCrier fun c => { c with rejected := c.rejected + 1, remean := decide (hopSamples ≤ c.rejected + 1) }).toll 235
  else (s.modCrier fun c => { c with hop := c.hop + (d - c.hop) / 16, rejected := 0 }).judgeLead

/-- The sample that a response to a request which left at `d1` gives (R319, R320). -/
def State.useResponse (s : State) (f : CrierFrame) (d1 : Nat) : State :=
  let d : Rat := ((f.arrival : Rat) - d1 - frameBits f.w 24 24) / 2 + signed 16 (s.val F.CRY_ASYM_ASYM)
  ((s.modCrier fun c => { c with accumIn := frameBits f.w 0 24 }).judgeLead).hopSample d

/-- A request of CP0 that a response answers. -/
def answered (f : CrierFrame) (r : Option (Nat × Nat)) : Option Nat := (r.filter fun x => x.1 == frameBits f.w 48 8).map (·.2)

/-- What a good DELAY response to the request outstanding gives (R319, R320), or to one whose wait has run out in the same tick: then
toll 239 is taken back (00_scope, wording). -/
def State.takeResponse (s : State) (f : CrierFrame) : State :=
  match answered f s.crier.asked, answered f s.ev.unanswered with
  | some d1, _ => (s.modCrier fun c => { c with asked := none }).useResponse f d1
  | none, some d1 => ({ s with ev := { s.ev with unanswered := none } }.untoll 239).useResponse f d1
  | none, none => s

/-- DELAY_RESPONSE (R319): a response to the request outstanding on CP0. -/
def delayResponse (p : Fin 4) (f : CrierFrame) (s : State) : State :=
  s.receiveFrame p frameDelay f fun s => if p = 0 && frameBits f.w 60 1 = 1 then s.takeResponse f else s

/-- DELAY_RESPONSE. -/
def execDelayResponse (p : Fin 4) (f : CrierFrame) (s : State) : Result := .next (delayResponse p f s)

/-- DELAY_REQUEST_DUE (R319): in RANGING as soon as none is outstanding, in UP every CRY_DELAY.PER cycles. -/
def delayDue (s : State) : State :=
  let c := s.crier
  let free := c.asked.isNone && (c.ports[(0 : Fin 4)]).request.isNone
  let due := s.portState 0 == .ranging || (s.portState 0 == .up && s.reached c.askAt)
  if free && due then
    (s.modPortC 0 fun q => { q with request := some c.seq }).modCrier fun c => { c with
      seq := (c.seq + 1) % 256
      askAt := if s.portState 0 == .up then c.askAt + cycleMites * s.val F.CRY_DELAY_PER else c.askAt }
  else s

/-- DELAY_REQUEST_DUE. -/
def execDelayRequestDue (s : State) : Result := .next (delayDue s)

/-- DELAY_UNANSWERED (R319): 16 cycles without an answer. -/
def delayUnanswered (s : State) : State :=
  match s.crier.asked with
  | some (seq, d1) =>
    if s.reached (d1 / 16 + 16 * cycleMites) then
      { (s.modCrier fun c => { c with asked := none }).toll 239 with ev := { s.ev with unanswered := some (seq, d1) } }
    else s
  | none => s

/-- DELAY_UNANSWERED. -/
def execDelayUnanswered (s : State) : Result := .next (delayUnanswered s)

/-- 16 frames have been discarded within 64 consecutive cycles (R316). -/
def State.tooManyDiscards (s : State) (p : Fin 4) : Bool :=
  let l := (s.crier.ports[p]).discards
  l.length == 16 && l.all fun t => decide (s.now < t + 64 * cycleMites)

/-- CRIER_LINK_LOSS (R316): no comma for 4 cycles (`commas` false), or 16 discards within 64 cycles. A TALLY frame in the same
tick keeps CP0 UP (Crier coincidences). -/
def linkLoss (p : Fin 4) (commas : Bool) (s : State) : State :=
  if !(s.portState p).synced then s
  else if p = 0 && s.crier.lastFrame == some s.now then s
  else if commas && !s.tooManyDiscards p then s
  else
    let q := s.crier.ports[p]
    let n := if q.state == .up then q.forwarded.length + q.launches.length + q.cries.length else 0
    let t := s.dropPort p .down
    if p = 0 then { t with ev := { t.ev with linkLost := some (s.crier, n) } } else t

/-- CRIER_LINK_LOSS. -/
def execCrierLinkLoss (p : Fin 4) (commas : Bool) (s : State) : Result := .next (linkLoss p commas s)

/-- The chronicle at which a cycle begins in the present tick: a multiple of 2,048 mites (R322). -/
def State.cycleStart (s : State) : Option Nat :=
  let c := (s.now + cycleMites - 1) / cycleMites * cycleMites
  if s.reached c then some c else none

/-- TST of a TALLY frame (R317). -/
def tstCode : TallyMode → Nat
  | .tracking => 0 | .still => 0 | .coasting => 1 | .lost => 2 | .reacquiring => 2 | .stopped => 3

/-- The root chronicle of a local instant, modulo 2^80 (R321). -/
def State.rootOf (s : State) (c : Nat) : Rat :=
  let m : Rat := (2 ^ 80 : Nat)
  let x := (c : Rat) + s.ownOfs
  x - m * ((x / m).floor : Rat)

/-- A speed in 1/64 grain per tick as an integer (R318, whose example takes 35,184.37 to 0x8970): where the integer below is also the
nearest one and the speed is not negative, that integer; else one of the two neighbours, for which no rounding is stated. DESIGN CHOICE
(log entry 22). -/
def speedUnits (x : Rat) : Int := if 0 ≤ x ∧ x - x.floor < 1 / 2 then x.floor else openRound x

/-- FIELD of a TALLY frame by PH (R318): the position in grains, the speed in sub-grains per tick, the root chronicle of
PH 0. -/
def State.tallyField (s : State) (ph : Nat) (pos : Int) (speed : Rat) : Nat :=
  let r : Nat := (openRound (s.crier.txRoot * 256)).toNat % 2 ^ 88
  let turns := lowIntBits 32 (pos / (2 ^ 32 : Nat))
  match ph with
  | 0 => turns % 2 ^ 24
  | 1 => lowIntBits 24 (satSigned 24 (speedUnits (speed / 1024)))
  | 5 => lowIntBits 24 (satSigned 24 (speedUnits (speed / 1024)))
  | 2 => turns / 2 ^ 24 * 2 ^ 16 + r % 2 ^ 8 * 2 ^ 8 + r / 2 ^ 8 % 2 ^ 8
  | 3 => r / 2 ^ 16 % 2 ^ 24
  | 4 => r / 2 ^ 40 % 2 ^ 24
  | 6 => r / 2 ^ 64 % 2 ^ 24
  | _ => s.crier.lead

/-- The TALLY frame of the cycle that begins at `c0` (R317, R318, R322). -/
def State.mkTally (s : State) (c0 : Nat) : Quad :=
  let t := s.tallyClose.tally
  let ph := c0 / cycleMites % 8
  let pos := t.posAt s.tickLen ((c0 : Int) - s.now)
  mkFrame frameTally [(58, ph), (56, tstCode t.mode), (24, lowIntBits 32 pos),
    (0, s.tallyField ph pos ((t.bs : Rat) / s.tickStep))]

/-- The IDLE frame of port `p` (R317). -/
def State.mkIdle (s : State) (p : Fin 4) : Quad :=
  mkFrame frameIdle [(59, p.val), (58, (s.portState p).synced.toNat), (57, s.isRoot.toNat), (40, s.ownPath),
    (24, s.ownDepth)]

/-- A cycle of port `p` may carry a DELAY frame: at most one in any 16 cycles (R315). -/
def CrierPort.mayDelay (q : CrierPort) (c0 : Nat) : Bool :=
  match q.delayAt with
  | some d => decide (d + 16 * cycleMites ≤ c0)
  | none => true

/-- Slots 1 and 2 of a cycle take a pair. -/
def State.sendPair (s : State) (p : Fin 4) (pair : Quad × Quad) : State :=
  s.modPortC p fun q => { q with sent := (q.sent.set 1 pair.1).set 2 pair.2 }

/-- Slot 1 of a cycle takes a DELAY frame and slot 2 IDLE. -/
def State.sendDelay (s : State) (p : Fin 4) (c0 : Nat) (w : Quad) : State :=
  s.modPortC p fun q => { q with delayAt := some c0, sent := (q.sent.set 1 w).set 2 (s.mkIdle p) }

/-- Departure of slot 1's comma, in sixteenths: symbol 10 of the cycle (R313). -/
def slot1Departure (c0 : Nat) : Nat := (c0 + 10 * 64) * 16

/-- Slots 1 and 2, in the order of R315. -/
def State.fillSlots (s : State) (p : Fin 4) (c0 : Nat) : State :=
  let q := s.crier.ports[p]
  match q.forwarded, q.launches, q.cries with
  | x :: l, _, _ => (s.modPortC p fun q => { q with forwarded := l }).sendPair p x
  | [], x :: l, _ => (s.modPortC p fun q => { q with launches := l }).sendPair p x
  | [], [], x :: l => (s.modPortC p fun q => { q with cries := l }).sendPair p x
  | [], [], [] =>
    match q.mayDelay c0, q.replies, q.request with
    | true, (seq, arrival) :: l, _ =>
      (s.modPortC p fun q => { q with replies := l }).sendDelay p c0 (mkFrame frameDelay
        [(60, 1), (48, seq), (24, (slot1Departure c0 - arrival) % 2 ^ 24), (0, s.accumUnits)])
    | true, [], some seq =>
      ((s.modPortC p fun q => { q with request := none }).modCrier fun c =>
        { c with asked := some (seq, slot1Departure c0) }).sendDelay p c0 (mkFrame frameDelay [(48, seq)])
    | _, _, _ => s.sendPair p (s.mkIdle p, s.mkIdle p)

/-- Slot 0: TALLY on CP1 to CP3, IDLE on CP0 (R315). The root puts its lead into force with PH 7 (R325). -/
def State.fillSlot0 (s : State) (p : Fin 4) (c0 : Nat) : State :=
  if p = 0 then s.modPortC p fun q => { q with sent := q.sent.set 0 (s.mkIdle p) }
  else
    let ph := c0 / cycleMites % 8
    let s1 := if ph = 0 then s.modCrier fun c => { c with txRoot := s.rootOf c0 } else s
    let s2 := if ph = 7 && s.isRoot then (s1.modCrier fun c => { c with lead := s.val F.CRY_LEAD_LEAD }).judgeLead else s1
    s2.modPortC p fun q => { q with sent := q.sent.set 0 (s2.mkTally c0) }

/-- CRIER_TRANSMIT_CYCLE (R315, R316, R322): a port transmits from DOWN onward; pairs leave it while it is UP. -/
def transmitCycle (p : Fin 4) (s : State) : State :=
  match s.cycleStart with
  | none => s
  | some c0 =>
    let q := s.crier.ports[p]
    if q.state == .off || q.cycleAt == some c0 then s
    else ((s.modPortC p fun q => { q with cycleAt := some c0 }).fillSlot0 p c0).fillSlots p c0

/-- CRIER_TRANSMIT_CYCLE. -/
def execCrierTransmitCycle (p : Fin 4) (s : State) : Result := .next (transmitCycle p s)

/-- CRY_OFS as it is read: 80 bits of mites and 8 of fraction. -/
def State.ofsWord (s : State) : Nat := lowIntBits 88 (openRound (s.ownOfs * 256))

/-- CRY_OFS_READ (R58, R321): a read of CRY_OFS_LO latches the other three. -/
def cryOfsRead (s : State) : State :=
  s.modCrier fun c => { c with
    ofsHi := BitVec.ofNat 32 (s.ofsWord / 2 ^ 40), ofsEra := BitVec.ofNat 32 (s.ofsWord / 2 ^ 72)
    ofsFr := BitVec.ofNat 32 (s.ofsWord % 2 ^ 8) }

/-- CRY_OFS_READ. -/
def execCryOfsRead (s : State) : Result := .next ((cryOfsRead s).answer .ok)

/-- CRY_PORTk. -/
def State.portWord (s : State) (p : Fin 4) : Word :=
  let q := s.crier.ports[p]
  F.CRY_PORT_STATE.put q.state.code ||| F.CRY_PORT_PRXOK.put q.prxok.toNat ||| F.CRY_PORT_MISWIRE.put q.miswire.toNat |||
  F.CRY_PORT_RING.put q.ring.toNat ||| F.CRY_PORT_ERRS.put q.errs

/-- CRY_ACCUM. -/
def State.accumWord (s : State) : Word :=
  F.CRY_ACCUM_ACCUM.put s.accumUnits ||| F.CRY_ACCUM_LEAD_SHORT.put s.crier.leadShort.toNat

/-- CRY_ID. -/
def State.cryIdWord (s : State) : Word :=
  F.CRY_ID_PATH.put s.ownPath ||| F.CRY_ID_DEEP.put s.ownDeep.toNat |||
  F.CRY_ID_IS_ROOT.put (s.running fnCrier && s.isRoot).toNat

/-- CRY_RXL: the entries armed. -/
def State.rxlWord (s : State) : Word :=
  BitVec.ofNat 32 (((List.finRange 16).filter fun e => match s.crier.table[e] with
    | some r => r.slot.armed
    | none => false).foldl (fun a e => a + 2 ^ e.val) 0)

end Sys2Proof.Machine
end

