-- ==== Sys2Proof/Machine/Mem.lean ====
section
/-! DEFINITION. Byte memories: Hall, record memory and flash are held as maps with a default byte. -/

namespace Sys2Proof.Machine

/-- What a byte of Hall and of record memory reads as before it is written (R283 for record memory; DESIGN CHOICE, log entry 13). -/
def ramFill : Nat → Byte := fun _ => 0

/-- A byte memory is in canonical form: addresses strictly rising, no entry equal to what an unlisted address reads as. -/
def Memory.wf (m : List Host.Cell) : Bool := Sparse.wf ramFill m

/-- One byte of a memory. -/
def memByte (m : List Host.Cell) (a : Nat) : Byte := Sparse.get ramFill m a

/-- `n` bytes from address `a`. -/
def memBytes (m : List Host.Cell) (a n : Nat) : List Byte := (List.range n).map fun i => memByte m (a + i)

/-- Bytes written from address `a` on. -/
def memWrite : List Host.Cell → Nat → List Byte → List Host.Cell
  | m, _, [] => m
  | m, a, b :: bs => memWrite (Sparse.set ramFill m a b) (a + 1) bs

/-- A number's `n` low bytes, little-endian (R6). -/
def leBytes (n v : Nat) : List Byte := (List.range n).map fun i => BitVec.ofNat 8 (v / 256 ^ i)

/-- The number that little-endian bytes make. -/
def ofLeBytes : List Byte → Nat
  | [] => 0
  | b :: bs => b.toNat + 256 * ofLeBytes bs

/-- A number of `n` bytes read from memory. -/
def memNat (m : List Host.Cell) (a n : Nat) : Nat := ofLeBytes (memBytes m a n)

/-- A signed number's low `n` bytes. -/
def leSigned (n : Nat) (v : Int) : List Byte := leBytes n (v % (256 ^ n : Nat)).toNat

/-- The units of `size` bytes that a stretch of `n` bytes from `a` touches, by number. -/
def unitsOf (size a n : Nat) : List Nat :=
  if n = 0 then [] else (List.range ((a + n - 1) / size - a / size + 1)).map (· + a / size)

/-- Bytes of Hall written by whole halves: the halves written whole are free of errors (R250). -/
def Hall.write (h : Hall) (a : Nat) (bs : List Byte) : Hall :=
  { h with
    mem := memWrite h.mem a bs, bad := h.bad.filter fun x => !(unitsOf 8 a bs.length).contains x
    latent := h.latent.filter fun x => !(unitsOf 8 a bs.length).contains x.1 }

/-- Bytes of record memory written: the codewords written are free of errors (R288). -/
def Dram.write (d : Dram) (a : Nat) (bs : List Byte) : Dram :=
  { d with mem := memWrite d.mem a bs, bad := d.bad.filter fun x => !(unitsOf 8 a bs.length).contains x }

/-- Bytes are written to Hall. -/
def State.hallWrite (s : State) (a : Nat) (bs : List Byte) : State := { s with hall := s.hall.write a bs }

/-- Bytes are written to record memory. -/
def State.dramWrite (s : State) (a : Nat) (bs : List Byte) : State := { s with dram := s.dram.write a bs }

end Sys2Proof.Machine
end

