-- ==== Sys2Proof/Machine/Hall.lean ====
section
/-! DEFINITION. Hall (chapter 12): regions, the accesses of a bank, ECC and scrub, the arbiters, freezes. -/

namespace Sys2Proof.Machine

/-- Hall's size in bytes (R246). -/
def hallSize : Nat := 2 ^ 27

/-- A region descriptor in force: base and size in bytes, KIND, OWNER (R252). -/
structure Region where
  base : Nat
  size : Nat
  kind : Nat
  owner : Nat
deriving DecidableEq, Repr

/-- Region descriptor `d`. -/
def State.region (s : State) (d : Nat) : Region :=
  { base := s.val F.HAL_RGN_BASE_BASE d * 4096, size := s.val F.HAL_RGN_CFG_SIZE d * 4096
    kind := s.val F.HAL_RGN_CFG_KIND d, owner := s.val F.HAL_RGN_CFG_OWNER d }

/-- A used descriptor holds the byte address. -/
def Region.holds (r : Region) (a : Nat) : Bool := r.kind != 0 && decide (r.base ≤ a) && decide (a < r.base + r.size)

/-- Two regions overlap. -/
def Region.overlaps (r q : Region) : Bool := decide (r.base < q.base + q.size) && decide (q.base < r.base + r.size)

/-- The maps with map `k` changed. -/
def State.modYard (s : State) (k : Fin 8) (f : Yard → Yard) : State := { s with yards := updAt s.yards k f }

/-- COLS and ROWS of a map (R231). -/
def State.mapCols (s : State) (k : Fin 8) : Nat := s.val F.YRD_GEOM_COLS k
def State.mapRows (s : State) (k : Fin 8) : Nat := 64 * s.val F.YRD_GEOM_RSEL k

/-- Bytes of a map. -/
def State.mapBytes (s : State) (k : Fin 8) : Nat := 4 * s.mapCols k * s.mapRows k

/-- Hall addresses of the map and of its snapshot. -/
def State.mapBase (s : State) (k : Fin 8) : Nat := (s.region (s.val F.YRD_REGION_MAP k)).base
def State.snapBase (s : State) (k : Fin 8) : Nat := (s.region (s.val F.YRD_REGION_SNAPR k)).base

/-- A port may access a region (R253). -/
def State.portMay (s : State) (port d : Nat) : Bool :=
  let r := s.region d
  match r.kind with
  | 0 => false
  | 1 => (port < 16 && r.owner == port) || port == 18 || port == 20 || port == 21
  | 2 => port == 16 || port == 17 || port == 21
  | 3 => port == 17 || port == 19 || port == 21
  | 4 => (port < 16 && s.val F.STL_MEAS_CTRL_REGION 0 port == d) || port == 21
  | 5 => port == 19 || port == 21 || port == 22 || port == 23
  | 6 => port == 25 || port == 21
  | _ => port == 21

/-- A port may access the word at a byte address (R253). -/
def State.accessOk (s : State) (port a : Nat) : Bool :=
  (List.range 32).any fun d => (s.region d).holds a && s.portMay port d

/-- The bank of a byte address, and its word within the bank (R246). -/
def hallBank (a : Nat) : Nat := a / 16 % 256
def hallRow (a : Nat) : Nat := a / 4096

/-- The 16-byte word at a byte address. -/
def wordAddr (a : Nat) : Nat := a / 16 * 16

/-- The word of Hall at an address. -/
def Hall.word (h : Hall) (a : Nat) : BitVec 128 := BitVec.ofNat 128 (memNat h.mem (wordAddr a) 16)

/-- What the last access returned. -/
def State.hallAnswer (s : State) (port : Nat) (w : BitVec 128) (error : Bool) (sat : BitVec 4) : State :=
  { s with hall := { s.hall with
    answer := { port := port, word := w, error := error, sat := sat, due := s.now + 6 * mitesPerTick } } }

/-- An access outside the regions of its port: not executed, an error response, toll 162 and a log entry (R253). -/
def State.accessRefused (s : State) (port a : Nat) : State :=
  ((s.hallAnswer port 0 true 0).toll 162).logEvent 0x04 port 162 (signed 32 a)

/-- An error found in a half is recorded (R250). -/
def State.eccRecord (s : State) (half : Nat) (uncorr : Bool) : State :=
  { s with hall := { s.hall with eccAddr := half * 8, eccUncorr := uncorr } }

/-- An error in a staging region is marked in its stall's segment (R197, R250): in the oldest that has no header yet, or in the
one being filled. DEDUCED (log entry 76). -/
def State.markStaging (s : State) (a flags : Nat) : State :=
  match (List.range 32).find? fun d => (s.region d).kind == 1 && (s.region d).holds a with
  | none => s
  | some d => { s with stalls := updAt s.stalls (Fin.ofNat 16 (s.region d).owner) fun t =>
      match t.segs with
      | g :: gs => { t with segs := { g with flags := g.flags ||| flags } :: gs }
      | [] => if t.bell.bufFrom.isSome then { t with slotErrs := t.slotErrs ||| flags } else t }

/-- The errors that have arisen in a half and that no access has met yet. -/
def Hall.arisen (h : Hall) (half : Nat) : Ecc :=
  match h.latent.find? (·.1 == half) with
  | some (_, true) => .uncorrectable
  | some (_, false) => .corrected
  | none => .clean

/-- Two findings on one half: single-bit errors that arose apart are taken as one error. -/
def Ecc.worse : Ecc → Ecc → Ecc
  | .uncorrectable, _ => .uncorrectable
  | _, .uncorrectable => .uncorrectable
  | .corrected, _ => .corrected
  | _, e => e

/-- An error arises in a half: a second bit makes it a double-bit error (R250). -/
def Hall.flip (h : Hall) (half : Nat) (double : Bool) : Hall :=
  { h with latent := (h.latent.filter (·.1 != half)) ++ [(half, double || h.arisen half != .clean)] }

/-- What an access finds in a half (R250), `e` beside what has arisen there: a single-bit error is corrected and counted; an
uncorrectable one is counted, logged, and stays until the half is written. -/
def State.eccFound (s : State) (port half : Nat) (e : Ecc) : State :=
  let e := e.worse (s.hall.arisen half)
  let s := { s with hall := { s.hall with latent := s.hall.latent.filter (·.1 != half) } }
  if s.hall.bad.contains half || e == .uncorrectable then
    (({ (s.markStaging (half * 8) (2 ^ 9)) with hall := { s.hall with
        bad := if s.hall.bad.contains half then s.hall.bad else s.hall.bad ++ [half] } }.eccRecord half true).toll
      161).logEvent 0x03 port 161 (signed 32 (half * 8))
  else if e == .corrected then ((s.markStaging (half * 8) (2 ^ 8)).eccRecord half false).toll 160
  else s

/-- What an access finds in the halves of a word that it touches. -/
def State.eccWord (s : State) (port a : Nat) (t0 t1 : Bool) (e0 e1 : Ecc) : State :=
  let h := wordAddr a / 8
  let s := if t0 then s.eccFound port h e0 else s
  if t1 then s.eccFound port (h + 1) e1 else s

/-- A touched half of the word holds an uncorrectable error. -/
def State.halfBad (s : State) (a : Nat) (t0 t1 : Bool) : Bool :=
  (t0 && s.hall.bad.contains (wordAddr a / 8)) || (t1 && s.hall.bad.contains (wordAddr a / 8 + 1))

/-- Ticks from an access to the arrival of its data at the port (R247). -/
def hallAnswerTicks : Nat := 6

/-- Word `i` of a map is read by port 16 for its snapshot (R242), and its write to the snapshot region is owed. What is copied of a
word whose read answers with an error is a free value (DESIGN CHOICE, log entry 77). -/
def State.copyWord (s : State) (k : Fin 8) (i : Nat) : State :=
  let a := s.mapBase k + 16 * i
  if !s.accessOk 16 a then s.accessRefused 16 a
  else
    let s1 := s.eccWord 16 a true true .clean .clean
    let (w, s2) := if s1.halfBad a true true then s1.draw else (memNat s1.hall.mem a 16, s1)
    s2.modYard k fun y => { y with
      owed := y.owed ++ [(s.now + hallAnswerTicks * mitesPerTick, .store (s.snapBase k + 16 * i) w)] }

/-- Word `i` of a map is about to be written: where a snapshot copy has still to pass it, it is copied first (R242), the bank's one
access giving the old word and taking the new. -/
def State.copyEarly (s : State) (k : Fin 8) (i : Nat) : State :=
  let y := s.yards[k]
  if y.copying && decide (y.copyAt ≤ i) && !y.copied.contains i then
    (s.copyWord k i).modYard k fun y => { y with copied := i :: y.copied }
  else s

/-- The word at an address is about to be written: a map that holds it and is being copied copies it first (R242). -/
def State.copyFirst (s : State) (a : Nat) : State :=
  (List.finRange 8).foldl (fun s k =>
    if (s.yards[k]).copying && decide (s.mapBase k ≤ a) && decide (a < s.mapBase k + s.mapBytes k) then
      s.copyEarly k ((a - s.mapBase k) / 16)
    else s) s

/-- HALL_READ (R247, R250). -/
def hallRead (port : Fin 26) (addr : BitVec 27) (e0 e1 : Ecc) (s : State) : State :=
  let a := addr.toNat
  if !s.accessOk port a then s.accessRefused port a
  else
    let s1 := s.eccWord port a true true e0 e1
    s1.hallAnswer port (if s1.halfBad a true true then 0 else s1.hall.word a) (s1.halfBad a true true) 0

/-- Bytes of a half of a word of 128 bits. -/
def halfBytes (w : BitVec 128) (i : Nat) : List Byte := leBytes 8 (w.toNat / 2 ^ (64 * i))

/-- HALL_WRITE (R247, R250): one or both halves of a word, which clears their errors. -/
def hallWrite (port : Fin 26) (addr : BitVec 27) (h0 h1 : Bool) (w : BitVec 128) (s : State) : State :=
  let a := wordAddr addr.toNat
  if !s.accessOk port addr.toNat then s.accessRefused port addr.toNat
  else
    let s := s.copyFirst a
    let s1 := if h0 then s.hallWrite a (halfBytes w 0) else s
    let s2 := if h1 then s1.hallWrite (a + 8) (halfBytes w 1) else s1
    s2.hallAnswer port 0 false 0

/-- Lane `i` of a word. -/
def lane (w : BitVec 128) (i : Nat) : Nat := w.toNat / 2 ^ (32 * i) % 2 ^ 32

/-- An atomic's new lane value: `sat` for the saturating add; and whether it saturated (R248). -/
def addLane (sat : Bool) (old add : Nat) : Nat × Bool :=
  if sat then (min (old + add) (2 ^ 32 - 1), decide (2 ^ 32 ≤ old + add)) else ((old + add) % 2 ^ 32, false)

/-- Lanes of a word replaced where the mask selects them; Hall keeps the others. -/
def State.putLanes (s : State) (a : Nat) (mask : BitVec 4) (v : Nat → Nat) : State :=
  (List.range 4).foldl (fun s i =>
    if mask.toNat.testBit i then
      let m := memWrite s.hall.mem (wordAddr a + 4 * i) (leBytes 4 (v i))
      { s with hall := { s.hall with mem := m } }
    else s) s

/-- The halves that a lane mask touches. -/
def maskHalves (mask : BitVec 4) : Bool × Bool := (mask.toNat % 4 != 0, mask.toNat / 4 != 0)

/-- A lane atomic (R248, R250): `f` gives each selected lane's new value and whether it saturated. An atomic that touches an
uncorrectable half is not executed. Answers the lanes that saturated. -/
def State.laneAtomic (s : State) (port a : Nat) (mask : BitVec 4) (ret : Bool) (e0 e1 : Ecc)
    (f : Nat → Nat → Nat × Bool) : State × BitVec 4 :=
  let (t0, t1) := maskHalves mask
  let s1 := s.eccWord port a t0 t1 e0 e1
  if s1.halfBad a t0 t1 then (s1.hallAnswer port 0 true 0, 0)
  else
    let old := s1.hall.word a
    let sat : BitVec 4 := (List.range 4).foldl (fun m i =>
      if mask.toNat.testBit i && (f i (lane old i)).2 then m ||| BitVec.ofNat 4 (2 ^ i) else m) 0
    ((s1.putLanes a mask fun i => (f i (lane old i)).1).hallAnswer port (if ret then old else 0) false sat, sat)

/-- A lane atomic by a port, its region checked (R253); a word still to be copied to a snapshot is copied first (R242). Answers
the lanes that saturated. -/
def State.portLanes (s : State) (port a : Nat) (mask : BitVec 4) (ret : Bool) (e0 e1 : Ecc)
    (f : Nat → Nat → Nat × Bool) : State × BitVec 4 :=
  if !s.accessOk port a then (s.accessRefused port a, 0)
  else (s.copyFirst a).laneAtomic port a mask ret e0 e1 f

/-- The same, of which the state is wanted. -/
def State.portAtomic (s : State) (port : Fin 26) (addr : BitVec 27) (mask : BitVec 4) (ret : Bool) (e0 e1 : Ecc)
    (f : Nat → Nat → Nat × Bool) : State := (s.portLanes port addr.toNat mask ret e0 e1 f).1

/-- Arbiter number `i`. -/
def State.arb (s : State) (i : Nat) : Arbiter := Sparse.get (fun _ => ({} : Arbiter)) s.hall.arbs i

/-- Arbiter `i` replaced. -/
def State.setArb (s : State) (i : Nat) (a : Arbiter) : State :=
  { s with hall := { s.hall with arbs := Sparse.set (fun _ => ({} : Arbiter)) s.hall.arbs i a } }

/-- Accesses in a burst (R257). -/
def burstLen (i : Nat) : Nat := if i < 256 then 8 else 1

/-- Ports, or owner codes, that an arbiter ranks; a transmit queue is asked for by ports. -/
def portsAt (i : Nat) : Nat := if i < 256 ∨ 264 ≤ i then 26 else 4

/-- Entry `e` of the Hall slot table (R256). -/
def State.hallSlot (s : State) (e : Nat) : Nat :=
  (s.word (R.HAL_SLOT0.base + e / 6)).toNat / 2 ^ (5 * (e % 6)) % 32

/-- Entry `e` of the DRAM slot table (R256). -/
def State.dramSlot (s : State) (e : Nat) : Nat :=
  (s.word (R.ARB_DSLOT.base + e / 10)).toNat / 2 ^ (3 * (e % 10)) % 8

/-- The owner of the present cycle at arbiter `i` (R256). A transmit queue has no slots. -/
def State.slotOwner (s : State) (i : Nat) : Nat :=
  if i < 256 then s.hallSlot ((s.hall.tau + 256 - i) % 16)
  else if 264 ≤ i then 31
  else s.dramSlot ((s.hall.kappa + 64 - 8 * (i - 256)) % 64)

/-- Arbiter `i` is frozen (R265). -/
def State.frozenArb (s : State) (i : Nat) : Bool :=
  if i < 256 then (s.val F.HAL_FREEZE_FRZ (i / 32)).testBit (i % 32)
  else decide (i < 264) && (s.val F.ARB_DFREEZE_FRZ).testBit (i - 256)

/-- A port has a live or parked request. -/
def Arbiter.requests (a : Arbiter) (p : Nat) : Bool := a.parked.any (·.port == p) || a.live.any (·.port == p)

/-- A port's parked requests. -/
def Arbiter.depth (a : Arbiter) (p : Nat) : Nat := (a.parked.filter (·.port == p)).length

/-- Room for one more parked request of a port whose queue is full: its newest parked one waits at the port again (R260). -/
def Arbiter.makeRoom (a : Arbiter) (p : Nat) : Arbiter :=
  if a.depth p < 16 then a
  else match a.parked.reverse.find? (·.port == p) with
    | some r => { a with parked := (a.parked.reverse.erase r).reverse, live := r :: a.live }
    | none => a

/-- A holder's grant is taken away: the rest of its request is parked, before the port's later ones (R258). -/
def Arbiter.park (a : Arbiter) : Arbiter :=
  match a.holder with
  | some h =>
    if h.req.left = 0 then { a with holder := none }
    else
      let b := a.makeRoom h.req.port
      { b with holder := none, parked := h.req :: b.parked }
  | none => a

/-- The holder's request is over, or its single grant has ended with its burst: there is no holder (R257). -/
def Arbiter.settleHolder (a : Arbiter) : Arbiter :=
  match a.holder with
  | some h =>
    if h.req.left = 0 then { a with holder := none }
    else if h.burst = 0 ∧ (h.once ∨ ¬h.req.held) then a.park
    else a
  | none => a

/-- The request of a port that is granted: the oldest, parked before live; in the port's own entry its acquisition work goes before
its background work (R258, R261). -/
def Arbiter.pick (a : Arbiter) (p : Nat) (own : Bool) : Option Request :=
  let all := (a.parked ++ a.live).filter (·.port == p)
  match all.find? fun r => own && !r.background with
  | some r => some r
  | none => all.head?

/-- The request is granted: it is taken from where it stood and becomes the holder. A grant to a claim is single (R259). `own`: in
the port's own entry, as a claim is too. -/
def Arbiter.grant (a : Arbiter) (p burst : Nat) (own claim : Bool) : Arbiter :=
  match a.pick p own with
  | some r =>
    { a with
      holder := some { req := r, burst := burst, once := claim }
      parked := a.parked.erase r, live := if a.parked.contains r then a.live else a.live.erase r
      claims := a.claims.erase p }
  | none => { a with claims := a.claims.erase p }

/-- The first requesting port after the ranking pointer (R258). -/
def Arbiter.ranked (a : Arbiter) (n : Nat) : Option Nat :=
  ((List.range n).map fun i => (a.pointer + 1 + i) % n).find? fun p => a.requests p

/-- The decision of a cycle (R258, R259): `o` is the owner of the cycle's slot entry, `n` the number of ports, `len` the
accesses in a burst. -/
def Arbiter.decideCycle (a : Arbiter) (frozen : Bool) (o n len : Nat) : Arbiter :=
  let a := a.settleHolder
  let atBreak := match a.holder with | some h => h.burst == 0 | none => true
  let mine := match a.holder with | some h => h.req.port == o | none => false
  let oWants := o < n && a.requests o
  let claimed := { a with claims := if oWants && !mine && !a.claims.contains o then a.claims ++ [o] else a.claims }
  if frozen then (if atBreak then a.park else claimed)
  else
    match a.claims with
    | p :: _ =>
      if atBreak then
        let b := a.park.grant p len true true
        if oWants && p != o && !b.claims.contains o then { b with claims := b.claims ++ [o] } else b
      else claimed
    | [] =>
      match a.holder with
      | some h =>
        if !atBreak then claimed
        else if mine || !oWants then { a with holder := some { h with burst := len } }
        else a.park.grant o len true false
      | none =>
        if oWants then a.grant o len true false
        else match a.ranked n with
          | some p => { a.grant p len false false with pointer := p }
          | none => a

/-- The holder makes one access. -/
def Arbiter.serve (a : Arbiter) : Arbiter :=
  match a.holder with
  | some h => { a with holder := some { h with
      req := { h.req with left := h.req.left - 1, addrs := h.req.addrs.tail }, burst := h.burst - 1 } }
  | none => a

/-- The map whose words, or whose snapshot's, stand at an address; 8 where there is none. -/
def State.mapAt (s : State) (a : Nat) : Nat :=
  (((List.finRange 8).find? fun k =>
    (decide (s.mapBase k ≤ a) && decide (a < s.mapBase k + s.mapBytes k)) ||
    (decide (s.snapBase k ≤ a) && decide (a < s.snapBase k + s.mapBytes k))).map (·.val)).getD 8

/-- What R247 limits a port's accesses in one tick by: port 16 has its limit for each map. -/
def State.portGroup (s : State) (port a : Nat) : Nat := if port = 16 then s.mapAt a else 0

/-- An arbiter that an access of port `p` reaches: where the port neither holds it nor asks for it, the access presents a request of
its own in this cycle (R258). -/
def Arbiter.asked (a : Arbiter) (p : Nat) : Arbiter :=
  let x := a.settleHolder
  if x.requests p || (match x.holder with | some h => h.req.port == p | none => false) then x
  else { x with live := x.live ++ [{ port := p }] }

/-- The arbiter of bank `b` after its decision of the present cycle on an access of port `p`. -/
def State.decidedFor (s : State) (b p : Nat) : Arbiter :=
  ((s.arb b).asked p).decideCycle (s.frozenArb b) (s.slotOwner b) (portsAt b) (burstLen b)

/-- The bank of an address can execute an access of the port in the present tick: it has executed none, the port has reached fewer
than 4 banks, and the bank's arbiter grants it the cycle (R247, R258, R265). -/
def State.bankFree (s : State) (port a : Nat) : Bool :=
  let b := hallBank a
  !(s.ev.banks.any fun x => x.1 == b) &&
  decide ((s.ev.banks.filter fun x => x.2 == (port, s.portGroup port a)).length < 4) &&
  ((s.decidedFor b port).holder.map (·.req.port)) == some port

/-- An access is made under the grant; a grant that has none left is over. -/
def Arbiter.used (a : Arbiter) : Arbiter :=
  let x := a.serve
  { x with holder := x.holder.filter fun h => h.req.left != 0 }

/-- The bank of an address executes an access of the port in the present tick, under the grant of its arbiter. -/
def State.takeBank (s : State) (port a : Nat) : State :=
  let t := s.setArb (hallBank a) (s.decidedFor (hallBank a) port).used
  { t with ev := { s.ev with banks := (hallBank a, port, s.portGroup port a) :: s.ev.banks } }

/-- An access of a port as a command, which stands for the execution of a granted access: it takes its bank in the present tick, and is
none where the bank's arbiter does not grant it the cycle. One outside the regions of its port reaches no bank (R247, R249, R253,
R258). DESIGN CHOICE (log entry 56). -/
def State.onBank (s : State) (port a : Nat) (f : State → State) : State :=
  if !s.accessOk port a then f s else if s.bankFree port a then f (s.takeBank port a) else s

/-- Background work of a port may use the bank of an address in the present tick: the bank is free, no grant or claim stands there,
and the cycle's owner does not request, unless the entry is the port's own (R261). -/
def State.backgroundMay (s : State) (port a : Nat) : Bool :=
  let b := hallBank a
  let x := (s.arb b).settleHolder
  let o := s.slotOwner b
  s.bankFree port a && x.holder.isNone && x.claims.isEmpty && (o == port || !x.requests o)

/-- HALL_READ. -/
def execHallRead (port : Fin 26) (addr : BitVec 27) (e0 e1 : Ecc) (s : State) : Result :=
  .next (s.onBank port addr.toNat (hallRead port addr e0 e1))

/-- HALL_WRITE. -/
def execHallWrite (port : Fin 26) (addr : BitVec 27) (h0 h1 : Bool) (w : BitVec 128) (s : State) : Result :=
  .next (s.onBank port addr.toNat (hallWrite port addr h0 h1 w))

/-- ADD32_WRAPPING (R248). -/
def execAdd32Wrapping (port : Fin 26) (addr : BitVec 27) (mask : BitVec 4) (adds : Vector Word 4) (ret : Bool)
    (e0 e1 : Ecc) (s : State) : Result :=
  .next (s.onBank port addr.toNat fun s =>
    s.portAtomic port addr mask ret e0 e1 fun i old => addLane false old (adds[Fin.ofNat 4 i]).toNat)

/-- ADD32_SATURATING (R248). -/
def execAdd32Saturating (port : Fin 26) (addr : BitVec 27) (mask : BitVec 4) (adds : Vector Word 4) (ret : Bool)
    (e0 e1 : Ecc) (s : State) : Result :=
  .next (s.onBank port addr.toNat fun s =>
    s.portAtomic port addr mask ret e0 e1 fun i old => addLane true old (adds[Fin.ofNat 4 i]).toNat)

/-- SWAP32 (R248). -/
def execSwap32 (port : Fin 26) (addr : BitVec 27) (mask : BitVec 4) (vals : Vector Word 4) (e0 e1 : Ecc) (s : State) :
    Result :=
  .next (s.onBank port addr.toNat fun s =>
    s.portAtomic port addr mask true e0 e1 fun i _ => ((vals[Fin.ofNat 4 i]).toNat, false))

/-- SWAP64 (R248): the halves selected, each as its two lanes. -/
def execSwap64 (port : Fin 26) (addr : BitVec 27) (h0 h1 : Bool) (vals : Vector Quad 2) (e0 e1 : Ecc) (s : State) :
    Result :=
  .next (s.onBank port addr.toNat fun s =>
    s.portAtomic port addr (BitVec.ofNat 4 ((if h0 then 3 else 0) + (if h1 then 12 else 0))) true e0 e1 fun i _ =>
      ((vals[Fin.ofNat 2 (i / 2)]).toNat / 2 ^ (32 * (i % 2)) % 2 ^ 32, false))

/-- Words of Hall (R246, R251). -/
def hallWords : Nat := hallSize / 16

/-- A scrub pass begins (R251). -/
def State.scrubBegin (s : State) : State :=
  { s with hall := { s.hall with
    scrubOn := true, scrubLate := false, scrubStart := s.now, scrubPeriod := s.wval F.HAL_SCRUB_PERIOD } }

/-- SCRUB_STEP (R251, R261): the next word is read, corrected and written back, in a cycle of its bank that background work may
use. -/
def scrubStep (e0 e1 : Ecc) (s : State) : State :=
  if !s.hall.scrubOn || !s.backgroundMay 24 (16 * s.hall.scrubWord) then s
  else
    let s1 := (s.takeBank 24 (16 * s.hall.scrubWord)).eccWord 24 (16 * s.hall.scrubWord) true true e0 e1
    let next := s.hall.scrubWord + 1
    if next < hallWords then { s1 with hall := { s1.hall with scrubWord := next } }
    else
      let s2 := { s1 with hall := { s1.hall with
        scrubWord := 0, scrubOn := false, scrubPasses := (s.hall.scrubPasses + 1) % 256 } }
      if s.hall.scrubLate then s2.scrubBegin else s2

/-- SCRUB_STEP. -/
def execScrubStep (e0 e1 : Ecc) (s : State) : Result := .next (scrubStep e0 e1 s)

/-- HALL_SCRUB_PERIOD (R251): a pass's period ends; a pass still running is late, otherwise the next begins. -/
def scrubPeriod (s : State) : State :=
  if s.hall.scrubLate || !s.reached (s.hall.scrubStart + s.hall.scrubPeriod * 40000000000) then s
  else if s.hall.scrubOn then { s with hall := { s.hall with scrubLate := true } }.toll 166
  else s.scrubBegin

/-- HALL_SCRUB_PERIOD. -/
def execHallScrubPeriod (s : State) : Result := .next (scrubPeriod s)

/-- What was not granted is parked, up to 16 requests a port; the ports whose queue is full keep their requests (R260). -/
def Arbiter.parkLive (a : Arbiter) : Arbiter × List Nat :=
  a.live.foldl (fun (b, full) r =>
    if b.depth r.port < 16 then ({ b with parked := b.parked ++ [r] }, full)
    else ({ b with live := b.live ++ [r] }, if full.contains r.port then full else full ++ [r.port]))
    ({ a with live := [] }, [])

/-- The highest depths since RESET_N. -/
def Arbiter.noteDepths (a : Arbiter) (n : Nat) : Arbiter :=
  { a with high := (List.range n).foldl (fun h p =>
      Sparse.set (fun _ => 0) h p (max (Sparse.get (fun _ => 0) h p) (a.depth p))) a.high }

/-- The owner asks in its own slot after the cycle's access has been made under another's grant, not at a break point: a claim
(R259). -/
def Arbiter.lateClaim (a : Arbiter) (o n len : Nat) : Arbiter :=
  match a.holder with
  | some h =>
    if o < n && a.requests o && h.req.port != o && h.burst != 0 && h.burst + 1 != len && !a.claims.contains o then
      { a with claims := a.claims ++ [o] }
    else a
  | none => a

/-- The arbiter without the requests of ports that cannot be served, its holder's among them parked. -/
def Arbiter.without (a : Arbiter) (p : Nat → Bool) : Arbiter :=
  let x := match a.holder with | some h => if p h.req.port then a.park else a | none => a
  { x with live := x.live.filter fun r => !p r.port, parked := x.parked.filter fun r => !p r.port }

/-- Those requests beside what has come of the others. -/
def Arbiter.rejoin (a b : Arbiter) (p : Nat → Bool) : Arbiter :=
  let x := match b.holder with | some h => if p h.req.port then b.park else b | none => b
  { a with live := a.live ++ x.live.filter fun r => p r.port, parked := a.parked ++ x.parked.filter fun r => p r.port }

/-- One cycle of arbiter `i` (R258 to R260): each port whose queue is full counts its toll. Subchannels in self-refresh park every
request. A bank that has made its access of the tick, or a subchannel whose cycle MAINT work has taken, has had its decision (`done`).
The requests of the ports that `full` names are not granted. DESIGN CHOICE (log entry 56). -/
def State.arbCycle (s : State) (i : Nat) (parkAll done : Bool) (full : Nat → Bool) : State :=
  let a := (s.arb i).settleHolder
  let a1 :=
    if parkAll then a
    else if done then a.lateClaim (s.slotOwner i) (portsAt i) (burstLen i)
    else (((a.without full).decideCycle (s.frozenArb i) (s.slotOwner i) (portsAt i) (burstLen i)).serve).rejoin a full
  let (a2, full) := a1.parkLive
  let s1 := s.setArb i (a2.noteDepths (portsAt i))
  if i < 264 then s1.tollMany (if i < 256 then 163 else 164) full.length else s1

/-- The Hall port of the unit that presents requests at arbiter `i` as `p`: at a subchannel the owner codes of the DRAM mover's
writes and reads and of the Clerk stand for ports 18, 19 and 21 (R253, R275). The scrub of record memory has no Hall port. -/
def unitAt (i p : Nat) : Nat := if i < 256 ∨ 264 ≤ i then p else match p with | 0 => 18 | 1 => 19 | 3 => 21 | _ => 26

/-- The unit that is port `p` at arbiter `i` holds a held grant on a resource that is not before `i` in the order of R263: the Hall
banks, the subchannels, the transmit queues of CP0 to CP3 and of the Wharf. -/
def State.holdsLater (s : State) (p i : Nat) : Bool :=
  s.hall.arbs.any fun (j, a) => decide (i ≤ j) && (match a.settleHolder.holder with
    | some h => unitAt j h.req.port == unitAt i p && h.req.held
    | none => false)

/-- Banks to which a port may present requests in one tick (R247). -/
def portWidth (p : Nat) : Nat := if p = 16 then 32 else 4

/-- A request is presented at arbiter `i`, with the addresses of its accesses (R258 to R263). -/
def State.present (s : State) (i port : Nat) (held : Bool) (work : List Nat) (background : Bool) : State :=
  let out := held && s.holdsLater port i
  let a := s.arb i
  let r : Request := { port := port, held := held && !out, left := max 1 work.length, background := background, addrs := work }
  let s1 := s.setArb i { a with live := a.live ++ [r] }
  { s1 with ev := { s1.ev with presented := (i, port) :: s1.ev.presented } }.tollIf out 165

/-- A port's requests go low at every arbiter (R264): its grant lasts to its next break point. -/
def State.resetPort (s : State) (dram : Bool) (port : Nat) : State :=
  (s.hall.arbs.filter fun (i, _) => (decide (256 ≤ i) && decide (i < 264)) == dram).foldl (fun s (i, a) =>
    let mine (r : Request) : Bool := r.port == port
    let a := a.settleHolder
    let held := match a.holder with | some h => mine h.req | none => false
    (s.setArb i { a with
      holder := match a.holder with
        | some h =>
          if !mine h.req then some h
          else if h.burst = 0 then none
          else some { h with req := { h.req with held := false, left := min h.req.left h.burst } }
        | none => none
      parked := a.parked.filter (!mine ·), live := a.live.filter (!mine ·), claims := a.claims.erase port }).tollIf
      (held || a.parked.any mine) 167) s

/-- Any stall runs. -/
def State.anyStall (s : State) : Bool := s.run.any fun f => 0x10 ≤ f && f < 0x20

/-- Any of the functions that R266 names runs: a stall, the Sieve, a map. -/
def State.hallUsers (s : State) : Bool := s.run.any fun f => 0x10 ≤ f && f < 0x38

/-- HALL_FREEZE_WRITE (R265, R266): a write of HAL_FREEZEj; the freeze applies from the next cycle. -/
def hallFreezeWrite (j : Fin 8) (w : Word) (s : State) : State :=
  let n := R.HAL_FREEZE.num j
  if (w &&& ~~~(s.lastWritten n)) != 0 && s.hallUsers then (s.toll 168).refuseWrite .stopLocked
  else ((s.setWritten n w (BitVec.allOnes 32)).atNextTick n).answer .ok

/-- HALL_FREEZE_WRITE. -/
def execHallFreezeWrite (j : Fin 8) (w : Word) (s : State) : Result := .next (hallFreezeWrite j w s)

/-- DRAM_FREEZE_WRITE (R265, R266): a write of ARB_DFREEZE. -/
def dramFreezeWrite (w : Word) (s : State) : State :=
  let n := R.ARB_DFREEZE.base
  if (w &&& 0xFF &&& ~~~(s.lastWritten n)) != 0 && s.anyStall then (s.toll 168).refuseWrite .stopLocked
  else ((s.setWritten n w 0xFF).atNextTick n).answer .ok

/-- DRAM_FREEZE_WRITE. -/
def execDramFreezeWrite (w : Word) (s : State) : Result := .next (dramFreezeWrite w s)

/-- HAL_SCRUB_STAT, HAL_ECC_ADDR, HAL_IDLEj, ARB_DIDLE, HAL_Q_STAT. -/
def State.scrubStatWord (s : State) : Word :=
  F.HAL_SCRUB_STAT_WORD.put s.hall.scrubWord ||| F.HAL_SCRUB_STAT_LATE.put s.hall.scrubLate.toNat |||
  F.HAL_SCRUB_STAT_PASSES.put s.hall.scrubPasses

def State.eccAddrWord (s : State) : Word :=
  F.HAL_ECC_ADDR_ADDR.put s.hall.eccAddr ||| F.HAL_ECC_ADDR_UNCORR.put s.hall.eccUncorr.toNat

/-- Bits of the arbiters from `i` on that have no holder, `n` of them. -/
def State.idleBits (s : State) (i n : Nat) : Word :=
  (List.range n).foldl (fun w k => if ((s.arb (i + k)).settleHolder).holder.isNone then w ||| BitVec.ofNat 32 (2 ^ k) else w) 0

def State.queueStatWord (s : State) : Word :=
  let a := s.arb (s.val F.HAL_Q_SEL_ARB)
  let p := s.val F.HAL_Q_SEL_PORT
  F.HAL_Q_STAT_DEPTH.put (a.depth p) ||| F.HAL_Q_STAT_HIGH.put (Sparse.get (fun _ => 0) a.high p) |||
  F.HAL_Q_STAT_CLAIM.put (a.claims.contains p).toNat

end Sys2Proof.Machine
end

