-- ==== Sys2Proof/Machine/Sieve.lean ====
section
/-! DEFINITION. The Sieve (chapter 09): sections, banks, swaps and fades, the synchronising reset, median mode, the window
and the release of outputs. -/

namespace Sys2Proof.Machine

/-- The Sieve's channels with channel `n` changed. -/
def State.modChan (s : State) (n : Fin 16) (f : SieveChan → SieveChan) : State :=
  { s with sieve := { s.sieve with chans := updAt s.sieve.chans n f } }

/-- The coefficient words after RESET_N: every b0 is unity, every other word zero (R206). -/
def coefReset (i : Nat) : Word := if i % 8 = 0 then 0x20000000 else 0

/-- A coefficient, signed, in units of 2^-29 (R205). -/
def Sieve.coef (v : Sieve) (chan : Fin 16) (bank : Bool) (sec c : Nat) : Int :=
  (Sparse.get coefReset v.coefs (chan * 256 + bank.toNat * 128 + sec * 8 + c)).toInt

/-- rnd(p): p × 2^-29 rounded to nearest, ties away from zero (R204). -/
def rnd29 (p : Int) : Int := roundDiv p (2 ^ 29)

/-- sat40, and whether it clamped (R204). -/
def sat40 (x : Int) : Int × Bool := (satSigned 40 x, satSigned 40 x != x)

/-- One section: its output, its new state words, and whether a value clamped (R204). -/
def sectionStep (b0 b1 b2 a1 a2 x s1 s2 : Int) : Int × (Int × Int) × Bool :=
  let (y, c0) := sat40 (rnd29 (b0 * x) + s1)
  let (t1, c1) := sat40 (rnd29 (b1 * x - a1 * y) + s2)
  let (t2, c2) := sat40 (rnd29 (b2 * x - a2 * y))
  (y, (t1, t2), c0 || c1 || c2)

/-- A cascade of the first `k` sections of a bank on an input, with the sections in which a value clamped (R204). -/
def Sieve.cascade (v : Sieve) (chan : Fin 16) (bank : Bool) (k : Nat) (x : Int) (st : SectionStates) :
    Int × SectionStates × List Nat :=
  (List.finRange 16).foldl (fun (x, st, cl) (j : Fin 16) =>
    if k ≤ j.val then (x, st, cl)
    else
      let c := v.coef chan bank j
      let (y, t, c') := sectionStep (c 0) (c 1) (c 2) (c 3) (c 4) x (st[j]).1 (st[j]).2
      (y, st.set j t, if c' then cl ++ [j.val] else cl)) (x, st, [])

/-- The channel's stall runs with its Sieve channel in force (R202). -/
def State.chanRuns (s : State) (n : Fin 16) : Bool := s.running (fnStall n) && (s.stalls[n]).setup.sieve

/-- A bank of a channel is in use: its stall runs and it is in force, or a fade involves it, the old bank up to the input after
the fade (R207, R211). -/
def State.bankInUse (s : State) (n : Fin 16) (bank : Bool) : Bool :=
  let c := s.sieve.chans[n]
  s.running (fnStall n) && (c.force == bank || c.fade.isSome || c.retiring == some bank)

/-- A pending reset applies to the input (R213). -/
def SyncFrom.applies (r : SyncFrom) (v : Val) : Bool :=
  match r with
  | .first => true
  | .tick t => decide (t ≤ v.tick)
  | .sample n => decide (n ≤ v.num)

/-- A synchronising reset at an input: every state word zero, any fade over, the settling count started (R213, R214). -/
def SieveChan.resetNow (c : SieveChan) (settle : Nat) (v : Val) : SieveChan :=
  if c.resets.any fun r => r.applies v then
    { c with
      resets := c.resets.filter fun r => !r.applies v
      force := if c.fade.isSome then !c.force else c.force, fade := none
      queued := if c.fade.isSome && c.queued == some (!c.force) then none else c.queued
      bankA := Vector.replicate 16 (0, 0), bankB := Vector.replicate 16 (0, 0), window := [], settle := settle }
  else c

/-- The request that an input of tick `tick` takes, with no fade in progress: the one registered by then, else the queued one
(R210, R212). -/
def SieveChan.due (c : SieveChan) (tick : Nat) : Option Bool :=
  match c.request with
  | some (b, t) => if t ≤ tick then some b else c.queued
  | none => c.queued

/-- A bank request is taken at an input: a swap, or the beginning of a fade; the new bank begins with the old bank's state
(R210, R212). -/
def SieveChan.takeRequest (c : SieveChan) (fadeEn : Bool) (len tick : Nat) : SieveChan :=
  let c := { c with retiring := none }
  if c.fade.isSome then c
  else match c.due tick with
    | none => c
    | some b =>
      let c := { c with request := none, queued := none }
      if b == c.force then c
      else
        let st := if c.force then c.bankB else c.bankA
        let c := if b then { c with bankB := st } else { c with bankA := st }
        if fadeEn then { c with fade := some (len, 0) } else { c with force := b }

/-- The state words of a bank. -/
def SieveChan.bank (c : SieveChan) (b : Bool) : SectionStates := if b then c.bankB else c.bankA
def SieveChan.setBank (c : SieveChan) (b : Bool) (st : SectionStates) : SieveChan :=
  if b then { c with bankB := st } else { c with bankA := st }

/-- One input filtered: the channel after it, the output value, and whether a 40-bit value and the output clamped (R204,
R211). -/
def Sieve.filter (v : Sieve) (n : Fin 16) (c : SieveChan) (k : Nat) (oshift : Int) (x : Int) :
    SieveChan × Int × List Nat × Bool :=
  let scale (y : Int) : Int × Bool :=
    let z := shiftRound y (8 + oshift)
    (satSigned 16 z, satSigned 16 z != z)
  let (y0, st0, c0) := v.cascade n c.force k (x * 256) (c.bank c.force)
  let c1 := c.setBank c.force st0
  match c.fade with
  | none => let (z, cz) := scale y0; (c1, z, c0, cz)
  | some (len, i) =>
    let (y1, st1, cl1) := v.cascade n (!c.force) k (x * 256) (c.bank (!c.force))
    let c2 := c1.setBank (!c.force) st1
    let y := y0 + roundDiv ((y1 - y0) * (i + 1 : Nat)) (len : Int)
    let (z, cz) := scale y
    -- the last fade input: the new bank is in force, and a queued request that names it is dropped (R211, R212)
    let c3 := if len ≤ i + 1 then { c2 with
        fade := none, force := !c.force, retiring := some c.force
        queued := if c.queued == some (!c.force) then none else c.queued }
      else { c2 with fade := some (len, i + 1) }
    (c3, z, c0 ++ cl1, cz)

/-- Median mode: the median of the most recent inputs (R215). -/
def SieveChan.median (c : SieveChan) (win : Nat) (x : Int) : SieveChan × Int :=
  let w := (x :: c.window).take win
  let full := w ++ List.replicate (win - w.length) 0
  ({ c with window := w }, ((full.insertionSort (· ≤ ·))[win / 2]?).getD 0)

/-- Ticks from an input's registration to the release of its output (R208). -/
def State.sieveLatency (s : State) (n : Fin 16) : Nat :=
  let k := s.val F.SIV_CTRL_SECTIONS
  32 * k + 16 + n * k

/-- An input that waits for a Bell that lags behind: a sample still to be evaluated may end a segment so early that the next buffer,
whose beginning resets the channel with SYNC_SEG, begins by the input (R146, R155, R213). -/
def State.inputHeld (s : State) (n : Fin 16) (v : Val) : Bool :=
  s.flag F.SIV_CH_CFG_SYNC_SEG n && (s.bell n).obs.any fun o =>
    decide (o.num ≤ v.num) && decide (o.tick + mitesPerTick * (s.val F.STL_BEL_REARM_REARM 0 n + 1) ≤ v.tick)

/-- The sample at which a buffer begins by input `v`, where the Bell has not evaluated it yet (R146, R213). -/
def State.beginsBy (s : State) (n : Fin 16) (v : Val) : Option Nat :=
  if !s.flag F.SIV_CH_CFG_SYNC_SEG n || (s.bell n).phase == .stopped then none
  else match (s.bell n).beginAt with
    | some x =>
      match (s.bell n).obs.find? fun o => decide (x ≤ o.chron) with
      | some o => if o.num ≤ v.num ∧ (s.sieve.chans[n]).synced ≠ some o.num then some o.num else none
      | none => none
    | none => none

/-- Words that were written in the tick in which a swap brings their bank into use: the writes are ignored and counted as refused (R207,
R341; Sieve coincidences). DEDUCED (log entry 52). -/
def State.undoWrites (s : State) (n : Fin 16) (bank : Bool) (tick : Nat) : State :=
  let mine := s.sieve.recent.filter fun r => r.2.2 == tick && r.1 / 128 == n * 2 + bank.toNat
  mine.foldl (fun s r => { s with sieve := { s.sieve with coefs := Sparse.set coefReset s.sieve.coefs r.1 r.2.1 } }.toll 131 |>.toll 243)
    { s with sieve := { s.sieve with recent := s.sieve.recent.filter fun r => !mine.contains r } }

/-- The bank that a request brings into use at an input (R210). -/
def SieveChan.taking (c : SieveChan) (tick : Nat) : Option Bool :=
  if c.fade.isNone && c.due tick == some (!c.force) then some (!c.force) else none

/-- The values that stall `n` takes in the present tick, as far as their number goes: those of its channel, or of its TAP. -/
def State.dryVals (s : State) : Nat → Fin 16 → List Val
  | 0, _ => []
  | fuel + 1, n =>
    let t := s.stalls[n]
    match t.setup.tap with
    | some (m, i) =>
      let f := s.stalls[m]
      let vals := (s.dryVals fuel m).zipIdx.map fun (v, j) => { v with num := f.samples + j }
      ((f.chainRun f.setup.stages f.stageStates vals).streams).getD i []
    | none => s.sourceVals t.samples (List.replicate s.containersPerTick 0)

/-- The chain of stall `n` puts out a value in the present tick. -/
def State.emits (s : State) (n : Fin 16) : Bool :=
  let t := s.stalls[n]
  s.sampling && t.active && !s.ev.started.contains n &&
    (((t.chainRun t.setup.stages t.stageStates ((s.dryVals 16 n).zipIdx.map fun (v, j) => { v with num := t.samples + j })).streams).getD
      t.setup.stages.length []) != []

/-- A swap or a fade brings a bank into use in the present tick: a request for it is taken at an input of the tick (Sieve
coincidences). -/
def State.swapsNow (s : State) (n : Fin 16) (bank : Bool) : Bool :=
  s.chanRuns n && (s.sieve.chans[n]).taking s.now == some bank && s.emits n

/-- The tick, by its first mite, in which the engine evaluates section `j` of channel `n` for an input of tick `tick`: the sections in
order, 32 ticks each, the channels S ticks apart (R208). DESIGN CHOICE (log entry 88). -/
def State.sectionTick (s : State) (n : Fin 16) (tick j : Nat) : Nat :=
  tick + mitesPerTick * (32 * (j + 1) + n * s.val F.SIV_CTRL_SECTIONS)

/-- A tick holds a value that clamps: its toll is due in it, once (R204). -/
def State.clampAt (s : State) (tick toll : Nat) : State :=
  if s.sieve.clamps.contains (tick, toll) then s
  else { s with sieve := { s.sieve with clamps := s.sieve.clamps ++ [(tick, toll)] } }

/-- The tolls of the engine's ticks that have come (R204, R217). -/
def State.clampTolls (s : State) : State :=
  let due := s.sieve.clamps.filter fun c => s.reached c.1
  due.foldl (fun s c => s.toll c.2)
    { s with sieve := { s.sieve with clamps := s.sieve.clamps.filter fun c => !s.reached c.1 } }

/-- One input is taken and filtered, and its output kept for its release (R204 to R214). A value that clamps is counted in the tick in
which the engine forms it. DEDUCED (log entry 52). -/
def State.sieveTake (s : State) (n : Fin 16) (v : Val) (tick : Nat) : State :=
  let c0 := match s.beginsBy n v with
    | some f => { s.sieve.chans[n] with resets := (s.sieve.chans[n]).resets ++ [SyncFrom.sample f], synced := some f }
    | none => s.sieve.chans[n]
  let c := c0.resetNow (s.val F.SIV_SETTLE_SETTLE) v
  let median := s.flag F.SIV_CH_CFG_MEDIAN n
  let s := match c.taking tick with
    | some b => if median then s else s.undoWrites n b tick
    | none => s
  let (c, y, cl, co) :=
    if median then let (c, y) := c.median (s.val F.SIV_CH_CFG_MWIN n) v.lo; (c, y, [], false)
    else s.sieve.filter n (c.takeRequest (s.flag F.SIV_CH_CFG_FADE_EN n) (s.val F.SIV_FADE_LEN_L) tick)
      (s.val F.SIV_CH_CFG_K n) (signed 8 (s.val F.SIV_CH_CFG_OSHIFT n)) v.lo
  let out : Val := { v with lo := y, hi := y, settling := c.settle != 0 }
  let s1 := s.modChan n fun _ => { c with settle := c.settle - 1 }
  let s2 := { s1 with sieve := { s1.sieve with
    outputs := s1.sieve.outputs ++ [(tick + mitesPerTick * s.sieveLatency n, n, out)] } }
  let s3 := cl.foldl (fun s j => s.clampAt (s.sectionTick n tick j) 128) s2
  if co then s3.clampAt (tick + mitesPerTick * s.sieveLatency n) 129 else s3

/-- SIEVE_INPUT (R204): the first input that waits, in order of tick and channel; one held back for its channel's reset does not
keep back those of other channels. -/
def sieveInput (s : State) : State :=
  match s.sieve.inputs.find? fun x => !s.inputHeld x.1 x.2.1 with
  | some x => ({ s with sieve := { s.sieve with inputs := s.sieve.inputs.erase x } }).sieveTake x.1 x.2.1 x.2.2
  | none => s

/-- SIEVE_INPUT. -/
def execSieveInput (s : State) : Result := .next (sieveInput s)

/-- `k` inputs are taken. -/
def State.sieveMany (s : State) : Nat → State
  | 0 => s
  | k + 1 => (sieveInput s).sieveMany k

/-- Every input that waits is taken. -/
def State.sieveDrain (s : State) : State := s.sieveMany s.sieve.inputs.length

/-- A released output reaches the staging FIFO of its stall through Hall port 20 (R203): with every eighth, a word of the stall's STAGING
region is written, for which the port asks at its bank (R253, R258). DESIGN CHOICE (log entry 88): eight outputs to a word, the words
in the order of the region. -/
def State.stageOutput (s : State) (n : Fin 16) (v : Val) : State :=
  let c := (s.sieve.chans[n]).staged + 1
  let s1 := (s.modStall n fun t => { t with kept := t.kept ++ [(t.setup.stages.length, v)] }).modChan n fun x => { x with staged := c }
  if c % 8 != 0 then s1
  else match (List.range 32).find? fun d => (s1.region d).kind == 1 && (s1.region d).owner == n.val with
    | none => s1
    | some d =>
      let r := s1.region d
      s1.present (hallBank (r.base + 16 * ((c / 8 - 1) % (r.size / 16)))) 20 false [r.base + 16 * ((c / 8 - 1) % (r.size / 16))] false

/-- SIEVE_OUTPUT_RELEASE (R208): the first output whose release tick has come. -/
def sieveRelease (s : State) : State :=
  match s.sieve.outputs.find? fun o => s.reached o.1 with
  | some o => ({ s with sieve := { s.sieve with outputs := s.sieve.outputs.erase o } }).stageOutput o.2.1 o.2.2
  | none => s

/-- SIEVE_OUTPUT_RELEASE. -/
def execSieveOutputRelease (s : State) : Result := .next (sieveRelease s)

/-- Every output whose release tick has come is released. -/
def State.releaseDue (s : State) : State :=
  let due := s.sieve.outputs.filter fun o => s.reached o.1
  due.foldl (fun s o => s.stageOutput o.2.1 o.2.2)
    { s with sieve := { s.sieve with outputs := s.sieve.outputs.filter fun o => !s.reached o.1 } }

/-- BANK_REQUEST (R210, R212, R215): a write of SIV_CHn_BANK. DEDUCED (log entry 52). -/
def bankRequest (n : Fin 16) (w : Word) (s : State) : State :=
  let s := s.sieveDrain
  let b := F.SIV_CH_BANK_REQ.get w == 1
  let c := s.sieve.chans[n]
  if s.flag F.SIV_CH_CFG_MEDIAN n then (s.toll 132).refuseWrite .badParam
  else
    let s1 := ((s.setWritten (R.SIV_CH_BANK.num n) w (F.SIV_CH_BANK_REQ.put 1)).setForce (R.SIV_CH_BANK.num n) w
      (F.SIV_CH_BANK_REQ.put 1)).answer .ok
    if c.fade.isSome || (c.queued.isSome && b != c.force) then
      (s1.modChan n fun c => { c with queued := some b }).tollIf c.queued.isSome 130
    else if b != c.force then s1.modChan n fun c => { c with request := some (b, s.now) }
    -- the bank in force: without effect, but for a request of the same tick, which the later one replaces
    else s1.modChan n fun c => { c with request := c.request.filter fun r => r.2 != s.now }

/-- BANK_REQUEST. -/
def execBankRequest (n : Fin 16) (w : Word) (s : State) : Result := .next (bankRequest n w s)

/-- SIV_SYNC (R213): a reset of the channels named, from the next tick's samples on. -/
def sivSync (w : Word) (s : State) : State :=
  ((List.finRange 16).foldl (fun s (n : Fin 16) =>
    if w.toNat.testBit n then s.modChan n fun c => { c with resets := c.resets ++ [.tick (s.now + s.tickLen)] } else s)
    s.sieveDrain).answer .ok

/-- SIV_SYNC. -/
def execSivSync (w : Word) (s : State) : Result := .next (sivSync w s)

/-- SIV_WIN_ADDR advances, wrapping from 4,095 to 0 (R206). -/
def State.sieveAddrNext (s : State) : State :=
  let a := BitVec.ofNat 32 ((s.val F.SIV_WIN_ADDR_ADDR + 1) % 4096)
  (s.setWritten R.SIV_WIN_ADDR.base a 0xFFF).setForce R.SIV_WIN_ADDR.base a 0xFFF

/-- What SIV_WIN_DATA reads: codes 5 to 7 read zero (R206). -/
def State.sieveWord (s : State) : Word :=
  let a := s.val F.SIV_WIN_ADDR_ADDR
  if a % 8 ≤ 4 then Sparse.get coefReset s.sieve.coefs a else 0

/-- SIEVE_WINDOW_ACCESS (R206, R207): a read, or the write of a word. -/
def sieveWindow (write : Option Word) (s : State) : State :=
  match write with
  | none => (s.sieveAddrNext).answer .ok
  | some w =>
    let s := s.sieveDrain
    let a := s.val F.SIV_WIN_ADDR_ADDR
    if s.bankInUse (Fin.ofNat 16 (a / 256)) (a / 128 % 2 == 1) || s.swapsNow (Fin.ofNat 16 (a / 256)) (a / 128 % 2 == 1) then
      ((s.toll 131).refuseWrite .stopLocked).sieveAddrNext
    else if a % 8 ≤ 4 then
      let old := (a, Sparse.get coefReset s.sieve.coefs a, s.now)
      let recent := (s.sieve.recent.filter fun r => r.2.2 == s.now && r.1 != a) ++
        [((s.sieve.recent.find? fun r => r.2.2 == s.now && r.1 == a).getD old)]
      ({ s with sieve := { s.sieve with
          coefs := Sparse.set coefReset s.sieve.coefs a w, recent := recent } }.sieveAddrNext).answer .ok
    else (s.sieveAddrNext).answer .ok

/-- SIEVE_WINDOW_ACCESS. -/
def execSieveWindowAccess (write : Option Word) (s : State) : Result := .next (sieveWindow write s)

/-- A channel's charge in section-evaluations per tick, with its output rate (R209). -/
def State.chanCharge (s : State) (n : Fin 16) (r : Rat) : Rat :=
  let c : Rat := if s.flag F.SIV_CH_CFG_MEDIAN n then ((s.val F.SIV_CH_CFG_MWIN n + 1 : Nat) : Rat) / 2
    else s.val F.SIV_CH_CFG_K n * (if s.flag F.SIV_CH_CFG_FADE_EN n then 2 else 1)
  c * r

/-- SIV_CHn_STAT. -/
def State.chanStatWord (s : State) (n : Fin 16) : Word :=
  let c := (s.sieveDrain).sieve.chans[n]
  F.SIV_CH_STAT_FORCE.put c.force.toNat ||| F.SIV_CH_STAT_FADING.put c.fade.isSome.toNat |||
  F.SIV_CH_STAT_QUEUED.put c.queued.isSome.toNat ||| F.SIV_CH_STAT_QBANK.put (c.queued.getD false).toNat |||
  F.SIV_CH_STAT_SETTLE.put c.settle

/-- The stall of a channel stops: a fade completes at once, a queued request is discarded (R216). -/
def SieveChan.stop (c : SieveChan) : SieveChan :=
  { c with force := if c.fade.isSome then !c.force else c.force, fade := none, retiring := none, queued := none }

end Sys2Proof.Machine
end

