-- ==== Sys2Proof/Machine/Steelyard.lean ====
section
/-! DEFINITION. Steelyard maps (chapter 11): binning, runs and their adds, decay, snapshots and clears. -/

namespace Sys2Proof.Machine

/-- The column of a value (R235), none where it is not binned. `t` is the trigger sample's number, `f` its fraction. -/
def State.columnOf (s : State) (k : Fin 8) (t f : Nat) (v : Val) : Option Nat :=
  let cols := s.mapCols k
  let phase : Int := s.val F.YRD_XPHASE_XPHASE k
  match s.val F.YRD_AXIS_XAXIS k with
  | 0 =>
    let x : Int := (1024 * ((v.num : Int) - t - signed 32 (s.val F.YRD_XOFS_XOFS k)) + f) / (s.val F.YRD_XSTEP_XSTEP k : Int)
    if 0 ≤ x ∧ x < cols then some x.toNat else none
  | 1 =>
    if tallyPositioned v.mode then some (((v.pos - phase) % (2 ^ 32 : Nat)).toNat * cols / 2 ^ 32) else none
  | _ =>
    if tallyPositioned v.mode then some (((v.pos - phase) % (2 ^ 64 : Nat)).toNat / 2 ^ 32 % cols) else none

/-- The row of a value (R236). -/
def State.rowOf (s : State) (k : Fin 8) (v : Int) : Nat :=
  (clampInt 0 (s.mapRows k - 1 : Nat) (v / (2 ^ s.val F.YRD_AXIS_YSHIFT k : Nat) +
    signed 16 (s.val F.YRD_AXIS_YOFS k))).toNat

/-- A run: its column and its values (R237). -/
structure Run where
  col : Nat
  vals : List Val
deriving DecidableEq, Repr

/-- The map's adds are suspended at a value: the tally is too fast on an angle axis (R240). -/
def State.tooFastFor (s : State) (k : Fin 8) (v : Val) : Bool :=
  s.val F.YRD_AXIS_XAXIS k != 0 && tooFast v.spd (s.val F.YRD_MAXTPS_MAXTPS k)

/-- The runs of a list of values in order (R237, R240): a value that is not binned ends a run; one at which the tally is
too fast drops it. -/
def State.runsOf (s : State) (k : Fin 8) (t f : Nat) : Option Run → List Val → List Run
  | cur, [] => cur.toList
  | cur, v :: vs =>
    if s.tooFastFor k v then s.runsOf k t f none vs
    else match s.columnOf k t f v with
      | none => cur.toList ++ s.runsOf k t f none vs
      | some c =>
        match cur with
        | some r => if r.col = c then s.runsOf k t f (some { r with vals := r.vals ++ [v] }) vs
          else r :: s.runsOf k t f (some ⟨c, [v]⟩) vs
        | none => s.runsOf k t f (some ⟨c, [v]⟩) vs

/-- Two columns lie side by side, modulo COLS on an angle axis (R237). -/
def adjacent (wrap : Bool) (cols a b : Nat) : Bool :=
  a + 1 == b || b + 1 == a || (wrap && ((a + 1) % cols == b || (b + 1) % cols == a))

/-- The span of a run's rows joined to the span before it (R237). DEDUCED (log entry 50). -/
def joinSpan (prev : Option (Nat × Nat)) (lo hi : Nat) : Nat × Nat :=
  match prev with
  | some (plo, phi) => (if phi + 1 < lo then phi + 1 else lo, if hi + 1 < plo then plo - 1 else hi)
  | none => (lo, hi)

/-- The words and lanes that cells of a column stand in: a word address from the map's base, and its lane mask (R231). -/
def cellWords (col rows : Nat) (cells : List Nat) : List (Nat × Nat) :=
  let words := (cells.map (· / 4)).dedup
  words.map fun w => (4 * (col * rows + 4 * w),
    (cells.filter fun r => r / 4 == w).dedup.foldl (fun m r => m + 2 ^ (r % 4)) 0)

/-- The adds of runs in order (R237): in points mode the rows that hold a value, in span mode every row between. -/
def State.runAdds (s : State) (n : Fin 16) (k : Fin 8) (span : Bool) :
    Option (Nat × Nat × Nat) → List Run → List YardRun
  | _, [] => []
  | prev, r :: rs =>
    let rows := s.mapRows k
    let cells := r.vals.flatMap fun v => [s.rowOf k v.lo, s.rowOf k v.hi]
    let lo := cells.foldl min (cells.headD 0)
    let hi := cells.foldl max 0
    let wrap := s.val F.YRD_AXIS_XAXIS k != 0
    let before := match prev with
      | some (c, plo, phi) => if adjacent wrap (s.mapCols k) c r.col then some (plo, phi) else none
      | none => none
    let (lo, hi) := if span then joinSpan before lo hi else (lo, hi)
    let cells := if span then (List.range (hi + 1 - lo)).map (· + lo) else cells
    { stall := n, map := k, adds := (cellWords r.col rows cells).map fun (a, m) => (s.mapBase k + a, m) } ::
      s.runAdds n k span (some (r.col, lo, hi)) rs

/-- The runs of a segment in a YARD stage (R233): the values of its window. -/
def State.segmentRuns (s : State) (n : Fin 16) (k : Fin 8) (span : Bool) (number start t f last : Nat) (forced : Bool)
    (vals : List Val) : List YardRun :=
  let xofs := signed 32 (s.val F.YRD_XOFS_XOFS k)
  if (forced && s.flag F.YRD_AXIS_NOFORCED k) || number % max 1 (s.val F.YRD_EVERY_EVERY k) != 0 then []
  else
    let w := vals.filter fun v => decide (start ≤ v.num) && decide ((t : Int) + xofs ≤ v.num) && decide (v.num ≤ last)
    s.runAdds n k span none (s.runsOf k t f none w)

/-- A saturating add of one to the lanes of a Hall word, by port 16 (R238, R248); and whether a lane saturated. -/
def State.yardAdd (s : State) (addr mask : Nat) : State × Bool :=
  let (s1, sat) := s.portLanes 16 addr (BitVec.ofNat 4 mask) false .clean .clean fun _ old => addLane true old 1
  (s1, sat != 0)

/-- An add to a map; toll 144 counts once in a tick in which one saturates (R238). -/
def State.mapAdd (s : State) (k : Fin 8) (addr mask : Nat) : State :=
  let (t, sat) := s.yardAdd addr mask
  if sat && !t.ev.yardSat.contains k then { t with ev := { t.ev with yardSat := k :: t.ev.yardSat } }.toll 144 else t

/-- Up to `n` of the adds that wait for a map, in order, in the present tick: each takes its bank, and waits, with those behind it,
where the bank does not let port 16 in (R238, R247). One outside the regions of the port reaches no bank (R253). -/
def State.issueAdds (s : State) (k : Fin 8) : Nat → State
  | 0 => s
  | n + 1 =>
    match (s.yards[k]).adds with
    | [] => s
    | a :: rest =>
      if s.accessOk 16 a.1 && !s.bankFree 16 a.1 then s
      else
        let t := (if s.accessOk 16 a.1 then s.takeBank 16 a.1 else s).modYard k fun y => { y with adds := rest }
        (t.mapAdd k a.1 a.2).issueAdds k n

/-- Accesses that port 16 may present in one tick for a map (R247). -/
def mapWidth : Nat := 4

/-- The tally is too fast for map `k` at present: no adds to it are issued (R240). -/
def State.yardTooFast (s : State) (k : Fin 8) : Bool :=
  s.val F.YRD_AXIS_XAXIS k != 0 && tooFast s.tally.bs (s.val F.YRD_MAXTPS_MAXTPS k)

/-- YARD_RUN_ADD (R238, R240): the adds of the oldest run of stall `n` that waits for a map whose adds are not suspended: those that
the present tick has room for, the others in the ticks to come. DEDUCED (log entry 55). -/
def yardRunAdd (n : Fin 16) (s : State) : State :=
  match (s.stalls[n]).runs.find? fun r => !s.yardTooFast r.map with
  | some r =>
    ((s.modStall n fun t => { t with runs := t.runs.erase r }).modYard r.map fun y =>
      { y with adds := y.adds ++ r.adds }).issueAdds r.map mapWidth
  | none => s

/-- YARD_RUN_ADD. -/
def execYardRunAdd (n : Fin 16) (s : State) : Result := .next (yardRunAdd n s)

/-- The words of a stretch of Hall, `n` bytes from `a`, that hold anything or have a half with an uncorrectable error: their numbers
from `a`, ascending. -/
def State.markedWords (s : State) (a n : Nat) : List Nat :=
  let cells := (s.hall.mem.filter fun c => decide (a ≤ c.1) && decide (c.1 < a + n)).map fun c => (c.1 - a) / 16
  let bad := (s.hall.bad.filter fun h => decide (a ≤ 8 * h) && decide (8 * h < a + n)).map fun h => (8 * h - a) / 16
  ((bad ++ cells).insertionSort (· ≤ ·)).destutter (· ≠ ·)

/-- A pass of port 16 over the words `i` on of a stretch of `n` bytes from `a`, all of one region (R232): where the port may access it,
the words at which there is anything to do, in ascending order; otherwise each access is refused (R253). -/
def State.passWords (s : State) (a n i : Nat) (f : State → Nat → State) : State :=
  if s.accessOk 16 a then ((s.markedWords a n).filter (i ≤ ·)).foldl f s
  else
    let words := (List.range (n / 16)).filter (i ≤ ·)
    let t := s.tollMany 162 words.length
    { t with log := { t.log with due := t.log.due ++ words.map fun j =>
      { chron := s.now % 2 ^ 64, kind := 0x04, unit := 16, toll := 162, detail := wordOfInt (signed 32 (a + 16 * j)) } } }

/-- A word is set to zero by port 16's SWAP64 (R243). -/
def State.clearWord (s : State) (a i : Nat) : State :=
  (s.portLanes 16 (a + 16 * i) 15 true .clean .clean fun _ _ => (0, false)).1

/-- What a sweep takes from a cell (R241). -/
def decayOf (k c : Nat) : Nat := (c + 2 ^ k - 1) / 2 ^ k

/-- The cells of a word are read by port 16 for a sweep (R241), and their subtraction is owed; none where the read answers with an
error. -/
def State.decayWord (s : State) (k : Fin 8) (e a : Nat) : State :=
  if !s.accessOk 16 a then s.accessRefused 16 a
  else
    let s1 := s.eccWord 16 a true true .clean .clean
    if s1.halfBad a true true then s1
    else s1.modYard k fun y => { y with
      owed := y.owed ++ [(s.now + hallAnswerTicks * mitesPerTick,
        .lower a ((List.range 4).map fun i => decayOf e (lane (s1.hall.word a) i)))] }

/-- Words of a map. -/
def State.mapWords (s : State) (k : Fin 8) : Nat := s.mapBytes k / 16

/-- The map runs. -/
def State.yardRuns (s : State) (k : Fin 8) : Bool := s.running (fnYard k)

/-- YARD_CLEAR (R243): a write of 1 to YRDk_CTRL.CLEAR, which has no effect while a clear runs. -/
def yardClear (k : Fin 8) (s : State) : State :=
  (s.modYard k fun y => if y.clearing then y else { y with clearing := true, clearAt := 0 }).answer .ok

/-- YARD_CLEAR. -/
def execYardClear (k : Fin 8) (s : State) : Result := .next (yardClear k s)

/-- CLEAR_DONE (R243): a clear that has passed every word ends. DESIGN CHOICE (log entry 17). -/
def clearDone (k : Fin 8) (s : State) : State :=
  let y := s.yards[k]
  if y.clearing && decide (s.mapWords k ≤ y.clearAt) then s.modYard k fun y => { y with clearing := false } else s

/-- CLEAR_DONE. -/
def execClearDone (k : Fin 8) (s : State) : Result := .next (clearDone k s)

/-- A snapshot may be taken: the map runs, with snapshots enabled, and no copy runs. Otherwise its toll (Steelyard
coincidences). -/
def State.snapRefused (s : State) (k : Fin 8) : Option Nat :=
  if !s.yardRuns k || !s.flag F.YRD_REGION_SNAP_EN k then some 149
  else if (s.yards[k]).copying then some 146
  else none

/-- YARD_SNAP (R242): a write of 1 to YRDk_CTRL.SNAP; the snapshot is taken in the next tick. -/
def yardSnap (k : Fin 8) (s : State) : State :=
  (match s.snapRefused k with
    | some t => s.toll t
    | none => s.modYard k fun y => { y with snapDue := true }).answer .ok

/-- YARD_SNAP. -/
def execYardSnap (k : Fin 8) (s : State) : Result := .next (yardSnap k s)

/-- An owed access is the write of a copy. -/
def YardAccess.isStore : YardAccess → Bool
  | .store _ _ => true
  | .lower _ _ => false

/-- The snapshot of map `k` is taken at mite 0 of the present tick, with its instant (R242): its copy begins. A second one of the tick
is ignored. -/
def State.takeSnap (s : State) (k : Fin 8) (chron pos : Quad) : State :=
  if s.ev.yardSnap.contains k then s
  else match s.snapRefused k with
    | some t => s.toll t
    | none =>
      let s1 := s.modYard k fun y => { y with
        copying := true, copyAt := 0, copied := [], owed := y.owed.filter (!·.2.isStore), snaps := (y.snaps + 1) % 65536, snapChron := chron, snapPos := pos
        snapDue := false }
      { s1 with ev := { s1.ev with yardSnap := k :: s1.ev.yardSnap } }

/-- SNAP_COPY_DONE (R242): a copy that has passed every word, and written all it read, ends. DESIGN CHOICE (log entry 17). -/
def snapCopyDone (k : Fin 8) (s : State) : State :=
  let y := s.yards[k]
  if y.copying && decide (s.mapWords k ≤ y.copyAt) && !y.owed.any (·.2.isStore) then
    s.modYard k fun y => { y with copying := false, copied := [] }
  else s

/-- SNAP_COPY_DONE. -/
def execSnapCopyDone (k : Fin 8) (s : State) : Result := .next (snapCopyDone k s)

/-- YARD_SNAP_READ (R242): a read of YRDk_SNAP_CLO latches the other three. -/
def yardSnapRead (k : Fin 8) (s : State) : State :=
  (s.modYard k fun y => { y with
    latchChi := BitVec.ofNat 32 (y.snapChron.toNat / 2 ^ 32), latchPlo := BitVec.ofNat 32 y.snapPos.toNat
    latchPhi := BitVec.ofNat 32 (y.snapPos.toNat / 2 ^ 32) }).answer .ok

/-- YARD_SNAP_READ. -/
def execYardSnapRead (k : Fin 8) (s : State) : Result := .next (yardSnapRead k s)

/-- A decay sweep begins, with K as it stands (R241). -/
def State.beginSweep (s : State) (k : Fin 8) : State :=
  let e := s.val F.YRD_DECAY_K k
  if e = 0 then s else s.modYard k fun y => { y with sweeping := true, sweepK := e, sweepAt := 0 }

/-- One millisecond in mites. -/
def milliMites : Nat := 40000000

/-- DECAY_PERIOD_START (R241): K and PERIOD as last written are those of this period; a sweep begins, or is skipped while one
runs. -/
def decayPeriod (k : Fin 8) (s : State) : State :=
  let y := s.yards[k]
  if !s.yardRuns k || !s.reached y.periodAt then s
  else
    let s := s.bringIntoForce [F.YRD_DECAY_K.num k]
    let s1 := s.modYard k fun y => { y with
      periodAt := y.periodAt + max 1 (s.val F.YRD_DECAY_PERIOD k) * milliMites }
    if y.sweeping && s.val F.YRD_DECAY_K k != 0 then { s1 with ev := { s1.ev with yardSkip := k :: s1.ev.yardSkip } }
    else s1.beginSweep k

/-- DECAY_PERIOD_START. -/
def execDecayPeriodStart (k : Fin 8) (s : State) : Result := .next (decayPeriod k s)

/-- DECAY_SWEEP_DONE (R241): a sweep that has visited every word, and made its subtractions, ends. DESIGN CHOICE (log entry 17). A
period that begins in the same tick begins a new sweep. -/
def sweepDone (k : Fin 8) (s : State) : State :=
  let y := s.yards[k]
  if !y.sweeping || decide (y.sweepAt < s.mapWords k) || y.owed.any (!·.2.isStore) then s
  else
    let s1 := s.modYard k fun y => { y with sweeping := false }
    if s.ev.yardSkip.contains k then
      { s1 with ev := { s1.ev with yardSkip := s1.ev.yardSkip.filter (· != k) } }.beginSweep k
    else s1

/-- DECAY_SWEEP_DONE. -/
def execDecaySweepDone (k : Fin 8) (s : State) : Result := .next (sweepDone k s)

/-- The word that an owed access reaches. -/
def YardAccess.addr : YardAccess → Nat
  | .store a _ => a
  | .lower a _ => a

/-- An owed access is made by port 16: a word of the snapshot written, or a word's cells lowered by a wrapping ADD32 (R241, R242). -/
def State.makeOwed (s : State) (x : YardAccess) : State :=
  match x with
  | .store a w => if s.accessOk 16 a then s.hallWrite a (leBytes 16 w) else s.accessRefused 16 a
  | .lower a subs =>
    (s.portLanes 16 a 15 false .clean .clean fun i c => ((c + 2 ^ 32 - subs.getD i 0) % 2 ^ 32, false)).1

/-- Words that a running pass visits in the present tick, a free number up to the four of R247 (DESIGN CHOICE, log entry 77). -/
def State.passPace (s : State) (left : Nat) : Nat × State :=
  if left = 0 then (0, s) else let (x, t) := s.draw; (x % (min mapWidth left + 1), t)

/-- The accesses that a map's passes owe and that can be made in the present tick, up to `n` of them, in order (R241, R242, R261). -/
def State.payOwed (s : State) (k : Fin 8) : Nat → State
  | 0 => s
  | n + 1 =>
    match (s.yards[k]).owed with
    | [] => s
    | (due, x) :: rest =>
      if s.now < due || (s.accessOk 16 x.addr && !s.backgroundMay 16 x.addr) then s
      else
        ((if s.accessOk 16 x.addr then s.takeBank 16 x.addr else s).modYard k fun y => { y with owed := rest }).makeOwed x
          |>.payOwed k n

/-- Up to `n` words of a pass in the present tick (R261): it goes on while the bank of its next word lets background work in. `at_` is
the pass's next word, and `visit` visits it and moves the pass on. -/
def State.passTick (s : State) (k : Fin 8) (at_ : Yard → Nat) (visit : State → Nat → State) : Nat → State
  | 0 => s
  | n + 1 =>
    let i := at_ s.yards[k]
    let a := s.mapBase k + 16 * i
    if !s.accessOk 16 a then (visit s i).passTick k at_ visit n
    else if s.backgroundMay 16 a then (visit (s.takeBank 16 a) i).passTick k at_ visit n else s

/-- A clear's next word. -/
def State.visitClear (s : State) (k : Fin 8) (i : Nat) : State :=
  (s.clearWord (s.mapBase k) i).modYard k fun y => { y with clearAt := i + 1 }

/-- A sweep's next word. -/
def State.visitSweep (s : State) (k : Fin 8) (i : Nat) : State :=
  (s.decayWord k (s.yards[k]).sweepK (s.mapBase k + 16 * i)).modYard k fun y => { y with sweepAt := i + 1 }

/-- A copy's next word, which may have been copied ahead of it (R242). -/
def State.visitCopy (s : State) (k : Fin 8) (i : Nat) : State :=
  (s.copyEarly k i).modYard k fun y => { y with copyAt := i + 1, copied := y.copied.erase i }

/-- A pass's part in a tick, where it is on. -/
def State.runPass (s : State) (k : Fin 8) (on : Bool) (at_ : Yard → Nat) (visit : State → Nat → State) : State :=
  if on then let (n, t) := s.passPace (s.mapWords k - at_ s.yards[k]); t.passTick k at_ visit n else s

/-- A map's part in a tick: the adds that wait, which go before the passes (R261), then what the passes owe, and the passes, the clear
before the sweep (R241 to R243; Steelyard coincidences). -/
def State.yardPasses (s : State) (k : Fin 8) : State :=
  let s := (if s.yardTooFast k then s else s.issueAdds k mapWidth).payOwed k mapWidth
  let s1 := s.runPass k (s.yards[k]).clearing (·.clearAt) fun t i => t.visitClear k i
  let s2 := s1.runPass k (s1.yards[k]).sweeping (·.sweepAt) fun t i => t.visitSweep k i
  s2.runPass k (s2.yards[k]).copying (·.copyAt) fun t i => t.visitCopy k i

/-- Everything that a map still waits to do, where it goes on no longer (R390): its adds and what its passes owe. -/
def State.drainYard (s : State) (k : Fin 8) : State :=
  let y := s.yards[k]
  let s1 := y.adds.foldl (fun s a => s.mapAdd k a.1 a.2) s
  (y.owed.foldl (fun s x => s.makeOwed x.2) s1).modYard k fun y => { y with adds := [], owed := [] }

/-- The maps' part in closing a tick: their passes, skipped sweeps counted, suspension by speed, and the turns that begin in it (R240,
R241). `p` and `q` are the tally's positions in grains at mite 0 of the tick and of the next. -/
def State.closeYards (s : State) (p q : Int) : State :=
  let s1 := (List.finRange 8).foldl (fun s k => s.yardPasses k) (s.ev.yardSkip.foldl (fun s _ => s.toll 148) s)
  (List.finRange 8).foldl (fun s k =>
    let fast := s.yardRuns k && s.yardTooFast k
    let s2 := s.modYard k fun y => { y with suspended := fast }
    if fast && turnsBegun p q != 0 then s2.toll 147 (turnsBegun p q) else s2) s1

/-- The maps' part in opening a tick: snapshots asked for by a write (R242). -/
def State.openYards (s : State) : State :=
  (List.finRange 8).foldl (fun s k =>
    if (s.yards[k]).snapDue then
      (s.takeSnap k (BitVec.ofNat 64 s.now) s.positionNow).modYard k fun y => { y with snapDue := false }
    else s) s

/-- YRDk_STAT and YRDk_CTRL. -/
def State.yardStatWord (s : State) (k : Fin 8) : Word :=
  let y := s.yards[k]
  F.YRD_STAT_CLEARING.put y.clearing.toNat ||| F.YRD_STAT_SWEEPING.put y.sweeping.toNat |||
  F.YRD_STAT_COPYING.put y.copying.toNat ||| F.YRD_STAT_SUSPENDED.put y.suspended.toNat ||| F.YRD_STAT_SNAPS.put y.snaps

/-- The charge of the stages that feed map `k`, word-adds per tick (R239). -/
def State.yardLoad (s : State) (k : Fin 8) : Rat :=
  ((List.finRange 16).flatMap fun n =>
    if s.running (fnStall n) then ((s.stalls[n]).setup.yards.filter fun y => y.1 == k).map fun y => y.2.2 else []).sum

/-- YRDk_LOAD (R239). -/
def State.yardLoadWord (s : State) (k : Fin 8) : Word := BitVec.ofNat 32 (s.yardLoad k * 65536).ceil.toNat

end Sys2Proof.Machine
end

