-- ==== Sys2Proof/Machine/Depend.lean ====
section
/-! DEFINITION. What a Bell's fields in force name (07_bell R161), and which functions depend on which (01_architecture
R27). -/

namespace Sys2Proof.Machine

/-- The span fields in force. -/
def State.bellSpans (s : State) (n : Nat) : List Nat :=
  [s.wval F.STL_BEL_HOLDOFF_HOLD 0 n, s.wval F.STL_BEL_AUTO_AUTO 0 n] ++
  (((List.range 2).filter fun k => s.timerInForce n k).map fun k => s.val F.STL_BEL_TMR_DUR_DUR k n)

/-- A comparator is in force: a field in force names its event or its state. -/
def State.compInForce (s : State) (n k : Nat) : Bool := (s.bellCodes n).any fun c => c == 4 + k || c == 8 + k

/-- The measurement slots that a chain selects. -/
def slotsOf (l : List StageDef) : List Nat :=
  l.flatMap fun d => match d.op with | .measure m => selectedSlots m | _ => []

/-- The stages of stall `n` as written. -/
def State.stagesWritten (s : State) (n : Fin 16) : List StageDef :=
  ((s.stalls[n]).decodeChain (min 8 (s.val F.STL_CHAIN_NSTAGES 0 n))).getD []

/-- A setting of stall `n` is measured in grains or turns, its chain holds TURNRES, or its Bell uses the tally compare
(R27, R161, R220). -/
def State.stallUsesTally (s : State) (n : Fin 16) : Bool :=
  let l := s.stagesWritten n
  (s.bellSpans n).any (fun w => spanUnit w == 2 || spanUnit w == 3) || (s.bellCodes n).contains 0x14 ||
  l.any (·.op.isTurnres) || (slotsOf l).any fun i => angleType ((s.stalls[n]).slotType i)

/-- The Sieve channel of a stall is to be in force (R202). -/
def State.sieveWanted (s : State) (n : Nat) : Bool :=
  s.val F.SIV_CH_CFG_K n != 0 || s.flag F.SIV_CH_CFG_MEDIAN n

/-- The functions that stall `n` depends on (R27). -/
def State.stallDeps (s : State) (n : Fin 16) : List Nat :=
  let codes := s.bellCodes n
  (if s.stallUsesTally n then [fnTally] else []) ++
  (if s.flag F.STL_SRC_KIND 0 n then [0x10 + s.val F.STL_SRC_FROM 0 n] else []) ++
  ((codes.filter fun c => c / 16 == 3).map fun c => 0x10 + c % 16) ++
  (if s.sieveWanted n then [fnSieve] else []) ++
  ((s.stagesWritten n).flatMap fun d => match d.op with | .yard k _ => [fnYard k] | _ => []) ++
  (if codes.any (fun c => c / 16 == 2) ||
      (List.range (s.bellStates n)).any (fun k => s.flag F.STL_BEL_S_ACT_CRY k n) then [fnCrier] else [])

/-- Snapshots of map `k` come from a launch: a launch slot's SNAP names it (R27). -/
def State.snapByLaunch (s : State) (k : Nat) : Bool :=
  s.flag F.YRD_REGION_SNAP_EN k && (List.range 64).any fun i =>
    s.wflag F.TLY_LS_CTRL_SNAP i && s.wval F.TLY_LS_CTRL_YARD i == k

/-- A field of the Signboard's layers: in force while it runs, and else as the START that brings its shadow into force takes it
(14_signboard, coincidences). -/
def State.layerVal (s : State) (f : Fld) : Nat := if s.running fnSignboard then s.val f else s.wval f

/-- The functions that function `fn` depends on (R27). -/
def State.deps (s : State) (fn : Nat) : List Nat :=
  if fn = fnTally then
    let ports := s.primaryPort :: s.fallbackPort.toList
    (if ports.any (fun p => s.portMode p == 3 || s.portMode p == 4) then [fnAux] else []) ++
    (if ports.any (fun p => s.portMode p == 6) then [fnCrier] else [])
  else if fn / 16 = 1 then s.stallDeps (Fin.ofNat 16 fn)
  else if fn / 8 = 6 then
    if s.val F.YRD_AXIS_XAXIS (fn % 8) != 0 || s.snapByLaunch (fn % 8) then [fnTally] else []
  else if fn = fnSignboard then
    (if (s.layerVal F.SGN_LAYERS_EN).testBit 0 then [0x30 + s.layerVal F.SGN_L0_SRC_MAP] else []) ++
    (if (s.layerVal F.SGN_LAYERS_EN).testBit 1 then [0x10 + s.layerVal F.SGN_L1_SRC_STALL] else [])
  else []

/-- A RUNNING function depends on `fn` (R28). -/
def State.hasDependents (s : State) (fn : Nat) : Bool := s.run.any fun g => (s.deps g).contains fn

/-- Every function that `fn` depends on runs (R29). -/
def State.depsRun (s : State) (fn : Nat) : Bool := (s.deps fn).all fun g => s.running g

end Sys2Proof.Machine
end

