-- ==== Sys2Proof/Machine/Ecc.lean ====
section
/-! DEFINITION. The record memory's address map, its hammer tables and its error correction (13_dram R271, R282, R287 to R291). -/

namespace Sys2Proof.Machine

/-- Data capacity of one rank of the record memory, in GiB (R268). -/
def State.rankGiB (s : State) : Nat :=
  (if s.flag F.DRM_TOPO_WIDTH then 2 else 4) *
    (match s.val F.DRM_TOPO_DENS with | 0 => 16 | 1 => 24 | _ => 32)

/-- The fitted capacity in bytes (R268). -/
def State.dramSize (s : State) : Nat := s.rankGiB * (s.val F.DRM_TOPO_RANKS + 1) * 2 ^ 30

/-- The record memory changed. -/
def State.modDram (s : State) (f : Dram → Dram) : State := { s with dram := f s.dram }

/-- Subchannel `c` changed. -/
def State.modSub (s : State) (c : Fin 8) (f : Subchannel → Subchannel) : State :=
  s.modDram fun d => { d with subs := updAt d.subs c f }

/-- Where a record-memory address lies (R271). -/
structure DramPlace where
  sub : Fin 8
  local_ : Nat
  /-- the bank's number, its rank included -/
  bank : Nat
  row : Nat
  /-- the column of the burst within the row: C[9:4], with C[3:0] zero -/
  column : Nat
deriving DecidableEq, Repr

/-- The address map (R271). -/
def State.dramPlace (s : State) (a : Nat) : DramPlace :=
  let g := s.val F.DRM_MAP_GRAIN + 8
  let l := a / 2 ^ (g + 3) * 2 ^ g + a % 2 ^ g
  let k := s.rankGiB * 2 ^ 27
  let x16 := s.flag F.DRM_TOPO_WIDTH
  let r := l % k
  { sub := Fin.ofNat 8 (a / 2 ^ g), local_ := l
    bank := l / k * 32 + (if x16 then natBits l 6 2 * 4 + natBits l 14 2 else natBits l 6 3 * 4 + natBits l 15 2)
    row := if x16 then r / 2 ^ 16 else r / 2 ^ 17
    column := 16 * natBits l (if x16 then 8 else 9) 6 }

/-- Bank `b` of a subchannel. -/
def Subchannel.bank (x : Subchannel) (b : Nat) : Bank := Sparse.get (fun _ => ({} : Bank)) x.banks b

/-- An ACT in a hammer table of 32 entries (R282). -/
def hammerAct (l : List (Nat × Nat)) (row : Nat) : List (Nat × Nat) :=
  if l.any (·.1 == row) then l.map fun e => if e.1 = row then (e.1, e.2 + 1) else e
  else if l.length < 32 then l ++ [(row, 1)]
  else
    let low := l.foldl (fun a e => min a e.2) (l.headD (0, 0)).2
    match l.find? (·.2 == low) with
    | some e => l.erase e ++ [(row, low + 1)]
    | none => l

/-- A burst reaches a row: the row is opened where it is not (R277, R282). -/
def Bank.access (b : Bank) (row : Nat) : Bank :=
  if b.openRow = some row then b else { openRow := some row, hammer := hammerAct b.hammer row }

/-- The stall whose ring holds an address, and the slot (R290). -/
def State.ringAt (s : State) (a : Nat) : Option (Fin 16 × Nat) :=
  (List.finRange 16).findSome? fun n =>
    let u := (s.stalls[n]).setup
    if u.ring && decide (u.base ≤ a) && decide (a < u.base + u.slots * u.slotBytes) then
      some (n, (a - u.base) / u.slotBytes) else none

/-- An entry of the DRAM error log (R291). -/
def State.dramLog (s : State) (addr symbol finder : Nat) (uncorr : Bool) : State :=
  let e : DramLogEntry := {
    chron := s.now % 2 ^ 64, addr := addr, symbol := symbol, finder := finder, uncorr := uncorr
    codeword := addr / 8 % 8, stall := match s.ringAt addr with | some (n, _) => n.val + 1 | none => 0 }
  s.modDram fun d => { d with
    log := Sparse.set (fun _ => ({} : DramLogEntry)) d.log d.head e, head := (d.head + 1) % 64, total := (d.total + 1) % 2 ^ 24 }

/-- A header is asked to carry a flag (R290): at most 16 rewrites wait. -/
def State.askRewrite (s : State) (n : Fin 16) (slot flags : Nat) : State :=
  let l := s.dram.rewrites
  if l.any (fun r => r.stall == n && r.slot == slot) then
    s.modDram fun d => { d with rewrites := l.map fun r =>
      if r.stall = n ∧ r.slot = slot then { r with flags := r.flags ||| flags } else r }
  else if l.length < 16 then s.modDram fun d => { d with rewrites := l ++ [⟨n, slot, flags⟩] }
  else s.toll 202

/-- An error in a burst of a ring's slot is marked in that slot's header (R197, R290): in the segment that has no header yet,
or by a rewrite. -/
def State.markSlot (s : State) (a flags : Nat) : State :=
  match s.ringAt a with
  | none => s
  | some (n, slot) =>
    let t := s.stalls[n]
    let size := max 1 t.setup.slots
    let open_ := t.segs.filter fun g => g.number.isNone
    let numbers : List Nat := (List.range open_.length).map (t.segNo + ·)
    let mine (g : Segment) : Bool := match g.number with
      | some q => q % size == slot
      | none => (open_.zip numbers).any fun (h, q) => h == g && q % size == slot
    if t.segs.any mine then
      s.modStall n fun t => { t with segs := t.segs.map fun g => if mine g then { g with flags := g.flags ||| flags } else g }
    else if t.bell.bufFrom.isSome && (t.segNo + open_.length) % size == slot then
      s.modStall n fun t => { t with slotErrs := t.slotErrs ||| flags }
    else s.askRewrite n slot flags

/-- Symbol `i` of a codeword's errors. -/
def symbolAt (e : SymbolErrors) (i : Nat) : Nat := e.toNat / 256 ^ i % 256

/-- α times an element of GF(256), with field polynomial x^8 + x^4 + x^3 + x^2 + 1 (R287). -/
def gfAlpha (x : Nat) : Nat := if x < 128 then 2 * x else (2 * x) ^^^ 0x11D

/-- α^n times an element. -/
def gfAlphas : Nat → Nat → Nat
  | 0, x => x
  | n + 1, x => gfAlphas n (gfAlpha x)

/-- The syndromes S0 = c(1) and S1 = c(α) (R287): a codeword that was written contributes nothing to either, so they are those of
the errors. -/
def syndromes (e : SymbolErrors) : Nat × Nat :=
  (List.range 10).foldl (fun (p : Nat × Nat) i => (p.1 ^^^ symbolAt e i, gfAlpha p.2 ^^^ symbolAt e i)) (0, 0)

/-- The decoder (R287). -/
def rsDecode (e : SymbolErrors) : Codeword :=
  let (s0, s1) := syndromes e
  if s0 = 0 ∧ s1 = 0 then .clean
  else if s0 = 0 ∨ s1 = 0 then .uncorrectable
  else match (List.finRange 10).find? fun i => gfAlphas (9 - i.val) s0 == s1 with
    | some i => .corrected i
    | none => .uncorrectable

/-- The errors that stay in a codeword as the decoder delivers it (R287): none, where what it corrected was all there was. -/
def residualErrors (e : SymbolErrors) : SymbolErrors :=
  match rsDecode e with
  | .corrected i => e ^^^ BitVec.ofNat 80 ((syndromes e).1 * 256 ^ i.val)
  | _ => e

/-- The errors of a codeword's eight data bytes in the order of their addresses: byte t of it travels on lane t mod 4 in its beat
t / 4 and is symbol 2 (t mod 4) + t / 4 (R271, R287). -/
def dataErrors (e : SymbolErrors) : List Byte := (List.range 8).map fun t => BitVec.ofNat 8 (symbolAt e (2 * (t % 4) + t / 4))

/-- Errors that the decoder does not see, or has put in place of others, stand in the codeword from here on. -/
def State.leaveErrors (s : State) (cw : Nat) (e : SymbolErrors) : State :=
  let l := dataErrors e
  if l.all (· == 0) then s
  else s.dramWrite (8 * cw) ((memBytes s.dram.mem (8 * cw) 8).zipWith (· ^^^ ·) l)

/-- What a burst finds in a codeword, whose symbols have errors `e` (R287, R288, R291). -/
def State.codewordFound (s : State) (owner cw : Nat) (e : SymbolErrors) : State :=
  if s.dram.bad.contains cw || rsDecode e == .uncorrectable then
    (((s.modDram fun d => { d with bad := if d.bad.contains cw then d.bad else d.bad ++ [cw] }).toll 193).dramLog (cw * 8) 0xF
      owner true).markSlot (cw * 8) (2 ^ 9)
  else
    let t := s.leaveErrors cw (residualErrors e)
    match rsDecode e with
    | .corrected i =>
      let s1 := t.toll 192
      (if t.flag F.DRM_ECC_CTRL_LOGCORR then s1.dramLog (cw * 8) i owner false else s1).markSlot (cw * 8) (2 ^ 8)
    | _ => t

/-- The arbiter of subchannel `c` grants the present cycle to MAINT work, on a subchannel that is awake (R258, R265, R273). -/
def State.maintMay (s : State) (c : Fin 8) : Bool :=
  (s.dram.subs[c]).sr == .active && !(s.dram.subs[c]).taken && ((s.decidedFor (256 + c) 2).holder.map (·.req.port)) == some 2

/-- MAINT work takes the present cycle. -/
def State.takeCycle (s : State) (c : Fin 8) : State :=
  (s.setArb (256 + c) (s.decidedFor (256 + c) 2).used).modSub c fun x => { x with taken := true }

/-- An owner code asks for a cycle at a subchannel (R258, R280): a request during the entry to self-refresh counts toll 197. -/
def State.presentDram (s : State) (c : Fin 8) (owner : Nat) (held : Bool) (work : List Nat) (background : Bool) : State :=
  let s1 := s.present (256 + c) owner held work background
  match (s.dram.subs[c]).sr with
  | .entering _ => (s1.modSub c fun x => { x with sr := .entering true }).toll 197
  | _ => s1

/-- A codeword of the burst is corrected as it is read. -/
def State.corrects (s : State) (cw : Nat) (found : Vector SymbolErrors 8) : Bool :=
  (List.finRange 8).any fun k => !s.dram.bad.contains (cw + k.val) &&
    (match rsDecode found[k] with | .corrected _ => true | _ => false)

/-- What a read of a whole burst finds in its codewords, of which the first is number `cw`; a corrected burst is written back in a MAINT
cycle, for which the controller asks (R288). -/
def State.burstFound (s : State) (owner cw : Nat) (found : Vector SymbolErrors 8) : State :=
  let t := (List.finRange 8).foldl (fun s k => s.codewordFound owner (cw + k.val) found[k]) s
  if s.corrects cw found then t.presentDram (s.dramPlace (8 * cw)).sub 2 false [8 * cw] false else t

/-- A codeword of the burst is uncorrectable. -/
def State.burstBad (s : State) (cw : Nat) : Bool := (List.range 8).any fun k => s.dram.bad.contains (cw + k)

/-- Bytes of record memory read for the host by the READ class: those of an uncorrectable codeword are zero (R273, R288,
R348). -/
def State.readRecord (s : State) (a n : Nat) : List Byte × Bool × State :=
  let bad := (unitsOf 8 a n).filter s.dram.bad.contains
  let bytes := (List.range n).map fun i =>
    if s.dram.bad.contains ((a + i) / 8) then (0 : Byte) else memByte s.dram.mem (a + i)
  (bytes, !bad.isEmpty, bad.foldl (fun s cw => s.codewordFound 1 cw 0) s)

end Sys2Proof.Machine
end

