-- ==== Sys2Proof/Machine/Float32.lean ====
section
/-! DEFINITION. Binary32 numbers: the rounding of an exact result, to nearest with ties to even, and the comparison
(10_measurements R222, R224). -/

namespace Sys2Proof.Machine

/-- An exact result: a rational, the square root of a rational that is not negative, or the quiet NaN. -/
inductive Exact
  | num (x : Rat)
  | root (x : Rat)
  | nan
deriving DecidableEq, Repr

/-- The greatest e with 2^e ≤ q, for q > 0. -/
def ratLog2 (q : Rat) : Int :=
  let n := q.num.toNat
  let e : Int := (Nat.log2 n : Int) - Nat.log2 q.den
  if (if 0 ≤ e then decide (q.den * 2 ^ e.toNat ≤ n) else decide (q.den ≤ n * 2 ^ (-e).toNat)) then e else e - 1

/-- q × 2^k. -/
def ratScale (q : Rat) (k : Int) : Rat := if 0 ≤ k then q * 2 ^ k.toNat else q / 2 ^ (-k).toNat

/-- The floor of a positive number times 2^k, and whether it is exact; `root` for the square root of `q`. -/
def scaledFloor (root : Bool) (q : Rat) (k : Int) : Nat × Bool :=
  if root then
    let x := ratScale q (2 * k)
    let r := Nat.sqrt x.floor.toNat
    (r, decide (((r * r : Nat) : Rat) = x))
  else
    let x := ratScale q k
    (x.floor.toNat, decide (((x.floor.toNat : Nat) : Rat) = x))

/-- The binary32 magnitude nearest to `q`, or to its square root, for q > 0. -/
def magnitude32 (root : Bool) (q : Rat) : Nat :=
  let e := if root then ratLog2 q / 2 else ratLog2 q
  let quantum : Int := max (e - 23) (-149)
  let (m2, exact) := scaledFloor root q (1 - quantum)
  let m := m2 / 2
  let m' := if m2 % 2 = 0 then m else if exact then m + m % 2 else m + 1
  min 0x7F800000 (if e < -126 then m' else (e + 126).toNat * 2 ^ 23 + m')

/-- The quiet NaN of an undefined result (R222). -/
def quietNaN : Word := 0x7FC00000

/-- An exact result rounded once to binary32. -/
def Exact.round : Exact → Word
  | .nan => quietNaN
  | .num x =>
    if x = 0 then 0
    else if x < 0 then BitVec.ofNat 32 (2 ^ 31 + magnitude32 false (-x))
    else BitVec.ofNat 32 (magnitude32 false x)
  | .root x => if x ≤ 0 then 0 else BitVec.ofNat 32 (magnitude32 true x)

/-- A binary32 word is a NaN. -/
def isNaN32 (w : Word) : Bool := decide (0x7F800000 < w.toNat % 2 ^ 31)

/-- The order of binary32 words that are not NaN, −0 equal to +0. -/
def key32 (w : Word) : Int := if w.toNat < 2 ^ 31 then w.toNat else -(w.toNat % 2 ^ 31 : Nat)

/-- `a < b` as IEEE 754 values; false where one is a NaN. -/
def less32 (a b : Word) : Bool := !isNaN32 a && !isNaN32 b && decide (key32 a < key32 b)

end Sys2Proof.Machine
end

