-- ==== Sys2Proof/Machine/Measure.lean ====
section
/-! DEFINITION. Per-segment measurements (chapter 10): gates, crossings, and the catalogue of results. -/

namespace Sys2Proof.Machine

/-- What a slot is measured on: the inputs in its gate, each value apart (a pair gives two; DEDUCED, log entry 25), whether the
tally was without a position at a sample of the gate, the triggers of the reference stall, and where the free values
for unstated fractions begin. -/
structure Gated where
  vals : List Val
  noPos : Bool
  refTriggers : Option (List Rat)
  seed : Nat
deriving DecidableEq, Repr

/-- A crossing found by an edge type (R221): rising, its instant in mites and its position in grains. -/
structure Crossing where
  up : Bool
  instant : Rat
  pos : Rat
deriving DecidableEq, Repr

/-- F of a crossing of a level that may hold a fraction (R151); `free` where both values are the level. -/
def ratFrac (level : Rat) (prev v : Int) (free : Nat) : Nat :=
  if prev = v then free % 1024
  else min 1023 (roundAway (1024 * (1 - (level - prev) / (v - prev)))).toNat

/-- The crossing between two inputs at fraction F (R221). -/
def crossingAt (up : Bool) (a b : Val) (f : Nat) : Crossing :=
  { up := up, instant := b.chron - (f * (b.chron - a.chron) : Nat) / (1024 : Rat)
    pos := b.pos - f * diff64 b.pos a.pos / 1024 }

/-- The crossings of a level with hysteresis in a list of inputs (R221), both polarities, in order. `armR`, `armF`: armed
for a rising, for a falling crossing. -/
def crossingsFrom (level h : Rat) : Bool → Bool → Val → List Val → Nat → List Crossing
  | _, _, _, [], _ => []
  | armR, armF, a, b :: bs, seed =>
    let v : Rat := b.lo
    let f := ratFrac level a.lo b.lo (Config.freeValue seed)
    let up := armR && decide (level ≤ v)
    let down := armF && decide (v ≤ level)
    (if up then [crossingAt true a b f] else []) ++ (if down then [crossingAt false a b f] else []) ++
      crossingsFrom level h (!up && (armR || decide (v ≤ level - h))) (!down && (armF || decide (level + h ≤ v))) b bs
        (seed + 1)

/-- The crossings in a gate: the search starts disarmed at input 0 (R221). -/
def crossings (level h : Rat) (vals : List Val) (seed : Nat) : List Crossing :=
  match vals with
  | [] => []
  | a :: as => crossingsFrom level h (decide ((a.lo : Rat) ≤ level - h)) (decide (level + h ≤ (a.lo : Rat))) a as seed

/-- Those of a slot's polarity: 0 rising, 1 falling, 2 both. -/
def ofPolarity (pol : Nat) (l : List Crossing) : List Crossing :=
  match pol with
  | 0 => l.filter (·.up)
  | 1 => l.filter (!·.up)
  | _ => l

/-- Mites as seconds: 25 ps each. -/
def mitesToSeconds (m : Rat) : Rat := m * 25 / 1000000000000

def listMin (l : List Int) : Int := l.foldl min (l.headD 0)
def listMax (l : List Int) : Int := l.foldl max (l.headD 0)

/-- PERIOD in seconds, where two crossings or more exist. -/
def period (l : List Crossing) : Option Rat :=
  match l.head?, l.getLast? with
  | some a, some b => if 2 ≤ l.length then some (mitesToSeconds (b.instant - a.instant) / (l.length - 1 : Nat)) else none
  | _, _ => none

/-- DUTY: over the cycles between rising crossings, the high time over the whole (R222). -/
def duty (l : List Crossing) : Exact :=
  match ofPolarity 0 l with
  | first :: second :: more =>
    let last := (second :: more).getLast?.getD second
    let inside := l.filter fun c => decide (first.instant ≤ c.instant) && decide (c.instant ≤ last.instant)
    let high := (inside.foldl (fun (a : Rat × Option Rat) c =>
      if c.up then (a.1, some c.instant)
      else match a.2 with
        | some r => (a.1 + (c.instant - r), none)
        | none => a) (0, none)).1
    if last.instant = first.instant then .nan else .num (high / (last.instant - first.instant))
  | _ => .nan

/-- The first of `later` that has one of `before` before it: the time from the last such (RISE, FALL). -/
def edgeTime (before later : List Crossing) : Exact :=
  match later.findSome? fun c => ((before.filter fun b => decide (b.instant < c.instant)).getLast?).map fun b =>
      c.instant - b.instant with
  | some x => .num (mitesToSeconds x)
  | none => .nan

/-- PWIDTH: from the first crossing of the polarity to the next of the other. -/
def pulseWidth (up : Bool) (l : List Crossing) : Exact :=
  match l.dropWhile (·.up != up) with
  | a :: rest => match rest.find? (·.up != up) with
    | some b => .num (mitesToSeconds (b.instant - a.instant))
    | none => .nan
  | [] => .nan

/-- TURNMEAN (R222): the inputs from the last but one forward crossing of grain 0 to the last (DEDUCED, log entry 25). -/
def turnMean (vals : List Val) : Exact :=
  let steps : List (Int × Int) := (vals.zip vals.tail).map fun (a, b) => (b.lo, diff64 b.pos a.pos)
  let marks : List Nat := ((vals.zip vals.tail).zipIdx.filter fun (x, _) =>
    decide (x.1.pos / 2 ^ 32 < x.2.pos / 2 ^ 32)).map (·.2)
  match marks.reverse with
  | k2 :: k1 :: _ =>
    let part := (steps.drop k1).take (k2 - k1)
    let d : Int := (part.map fun x => x.2).sum
    if (part.any fun x => decide (x.2 < 0)) || d == 0 then .nan
    else .num (((part.map fun x => x.1 * x.2).sum : Int) / (d : Rat))
  | _ => .nan

/-- The square of |Σ v Δ exp(−j 2π κ p / 2^32)| with κ in sixteenths, over inputs given as their value, position and the angle they
span (R222, ORDER). -/
def orderSquare (ord : Nat) (l : List (Int × Int × Int)) : Rat :=
  let sum := l.foldl (fun (a : Rat × Rat) (v, p, d) =>
    let (c, s) := turnCosSin (((-(ord * p) : Int) : Rat) / 2 ^ 36)
    (a.1 + (v * d : Int) * c, a.2 + (v * d : Int) * s)) (0, 0)
  sum.1 * sum.1 + sum.2 * sum.2

/-- The result of a measurement slot with words 0 and 1 on its gate (R222, R223). -/
def measure (cfg param : Nat) (g : Gated) : Exact :=
  let ty := natBits cfg 0 5
  let pol := natBits cfg 7 2
  let single := if pol = 2 then 0 else pol
  let a : Int := signed 16 param
  let h : Rat := natBits param 16 16
  let xs := g.vals.map (·.lo)
  let m := xs.length
  let mn := listMin xs
  let mx := listMax xs
  let square : Rat := ((xs.map fun x => x * x).sum : Int) / (m : Rat)
  let mean : Rat := (xs.sum : Int) / (m : Rat)
  let all := crossings a h g.vals g.seed
  if m = 0 && ty != 0x0F then .nan
  else if angleType ty && g.noPos then .nan
  else match ty with
  | 0x01 => .num mn
  | 0x02 => .num mx
  | 0x03 => .num ((mx - mn : Int) : Rat)
  | 0x04 => .num mean
  | 0x05 => .root square
  | 0x06 => .root (max 0 (square - mean * mean))
  | 0x07 => match period (ofPolarity single all) with | some p => .num p | none => .nan
  | 0x08 => match period (ofPolarity single all) with | some p => if p = 0 then .nan else .num (1 / p) | none => .nan
  | 0x09 => duty all
  | 0x0A =>
    let (lo, hi) := if natBits param 0 16 = 0 then (10, 90) else (natBits param 0 8, natBits param 8 8)
    let level (p : Nat) : Rat := mn + (mx - mn : Int) * (p : Rat) / 100
    edgeTime (ofPolarity 0 (crossings (level lo) h g.vals g.seed)) (ofPolarity 0 (crossings (level hi) h g.vals g.seed))
  | 0x0B =>
    let (lo, hi) := if natBits param 0 16 = 0 then (10, 90) else (natBits param 0 8, natBits param 8 8)
    let level (p : Nat) : Rat := mn + (mx - mn : Int) * (p : Rat) / 100
    edgeTime (ofPolarity 1 (crossings (level hi) h g.vals g.seed)) (ofPolarity 1 (crossings (level lo) h g.vals g.seed))
  | 0x0C =>
    let base := signed 16 (natBits param 16 16)
    if a = base then .nan else .num (100 * (mx - a : Int) / ((a - base : Int) : Rat))
  | 0x0D =>
    if m < 2 then .nan
    else .num (mitesToSeconds ((g.vals.zip g.vals.tail).map fun (x, y) => (x.lo * ((y.chron : Int) - x.chron))).sum)
  | 0x0E => if square = 0 then .nan else .root (((max mn.natAbs mx.natAbs) ^ 2 : Nat) / square)
  | 0x0F => .num (ofPolarity pol all).length
  | 0x10 => pulseWidth (single == 0) all
  | 0x11 => match (ofPolarity pol all).head?, g.refTriggers with
    | some c, some ts => match (ts.filter fun t => decide (t ≤ c.instant)).getLast? with
      | some t => .num (mitesToSeconds (c.instant - t))
      | none => .nan
    | _, _ => .nan
  | 0x12 => match (ofPolarity pol all).head? with
    | some c => .num (c.pos - (c.pos / (2 ^ 32 : Nat) + 1 / 2).floor * (2 ^ 32 : Nat))
    | none => .nan
  | 0x13 => turnMean g.vals
  | 0x14 =>
    let span : Int := match g.vals.head?, g.vals.getLast? with
      | some x, some y => diff64 y.pos x.pos
      | _, _ => 0
    if m < 2 ∨ span ≤ 0 then .nan
    else .root (4 * orderSquare (natBits param 0 16)
      ((g.vals.zip g.vals.tail).map fun (x, y) => (y.lo, y.pos, diff64 y.pos x.pos)) / (span * span : Int))
  | _ => .nan

/-- The samples of a slot's gate, first and last (R219). -/
def gateOf (cfg : Nat) (s t e : Nat) : Nat × Nat :=
  match natBits cfg 5 2 with
  | 1 => (t, e)
  | 2 => (s, t - 1)
  | _ => (s, e)

/-- The gate is empty: PRE with the trigger at or before the span's beginning. -/
def gateEmpty (cfg : Nat) (s t : Nat) : Bool := natBits cfg 5 2 == 2 && decide (t ≤ s)

/-- A pair taken as two values, minimum first. DEDUCED (log entry 25). -/
def splitPair (pair : Bool) (v : Val) : List Val :=
  if pair then [{ v with hi := v.lo }, { v with lo := v.hi }] else [v]

/-- A RESULT entry of the ledger without its FAIL flags (R226). -/
def resultEntry (number slot : Nat) (r : Exact) (m : Nat) : List Byte :=
  leBytes 5 number ++ [0, BitVec.ofNat 8 slot, if r = .nan then 4 else 0] ++ leBytes 4 r.round.toNat ++
    leBytes 4 (min m 0xFFFFFFFF)

/-- A MARK entry (R195, R226). -/
def markEntry (number state : Nat) (distance : Int) : List Byte :=
  leBytes 5 number ++ [1, BitVec.ofNat 8 state, 0] ++ leSigned 8 distance

/-- A SETTLING entry (R214, R226). -/
def settlingEntry (number count first : Nat) : List Byte :=
  leBytes 5 number ++ [2, 0, 0] ++ leBytes 4 count ++ leBytes 4 first

end Sys2Proof.Machine
end

