-- ==== Sys2Proof/Machine/Formats.lean ====
section
/-! DEFINITION. Record formats (chapter 08): units, ANGLE words, CHANGE tokens, and the segment header. -/

namespace Sys2Proof.Machine

/-- Bits of a unit of a circular format (R182). -/
def unitBits (fmt : Nat) : Nat := match fmt with | 0 => 12 | 1 => 16 | _ => 32

/-- The 12-bit value of PACK12 and CHANGE (R185). -/
def code12 (nshift : Nat) (v : Int) : Int := satSigned 12 (shiftRound v nshift)

/-- The low `w` bits of a number in two's complement. -/
def lowBits (w : Nat) (v : Int) : Nat := (v % (2 ^ w : Nat)).toNat

/-- A unit as it is written (R186). -/
def unitCode (fmt nshift : Nat) (v : Val) : Nat :=
  match fmt with
  | 0 => lowBits 12 (code12 nshift v.lo)
  | 1 => lowBits 16 v.lo
  | _ => lowBits 16 v.lo + 2 ^ 16 * lowBits 16 v.hi

/-- Units of `w` bits as one little-endian bit string. -/
def bitString (w : Nat) : List Nat → Nat
  | [] => 0
  | u :: us => u + 2 ^ w * bitString w us

/-- `n` bits `v` replace those from bit `at_` of a memory on. -/
def bitWrite (m : List Host.Cell) (addr at_ n v : Nat) : List Byte :=
  let bytes := (at_ % 8 + n + 7) / 8
  let old := memNat m (addr + at_ / 8) bytes
  let lo := at_ % 8
  leBytes bytes (old % 2 ^ lo + 2 ^ lo * (v % 2 ^ n) + 2 ^ (lo + n) * (old / 2 ^ (lo + n)))

/-- The words of an ANGLE record (R187): those that fit in `room` words, the outputs they hold, and whether some did not
fit. -/
def angleWords (klog : Nat) : Nat → Option (Bool × Nat) → List Val → List Nat × Nat × Bool
  | _, _, [] => ([], 0, false)
  | room, prev, v :: vs =>
    let m := 2 ^ klog
    let goes := match prev with
      | some (r, i) => r == v.reverse && (if r then (i + m - 1) % m else (i + 1) % m) == v.point
      | none => false
    let w := lowBits 16 (if v.lo < -32766 then -32766 else v.lo)
    let ws := if goes then [w] else [if v.reverse then 0x8001 else 0x8000, v.point, w]
    if room < ws.length then ([], 0, true)
    else
      let (rest, n, full) := angleWords klog (room - ws.length) (some (v.reverse, v.point)) vs
      (ws ++ rest, n + 1, full)

/-- The indices and values of the CHANGE tokens of a block under HOLD (R190). -/
def holdTokens (dead : Nat) : Int → Nat → List Int → List (Nat × Int)
  | _, _, [] => []
  | x, j, v :: vs =>
    if dead < (v - x).natAbs then (j, v) :: holdTokens dead v (j + 1) vs else holdTokens dead x (j + 1) vs

/-- A value between the last token and index `j` lies more than the deadband from the line joining them (R190). `mid`:
the values after the token, in order. -/
def offLine (dead : Nat) (a : Nat) (x : Int) (mid : List Int) (j : Nat) (v : Int) : Bool :=
  mid.zipIdx.any fun (u, i) =>
    decide ((dead : Int) * (j - a : Nat) < ((u - x) * (j - a : Nat) - (v - x) * (i + 1 : Nat)).natAbs)

/-- The tokens of a block under LINEAR (R190): from the last token on, at index `a` with value `x`, and the values since. The
last token lies at the block's last index (R189). -/
def linearTokens (dead : Nat) : Nat → Int → List Int → Nat → List Int → List (Nat × Int)
  | _, _, [], _, [] => []
  | _, _, m :: ms, j, [] => [(j - 1, (m :: ms).getLastD m)]
  | a, x, mid, j, v :: vs =>
    if offLine dead a x mid j v then
      let u := mid.getLastD x
      (j - 1, u) :: linearTokens dead (j - 1) u [v] (j + 1) vs
    else linearTokens dead a x (mid ++ [v]) (j + 1) vs

/-- The words of CHANGE tokens at ascending indices, GAPs included (R188). -/
def changeWords : Nat → List (Nat × Int) → List Nat
  | _, [] => []
  | a, (j, v) :: l =>
    let d := j - a
    (if 65535 < d then [2 ^ 30 + d / 65536] else []) ++ [d % 65536 * 2 ^ 14 + lowBits 12 v] ++ changeWords j l

/-- A RAW token and its words (R188). -/
def rawToken (l : List Int) : List Nat :=
  let c := l.map (lowBits 12)
  let rest := bitString 12 (c.drop 2)
  [2 ^ 31 + l.length % 64 * 2 ^ 24 + (c.getD 1 0) * 2 ^ 12 + c.headD 0] ++
    (List.range ((12 * (l.length - 2) + 31) / 32)).map fun i => rest / 2 ^ (32 * i) % 2 ^ 32

/-- The RAW coding of a block (R189). -/
def rawWords (l : List Int) : List Nat :=
  (List.range ((l.length + 63) / 64)).flatMap fun i => rawToken ((l.drop (64 * i)).take 64)

/-- The data tokens of a block (R189 to R191). -/
def blockWords (dead : Nat) (linear : Bool) (l : List Int) : List Nat :=
  match l with
  | [] => []
  | v :: vs =>
    let toks := (0, v) :: (if linear then linearTokens dead 0 v [] 1 vs else holdTokens dead v 1 vs)
    let cw := changeWords 0 toks
    let rw_ := rawWords l
    if cw.length ≤ rw_.length then cw else rw_

/-- A mark of a CHANGE record: value index, kind, Bell state (R188). -/
structure ChangeMark where
  at_ : Nat
  kind : Nat
  state : Nat := 0
deriving DecidableEq, Repr

/-- The order of marks (R189). -/
def ChangeMark.le (a b : ChangeMark) : Bool := decide (a.at_ < b.at_) || (a.at_ == b.at_ && decide (a.kind ≤ b.kind))

/-- The words of a CHANGE record in blocks of `b` values, and the marks dropped (R189 to R192). -/
def changeRecord (b dead : Nat) (linear : Bool) (marks : List ChangeMark) (vals : List Int) : List Nat × Nat :=
  let blocks := (List.range ((vals.length + b - 1) / b)).map fun i =>
    let mine := ((marks.filter fun m => m.at_ / b == i).insertionSort (fun x y => ChangeMark.le x y = true))
    let kept := mine.take (b / 128)
    ((kept.map fun m => 3 * 2 ^ 30 + m.kind * 2 ^ 27 + m.state * 2 ^ 24 + m.at_ % b) ++
      blockWords dead linear ((vals.drop (b * i)).take b), mine.length - kept.length)
  (blocks.flatMap (·.1), (blocks.map (·.2)).sum)

/-- A segment header's bytes 0x00 to 0x3B (R196). -/
structure Header where
  chron : Nat
  tally : Int
  dead : Nat
  calofs : Nat
  fracfmt : Nat
  flags : Nat
  meas : Nat
  segno : Nat
  pre : Int
  post : Nat
  first : Nat
  utrig : Int
  ucount : Nat
deriving DecidableEq, Repr

/-- The header as it is written, its CRC at the end (R196, R198). -/
def Header.bytes (h : Header) : List Byte :=
  let b := leBytes 8 h.chron ++ leSigned 8 h.tally ++ leBytes 4 h.dead ++ leBytes 4 h.calofs ++ leBytes 2 h.fracfmt ++
    leBytes 2 h.flags ++ leBytes 2 h.meas ++ leBytes 5 h.segno ++ leSigned 5 h.pre ++ leBytes 5 h.post ++
    leBytes 5 h.first ++ leSigned 5 h.utrig ++ leBytes 5 h.ucount
  b ++ leBytes 4 (crc32 b)

end Sys2Proof.Machine
end

