-- ==== Sys2Proof/Machine/Weighers.lean ====
section
/-! DEFINITION. The weigher pool (chapter 06): assignment, migration, self-test, retirement and the hang watchdog. -/

namespace Sys2Proof.Machine

/-- The weighers with weigher `w` changed. -/
def State.modWeigher (s : State) (w : Fin 68) (f : Weigher → Weigher) : State :=
  { s with pool := { s.pool with weighers := updAt s.pool.weighers w f } }

/-- The number of weighers with a role that `p` admits. -/
def Pool.count (p : Pool) (f : Role → Bool) : Nat := ((List.finRange 68).filter fun w => f (p.weighers[w]).role).length

/-- H, the weighers not retired (R137). -/
def Pool.healthy (p : Pool) : Nat := p.count (· != .retired)

/-- Weighers assigned to stalls. -/
def Pool.assigned (p : Pool) : Nat := p.count fun r => r == .assigned || r == .source

/-- Weighers free: those neither retired nor assigned, so one under self-test and the destination of a migration count (R137).
DEDUCED (log entry 75). -/
def Pool.free (p : Pool) : Nat := p.count fun r => r == .free || r == .testing || r == .destination

/-- The assignable limit (R137). -/
def Pool.limit (p : Pool) : Nat := min 64 (p.healthy - 1)

/-- SPARE_LOW (R138). -/
def Pool.spareLow (p : Pool) : Bool := p.free ≤ 1

/-- Attention at level warning where SPARE_LOW has become set since `old` (R138). -/
def State.spareCheck (s : State) (old : Pool) : State :=
  if s.pool.spareLow && !old.spareLow then s.attention 2 else s

/-- The free weighers that are neither under self-test nor the destination of a migration, ascending. -/
def Pool.freeList (p : Pool) : List (Fin 68) := (List.finRange 68).filter fun w => (p.weighers[w]).role == .free

/-- The W weighers that a START takes (R137): the lowest-numbered free ones, and the one under self-test if they do not
suffice. -/
def Pool.pick (p : Pool) (w : Nat) : List (Fin 68) :=
  (p.freeList ++ (List.finRange 68).filter fun k => (p.weighers[k]).role == .testing).take w

/-- `w` weighers are assigned to stall `n` (R137). -/
def State.assignWeighers (s : State) (n : Fin 16) (w : Nat) : State :=
  let picked := s.pool.pick w
  let s1 := (picked.zipIdx).foldl (fun s (k, i) => s.modWeigher k fun _ => { role := .assigned, stall := n, share := i }) s
  let s2 := match s.pool.test with
    | some (k, _) => if picked.contains k then { s1 with pool := { s1.pool with test := none } } else s1
    | none => s1
  s2.spareCheck s.pool

/-- A weigher serves stall `n`. -/
def Weigher.serves (x : Weigher) (n : Fin 16) : Bool :=
  x.stall == n && (x.role == .assigned || x.role == .source || x.role == .destination)

/-- The weighers of stall `n` become free; a migration of one of them is abandoned (R137, pool coincidences). -/
def State.freeWeighers (s : State) (n : Fin 16) : State :=
  let p := s.pool
  let moves := match p.move with
    | some m => (p.weighers[m.src]).serves n
    | none => false
  { s with pool := { p with
      weighers := p.weighers.map fun x => if x.serves n then {} else x
      move := if moves then none else p.move
      hung := p.hung.filter fun h => h.stall != n } }

/-- The next weigher to be tested from `k` on, retired ones skipped (R140). -/
def Pool.nextTest (p : Pool) (k : Fin 68) : Option (Fin 68) :=
  ((List.range 68).map fun i => Fin.ofNat 68 (k.val + i)).find? fun w => (p.weighers[w]).role != .retired

/-- Length of a self-test (R140), of a migration's copy and of its transfer (R139), in mites. -/
def testMites : Nat := 262144 * mitesPerTick
def copyMites : Nat := 4096 * mitesPerTick
def transferMites : Nat := 64 * mitesPerTick

/-- The self-test of a weigher begins. -/
def State.beginTest (s : State) (w : Fin 68) : State :=
  let s1 := s.modWeigher w fun _ => { role := .testing }
  { s1 with pool := { s1.pool with test := some (w, s.now + testMites) } }

/-- One second and one tick period of the pool's clock in mites. -/
def secondMites : Nat := 40000000000

/-- The weigher that a test is due for: one to be tested out of turn, else the next in the round. -/
def Pool.selected (p : Pool) : Option (Fin 68) :=
  match p.outOfTurn.filter fun w => (p.weighers[w]).role != .retired with
  | w :: _ => some w
  | [] => p.nextTest p.next

/-- The selected weigher has been taken up: the round goes on after it. -/
def Pool.tookUp (p : Pool) (w : Fin 68) : Pool :=
  if p.outOfTurn.contains w then { p with outOfTurn := p.outOfTurn.erase w }
  else { p with next := Fin.ofNat 68 (w.val + 1) }

/-- WGH_TEST_PERIOD_EXPIRY (R140): the next weigher is tested in place, or its chain is migrated first, or the test is
postponed. -/
def testPeriod (s : State) : State :=
  let per := s.lastWritten (F.WGH_TEST_PERIOD_PER.num)
  if !s.reached s.pool.periodAt then s
  else
    let s1 := { s with pool := { s.pool with
      periodAt := s.pool.periodAt + max 1 (F.WGH_TEST_PERIOD_PER.get per) * secondMites } }
    if s.val F.WGH_TEST_PERIOD_PER = 0 then s1.bringIntoForce [F.WGH_TEST_PERIOD_PER.num]
    else
      let s1 := s1.bringIntoForce [F.WGH_TEST_PERIOD_PER.num]
      match s.pool.selected with
      | none => s1
      | some w =>
        if s.pool.test.isSome || s.pool.move.isSome then s1.toll 50
        else
          let s2 := { s1 with pool := s1.pool.tookUp w }
          match (s.pool.weighers[w]).role, s.pool.freeList.head? with
          | .free, _ => s2.beginTest w
          | _, some d =>
            let x := s.pool.weighers[w]
            let s3 := (s2.modWeigher w fun y => { y with role := .source }).modWeigher d fun _ =>
              { role := .destination, stall := x.stall, share := x.share }
            { s3 with pool := { s3.pool with move := some { src := w, dst := d, due := s.now + copyMites } } }
          | _, none => s1.toll 50

/-- WGH_TEST_PERIOD_EXPIRY. -/
def execWghTestPeriodExpiry (s : State) : Result := .next (testPeriod s)

/-- MIGRATION_COPY_DONE (R139): the copy is over, and the migration waits for the next block boundary of its stall. -/
def migrationCopied (s : State) : State :=
  match s.pool.move with
  | some m =>
    if m.stage = .copying ∧ s.reached m.due then
      { s with pool := { s.pool with move := some { m with stage := .waiting } } }
    else s
  | none => s

/-- A block boundary of stall `n`'s stream (R128, R139): a migration that waits for it begins the transfer of the working state,
which takes 64 ticks. DEDUCED (log entry 75). -/
def State.blockBoundary (s : State) (n : Fin 16) : State :=
  match s.pool.move with
  | some m =>
    if m.stage = .waiting ∧ (s.pool.weighers[m.src]).stall = n then
      { s with pool := { s.pool with move := some { m with stage := .transferring, due := s.now + transferMites } } }
    else s
  | none => s

/-- MIGRATION_COPY_DONE. -/
def execMigrationCopyDone (s : State) : Result := .next (migrationCopied s)

/-- MIGRATION_SWITCH (R139, R140): the destination takes the source's place, and the source is tested. -/
def migrationSwitch (s : State) : State :=
  match s.pool.move with
  | some m =>
    if m.stage = .transferring ∧ s.reached m.due then
      let s1 := s.modWeigher m.dst fun y => { y with role := .assigned }
      { s1 with pool := { s1.pool with move := none } }.beginTest m.src
    else s
  | none => s

/-- MIGRATION_SWITCH. -/
def execMigrationSwitch (s : State) : Result := .next (migrationSwitch s)

/-- WGH_TEST_DONE (R140, R141): a weigher that passes becomes free, one that fails is retired. -/
def testDone (pass : Bool) (s : State) : State :=
  match s.pool.test with
  | some (w, due) =>
    if s.reached due then
      let s1 := s.modWeigher w fun _ => { role := if pass then .free else .retired }
      let s2 := { s1 with pool := { s1.pool with
        test := none, last := w, failed := !pass, tests := (s.pool.tests + 1) % 65536 } }
      if pass then s2 else ((s2.toll 48).attention 2).spareCheck s.pool
    else s
  | none => s

/-- WGH_TEST_DONE. -/
def execWghTestDone (pass : Bool) (s : State) : Result := .next (testDone pass s)

/-- A source sample is dealt to a share of a stall's weighers: blocks of 256 consecutive containers in rotation (R128). -/
def State.dealtTo (s : State) (n : Fin 16) (share num : Nat) : Bool :=
  let w := ((List.finRange 68).filter fun k =>
    (s.pool.weighers[k]).serves n && (s.pool.weighers[k]).role != .destination).length
  num / 256 % max 1 w == share

/-- What a hung weigher has lost since the hang began (R143): the values kept of its containers and those on their way through
the Sieve, and the tags of the ticks in which it got any. DEDUCED (log entry 51). -/
def State.loseContainers (s : State) (n : Fin 16) (share since : Nat) : State :=
  let gone (v : Val) : Bool := decide (since ≤ v.tick) && s.dealtTo n share v.num
  let units (t : Stall) : List Val :=
    ((t.kept.filter fun x => x.1 == t.setup.stages.length).map (·.2)) ++
      ((s.sieve.outputs.filter fun x => x.2.1 == n).map (·.2.2)) ++ ((s.sieve.inputs.filter fun x => x.1 == n).map (·.2.1))
  let s1 := s.modStall n fun t => { t with
    gaps := { t.gaps with lost := t.gaps.lost ++ ((units t).filter gone).map (·.num) }
    kept := t.kept.filter fun (_, v) => !gone v
    tags := t.tags.map fun g =>
      { g with lost := g.lost || (since ≤ g.tick && (List.range g.count).any fun i => s.dealtTo n share (g.first + i)) } }
  { s1 with sieve := { s1.sieve with
      inputs := s.sieve.inputs.filter fun x => !(x.1 == n && gone x.2.1)
      outputs := s.sieve.outputs.filter fun x => !(x.2.1 == n && gone x.2.2) } }

/-- The watchdog's reset forces a weigher's requests low (R142, R264): those of its stall's aisle, and of the migration port
where it takes part in a migration. DEDUCED (log entry 51). -/
def State.resetWeigher (s : State) (n : Fin 16) (moves : Bool) : State :=
  let s1 := s.resetPort false n
  if moves then s1.resetPort false 25 else s1

/-- The block of stall `n`'s stream that is being dealt (R128). -/
def State.blockOf (s : State) (n : Fin 16) : Nat := (s.stalls[n]).samples / 256

/-- WGH_HANG (R142, R143): the watchdog resets a weigher that serves a stall. A migration it takes part in is abandoned,
and the chain goes on where it has not hung; otherwise it is to restart on the lowest-numbered free weigher, or in place.
The containers dealt to it since the hang began are lost. DEDUCED (log entry 51). -/
def weigherHang (w : Fin 68) (s : State) : State :=
  let p := s.pool
  let x := p.weighers[w]
  let lim := s.val F.WGH_HANG_LIMIT_LIM
  if !(x.role == .assigned || x.role == .source || x.role == .destination) then s
  else
    let s := s.resetWeigher x.stall (match p.move with | some m => m.src == w || m.dst == w | none => false)
    let s := if x.role == .destination then s else s.loseContainers x.stall x.share (s.now - lim * mitesPerTick)
    let other : Option (Fin 68) := match p.move with
      | some m => if m.src = w then some m.dst else if m.dst = w then some m.src else none
      | none => none
    let detail (inPlace : Bool) : Int := x.stall.val + (if inPlace then 16 else 0)
    match other with
    | some o =>
      let s1 := (s.modWeigher w fun _ => {}).modWeigher o fun y => { y with role := .assigned }
      ({ s1 with pool := { s1.pool with move := none, outOfTurn := s1.pool.outOfTurn ++ [w] } }.toll 49).logEvent 0x05 w 49
        (detail false)
    | none =>
      let hung (u : Fin 68) (inPlace : Bool) : Hung :=
        { weigher := u, inPlace := inPlace, stall := x.stall, share := x.share, block := s.blockOf x.stall }
      match p.freeList.head? with
      | some d =>
        let s2 := (s.modWeigher w fun _ => {}).modWeigher d fun _ => x
        ({ s2 with pool := { s2.pool with
            outOfTurn := s2.pool.outOfTurn ++ [w]
            hung := s2.pool.hung ++ [hung d false] } }.toll 49).logEvent 0x05 w 49 (detail false)
      | none =>
        ({ s with pool := { s.pool with
            outOfTurn := s.pool.outOfTurn ++ [w]
            hung := s.pool.hung ++ [hung w true] } }.toll 49).logEvent 0x05 w 49 (detail true)

/-- WGH_HANG. -/
def execWghHang (w : Fin 68) (s : State) : Result := .next (weigherHang w s)

/-- HUNG_CHAIN_RESTART (R142): at a block boundary after the hang, the chain restarts on weigher `w` with its stage state
cleared: delay lines, accumulators, groups and counters hold zero (R128). DEDUCED (log entry 51). -/
def hungRestart (w : Fin 68) (s : State) : State :=
  match s.pool.hung.find? (·.weigher == w) with
  | some h =>
    if h.block < s.blockOf h.stall then
      (({ s with pool := { s.pool with hung := s.pool.hung.erase h } }).modStall h.stall fun t =>
        { t with
          stageStates := t.stageStates.map fun _ => {}
          gaps := { t.gaps with restarts := (t.samples, t.gaps.counted t.setup.dtot t.samples) :: t.gaps.restarts } }).tollIf h.inPlace 51
    else s
  | none => s

/-- HUNG_CHAIN_RESTART. -/
def execHungChainRestart (w : Fin 68) (s : State) : Result := .next (hungRestart w s)

/-- WGH_POOL. -/
def State.poolWord (s : State) : Word :=
  let p := s.pool
  F.WGH_POOL_HEALTHY.put p.healthy ||| F.WGH_POOL_ASSIGNED.put p.assigned ||| F.WGH_POOL_FREE.put p.free |||
  F.WGH_POOL_SPARE_LOW.put p.spareLow.toNat ||| F.WGH_POOL_LIMIT.put p.limit

/-- WGH_TEST. NEXT is the weigher that the next period selects (R140). -/
def State.wghTestWord (s : State) : Word :=
  let p := s.pool
  F.WGH_TEST_NEXT.put (p.selected.getD p.next) ||| F.WGH_TEST_RUNNING.put (p.test.isSome || p.move.isSome).toNat |||
  F.WGH_TEST_LAST.put p.last ||| F.WGH_TEST_FAIL.put p.failed.toNat ||| F.WGH_TEST_TESTS.put p.tests

/-- WGH_RETIRED0 to WGH_RETIRED2 (R141). -/
def State.wghRetiredWord (s : State) (i : Nat) : Word :=
  ((List.finRange 68).filter fun k => k.val / 32 == i && (s.pool.weighers[k]).role == .retired).foldl
    (fun a k => a ||| BitVec.ofNat 32 (2 ^ (k.val % 32))) 0

/-- WGH_OWNk. -/
def State.wghOwnWord (s : State) (k : Fin 68) : Word :=
  let x := s.pool.weighers[k]
  (if x.role == .assigned || x.role == .source || x.role == .destination then
    F.WGH_OWN_STALL.put x.stall ||| F.WGH_OWN_SHARE.put x.share else 0) ||| F.WGH_OWN_ROLE.put x.role.code

end Sys2Proof.Machine
end

