-- ==== Sys2Proof/Machine/Records.lean ====
section
/-! DEFINITION. Segments from their close to their header (chapters 08 and 10), and the STOP of a stall. -/

namespace Sys2Proof.Machine

/-- The first sample of a segment's span (R179). -/
def Segment.start (g : Segment) : Nat := max g.first (g.last + 1 - g.setup.cap)

/-- The values kept for a segment at the input of stage `i`; `i` = NSTAGES for the record's units. -/
def Segment.keptAt (g : Segment) (t : Stall) (i : Nat) : List Val :=
  let l := match g.own with | some (k, _) => k | none => t.kept
  (l.filter fun x => x.1 == i).map (·.2)

/-- The units lost of a segment's stall. -/
def Segment.gapsOf (g : Segment) (t : Stall) : Gaps := if g.own.isSome then g.gaps else t.gaps

/-- The tags of the ticks of a segment. -/
def Segment.tagsOf (g : Segment) (t : Stall) : List TickTag := match g.own with | some (_, k) => k | none => t.tags

/-- A tick holds a sample from `a` to `b`. -/
def TickTag.touches (k : TickTag) (a b : Nat) : Bool := decide (0 < k.count) && decide (k.first ≤ b) && decide (a < k.first + k.count)

/-- The tick lies between those of samples `a` and `b`, theirs included; a tick without samples lies at the number of the
next sample. -/
def TickTag.within (k : TickTag) (a b : Nat) : Bool :=
  k.touches a b || (k.count == 0 && decide (a < k.first) && decide (k.first ≤ b))

/-- Values attributed to samples from `a` to `b`. -/
def between (a b : Nat) (l : List Val) : List Val := l.filter fun v => decide (a ≤ v.num) && decide (v.num ≤ b)

/-- The first stage for which `p` holds, with its index. -/
def Setup.findStage (u : Setup) (p : StageOp → Bool) : Option (Nat × StageDef) :=
  (u.stages.zipIdx.find? fun x => p x.1.op).map fun x => (x.2, x.1)

/-- The index of the ENVELOPE stage with its factor and ENVN (R184). -/
def Setup.envelope (u : Setup) : Option (Nat × StageDef) := u.findStage (·.isEnvelope)

/-- Bits of a record's TURNRES index. -/
def Setup.klog (u : Setup) : Nat :=
  match u.findStage (·.isTurnres) with
  | some (_, ⟨.turnres k _ _, _⟩) => k
  | _ => 0

/-- The record's units come by position, and so in no fixed number to the samples, but it is a circular one (R182, R183): a TURNRES
before the stage that forms them. -/
def Setup.uneven (u : Setup) : Bool := u.ring && u.klog != 0 && decide (u.fmt ≤ 2)

/-- Units of a segment's stall attributed to samples before `a` since its START (R183): by the number of samples, or counted. -/
def Segment.unitsBefore (g : Segment) (t : Stall) (a : Nat) : Nat :=
  if !g.setup.uneven then (g.gapsOf t).before g.setup.dtot a
  else
    let seen := if a = g.first then g.unitsFirst else if a = g.trig.num then g.unitsTrig else none
    seen.getD ((g.gapsOf t).gone + ((g.keptAt t g.setup.stages.length).filter fun v => decide (v.num < a)).length)

/-- The slots that the stall evaluates. -/
def Setup.slotsSelected (u : Setup) : List Nat := slotsOf u.stages

/-- Word `w` of measurement slot `i` as it stood at START. -/
def Setup.slotWord (u : Setup) (i w : Nat) : Nat := (Sparse.get msReset u.ms (4 * i + w)).toNat

/-- The outputs that belong to the span have all come out (R199, R203): a TURNRES needs the input after the span's last
sample and one more, the Sieve its release; a DELAY slot needs its reference stall to have evaluated as far. -/
def State.outputsComplete (s : State) (n : Fin 16) (g : Segment) : Bool :=
  let t := s.stalls[n]
  let need := g.last + 1 + (if g.setup.klog = 0 then 0 else 1)
  let endTime : Nat := g.trig.chron + (g.last - g.trig.num) * g.setup.nominal
  (match g.own with
    | some _ => s.reached g.readyAt
    | none =>
      decide (need ≤ t.samples) && t.bell.obs.all (fun v => decide (g.last < v.num)) &&
      (!g.setup.sieve ||
        (s.sieve.inputs.all (fun x => x.1 != n || decide (g.last < x.2.1.num)) &&
         s.sieve.outputs.all (fun x => x.2.1 != n || decide (g.last < x.2.2.num))))) &&
  (g.setup.slotsSelected.all fun i =>
    let cfg := g.setup.slotWord i 0
    natBits cfg 0 5 != 0x11 ||
      (s.bell (Fin.ofNat 16 (natBits cfg 9 4))).obs.all fun v => decide (endTime < v.chron))

/-- A segment may close: its last sample has passed and its trigger is decided (R181). -/
def State.closable (s : State) (n : Fin 16) (g : Segment) : Bool :=
  g.ended && g.decided && g.number.isNone && s.outputsComplete n g

/-- The RESULT of each selected slot on a segment (R219 to R223), with its number of inputs. -/
def State.measureAll (s : State) (n : Fin 16) (g : Segment) : List (Nat × Exact × Nat) :=
  let t := s.stalls[n]
  match g.setup.findStage (·.isMeasure) with
  | none => []
  | some (i, _) =>
    let vals := g.keptAt t i
    g.setup.slotsSelected.zipIdx.map fun (sl, k) =>
      let cfg := g.setup.slotWord sl 0
      let (a, b) := gateOf cfg g.start g.trig.num g.last
      let xs := if gateEmpty cfg g.start g.trig.num then [] else (between a b vals).flatMap (splitPair g.setup.pair)
      let ref := Fin.ofNat 16 (natBits cfg 9 4)
      let gated : Gated := {
        vals := xs
        noPos := (g.tagsOf t).any fun x => x.noPos && x.touches a b
        refTriggers := if s.running (fnStall ref) then some (s.bell ref).accepted else none
        seed := s.free + k * (vals.length + 1) }
      (sl, measure cfg (g.setup.slotWord sl 1) gated, xs.length)

/-- The marks of a segment that its ledger takes: at most 64 (R228). -/
def Segment.ledgerMarks (g : Segment) : List (Nat × Nat) := g.marks.take 64

/-- The settling outputs of the span, and the number of the first output that is not settling (R214). DEDUCED (log entry
52). -/
def settlingOf (vals : List Val) : Nat × Nat :=
  ((vals.filter (·.settling)).length, (vals.findIdx? fun v => !v.settling).getD 0)

/-- Entries written to a ledger from index `i` on, wrapping (R226). -/
def State.ledgerWrite (s : State) (base : Nat) : Nat → List (List Byte) → State
  | _, [] => s
  | i, e :: es => (s.hallWrite (base + 16 * (i % 4096)) e).ledgerWrite base (i + 1) es

/-- The pair of a running envelope at a position, before its scaling (R184); where nothing has come, its minimum lies above its
maximum. DEDUCED (log entry 54). -/
def envelopeAt (l : List (Nat × (Int × Int))) (k : Nat) : Int × Int := Sparse.get (fun _ => (32767, -32768)) l k

/-- An output of ENVELOPE at a position, and whether it saturated (R129). -/
def envelopeValue (env : List (Nat × (Int × Int))) (sh : Int) (k : Nat) : (Int × Int) × Bool :=
  let (lo, hi) := envelopeAt env k
  if hi < lo then ((lo, hi), false)
  else (((stageOut lo sh).1, (stageOut hi sh).1), (stageOut lo sh).2 || (stageOut hi sh).2)

/-- A segment's values join its stall's envelope (R184), those that lie at its positions: the envelope after it, and its
outputs. DEDUCED (log entry 54). -/
def envelopeStep (env : List (Nat × (Int × Int))) (d : StageDef) (s0 : Int) (size positions : Nat) (g : Segment)
    (vals : List Val) : List (Nat × (Int × Int)) × List Val :=
  let vals := vals.filter fun v => decide (s0 ≤ v.num) && decide ((v.num : Int) < s0 + (positions * size : Nat))
  let place (v : Val) : Nat := (((v.num : Int) - s0) / (size : Int)).toNat
  let env' := vals.foldl (fun e v =>
    let (lo, hi) := envelopeAt e (place v)
    Sparse.set (fun _ => (32767, -32768)) e (place v) (min lo v.lo, max hi v.hi)) env
  let outs := (List.range positions).map fun (k : Nat) =>
    let last : Int := s0 + ((k + 1) * size : Nat) - 1
    let base := ((vals.filter fun v => place v == k).getLast?).getD g.trig
    { base with
      num := last.toNat, chron := (base.chron + (last - base.num) * g.setup.nominal).toNat
      lo := (envelopeValue env' d.shift k).1.1, hi := (envelopeValue env' d.shift k).1.2 }
  (env', outs)

/-- What a closing segment's data area holds, and what its header says of it. -/
structure DataArea where
  /-- bit position, number of bits and bits of each piece written -/
  pieces : List (Nat × Nat × Nat) := []
  firstUnit : Nat := 0
  utrig : Int := 0
  ucount : Nat := 0
  lost : Bool := false
  /-- counts of toll 64 + 4n + 3 -/
  drops : Nat := 0
  /-- the last unit's end inside a burst of a wrapped record, in bits (R278) -/
  mergeAt : Option Nat := none
deriving DecidableEq, Repr

/-- `x` rounded up to a multiple of 512 bits. -/
def roundBurst (x : Nat) : Nat := (x + 511) / 512 * 512

/-- The data area of a circular format (R183, R278); `before` gives the units attributed to the samples before one. -/
def circularArea (u : Setup) (g : Segment) (before : Nat → Nat) (vals : List Val) : DataArea :=
  let w := unitBits u.fmt
  let s := g.start
  let total := before (g.last + 1) - before g.first
  let at_ := (before s - before g.first) % u.units
  let codes := vals.map (unitCode u.fmt u.nshift)
  let head := codes.take (u.units - at_)
  let tail := codes.drop (u.units - at_)
  let last := (total + u.units - 1) % u.units + 1
  let wrapped := decide (u.units < total)
  let endBit := last * w
  let zero : Nat × Nat × Nat :=
    if wrapped then (u.units * w, roundBurst (u.units * w) - u.units * w, 0)
    else (endBit, roundBurst endBit - endBit, 0)
  { pieces := [(at_ * w, head.length * w, bitString w head), (0, tail.length * w, bitString w tail), zero]
    firstUnit := at_, ucount := vals.length
    utrig := if g.trig.num < s then -((before s - before g.trig.num : Nat) : Int)
      else (vals.filter fun v => decide (v.num < g.trig.num)).length
    mergeAt := if wrapped && last != u.units && endBit % 512 != 0 then some endBit else none }

/-- The data area of an ENVELOPE record (R184). -/
def envelopeArea (u : Setup) (outs : List Val) : DataArea :=
  let n := outs.length * 32
  { pieces := [(0, roundBurst n, bitString 32 (outs.map (unitCode 2 0)))]
    ucount := u.units, utrig := ((u.cap : Int) - u.post) / (u.dtot : Int) }

/-- The data area of an ANGLE record (R187). DEDUCED (log entry 53). -/
def angleArea (u : Setup) (vals : List Val) : DataArea :=
  let (ws, n, full) := angleWords u.klog (3 * u.units) none vals
  { pieces := [(0, roundBurst (16 * ws.length), bitString 16 ws)]
    ucount := n, lost := full, drops := if full then 1 else 0 }

/-- The value index of the first value attributed to a sample of a tick. DEDUCED (log entry 53). -/
def indexInTick (vals : List Val) (k : TickTag) : Option Nat :=
  vals.findIdx? fun v => decide (k.first ≤ v.num) && decide (v.num < k.first + k.count)

/-- The data area of a CHANGE record (R188 to R192). DEDUCED (log entry 53). -/
def changeArea (u : Setup) (g : Segment) (tags : List TickTag) (vals : List Val) : DataArea :=
  let (dead, linear) : Nat × Bool := match u.findStage (·.isChange) with
    | some (_, ⟨.change d l, _⟩) => (d, l)
    | _ => (0, false)
  let found (p : TickTag → Bool) (kind : Nat) : List ChangeMark :=
    (tags.filter p).filterMap fun k => (indexInTick vals k).map fun i => ⟨i, kind, 0⟩
  let bell : List ChangeMark := g.marks.filterMap fun (num, st) =>
    (vals.findIdx? fun v => v.num == num).map fun i => ⟨i, 1, st⟩
  let marks := [(⟨0, 0, 0⟩ : ChangeMark)] ++ bell ++ found (·.cal) 2 ++ found (·.begins) 3
  let (ws, drops) := changeRecord (2 ^ u.cblog) dead linear marks (vals.map fun v => code12 u.nshift v.lo)
  { pieces := [(0, roundBurst (32 * ws.length), bitString 32 ws)]
    ucount := vals.length, lost := drops != 0, drops := drops }

/-- Pieces of a data area written to record memory at a byte address. -/
def State.writePieces (s : State) (addr : Nat) (l : List (Nat × Nat × Nat)) : State :=
  l.foldl (fun s (at_, n, v) =>
    if n = 0 then s else s.dramWrite (addr + at_ / 8) (bitWrite s.dram.mem addr at_ n v)) s

/-- The slot of a closed segment has not been overwritten (R200): under RING by the advice that counts the segment then being filled;
under FILL nothing is overwritten before the next segment begins to fill (R178). -/
def Stall.holdsSlot (t : Stall) (q : Nat) : Bool :=
  let back := (t.lastSeg + 1 + 2 ^ 40 - q) % 2 ^ 40
  decide (back < t.setup.slots) ||
    (t.setup.fill && back == t.setup.slots && t.segs.isEmpty && t.bell.bufFrom.isNone)

/-- Byte address of a segment's slot (R175, R177). -/
def Setup.slotAddr (u : Setup) (q : Nat) : Nat := u.base + q % max 1 u.slots * u.slotBytes

/-- The FLAGS of a header (R197). The trigger's tag counts for HOLD also where its sample lies before the span (R67). A segment
whose first sample follows the first tick of a STEP or a slew at once carries REJOIN too. DEDUCED (log entry 53). -/
def segmentFlags (g : Segment) (tags : List TickTag) (calStep lost noMeas : Bool) : Nat :=
  let s := g.start
  let held (p : TickTag → Bool) : Bool := tags.any fun k => p k && k.touches s g.last
  let bit (b : Bool) (i : Nat) : Nat := if b then 2 ^ i else 0
  let triggerHold := tags.any fun k => k.hold && k.touches g.trig.num g.trig.num
  bit g.forced 0 + bit g.late 1 + bit (held (·.coast)) 2 + bit (held (·.hold) || triggerHold) 3 +
  bit (tags.any fun k => (k.rejoin && k.within s g.last) || (k.begins && k.first + k.count == s)) 4 + bit calStep 5 + bit g.shortPre 6 +
  bit (decide (g.setup.cap < g.setup.post) && decide (g.trig.num < s)) 7 + bit (held (·.lost)) 9 + bit g.shortPost 10 +
  bit lost 11 + bit noMeas 12

/-- CALOFS (R110, R196): ticks from the tick of sample s to the first step tick after it that the segment reaches. -/
def calOffset (tags : List TickTag) (s e : Nat) : Option Nat :=
  let from_ := ((tags.find? fun k => k.touches s s).map (·.tick)).getD 0
  ((tags.find? fun k => k.cal && k.within s e && decide (from_ < k.tick)).map fun k =>
    min 0xFFFFFFFF ((k.tick - from_) / mitesPerTick))

/-- The first `bits` bits of a merge's burst stand in record memory as they did in `old`: the mover holds the units that are to be
written there. The bits after them are the units of the lap before, written when that lap filled the burst (R183, R278). DEDUCED (log
entry 55). -/
def State.holdBurst (s old : State) (m : Merge) : State :=
  let mine (cw : Nat) : Bool := cw / 8 == m.addr / 64
  { s with dram := { s.dram with
    mem := memWrite s.dram.mem m.addr
      (leBytes 64 (memNat old.dram.mem m.addr 64 % 2 ^ m.bits + 2 ^ m.bits * (memNat s.dram.mem m.addr 64 / 2 ^ m.bits)))
    bad := (s.dram.bad.filter fun cw => !mine cw) ++ old.dram.bad.filter mine } }

/-- The segment of stall `n` at its close is numbered, its data area and its ledger group are written, and its YARD runs
are formed (R177, R181, R183 to R195, R227, R233). -/
def State.closeSegment (s : State) (n : Fin 16) (g : Segment) : State :=
  let t := s.stalls[n]
  let u := g.setup
  let q := t.segNo
  let a := g.start
  let tags := g.tagsOf t
  let units := between a g.last (g.keptAt t u.stages.length)
  let results := s.measureAll n g
  let free := s.free + results.length * ((t.kept.length) + 1)
  let (env, outs, count, sat) : List (Nat × (Int × Int)) × List Val × Nat × Bool := match u.envelope with
    | some (i, d) =>
      let (restart, count) : Bool × Nat := match d.op with
        | .decim _ _ envn => if envn != 0 && envn ≤ t.envCount then (true, 1) else (false, t.envCount + 1)
        | _ => (false, 0)
      let (e, o) := envelopeStep (if restart then [] else t.envelope) d (((g.trig.num + u.post : Nat) : Int) - u.cap) u.dtot
        (u.cap / u.dtot) g (between a g.last (g.keptAt t i))
      (e, o, count, (List.range (u.cap / u.dtot)).any fun k => (envelopeValue e d.shift k).2)
    | none => (t.envelope, [], t.envCount, false)
  let area : DataArea :=
    if !u.ring then {}
    else if u.envelope.isSome && u.fmt == 2 then envelopeArea u outs
    else match u.fmt with
      | 3 => angleArea u (units.filter fun v => decide (g.trig.num ≤ v.num))
      | 4 => changeArea u g tags (units.filter fun v => decide (g.trig.num ≤ v.num))
      | _ => circularArea u g (g.unitsBefore t) units
  let addr := u.slotAddr q + 64
  let s0 := { s with free := free }
  let full := s0.writePieces addr area.pieces
  let merge : Option Merge := area.mergeAt.map fun e =>
    ⟨addr + e / 512 * 64, e % 512, 512 - e % 512, memBytes full.dram.mem (addr + e / 512 * 64) 64⟩
  let s1 := match merge with | some m => full.holdBurst s0 m | none => full
  -- the ledger group (R227)
  let (settling, firstGood) := if u.sieve then settlingOf units else (0, 0)
  let es := (results.map fun (i, r, m) => resultEntry q i r m) ++
    (g.ledgerMarks.map fun (num, st) => markEntry q st ((num : Int) - g.trig.num)) ++
    (if settling = 0 || !u.entries then [] else [settlingEntry q settling firstGood])
  let s2 := (s1.ledgerWrite u.ledger t.head es).tollMany 56 (g.marks.length - 64)
  -- YARD stages (R233)
  let runs := u.stages.zipIdx.flatMap fun (d, i) => match d.op with
    | .yard k span =>
      let past := match u.envelope with | some (j, _) => decide (j < i) | none => false
      s.segmentRuns n k span q a g.trig.num g.frac g.last g.forced (if past then outs else g.keptAt t i)
    | _ => []
  let calofs := calOffset tags a g.last
  let done : Segment := { g with
    number := some q, merge := merge, entry := t.head
    results := results.map fun (i, r, _) => (i, r.round), entries := es.length
    flags := segmentFlags g tags calofs.isSome area.lost u.slotsSelected.isEmpty ||| g.flags
    calofs := calofs.getD 0, firstUnit := area.firstUnit, utrig := area.utrig, ucount := area.ucount
    pre := (g.trig.num : Int) - a, own := none, closedAt := s.now }
  let s3 := s2.modStall n fun t => { t with
    segNo := (q + 1) % 2 ^ 40, head := (t.head + es.length) % 4096, total := (t.total + es.length) % 2 ^ 32
    envelope := env, envCount := count, envOut := t.envOut ++ (if g.own.isNone then outs else [])
    envSat := t.envSat || sat, runs := t.runs ++ runs
    segs := t.segs.map fun h => if h = g then done else h }
  s3.tollMany (64 + 4 * n + 3) area.drops

/-- A limit word as it counts for a header write of the present tick (R225). -/
def State.limitWord (s : State) (n : Fin 16) (w : Nat) : Word :=
  match s.ev.limits.find? fun l => l.1 == n.val && l.2.1 == w with
  | some l => l.2.2
  | none => Sparse.get msReset (s.stalls[n]).msWords w

/-- The FAIL flags of a result (R224): bit 0 FAIL_LOW, bit 1 FAIL_HIGH. -/
def State.limitFails (s : State) (n : Fin 16) (cfg i : Nat) (r : Word) : Nat :=
  if isNaN32 r then (if cfg.testBit 13 then 0 else 3)
  else (if less32 r (s.limitWord n (4 * i + 2)) then 1 else 0) + (if less32 (s.limitWord n (4 * i + 3)) r then 2 else 0)

/-- The slots of a segment are tested against their limits (R224). -/
def State.testLimits (s : State) (n : Fin 16) (g : Segment) : State :=
  let fails := (g.results.zipIdx.map fun ((i, r), k) => (i, k, s.limitFails n (g.setup.slotWord i 0) i r)).filter
    fun x => x.2.2 != 0
  if fails.isEmpty then s
  else
    let s1 := fails.foldl (fun s (i, k, f) =>
      let a := g.setup.ledger + 16 * ((g.entry + k) % 4096) + 7
      ((s.hallWrite a [BitVec.ofNat 8 ((memByte s.hall.mem a).toNat ||| f)]).toll 55).setSticky (R.STL_MEAS_FAIL.num 0 n)
        (BitVec.ofNat 32 (2 ^ i))) s
    let s2 := { s1 with status := { s1.status with measLimit := true }, ev := { s1.ev with items := 2 :: s1.ev.items } }
    let level := fails.foldl (fun a (i, _, _) => max a (natBits (g.setup.slotWord i 0) 14 2)) 0
    if level = 0 then s2 else s2.attention level

/-- Bits per tick as Mbit/s. -/
def mbits (x : Rat) : Rat := x * 1250

/-- What a stall that runs is charged for record memory in bits per tick, in FULL or in LEAN (R275, R389). -/
def Setup.charge (u : Setup) (lean : Bool) : Rat := if lean then u.bitsLean else u.bits

/-- The sum of the charges of the running stalls but `n` (R275). -/
def State.dramSum (s : State) (n : Nat) (lean : Bool) : Rat :=
  ((List.finRange 16).map fun (m : Fin 16) =>
    if m.val != n && s.running (fnStall m) then (s.stalls[m]).setup.charge lean else 0).sum

/-- A stall stops (R137, R181): it leaves the functions that run and the sum of R275, and its weighers are free; what its samples of the present
tick still belong to is settled as the tick closes. -/
def State.requestStop (s : State) (n : Fin 16) : State :=
  let s1 := ({ s with run := s.run.erase (fnStall n) }).freeWeighers n
  let s2 := s1.modStall n fun t => { t with mode := .stopped, stopping := true }
  if (s.stalls[n]).setup.ring then { s2 with dram := { s2.dram with
    charge := (mbits (s2.dramSum n (s.power.regime = .lean))).ceil.toNat } } else s2

/-- The header of a FILL ring's Nth segment has been written in the tick that closes, and no STOP_FN of the tick or before has
stopped the stall: the ring is full and the stall halts (R178). -/
def State.fillHalt (s : State) (n : Fin 16) : State :=
  let s1 := ((s.modStall n fun t => { t with full := true, filled := false }).toll (64 + 4 * n + 2)).attention 1
  if s1.hasDependents (fnStall n) then (s1.evalMany n (s1.dueSamples n)).modBell n fun b => { b with
    phase := .stopped, beginAt := none, bufFrom := none }
  else s1.requestStop n

/-- The FILL rings whose last segment has been filed in the tick that closes (R178). -/
def State.fillHalts (s : State) : State :=
  (List.finRange 16).foldl (fun s n =>
    if !(s.stalls[n]).filled then s
    else if s.running (fnStall n) then s.fillHalt n
    else s.modStall n fun t => { t with filled := false }) s

/-- A segment is complete (R199, R432): its number is shown, SEG_READY is set, its limits are judged; with the Nth segment of
the present run a FILL ring is full as the tick closes (R178). -/
def State.completeSegment (s : State) (n : Fin 16) (g : Segment) : State :=
  let q := g.number.getD 0
  let s1 := s.modStall n fun t => { t with lastSeg := q, segs := t.segs.erase g }
  let s2 := { s1 with status := { s1.status with segReady := true }, ev := { s1.ev with items := 1 :: s1.ev.items } }
  let s3 := s2.testLimits n g
  if g.setup.ring && g.setup.fill && g.ordinal == g.setup.slots && !g.old then s3.modStall n fun t => { t with filled := true }
  else s3

/-- The header of a closed segment (R196). MEAS of an empty group is the index of the entry to be written next, `head`, as it
stands at the header write (R227). -/
def Segment.header (g : Segment) (head : Nat) : Header :=
  let u := g.setup
  let pred : Nat := match u.findStage (·.isChange) with
    | some (_, ⟨.change _ true, _⟩) => 2 ^ 13
    | _ => 0
  { chron := g.trig.chron, tally := g.trig.pos, dead := g.dead, calofs := g.calofs
    fracfmt := g.frac + u.fmt * 2 ^ 10 + pred, flags := g.flags
    meas := (if g.entries = 0 then head else g.entry) + (if u.fmt = 4 then (u.cblog - 7) * 2 ^ 12 else 0)
    segno := g.number.getD 0, pre := g.pre, post := g.last + 1 - g.trig.num, first := g.firstUnit, utrig := g.utrig
    ucount := g.ucount }

/-- SEGMENT_CLOSE (R181): the first segment of stall `n` that may close. One without a ring is complete with its ledger
group, if it has one (R432). DEDUCED (log entry 55). -/
def segmentClose (n : Fin 16) (s : State) : State :=
  match (s.stalls[n]).segs.find? fun g => g.number.isNone with
  | some g =>
    if s.closable n g then
      let s1 := s.closeSegment n g
      match (s1.stalls[n]).segs.find? fun h => h.number == some (s.stalls[n]).segNo with
      | some h => if !h.setup.ring && h.entries != 0 then s1.completeSegment n h else s1
      | none => s1
    else s
  | none => s

/-- SEGMENT_CLOSE. -/
def execSegmentClose (n : Fin 16) (s : State) : Result := .next (segmentClose n s)

/-- The burst that a merge writes (R278, R288): its new units, then the old bits, or zeros where those are not correctable. -/
def Merge.burst (m : Merge) (old : Nat) (bad : Bool) : List Byte :=
  leBytes 64 (ofLeBytes m.data % 2 ^ m.bits + 2 ^ m.bits * (if bad then 0 else old / 2 ^ m.bits))

/-- The merge read of a segment's last burst is made, a MAINT burst, and the merged burst is written whole, for which ACQ takes a cycle
(R278, R288, R290). What the read finds is marked in the segment. -/
def State.mergeNow (s : State) (n : Fin 16) (m : Merge) (found : Vector SymbolErrors 8) : State :=
  let s1 := s.burstFound 2 (m.addr / 8) found
  let s2 := s1.dramWrite m.addr (m.burst (memNat s1.dram.mem m.addr 64) (s1.burstBad (m.addr / 8)))
  (s2.present (256 + (s.dramPlace m.addr).sub) 0 false [] false).modStall n fun t => { t with
    segs := t.segs.map fun h => if h.merge = some m then { h with merge := none } else h }

/-- MERGE_READ_DONE (R278): in a MAINT cycle. DEDUCED (log entry 55). -/
def mergeReadDone (n : Fin 16) (found : Vector SymbolErrors 8) (s : State) : State :=
  match (s.stalls[n]).segs.findSome? (·.merge) with
  | some m =>
    let c := (s.dramPlace m.addr).sub
    if s.maintMay c then (s.takeCycle c).mergeNow n m found else s
  | none => s

/-- MERGE_READ_DONE. -/
def execMergeReadDone (n : Fin 16) (found : Vector SymbolErrors 8) (s : State) : Result := .next (mergeReadDone n found s)

/-- HEADER_WRITE_DONE (R199): the header of the first closed segment of stall `n` is written, no sooner than the tick
after its close. DEDUCED (log entry 55). -/
def headerWriteDone (n : Fin 16) (s : State) : State :=
  match (s.stalls[n]).segs.head? with
  | some g =>
    if g.number.isSome && g.merge.isNone && g.setup.ring && decide (g.closedAt < s.now) then
      (s.dramWrite (g.setup.slotAddr (g.number.getD 0)) (g.header (s.stalls[n]).head).bytes).completeSegment n g
    else s
  | none => s

/-- HEADER_WRITE_DONE. -/
def execHeaderWriteDone (n : Fin 16) (s : State) : Result := .next (headerWriteDone n s)

/-- Segments without a ring whose group is empty are complete in the tick after their close (R432). -/
def State.completeEmpty (s : State) (n : Fin 16) : State :=
  match (s.stalls[n]).segs.head? with
  | some g =>
    if g.number.isSome && !g.setup.ring && decide (g.closedAt < s.now) then s.completeSegment n g else s
  | none => s

/-- Toll 53 of stall `n` where an output has saturated, once in a tick (R129). -/
def State.satToll (s : State) (n : Fin 16) (sat : Bool) : State :=
  if sat && !s.ev.satStalls.contains n then
    { s with ev := { s.ev with satStalls := n :: s.ev.satStalls } }.toll 53
  else s

/-- Toll 52 for each turn begun beyond the rate (R134). -/
def State.turnTolls (s : State) (turns : Nat) : State :=
  let s1 := s.tollIf (turns != 0) 52
  if turns ≤ 1 then s1 else s1.toll 52 (turns - 1)

/-- What a TURNRES gives for its last two inputs when a stop takes away the input after them: the outputs by stage, whether one
saturates (R129), and the turns begun beyond the rate (R134). The interpolation takes a free value for the missing input (DESIGN
CHOICE, log entry 26). -/
def Stall.flushTurnres (t : Stall) (free : Int) : List (Nat × Val) × Bool × Nat :=
  match t.setup.findStage (·.isTurnres) with
  | none => ([], false, 0)
  | some (i, _) =>
    match ((t.stageStates.drop i).headD {}).vals with
    | [] => ([], false, 0)
    | v :: _ =>
      let c := t.chainRun (t.setup.stages.drop i) (t.stageStates.drop i) [{ v with lo := free, hi := free }]
      (c.streams.zipIdx.drop 1 |>.flatMap fun (vs, k) => vs.map fun x => (i + k, x), c.sat, c.turns)

/-- A STOP is finished once the samples of its tick have passed (R181): decided segments keep their samples up to then,
the others are discarded; the Bell and its decisions are gone. DEDUCED (log entry 65). -/
def State.finishStop (s : State) (n : Fin 16) : State :=
  let s := ((s.evalMany n (s.stopSamples n)).modBell n fun b => { b with obs := [] }).sieveDrain
  let t := s.stalls[n]
  let mine := s.sieve.outputs.filter fun o => o.2.1 == n
  let ready := mine.foldl (fun a o => max a o.1) 0
  let (x, s) := s.draw
  let (flushed, sat, turns) := t.flushTurnres (signed 16 x)
  let s := (s.satToll n sat).turnTolls turns
  let kept := t.kept ++ (mine.map fun o => (t.setup.stages.length, o.2.2)) ++ flushed
  let end_ := t.samples - 1
  let segs := (t.segs.filter fun g => g.decided || g.number.isSome).map fun g =>
    if g.number.isSome then g
    else if g.own.isSome then g
    else { g with
      last := min g.last end_, shortPost := g.shortPost || decide (end_ < g.last), ended := true
      own := some (kept, t.tags), gaps := t.gaps, readyAt := ready }
  let s1 := { s with sieve := { s.sieve with
    outputs := s.sieve.outputs.filter fun o => o.2.1 != n, inputs := s.sieve.inputs.filter fun o => o.1 != n } }
  let s2 := if t.setup.sieve then s1.modChan n SieveChan.stop else s1
  s2.modStall n fun t => { t with
    stopping := false, segs := segs, kept := [], tags := [], streams := [], envOut := []
    bell := { ignored := t.bell.ignored, overlap := t.bell.overlap, counts := t.bell.counts, linked := t.bell.linked } }

/-- LASTSEG_READ (R199): a read of STLn_LASTSEG_LO latches STLn_LASTSEG_HI. -/
def lastsegRead (n : Fin 16) (s : State) : State :=
  (s.modStall n fun t => { t with lastSegHi := t.lastSeg / 2 ^ 32 }).answer .ok

/-- LASTSEG_READ. -/
def execLastsegRead (n : Fin 16) (s : State) : Result := .next (lastsegRead n s)

end Sys2Proof.Machine
end

