-- ==== Sys2Proof/Machine/Budget.lean ====
section
/-! DEFINITION. The budgets of admission (01_architecture R24): what a stall's configuration asks for and charges, the
rules it must keep, and its START. -/

namespace Sys2Proof.Machine

/-- Entries of the DRAM slot table that ACQ owns. -/
def State.acqEntries (s : State) : List Nat := (List.range 64).filter fun e => s.dramSlot e == 0

/-- R274 holds: DRM_STAT.TABLE_OK. -/
def State.tableOk (s : State) : Bool :=
  decide (24 ≤ s.acqEntries.length) && (s.acqEntries.all fun e => s.dramSlot ((e + 1) % 64) != 0) &&
  decide (4 ≤ ((List.range 64).filter fun e => s.dramSlot e == 2).length) && decide (s.val F.DRM_MAP_GRAIN ≤ 4)

/-- The reservation in force, Mbit/s (R16, R274, R283). -/
def State.reservation (s : State) : Nat :=
  if s.tableOk && s.dram.trained then (if s.power.regime = .lean then 432000 else 576000) else 0

/-- The chain of a stall that others may tap: as it runs, else as it is written. -/
def State.chainOf (s : State) (m : Fin 16) : List StageDef :=
  if s.running (fnStall m) then (s.stalls[m]).setup.stages
  else ((s.stalls[m]).decodeChain (min 8 (s.wval F.STL_CHAIN_NSTAGES 0 m))).getD []

/-- A span field's value is admitted (R161, R172): its unit, and less than 2^31 turns. -/
def spanOk (w units : Nat) : Bool :=
  decide (spanUnit w < units) &&
  (match spanUnit w with
    | 2 => decide (spanValue w < 2 ^ 63)
    | 3 => decide (spanValue w < 2 ^ 31)
    | _ => true)

/-- A condition code that is not reserved (R148). -/
def conditionOk (c : Nat) : Bool := c ≤ 0x14 && c != 2 && c != 3 || (0x18 ≤ c && c < 0x40)

/-- The Bell fields in force of stall `n` break a rule (R155, R161). -/
def State.bellBadParam (s : State) (n : Fin 16) : Bool :=
  let k := s.val F.STL_BEL_CTRL_NSTATES 0 n
  let codes := s.bellCodes n
  let links := (codes.filter fun c => c / 16 == 3).map fun c => Fin.ofNat 16 c
  k == 0 || 8 < k || s.val F.STL_BEL_REARM_REARM 0 n < 10 ||
  !spanOk (s.wval F.STL_BEL_HOLDOFF_HOLD 0 n) 5 || !spanOk (s.wval F.STL_BEL_AUTO_AUTO 0 n) 4 ||
  codes.any (fun c => !conditionOk c) ||
  (List.range (min 8 k)).any (fun i =>
    8 < s.val F.STL_BEL_S_COND_QUAL i n || k ≤ s.val F.STL_BEL_S_COND_NEXT i n) ||
  s.flag F.STL_BEL_S_ACT_TRIGGER 0 n ||
  (List.range 4).any (fun i => s.counterInForce n i &&
    (2 ^ k ≤ s.val F.STL_BEL_CNT_CFG_RUNMASK i n || 2 ^ k ≤ s.val F.STL_BEL_CNT_CFG_CLRMASK i n ||
      s.val F.STL_BEL_CNT_TGT_TARGET i n == 0)) ||
  (List.range 2).any (fun i => s.timerInForce n i &&
    (2 ^ k ≤ s.val F.STL_BEL_TMR_CFG_STARTMASK i n || spanValue (s.val F.STL_BEL_TMR_DUR_DUR i n) == 0 ||
      !spanOk (s.val F.STL_BEL_TMR_DUR_DUR i n) 4)) ||
  (List.range 4).any (fun i =>
    let ty := s.val F.STL_BEL_CMP_CFG_TYPE i n
    s.compInForce n i &&
    (4 < ty || s.val F.STL_BEL_CMP_CFG_POL i n == 3 || s.val F.STL_BEL_CMP_CFG_SPAN i n == 0 ||
      32767 < s.wval F.STL_BEL_CMP_CFG_HYST i n ||
      ((ty == 2 || ty == 4) &&
        signed 16 (s.wval F.STL_BEL_CMP_LVL_B i n) ≤ signed 16 (s.wval F.STL_BEL_CMP_LVL_A i n)))) ||
  (codes.contains 0x14 && s.val F.STL_BEL_TPOS_CTRL_DIR 0 n == 3) ||
  links.any (fun m => m == n ||
    (if s.running (fnStall m) then (s.bell m).linked else (s.bellCodes m).any fun c => c / 16 == 3))

/-- A type whose catalogue entry is marked "edges" (R222). -/
def edgesType (ty : Nat) : Bool := (7 ≤ ty && ty ≤ 0x0B) || (0x0F ≤ ty && ty ≤ 0x12)

/-- A selected measurement slot breaks a rule (R220). -/
def Stall.slotBad (t : Stall) (n i : Nat) (pair : Bool) : Bool :=
  let cfg := t.slotWord i 0
  let ty := natBits cfg 0 5
  let par := t.slotWord i 1
  ty == 0 || 0x14 < ty || 2 ^ 16 ≤ cfg || natBits cfg 5 2 == 3 || natBits cfg 7 2 == 3 ||
  (ty == 0x11 && natBits cfg 9 4 == n) || (edgesType ty && pair) ||
  (edgesType ty && 2 ^ 31 ≤ par) || (ty == 0x14 && natBits par 0 16 == 0)

/-- The most words that `n` values take in full blocks of a CHANGE record (R193): `changeRecord_length_le` of Laws/Records.lean says that
no record takes more. -/
def changeBound (n : Nat) : Nat := 51 * n / 128

/-- A, the bytes of the data area of `units` units in a format (R175, R182). -/
def areaBytes (fmt units : Nat) : Nat :=
  match fmt with
  | 0 => 3 * units / 2 | 1 => 2 * units | 2 => 4 * units | 3 => 6 * units | _ => 4 * changeBound units

/-- What a stall offers to the stalls that tap it: the setup it runs with, or, while it is stopped, the part of one that its
words written give. -/
def State.feedOf (s : State) : Nat → Fin 16 → Setup
  | 0, _ => {}
  | fuel + 1, m =>
    if s.running (fnStall m) then (s.stalls[m]).setup
    else if s.wflag F.STL_SRC_KIND 0 m then
      let k : Fin 16 := Fin.ofNat 16 (s.wval F.STL_SRC_FROM 0 m)
      let f := s.feedOf fuel k
      let before := (s.chainOf k).take (s.wval F.STL_SRC_STAGE 0 m)
      { rate := rateAfter f.rate before, rateLean := rateAfter f.rateLean before, pair := f.pair || before.any (·.op.makesPairs)
        nominal := f.nominal * dtotOf before, lag := f.lag }
    else { rate := 32 / (s.channels : Rat), rateLean := 16 / (s.channels : Rat), nominal := s.containerMites }

/-- What START of a stall would put into force, before its budgets are checked. -/
def State.trialSetup (s : State) (n : Fin 16) : Setup :=
  let t := s.stalls[n]
  let stages := s.stagesWritten n
  let tap := if s.flag F.STL_SRC_KIND 0 n then
    some (Fin.ofNat 16 (s.val F.STL_SRC_FROM 0 n), s.val F.STL_SRC_STAGE 0 n) else none
  let before : List StageDef := match tap with
    | some (m, i) => (s.chainOf m).take i
    | none => []
  let from_ : Setup := match tap with
    | some (m, _) => s.feedOf 16 m
    | none => { rate := 32 / (s.channels : Rat), rateLean := 16 / (s.channels : Rat), nominal := s.containerMites }
  let turns := before.any (·.op.isTurnres)
  let rate := rateAfter from_.rate before
  let pair := from_.pair || before.any (·.op.makesPairs)
  let cap := 32 * s.val F.STL_SEGLEN_SEGLEN 0 n
  let post := s.val F.STL_POST_HI_POST_HI 0 n * 2 ^ 32 + s.val F.STL_POST_POST_LO 0 n
  let dtot := dtotOf stages
  let fmt := s.val F.STL_FORMAT_FMT 0 n
  let units := if fmt = 3 then ((cap : Rat) * rateAfter rate stages / rate).ceil.toNat else cap / dtot
  let slotBytes := 64 * (1 + (areaBytes fmt units + 63) / 64)
  let size := s.val F.STL_RING_SIZE_SIZE 0 n * 65536
  let segmax := s.val F.STL_RING_CTRL_SEGMAX 0 n
  { tap := tap, chan := s.val F.STL_SRC_CHAN 0 n, stages := stages, pair := pair
    nominal := if turns then (32 / rate).floor.toNat else from_.nominal * dtotOf before
    lag := from_.lag + (if turns then (2 / from_.rate).ceil.toNat + 1 else 0)
    cap := cap, post := post, dtot := dtot, units := units, fmt := fmt
    nshift := s.val F.STL_FORMAT_NSHIFT 0 n, cblog := s.val F.STL_FORMAT_CBLOG 0 n
    ring := size != 0, base := s.val F.STL_RING_BASE_BASE 0 n * 65536, slotBytes := slotBytes
    slots := if size = 0 then 0 else min (size / slotBytes) (if segmax = 0 then 2 ^ 20 else segmax)
    fill := s.flag F.STL_RING_CTRL_POLICY 0 n, ringBytes := size
    ledger := (s.region (s.val F.STL_MEAS_CTRL_REGION 0 n)).base, sieve := s.sieveWanted n, rate := rate
    rateLean := rateAfter from_.rateLean before
    ms := t.msWords }

/-- The source or the chain breaks a rule (R127, R131). -/
def State.chainBadParam (s : State) (n : Fin 16) (u : Setup) : Bool :=
  let t := s.stalls[n]
  let k := s.val F.STL_CHAIN_NSTAGES 0 n
  8 < k || (t.decodeChain k).isNone || !chainValid u.stages u.pair || !t.coefsClean u.stages ||
  (match u.tap with
    | none => s.channels ≤ u.chan
    | some (m, i) => m == n || (match (s.chainOf m)[i]? with | some d => d.op != .tap | none => true))

/-- The ring, the format or the segment's length breaks a rule (R176, R182, R432). DEDUCED (log entry 27). -/
def State.recordBadParam (s : State) (n : Fin 16) (u : Setup) : Bool :=
  let has (p : StageOp → Bool) : Bool := u.stages.any fun d => p d.op
  let overlapsRing (m : Fin 16) : Bool :=
    let v := (s.stalls[m]).setup
    m != n && s.running (fnStall m) && v.ring && decide (u.base < v.base + v.ringBytes) &&
      decide (v.base < u.base + u.ringBytes)
  let whole := u.cap % u.dtot == 0
  let plain := !has (·.isTurnres) && !has (·.isChange) && !has (·.makesPairs) && !u.pair
  let formatOk : Bool := match u.fmt with
    | 0 => plain && u.units % 2 == 0
    | 1 => plain
    | 2 => (u.pair || has (·.makesPairs)) &&
      (match u.envelope with
        | some (i, _) => (u.stages.take i).all fun d => match d.op with
          | .decim _ _ _ => false | .turnres _ _ _ => false | .change _ _ => false | .fir _ f _ => f == 1 | _ => true
        | none => true)
    | 3 => (match u.findStage (·.isTurnres) with
        | some (i, _) => (u.stages.drop (i + 1)).all fun d => match d.op with
          | .decim _ _ _ => false | .fir _ _ _ => false | .change _ _ => false | _ => true
        | none => false) && u.post == u.cap
    | 4 => (match u.stages.getLast? with | some d => d.op.isChange | none => false) && !has (·.isTurnres) &&
      !has (·.makesPairs) && u.post == u.cap && u.units % 2 ^ u.cblog == 0
    | _ => false
  u.cap < 64 || u.post == 0 ||
  (u.ring && (u.slots == 0 || s.dramSize < u.base + u.ringBytes || (List.finRange 16).any overlapsRing || !whole ||
    !formatOk || 4 < u.nshift || u.cblog < 7 || 20 < u.cblog))

/-- The Sieve channel's rules are broken (R202). -/
def State.sieveBadParam (s : State) (n : Fin 16) (u : Setup) : Bool :=
  u.sieve && (u.pair || 1 < u.fmt || s.val F.SIV_CTRL_SECTIONS < s.val F.SIV_CH_CFG_K n ||
    u.stages.any fun d => d.op.isChange || d.op.isTurnres || d.op.makesPairs)

/-- A YARD stage's rules are broken (R234). -/
def State.yardBadParam (s : State) (u : Setup) : Bool :=
  u.stages.zipIdx.any fun (d, i) => match d.op with
    | .yard k span =>
      decide (signed 32 (s.val F.YRD_XOFS_XOFS k) < -(4096 * dtotOf (u.stages.take i) : Nat)) || (!span && u.pair)
    | _ => false

/-- START_FN on a stall is refused with BAD_PARAM (R127, R155, R161, R176, R202, R220, R234). An ENVELOPE whose positions do
not fit the local memory of its weighers is refused too (DEDUCED, log entry 27). -/
def State.stallBadParam (s : State) (n : Fin 16) (u : Setup) (w : Nat) : Bool :=
  s.chainBadParam n u || s.bellBadParam n || s.recordBadParam n u || s.sieveBadParam n u || s.yardBadParam u ||
  u.slotsSelected.any (fun i => (s.stalls[n]).slotBad n i u.pair) ||
  (u.envelope.isSome && 8192 * w < u.cap / u.dtot)

/-- The least segment period in ticks at a source rate (R169). DEDUCED (log entry 49). -/
def State.leastPeriod (s : State) (n : Fin 16) (u : Setup) (rate : Rat) : Rat :=
  let h := s.wval F.STL_BEL_HOLDOFF_HOLD 0 n
  let hold : Rat := match spanUnit h with
    | 0 => spanValue h
    | 1 => (spanValue h : Rat) / 32
    | _ => 0
  let e := if s.flag F.STL_BEL_CTRL_PREFILL_WAIT 0 n then u.cap else u.post
  max hold (s.val F.STL_BEL_REARM_REARM 0 n + e / rate)

/-- The record data of a stall in bits per tick at a source rate, its headers apart (R194). -/
def Setup.dataBits (u : Setup) (rate segRate : Rat) : Rat :=
  if !u.ring then 0
  else match u.fmt with
    | 0 => 12 * (rate / u.dtot)
    | 1 => 16 * (rate / u.dtot)
    | 2 => if u.envelope.isSome then 32 * u.units * segRate else 32 * (rate / u.dtot)
    | 3 => 48 * rateAfter rate u.stages
    | _ => (51 / 4 : Rat) * (rate / u.dtot)

/-- The stall's Bell marks. -/
def State.bellMarks (s : State) (n : Nat) : Bool :=
  (List.range (s.bellStates n)).any fun k => s.flag F.STL_BEL_S_ACT_MARK k n

/-- A stall writes ledger entries: it evaluates slots, its Bell marks, or its Sieve channel may note settling in segments that
have a record (R227, R432). -/
def State.writesLedger (s : State) (n : Nat) (u : Setup) : Bool :=
  u.slotsSelected.length != 0 || s.bellMarks n || (u.ring && u.sieve)

/-- What a YARD stage is charged (R239): its map, its runs per tick and its word-adds per tick. -/
def State.yardCharge (s : State) (k : Fin 8) (span : Bool) (r src segRate : Rat) : Fin 8 × Rat × Rat :=
  let cols : Rat := s.mapCols k
  let tps : Rat := (s.val F.YRD_MAXTPS_MAXTPS k : Rat) / 65536 * (8 / 10000000000)
  let q : Rat := match s.val F.YRD_AXIS_XAXIS k with
    | 0 => min r (min (src * 1024 / (s.val F.YRD_XSTEP_XSTEP k : Rat)) (cols * segRate / (s.val F.YRD_EVERY_EVERY k : Rat)))
    | 1 => if tps = 0 then r else min r (cols * tps)
    | _ => if tps = 0 then r else min r tps
  let rows : Rat := s.mapRows k
  (k, q, if span then q * rows / 4 else min r (q * rows / 4))

/-- The setup with its charges (R136, R169, R194, R239, R255). -/
def State.chargedSetup (s : State) (n : Fin 16) (u : Setup) : Setup :=
  let full : Rat := 1 / s.leastPeriod n u u.rate
  let lean : Rat := 1 / s.leastPeriod n u u.rateLean
  let g := u.slotsSelected.length + u.sieve.toNat + (if s.bellMarks n then 64 else 0)
  let ledger := s.writesLedger n u
  let head : Rat := if u.ring then 512 else 0
  { u with
    entries := ledger
    period := s.leastPeriod n u (if s.power.regime = .lean then u.rateLean else u.rate)
    bits := u.dataBits u.rate full + head * full, bitsLean := u.dataBits u.rateLean lean + head * lean
    staging := u.dataBits u.rate full / 128 + (4 + g : Nat) * full
    yards := u.stages.zipIdx.filterMap fun (d, i) => match d.op with
      | .yard k span => some (s.yardCharge k span (rateAfter u.rate (u.stages.take i)) u.rate full)
      | _ => none }

/-- Entries of the Hall slot table that a port owns (R256). -/
def State.hallEntries (s : State) (port : Nat) : Nat := ((List.range 16).filter fun e => s.hallSlot e == port).length

/-- The descriptors of a kind, and with an owner. -/
def State.regionsOf (s : State) (kind : Nat) : List Nat := (List.range 32).filter fun d => (s.region d).kind == kind

/-- The running stalls' setups but that of `n`. -/
def State.otherSetups (s : State) (n : Fin 16) : List (Fin 16 × Setup) :=
  ((List.finRange 16).filter fun m => m != n && s.running (fnStall m)).map fun m => (m, (s.stalls[m]).setup)

/-- The Hall region budget fails, the update budget of maps apart (R254, R255, R262). DEDUCED (log entry 49). -/
def State.hallFails (s : State) (n : Fin 16) (u : Setup) (w : Nat) : Bool :=
  let ledger := s.writesLedger n u
  let need := max 16384 (((16 * u.staging * 4096).ceil.toNat + 4095) / 4096 * 4096)
  let lr := s.region (s.val F.STL_MEAS_CTRL_REGION 0 n)
  let others := s.otherSetups n
  ((u.ring || ledger) &&
    (!(s.regionsOf 1).any (fun d => (s.region d).owner == n.val && decide (need ≤ (s.region d).size)) ||
      s.hallEntries n == 0)) ||
  (ledger && (lr.kind != 4 || lr.size < 65536 ||
    others.any fun (m, v) => s.writesLedger m v && s.val F.STL_MEAS_CTRL_REGION 0 m == s.val F.STL_MEAS_CTRL_REGION 0 n)) ||
  (w != 0 && (!(s.regionsOf 6).any (fun d => 65536 ≤ (s.region d).size) || s.hallEntries 25 == 0)) ||
  (u.ring && s.hallEntries 18 == 0) || (u.sieve && s.hallEntries 20 == 0) ||
  decide (4 < u.staging + (others.map fun x => x.2.staging).sum)

/-- The update budget of maps fails (R239, R262). -/
def State.yardFails (s : State) (n : Fin 16) (u : Setup) : Bool :=
  let all := u.yards ++ (s.otherSetups n).flatMap fun x => x.2.yards
  let k16 : Rat := s.hallEntries 16
  u.yards.any (fun y => decide (16 / 5 < ((all.filter fun z => z.1 == y.1).map fun z => z.2.2).sum)) ||
  (!u.yards.isEmpty &&
    (decide (k16 / 16 < (all.map fun z => z.2.1).sum) || decide (16 * k16 < (all.map fun z => z.2.2).sum)))

/-- The Sieve capacity fails (R209). -/
def State.sieveFails (s : State) (n : Fin 16) (u : Setup) : Bool :=
  u.sieve &&
  (decide (2 * (s.val F.SIV_CTRL_SECTIONS : Rat) < s.chanCharge n 1) ||
    decide (1 < s.chanCharge n (rateAfter u.rate u.stages) +
      ((s.otherSetups n).map fun (m, v) => if v.sieve then s.chanCharge m (rateAfter v.rate v.stages) else 0).sum))

/-- The DRAM slot budget fails (R169, R275). -/
def State.dramFails (s : State) (n : Fin 16) (u : Setup) : Bool :=
  decide (u.period < 25 / 2) ||
  (u.ring &&
    (decide ((s.reservation : Rat) < mbits (u.charge (s.power.regime = .lean) + s.dramSum n (s.power.regime = .lean))) ||
      (s.flag F.PWR_REGIME_ADMIT_LEAN && decide (432000 < mbits (u.bitsLean + s.dramSum n true)))))

/-- SIV_LOAD: the charges of the running channels (R209). -/
def State.sieveLoad (s : State) : Rat :=
  ((List.finRange 16).map fun m =>
    let u := (s.stalls[m]).setup
    if s.chanRuns m then s.chanCharge m (rateAfter u.rate u.stages) else 0).sum

/-- The Bell of a stall as its START leaves it (R126, R146, R155): counters change only while it is ARMED (R147). -/
def State.startBell (s : State) (n : Fin 16) : Bell :=
  let wait := s.flag F.STL_SRC_WAIT 0 n
  { phase := if wait then .wait else .hold, beginAt := if wait then none else some 0
    linked := s.usesLinks n, levels := s.trigIn, counts := (s.bell n).counts
    ignored := (s.bell n).ignored, overlap := (s.bell n).overlap }

/-- A stall is admitted (R126, R128, R137, R146, R175, R213): `u` is its setup with its charges, `eighths` and `w` its
lane charge. DEDUCED (log entry 49). -/
def State.admitStall (s : State) (n : Fin 16) (u : Setup) (eighths w : Nat) : State :=
  let s1 := (s.assignWeighers n w).bringIntoForce (F.STL_BEL_HOLDOFF_HOLD.num 0 n :: bellLive n)
  let s2 := s1.modStall n fun t => { t with
    mode := if s.flag F.STL_SRC_WAIT 0 n then .launchWait else .running
    stopping := false, setup := u
    lanes := F.STL_LANES_EIGHTHS.put eighths ||| F.STL_LANES_WGHS.put w, admitWord := F.STL_ADMIT_NEED.put w
    slotCount := u.slots, slotLines := if u.ring then u.slotBytes / 64 else 0, full := false
    samples := 0, stageStates := [], streams := [], kept := [], tags := [], envelope := [], envCount := 0, envOut := [], envSat := false
    gaps := {}, filled := false, segs := t.segs.map fun g => { g with old := true }
    slotErrs := 0, bell := s1.startBell n }
  let s2 := { s2 with ev := { s2.ev with started := n :: s2.ev.started } }
  let s3 := if u.sieve then s2.modChan n fun c => { c with
      fade := none, retiring := none, queued := none, settle := 0, window := [], resets := [.first], synced := none, staged := 0 } else s2
  if u.ring then { s3 with dram := { s3.dram with
    charge := (mbits (u.charge (s.power.regime = .lean) + s.dramSum n (s.power.regime = .lean))).ceil.toNat } } else s3

/-- START_FN on a stall, its SL values already in force: the code, and the state it leaves (R24 to R29, R127, R137).
DEDUCED (log entry 49). -/
def State.startStall (s0 s : State) (n : Fin 16) : Code × State :=
  let t := s.stalls[n]
  let u := s.trialSetup n
  let cost := t.chainCost u.rate u.stages
  let w := weighersFor cost
  let need := F.STL_ADMIT_NEED.put (if s.chainBadParam n u then 0 else w)
  let refuse (c : Code) (bits : Word) (tolls : List Nat) : Code × State :=
    (c, tolls.foldl (fun s i => s.toll i) ((s0.toll 244).modStall n fun t => { t with admitWord := need ||| bits }))
  if s.stallBadParam n u w then refuse .badParam 0 []
  else if !s.depsRun (fnStall n) then refuse .notAdmitted (F.STL_ADMIT_DEP.put 1) []
  else
    let u := s.chargedSetup n u
    let lane := decide (s.pool.limit < s.pool.assigned + w)
    let dram := s.dramFails n u
    let hall := s.hallFails n u w
    let yard := s.yardFails n u
    let sieve := s.sieveFails n u
    if lane || dram || hall || yard || sieve then
      refuse .notAdmitted
        (F.STL_ADMIT_LANE.put lane.toNat ||| F.STL_ADMIT_DRAM.put dram.toNat ||| F.STL_ADMIT_HALL.put (hall || yard).toNat |||
          F.STL_ADMIT_SIEVE.put sieve.toNat)
        ((if lane then [54] else []) ++ (if dram then [201] else []) ++
          (if hall then [169] else if yard then [145] else []) ++ (if sieve then [133] else []))
    else (.ok, s.admitStall n u cost.ceil.toNat w)

/-- A launch ends a stall's launch-wait (R126): its first buffer begins with the sample at the crossing instant; without a
launch-wait stall toll 9 is counted (R56). -/
def State.endLaunchWait (s : State) (n : Fin 16) (instant : Nat) : State :=
  if (s.stalls[n]).mode = .launchWait then
    s.modStall n fun t => { t with mode := .running, bell := { t.bell with beginAt := some instant } }
  else s.toll 9

/-- A word of the window or of the measurement slots advances its address. -/
def State.stallAddrNext (s : State) (num limit : Nat) : State :=
  let a := BitVec.ofNat 32 (((s.word num).toNat + 1) % limit)
  (s.setWritten num a (BitVec.allOnes 32)).setForce num a (BitVec.allOnes 32)

/-- The bits of word `a` of a stall's window that are not reserved (06_weighers, the descriptor and coefficient tables): those that
its descriptor's OP as it stands gives a meaning. DEDUCED (log entry 81). -/
def windowMask (window : List (Nat × Word)) (a : Nat) : Word :=
  if 64 ≤ a then 0x3FFFF
  else
    let j := a % 8
    if j = 0 then 0xFF0F
    else match (Sparse.get (fun _ => 0) window (a - j)).toNat % 16, j with
      | 1, 1 => 0x3
      | 1, 2 => 0xFFFFFF
      | 1, 3 => 0xFFFF
      | 2, 1 => 0xFF7F
      | 2, 2 => 0xFF
      | 3, 1 => 0x1F
      | 3, 2 => BitVec.allOnes 32
      | 3, 3 => BitVec.allOnes 32
      | 4, 1 => 0x10FFF
      | 5, 1 => BitVec.allOnes 32
      | 6, 1 => 0x17
      | _, _ => 0

/-- The bits of word `a` of the measurement slots that are not reserved (10_measurements, slot word 0). -/
def msMask (a : Nat) : Word := if a % 4 = 0 then 0xFFFF else BitVec.allOnes 32

/-- STALL_WINDOW_ACCESS (R130, R9): a read, or the write of a word, which a running stall refuses where it would change a field. -/
def stallWindow (n : Fin 16) (write : Option Word) (s : State) : State :=
  let num := R.STL_WIN_ADDR.num 0 n
  let a := s.val F.STL_WIN_ADDR_ADDR 0 n
  match write with
  | none => (s.stallAddrNext num 320).answer .ok
  | some w =>
    let old := Sparse.get (fun _ => 0) (s.stalls[n]).window a
    if s.running (fnStall n) && (old ^^^ w) &&& windowMask (s.stalls[n]).window a != 0 then
      (s.refuseWrite .stopLocked).stallAddrNext num 320
    else ((s.modStall n fun t => { t with window := Sparse.set (fun _ => 0) t.window a w }).stallAddrNext num 320).answer .ok

/-- STALL_WINDOW_ACCESS. -/
def execStallWindowAccess (n : Fin 16) (write : Option Word) (s : State) : Result := .next (stallWindow n write s)

/-- A word given to a measurement slot holds a code that its table marks reserved, or a NaN limit (R219, R225, R429). -/
def msRefused (a : Nat) (w : Word) : Bool :=
  (a % 4 == 0 && (natBits w.toNat 5 2 == 3 || natBits w.toNat 7 2 == 3)) || (2 ≤ a % 4 && isNaN32 w)

/-- MEAS_SLOT_WINDOW_ACCESS (R9, R225, R229, R429): a reserved GATE or POL and a NaN limit are refused, and words 0 and 1 are
locked while the stall runs. -/
def measWindow (n : Fin 16) (write : Option Word) (s : State) : State :=
  let num := R.STL_MS_ADDR.num 0 n
  let a := s.val F.STL_MS_ADDR_ADDR 0 n
  match write with
  | none => (s.stallAddrNext num 128).answer .ok
  | some w =>
    let old := Sparse.get msReset (s.stalls[n]).msWords a
    if msRefused a w then (s.refuseWrite .range).stallAddrNext num 128
    else if a % 4 < 2 && s.running (fnStall n) && (old ^^^ w) &&& msMask a != 0 then
      (s.refuseWrite .stopLocked).stallAddrNext num 128
    else
      let s1 := s.modStall n fun t => { t with msWords := Sparse.set msReset t.msWords a w }
      let s2 := if 2 ≤ a % 4 && !s.ev.limits.any (fun l => l.1 == n.val && l.2.1 == a) then
        { s1 with ev := { s1.ev with limits := (n.val, a, old) :: s1.ev.limits } } else s1
      (s2.stallAddrNext num 128).answer .ok

/-- MEAS_SLOT_WINDOW_ACCESS. -/
def execMeasSlotWindowAccess (n : Fin 16) (write : Option Word) (s : State) : Result := .next (measWindow n write s)

end Sys2Proof.Machine
end

