-- ==== Sys2Proof/Machine/Dram.lean ====
section
/-! DEFINITION. The record memory controller (chapter 13): the address map, bursts and their ECC, self-refresh, refresh,
hammer tables, retraining, scrub, header rewrites and the training helpers. -/

namespace Sys2Proof.Machine

/-- Bursts in a subchannel (R289). -/
def State.scrubBursts (s : State) : Nat := s.dramSize / 512

/-- A scrub pass begins (R289). -/
def Subchannel.beginScrub (x : Subchannel) : Subchannel := { x with scrubAt := 0, scrubClock := 0, scrubOn := true, scrubLate := false }

/-- The scrub has visited its next burst (R289). DEDUCED (log entry 58). -/
def Subchannel.scrubbed (x : Subchannel) (bursts : Nat) : Subchannel :=
  if x.scrubAt + 1 < bursts then { x with scrubAt := x.scrubAt + 1 }
  else
    let y := { x with scrubAt := 0, scrubOn := false, passes := (x.passes + 1) % 65536 }
    if x.scrubLate then y.beginScrub else y

/-- The first address of the header of a slot of a stall's ring (R290). -/
def State.headerAddr (s : State) (n : Fin 16) (slot : Nat) : Nat :=
  (s.stalls[n]).setup.base + slot * (s.stalls[n]).setup.slotBytes

/-- MAINT work that waits at a subchannel, in the order in which it is served (R273): merge reads; header rewrites and hammer refresh. -/
def State.mergeWaits (s : State) (c : Fin 8) : Bool :=
  s.stalls.toList.any fun t => t.segs.any fun g => match g.merge with
    | some m => (s.dramPlace m.addr).sub == c
    | none => false

def State.rewriteWaits (s : State) (c : Fin 8) : Bool :=
  s.dram.rewrites.any fun r => (s.dramPlace (s.headerAddr r.stall r.slot)).sub == c

def State.hammerWaits (s : State) (c : Fin 8) : Bool :=
  (s.dram.subs[c]).banks.any fun b => b.2.hammer.any fun e => s.dram.hammerTh ≤ e.2

/-- Any such work waits. -/
def State.maintWaits (s : State) (c : Fin 8) : Bool := s.mergeWaits c || s.rewriteWaits c || s.hammerWaits c

/-- Retraining waits: lanes of the present round are still to be swept (R273, R284). -/
def State.retrainWaits (s : State) (c : Fin 8) : Bool := s.dram.trained && (s.dram.subs[c]).retrainLeft != 0

/-- The scrub, as background work, may use the present cycle: no grant stands, and the cycle's owner does not request, unless the entry
is MAINT's (R261). -/
def State.scrubMay (s : State) (c : Fin 8) : Bool :=
  let x := (s.arb (256 + c)).settleHolder
  let o := s.slotOwner (256 + c)
  s.maintMay c && x.holder.isNone && (o == 2 || !x.requests o)

/-- The burst that the controller issues next (R277): the oldest that hits an open row, else the oldest; an ACQ burst is not held back
in favour of another class to its bank. -/
def State.nextBurst (s : State) (c : Fin 8) (q : List (Fin 4 × Nat)) : Option (Fin 4 × Nat) :=
  let hits (b : Fin 4 × Nat) : Bool :=
    let p := s.dramPlace b.2
    ((s.dram.subs[c]).bank p.bank).openRow == some p.row
  match (q.find? hits).or q.head? with
  | some b =>
    if b.1 = 0 then some b
    else (q.find? fun x => x.1 == 0 && (s.dramPlace x.2).bank == (s.dramPlace b.2).bank).or (some b)
  | none => none

/-- The scrub is on (R289). -/
def State.scrubRuns (s : State) : Bool := s.val F.DRM_SCRUB_PERIOD != 0

/-- DRAM_BURST (R272, R273, R277, R287 to R289): one burst of a class is issued, if it is the one that the controller issues next, a burst
that no queue holds standing as the youngest; but not on a subchannel that is not awake. A write carries its 64 bytes; a read says what
errors its codewords hold. `scrub` is a visit of the scrub, which comes after all other MAINT work and in cycles that background work
may use. -/
def dramBurst (owner : Fin 4) (addr : BitVec 38) (write : Option (BitVec 512)) (scrub : Bool) (found : Vector SymbolErrors 8)
    (s : State) : State :=
  let a := addr.toNat / 64 * 64
  if s.dramSize ≤ a then (s.modDram fun d => { d with answer := { owner := owner, error := true } }).toll 194
  else
    let p := s.dramPlace a
    let x := s.dram.subs[p.sub]
    let s1 := s.modSub p.sub fun x => { x with
      queue := x.queue.erase (owner, a), refreshing := false
      banks := Sparse.set (fun _ => ({} : Bank)) x.banks p.bank ((x.bank p.bank).access p.row) }
    if x.sr != .active ||
        s.nextBurst p.sub (if x.queue.contains (owner, a) then x.queue else x.queue ++ [(owner, a)]) != some (owner, a) ||
        (scrub && (s.maintWaits p.sub || s.retrainWaits p.sub || !s.scrubRuns || !s.scrubMay p.sub)) then s
    else match write with
    | some w => (s1.dramWrite a (leBytes 64 w.toNat)).modDram fun d => { d with answer := { owner := owner } }
    | none =>
      let s2 := s1.burstFound owner (a / 8) found
      let bad := s2.burstBad (a / 8)
      let s3 := s2.modDram fun d => { d with answer := {
        owner := owner, data := if bad then 0 else BitVec.ofNat 512 (memNat d.mem a 64), error := bad } }
      if scrub && (s3.dram.subs[p.sub]).scrubOn && (s3.dram.subs[p.sub]).scrubAt == p.local_ / 64 then
        s3.modSub p.sub fun x => x.scrubbed s.scrubBursts
      else s3

/-- DRAM_BURST. -/
def execDramBurst (owner : Fin 4) (addr : BitVec 38) (write : Option (BitVec 512)) (scrub : Bool) (found : Vector SymbolErrors 8)
    (s : State) : Result := .next (dramBurst owner addr write scrub found s)

/-- The subchannel of a DRAM arbiter. -/
def subOf (i : Nat) : Fin 8 := Fin.ofNat 8 i

/-- HALL_REQUEST (R247, R258, R263, R280): a port presents a request at a bank, or an owner code at a subchannel. A port
presents at most one request to a bank in a tick, and to no more banks than it may. A transmit queue is a resource of its sender, the
Crier's port 22 or the Wharf's port 23 (R253, R263). DESIGN CHOICE (log entry 56). -/
def hallRequest (arb : Fin 269) (port : Fin 26) (held : Bool) (work : List (BitVec 38)) (background : Bool) (s : State) : State :=
  let addrs := work.map (·.toNat)
  if work.isEmpty then s
  else if arb.val < 256 then
    if s.ev.presented.contains (arb.val, port.val) ||
        portWidth port ≤ (s.ev.presented.filter fun x => x.1 < 256 && x.2 == port.val).length then s
    else s.present arb port held addrs background
  else if 264 ≤ arb.val then (if port.val = (if arb.val = 268 then 23 else 22) then s.present arb port held addrs background else s)
  else if 4 ≤ port.val then s
  else s.presentDram (subOf arb) port held addrs background

/-- HALL_REQUEST. -/
def execHallRequest (arb : Fin 269) (port : Fin 26) (held : Bool) (work : List (BitVec 38)) (background : Bool) (s : State) :
    Result := .next (hallRequest arb port held work background s)

/-- A subchannel is not idle (R280): its arbiter holds a request of ACQ, READ or CLERK, or there is MAINT work other than scrub. -/
def State.subBusy (s : State) (c : Fin 8) : Bool :=
  let a := (s.arb (256 + c)).settleHolder
  let wants (r : Request) : Bool := r.port != 2 || !r.background
  a.live.any wants || a.parked.any wants || (match a.holder with | some h => wants h.req | none => false) || s.maintWaits c ||
    s.retrainWaits c || (s.dram.subs[c]).queue.any (·.1 == 2)

/-- A subchannel in self-refresh parks every request (R277). -/
def State.subParks (s : State) (c : Fin 8) : Bool := (s.dram.subs[c]).sr != .active

/-- Banks changed by `f`, by number. -/
def Subchannel.mapBanks (x : Subchannel) (f : Nat → Bank → Bank) : Subchannel :=
  { x with banks := Sparse.setAll (fun _ => ({} : Bank)) x.banks (x.banks.map fun b => (b.1, f b.1 b.2)) }

/-- Rows closed in the banks that `p` names. -/
def Subchannel.closeRows (x : Subchannel) (p : Nat → Bool) : Subchannel :=
  x.mapBanks fun i b => if p i then { b with openRow := none } else b

/-- SR_ENTRY (R280): the idle count has been reached, and no request came in the same tick. -/
def srEntry (c : Fin 8) (s : State) : State :=
  let x := s.dram.subs[c]
  if x.sr = .active ∧ x.idleLimit ≠ 0 ∧ x.idleLimit ≤ x.idle ∧ ¬s.subBusy c then
    s.modSub c fun x => { x.closeRows (fun _ => true) with sr := .entering false }
  else s

/-- SR_ENTRY. -/
def execSrEntry (c : Fin 8) (s : State) : Result := .next (srEntry c s)

/-- Every subchannel is held in self-refresh: through WATCH (R281), and until the change between FULL and LEAN that is under way
(R270). -/
def State.heldAsleep (s : State) : Bool := s.power.regime == .watch || s.power.change.isSome

/-- SR_ENTRY_DONE (R280): the clocks are gated; the exit follows at once if a request came meanwhile. -/
def srEntryDone (c : Fin 8) (s : State) : State :=
  match (s.dram.subs[c]).sr with
  | .entering asked => s.modSub c fun x => { x with sr := if asked && !s.heldAsleep then .exiting else .asleep }
  | _ => s

/-- SR_ENTRY_DONE. -/
def execSrEntryDone (c : Fin 8) (s : State) : Result := .next (srEntryDone c s)

/-- SR_EXIT (R280): a request has come to a subchannel in self-refresh. -/
def srExit (c : Fin 8) (s : State) : State :=
  if (s.dram.subs[c]).sr = .asleep ∧ s.subBusy c ∧ ¬s.heldAsleep then s.modSub c fun x => { x with sr := .exiting } else s

/-- SR_EXIT. -/
def execSrExit (c : Fin 8) (s : State) : Result := .next (srExit c s)

/-- tREFI in mites (R279). -/
def State.refreshMites (s : State) : Nat := if s.dram.rate2 then 78000 else 156000

/-- A subchannel leaves self-refresh: its refresh schedule restarts, with a full set due within tREFI (R279, R280). -/
def State.subWakes (s : State) (c : Fin 8) : State :=
  s.modSub c fun x => { x with
    sr := .active, idle := 0, idleLimit := s.val F.DRM_IDLE_SR_IDLE, refreshLeft := [0, 1, 2, 3]
    refreshAt := s.now + s.refreshMites / (if s.anyStall then 4 else 1) }

/-- SR_EXIT_DONE (R280): tXS_DLL has elapsed. -/
def srExitDone (c : Fin 8) (s : State) : State :=
  if (s.dram.subs[c]).sr = .exiting ∧ s.power.regime ≠ .watch then s.subWakes c else s

/-- SR_EXIT_DONE. -/
def execSrExitDone (c : Fin 8) (s : State) : Result := .next (srExitDone c s)

/-- A bank index has an ACQ burst queued (R279). -/
def State.acqQueued (s : State) (c : Fin 8) (k : Nat) : Bool :=
  (s.dram.subs[c]).queue.any fun b => b.1 == 0 && (s.dramPlace b.2).bank % 4 == k

/-- REFRESH_DUE (R279): REFab while no stall runs, else one of the four REFsb of a tREFI, one per bank index, to an index left for which
no ACQ burst is queued, where there is one. Which of several takes it is a free choice (DESIGN CHOICE, log entry 79). -/
def refreshDue (c : Fin 8) (s : State) : State :=
  let x := s.dram.subs[c]
  if x.sr != .active || !s.reached x.refreshAt then s
  else if s.anyStall then
    let left := if x.refreshLeft.isEmpty then [0, 1, 2, 3] else x.refreshLeft
    let quiet := left.filter fun k => !s.acqQueued c k
    let of_ := if quiet.isEmpty then left else quiet
    let (y, s1) := s.draw
    let k := of_.getD (y % of_.length) 0
    s1.modSub c fun x => { x.closeRows (fun b => b % 4 == k) with
      refreshing := true, refreshAt := x.refreshAt + s.refreshMites / 4, refreshLeft := left.erase k }
  else s.modSub c fun x => { x.closeRows (fun _ => true) with
    refreshing := true, refreshAt := x.refreshAt + s.refreshMites, refreshLeft := [0, 1, 2, 3] }

/-- REFRESH_DUE. -/
def execRefreshDue (c : Fin 8) (s : State) : Result := .next (refreshDue c s)

/-- MR4_READ (R279): 0 the normal rate, 1 the doubled rate, 2 beyond the doubled-rate range. -/
def mr4Read (code : Fin 3) (s : State) : State :=
  if !s.reached s.dram.mr4At then s
  else
    let s1 := s.modDram fun d => { d with
      rate2 := code != 0, mr4At := d.mr4At + s.val F.DRM_REFRESH_MR4_PER * milliMites }
    if code = 2 then (s1.toll 204).attention 3 else s1

/-- MR4_READ. -/
def execMr4Read (code : Fin 3) (s : State) : Result := .next (mr4Read code s)

/-- Rows of a bank (R271). -/
def State.bankRows (s : State) : Nat := s.rankGiB * 2 ^ 27 / (if s.flag F.DRM_TOPO_WIDTH then 2 ^ 16 else 2 ^ 17)

/-- The neighbours of a row that exist (R282). -/
def State.neighbours (s : State) (row : Nat) : List Nat :=
  let near : List Int := [(row : Int) - 2, (row : Int) - 1, (row : Int) + 1, (row : Int) + 2]
  (near.filter fun (r : Int) => decide (0 ≤ r) && decide (r < (s.bankRows : Int))).map Int.toNat

/-- A row's neighbours are refreshed (R282): its entry is cleared and the mitigation counted; without RFM each neighbour is
activated, which the table counts. DEDUCED (log entry 58). -/
def State.mitigate (s : State) (c : Fin 8) (bank row : Nat) : State :=
  let s1 := s.modSub c fun x => x.mapBanks fun i b =>
    if i = bank then
      let h := b.hammer.filter fun e => e.1 != row
      if s.dram.rfm then { b with hammer := h } else { openRow := none, hammer := (s.neighbours row).foldl hammerAct h }
    else b
  (s1.modDram fun d => { d with mitigations := (d.mitigations + 1) % 2 ^ 32 }).toll 196

/-- The present cycle of subchannel `c` is MAINT's, READ's or unreserved: hammer refresh is never made in another (R282). -/
def State.hammerCycle (s : State) (c : Fin 8) : Bool := [1, 2, 7].contains (s.slotOwner (256 + c))

/-- HAMMER_MITIGATION (R273, R282). -/
def hammerMitigation (c : Fin 8) (bank : Fin 64) (row : Nat) (s : State) : State :=
  if !s.mergeWaits c && s.maintMay c && s.hammerCycle c &&
      ((s.dram.subs[c]).bank bank).hammer.any fun e => e.1 == row && s.dram.hammerTh ≤ e.2 then
    (s.takeCycle c).mitigate c bank row
  else s

/-- HAMMER_MITIGATION. -/
def execHammerMitigation (c : Fin 8) (bank : Fin 64) (row : Nat) (s : State) : Result := .next (hammerMitigation c bank row s)

/-- HAMMER_WINDOW_END (R282): what has reached the threshold is mitigated, then every table is cleared. -/
def hammerWindowEnd (s : State) : State :=
  if !s.reached s.dram.windowEnd then s
  else
    let due : List (Fin 8 × Nat × Nat) := (List.finRange 8).flatMap fun c => (s.dram.subs[c]).banks.flatMap fun b =>
      (b.2.hammer.filter fun e => s.dram.hammerTh ≤ e.2).map fun e => (c, b.1, e.1)
    (due.foldl (fun s x => s.mitigate x.1 x.2.1 x.2.2) s).modDram fun d => { d with
      hammerTh := s.val F.DRM_HAMMER_TH_TH, windowEnd := d.windowEnd + 32 * milliMites
      subs := d.subs.map fun x => x.mapBanks fun _ b => { b with hammer := [] } }

/-- HAMMER_WINDOW_END. -/
def execHammerWindowEnd (s : State) : Result := .next (hammerWindowEnd s)

/-- The number of a delay: rate, subchannel, target, bit (R283). -/
def delayKey (lean : Bool) (sub target bit : Nat) : Nat := ((lean.toNat * 8 + sub) * 16 + target) * 64 + bit

/-- The delay that a seed of the board data is for: its TARGET, byte 1 with the subchannel and the rate, and its BIT (R364). -/
def seedKey (w : Nat) : Nat := delayKey (w.testBit 11) (natBits w 8 3) (natBits w 0 8) (natBits w 16 8)

/-- The window of points in which a bit passes (R283): as the sweep found it, within the seed ±128 points where the board data give a
seed (R364). -/
def State.eyeOf (s : State) (t : Training) (key : Nat) : Option (Nat × Nat) :=
  let seed := s.image.seeds.find? fun x => seedKey x.1 == key
  let (lo, hi) := match seed with | some (_, d) => (d - 128, min 1023 (d + 128)) | none => (0, 1023)
  match (match t.bits.find? (·.1 == key) with | some (_, w) => w | none => t.eye) with
  | some (a, b) => if max a lo ≤ min b hi then some (max a lo, min b hi) else none
  | none => none

/-- A window is of at least MINEYE steps (R283). DEDUCED (log entry 58): a step is a point. -/
def State.eyeOk (s : State) (w : Option (Nat × Nat)) : Bool :=
  match w with
  | some (a, b) => decide (s.val F.DRM_RETRAIN_MINEYE ≤ b + 1 - a)
  | none => false

/-- The delays that training leaves: the middle of each window (R283). -/
def State.trainedDelay (s : State) (key : Nat) : Nat :=
  match s.dram.eyes with
  | some t => match s.eyeOf t key with | some (a, b) => (a + b) / 2 | none => 0
  | none => 0

/-- A delay as it stands: what has been set since the training, else what the training left. -/
def State.delayOf (s : State) (key : Nat) : Nat := Sparse.get s.trainedDelay s.dram.delays key

/-- A delay is set. -/
def State.setDelay (s : State) (key d : Nat) : State :=
  s.modDram fun x => { x with delays := Sparse.set s.trainedDelay x.delays key d }

/-- Delay-line target of a retraining step: write DQS, or read DQ (R284). -/
def retrainTarget (dqs : Bool) : Nat := if dqs then 2 else 4

/-- RETRAIN_STEP (R273, R284): in a MAINT cycle during a refresh one byte lane is adjusted, its read DQ centring swept again or its write
DQS delay moved after the oscillator, where no other MAINT work but scrub waits. `delays`: the new delays of the lane's bits, none
where the step finds no passing window. DEDUCED (log entry 58): which cycles lie in a refresh. -/
def retrainStep (c : Fin 8) (dqs : Bool) (lane : Fin 5) (delays : Option (Vector (BitVec 10) 8)) (s : State) : State :=
  let x := s.dram.subs[c]
  if !s.dram.trained || !s.maintMay c || s.maintWaits c || !x.refreshing || (!dqs && x.retrainLeft == 0) then s
  else
    let s1 := (s.takeCycle c).modSub c fun x => { x with
      refreshing := false, retrainLeft := if dqs then x.retrainLeft else x.retrainLeft - 1 }
    match delays with
    | none => s1.toll 199
    | some d =>
      let key (i : Nat) : Nat := delayKey (s.power.regime = .lean) c (retrainTarget dqs) (8 * lane + i)
      let drifts := (List.finRange 8).any fun i =>
        decide (s.val F.DRM_RETRAIN_DRIFT_LIM < ((d[i].toNat : Int) - s.delayOf (key i)).natAbs)
      ((List.finRange 8).foldl (fun s i => s.setDelay (key i) d[i].toNat) s1).tollIf drifts 198

/-- RETRAIN_STEP. -/
def execRetrainStep (c : Fin 8) (dqs : Bool) (lane : Fin 5) (delays : Option (Vector (BitVec 10) 8)) (s : State) : Result :=
  .next (retrainStep c dqs lane delays s)

/-- DRAM_SCRUB_PERIOD (R281, R289): a subchannel's pass clock has reached its period. -/
def dramScrubPeriod (c : Fin 8) (s : State) : State :=
  let x := s.dram.subs[c]
  let per := s.val F.DRM_SCRUB_PERIOD
  if per = 0 ∨ x.scrubLate ∨ x.scrubClock < per * 144000000000000 then s
  else if x.scrubOn then (s.modSub c fun x => { x with scrubLate := true }).toll 195
  else s.modSub c fun x => x.beginScrub

/-- DRAM_SCRUB_PERIOD. -/
def execDramScrubPeriod (c : Fin 8) (s : State) : Result := .next (dramScrubPeriod c s)

/-- Whether a header in record memory can be trusted and its segment still stands (R200, R290). -/
def State.headerStands (s : State) (n : Fin 16) (slot : Nat) : Bool :=
  let t := s.stalls[n]
  let u := t.setup
  let a := s.headerAddr n slot
  let q := memNat s.dram.mem (a + 0x1E) 5
  crc32 (memBytes s.dram.mem a 60) == memNat s.dram.mem (a + 60) 4 && q % max 1 u.slots == slot &&
    t.holdsSlot q

/-- HEADER_REWRITE (R200, R273, R290): the first rewrite that waits, in a MAINT cycle, no merge read waiting at its subchannel. The Clerk
reads the
header, of which `found` says what errors its codewords hold; what it finds joins the flags to be added. DEDUCED (log entry 58). -/
def headerRewrite (found : Vector SymbolErrors 8) (s : State) : State :=
  match s.dram.rewrites with
  | [] => s
  | r :: _ =>
    let a := s.headerAddr r.stall r.slot
    let c := (s.dramPlace a).sub
    if s.mergeWaits c || !s.maintMay c then s
    else
      let t := (s.takeCycle c).burstFound 2 (a / 8) found
      let own := t.dram.rewrites.headD r
      let s1 := t.modDram fun d => { d with rewrites := d.rewrites.tail }
      if t.burstBad (a / 8) || !t.headerStands r.stall r.slot then s1.toll 202
      else
        let flags := memNat t.dram.mem (a + 0x1A) 2 ||| own.flags
        let body := memBytes t.dram.mem a 0x1A ++ leBytes 2 flags ++ memBytes t.dram.mem (a + 0x1C) 32
        s1.dramWrite a (body ++ leBytes 4 (crc32 body))

/-- HEADER_REWRITE. -/
def execHeaderRewrite (found : Vector SymbolErrors 8) (s : State) : Result := .next (headerRewrite found s)

/-- A subchannel is frozen (R265). -/
def State.subFrozen (s : State) (c : Nat) : Bool := (s.val F.ARB_DFREEZE_FRZ).testBit c

/-- The fields of DRM_TR_CTRL that a write sets. -/
def trainingMask : Word := R.DRM_TR_CTRL.mask (· == .lv) &&& ~~~(F.DRM_TR_CTRL_GO.put 1)

/-- A sweep that a GO starts, with the parameters as they stand (R286). -/
def State.newSweep (s : State) (w : Word) : Sweep :=
  { mode := F.DRM_TR_CTRL_MODE.get w, first := s.val F.DRM_TR_SWEEP_START, last := s.val F.DRM_TR_SWEEP_END
    step := s.val F.DRM_TR_SWEEP_STEP, count := F.DRM_TR_CTRL_COUNT.get w, seed := s.val F.DRM_TR_SEED_SEED }

/-- TRAINING_GO (R286): a write of DRM_TR_CTRL; with GO a sweep starts on a frozen subchannel. A COUNT out of its range refuses the
whole write first (R9, R429). -/
def trainingGo (w : Word) (s : State) : State :=
  let n := R.DRM_TR_CTRL.base
  let c := F.DRM_TR_CTRL_SUB.get w
  let go := F.DRM_TR_CTRL_GO.get w = 1
  if F.DRM_TR_CTRL_COUNT.get w = 0 then s.refuseWrite .range
  else if go ∧ ¬s.subFrozen c then (s.toll 203).refuseWrite .stopLocked
  else
    let s1 := ((s.setWritten n w trainingMask).setForce n w trainingMask).answer .ok
    if go then (s1.modSub (Fin.ofNat 8 c) fun x => { x with sweep := some (s1.newSweep w) }).modDram fun d => { d with
      sweepDone := false }
    else s1

/-- TRAINING_GO. -/
def execTrainingGo (w : Word) (s : State) : Result := .next (trainingGo w s)

/-- The delay that DRM_TR_DSEL selects (R286). -/
def State.selectedDelay (s : State) : Nat :=
  delayKey (s.power.regime = .lean) (s.val F.DRM_TR_DSEL_SUB) (s.val F.DRM_TR_DSEL_TARGET) (s.val F.DRM_TR_DSEL_BIT)

/-- TRAINING_DELAY_WRITE (R286): a write of DRM_TR_DDATA. -/
def trainingDelay (w : Word) (s : State) : State :=
  if !s.subFrozen (s.val F.DRM_TR_DSEL_SUB) then (s.toll 203).refuseWrite .stopLocked
  else (s.setDelay s.selectedDelay (F.DRM_TR_DDATA_DLY.get w)).answer .ok

/-- TRAINING_DELAY_WRITE. -/
def execTrainingDelayWrite (w : Word) (s : State) : Result := .next (trainingDelay w s)

/-- One step of the LFSR x^31 + x^28 + 1 (R286): the bit it gives is its highest. DEDUCED (log entry 58). -/
def lfsrStep (x : Nat) : Nat := (2 * x + (((x.testBit 30) != (x.testBit 27)).toNat)) % 2 ^ 31

/-- `n` bits of the LFSR, the first lowest, and its state after them. -/
def lfsrBits : Nat → Nat → Nat × Nat
  | 0, x => (0, x)
  | n + 1, x => let (w, y) := lfsrBits n (lfsrStep x); ((x.testBit 30).toNat + 2 * w, y)

/-- Bits of a burst with the check lane: 16 beats of 40 (R271, R287). -/
def burstBits : Nat := 640

/-- Errors of each bit in the bursts that a point of a sweep read back (R286): bit `i` of the subchannel in beat `t` is bit 40 t + i of a
burst, and the pattern steps once per bit in that order, begun from SEED at each point. DEDUCED (log entry 58). -/
def lfsrErrors (i : Nat) : Nat → List (BitVec 640) → Nat
  | _, [] => 0
  | x, b :: bs =>
    let (w, y) := lfsrBits burstBits x
    ((List.range 16).filter fun t => b.toNat.testBit (40 * t + i) != w.testBit (40 * t + i)).length + lfsrErrors i y bs

/-- The points of a sweep (R286). -/
def Sweep.points (w : Sweep) : List Nat :=
  (List.range ((w.last + 1 - w.first + (w.step - 1)) / max 1 w.step)).map fun k => w.first + k * max 1 w.step

/-- Errors of bit `i` at the points of a sweep: by the LFSR's pattern in MODE 0, otherwise as the helper counts them. -/
def Sweep.errors (w : Sweep) (i : Fin 40) (reads : List (List (BitVec 640))) (counts : Vector (List Nat) 40) : List Nat :=
  (List.range w.points.length).map fun k =>
    if w.mode = 0 then lfsrErrors i w.seed ((reads.getD k []).take w.count) else (counts[i]).getD k 0

/-- DRM_TR_RES of a bit (R286): the first and last points without an error, and the errors at the last point, saturating. What FIRST
and LAST show of a bit that passes nowhere is a free value (DESIGN CHOICE, log entry 85). -/
def Sweep.result (w : Sweep) (free : Nat) (errs : List Nat) : BitVec 10 × BitVec 10 × BitVec 12 :=
  let good := (w.points.zip errs).filter fun p => p.2 == 0
  let open_ : Nat × Nat := (free, free / 2 ^ 10)
  let at_ (p : Option (Nat × Nat)) (d : Nat) : BitVec 10 := BitVec.ofNat 10 (match p with | some x => x.1 | none => d)
  (at_ good.head? open_.1, at_ good.getLast? open_.2, BitVec.ofNat 12 (min 4095 (errs.getLastD 0)))

/-- DRM_TR_ERR: bit `i` is set where bit `i` failed at the last point. -/
def failedBits (errs : List (List Nat)) : BitVec 40 :=
  BitVec.ofNat 40 ((errs.zipIdx.filter fun e => e.1.getLastD 0 != 0).map fun e => 2 ^ e.2).sum

/-- TRAINING_SWEEP_DONE (R286): a sweep completes. `reads` are the bursts read back at each point in MODE 0; `counts` the errors of each
bit at each point in the other modes, whose patterns are the DRAM's. -/
def trainingSweepDone (c : Fin 8) (reads : List (List (BitVec 640))) (counts : Vector (List Nat) 40) (s : State) : State :=
  match (s.dram.subs[c]).sweep with
  | some w =>
    let (x, s1) := s.draw
    let errs : Vector (List Nat) 40 := Vector.ofFn fun i => w.errors i reads counts
    (s1.modSub c fun y => { y with sweep := none }).modDram fun d => { d with
      sweepDone := true
      errors := failedBits errs.toList
      results := errs.map fun e => w.result x e }
  | none => s

/-- TRAINING_SWEEP_DONE. -/
def execTrainingSweepDone (c : Fin 8) (reads : List (List (BitVec 640))) (counts : Vector (List Nat) 40) (s : State) : Result :=
  .next (trainingSweepDone c reads counts s)

/-- The mode registers that step 1 of a training writes from the board data, in order (R283, R364). -/
def State.boardRegs (s : State) : List (Nat × Nat) :=
  s.image.modeRegs.foldl (fun l (a, v, subs, rates) =>
    ((List.range 16).filter fun x => subs.testBit (x % 8) && rates.testBit (x / 8)).foldl
      (fun l x => Sparse.set (fun _ => 0) l (256 * x + a) v) l) s.dram.modeRegs

/-- Every bit has a passing window (R283): those that the sweeps list, those with a seed, and the others, which are alike. -/
def State.trainingPasses (s : State) (t : Training) (mine : Nat → Bool) : Bool :=
  let keys := (t.bits.map (·.1) ++ s.image.seeds.map fun x => seedKey x.1).filter mine
  s.eyeOk t.eye && keys.all fun k => s.eyeOk (s.eyeOf t k)

/-- Training at start-up (R283), the subchannels frozen for it: the mode registers are written, the delays are centred and the record
memory is zeroed; a failure leaves the controller untrained, and the memory as it is. -/
def State.trainDram (s : State) (t : Training) : State :=
  let ok := s.trainingPasses t fun _ => true
  let s1 := s.modDram fun d => { d with
    trained := ok, eyes := if ok then some t else none, delays := [], rfm := t.rfm, modeRegs := s.boardRegs }
  if ok then s1.modDram fun d => { d with mem := [], bad := [] } else (s1.toll 200).attention 3

/-- A delay is of read DQ, or of write DQS, at the rate `lean`: what a short retrain finds anew (R285). -/
def retrainKey (lean : Bool) (k : Nat) : Bool := k / 8192 == lean.toNat && (k / 64 % 16 == 4 || k / 64 % 16 == 2)

/-- The short retrain passes. -/
def State.retrainPasses (s : State) (t : Training) (lean : Bool) : Bool := s.trainingPasses t (retrainKey lean)

/-- The short retrain on leaving WATCH (R285), the subchannels frozen for it: an oscillator reading is taken and the read DQ delays are
centred, for the rate `lean`; `t` is what its sweeps list. -/
def State.retrainDram (s : State) (t : Training) (lean : Bool) : State :=
  if !s.dram.trained then s
  else if s.retrainPasses t lean then
    (t.bits.filter fun x => retrainKey lean x.1).foldl (fun s x => match s.eyeOf t x.1 with
      | some (a, b) => s.setDelay x.1 ((a + b) / 2)
      | none => s) s
  else ((s.modDram fun d => { d with trained := false }).toll 200).attention 3

/-- Every subchannel enters self-refresh (R281). -/
def State.dramSleeps (s : State) : State :=
  (List.finRange 8).foldl (fun s c => s.modSub c fun x => { x.closeRows (fun _ => true) with sr := .asleep }) s

/-- Byte lanes that a retraining round sweeps (R284, R287). -/
def retrainLanes : Nat := 5

/-- The record memory's part in closing a tick: idle counts (R280), pass clocks (R281, R289), and the retraining rounds, one each PERIOD
(R284). -/
def State.closeDram (s : State) : State :=
  (List.finRange 8).foldl (fun s c =>
    let busy := s.subBusy c
    s.modSub c fun x => { x with
      idle := if busy || x.sr != .active then 0 else x.idle + 1
      idleLimit := if busy || x.idle = 0 then s.val F.DRM_IDLE_SR_IDLE else x.idleLimit
      scrubClock := if x.sr == .asleep then x.scrubClock else x.scrubClock + s.tickLen
      retrainAt := if s.dram.trained && s.reached x.retrainAt then
        max x.retrainAt s.now + s.val F.DRM_RETRAIN_PERIOD * milliMites else x.retrainAt
      retrainLeft := if s.dram.trained && s.reached x.retrainAt then retrainLanes else x.retrainLeft }) s

/-- Bursts that the queue of a class holds (R277). -/
def queueCap (owner : Nat) : Nat := match owner with | 0 => 64 | 1 => 32 | _ => 16

/-- The queue of a class is full: a grant has nowhere to put its burst. -/
def State.queueFull (s : State) (c : Fin 8) (owner : Nat) : Bool :=
  decide (queueCap owner ≤ ((s.dram.subs[c]).queue.filter fun b => b.1.val == owner).length)

/-- A burst granted at a subchannel enters the queue of its class (R277). -/
def State.queueBurst (s : State) (c : Fin 8) (owner addr : Nat) : State :=
  s.modSub c fun x => { x with queue := x.queue ++ [(Fin.ofNat 4 owner, addr / 64 * 64)] }

/-- DRM_STAT, DRM_SCRUB_STAT, DRM_ELOG_HEAD. -/
def State.dramStatWord (s : State) : Word :=
  F.DRM_STAT_SR.put (((List.finRange 8).filter fun c => (s.dram.subs[c]).sr == .asleep).map fun c => 2 ^ c.val).sum |||
  F.DRM_STAT_TRAINED.put s.dram.trained.toNat ||| F.DRM_STAT_RATE.put (decide (s.power.regime = .lean)).toNat |||
  F.DRM_STAT_TABLE_OK.put s.tableOk.toNat

def State.dramScrubWord (s : State) : Word :=
  F.DRM_SCRUB_STAT_PASSES.put ((List.finRange 8).foldl (fun a c => min a (s.dram.subs[c]).passes) (s.dram.subs[0]).passes) |||
  F.DRM_SCRUB_STAT_LATE.put ((List.finRange 8).any fun c => (s.dram.subs[c]).scrubLate).toNat

/-- Bytes of an entry of the DRAM error log (R291). -/
def DramLogEntry.bytes (e : DramLogEntry) : List Byte :=
  leBytes 8 e.chron ++ leBytes 5 e.addr ++
    [BitVec.ofNat 8 (e.symbol + e.finder * 16 + (if e.uncorr then 128 else 0)), BitVec.ofNat 8 e.codeword,
      BitVec.ofNat 8 e.stall]

/-- The DRAM error log's word that DRM_ELOG_SEL selects. -/
def State.elogWord (s : State) : Word :=
  let e := Sparse.get (fun _ => ({} : DramLogEntry)) s.dram.log (s.val F.DRM_ELOG_SEL_ENTRY)
  BitVec.ofNat 32 (ofLeBytes ((e.bytes.drop (4 * s.val F.DRM_ELOG_SEL_WORD)).take 4))

/-- A log selector whose WORD has been read: WORD advances, carrying into ENTRY. -/
def State.selNext (s : State) (n entry word entryBits : Nat) (place : Nat → Nat → Word) : State :=
  let x := (entry * 4 + word + 1) % (2 ^ entryBits * 4)
  let w := place (x / 4) (x % 4)
  (s.setWritten n w (BitVec.allOnes 32)).setForce n w (BitVec.allOnes 32)

/-- ELOG_DATA_READ (R291). -/
def elogDataRead (s : State) : State :=
  (s.selNext R.DRM_ELOG_SEL.base (s.val F.DRM_ELOG_SEL_ENTRY) (s.val F.DRM_ELOG_SEL_WORD) 6 fun e w =>
    F.DRM_ELOG_SEL_ENTRY.put e ||| F.DRM_ELOG_SEL_WORD.put w).answer .ok

/-- ELOG_DATA_READ. -/
def execElogDataRead (s : State) : Result := .next (elogDataRead s)

/-- DRM_TR_RES: the last sweep's result of the bit that DRM_TR_DSEL selects. -/
def State.trainingResWord (s : State) : Word :=
  let r := s.dram.results[Fin.ofNat 40 (s.val F.DRM_TR_DSEL_BIT)]
  F.DRM_TR_RES_FIRST.put r.1.toNat ||| F.DRM_TR_RES_LAST.put r.2.1.toNat ||| F.DRM_TR_RES_ERRS.put r.2.2.toNat

end Sys2Proof.Machine
end

