-- ==== Sys2Proof/Machine/Regime.lean ====
section
/-! DEFINITION. The power regimes: requests, the LEAN total, and the change between FULL and LEAN (18_power R387 to R391). -/

namespace Sys2Proof.Machine

/-- The master writes command `code` to regulator channel `k`, where the channel has an address; a write that fails, and its retry,
count toll 252 (R385). -/
def State.pmSend (s : State) (k : Fin 6) (code : Nat) (data : List Byte) : State :=
  let a := s.val F.PWR_RG_CFG_ADDR k
  if a = 0 then s
  else if s.power.mute.getLsbD k.val then s.toll 252
  else s.modPower fun p => { p with sent := p.sent ++ [⟨a, s.flag F.PWR_RG_CFG_PEC k, code, data⟩] }

/-- What the master writes once PARAM has been applied (R385): OPERATION and ON_OFF_CONFIG of every channel that has an address. -/
def State.pmConfigure (s : State) : State :=
  (List.finRange 6).foldl (fun s k => (s.pmSend k 0x01 [0x80]).pmSend k 0x02 [0x16]) (s.modPower fun p => { p with sent := [] })

/-- One millisecond and one second, in mites. -/
def mitesPerMs : Nat := 40000000
def mitesPerSec : Nat := 40000000000

/-- The Clerk recomputes the DRAM charge of every running stall at LEAN rates, its HOLDOFF as it stands (R389). -/
def State.recharge (s : State) : State :=
  (List.finRange 16).foldl (fun s n => if s.running (fnStall n) then
    s.modStall n fun t => { t with setup := { t.setup with bitsLean := (s.chargedSetup n t.setup).bitsLean } } else s) s

/-- The charges of the running stalls at LEAN rates fit 432 Gbit/s (R389). -/
def State.leanFits (s : State) : Bool := decide (mbits (s.dramSum 16 true) ≤ 432000)

/-- The Watch store: its length and where it begins (R391). -/
def storeBytes : Nat := 129 * 2 ^ 20
def State.storeBase (s : State) : Nat := s.dramSize - storeBytes

/-- The ring of a running stall overlaps the Watch store (R391). -/
def State.ringInStore (s : State) : Bool :=
  (List.finRange 16).any fun (n : Fin 16) =>
    let u := (s.stalls[n]).setup
    s.running (fnStall n) && u.ring && decide (s.storeBase < u.base + u.ringBytes)

/-- PWR_REGIME's fields that are written: REQ, ADMIT_LEAN and WAKE_TO. DEDUCED (log entry 61). -/
def State.setRegimeWord (s : State) (req : Nat) (admitLean wakeTo : Bool) : State :=
  let w := F.PWR_REGIME_REQ.put req ||| F.PWR_REGIME_ADMIT_LEAN.put admitLean.toNat |||
    F.PWR_REGIME_WAKE_TO.put wakeTo.toNat
  let m := R.PWR_REGIME.mask (· == .lv)
  ((s.setWritten R.PWR_REGIME.base w m).setForce R.PWR_REGIME.base w m).answer .ok

/-- A change to FULL or LEAN begins: the subchannels that are awake enter self-refresh for it (R270). -/
def State.beginChange (s : State) (r : Regime) : State :=
  let s1 := s.modPower fun p => { p with change := if p.regime = r then none else some r }
  if s.power.regime = r ∨ s.power.regime = .watch then s1
  else (List.finRange 8).foldl (fun s c => s.modSub c fun x =>
    if x.sr = .active then { x.closeRows (fun _ => true) with sr := .entering false } else x) s1

/-- A change to FULL or LEAN is asked for; while temperature overrides REQ, it waits (R388, R394). -/
def State.askRegime (s : State) (r : Regime) : State := if s.power.forced then s else s.beginChange r

/-- REGIME_REQUEST_FULL (R388): a write of PWR_REGIME with REQ = FULL. -/
def regimeFull (admitLean wakeTo : Bool) (s : State) : State := (s.setRegimeWord 0 admitLean wakeTo).askRegime .full

/-- REGIME_REQUEST_FULL. -/
def execRegimeRequestFull (admitLean wakeTo : Bool) (s : State) : Result := .next (regimeFull admitLean wakeTo s)

/-- REGIME_REQUEST_LEAN (R389): a write of PWR_REGIME with REQ = LEAN, refused where the LEAN total does not fit. DEDUCED
(log entry 61). -/
def regimeLean (admitLean wakeTo : Bool) (s : State) : State :=
  let t := s.recharge
  if t.leanFits then (t.setRegimeWord 1 admitLean wakeTo).askRegime .lean else s.refuseWrite .range

/-- REGIME_REQUEST_LEAN. -/
def execRegimeRequestLean (admitLean wakeTo : Bool) (s : State) : Result := .next (regimeLean admitLean wakeTo s)

/-- REGIME_REQUEST_WATCH (R390, R391): a write of PWR_REGIME with REQ = WATCH; entry begins 1 ms after the reply. -/
def regimeWatch (admitLean wakeTo : Bool) (s : State) : State :=
  if s.ringInStore || !s.dram.trained then s.refuseWrite .range
  else (s.setRegimeWord 2 admitLean wakeTo).modPower fun p => { p with watchAt := some (s.now + mitesPerMs) }

/-- REGIME_REQUEST_WATCH. -/
def execRegimeRequestWatch (admitLean wakeTo : Bool) (s : State) : Result := .next (regimeWatch admitLean wakeTo s)

/-- The device goes over to FULL or LEAN at once (R388): the coefficient set changes with a step of every position (R111), and
record memory, in self-refresh, takes the delay set of the new rate and begins to leave it (R270, R280). The outputs of
Mints S and M, whose dividers change, are gated for it (R63, R69). DEDUCED (log entry 21). -/
def State.enterRegime (s : State) (r : Regime) : State :=
  if s.power.regime = r then s.modPower fun p => { p with change := none }
  else
    let off := (s.gateEdge mintS false).gateEdge mintM false
    let s1 := ((off.modPower fun p => { p with regime := r, change := none }).gateEdge mintS true |>.gateEdge mintM true).regimeStep
    (List.finRange 8).foldl (fun s c => s.modSub c fun x => { x.closeRows (fun _ => true) with sr := .exiting }) s1

/-- REGIME_CHANGE (R388): the change that is due takes effect. -/
def regimeChange (s : State) : State :=
  match s.power.change with
  | some r => if s.power.regime = .watch then s else s.enterRegime r
  | none => s

/-- REGIME_CHANGE. -/
def execRegimeChange (s : State) : Result := .next (regimeChange s)

end Sys2Proof.Machine
end

