-- ==== Sys2Proof/Machine/Otp.lean ====
section
/-! DEFINITION. The OTP fuses and the anti-rollback counter (17_image R366 to R368). -/

namespace Sys2Proof.Machine

/-- The image part changed. -/
def State.modImage (s : State) (f : Image → Image) : State := { s with image := f s.image }

/-- An OTP word as programmed. -/
def State.otpWord (s : State) (i : Nat) : Word := s.image.otp[Fin.ofNat 32 i]

/-- Bits of word 16 (R366). -/
def otpKeyhashSet (w : Word) : Bool := w.getLsbD 0
def otpReckeySet (w : Word) : Bool := w.getLsbD 1
def otpSigreq (w : Word) : Bool := w.getLsbD 2
def otpJtagLock (w : Word) : Bool := w.getLsbD 3

/-- The TAP controller of the boundary-scan port is held in Test-Logic-Reset, by the fuse as the last start-up found it (R366,
R367, R426). -/
def State.tapHeld (s : State) : Bool := otpJtagLock s.image.otpForce[16]

/-- The fuses of OTP word `i` that exist (R366). -/
def otpMask (i : Nat) : Word := if i = 16 then 0xF else if i = 21 then 0xFFFF else BitVec.allOnes 32

/-- Programming `data` into word `i` is refused (R367). -/
def State.otpRefused (s : State) (i : Nat) (data : Word) : Bool :=
  let ctl := s.otpWord 16
  (decide (i < 8) && otpKeyhashSet ctl) || (decide (8 ≤ i) && decide (i < 16) && otpReckeySet ctl) ||
  (i == 16 && otpSigreq data && !otpKeyhashSet ctl && !otpKeyhashSet data) || i == 17 || i == 18 ||
  (decide (19 ≤ i) && decide (i ≤ 21) && s.otpWord i != 0) || decide (22 ≤ i)

/-- Programming is in progress: IMG_OTP_CTRL.BUSY. -/
def State.otpBusy (s : State) : Bool :=
  match s.image.otpUntil with
  | some t => decide (s.now < t)
  | none => false

/-- OTP_PROGRAM (R367): a write of 0x4F54 to IMG_OTP_CTRL.KEY. Programming takes at most 2 ms. DEDUCED (log entry 61). -/
def otpProgram (s : State) : State :=
  let i := s.val F.IMG_OTP_SEL_WORD
  let data := s.word R.IMG_OTP_DATA.base
  if s.otpBusy then s.answer .busyRetry
  else if s.otpRefused i data then s.refuseWrite .badParam
  else (s.modImage fun x => { x with
    otp := updAt x.otp (Fin.ofNat 32 i) fun w => w ||| (data &&& otpMask i)
    otpUntil := some (s.now + 2 * mitesPerMs) }).answer .ok

/-- OTP_PROGRAM. -/
def execOtpProgram (s : State) : Result := .next (otpProgram s)

/-- OTP_PROGRAM_DONE (R367). -/
def execOtpProgramDone (s : State) : Result := .next (s.modImage fun x => { x with otpUntil := none })

/-- Fuses blown among the low `n` bits of a number. -/
def popCount : Nat → Nat → Nat
  | 0, _ => 0
  | n + 1, x => x % 2 + popCount n (x / 2)

/-- The anti-rollback counter of words 17 and 18 (R366). -/
def arbCount (otp : Vector Word 32) : Nat := popCount 32 otp[17].toNat + popCount 32 otp[18].toNat

/-- ROLLBACK_ADVANCE (R368): a write of 1 to IMG_ROLLBACK.ADVANCE. -/
def rollbackAdvance (s : State) : State :=
  let x := s.image
  if x.phase != .running || x.source != 0 || !x.sigchk then s.refuseWrite .badParam
  else if x.level ≤ arbCount x.otp then s.answer .ok
  else
    let fuses := 2 ^ x.level - 1
    (s.modImage fun x => { x with
      otp := updAt (updAt x.otp 17 fun w => w ||| BitVec.ofNat 32 fuses) 18 fun w =>
        w ||| BitVec.ofNat 32 (fuses / 2 ^ 32) }).answer .ok

/-- ROLLBACK_ADVANCE. -/
def execRollbackAdvance (s : State) : Result := .next (rollbackAdvance s)

/-- IMG_OTP_DATA as it is read: the fuse word at WORD; RECKEY words read zero (R366). -/
def State.otpDataWord (s : State) : Word :=
  let i := s.val F.IMG_OTP_SEL_WORD
  if 8 ≤ i ∧ i < 16 then 0 else s.otpWord i

end Sys2Proof.Machine
end

