-- ==== Sys2Proof/Machine/Signboard.lean ====
section
/-! DEFINITION. The Signboard (chapter 14): commits and flips, the L1 plot, read-back, and what the panel shows. -/

namespace Sys2Proof.Machine

/-- The Signboard changed. -/
def State.modSign (s : State) (f : Signboard → Signboard) : State := { s with sign := f s.sign }

/-- Panel size in pixels (R295). -/
def State.panelWidth (s : State) : Nat := 4 * s.val F.SGN_HACT_HACT
def State.panelHeight (s : State) : Nat := s.val F.SGN_VACT_VACT

/-- The words of a commit group (14_signboard, commits and flips); PAL has none of its own. -/
def groupWords (g : Fin 5) : List Nat :=
  match g with
  | 0 => [R.SGN_L0_SRC.num, R.SGN_L_POS.num 0, R.SGN_L_SIZE.num 0]
  | 1 => [R.SGN_L1_SRC.num, R.SGN_L1_COLOUR.num, R.SGN_L_POS.num 1, R.SGN_L_SIZE.num 1]
  | 2 => [R.SGN_L2_ADDR.num, R.SGN_L2_ECRC.num, R.SGN_L_POS.num 2, R.SGN_L_SIZE.num 2]
  | 3 => []
  | 4 => [R.SGN_LAYERS.num]

/-- Layer `n`'s rectangle as last written lies on the panel (R298). -/
def State.rectOk (s : State) (n : Nat) : Bool :=
  decide (s.wval F.SGN_L_POS_X0 n + s.wval F.SGN_L_SIZE_W n ≤ s.panelWidth) &&
  decide (s.wval F.SGN_L_POS_Y0 n + s.wval F.SGN_L_SIZE_H n ≤ s.panelHeight)

/-- Bytes of a row of the overlay buffer (R302). -/
def overlayPitch (w : Nat) : Nat := 16 * ((w + 15) / 16)

/-- Bytes from an address lie in one LAYER region with the given owner. -/
def State.inLayer (s : State) (owner a n : Nat) : Bool :=
  (s.regionsOf 3).any fun d =>
    let r := s.region d
    r.owner == owner && decide (r.base ≤ a) && decide (a + n ≤ r.base + r.size)

/-- A commit naming these groups is refused with BAD_PARAM (R305). -/
def State.commitBad (s : State) (gs : List (Fin 5)) : Bool :=
  (gs.contains 2 && !s.inLayer 2 (s.wval F.SGN_L2_ADDR_ADDR)
    (s.wval F.SGN_L_SIZE_H 2 * overlayPitch (s.wval F.SGN_L_SIZE_W 2))) ||
  (gs.contains 0 && !s.running (0x30 + s.wval F.SGN_L0_SRC_MAP)) ||
  (gs.any fun g => g.val < 3 && !s.rectOk g)

/-- PALETTE_WINDOW_ACCESS (R303): a shadow palette entry; an L0 entry has no alpha. -/
def paletteWindow (write : Option Word) (s : State) : State :=
  let a := s.val F.SGN_PAL_ADDR_ADDR
  let s1 := match write with
    | some w => s.modSign fun g => { g with
      palette := Sparse.set (fun _ => 0) g.palette a (if a < 256 then w &&& 0xFFFFFF else w) }
    | none => s
  let next := BitVec.ofNat 32 ((a + 1) % 512)
  ((s1.setWritten R.SGN_PAL_ADDR.base next 0x1FF).setForce R.SGN_PAL_ADDR.base next 0x1FF).answer .ok

/-- PALETTE_WINDOW_ACCESS. -/
def execPaletteWindowAccess (write : Option Word) (s : State) : Result := .next (paletteWindow write s)

/-- FLIP_READ (R304): a read of SGN_FLIP_CLO latches the other three. -/
def flipRead (s : State) : State :=
  (s.modSign fun g => { g with
    latchChi := BitVec.ofNat 32 (g.flipChron.toNat / 2 ^ 32), latchPlo := BitVec.ofNat 32 g.flipPos.toNat
    latchPhi := BitVec.ofNat 32 (g.flipPos.toNat / 2 ^ 32) }).answer .ok

/-- FLIP_READ. -/
def execFlipRead (s : State) : Result := .next (flipRead s)

/-- The bits of a captured word come into force. -/
def State.captureForce (s : State) (l : List (Nat × Word)) : State :=
  l.foldl (fun s x => s.setForce x.1 x.2 (BitVec.allOnes 32)) s

/-- Layer `n`'s buffer has been replaced: the last frame that scanned it (R306). -/
def State.bufferReplaced (s : State) (n : Fin 3) : State :=
  s.modSign fun g => { g with done := g.done.set n ((g.frame + 2 ^ 32 - 1) % 2 ^ 32) }

/-- The pending groups come into force with the flip (R304, R306). DEDUCED (log entry 59). -/
def State.applyFlip (s : State) : State :=
  if s.sign.pending.isEmpty then s
  else
    let s1 := s.captureForce s.sign.pendWords
    let s2 := s1.modSign fun g => { g with
      paletteForce := if g.pending.contains 3 then g.pendPalette else g.paletteForce
      pending := [], pendWords := [], pendPalette := []
      flipFrame := g.frame, flipChron := BitVec.ofNat 64 s.now, flipPos := s.positionNow }
    let map := s.sign.pending.contains 0 &&
      (s.val F.SGN_L0_SRC_MAP != s2.val F.SGN_L0_SRC_MAP || s.val F.SGN_L0_SRC_SNAP != s2.val F.SGN_L0_SRC_SNAP)
    let overlay := s.sign.pending.contains 2 && s.val F.SGN_L2_ADDR_ADDR != s2.val F.SGN_L2_ADDR_ADDR
    let s3 := if map then s2.bufferReplaced 0 else s2
    if overlay then s3.bufferReplaced 2 else s3

/-- The L1 plot at a latch (R300): a fill that has completed is shown, one that has not is abandoned, one that completes
in this tick waits for the next. DEDUCED (log entry 59). -/
def State.latchFill (s : State) : State :=
  match s.sign.fill with
  | none => s
  | some f => match f.done with
    | none =>
      let s1 := (s.modSign fun g => { g with fill := none }).toll 229
      { s1 with ev := { s1.ev with fillLost := some f } }
    | some (at_, p) =>
      if at_ < s.now then
        let s1 := s.modSign fun g => { g with fill := none, plot := some p }
        if s.sign.plot.isSome then s1.bufferReplaced 1 else s1
      else s

/-- A fill begins if the stall plotted has closed a segment since the one now plotted (R300); a stall without a ring gives
none (R432). -/
def State.beginFill (s : State) : State :=
  let n : Fin 16 := Fin.ofNat 16 (s.val F.SGN_L1_SRC_STALL)
  let t := s.stalls[n]
  let shown := match s.sign.plot with
    | some p => p.stall == n && p.number == t.lastSeg
    | none => false
  if t.setup.ring && t.lastSeg != 2 ^ 40 - 1 && !shown && s.sign.fill.isNone then
    s.modSign fun g => { g with fill := some { stall := n, number := t.lastSeg } }
  else s

/-- A commit registered in the tick of a latch, after it, takes effect at that latch (R304), before the latch's fill begins. -/
def State.flipAtLatch (s : State) : State :=
  if s.ev.latched then
    let s1 := s.modSign fun g => { g with fill := g.fill.filter fun f => f.done.isSome }
    s1.applyFlip.beginFill
  else s

/-- SGN_COMMIT (R304, R305): the groups named are pending, with their shadows of this moment (DEDUCED, log entry 16).
Registered in the tick of the latch, after it, it takes effect at that latch. -/
def sgnCommit (w : Word) (s : State) : State :=
  let gs : List (Fin 5) := (List.finRange 5).filter fun g => (F.SGN_COMMIT_GROUPS.get w).testBit g
  if gs.isEmpty then s.answer .ok
  else if s.commitBad gs then s.refuseWrite .badParam
  else
    let again := gs.any s.sign.pending.contains
    let words := (gs.flatMap groupWords).map fun n => (n, s.lastWritten n)
    (((s.modSign fun g => { g with
      pending := g.pending ++ gs.filter fun x => !g.pending.contains x
      pendWords := (g.pendWords.filter fun x => !words.any fun y => y.1 == x.1) ++ words
      pendPalette := if gs.contains 3 then g.palette else g.pendPalette }).tollIf again 227).flipAtLatch).answer .ok

/-- SGN_COMMIT. -/
def execSgnCommit (w : Word) (s : State) : Result := .next (sgnCommit w s)

/-- A read-back or overlay mismatch: its bit of SGN_RB, its frame, its toll (R307, R308). -/
def State.mismatch (s : State) (bit toll : Nat) : State :=
  ((s.setSticky R.SGN_RB.base (BitVec.ofNat 32 (2 ^ bit))).modSign fun g => { g with rbFrame := g.frame }).toll toll

/-! ## The scan -/

/-- A panel line in mites (R293, R295): its clock cycles at the Mint P frequency, which MNT_P_FREQ gives in 1/16 Hz. -/
def State.lineMites (s : State) : Rat :=
  let cycles := s.val F.SGN_HACT_HACT + s.val F.SGN_HBLK_HFP + s.val F.SGN_HBLK_HSW + s.val F.SGN_HBLK_HBP
  (cycles * 640000000000 : Rat) / max 1 (s.val F.MNT_P_FREQ_FREQ)

/-- Lines of vertical blanking (R295). -/
def State.blankLines (s : State) : Nat := s.val F.SGN_VBLK_VFP + s.val F.SGN_VBLK_VSW + s.val F.SGN_VBLK_VBP

/-- The row of map cells that panel line `y` of L0 shows (R299). -/
def State.mapRow (s : State) (k : Fin 8) (y : Nat) : Nat :=
  s.mapRows k - 1 - (y - s.val F.SGN_L_POS_Y0 0) * s.mapRows k / s.val F.SGN_L_SIZE_H 0

/-- L0's map, and the Hall address of what it reads: the live map or its snapshot (R299). -/
def State.mapShown (s : State) : Fin 8 := Fin.ofNat 8 (s.val F.SGN_L0_SRC_MAP)
def State.mapShownBase (s : State) : Nat := if s.flag F.SGN_L0_SRC_SNAP then s.snapBase s.mapShown else s.mapBase s.mapShown

/-- Panel line `y` lies in the rectangle of layer `n`, which is enabled (R298). -/
def State.inRows (s : State) (n y : Nat) : Bool :=
  let y0 := s.val F.SGN_L_POS_Y0 n
  (s.val F.SGN_LAYERS_EN).testBit n && decide (y0 ≤ y) && decide (y < y0 + s.val F.SGN_L_SIZE_H n)

/-- Where the overlay's bytes of panel line `y` begin (R302). -/
def State.overlayRow (s : State) (y : Nat) : Nat :=
  s.val F.SGN_L2_ADDR_ADDR + (y - s.val F.SGN_L_POS_Y0 2) * overlayPitch (s.val F.SGN_L_SIZE_W 2)

/-- The words of Hall that L0 reads for panel line `y`: one for each map column that some pixel shows (R299). -/
def State.mapWordsOf (s : State) (y : Nat) : List Nat :=
  if !s.inRows 0 y then []
  else
    let k := s.mapShown
    let cols := s.mapCols k
    let w := s.val F.SGN_L_SIZE_W 0
    let shown := (List.range cols).filter fun c =>
      let x := (c * w + cols - 1) / cols
      decide (x < w) && x * cols / w == c
    shown.map fun c => wordAddr (s.mapShownBase + 4 * (c * s.mapRows k + s.mapRow k y))

/-- The words of Hall that L2 reads for panel line `y` (R302). -/
def State.overlayWordsOf (s : State) (y : Nat) : List Nat :=
  if !s.inRows 2 y then [] else (unitsOf 16 (s.overlayRow y) (s.val F.SGN_L_SIZE_W 2)).map (16 * ·)

/-- The half of the plot region that holds a plot, which the region's middle divides (R300). DESIGN CHOICE (log entry 89). -/
def State.plotBase (s : State) (p : Plot) : Nat :=
  let r := s.region (s.val F.SGN_REGIONS_PLOT)
  r.base + if p.upper then r.size / 2 else 0

/-- The words of Hall that L1 reads for panel line `y`: the columns of the plot in force (R300, R303). -/
def State.plotWordsOf (s : State) (y : Nat) : List Nat :=
  if !s.inRows 1 y then []
  else match s.sign.plot with
    | some p => (unitsOf 16 (s.plotBase p) (4 * p.width)).map (16 * ·)
    | none => []

/-- A pixel fetch of words through port 17 (R299, R303): the errors it meets are counted as any access's; the words that answer with
an error. -/
def State.fetchWords (s : State) (ws : List Nat) : List Nat × State :=
  ws.foldl (fun (p : List Nat × State) a =>
    if !p.2.accessOk 17 a then (p.1 ++ [a], p.2.accessRefused 17 a)
    else
      let t := p.2.eccWord 17 a true true .clean .clean
      (if t.halfBad a true true then p.1 ++ [a] else p.1, t)) ([], s)

/-- Of the words of a line, those whose fetch meets an error or none of whose regions port 17 may read; a region is of whole pages of
4,096 bytes (R252, R253). -/
def State.errorWords (s : State) (ws : List Nat) : List Nat :=
  let closed := ((ws.map (· / 4096)).eraseDups).filter fun p => !s.accessOk 17 (4096 * p)
  ws.filter fun a => closed.contains (a / 4096) || s.halfBad a true true ||
    s.hall.latent.any fun l => l.1 == a / 8 || l.1 == a / 8 + 1

/-- The bytes at consecutive addresses from `a` on, of cells that begin there. -/
def cellBytes : List Host.Cell → Nat → Nat → List Byte
  | _, _, 0 => []
  | [], a, n + 1 => ramFill a :: cellBytes [] (a + 1) n
  | (j, v) :: m, a, n + 1 => if j = a then v :: cellBytes m (a + 1) n else ramFill a :: cellBytes ((j, v) :: m) (a + 1) n

/-- When the next line is fetched (R297): at a free instant of the line before it. DESIGN CHOICE (log entry 80). -/
def State.planFetch (s : State) : State :=
  if s.panelHeight ≤ s.sign.nextLine then s
  else
    let (x, t) := s.draw
    let len := s.lineMites
    t.modSign fun g => { g with fetchAt := g.fetchBase + ((g.nextLine : Rat) * len).floor.toNat + x % (max 1 len.floor.toNat) }

/-- The next line is fetched (R297, R303, R307): the words it reads, their errors, and the overlay's bytes into its CRC. -/
def State.fetchLine (s : State) : State :=
  let y := s.sign.nextLine
  let maps := s.mapWordsOf y
  let overlay := s.overlayWordsOf y
  let plot := s.plotWordsOf y
  let (bad0, s0) := s.fetchWords (s.errorWords maps)
  let (bad1, s1) := s0.fetchWords (s0.errorWords plot)
  let (bad2, s2) := s1.fetchWords (s1.errorWords overlay)
  let cells := s2.hall.mem.filter fun c => (maps ++ plot ++ overlay).contains (wordAddr c.1)
  let a := s.overlayRow y
  let n := if s.inRows 2 y then s.val F.SGN_L_SIZE_W 2 else 0
  let bytes := cellBytes (cells.filter fun c => decide (a ≤ c.1) && decide (c.1 < a + n)) a n
  (s2.modSign fun g => { g with
    nextLine := y + 1, lines := { line := y, cells := cells, bad := bad0 ++ bad1 ++ bad2 } :: g.lines.take 1
    crc := bytes.foldl crc32Byte g.crc, crcFree := g.crcFree || !bad2.isEmpty
    fetchErr := g.fetchErr || !(bad0 ++ bad1 ++ bad2).isEmpty }).planFetch

/-- The Signboard's part in opening a tick: a line whose fetch is due. -/
def State.scanTick (s : State) : State :=
  if s.running fnSignboard && decide (s.sign.nextLine < s.panelHeight) && s.reached s.sign.fetchAt then s.fetchLine else s

/-- The lines of the frame that its end finds still to be fetched. Where no layer reads Hall there is nothing in them. -/
def State.fetchRest (s : State) : State :=
  let left := s.panelHeight - s.sign.nextLine
  if s.val F.SGN_LAYERS_EN != 0 then
    (List.range left).foldl (fun s _ => s.fetchLine) s
  else s.modSign fun g => { g with nextLine := s.panelHeight }

/-- A frame begins: the fetch of its line 0 begins `lines` lines from now (R297). -/
def State.beginFrame (s : State) (lines : Nat) : State :=
  (s.modSign fun g => { g with
    fetchBase := s.now + (lines * s.lineMites).floor.toNat, nextLine := 0, lines := []
    crc := 0xFFFFFFFF, crcFree := false, fetchErr := false }).planFetch

/-- The CRC-32 over the overlay bytes of the frame (R307); where a fetch answered with an error it has no stated value. DESIGN CHOICE
(log entry 80). -/
def State.overlayCrc (s : State) : Word × State :=
  if s.sign.crcFree then let (x, t) := s.draw; (BitVec.ofNat 32 x, t)
  else (BitVec.ofNat 32 (s.sign.crc ^^^ 0xFFFFFFFF), s)

/-! ## Read-back -/

/-- A bit slot of a data pair (R294): colour component and bit, a control signal, or low. -/
inductive LvdsBit
  | colour (comp : Fin 3) (bit : Nat)
  | hs | vs | de | low
deriving DecidableEq, Repr

/-- The bit mappings A and B (R294). -/
def lvdsBit (b : Bool) (pair slot : Nat) : LvdsBit :=
  let n := 7 * pair + slot
  -- the six bits of each component that pairs D0 to D2 carry, in order, and the two that D3 carries
  let low : Nat := if b then 2 else 0
  let high : Nat := if b then 0 else 6
  if n < 18 then .colour (Fin.ofNat 3 (n / 6)) (low + n % 6)
  else match n with
    | 18 => .hs | 19 => .vs | 20 => .de | 27 => .low
    | _ => .colour (Fin.ofNat 3 ((n - 21) / 2)) (high + (n - 21) % 2)

/-- What pad levels that differ do to what the receivers of a link deserialise: for the colour bytes of active pixels, the byte by its
place in the scan order of R308 and the bit. -/
def State.colourFlips (s : State) (link : Nat) (l : List PadFlip) : List (Nat × Nat) :=
  let ha := s.val F.SGN_HACT_HACT
  l.filterMap fun f =>
    match lvdsBit (s.flag F.SGN_CTRL_MAP) f.pair f.slot with
    | .colour c b =>
      if f.cycle.val < ha && f.line.val < s.panelHeight then some (((f.line.val * ha + f.cycle.val) * 2 + link) * 3 + c.val, b) else none
    | _ => none

/-- A control signal differs in some cycle. -/
def State.controlFlips (s : State) (l : List PadFlip) : Bool :=
  l.any fun f => match lvdsBit (s.flag F.SGN_CTRL_MAP) f.pair f.slot with | .hs | .vs | .de => true | _ => false

/-- What the CRC-32 over a frame's colour bytes changes by where the listed bits of them have changed, but for the shift through the
unchanged bytes after the last, which takes no difference to zero: a CRC of equally many bytes is affine in them. -/
def crcChange (l : List (Nat × Nat)) : Nat :=
  let first := (l.map (·.1)).foldl min (l.headD (0, 0)).1
  let last := (l.map (·.1)).foldl max 0
  let byte (i : Nat) : Byte := BitVec.ofNat 8 ((List.range 8).filter (fun b => l.contains (i, b)) |>.map (2 ^ ·)).sum
  if l.isEmpty then 0 else ((List.range (last + 1 - first)).map fun k => byte (first + k)).foldl crc32Byte 0

/-- The checks of R308 on an output, whose pads differ on link 0 and link 1 as listed. -/
def State.readBackDiffers (s : State) (even odd : List PadFlip) : Bool :=
  s.controlFlips even || s.controlFlips odd || crcChange (s.colourFlips 0 even ++ s.colourFlips 1 odd) != 0

/-! ## The latch -/

/-- SIGNBOARD_LATCH (R296, R297, R300, R303 to R308): the latch ends a frame. The operands are the pad levels of the frame that
differ from what was composed, on links 0 and 1 of SB0 and of SB1. -/
def signboardLatch (even0 odd0 even1 odd1 : List PadFlip) (s : State) : State :=
  if !s.running fnSignboard then s
  else
    let s0 := s.fetchRest
    let (crc, s1) := (s0.tollIf s0.sign.fetchErr 228).overlayCrc
    let s2 := if s1.readBackDiffers even0 odd0 then s1.mismatch 0 224 else s1
    let s3 := if s2.readBackDiffers even1 odd1 then s2.mismatch 1 225 else s2
    let s4 := if s.flag F.SGN_LAYERS_ECRC_EN && crc != s.word R.SGN_L2_ECRC.base then s3.mismatch 2 226 else s3
    let s5 := s4.modSign fun g => { g with frame := (g.frame + 1) % 2 ^ 32 }
    let s6 := (s5.latchFill.applyFlip.beginFill).beginFrame (s5.blankLines - 1)
    { s6 with ev := { s6.ev with latched := true } }

/-- SIGNBOARD_LATCH. -/
def execSignboardLatch (even0 odd0 even1 odd1 : List PadFlip) (s : State) : Result :=
  .next (signboardLatch even0 odd0 even1 odd1 s)

/-- Unit `i` of a record's data area: its lowest and its highest value (R301). -/
def recordUnit (mem : List Host.Cell) (addr fmt i : Nat) : Int × Int :=
  match fmt with
  | 0 =>
    let v := 16 * signed 12 (memNat mem (addr + i / 2 * 3) 3 / 2 ^ (12 * (i % 2)) % 2 ^ 12)
    (v, v)
  | 1 => let v := signed 16 (memNat mem (addr + 2 * i) 2); (v, v)
  | _ => (signed 16 (memNat mem (addr + 4 * i) 2), signed 16 (memNat mem (addr + 4 * i + 2) 2))

/-- The row of a value in the plot (R301). -/
def State.plotRow (s : State) (v : Int) : Nat :=
  let vsh := signed 5 (s.val F.SGN_L1_SRC_VSH)
  let x : Rat := (if 0 ≤ vsh then (v * 2 ^ vsh.toNat : Rat) else (v : Rat) / 2 ^ (-vsh).toNat) + signed 16 (s.val F.SGN_L1_SRC_VOFS)
  let u : Rat := max (-32768) (min 32767 x)
  ((32767 - u) * s.val F.SGN_L_SIZE_H 1 / 65536).floor.toNat

/-- The columns of a plot (R301), each joined to the one before (R237). -/
def plotColumns : Option (Nat × Nat) → List (Option (Nat × Nat)) → List (Option (Nat × Nat))
  | _, [] => []
  | prev, none :: cs => none :: plotColumns prev cs
  | prev, some (lo, hi) :: cs => some (joinSpan prev lo hi) :: plotColumns (some (joinSpan prev lo hi)) cs

/-- The columns of the plot of a segment of stall `n` as record memory is read (R301). DEDUCED (log entry 59). -/
def State.plotOf (s : State) (mem : List Host.Cell) (n : Fin 16) (q : Nat) : List (Option (Nat × Nat)) :=
  let u := (s.stalls[n]).setup
  let a := u.slotAddr q
  let fmt := natBits (memNat mem (a + 0x18) 2) 10 3
  let first := memNat mem (a + 0x2D) 5
  let count := memNat mem (a + 0x37) 5
  let w := s.val F.SGN_L_SIZE_W 1
  if count = 0 then List.replicate w none else plotColumns none ((List.range w).map fun x =>
    let i := x * count / w
    let j := max i ((x + 1) * count / w - 1)
    let vs := (List.range (j + 1 - i)).map fun k => recordUnit mem (a + 64) fmt ((first + i + k) % max 1 u.units)
    let lo := (vs.map fun v => v.1).foldl min ((vs.headD (0, 0)).1)
    let hi := (vs.map fun v => v.2).foldl max ((vs.headD (0, 0)).2)
    some (s.plotRow hi, s.plotRow lo))

/-- The bytes of a plot's columns in its half of the region: r_lo and r_hi as 16-bit numbers, r_lo above r_hi where the column marks no
row; the last word is filled up with such columns. DESIGN CHOICE (log entry 89). -/
def plotBytes (cols : List (Option (Nat × Nat))) : List Byte :=
  (cols ++ List.replicate ((4 - cols.length % 4) % 4) none).flatMap fun (c : Option (Nat × Nat)) =>
    let d := c.getD (0xFFFF, 0)
    leBytes 2 d.1 ++ leBytes 2 d.2

/-- A plot is written to the spare half of the plot region by the DRAM mover (R300): as many columns as the half holds. -/
def State.writePlot (s : State) (n : Fin 16) (q : Nat) (cols : List (Option (Nat × Nat))) : Plot × State :=
  let cols := cols.take ((s.region (s.val F.SGN_REGIONS_PLOT)).size / 8)
  let upper := match s.sign.plot with | some p => !p.upper | none => false
  let p : Plot := { stall := n, number := q, upper := upper, width := cols.length }
  (p, s.hallWrite (s.plotBase p) (plotBytes cols))

/-- A segment's slot as the DRAM mover reads it for a fill (R273, R288, R300): what its errors leave unread has no stated value.
DESIGN CHOICE (log entry 80). -/
def State.readFill (s : State) (n : Fin 16) (q : Nat) : List Host.Cell × State :=
  let u := (s.stalls[n]).setup
  let a := u.slotAddr q
  let size := 64 + areaBytes u.fmt u.units
  let (_, _, t) := s.readRecord a size
  ((unitsOf 8 a size).filter t.dram.bad.contains).foldl (fun (p : List Host.Cell × State) cw =>
    let (x, t) := p.2.draw
    (memWrite p.1 (8 * cw) (leBytes 8 x), t)) (t.dram.mem, t)

/-- A segment has been overwritten, under the advice of R200. -/
def State.overwritten (s : State) (n : Fin 16) (q : Nat) : Bool :=
  !(s.stalls[n]).holdsSlot q

/-- A fill completes in the present tick: its plot is in the spare half (R300). -/
def State.completeFill (s : State) (f : Fill) : State :=
  let (mem, t) := s.readFill f.stall f.number
  let (p, u) := t.writePlot f.stall f.number (t.plotOf mem f.stall f.number)
  u.modSign fun g => { g with fill := some { f with done := some (s.now, p) } }

/-- L1_FILL_DONE (R300): the fill completes, or is discarded where its segment has been overwritten. One that the latch of the same tick
has abandoned completes after all, in place of the one that the latch began. -/
def l1FillDone (s : State) : State :=
  match s.ev.fillLost, s.sign.fill with
  | some f, _ =>
    if s.overwritten f.stall f.number then s
    else ({ s with ev := { s.ev with fillLost := none } }.untoll 229).completeFill f
  | none, some f =>
    if f.done.isSome then s
    else if s.overwritten f.stall f.number then (s.modSign fun g => { g with fill := none }).toll 229
    else s.completeFill f
  | none, none => s

/-- L1_FILL_DONE. -/
def execL1FillDone (s : State) : Result := .next (l1FillDone s)

/-- START_FN SIGNBOARD is refused with BAD_PARAM (R64, R309): its values as last written. -/
def State.signBadParam (s : State) : Bool :=
  let freq := s.wval F.MNT_P_FREQ_FREQ
  let n : Fin 16 := Fin.ofNat 16 (s.wval F.SGN_L1_SRC_STALL)
  let r := s.region (s.wval F.SGN_REGIONS_PLOT)
  freq < 0x17D78400 || 0x6ACFC000 < freq || (List.range 3).any (fun i => !s.rectOk i) ||
  r.kind != 3 || r.owner != 1 || decide (r.size < 8 * s.wval F.SGN_L_SIZE_W 1) ||
  decide (2 < (if s.running (fnStall n) then (s.stalls[n]).setup.fmt else s.wval F.STL_FORMAT_FMT 0 n))

/-- START of SIGNBOARD (R296, R304): every shadow comes into force, and the fetch of line 0 begins. DEDUCED (log entry 59). -/
def State.startSign (s : State) : State :=
  ((s.bringIntoForce ((List.finRange 5).flatMap groupWords)).modSign fun g => { g with
    paletteForce := g.palette, pending := [], pendWords := [], pendPalette := [], frame := 0, plot := none, fill := none }).beginFrame 0

/-- STOP of SIGNBOARD: a pending commit is discarded. -/
def State.stopSign (s : State) : State :=
  s.modSign fun g => { g with pending := [], pendWords := [], pendPalette := [], fill := none, lines := [] }

/-- SGN_COMMIT as it reads. -/
def State.commitWord (s : State) : Word :=
  F.SGN_COMMIT_PEND.put (s.sign.pending.map fun g => 2 ^ g.val).sum |||
    F.SGN_COMMIT_FLIP_PENDING.put (!s.sign.pending.isEmpty).toNat

/-- A colour of the palettes in force, as R, G, B, and its alpha (R299, R302). -/
def State.paletteEntry (s : State) (i : Nat) : Vector Nat 3 × Nat :=
  let w := (Sparse.get (fun _ => (0 : Word)) s.sign.paletteForce i).toNat
  (#v[natBits w 16 8, natBits w 8 8, natBits w 0 8], natBits w 24 8)

/-- A pixel lies in layer `n`'s rectangle (R298). -/
def State.inRect (s : State) (n x y : Nat) : Bool :=
  let x0 := s.val F.SGN_L_POS_X0 n
  let y0 := s.val F.SGN_L_POS_Y0 n
  decide (x0 ≤ x) && decide (x < x0 + s.val F.SGN_L_SIZE_W n) && decide (y0 ≤ y) && decide (y < y0 + s.val F.SGN_L_SIZE_H n)

/-- The palette index of a count (R299). -/
def countIndex (log : Bool) (shift c : Nat) : Nat :=
  if log then
    if c = 0 then 0
    else
      let e := Nat.log2 c
      let m := if 3 ≤ e then c / 2 ^ (e - 3) % 8 else c % 2 ^ e * 2 ^ (3 - e)
      min 255 (8 * e + m + 1)
  else min 255 (c / 2 ^ shift)

/-- The colour of a pixel of a panel line as composed from what was fetched for it and what is in force (R298 to R303). -/
def State.linePixel (s : State) (l : SignLine) (x : Nat) : Vector Nat 3 :=
  let y := l.line
  let en := s.val F.SGN_LAYERS_EN
  let bg := s.val F.SGN_LAYERS_BG
  let c0 : Vector Nat 3 := #v[natBits bg 16 8, natBits bg 8 8, natBits bg 0 8]
  let k := s.mapShown
  let cell := s.mapShownBase + 4 * ((x - s.val F.SGN_L_POS_X0 0) * s.mapCols k / s.val F.SGN_L_SIZE_W 0 * s.mapRows k + s.mapRow k y)
  let c1 := if en.testBit 0 && s.inRect 0 x y && !l.bad.contains (wordAddr cell) then
      (s.paletteEntry (countIndex (s.flag F.SGN_L0_SRC_LOG) (s.val F.SGN_L0_SRC_SHIFT) (memNat l.cells cell 4))).1
    else c0
  let rgb := s.val F.SGN_L1_COLOUR_RGB
  let marked := match s.sign.plot with
    | some p =>
      let i := x - s.val F.SGN_L_POS_X0 1
      let column := s.plotBase p + 4 * i
      let r := y - s.val F.SGN_L_POS_Y0 1
      decide (i < p.width) && !l.bad.contains (wordAddr column) && decide (memNat l.cells column 2 ≤ r) &&
        decide (r ≤ memNat l.cells (column + 2) 2)
    | none => false
  let c2 : Vector Nat 3 := if en.testBit 1 && s.inRect 1 x y && marked then
      #v[natBits rgb 16 8, natBits rgb 8 8, natBits rgb 0 8] else c1
  let index := s.overlayRow y + (x - s.val F.SGN_L_POS_X0 2)
  if en.testBit 2 && s.inRect 2 x y && !l.bad.contains (wordAddr index) then
    let (o, alpha) := s.paletteEntry (256 + (memByte l.cells index).toNat)
    Vector.zipWith (fun o u => (alpha * o + (255 - alpha) * u + 127) / 255) o c2
  else c2

/-- The colour of a panel pixel while its line is held (R297): none before the line is fetched and after the next but one is. -/
def State.pixel (s : State) (x y : Nat) : Option (Vector Nat 3) :=
  if s.running fnSignboard then (s.sign.lines.find? fun l => l.line == y).map fun l => s.linePixel l x else none

/-- HS, VS and DE in a clock cycle of a line of the frame (R295). -/
def State.control (s : State) (cycle line : Nat) : Bool × Bool × Bool :=
  let ha := s.val F.SGN_HACT_HACT
  let hs := ha + s.val F.SGN_HBLK_HFP
  let va := s.val F.SGN_VACT_VACT
  let vs := va + s.val F.SGN_VBLK_VFP
  let inH := decide (hs ≤ cycle) && decide (cycle < hs + s.val F.SGN_HBLK_HSW)
  let inV := decide (vs ≤ line) && decide (line < vs + s.val F.SGN_VBLK_VSW)
  (inH == s.flag F.SGN_CTRL_HSPOL, inV == s.flag F.SGN_CTRL_VSPOL, decide (cycle < ha) && decide (line < va))

/-- The clock pair of a link in a bit slot (R293); it is low while SIGNBOARD is STOPPED. -/
def State.clockPair (s : State) (slot : Nat) : Bool := s.running fnSignboard && decide (slot < 4)

/-- The level of a data pair of link `link` of output `out` in a bit slot of a clock cycle of a line (R293 to R295): the even pixel of
a pair on link 0, the odd one on link 1, the left half of the panel on SB0. Every pair is low while SIGNBOARD is STOPPED. The spec
states no colour for a cycle in which DE is low, and the model none. -/
def State.dataPair (s : State) (out link : Fin 2) (pair slot cycle line : Nat) : Option Bool :=
  if !s.running fnSignboard then some false
  else
    let (hs, vs, de) := s.control cycle line
    match lvdsBit (s.flag F.SGN_CTRL_MAP) pair slot with
    | .hs => some hs
    | .vs => some vs
    | .de => some de
    | .low => some false
    | .colour comp bit =>
      if de then (s.pixel (out.val * 2 * s.val F.SGN_HACT_HACT + 2 * cycle + link.val) line).map fun p => p[comp].testBit bit
      else none

end Sys2Proof.Machine
end

