-- ==== Sys2Proof/Machine/Tolls.lean ====
section
/-! DEFINITION. The toll counters and the error log at the end of a tick, and the log's reading (chapter 19). -/

namespace Sys2Proof.Machine

/-- A counter's ceiling (R396). -/
def tollMax : Nat := 2 ^ 32 - 1

/-- Counter `i` is masked (R400). -/
def State.tollMasked (s : State) (i : Nat) : Bool := (s.word (0x0010 + i / 32)).getLsbD (i % 32)

/-- A counter takes what the tick has counted, saturating; an unmasked one that changes sets TOLL_MOVED (R396, R400). -/
def State.mergeToll (s : State) (c : Nat × Nat) : State :=
  let old := s.tollValue c.1
  let new := min tollMax (old + c.2)
  let s1 := { s with tolls := Sparse.set (fun _ => 0) s.tolls c.1 new }
  if new != old && !s.tollMasked c.1 then
    { s1 with status := { s1.status with tollMoved := true }, ev := { s1.ev with items := 3 :: s1.ev.items } }
  else s1

/-- The counters at the end of a tick. -/
def State.mergeTolls (s : State) : State :=
  { s.tollDue.foldl (fun s c => s.mergeToll c) s with tollDue := [] }

/-- RESET_N was asserted in the present tick: no toll and no log entry of the tick survives (R396, R401; coincidences). -/
def State.dropDue (s : State) : State :=
  if s.ev.reset then { s with tollDue := [], log := { s.log with due := [] } } else s

/-- What the present tick has counted so far moves a counter that is not masked (R400). -/
def State.tollsMove (s : State) : Bool :=
  s.tollDue.any fun c => min tollMax (s.tollValue c.1 + c.2) != s.tollValue c.1 && !s.tollMasked c.1

/-- The order of entries due in one tick (R401). -/
def LogEntry.before (a b : LogEntry) : Bool := decide (a.kind < b.kind) || (a.kind == b.kind && decide (a.unit ≤ b.unit))

/-- An entry written to the ring of 256 (R401). -/
def ErrorLog.write (l : ErrorLog) (e : LogEntry) : ErrorLog :=
  { l with
    entries := Sparse.set (fun _ => ({} : LogEntry)) l.entries l.head e
    head := (l.head + 1) % 256, total := (l.total + 1) % 2 ^ 24 }

/-- The log at the end of a tick: the entries due, in ascending KIND and then UNIT (R401). -/
def State.flushLog (s : State) : State :=
  { s with log := { (s.log.due.insertionSort (fun a b => a.before b = true)).foldl ErrorLog.write s.log with due := [] } }

/-- The bytes of an entry (R402). -/
def LogEntry.bytes (e : LogEntry) : List Byte :=
  leBytes 8 e.chron ++ leBytes 1 e.kind ++ leBytes 1 e.unit ++ leBytes 2 e.toll ++ leBytes 4 e.detail.toNat

/-- Entry `i` of the log. -/
def State.logEntry (s : State) (i : Nat) : LogEntry := Sparse.get (fun _ => ({} : LogEntry)) s.log.entries i

/-- The word that LOG_SEL selects. -/
def State.logWord (s : State) : Word :=
  BitVec.ofNat 32 (ofLeBytes (((s.logEntry (s.val F.LOG_SEL_ENTRY)).bytes.drop (4 * s.val F.LOG_SEL_WORD)).take 4))

/-- LOG_DATA_READ (R401): WORD increments, carrying into ENTRY. -/
def logDataRead (s : State) : State :=
  (s.selNext R.LOG_SEL.base (s.val F.LOG_SEL_ENTRY) (s.val F.LOG_SEL_WORD) 8 fun e w =>
    F.LOG_SEL_ENTRY.put e ||| F.LOG_SEL_WORD.put w).answer .ok

/-- LOG_DATA_READ. -/
def execLogDataRead (s : State) : Result := .next (logDataRead s)

end Sys2Proof.Machine
end

