-- ==== Sys2Proof/Machine/Params.lean ====
section
/-! DEFINITION. Parameter words: how they read and how a write is judged (00_scope R8 to R11, R429; 17_image R363, R378,
R379). -/

namespace Sys2Proof.Machine

/-- Status bit TALLY_COAST (R46). -/
def State.tallyCoast (s : State) : Bool :=
  s.tally.mode == .coasting || s.tally.mode == .lost || s.tally.mode == .reacquiring

/-- The status word with a reply code (R342): TOLL_MOVED counts what the present tick has counted so far. DEDUCED (log entry
66). -/
def State.statusWord (s : State) (code : Code) : Nat :=
  let t := s.status
  code.num + (s.image.source != 0).toNat * 2 ^ 4 + s.power.thermal.toNat * 2 ^ 5 + s.pool.spareLow.toNat * 2 ^ 6 +
  s.conv.degraded.toNat * 2 ^ 7 + s.tallyCoast.toNat * 2 ^ 8 + s.clockHold.toNat * 2 ^ 9 + (t.tollMoved || s.evalDue.tollsMove).toNat * 2 ^ 10 +
  t.measLimit.toNat * 2 ^ 11 + t.segReady.toNat * 2 ^ 12 + t.attnNew.toNat * 2 ^ 13 + t.level * 2 ^ 14

/-- The windows of R382 in the monitors' steps of 50 µV, with the numbers of their monitors from code 0x1C on (R92): VCORE is held against the
command. -/
def State.railWindow (s : State) (k : Fin 6) : Fin 7 × Nat × Nat :=
  match k with
  | 0 => (0, 20 * (s.power.vcoreCmd - 25), 20 * (s.power.vcoreCmd + 25))
  | 1 => (4, 17100, 18900)
  | 2 => (1, 19000, 21000)
  | 3 => (3, 20900, 23100)
  | 4 => (2, 34200, 37800)
  | 5 => (5, 34200, 37800)

/-- A monitor's latest reading, where it has one, lies in a window. -/
def State.monitorIn (s : State) (w : Fin 7 × Nat × Nat) : Bool :=
  match s.power.readings[w.1] with
  | some (_, v) => decide (w.2.1 ≤ v) && decide (v ≤ w.2.2)
  | none => true

/-- The chronicle of the last reading of a rail's monitor. -/
def State.readAt (s : State) (k : Fin 6) : Option Nat := (s.power.readings[(s.railWindow k).1]).map (·.1)

/-- Every rail that should be on is in regulation: PWR_STAT.RAILS_OK (R382). A rail whose monitor has no reading yet counts as the
sequence found it. DEDUCED (log entry 44). -/
def State.railsOk (s : State) : Bool :=
  (s.power.railsUp || s.power.regime = .watch) && s.monitorIn (6, 34200, 37800) &&
  (List.finRange 6).all fun k => !s.power.pen[k] || s.monitorIn (s.railWindow k)

/-- IMG_STAT.PREF and IMG_ROLLBACK.COUNT read the directory and the fuses; the directory is chapter 17's. -/
def State.rollbackWord (s : State) : Word :=
  F.IMG_ROLLBACK_LEVEL.put s.image.level ||| F.IMG_ROLLBACK_COUNT.put (arbCount s.image.otp)

/-- The flash's bytes from address `a` on; what is not listed reads as erased. -/
def flashFill : Nat → Byte := fun _ => 0xFF
def State.flashBytes (s : State) (a n : Nat) : List Byte :=
  (List.range n).map fun i => Sparse.get flashFill s.image.flash (a + i)

/-- The directory record of sector `i`: its SEQ and PREF, if it is valid (R359). -/
def State.dirRecord (s : State) (i : Nat) : Option (Nat × Nat) :=
  let b := s.flashBytes (4096 * i) 32
  let pref := ofLeBytes ((b.drop 8).take 1)
  if b.take 4 = [0x54, 0x59, 0x56, 0x44] ∧ ofLeBytes (b.drop 28) = crc32 (b.take 28) ∧ pref ≤ 1 then
    some (ofLeBytes ((b.drop 4).take 4), pref)
  else none

/-- The newer valid record: its sector, its SEQ and its PREF (R359). -/
def State.newerRecord (s : State) : Option (Nat × Nat × Nat) :=
  match s.dirRecord 0, s.dirRecord 1 with
  | some a, some b =>
    if 0 < signed 32 (b.1 + 2 ^ 32 - a.1) then some (1, b) else some (0, a)
  | some a, none => some (0, a)
  | none, some b => some (1, b)
  | none, none => none

/-- The preferred slot (R359). -/
def State.preferredSlot (s : State) : Nat := match s.newerRecord with | some (_, _, p) => p | none => 0

/-- IMG_STAT. -/
def State.imgStatWord (s : State) : Word :=
  let x := s.image
  F.IMG_STAT_SOURCE.put x.source ||| F.IMG_STAT_SLOT.put x.slot ||| F.IMG_STAT_SIGCHK.put x.sigchk.toNat |||
  F.IMG_STAT_PREF.put s.preferredSlot ||| F.IMG_STAT_FAIL_A.put x.failA ||| F.IMG_STAT_FAIL_B.put x.failB

/-- A word of a latched 80-bit or 64-bit count. -/
def wordAt (v i : Nat) : Word := BitVec.ofNat 32 (v / 2 ^ (32 * i))

/-- What the RO and W1C fields of a stall's register read; the Bell's as the samples of earlier ticks leave them (log entry 23). -/
def State.stallBits (s : State) (base k : Nat) (n : Fin 16) : Word :=
  let t := s.stalls[n]
  let b := s.evalDue.bell n
  match base with
  | 0x1001 => BitVec.ofNat 32 t.mode.code
  | 0x1003 => s.stickyBits (R.STL_MEAS_FAIL.num 0 n)
  | 0x1004 => F.STL_MEAS_HEAD_HEAD.put t.head
  | 0x1005 => BitVec.ofNat 32 t.total
  | 0x1007 =>
    let a := s.val F.STL_MS_ADDR_ADDR 0 n
    Sparse.get msReset t.msWords a &&& msMask a
  | 0x1027 => F.STL_RING_STAT_SLOTS.put t.slotCount ||| F.STL_RING_STAT_FULL.put t.full.toNat
  | 0x1028 => wordAt t.lastSeg 0
  | 0x1029 => BitVec.ofNat 32 t.lastSegHi
  | 0x102A => BitVec.ofNat 32 t.slotLines
  | 0x103A =>
    let a := s.val F.STL_WIN_ADDR_ADDR 0 n
    Sparse.get (fun _ => 0) t.window a &&& windowMask t.window a
  | 0x103B => t.lanes
  | 0x103C => t.admitWord
  | 0x1061 => F.STL_BEL_CNT_TGT_VALUE.put (b.counts[Fin.ofNat 4 k])
  | 0x1070 => F.STL_BEL_STAT_PHASE.put b.phase.code ||| F.STL_BEL_STAT_STATE.put b.state ||| F.STL_BEL_STAT_LINKED.put b.linked.toNat
  | 0x1071 => F.STL_BEL_MISS_IGNORED.put b.ignored ||| F.STL_BEL_MISS_OVERLAP.put b.overlap
  | _ => 0

/-- DEV_REV: [31:24] reserved, SILICON from 1 (R404). -/
def devRevWord : Word :=
  let w := Config.devRev &&& 0x00FFFFFF
  if w &&& 0xFF = 0 then w ||| 1 else w

/-- What the RO and W1C fields, and the fields that an access reaches elsewhere, read (every chapter's parameter tables). -/
def State.roBits (s : State) (base k : Nat) : Word :=
  match base with
  | 0x0000 => 0x54594016
  | 0x0001 => devRevWord
  | 0x0002 => Config.serial.setWidth 32
  | 0x0003 => (Config.serial >>> 32).setWidth 32
  | 0x0004 => Config.factoryMac.setWidth 32
  | 0x0005 => (Config.factoryMac >>> 32).setWidth 32
  | 0x0100 => F.MNT_REF_REF_OK.put s.refs.refOk.toNat ||| F.MNT_REF_CP0_OK.put s.refs.cp0Ok.toNat
  | 0x0103 => s.mintStateWord
  | 0x0104 => wordAt s.holdLength 0
  | 0x0105 => wordAt s.holdLength 1
  | 0x0106 => wordAt s.now 0
  | 0x0107 => s.refs.chronHi
  | 0x0108 => s.refs.chronEra &&& 0xFFFF
  | 0x0220 => s.tallyStateWord
  | 0x0221 => s.snapPlo
  | 0x0222 => s.tally.snapPhi
  | 0x0223 => s.tally.snapClo
  | 0x0224 => s.tally.snapChi
  | 0x0225 => s.tally.snapSpd
  | 0x0226 => s.tally.lastJump
  | 0x0227 => s.tally.indexLast
  | 0x0242 =>
    let sl := s.slots[Fin.ofNat 64 k]
    F.TLY_LS_CTRL_ARM.put sl.armed.toNat ||| F.TLY_LS_CTRL_FIRED.put sl.fired.toNat |||
      F.TLY_LS_CTRL_LATE.put sl.late.toNat
  | 0x0302 => s.stickyBits 0x0302
  | 0x0303 => s.reliefWord
  | 0x0304 => s.retiredWord
  | 0x0407 => s.calStatusWord
  | 0x0408 => F.CAL_QUALITY_SPUR.put s.cal.spur.toNat ||| F.CAL_QUALITY_SKEW_RMS.put s.cal.skewRms
  | 0x0409 => wordAt s.cal.lastStep 0
  | 0x040A => wordAt s.cal.lastStep 1
  | 0x0419 => s.inlWord
  | 0x0421 => s.calAuxStatWord
  | 0x0422 => s.calAuxIntWord
  | 0x0442 => s.refereeWord
  | 0x0450 => s.coefWord (Fin.ofNat 17 k) 0
  | 0x0451 => s.coefWord (Fin.ofNat 17 k) 1
  | 0x0452 => s.coefWord (Fin.ofNat 17 k) 2
  | 0x0453 => s.coefWord (Fin.ofNat 17 k) 3
  | 0x04A0 => s.reliefSkewWord (Fin.ofNat 16 k)
  | 0x0560 => s.auxResWord (Fin.ofNat 35 k)
  | 0x05A0 => s.watchStatWord
  | 0x0602 => s.poolWord
  | 0x0603 => s.wghTestWord
  | 0x0604 => s.wghRetiredWord 0
  | 0x0605 => s.wghRetiredWord 1
  | 0x0606 => s.wghRetiredWord 2
  | 0x0610 => s.wghOwnWord (Fin.ofNat 68 k)
  | 0x2002 => F.SIV_LOAD_LOAD.put (s.sieveLoad * 65536).ceil.toNat
  | 0x2004 => Sparse.get coefReset s.sieve.coefs (s.val F.SIV_WIN_ADDR_ADDR)
  | 0x2012 => s.chanStatWord (Fin.ofNat 16 k)
  | 0x2109 => F.YRD_CTRL_CLEAR.put (s.yards[Fin.ofNat 8 k]).clearing.toNat
  | 0x210A => s.yardStatWord (Fin.ofNat 8 k)
  | 0x210B => s.yardLoadWord (Fin.ofNat 8 k)
  | 0x210C => (s.yards[Fin.ofNat 8 k]).snapChron.setWidth 32
  | 0x210D => (s.yards[Fin.ofNat 8 k]).latchChi
  | 0x210E => (s.yards[Fin.ofNat 8 k]).latchPlo
  | 0x210F => (s.yards[Fin.ofNat 8 k]).latchPhi
  | 0x2204 => s.scrubStatWord
  | 0x2205 => s.eccAddrWord
  | 0x2210 => s.idleBits (32 * k) 32
  | 0x2229 => s.idleBits 256 8
  | 0x2231 => s.queueStatWord
  | 0x2304 => F.DRM_REFRESH_RATE2.put s.dram.rate2.toNat ||| F.DRM_REFRESH_RFM.put s.dram.rfm.toNat
  | 0x2307 => s.dramScrubWord
  | 0x2308 => s.dramStatWord
  | 0x2309 => F.DRM_BUDGET_RESV.put s.reservation
  | 0x230A => F.DRM_CHARGE_CHARGE.put s.dram.charge
  | 0x230D => s.elogWord
  | 0x230E => F.DRM_ELOG_HEAD_HEAD.put s.dram.head ||| F.DRM_ELOG_HEAD_TOTAL.put s.dram.total
  | 0x230F => BitVec.ofNat 32 s.dram.mitigations
  | 0x2320 => F.DRM_TR_CTRL_DONE.put s.dram.sweepDone.toNat |||
    F.DRM_TR_CTRL_GO.put ((List.finRange 8).any fun c => (s.dram.subs[c]).sweep.isSome).toNat
  | 0x2324 => F.DRM_TR_DDATA_DLY.put (s.delayOf s.selectedDelay)
  | 0x2325 => s.dram.errors.setWidth 32
  | 0x2326 => (s.dram.errors >>> 32).setWidth 32
  | 0x2327 => s.trainingResWord
  | 0x2419 => Sparse.get (fun _ => 0) s.sign.palette (s.val F.SGN_PAL_ADDR_ADDR)
  | 0x2420 => s.commitWord
  | 0x2421 => BitVec.ofNat 32 s.sign.frame
  | 0x2422 => BitVec.ofNat 32 s.sign.flipFrame
  | 0x2423 => s.sign.flipChron.setWidth 32
  | 0x2424 => s.sign.latchChi
  | 0x2425 => s.sign.latchPlo
  | 0x2426 => s.sign.latchPhi
  | 0x2427 => BitVec.ofNat 32 (s.sign.done[Fin.ofNat 3 k])
  | 0x242A => s.stickyBits 0x242A
  | 0x242B => BitVec.ofNat 32 s.sign.rbFrame
  | 0x2504 => s.portWord (Fin.ofNat 4 k)
  | 0x2508 => wordOfInt (openRound s.crier.hop)
  | 0x2509 => s.accumWord
  | 0x250A => s.cryIdWord
  | 0x250B => F.CRY_DEPTH_DEPTH.put s.ownDepth
  | 0x250C => F.CRY_LEAD_NOW_LEAD.put s.crier.lead
  | 0x250D => wordAt (s.ofsWord / 2 ^ 8) 0
  | 0x250E => s.crier.ofsHi
  | 0x250F => s.crier.ofsEra
  | 0x2510 => s.crier.ofsFr
  | 0x2511 => s.rxlWord
  | 0x2604 => F.BTR_LINK_PLCA_OK.put s.barter.plcaOk.toNat ||| F.BTR_LINK_CSMA.put s.barter.csma.toNat
  | 0x2605 => F.BTR_STATUS_STATUS.put (s.statusWord .ok) ||| F.BTR_STATUS_ASEQ.put s.status.aseq
  | 0x2606 => F.BTR_QUEUE_DEPTH.put s.barter.queue.length
  | 0x2613 => F.WHF_STAT_LINK.put s.wharf.link.toNat ||| F.WHF_STAT_ACTIVE.put s.wharf.current.isSome.toNat |||
      F.WHF_STAT_QUEUED.put s.wharf.queued.isSome.toNat
  | 0x2614 => BitVec.ofNat 32 s.wharf.cid
  | 0x2615 => BitVec.ofNat 32 s.wharf.sent
  | 0x2700 => F.PWR_REGIME_NOW.put s.power.regime.code ||| F.PWR_REGIME_FORCED.put s.power.forced.toNat
  | 0x2703 => s.stickyBits 0x2703
  | 0x2705 => F.PWR_TEMP_TJ.put (s.power.tj % (2 ^ 16 : Nat)).toNat ||| F.PWR_TEMP_SENSOR.put s.power.sensor
  | 0x2706 => s.stickyBits 0x2706 ||| F.PWR_STAT_RAILS_OK.put s.railsOk.toNat |||
      F.PWR_STAT_THERMAL.put s.power.thermal.toNat ||| F.PWR_STAT_FAIL_CH.put s.power.failCh
  | 0x2707 => F.PWR_VCORE_CMD.put s.power.vcoreCmd ||| F.PWR_VCORE_READ.put s.power.vcoreRead
  | 0x2711 =>
    let c := s.power.channels[Fin.ofNat 6 k]
    F.PWR_RG_STAT_STATUS.put c.1.toNat ||| F.PWR_RG_STAT_IOUT.put c.2.toNat
  | 0x2800 => BitVec.ofNat 32 (s.tollShown k)
  | 0x2900 => F.LOG_HEAD_HEAD.put s.log.head ||| F.LOG_HEAD_TOTAL.put s.log.total
  | 0x2902 => s.logWord
  | 0x2A00 => s.imgStatWord
  | 0x2A01 => s.image.build
  | 0x2A02 => s.rollbackWord
  | 0x2A03 => F.IMG_START_MS.put s.image.startMs
  | 0x2A04 => F.IMG_FLASH_DENS.put (Nat.log2 s.image.dens) ||| F.IMG_FLASH_QUAD.put s.image.quad.toNat |||
      F.IMG_FLASH_ADDR4.put s.image.addr4.toNat
  | 0x2A09 => s.otpDataWord
  | 0x2A0A => F.IMG_OTP_CTRL_BUSY.put s.otpBusy.toNat
  | _ => 0

/-- What parameter `n` reads as, without the effect of the read; none for an unused number (R346). -/
def State.readValue (s : State) (n : Nat) : Option Word :=
  (locate n).map fun (r, k, st) =>
    let held := if r.base = R.IMG_OTP_DATA.base then 0 else r.mask fun a => a == .lv || a == .sl || a == .im
    (s.lastWritten n &&& held) ||| (if r.perStall then s.stallBits r.base k (Fin.ofNat 16 st) else s.roBits r.base k)

/-- The effect of a read: the latches of R58, R71, R199, R242, R304 and R321, and the addresses that advance. -/
def State.readEffect (s : State) (base k : Nat) (st : Fin 16) : State :=
  match base with
  | 0x0106 => chronLatch s
  | 0x0221 => snapRead s
  | 0x1007 => measWindow st none s
  | 0x1028 => lastsegRead st s
  | 0x103A => stallWindow st none s
  | 0x2004 => sieveWindow none s
  | 0x210C => yardSnapRead (Fin.ofNat 8 k) s
  | 0x230D => elogDataRead s
  | 0x2419 => paletteWindow none s
  | 0x2423 => flipRead s
  | 0x250D => cryOfsRead s
  | 0x2902 => logDataRead s
  | _ => s

/-- A read of parameter `n`: its value and the state after it; an unused number is BAD_PARAM (R346). -/
def State.readParam (s : State) (n : Nat) : Option Word × State :=
  match locate n with
  | some (r, k, st) => (s.readValue n, (s.readEffect r.base k (Fin.ofNat 16 st)).answer .ok)
  | none => (none, s.answer .badParam)

/-- A value lies within a field's range (R429). -/
def Range.admits (r : Range) (v : Nat) : Bool :=
  match r with
  | .any => true
  | .inside iv => iv.any fun i => decide (i.1 ≤ v) && decide (v ≤ i.2)
  | .multiple lo hi m => decide (lo ≤ v) && decide (v ≤ hi) && v % m == 0
  | .tallyTime => decide (v / 2 ^ 30 ≤ 1) && decide (v / 2 ^ 24 % 64 ≤ 40)
  | .span zero units => spanOk v units && (zero || spanValue v != 0)
  | .packed n w iv => (List.range n).all fun i => iv.any fun x =>
      decide (x.1 ≤ v / 2 ^ (w * i) % 2 ^ w) && decide (v / 2 ^ (w * i) % 2 ^ w ≤ x.2)

/-- Some field of the given classes is given a value outside its range (R429). -/
def RegDef.outOfRange (r : RegDef) (w : Word) (p : Acc → Bool) : Bool :=
  r.fields.any fun f => p f.acc && !f.range.admits (bitsOf w f.lo f.width)

/-- The function whose running locks the SL fields of parameter `n` (R378). -/
def lockOf (n : Nat) : Nat :=
  if n = R.MNT_P_FREQ.base then fnSignboard
  else if n / 0x1000 = 1 then 0x10 + (n / 0x100) % 16
  else match n / 0x100 with
    | 0x02 => fnTally
    | 0x05 => fnAux
    | 0x20 => if n = R.SIV_CTRL.base then fnSieve else 0x10 + (n - R.SIV_CH_CFG.base) / 4 % 16
    | 0x21 => 0x30 + n / 16 % 8
    | 0x24 => fnSignboard
    | 0x25 => fnCrier
    | _ => fnWharf

/-- The parameters with SL fields that START of function `fn` brings into force (R378, R379). -/
def lockedWords (fn : Nat) : List Nat :=
  let here (r : RegDef) : Bool := r.fields.any fun f => f.acc == .sl
  let numbers := allRegs.flatMap fun r =>
    if here r then (List.range r.count).flatMap fun k =>
      if r.perStall then (if fn / 16 = 1 then [r.num k (fn % 16)] else []) else [r.num k]
    else []
  numbers.filter fun n => lockOf n == fn

/-- Bits of parameter `n` of the given classes. -/
def classMask (n : Nat) (p : Acc → Bool) : Word := match locate n with | some (r, _, _) => r.mask p | none => 0

/-- The SL values of function `fn` come into force together (R379). -/
def State.forceLocked (s : State) (fn : Nat) : State :=
  (lockedWords fn).foldl (fun s n => s.setForce n (s.lastWritten n) (classMask n (· == .sl))) s

/-- A live write to HOLDOFF or AUTO in grains or turns finds TALLY stopped (07_bell, after R172). -/
def State.spanNeedsTally (s : State) (base n : Nat) (w : Word) : Bool :=
  (base == R.STL_BEL_HOLDOFF.base || base == R.STL_BEL_AUTO.base) && s.running (lockOf n) &&
  (spanUnit w.toNat == 2 || spanUnit w.toNat == 3) && !s.running fnTally

/-- When the LV fields of a register come into force. -/
inductive Boundary | now | nextTick | later
deriving DecidableEq, Repr

/-- The natural boundary of a register's LV fields, where it is not the write itself: the next tick (R39, R100, R400), or a moment
that the owning chapter reads the written value at (05_calibration, CAL_DWELL and the limits; R140, R173, R241, R251, R304). -/
def boundaryOf (base : Nat) : Boundary :=
  if base / 0x100 = 2 then .nextTick
  else if 0x0010 ≤ base ∧ base ≤ 0x0017 then .nextTick
  else if 0x0590 ≤ base ∧ base ≤ 0x0591 then .nextTick
  else if [0x0402, 0x0410, 0x0411, 0x0412, 0x0413, 0x0414].contains base then .later
  else if [0x0600, 0x2203, 0x2108].contains base then .later
  else if [0x1042, 0x1043, 0x1044, 0x1048, 0x1049, 0x106C, 0x106D].contains base then .later
  else if 0x2408 ≤ base ∧ base ≤ 0x2413 then .later
  else .now

/-- The LV fields `m` of parameter `n` are written. -/
def State.writeLive (s : State) (base n : Nat) (w m : Word) : State :=
  let s1 := s.setWritten n w m
  match boundaryOf base with
  | .now => s1.setForce n w m
  | .nextTick => s1.atNextTick n
  | .later => s1

/-- What a write brings with it beside its fields: a mode of calibration applies (R115). -/
def State.writeEffect (s : State) (base : Nat) : State := if base = R.CAL_MODE.base then s.applyCalMode else s

/-- A write of a word judged field by field (R9, R10, R11, R429). -/
def State.writeFields (s : State) (r : RegDef) (n : Nat) (w : Word) : State :=
  let lv := r.mask (· == .lv)
  let sl := r.mask (· == .sl)
  let w1c := r.mask (· == .w1c)
  if lv ||| sl ||| w1c = 0 then s.refuseWrite .badParam
  else if r.outOfRange w (fun a => a == .lv || a == .sl) then s.refuseWrite .range
  else if s.spanNeedsTally r.base n w then s.refuseWrite .range
  else if r.base = R.CAL_FREEZE.base && s.calHidden then s.refuseWrite .badParam
  else
    let s0 := if r.base = R.SIV_FADE_LEN.base || r.base = R.SIV_SETTLE.base then s.sieveDrain else s
    let differs := (w ^^^ s0.lastWritten n) &&& sl != 0
    let locked := s0.running (lockOf n) && differs
    let s1 := if locked then s0 else s0.setWritten n w sl
    let s2 := if lv = 0 then s1 else (s1.writeLive r.base n w lv).writeEffect r.base
    let s3 := if w1c = 0 then s2 else s2.clearSticky n (w &&& w1c)
    if locked then s3.refuseWrite .stopLocked else s3.answer .ok

/-- One parameter write from Barter (R9, R346): the registers whose write is an action of its own chapter, and the rest field
by field. -/
def State.writeParam (s : State) (n : Nat) (w : Word) : State :=
  match locate n with
  | none => s.refuseWrite .badParam
  | some (r, k, st) =>
    let n16 : Fin 16 := Fin.ofNat 16 st
    match r.base with
    | 0x0100 => refSelect w s
    | 0x0242 => if F.TLY_LS_CTRL_ARM.get w = 1 then launchArmWrite (Fin.ofNat 64 k) w s
        else launchDisarmWrite (Fin.ofNat 64 k) w s
    | 0x1007 => measWindow n16 (some w) s
    | 0x103A => stallWindow n16 (some w) s
    | 0x2001 => sivSync w s
    | 0x2004 => sieveWindow (some w) s
    | 0x2011 => bankRequest (Fin.ofNat 16 k) w s
    | 0x2109 =>
      let c : Fin 8 := Fin.ofNat 8 k
      let s1 := if F.YRD_CTRL_CLEAR.get w = 1 then yardClear c s else s.answer .ok
      if F.YRD_CTRL_SNAP.get w = 1 then yardSnap c s1 else s1
    | 0x2208 => hallFreezeWrite (Fin.ofNat 8 k) w s
    | 0x2228 => dramFreezeWrite w s
    | 0x2320 => trainingGo w s
    | 0x2324 => trainingDelay w s
    | 0x2419 => paletteWindow (some w) s
    | 0x2420 => sgnCommit w s
    | 0x2700 =>
      let a := F.PWR_REGIME_ADMIT_LEAN.get w == 1
      let b := F.PWR_REGIME_WAKE_TO.get w == 1
      match F.PWR_REGIME_REQ.get w with
      | 0 => regimeFull a b s
      | 1 => regimeLean a b s
      | 2 => regimeWatch a b s
      | _ => s.refuseWrite .range
    | 0x2A02 => if F.IMG_ROLLBACK_ADVANCE.get w = 1 then rollbackAdvance s else s.answer .ok
    | 0x2A0A => if F.IMG_OTP_CTRL_KEY.get w = 0x4F54 then otpProgram s else s.answer .ok
    | _ => s.writeFields r n w

/-- PARAM_WRITE (R9). -/
def execParamWrite (n : BitVec 16) (w : Word) (s : State) : Result := .next (s.writeParam n.toNat w)

/-- W1C_CLEAR (R8, R10): writing 1 to the W1C bits of parameter `n`. -/
def w1cClear (n : Nat) (w : Word) (s : State) : State :=
  let m := classMask n (· == .w1c)
  if m = 0 then s.refuseWrite .badParam else (s.clearSticky n (w &&& m)).answer .ok

/-- W1C_CLEAR. -/
def execW1cClear (n : BitVec 16) (w : Word) (s : State) : Result := .next (w1cClear n.toNat w s)

/-- One write of an image entry (R363): its IM, LV and SL fields are set where R429 admits them; LV and IM fields are in force
at once. Answers none where the entry is refused, which a write that only finds nothing to act on is not. -/
def State.imageWrite (s : State) (n : Nat) (w : Word) : Option State :=
  match locate n with
  | none => none
  | some (r, _, st) =>
    -- MEDIAN and MWIN are set by a GLOKOR section only (R215)
    let mine (a : Acc) : Bool := a == .lv || a == .sl || (a == .im && r.base != R.SIV_CH_CFG.base)
    let held := r.mask mine
    if held = 0 || r.outOfRange w mine then none
    else if r.base = R.DRM_TOPO.base || r.base = R.HAL_RGN_BASE.base || r.base = R.HAL_RGN_CFG.base then none
    else
      let live := r.mask fun a => a == .lv || (a == .im && mine a)
      let im := r.mask (· == .im)
      let n16 : Fin 16 := Fin.ofNat 16 st
      match r.base with
      | 0x1007 => if (measWindow n16 (some w) s).code = .ok then some (measWindow n16 (some w) s) else none
      | 0x103A => some (stallWindow n16 (some w) s)
      | 0x2004 => some (sieveWindow (some w) s)
      | 0x2419 => some (paletteWindow (some w) s)
      | _ =>
        if im = 0 && lv_only r then
          some (s.writeParam n w)
        else some (((s.setWritten n w held).setForce n w live).answer .ok)
where
  /-- a register whose only held fields are live -/
  lv_only (r : RegDef) : Bool := r.mask (fun a => a == .sl || a == .im) == 0

end Sys2Proof.Machine
end

