-- ==== Sys2Proof/Machine/Functions.lean ====
section
/-! DEFINITION. The functions: their START and their STOP (01_architecture R24 to R31; 16_barter R341, R347; 17_image R378,
R379). -/

namespace Sys2Proof.Machine

/-- The function IDs (R378). -/
def functionIds : List Nat :=
  [fnTally] ++ (List.range 16).map (0x10 + ·) ++ [fnSieve] ++ (List.range 8).map (0x30 + ·) ++
    [fnSignboard, fnCrier, fnWharf, fnAux]

/-- Some SL value written for a function lies outside its field's range (R232, R309). -/
def State.lockedOutOfRange (s : State) (fn : Nat) : Bool :=
  (lockedWords fn).any fun n => match locate n with
    | some (r, _, _) => r.outOfRange (s.lastWritten n) (· == .sl)
    | none => false

/-- The regions that map `k` uses: its own, and that of its snapshot with SNAP_EN = 1. -/
def State.yardRegions (s : State) (k : Fin 8) : List Region :=
  s.region (s.val F.YRD_REGION_MAP k) ::
    (if s.flag F.YRD_REGION_SNAP_EN k then [s.region (s.val F.YRD_REGION_SNAPR k)] else [])

/-- START_FN YARDk is refused with BAD_PARAM (R232). Every region starts on a 4 KiB boundary (R252). An unused descriptor
has no size. -/
def State.mapBadParam (s : State) (k : Fin 8) : Bool :=
  let mine := s.yardRegions k
  let others := ((List.finRange 8).filter fun j => j != k && s.yardRuns j).flatMap s.yardRegions
  mine.any (fun r => r.kind == 0 || decide (r.size < s.mapBytes k)) ||
  (match mine with | [a, b] => a.overlaps b | _ => false) ||
  mine.any (fun r => others.any fun o => r.overlaps o)

/-- START of YARDk: the map and its snapshot region are cleared before it reports RUNNING (R232); its periods count from now
(R241). -/
def State.startYard (s : State) (k : Fin 8) : State :=
  let s := (s.bringIntoForce [F.YRD_DECAY_K.num k]).modYard k fun y => { y with
    clearing := false, sweeping := false, copying := false, copied := [], adds := [], owed := [], suspended := false
    snapDue := false }
  let s := (s.yardRegions k).foldl (fun s r => s.passWords r.base (s.mapBytes k) 0 fun t i => t.clearWord r.base i) s
  s.modYard k fun y => { y with
    periodAt := s.now + s.val F.YRD_DECAY_PERIOD k * milliMites }

/-- START_FN WHARF is refused with BAD_PARAM (R351). -/
def State.wharfBadParam (s : State) : Bool :=
  let r := s.region (s.val F.WHF_CTRL_REGION)
  r.kind != 5 || decide (r.size < 65536)

/-- START_FN on a function other than a stall is refused with BAD_PARAM, its SL values in force on trial (R40, R64, R93, R232,
R309, R351). Of the tally's ports only those it would track are looked at (R33, R40). -/
def State.fnBadParam (s : State) (fn : Nat) : Bool :=
  (fn != fnTally && s.lockedOutOfRange fn) ||
  (if fn = fnTally then s.tallyBadParam
  else if fn / 8 = 6 then s.mapBadParam (Fin.ofNat 8 fn)
  else if fn = fnSignboard then s.signBadParam
  else if fn = fnWharf then s.wharfBadParam
  else fn == fnAux && s.auxBadParam)

/-- What START brings about in a function other than a stall. -/
def State.fnStarts (s : State) (fn : Nat) : State :=
  if fn = fnTally then s.startTally
  else if fn / 8 = 6 then s.startYard (Fin.ofNat 8 fn)
  else if fn = fnSignboard then s.startSign
  else if fn = fnCrier then s.startCrier
  else if fn = fnAux then s.startAux
  else s

/-- The bits of an admission word (R345): LANE, DRAM, HALL, SIEVE, DEP. -/
def admission (lane dram hall sieve dep : Bool) : Word :=
  BitVec.ofNat 32 (lane.toNat + 2 * dram.toNat + 4 * hall.toNat + 8 * sieve.toNat + 16 * dep.toNat)

/-- The admission word of a stall whose START has been judged. -/
def State.stallAdmission (s : State) (n : Fin 16) : Word :=
  let w := (s.stalls[n]).admitWord
  admission (F.STL_ADMIT_LANE.get w != 0) (F.STL_ADMIT_DRAM.get w != 0) (F.STL_ADMIT_HALL.get w != 0)
    (F.STL_ADMIT_SIEVE.get w != 0) (F.STL_ADMIT_DEP.get w != 0)

/-- A function joins those that run. -/
def State.joinRun (s : State) (fn : Nat) : State := { s with run := s.run ++ [fn] }

/-- A stall's STOP of the present tick is settled before a START of it. -/
def State.settleStop (s : State) (fn : Nat) : State :=
  if fn / 16 = 1 ∧ (s.stalls[Fin.ofNat 16 fn]).stopping then s.finishStop (Fin.ofNat 16 fn) else s

/-- START_FN on a STOPPED function other than a stall (R25, R29, R309, R341). -/
def State.startOther (s : State) (fn : Nat) : Word × State :=
  let t := s.forceLocked fn
  if t.fnBadParam fn then (0, (s.toll 244).answer .badParam)
  else if !t.depsRun fn then (admission false false false false true, (s.toll 244).answer .notAdmitted)
  else if fn = fnSignboard ∧ t.hallEntries 17 = 0 then
    (admission false false true false false, ((s.toll 244).toll 230).answer .notAdmitted)
  else (0, ((t.fnStarts fn).joinRun fn).answer .ok)

/-- START_FN on a STOPPED stall. -/
def State.startAStall (s : State) (n : Fin 16) : Word × State :=
  match s.startStall (s.forceLocked (fnStall n)) n with
  | (.ok, s1) => (0, (s1.joinRun (fnStall n)).answer .ok)
  | (.notAdmitted, s1) => (s1.stallAdmission n, s1.answer .notAdmitted)
  | (c, s1) => (0, s1.answer c)

/-- START_FN (R24 to R29, R347, R379): the admission word, and the state with the reply code. -/
def State.startFn (s : State) (fn : Nat) : Word × State :=
  if !functionIds.contains fn then (0, (s.toll 244).answer .badParam)
  else if s.running fn then (0, s.answer .ok)
  else
    let s := s.settleStop fn
    if fn / 16 = 1 then s.startAStall (Fin.ofNat 16 fn) else s.startOther fn

/-- What STOP brings about in a running function. A consignment of a stopped WHARF is discarded. -/
def State.fnStops (s : State) (fn : Nat) : State :=
  if fn / 16 = 1 then s.requestStop (Fin.ofNat 16 fn)
  else
    let s := { s with run := s.run.erase fn }
    if fn = fnTally then s.stopTally
    else if fn = fnSignboard then s.stopSign
    else if fn = fnCrier then s.stopCrier
    else if fn = fnWharf then { s with wharf := { s.wharf with current := none, queued := none } }
    else if fn = fnAux then s.stopAux
    else s

/-- STOP_FN CRIER is refused: the Mints take their reference from CP0 (R30). -/
def State.crierHeld (s : State) (fn : Nat) : Bool := fn == fnCrier && (s.refs.active)

/-- STOP_FN (R28, R30, R347). -/
def State.stopFn (s : State) (fn : Nat) : State :=
  if !functionIds.contains fn then (s.toll 244).answer .badParam
  else if !s.running fn then s.answer .ok
  else if s.hasDependents fn || s.crierHeld fn then (s.toll 244).answer .dependentRunning
  else (s.fnStops fn).answer .ok

/-- The functions of a list that run and on which nothing of the list that runs depends. -/
def State.leaves (s : State) (fns : List Nat) : List Nat :=
  fns.filter fun f => s.running f && !s.run.any fun g => fns.contains g && (s.deps g).contains f

/-- Functions of a list stopped, leaves first, in at most `fuel` rounds (R389, R390). -/
def State.stopLeaves (fns : List Nat) : Nat → State → State
  | 0, s => s
  | fuel + 1, s =>
    match s.leaves fns with
    | [] => s
    | f :: _ => State.stopLeaves fns fuel (s.fnStops f)

/-- Everything that depends on `fn`, directly or not, in `fuel` rounds; `fn` with it. -/
def State.above (s : State) (fn : Nat) : Nat → List Nat
  | 0 => [fn]
  | fuel + 1 =>
    let l := s.above fn fuel
    l ++ s.run.filter fun g => !l.contains g && (s.deps g).any fun d => l.contains d

/-- What a stopped function would depend on, its SL values as written (R27, R379). -/
def State.depsToStart (s : State) (fn : Nat) : List Nat := (s.forceLocked fn).deps fn

/-- Functions to be started, in dependency order and in ascending ID among those that do not depend on one another (R370):
each round takes the lowest ID whose dependencies, as far as they are to be started, have been. -/
def State.startOrder (s : State) : Nat → List Nat → List Nat
  | 0, _ => []
  | fuel + 1, todo =>
    match (todo.filter fun f => !(s.depsToStart f).any fun d => d != f && todo.contains d).insertionSort (· ≤ ·) with
    | f :: _ => f :: s.startOrder fuel (todo.erase f)
    | [] => todo.insertionSort (· ≤ ·)

/-- The functions of a START section, or those that WATCH has recorded, are started; a refused START leaves its function
STOPPED and raises attention at level warning (R372, R393). -/
def State.startAll (s : State) (fns : List Nat) : State :=
  (s.startOrder 32 fns).foldl (fun s f =>
    let t := (s.startFn f).2
    if t.code = .ok then t else t.attention 2) s

end Sys2Proof.Machine
end

