-- ==== Sys2Proof/Machine/Sha.lean ====
section
/-! DEFINITION. The hashes and the signature that the spec names: SHA-256 and HMAC-SHA-256 (16_barter R337), SHA-512 and
Ed25519 (17_image R365, RFC 8032). -/

namespace Sys2Proof.Machine

def sha256K0 : List Nat := [
  0x428A2F98, 0x71374491, 0xB5C0FBCF, 0xE9B5DBA5, 0x3956C25B, 0x59F111F1, 0x923F82A4, 0xAB1C5ED5,
  0xD807AA98, 0x12835B01, 0x243185BE, 0x550C7DC3, 0x72BE5D74, 0x80DEB1FE, 0x9BDC06A7, 0xC19BF174,
  0xE49B69C1, 0xEFBE4786, 0x0FC19DC6, 0x240CA1CC, 0x2DE92C6F, 0x4A7484AA, 0x5CB0A9DC, 0x76F988DA,
  0x983E5152, 0xA831C66D, 0xB00327C8, 0xBF597FC7, 0xC6E00BF3, 0xD5A79147, 0x06CA6351, 0x14292967,
  0x27B70A85, 0x2E1B2138, 0x4D2C6DFC, 0x53380D13, 0x650A7354, 0x766A0ABB, 0x81C2C92E, 0x92722C85]

def sha256K1 : List Nat := [
  0xA2BFE8A1, 0xA81A664B, 0xC24B8B70, 0xC76C51A3, 0xD192E819, 0xD6990624, 0xF40E3585, 0x106AA070,
  0x19A4C116, 0x1E376C08, 0x2748774C, 0x34B0BCB5, 0x391C0CB3, 0x4ED8AA4A, 0x5B9CCA4F, 0x682E6FF3,
  0x748F82EE, 0x78A5636F, 0x84C87814, 0x8CC70208, 0x90BEFFFA, 0xA4506CEB, 0xBEF9A3F7, 0xC67178F2]

/-- The round constants of SHA-256: the first 32 bits of the fractions of the cube roots of the first 64 primes. -/
def sha256K : List Nat := sha256K0 ++ sha256K1

def sha512K0 : List Nat := [
  0x428A2F98D728AE22, 0x7137449123EF65CD, 0xB5C0FBCFEC4D3B2F, 0xE9B5DBA58189DBBC, 0x3956C25BF348B538,
  0x59F111F1B605D019, 0x923F82A4AF194F9B, 0xAB1C5ED5DA6D8118, 0xD807AA98A3030242, 0x12835B0145706FBE,
  0x243185BE4EE4B28C, 0x550C7DC3D5FFB4E2, 0x72BE5D74F27B896F, 0x80DEB1FE3B1696B1, 0x9BDC06A725C71235,
  0xC19BF174CF692694, 0xE49B69C19EF14AD2, 0xEFBE4786384F25E3, 0x0FC19DC68B8CD5B5, 0x240CA1CC77AC9C65,
  0x2DE92C6F592B0275, 0x4A7484AA6EA6E483, 0x5CB0A9DCBD41FBD4, 0x76F988DA831153B5, 0x983E5152EE66DFAB]

def sha512K1 : List Nat := [
  0xA831C66D2DB43210, 0xB00327C898FB213F, 0xBF597FC7BEEF0EE4, 0xC6E00BF33DA88FC2, 0xD5A79147930AA725,
  0x06CA6351E003826F, 0x142929670A0E6E70, 0x27B70A8546D22FFC, 0x2E1B21385C26C926, 0x4D2C6DFC5AC42AED,
  0x53380D139D95B3DF, 0x650A73548BAF63DE, 0x766A0ABB3C77B2A8, 0x81C2C92E47EDAEE6, 0x92722C851482353B,
  0xA2BFE8A14CF10364, 0xA81A664BBC423001, 0xC24B8B70D0F89791, 0xC76C51A30654BE30, 0xD192E819D6EF5218,
  0xD69906245565A910, 0xF40E35855771202A, 0x106AA07032BBD1B8, 0x19A4C116B8D2D0C8, 0x1E376C085141AB53]

def sha512K2 : List Nat := [
  0x2748774CDF8EEB99, 0x34B0BCB5E19B48A8, 0x391C0CB3C5C95A63, 0x4ED8AA4AE3418ACB, 0x5B9CCA4F7763E373,
  0x682E6FF3D6B2B8A3, 0x748F82EE5DEFB2FC, 0x78A5636F43172F60, 0x84C87814A1F0AB72, 0x8CC702081A6439EC,
  0x90BEFFFA23631E28, 0xA4506CEBDE82BDE9, 0xBEF9A3F7B2C67915, 0xC67178F2E372532B, 0xCA273ECEEA26619C,
  0xD186B8C721C0C207, 0xEADA7DD6CDE0EB1E, 0xF57D4F7FEE6ED178, 0x06F067AA72176FBA, 0x0A637DC5A2C898A6,
  0x113F9804BEF90DAE, 0x1B710B35131C471B, 0x28DB77F523047D84, 0x32CAAB7B40C72493, 0x3C9EBE0A15C9BEBC]

def sha512K3 : List Nat := [
  0x431D67C49C100D4C, 0x4CC5D4BECB3E42B6, 0x597F299CFC657E2A, 0x5FCB6FAB3AD6FAEC, 0x6C44198C4A475817]

/-- The round constants of SHA-512. -/
def sha512K : List Nat := sha512K0 ++ sha512K1 ++ sha512K2 ++ sha512K3

/-- The initial hash values. -/
def sha256Init : List Nat := [0x6A09E667, 0xBB67AE85, 0x3C6EF372, 0xA54FF53A, 0x510E527F, 0x9B05688C, 0x1F83D9AB, 0x5BE0CD19]
def sha512Init : List Nat := [
  0x6A09E667F3BCC908, 0xBB67AE8584CAA73B, 0x3C6EF372FE94F82B, 0xA54FF53A5F1D36F1,
  0x510E527FADE682D1, 0x9B05688C2B3E6C1F, 0x1F83D9ABFB41BD6B, 0x5BE0CD19137E2179]

/-- The word size of a hash with its rotations: SHA-256 or SHA-512. -/
structure HashParams where
  w : Nat
  rounds : List Nat
  init : List Nat
  /-- rotations of Σ0, Σ1, and of σ0, σ1 with their final shift -/
  big0 : Nat × Nat × Nat
  big1 : Nat × Nat × Nat
  small0 : Nat × Nat × Nat
  small1 : Nat × Nat × Nat

def sha256Params : HashParams := ⟨32, sha256K, sha256Init, (2, 13, 22), (6, 11, 25), (7, 18, 3), (17, 19, 10)⟩
def sha512Params : HashParams := ⟨64, sha512K, sha512Init, (28, 34, 39), (14, 18, 41), (1, 8, 7), (19, 61, 6)⟩

/-- Rotation to the right in words of `w` bits. -/
def rotr (w n x : Nat) : Nat := (x >>> n) ||| ((x <<< (w - n)) % 2 ^ w)

/-- Three rotations, combined. -/
def rot3 (w : Nat) (r : Nat × Nat × Nat) (x : Nat) : Nat := rotr w r.1 x ^^^ rotr w r.2.1 x ^^^ rotr w r.2.2 x

/-- Two rotations and a shift, combined. -/
def rot2 (w : Nat) (r : Nat × Nat × Nat) (x : Nat) : Nat := rotr w r.1 x ^^^ rotr w r.2.1 x ^^^ (x >>> r.2.2)

/-- The eight words of a hash in progress, named as FIPS 180-4 names them. -/
structure HashState where
  a : Nat
  b : Nat
  c : Nat
  d : Nat
  e : Nat
  f : Nat
  g : Nat
  h : Nat

/-- One round, with the schedule's sixteen words, oldest first; answers the state and the schedule moved by one. -/
def hashRound (p : HashParams) (x : HashState × List Nat) (k : Nat) : HashState × List Nat :=
  let (s, l) := x
  let m := 2 ^ p.w
  let ch := (s.e &&& s.f) ^^^ ((m - 1 - s.e) &&& s.g)
  let maj := (s.a &&& s.b) ^^^ (s.a &&& s.c) ^^^ (s.b &&& s.c)
  let t1 := s.h + rot3 p.w p.big1 s.e + ch + k + l.headD 0
  let t2 := rot3 p.w p.big0 s.a + maj
  let next := (rot2 p.w p.small1 (l.getD 14 0) + l.getD 9 0 + rot2 p.w p.small0 (l.getD 1 0) + l.headD 0) % m
  (⟨(t1 + t2) % m, s.a, s.b, s.c, (s.d + t1) % m, s.e, s.f, s.g⟩, l.drop 1 ++ [next])

/-- A big-endian number. -/
def ofBeBytes (bs : List Byte) : Nat := bs.foldl (fun a b => a * 256 + b.toNat) 0

/-- The low `n` bytes of a number, big-endian. -/
def beBytes (n v : Nat) : List Byte := (List.range n).map fun i => BitVec.ofNat 8 (v / 256 ^ (n - 1 - i))

/-- A list cut into `n` pieces of `k` elements. -/
def pieces {α : Type} : Nat → Nat → List α → List (List α)
  | 0, _, _ => []
  | n + 1, k, l => l.take k :: pieces n k (l.drop k)

/-- One block taken into the hash. -/
def hashBlock (p : HashParams) (h : List Nat) (block : List Byte) : List Nat :=
  let ws := (pieces 16 (p.w / 8) block).map ofBeBytes
  let g (i : Nat) : Nat := h.getD i 0
  let (s, _) := p.rounds.foldl (hashRound p) (⟨g 0, g 1, g 2, g 3, g 4, g 5, g 6, g 7⟩, ws)
  (List.zipWith (· + ·) h [s.a, s.b, s.c, s.d, s.e, s.f, s.g, s.h]).map (· % 2 ^ p.w)

/-- The message with its padding and its length in bits. -/
def hashPad (p : HashParams) (m : List Byte) : List Byte :=
  let block := 2 * p.w
  let tail := p.w / 4
  let zeros := (block - (m.length + 1 + tail) % block) % block
  m ++ [0x80] ++ List.replicate zeros 0 ++ beBytes tail (8 * m.length)

/-- The hash of a message (FIPS 180-4). -/
def hashOf (p : HashParams) (m : List Byte) : List Byte :=
  let x := hashPad p m
  ((pieces (x.length / (2 * p.w)) (2 * p.w) x).foldl (hashBlock p) p.init).flatMap (beBytes (p.w / 8))

def sha256 (m : List Byte) : List Byte := hashOf sha256Params m
def sha512 (m : List Byte) : List Byte := hashOf sha512Params m

/-- HMAC-SHA-256 (RFC 2104) with a key of at most 64 bytes. -/
def hmacSha256 (key m : List Byte) : List Byte :=
  let k := key ++ List.replicate (64 - key.length) 0
  sha256 (k.map (· ^^^ 0x5C) ++ sha256 (k.map (· ^^^ 0x36) ++ m))

/-- The field prime 2^255 − 19, the order of the base point, and the curve constant d (RFC 8032, section 5.1). -/
def edP : Nat := 2 ^ 255 - 19
def edL : Nat := 2 ^ 252 + 27742317777372353535851937790883648493
def edD : Nat := 37095705934669439343138083508754565189542113879843219016388785533085940283555

/-- `b` to the power of the binary number whose `n` low bits are those of `e`, modulo `m`. -/
def powMod (m : Nat) : Nat → Nat → Nat → Nat
  | 0, _, _ => 1
  | n + 1, b, e => (if e % 2 = 1 then b else 1) * powMod m n (b * b % m) (e / 2) % m

/-- A point of the curve in projective coordinates X, Y, Z. -/
structure EdPoint where
  x : Nat
  y : Nat
  z : Nat

/-- The sum of two points: the complete addition law of the twisted Edwards curve with a = −1. -/
def EdPoint.add (p q : EdPoint) : EdPoint :=
  let a := p.z * q.z % edP
  let b := a * a % edP
  let c := p.x * q.x % edP
  let d := p.y * q.y % edP
  let e := edD * c % edP * d % edP
  let f := (b + edP - e) % edP
  let g := (b + e) % edP
  let h := ((p.x + p.y) * (q.x + q.y) + 2 * edP - c - d) % edP
  { x := a * f % edP * h % edP, y := a * g % edP * ((d + c) % edP) % edP, z := f * g % edP }

/-- The neutral point. -/
def edZero : EdPoint := ⟨0, 1, 1⟩

/-- The multiple of a point by the number whose `n` low bits are those of `k`. -/
def EdPoint.times : Nat → EdPoint → Nat → EdPoint
  | 0, _, _ => edZero
  | n + 1, p, k => (if k % 2 = 1 then p else edZero).add (EdPoint.times n (p.add p) (k / 2))

/-- Two points are the same. -/
def EdPoint.same (p q : EdPoint) : Bool :=
  p.x * q.z % edP == q.x * p.z % edP && p.y * q.z % edP == q.y * p.z % edP

/-- The x coordinate of a point with the given y and sign (RFC 8032, section 5.1.3). -/
def edRecover (y : Nat) (sign : Nat) : Option Nat :=
  let u := (y * y + edP - 1) % edP
  let v := (edD * (y * y % edP) + 1) % edP
  let v3 := v * v % edP * v % edP
  let v7 := v3 * v3 % edP * v % edP
  let x := u * v3 % edP * powMod edP 256 (u * v7 % edP) ((edP - 5) / 8) % edP
  let vx2 := v * (x * x % edP) % edP
  let r : Option Nat :=
    if vx2 = u then some x
    else if vx2 = (edP - u) % edP then some (x * powMod edP 256 2 ((edP - 1) / 4) % edP)
    else none
  r.bind fun x =>
    if x = 0 ∧ sign = 1 then none else if x % 2 = sign then some x else some (edP - x)

/-- A little-endian number. -/
def ofLittle (bs : List Byte) : Nat := ofBeBytes bs.reverse

/-- A point from its 32 bytes. -/
def edDecode (bs : List Byte) : Option EdPoint :=
  let v := ofLittle bs
  let y := v % 2 ^ 255
  if edP ≤ y then none else (edRecover y (v / 2 ^ 255)).map fun x => ⟨x, y, 1⟩

/-- The base point. -/
def edBase : EdPoint :=
  ⟨15112221349535400772501151409588531511454012693041857206046113283949847762202,
   46316835694926478169428394003475163141307993866256225615783033603165251855960, 1⟩

/-- The Ed25519 signature of a message verifies under a public key (RFC 8032, section 5.1.7). PRESUMED (log entry 62). -/
def ed25519Verify (key sig msg : List Byte) : Bool :=
  let r := sig.take 32
  let s := ofLittle (sig.drop 32)
  let k := ofLittle (sha512 (r ++ key ++ msg)) % edL
  match edDecode key, edDecode r with
  | some a, some p =>
    decide (s < edL) && (EdPoint.times 256 (EdPoint.times 256 edBase s) 8).same
      (EdPoint.times 256 (p.add (EdPoint.times 256 a k)) 8)
  | _, _ => false

end Sys2Proof.Machine
end

