-- ==== Sys2Proof/Machine/Image.lean ====
section
/-! DEFINITION. The configuration image: the flash's layout, the reading of a slot, and its check (17_image R356 to R369). -/

namespace Sys2Proof.Machine

/-- The usable density (R357): the first 16 MiB only, where there are more and no 4-byte addressing. -/
def Sfdp.usable (f : Sfdp) : Nat := if 2 ^ 24 < f.density ∧ !f.addr4 then 2 ^ 24 else f.density

/-- Z, the length of a slot, and where slot 0 (A) or 1 (B) begins (R358). -/
def State.slotLen (s : State) : Nat := (s.image.dens - 0x10000) / 0x20000 * 0x10000
def State.slotAddr (s : State) (slot : Nat) : Nat := 0x10000 + slot * s.slotLen

/-- A little-endian number in the flash. -/
def State.flashNat (s : State) (a n : Nat) : Nat := ofLeBytes (s.flashBytes a n)

/-- A section of an image (R361): its type, SKIP, its body, and whether its SCRC holds. -/
structure Section where
  type : Nat
  skip : Bool
  body : List Byte
  good : Bool
deriving DecidableEq, Repr

/-- Up to a multiple of 8. -/
def pad8 (n : Nat) : Nat := (n + 7) / 8 * 8

/-- The section at a flash address, and the address after its padding; none where it does not end by `stop`. -/
def State.sectionAt (s : State) (a stop : Nat) : Option (Section × Nat) :=
  let len := s.flashNat (a + 4) 4
  if stop < a + 16 ∨ stop < a + 16 + pad8 len then none
  else
    let head := s.flashBytes a 12
    let body := s.flashBytes (a + 16) len
    some (⟨s.flashNat a 2, (s.flashNat (a + 2) 2).testBit 0, body, crc32 (head ++ body) == s.flashNat (a + 12) 4⟩,
      a + 16 + pad8 len)

/-- `n` sections from an address on, and whether they end exactly at `stop` (R361). -/
def State.sectionsFrom (s : State) : Nat → Nat → Nat → List Section × Bool
  | 0, a, stop => ([], a == stop)
  | n + 1, a, stop =>
    match s.sectionAt a stop with
    | none => ([], false)
    | some (x, next) =>
      let (rest, ok) := s.sectionsFrom n next stop
      (x :: rest, ok)

/-- The section types (R362). -/
def typeParam : Nat := 1
def typeBoard : Nat := 2
def typeKeys : Nat := 3
def typeRegions : Nat := 4
def typeSieveBank : Nat := 5
def typeGlokor : Nat := 6
def typeOverlay : Nat := 7
def typeLaunch : Nat := 8
def typeStart : Nat := 9

/-- The bodies of the sections of a type, in image order. -/
def bodiesOf (l : List Section) (t : Nat) : List (List Byte) := (l.filter fun x => x.type == t).map (·.body)

/-- The body of a section that appears at most once. -/
def bodyOf (l : List Section) (t : Nat) : List Byte := (bodiesOf l t).headD []

/-- A little-endian number of `n` bytes at an offset of a body. -/
def leAt (b : List Byte) (i n : Nat) : Nat := ofLeBytes ((b.drop i).take n)

/-- An image as the check pass reads it (R360, R361). -/
structure ImageFile where
  addr : Nat
  length : Nat
  signed : Bool
  rollback : Nat
  build : Nat
  sections : List Section
deriving DecidableEq, Repr

/-- The sections are framed, of known types unless SKIP is set, and none that may appear once is repeated (R361, R362). -/
def framingBroken (nsect : Nat) (l : List Section) (ends : Bool) : Bool :=
  nsect == 0 || decide (1024 < nsect) || !ends ||
  l.any (fun x => !x.skip && (x.type == 0 || decide (9 < x.type))) ||
  [typeBoard, typeKeys, typeRegions, typeGlokor, typeLaunch, typeStart].any fun t => 1 < (bodiesOf l t).length

/-- Entries of `k` bytes that fill a body. -/
def entriesOf (k : Nat) (b : List Byte) : List (List Byte) := pieces (b.length / k) k b

/-- The region table of an image's REGIONS section (R362). -/
def regionTable (b : List Byte) : List Region :=
  (entriesOf 8 b).map fun e =>
    let base := BitVec.ofNat 32 (leAt e 0 4)
    let cfg := BitVec.ofNat 32 (leAt e 4 4)
    { base := F.HAL_RGN_BASE_BASE.get base * 4096, size := F.HAL_RGN_CFG_SIZE.get cfg * 4096
      kind := F.HAL_RGN_CFG_KIND.get cfg, owner := F.HAL_RGN_CFG_OWNER.get cfg }

/-- A region table breaks a rule (R252). -/
def regionsFaulty (t : List Region) : Bool :=
  let used := t.zipIdx.filter fun (r, _) => r.kind != 0
  used.any fun (r, i) =>
    r.size == 0 || decide (32768 * 4096 < r.size) || r.kind == 7 || decide (hallSize < r.base + r.size) ||
    used.any fun (q, j) => decide (i < j) && (r.overlaps q || (r.kind == 1 && q.kind == 1 && r.owner == q.owner))

/-- DRM_TOPO lies outside R268: the reserved density, or more than 128 GiB, or a combination not supported. -/
def topoFaulty (w : Word) : Bool :=
  let x16 := F.DRM_TOPO_WIDTH.get w == 1
  let dens := F.DRM_TOPO_DENS.get w
  dens == 3 || (F.DRM_TOPO_RANKS.get w == 1 && !x16 && dens != 0)

/-- The bits that a training target has: CS and CA use 0 to 13 (DRM_TR_DSEL). -/
def targetBits (t : Nat) : Nat := if t ≤ 1 then 14 else 40

/-- CL and CWL are values of JESD79-5 at a rate: an even CL of at most 66 clocks and of at least 14 ns, which are 46 clocks at
6,400 MT/s and 34 at 4,800 MT/s, whatever the density, and CWL two less. PRESUMED (log entry 29). -/
def latencyOk (lean : Bool) (cl cwl : Nat) : Bool :=
  decide ((if lean then 34 else 46) ≤ cl) && decide (cl ≤ 66) && cl % 2 == 0 && cwl + 2 == cl

/-- The BOARD body is faulty (R364). -/
def boardFaulty (b : List Byte) : Bool :=
  let m := leAt b 8 2
  let k := leAt b 10 2
  topoFaulty (BitVec.ofNat 32 (leAt b 0 4)) || !latencyOk false (leAt b 4 1) (leAt b 5 1) ||
  !latencyOk true (leAt b 6 1) (leAt b 7 1) ||
  decide (512 < m) || decide (4096 < k) || b.length != 16 + 4 * m + 8 * k ||
  (entriesOf 8 (b.drop (16 + 4 * m))).any fun e =>
    decide (7 < leAt e 0 1) || decide (targetBits (leAt e 0 1) ≤ leAt e 2 1) || decide (1023 < leAt e 4 2)

/-- A SIEVE_BANK body is faulty (R362). -/
def sieveBankFaulty (b : List Byte) : Bool :=
  let n := leAt b 2 2
  n == 0 || decide (4096 < n) || decide (4095 < leAt b 0 2) || b.length != 8 + 4 * n

/-- The GLOKOR body is faulty (R362). DEDUCED (log entry 41). -/
def glokorFaulty (b : List Byte) : Bool :=
  let es := entriesOf 4 b
  b.length % 4 != 0 ||
  es.any (fun e => decide (15 < leAt e 0 1) || (leAt e 1 1 != 0 && leAt e 1 1 != 2) || leAt e 2 1 % 2 == 0 ||
    decide (leAt e 2 1 < 3) || decide (15 < leAt e 2 1)) ||
  es.any fun e => decide (1 < (es.filter fun f => leAt f 0 1 == leAt e 0 1).length)

/-- Bytes lie within one LAYER region with OWNER = 2 (R349, R362). -/
def inOverlay (t : List Region) (a n : Nat) : Bool :=
  t.any fun r => r.kind == 3 && r.owner == 2 && decide (r.base ≤ a) && decide (a + n ≤ r.base + r.size)

/-- An OVERLAY body is faulty (R362). -/
def overlayFaulty (t : List Region) (b : List Byte) : Bool :=
  let a := leAt b 0 4
  let n := leAt b 4 4
  a % 16 != 0 || n % 16 != 0 || b.length != 8 + n || !inOverlay t a n

/-- The bits of TLY_LSk_CTRL that an entry must leave zero (R362). -/
def launchRoMask : Word := R.TLY_LS_CTRL.mask (· == .ro)

/-- The LAUNCH body is faulty in content (R362). -/
def launchFaulty (b : List Byte) : Bool :=
  b.length % 16 != 0 ||
  (entriesOf 16 b).any fun e => decide (63 < leAt e 0 1) || BitVec.ofNat 32 (leAt e 12 4) &&& launchRoMask != 0

/-- The START body is faulty (R362). -/
def startFaulty (b : List Byte) : Bool := (b.map (·.toNat)).any (fun f => !functionIds.contains f) || !decide b.Nodup

/-- Some section is faulty in content: reason 7 (R252, R362, R364, R369). -/
def contentFaulty (l : List Section) : Bool :=
  let regions := regionTable (bodyOf l typeRegions)
  (bodyOf l typeKeys).length != 32 || boardFaulty (bodyOf l typeBoard) ||
  (bodiesOf l typeParam).any (fun b => b.length % 8 != 0) ||
  (!(bodiesOf l typeRegions).isEmpty && (bodyOf l typeRegions).length != 256) || regionsFaulty regions ||
  (bodiesOf l typeSieveBank).any sieveBankFaulty || glokorFaulty (bodyOf l typeGlokor) ||
  (bodiesOf l typeOverlay).any (overlayFaulty regions) || launchFaulty (bodyOf l typeLaunch) ||
  startFaulty (bodyOf l typeStart)

/-- The SHA-256 of the public key, as the OTP holds it (R366). -/
def keyHash (otp : Vector Word 32) : List Byte := (otp.toList.take 8).flatMap fun w => leBytes 4 w.toNat

/-- The signature block checks (R365). -/
def State.signatureOk (s : State) (f : ImageFile) : Bool :=
  let key := s.flashBytes (f.addr + f.length) 32
  let sig := s.flashBytes (f.addr + f.length + 32) 64
  sha256 key == keyHash s.image.otpForce && ed25519Verify key sig (s.flashBytes f.addr f.length)

/-- Signatures are checked: KEYHASH_SET as read at the last start-up (R366, R367). -/
def State.checksSigs (s : State) : Bool := otpKeyhashSet s.image.otpForce[16]

/-- Some sector of a slot was torn by a reset (start-up coincidences). -/
def State.slotTorn (s : State) (slot : Nat) : Bool :=
  s.image.torn.any fun a => decide (s.slotAddr slot ≤ a) && decide (a < s.slotAddr slot + s.slotLen)

/-- What the check pass finds in a slot: an image, or the reason for which it fails, the first of the table (R369). The
state is changed only by the free reason of a torn slot. DESIGN CHOICE (log entry 40). -/
def State.checkSlot (s : State) (slot : Nat) : Except Nat ImageFile × State :=
  let a := s.slotAddr slot
  let length := s.flashNat (a + 8) 4
  let flags := s.flashNat (a + 6) 2
  let nsect := s.flashNat (a + 0xC) 2
  let sections := s.sectionsFrom nsect (a + 0x40) (a + length)
  let f : ImageFile := {
    addr := a, length := length, signed := flags.testBit 0, rollback := s.flashNat (a + 0x10) 4
    build := s.flashNat (a + 0x14) 4, sections := sections.1 }
  if s.slotTorn slot then let (x, s1) := s.draw; (.error (1 + x % 10), s1)
  else
    (if s.flashBytes a 4 ≠ [0x54, 0x59, 0x56, 0x49] ∨ s.flashNat (a + 4) 2 ≠ 1 then .error 1
    else if crc32 (s.flashBytes a 0x3C) ≠ s.flashNat (a + 0x3C) 4 then .error 2
    else if length % 8 ≠ 0 ∨ 2 ^ 25 < length ∨ length < 0x40 ∨ s.slotLen < length + (if f.signed then 96 else 0) then .error 3
    else if sections.1.any (fun x => !x.good) then .error 4
    else if framingBroken nsect sections.1 sections.2 then .error 5
    else if [typeBoard, typeKeys].any (fun t => (bodiesOf f.sections t).isEmpty) then .error 6
    else if contentFaulty f.sections then .error 7
    else if otpSigreq s.image.otpForce[16] && !f.signed then .error 8
    else if s.checksSigs && f.signed && !s.signatureOk f then .error 9
    else if f.rollback < arbCount s.image.otpForce then .error 10
    else .ok f, s)

/-- The sections of an image as the apply pass reads them, `reread` being the bytes that it reads otherwise than they stand (R369). -/
def State.readAgain (s : State) (f : ImageFile) (reread : List (Nat × Byte)) : List Section :=
  let t := s.modImage fun x => { x with flash := Sparse.setAll flashFill x.flash reread }
  let l := (t.sectionsFrom f.sections.length (f.addr + 0x40) (f.addr + f.length)).1
  if l.length = f.sections.length then l else f.sections.map fun x => { x with good := false }

/-- Things applied in order until one of them is refused (reason 11): the state reached, and whether all were applied. -/
def applyAll {α : Type} (f : State → α → Option State) : List α → State → State × Bool
  | [], s => (s, true)
  | x :: l, s => match f s x with | some t => applyAll f l t | none => (s, false)

/-- One PARAM entry (R363). -/
def State.applyParam (s : State) (e : List Byte) : Option State := s.imageWrite (leAt e 0 2) (BitVec.ofNat 32 (leAt e 4 4))

/-- A word of the image is set whole, written and in force. -/
def State.setWhole (s : State) (n : Nat) (w : Word) : State :=
  (s.setWritten n w (BitVec.allOnes 32)).setForce n w (BitVec.allOnes 32)

/-- The region table of the image comes into force (R362). -/
def State.applyRegions (s : State) (b : List Byte) : State :=
  (entriesOf 8 b).zipIdx.foldl (fun s (e, d) =>
    (s.setWhole (R.HAL_RGN_BASE.num d) (BitVec.ofNat 32 (leAt e 0 4) &&& R.HAL_RGN_BASE.mask (fun _ => true))).setWhole
      (R.HAL_RGN_CFG.num d) (BitVec.ofNat 32 (leAt e 4 4) &&& R.HAL_RGN_CFG.mask (fun _ => true))) s

/-- The BOARD section is applied (R269, R364). -/
def State.applyBoard (s : State) (b : List Byte) : State :=
  let m := leAt b 8 2
  (s.setWhole R.DRM_TOPO.base (BitVec.ofNat 32 (leAt b 0 4) &&& R.DRM_TOPO.mask (fun _ => true))).modImage fun x => { x with
    latencies := (List.range 4).map fun i => leAt b (4 + i) 1
    modeRegs := (pieces m 4 (b.drop 16)).map fun e => (leAt e 0 1, leAt e 1 1, leAt e 2 1, leAt e 3 1)
    seeds := (entriesOf 8 (b.drop (16 + 4 * m))).map fun e => (leAt e 0 4, leAt e 4 2) }

/-- A SIEVE_BANK section is applied: its words at ascending window addresses, with wrap (R362). -/
def State.applySieveBank (s : State) (b : List Byte) : State :=
  (entriesOf 4 (b.drop 8)).zipIdx.foldl (fun s (e, i) =>
    let a := (leAt b 0 2 + i) % 4096
    if 4 < a % 8 then s
    else { s with sieve := { s.sieve with
      coefs := Sparse.set coefReset s.sieve.coefs a (BitVec.ofNat 32 (leAt e 0 4)) } }) s

/-- The GLOKOR section is applied: median mode (R215, R362). DEDUCED (log entry 41). -/
def State.applyGlokor (s : State) (b : List Byte) : State :=
  (entriesOf 4 b).foldl (fun s e =>
    if leAt e 1 1 = 2 then
      let n := R.SIV_CH_CFG.num (leAt e 0 1)
      let m := F.SIV_CH_CFG_MEDIAN.put 1 ||| F.SIV_CH_CFG_MWIN.put (2 ^ 32 - 1)
      let w := F.SIV_CH_CFG_MEDIAN.put 1 ||| F.SIV_CH_CFG_MWIN.put (leAt e 2 1)
      (s.setWritten n w m).setForce n w m
    else s) s

/-- A LAUNCH entry is applied with ARM written as 0 (R362, R370); its fields are tested as those of a PARAM entry are. -/
def State.applyLaunch (s : State) (e : List Byte) : Option State :=
  let k := leAt e 0 1
  let ctrl := BitVec.ofNat 32 (leAt e 12 4)
  if R.TLY_LS_CTRL.outOfRange ctrl (· == .lv) then none
  else
    let s1 := (s.setWhole (R.TLY_LS_TLO.num k) (BitVec.ofNat 32 (leAt e 4 4))).setWhole (R.TLY_LS_THI.num k)
      (BitVec.ofNat 32 (leAt e 8 4))
    some (s1.setWhole (R.TLY_LS_CTRL.num k) (ctrl &&& launchCtrlMask))

/-- The LAUNCH entries that are armed at the end of start-up (R370): the slot and its control word. -/
def launchArms (b : List Byte) : List (Fin 64 × Word) :=
  ((entriesOf 16 b).filter fun e => F.TLY_LS_CTRL_ARM.get (BitVec.ofNat 32 (leAt e 12 4)) == 1).map fun e =>
    (Fin.ofNat 64 (leAt e 0 1), BitVec.ofNat 32 (leAt e 12 4))

/-- The apply pass (R370): the state reached, and whether every entry was accepted. -/
def State.applyImage (s : State) (f : ImageFile) : State × Bool :=
  let l := f.sections
  let s1 := { s with barter := { s.barter with key := bodyOf l typeKeys } }
  let s2 := (s1.applyRegions (bodyOf l typeRegions)).applyBoard (bodyOf l typeBoard)
  let (s3, params) := applyAll State.applyParam ((bodiesOf l typeParam).flatMap (entriesOf 8)) s2
  if !params then (s3, false)
  else
    let s4 := ((bodiesOf l typeSieveBank).foldl State.applySieveBank s3).applyGlokor (bodyOf l typeGlokor)
    let s5 := (bodiesOf l typeOverlay).foldl (fun s b => s.hallWrite (leAt b 0 4) (b.drop 8)) s4
    let (s6, launches) := applyAll State.applyLaunch (entriesOf 16 (bodyOf l typeLaunch)) s5
    (s6.modImage fun x => { x with
      starts := (bodyOf l typeStart).map (·.toNat), arms := launchArms (bodyOf l typeLaunch)
      build := BitVec.ofNat 32 f.build, level := f.rollback, sigchk := s.checksSigs && f.signed }, launches)

end Sys2Proof.Machine
end

