-- ==== Sys2Proof/Machine/Reset.lean ====
section
/-! DEFINITION. What a reset leaves: the always-on state that the rules keep, and everything else at its reset value
(03_mints R70, R430; 04_converters R89; 05_calibration R102; 06_weighers R141; 17_image R371, R377; 19_tolls R396). -/

namespace Sys2Proof.Machine

/-- The address in the flash lies in the directory (R358). -/
def inDirectory (a : Nat) : Bool := decide (a < 0x2000)

/-- The unit that the device erases at a flash address: 4 KiB in the directory, else the sector size (R350, R356). -/
def State.eraseUnit (s : State) (a : Nat) : Nat := if inDirectory a then 4096 else max 1 s.image.sector

/-- The sectors that a flash operation erases or programs. -/
def State.opSectors (s : State) (op : FlashOp) : List Nat :=
  (unitsOf (s.eraseUnit op.addr) op.addr op.bytes.length).map (· * s.eraseUnit op.addr)

/-- Flash bytes that are `n` from `a` on read as erased. -/
def State.flashErased (s : State) (a n : Nat) : List Host.Cell := s.image.flash.filter fun c => c.1 < a || a + n ≤ c.1

/-- A reset interrupts a flash operation (R377): the sectors of a slot are torn; a directory sector holds no valid record, so
the older record stands. -/
def State.interruptFlash (s : State) : State :=
  match s.image.op with
  | none => s
  | some op =>
    if inDirectory op.addr then s.modImage fun x => { x with op := none, flash := s.flashErased (op.addr / 4096 * 4096) 4096 }
    else s.modImage fun x => { x with op := none, torn := x.torn ++ (s.opSectors op).filter fun a => !x.torn.contains a }

/-- The image part that outlives a reset: flash, torn sectors and fuses. -/
def Image.outlives (x : Image) : Image := { flash := x.flash, torn := x.torn, otp := x.otp, otpForce := x.otpForce }

/-- The converter front end with its retirement alone: the relief slice goes on in place of a retired slice, or stays powered down
(R89), and a retirement that was decided is carried out when the sample domain runs again (R86, R88; DEDUCED, log entry 30). -/
def Conv.outlives (c : Conv) : Conv :=
  match c.retired with
  | some k =>
    if h : k.val < 16 then
      { retired := c.retired, degraded := true, phase := .permanent, target := ⟨k.val, h⟩, substitute := some ⟨k.val, h⟩ }
    else { retired := c.retired, degraded := true, phase := .off }
  | none => if c.degraded then { degraded := true, target := c.target } else {}

/-- The weighers with their retirements alone (R141). -/
def Pool.outlives (p : Pool) (now : Nat) : Pool :=
  { weighers := p.weighers.map fun w => if w.role = .retired then { role := .retired } else {}
    periodAt := now + 60 * 40000000000 }

/-- The state after a reset that leaves VAON on: the chronicle, the Mints and references, the pins' levels, retirements,
coefficients, the round of R114, flash and fuses are kept, and the rails stay as they are (R383). The contents of Hall are
kept too (DEDUCED, log entry 30). -/
def State.outlives (s : State) : State :=
  let i := s.interruptFlash.image
  { chron := s.chron, trigIn := s.trigIn, tap := s.tap, pending := s.pending, free := s.free, mints := s.mints
    refs := { s.refs with chronHi := 0, chronEra := 0 }
    conv := s.conv.outlives
    cal := { full := s.cal.full, lean := s.cal.lean, reliefSkewFull := s.cal.reliefSkewFull
             reliefSkewLean := s.cal.reliefSkewLean, first := s.cal.first }
    pool := s.pool.outlives s.now
    tally := { ports := s.tally.ports.map fun p => { a := p.a, b := p.b, z := p.z } }
    aux := { periodAt := s.now, timerAt := s.now }
    hall := { mem := s.hall.mem, bad := s.hall.bad, scrubStart := s.now }
    dram := { windowEnd := s.now + 32 * mitesPerMs, mr4At := s.now
              subs := Vector.replicate 8 { refreshAt := s.now } }
    image := i.outlives
    power := { vaon := s.power.vaon, railsUp := s.power.railsUp && s.power.regime != .watch, resetN := s.power.resetN
               pen := s.power.pen, mute := s.power.mute, readings := s.power.readings, waiting := s.power.waiting
               retryAt := s.power.retryAt, holdEnd := s.power.holdEnd } }

/-- RESET_N clears every toll and the log besides, and returns MNT_REF.SEL to REFCLK, which may be a relock (R396, R401,
R430). -/
def State.resetAll (s : State) : State :=
  let t := s.outlives
  if s.flag F.MNT_REF_SEL then { t.relock with tollDue := [] } else t

/-- The start of the device runs again with the tolls and the log kept: the brown-out restart and a wake that fails (R384,
R393, R396). -/
def State.restart (s : State) : State :=
  let t := s.resetAll
  { t with tolls := s.tolls, tollDue := s.tollDue, log := s.log }

end Sys2Proof.Machine
end

