-- ==== Sys2Proof/Machine/Power.lean ====
section
/-! DEFINITION. The power manager: rails, PMBus, core voltage, temperature, and the wake sources (chapter 18). -/

namespace Sys2Proof.Machine

/-- The rail whose enable stays on in WATCH and in a brown-out: VDDQ (R382, R384). -/
def railVddq : Fin 6 := 3

/-- A rail is in regulation: it is enabled, and its monitor has been read inside its window (R382). -/
def State.regulated (s : State) (k : Fin 6) : Bool :=
  s.power.pen[k] && (s.readAt k).isSome && s.monitorIn (s.railWindow k)

/-- The next rail from the `i`th on that is not already in regulation is enabled and waited for; with none left, every sequenced rail is
in regulation (R383). -/
def State.raiseFrom (s : State) (i : Nat) : State :=
  match (List.finRange 6).find? fun k => decide (i ≤ k.val) && !s.regulated k with
  | some k => s.modPower fun p => { p with pen := updAt p.pen k fun _ => true, waiting := some (k, s.now) }
  | none => s.modPower fun p => { p with waiting := none, railsUp := true }

/-- The sequence of R383 begins. -/
def State.beginSequence (s : State) : State :=
  (s.modPower fun p => { p with retryAt := none, holdEnd := none, railsUp := false }).raiseFrom 0

/-- The rail was read outside its window less than 1 ms ago. -/
def State.strays (s : State) (k : Fin 6) : Bool :=
  !s.monitorIn (s.railWindow k) && (match s.readAt k with | some t => decide (s.now < t + mitesPerMs) | none => false)

/-- The rail has been read inside its window since its enable. -/
def State.reachedWindow (s : State) (k : Fin 6) (enabled : Nat) : Bool :=
  s.monitorIn (s.railWindow k) && (match s.readAt k with | some t => decide (enabled ≤ t) | none => false)

/-- The timeout of a rail that the present tick has acted on is undone: the event that it waits for wins (00_scope, wording). -/
def State.undoTimeout (s : State) : State :=
  match s.ev.railOut with
  | some (pen, waiting, up, ch) =>
    { s.untoll 252 with
      power := { s.power with pen := pen, waiting := waiting, railsUp := up, failCh := ch, retryAt := none }
      ev := { s.ev with railOut := none } }
  | none => s

/-- RAIL_SETTLED (R383): the rail waited for has stayed in its window for 1 ms. -/
def railSettled (s : State) : State :=
  let s := s.undoTimeout
  match s.power.waiting with
  | some (k, t) => if s.reached (t + mitesPerMs) && !s.strays k then s.raiseFrom (k + 1) else s
  | none => s

/-- RAIL_SETTLED. -/
def execRailSettled (s : State) : Result := .next (railSettled s)

/-- RAIL_TIMEOUT (R383): not in regulation within 20 ms; every PEN is lowered, in descending order. -/
def railTimeout (s : State) : State :=
  match s.power.waiting with
  | some (k, t) =>
    if s.reached (t + 20 * mitesPerMs) && !s.reachedWindow k t then
      let t := (s.modPower fun p => { p with
        pen := Vector.replicate 6 false, waiting := none, railsUp := false, failCh := k
        retryAt := some (s.now + mitesPerSec) }).toll 252
      { t with ev := { t.ev with railOut := some (s.power.pen, s.power.waiting, s.power.railsUp, s.power.failCh) } }
    else s
  | none => s

/-- RAIL_TIMEOUT. -/
def execRailTimeout (s : State) : Result := .next (railTimeout s)

/-- SEQUENCE_RETRY (R383): 1 s after a failed sequence it begins again. Record memory has been without its supply, and holds no Watch
store. -/
def sequenceRetry (s : State) : State :=
  match s.power.retryAt with
  | some t => if s.reached t && !s.power.resetN then (s.modPower fun p => { p with store := none }).beginSequence else s
  | none => s

/-- SEQUENCE_RETRY. -/
def execSequenceRetry (s : State) : Result := .next (sequenceRetry s)

/-- Every Mint stops with its supply (R430). -/
def State.stopMints (s : State) : State := (List.finRange 5).foldl (fun s m => s.stopMint m) s

/-- Some rail should be on: one that is enabled and that the sequence does not still wait for (R383, R384). -/
def State.railsDue (s : State) : Bool :=
  (List.finRange 6).any fun k => s.power.pen[k] && (match s.power.waiting with | some (j, _) => j != k | none => true)

/-- BROWN_OUT (R384): a rail that should be on has been outside its window for more than 1 ms. What is not always on is lost;
tolls and the log are kept (R396). -/
def brownOut (s : State) : State :=
  if !s.railsDue then s
  else
    let s1 := s.stopMints.restart
    ({ s1 with hall := { s1.hall with mem := [], bad := [], latent := [] } }.modPower fun p => { p with
      pen := (Vector.replicate 6 false).set 3 s.power.pen[railVddq], railsUp := false, waiting := none, retryAt := none
      holdEnd := some (s.now + mitesPerSec) }).toll 252

/-- BROWN_OUT. -/
def execBrownOut (s : State) : Result := .next (brownOut s)

/-- BROWN_OUT_RESTART (R384): 1 s later the rails and the start-up run as after a RESET_N release. -/
def brownOutRestart (s : State) : State :=
  match s.power.holdEnd with
  | some t => if s.reached t && !s.power.resetN then (s.modImage fun x => { x with released := s.now }).beginSequence else s
  | none => s

/-- BROWN_OUT_RESTART. -/
def execBrownOutRestart (s : State) : Result := .next (brownOutRestart s)

/-- The master addresses regulator channel `k` (R385): it has an address, and in WATCH only VDDQ's channel is read. -/
def State.pmAddressed (s : State) (k : Fin 6) : Bool :=
  s.val F.PWR_RG_CFG_ADDR k != 0 && (s.power.regime != .watch || k == railVddq)

/-- A STATUS_WORD reports a fault: any bit of [15:1] (R385). -/
def statusFaulty (w : BitVec 16) : Bool := w >>> 1 != 0

/-- The STATUS_WORDs that were read are kept; each transaction that failed twice counts toll 252 (R385). -/
def State.readStatus (s : State) (words : Vector (Option (BitVec 16)) 6) : State :=
  (List.finRange 6).foldl (fun s k =>
    if s.pmAddressed k then
      match words[k] with
      | some w => s.modPower fun p => { p with channels := updAt p.channels k fun c => (w, c.2) }
      | none => s.toll 252
    else s) s

/-- A regulator that the master has read reports a fault. -/
def State.regulatorFault (s : State) (words : Vector (Option (BitVec 16)) 6) : Bool :=
  (List.finRange 6).any fun k => s.pmAddressed k && (match words[k] with | some w => statusFaulty w | none => false)

/-- A fault reported by a regulator: FAULT, attention at level alarm, and toll 252 once per assertion of PM_ALERT_N (R385). -/
def State.faultReported (s : State) (words : Vector (Option (BitVec 16)) 6) : State :=
  if s.regulatorFault words then
    (((s.toll 252).setSticky R.PWR_STAT.base (F.PWR_STAT_FAULT.put 1)).attention 3).modPower fun p =>
      { p with alertSeen := true }
  else s

/-- PM_ALERT (R385): PM_ALERT_N is asserted; `words` is what each channel answers, none where the retry fails too. -/
def pmAlert (words : Vector (Option (BitVec 16)) 6) (s : State) : State :=
  ((s.readStatus words).modPower fun p => { p with alertSeen := false }).faultReported words

/-- PM_ALERT. -/
def execPmAlert (words : Vector (Option (BitVec 16)) 6) (s : State) : Result := .next (pmAlert words s)

/-- A ULINEAR16 reading with an exponent, in millivolts; a LINEAR11 reading, in milliamperes (R385). -/
def ulinearMilli (exp : Int) (w : BitVec 16) : Rat := (w.toNat : Rat) * (2 : Rat) ^ exp * 1000
def linear11Milli (w : BitVec 16) : Rat := (signed 11 w.toNat : Rat) * (2 : Rat) ^ signed 5 (w.toNat / 2 ^ 11) * 1000

/-- A reading as a field of `w` bits shows it; the spec states no result outside the field: then it is free. DESIGN CHOICE
(log entry 42). -/
def State.fieldOf (s : State) (w : Nat) (x : Rat) : Nat × State :=
  let i := openRound x
  if 0 ≤ i ∧ i < (2 ^ w : Nat) then (i.toNat, s) else let (y, s1) := s.draw; (y % 2 ^ w, s1)

/-- READ_VOUT of a channel (R385): that of VCORE is shown. -/
def State.takeVout (s : State) (k : Fin 6) (w : Option (BitVec 16)) : State :=
  match w with
  | none => s.toll 252
  | some v =>
    if k = 0 then
      let (mv, t) := s.fieldOf 10 (ulinearMilli (signed 5 (s.val F.PWR_RG_CFG_EXP k)) v)
      t.modPower fun p => { p with vcoreRead := mv }
    else s

/-- READ_IOUT of a channel (R385). -/
def State.takeIout (s : State) (k : Fin 6) (w : Option (BitVec 16)) : State :=
  match w with
  | none => s.toll 252
  | some i =>
    let (ma, t) := s.fieldOf 16 (linear11Milli i)
    t.modPower fun p => { p with channels := updAt p.channels k fun c => (c.1, BitVec.ofNat 16 ma) }

/-- The readings of one channel are taken (R385). -/
def State.takeReading (s : State) (k : Fin 6) (t : Telemetry) : State := (s.takeVout k t.vout).takeIout k t.iout

/-- PMBUS_POLL (R385): STATUS_WORD, READ_VOUT and READ_IOUT of every channel. A fault that no assertion has reported
counts as one assertion's (DEDUCED, log entry 31). DEDUCED (log entry 44). -/
def pmbusPoll (words : Vector Telemetry 6) (s : State) : State :=
  let status := words.map (·.status)
  let s1 := s.readStatus status
  let s2 := (List.finRange 6).foldl (fun s k => if s.pmAddressed k then s.takeReading k words[k] else s) s1
  if s2.regulatorFault status then (if s2.power.alertSeen then s2 else s2.faultReported status)
  else s2.modPower fun p => { p with alertSeen := false }

/-- PMBUS_POLL. -/
def execPmbusPoll (words : Vector Telemetry 6) (s : State) : Result := .next (pmbusPoll words s)

/-- VCORE as its monitor last gave it, in steps of 50 µV, lies in the window of a command (R382). With no reading yet the step is
commanded. -/
def State.vcoreHolds (s : State) (cmd : Nat) : Bool := s.monitorIn (0, 20 * (cmd - 25), 20 * (cmd + 25))

/-- VOUT_COMMAND with a new VCORE in millivolts, ULINEAR16 with exponent EXP, to the nearest step (R385). DEDUCED (log entry 44). -/
def State.sendVout (s : State) (mv : Nat) : State :=
  if s.val F.PWR_RG_CFG_ADDR 0 = 0 then s
  else
    let (x, t) := s.fieldOf 16 ((mv : Rat) / 1000 / (2 : Rat) ^ signed 5 (s.val F.PWR_RG_CFG_EXP 0))
    t.pmSend 0 0x21 (leBytes 2 x)

/-- VCORE_ADAPT (R386): one step of 5 mV up or down, or none, as the speed monitors ask, while VCORE is on. DEDUCED (log entry
44). -/
def vcoreAdapt (up : Option Bool) (s : State) : State :=
  let c := s.power.vcoreCmd
  let next := match up with | some true => min 900 (c + 5) | some false => max 750 (c - 5) | none => c
  if next = c || !s.power.pen[0] || !s.vcoreHolds next then s
  else ({ s with power := { s.power with vcoreCmd := next, sent := [] } }).sendVout next

/-- VCORE_ADAPT. -/
def execVcoreAdapt (up : Option Bool) (s : State) : Result := .next (vcoreAdapt up s)

/-- A stall is shed (R389): stopped after what depends on it; toll 255, its bit of SHED, attention at level alarm. -/
def State.shed (s : State) (n : Fin 16) : State :=
  (((State.stopLeaves (s.above (fnStall n) 32) 32 s).toll 255).setSticky R.PWR_STAT.base
    (F.PWR_STAT_SHED.put (2 ^ n.val))).attention 3

/-- Running stalls are shed in descending number until the LEAN total fits (R389). -/
def State.shedForLean (s : State) : State :=
  (List.finRange 16).reverse.foldl (fun s n => if s.running (fnStall n) && !s.leanFits then s.shed n else s) s

/-- 120 °C, 130 °C and 110 °C in the unit of TJ. -/
def tjLean : Int := 120 * 128
def tjWatch : Int := 130 * 128
def tjCool : Int := 110 * 128

/-- LEAN is forced (R389, R394). DEDUCED (log entry 45). -/
def State.forceLean (s : State) : State :=
  (((s.recharge.modPower fun p => { p with forced := true }).toll 253).attention 3).shedForLean.beginChange .lean

/-- WATCH is forced (R390, R394). DEDUCED (log entry 45). -/
def State.forceWatch (s : State) : State :=
  ((s.modPower fun p => { p with forced := true, watchForced := true, watchAt := some s.now }).toll 254).attention 3

/-- The wake begins (R393): the rails are switched on. FORCED clears with it (R394). -/
def State.beginWake (s : State) : State :=
  (s.modPower fun p => { p with waking := true, forced := false, wakes := [] }).beginSequence

/-- A wake that waits begins where WATCH is in force and temperature does not hold it (R394). -/
def State.wakeIfDue (s : State) : State :=
  if s.power.regime = .watch ∧ !s.power.waking ∧ !s.power.wakes.isEmpty ∧ !(s.power.forced ∧ tjCool ≤ s.power.tj) then
    s.beginWake
  else s

/-- Wake source `i` has fired (R392): its bit of CAUSE; while WATCH is being entered the wake waits for the entry, and one that is under
way goes on. -/
def State.takeWake (s : State) (i : Fin 5) : State :=
  if (s.val F.PWR_WAKE_EN_EN).testBit i.val && (s.power.regime = .watch || s.power.watchAt.isSome) then
    let t := s.setSticky R.PWR_WAKE_CAUSE.base (F.PWR_WAKE_CAUSE_CAUSE.put (2 ^ i.val))
    if s.power.waking then t
    else (t.modPower fun p => { p with wakes := if p.wakes.contains i then p.wakes else p.wakes ++ [i] }).wakeIfDue
  else s

/-- A wake source has fired: outside WATCH it is remembered for the rest of its tick (Power coincidences). -/
def State.wakeEvent (s : State) (i : Fin 5) : State :=
  if s.power.regime = .watch || s.power.watchAt.isSome then s.takeWake i
  else { s with ev := { s.ev with wakes := s.ev.wakes ++ [i] } }

/-- A comparator that has tripped in the tick wakes (R99), and wakes that fired in the tick in which REQ = WATCH was written, but
before it, follow the entry too (Power coincidences). -/
def State.keepWakes (s : State) : State :=
  let s1 := if s.ev.trips then s.takeWake 1 else s
  if s1.power.watchAt.isSome ∧ !s1.power.forced then s1.ev.wakes.foldl State.takeWake s1 else s1

/-- The magnitude of the tally's speed in turns per second, 16.16 (R392): sub-grains a tick, over 32 mites. -/
def State.tallyTps (s : State) : Rat :=
  ratAbs s.tally.spd / subgrainsPerTurn * 65536 * (mitesPerSec : Rat) / mitesPerTick

/-- Whether source `i` fires: the tally's speed and the trip of a Watch comparator in the present tick are the device's own; the rest
comes from outside. -/
def State.wakeFires (s : State) (i : Fin 5) : Bool :=
  if i = 0 then decide ((s.val F.PWR_WAKE_TPS_TPS : Rat) < s.tallyTps) else if i = 1 then s.ev.trips else true

/-- WAKE_EVENT (R392). The WAKE pin's source stands for 1 µs of high level behind its glitch filter (20_package R414; log entry 63). -/
def execWakeEvent (source : Fin 5) (s : State) : Result := .next (if s.wakeFires source then s.wakeEvent source else s)

/-- THERMAL follows TJ (R394). -/
def State.thermalWarning (s : State) : State :=
  let warn : Int := s.val F.PWR_THERM_TJ_WARN
  if warn * 128 ≤ s.power.tj ∧ !s.power.thermal then (s.modPower fun p => { p with thermal := true }).attention 2
  else if s.power.tj < (warn - 5) * 128 then s.modPower fun p => { p with thermal := false }
  else s

/-- At 120 °C in FULL, or on the way to it, the device is forced to LEAN (R394 and the coincidence of 18_power). -/
def State.coolDown (s : State) : State :=
  let p := s.power
  if tjLean ≤ p.tj ∧ !p.forced ∧ p.regime ≠ .watch ∧ (p.regime = .full ∨ p.change = some .full) then s.forceLean else s

/-- The highest of the sensors' readings, and the lowest sensor that gives it (R394); `x` is one of them. -/
def Power.hottest (p : Power) (x : Fin 12 × Int) : Fin 12 × Int :=
  let t : Int := (List.finRange 12).foldl (fun a i => match p.temps[i] with | some v => max a v | none => a) x.2
  match (List.finRange 12).find? fun i => p.temps[i] == some t with
  | some i => (i, t)
  | none => x

/-- TEMP_READING (R394): sensor `sensor` reads `t`, in 1/128 °C, and TJ is formed anew. DEDUCED (log entry 44). DEDUCED (log
entry 45). -/
def tempReading (sensor : Fin 12) (t : BitVec 16) (s : State) : State :=
  let s0 := s.modPower fun p => { p with temps := p.temps.set sensor.val (some t.toInt) sensor.isLt }
  let (hot, tj) := s0.power.hottest (sensor, t.toInt)
  let s1 := (s0.modPower fun p => { p with
    tj := tj, sensor := hot.val
    coolSince := if tj < tjCool then some (p.coolSince.getD s.now) else none }).thermalWarning
  let p := s1.power
  if p.regime = .watch then s1.wakeIfDue
  else if tjWatch ≤ p.tj then (if p.watchForced then s1 else s1.forceWatch)
  else s1.coolDown

/-- TEMP_READING. -/
def execTempReading (sensor : Fin 12) (t : BitVec 16) (s : State) : Result := .next (tempReading sensor t s)

/-- The regime that REQ names. -/
def State.requested (s : State) : Regime :=
  match s.val F.PWR_REGIME_REQ with | 0 => .full | 1 => .lean | _ => .watch

/-- THERMAL_RECOVERY (R394): TJ has stayed below 110 °C for 10 s; the regime returns to REQ. -/
def thermalRecovery (s : State) : State :=
  match s.power.coolSince with
  | some t =>
    if s.power.forced && s.power.regime != .watch && s.power.watchAt.isNone && s.reached (t + 10 * mitesPerSec) then
      (s.modPower fun p => { p with forced := false }).askRegime s.requested
    else s
  | none => s

/-- THERMAL_RECOVERY. -/
def execThermalRecovery (s : State) : Result := .next (thermalRecovery s)

end Sys2Proof.Machine
end

