-- ==== Sys2Proof/Machine/Scan.lean ====
section
/-! DEFINITION. The boundary-scan port and the GPIO balls (17_image R366, R367; 20_package R410, R426), which TICK
moves by the edges that come with it (log entry 68). -/

namespace Sys2Proof.Machine

/-- The TAP controller after a rising edge of TCK (IEEE 1149.1). PRESUMED (log entry 68). -/
def TapState.next (t : TapState) (tms : Bool) : TapState :=
  match t with
  | .testLogicReset => if tms then .testLogicReset else .runTest
  | .runTest => if tms then .selectDr else .runTest
  | .selectDr => if tms then .selectIr else .captureDr
  | .captureDr => if tms then .exit1Dr else .shiftDr
  | .shiftDr => if tms then .exit1Dr else .shiftDr
  | .exit1Dr => if tms then .updateDr else .pauseDr
  | .pauseDr => if tms then .exit2Dr else .pauseDr
  | .exit2Dr => if tms then .updateDr else .shiftDr
  | .updateDr => if tms then .selectDr else .runTest
  | .selectIr => if tms then .testLogicReset else .captureIr
  | .captureIr => if tms then .exit1Ir else .shiftIr
  | .shiftIr => if tms then .exit1Ir else .shiftIr
  | .exit1Ir => if tms then .updateIr else .pauseIr
  | .pauseIr => if tms then .exit2Ir else .pauseIr
  | .exit2Ir => if tms then .updateIr else .shiftIr
  | .updateIr => if tms then .selectDr else .runTest

/-- Test-Logic-Reset, in which the instruction is BYPASS (R426): the levels on the balls are the board's. -/
def Tap.cleared (t : Tap) : Tap := { t with ctrl := .testLogicReset, instr := .bypass }

/-- The instruction that bits shifted in select: BYPASS for all ones (IEEE 1149.1), otherwise as the port's codes say, which the spec
does not give. DESIGN CHOICE (log entry 84). -/
def tapInstr (ir : List Bool) : TapInstr := if ir.all id then .bypass else if Config.scanInstr ir then .boundary else .bypass

/-- What a rising edge of TCK does in the state before it: the cells of the GPIO balls capture their levels as those of any digital
input do (R410), and shift towards TDO, GPIO0 first. DESIGN CHOICE (log entry 84): the order of the chain, of which the model holds the
GPIO balls. -/
def Tap.edge (t : Tap) (tdi : Bool) : Tap :=
  match t.ctrl, t.instr with
  | .captureDr, .boundary => { t with cells := t.gpio }
  | .captureDr, .bypass => { t with bypass := false }
  | .shiftDr, .boundary => { t with tdo := t.cells[0], cells := (t.cells >>> 1) ||| (BitVec.ofBool tdi).zeroExtend 16 <<< 15 }
  | .shiftDr, .bypass => { t with tdo := t.bypass, bypass := tdi }
  | .captureIr, _ => { t with ir := [] }
  | .shiftIr, _ => { t with ir := tdi :: t.ir }
  | .updateIr, _ => { t with instr := tapInstr t.ir }
  | _, _ => t

/-- The TAP after a rising edge of TCK. With JTAG_LOCK in effect it stays in Test-Logic-Reset (R367). -/
def State.tapClock (s : State) (tms tdi : Bool) : State :=
  if s.tapHeld then { s with tap := s.tap.cleared }
  else
    let u := { s.tap.edge tdi with ctrl := s.tap.ctrl.next tms }
    { s with tap := if u.ctrl = .testLogicReset then u.cleared else u }

/-- The GPIO balls and the boundary-scan port in a tick; VIO is off in WATCH, and they are not powered (R411). -/
def State.scanPins (s : State) (x : TickIn) : State :=
  if s.power.regime = .watch then { s with tap := {} }
  else x.scan.foldl (fun s e => s.tapClock e.1 e.2) { s with tap := { s.tap with gpio := x.gpio } }

/-- Whether TDO is driven: only while a register is shifted, and never with JTAG_LOCK in effect (R367). -/
def State.tdoDriven (s : State) : Bool := !s.tapHeld && (s.tap.ctrl == .shiftDr || s.tap.ctrl == .shiftIr)

/-- The fuses have been read: with JTAG_LOCK in effect the TAP is in Test-Logic-Reset from then on (R367, R374). -/
def State.lockTap (s : State) : State := if s.tapHeld then { s with tap := s.tap.cleared } else s

end Sys2Proof.Machine
end

