-- ==== Sys2Proof/Machine/Startup.lean ====
section
/-! DEFINITION. VAON, RESET_N and the start-up (17_image R370 to R376; 18_power R383), and the addresses that the device
answers to (16_barter R334; 17_image R376). -/

namespace Sys2Proof.Machine

/-- The start-up is over, or has ended in the safe state. -/
def State.inSafe (s : State) : Bool := s.image.phase == .safe

/-- The MAC of R376: DEF_MAC, or the factory MAC, byte 0 in the low bits of each. DEDUCED (log entry 34). -/
def State.defaultMac (s : State) : List Byte :=
  let v := s.image.otpForce[20].toNat + s.image.otpForce[21].toNat % 65536 * 2 ^ 32
  leBytes 6 (if v = 0 then Config.factoryMac.toNat else v)

/-- The MAC address in use (R334, R376): BTR_MAC with byte 0 first, where it is not zero. DEDUCED (log entry 34). -/
def State.mac (s : State) : List Byte :=
  let v := s.val F.BTR_MAC_HI_MACH * 2 ^ 32 + s.val F.BTR_MAC_LO_MACL
  if s.inSafe ∨ v = 0 then s.defaultMac else beBytes 6 v

/-- The IPv4 address in use (R334, R376). DEDUCED (log entry 34). -/
def State.ip (s : State) : List Byte :=
  let v := s.val F.BTR_IP_IP
  let d := s.image.otpForce[19].toNat
  if ¬ s.inSafe ∧ v ≠ 0 then beBytes 4 v
  else if d ≠ 0 then beBytes 4 d
  else
    let m := s.mac.map (·.toNat)
    [169, 254, BitVec.ofNat 8 (1 + m.getD 4 0 % 254), BitVec.ofNat 8 (m.getD 5 0)]

/-- A new device nonce: random and not zero, with an empty window (R338). -/
def State.newNonce (s : State) : State :=
  let (x, s1) := s.draw
  { s1 with barter := { s1.barter with nonce := 1 + x % (2 ^ 32 - 1), hi := 0, seen := [] } }

/-- The field link comes up (R333, R373), under CSMA/CD until PLCA reports that it is OK. -/
def State.linkUp (s : State) : State :=
  let t := s.newNonce
  { t with barter := { t.barter with up := true, plcaOk := false, csma := true } }

/-- The slot fails: its reason is recorded, and logged with the toll (R369, R375, R376, R402, IMG_STAT). -/
def State.slotFails (s : State) (slot reason : Nat) : State :=
  ((s.modImage fun x => if slot = 0 then { x with failA := reason } else { x with failB := reason }).logEvent 0x07 slot 250
    reason).toll 250

/-- A slot is checked, then read again and applied, `reread` being the bytes of the flash that the second reading gives otherwise; every
SCRC is computed anew before anything is applied (R369; DESIGN CHOICE, log entry 40). The answer says whether it runs. If the apply pass
fails, every parameter is as before, with the region table empty; Hall and the fuses keep what has been written (R371). -/
def State.trySlot (s : State) (slot : Nat) (reread : List (Nat × Byte)) : Bool × State :=
  match s.checkSlot slot with
  | (.error r, s1) => (false, s1.slotFails slot r)
  | (.ok f, s1) =>
    let again := s1.readAgain f reread
    if again.any fun x => !x.good then (false, s1.slotFails slot 4)
    else
      let (t, ok) := s1.applyImage { f with sections := again }
      if ok then (true, t.modImage fun x => { x with slot := slot })
      else
        let kept := s1.modImage fun x => { x with otp := t.image.otp, otpUntil := t.image.otpUntil }
        (false, { kept with hall := t.hall }.slotFails slot 11)

/-- The device enters the safe state (R376). -/
def State.enterSafe (s : State) : State :=
  let otp := s.image.otpForce
  let key := if otpReckeySet otp[16] then ((otp.toList.drop 8).take 8).flatMap fun w => leBytes 4 w.toNat
    else List.replicate 32 0
  let t := ({ s with barter := { s.barter with key := key } }.modImage fun x => { x with phase := .safe, source := 2 }).attention 3
  t.linkUp

/-- The first stage of start-up: OTP, SFDP and directory are read, and a slot is checked and applied (R357 to R359, R366,
R370, R371, R375). DEDUCED (log entry 43). -/
def State.applyStage (s : State) (sfdp : Option Sfdp) (reread : List (Nat × Byte)) : State :=
  let s0 := (s.modImage fun x => { x with otpForce := x.otp }).lockTap
  match sfdp with
  | none => ((s0.slotFails 0 0).slotFails 1 0).enterSafe
  | some f =>
    let s1 := s0.modImage fun x => { x with
      dens := f.usable, quad := f.quad, addr4 := f.addr4 && decide (2 ^ 24 < f.density), sector := max 1 f.sector
      eraseMites := f.eraseMites, pageMites := f.pageMites }
    let first := s1.preferredSlot
    match s1.trySlot first reread with
    | (true, t) => (t.pmConfigure.modImage fun x => { x with phase := .applying, source := 0 }).linkUp
    | (false, s2) =>
      match s2.trySlot (1 - first) reread with
      | (true, t) =>
        ((t.pmConfigure.modImage fun x => { x with phase := .applying, source := 1 }).attention 2).linkUp
      | (false, s3) => s3.enterSafe

/-- The second stage: record memory is trained, and the functions of START are started (R283, R370, R372). DEDUCED (log
entry 43). -/
def State.startStage (s : State) (t : Training) : State :=
  let s1 := (s.trainDram t).startRelief
  (s1.startAll s1.image.starts).modImage fun x => { x with
    phase := .running, starts := [], startMs := (s.now - x.released) / mitesPerMs }

/-- STARTUP (R370): the next stage of the start-up, once the rails are in regulation and RESET_N is released. `sfdp`: what
the flash answers, none where the header is absent or malformed; `reread`: the bytes that the apply pass reads otherwise than the check
pass; `t`: what the sweeps of the training find. DEDUCED (log entry 43). -/
def startup (sfdp : Option Sfdp) (reread : List (Nat × Byte)) (t : Training) (s : State) : State :=
  if s.power.resetN || !s.power.railsUp then s
  else match s.image.phase with
    | .down => s.applyStage sfdp reread
    | .applying => s.startStage t
    | _ => s

/-- STARTUP. -/
def execStartup (sfdp : Option Sfdp) (reread : List (Nat × Byte)) (t : Training) (s : State) : Result :=
  .next (startup sfdp reread t s)

/-- The LAUNCH entries are armed in the tick after the last START (R370). -/
def State.armEntries (s : State) : State :=
  if s.image.phase = .running ∧ ¬ s.image.arms.isEmpty then
    let s1 := s.image.arms.foldl (fun s (k, w) => launchArmWrite k w s) s
    s1.modImage fun x => { x with arms := [] }
  else s

/-- VAON_POWER_UP (R70, R414): VAON enters its window: the chronicle starts at zero, PEN0 to PEN5 are low. Flash and fuses
are as they were. A RESET_N released before is taken as released 1 ms from now (20_package, coincidences). DESIGN CHOICE (log
entry 63). -/
def vaonPowerUp (s : State) : State :=
  if s.power.vaon then s
  else
    { image := s.image.outlives, pending := s.pending, free := s.free
      power := { releaseAt := if s.power.resetN then none else some mitesPerMs } }

/-- VAON_POWER_UP. -/
def execVaonPowerUp (s : State) : Result := .next (vaonPowerUp s)

/-- VAON_REMOVAL (R70, R89, R396, R401): everything but flash and fuses is lost. DESIGN CHOICE (log entry 63). -/
def vaonRemoval (s : State) : State :=
  { image := s.interruptFlash.image.outlives, pending := s.pending, free := s.free, power := { vaon := false } }

/-- VAON_REMOVAL. -/
def execVaonRemoval (s : State) : Result := .next (vaonRemoval s)

/-- RESET_N_ASSERT: everything that is not always on is at its reset value; no rail is switched off (R383). The command stands for the
level behind the pin's glitch filter, which passes no pulse shorter than 200 ns (20_package R414; log entry 63). -/
def resetAssert (s : State) : State :=
  if s.power.vaon then { s.resetAll.modPower fun p => { p with resetN := true } with ev := { reset := true } }
  else s.modPower fun p => { p with resetN := true }

/-- RESET_N_ASSERT. -/
def execResetNAssert (s : State) : Result := .next (resetAssert s)

/-- RESET_N_RELEASE (R383), behind the pin's glitch filter (20_package R414): the rails are sequenced and the start-up begins. While
VAON is outside its window, the release takes effect later (20_package, coincidences); while a brown-out holds the enables low, they
stay low until its second is over (R384). -/
def resetRelease (s : State) : State :=
  if s.power.vaon && s.power.resetN then
    let t := (s.modPower fun p => { p with resetN := false, releaseAt := none }).modImage fun x => { x with released := s.now }
    match s.power.holdEnd with
    | some e => if s.reached e then t.beginSequence else t
    | none => t.beginSequence
  else s.modPower fun p => { p with resetN := false }

/-- A release of RESET_N that VAON has held back takes effect. -/
def State.takeRelease (s : State) : State :=
  match s.power.releaseAt with
  | some t => if s.reached t then resetRelease s else s
  | none => s

/-- RESET_N_RELEASE. -/
def execResetNRelease (s : State) : Result := .next (resetRelease s)

/-- INTERNAL_RESET (R350): 1 ms after a RESET_REQUEST's reply, as though RESET_N had been asserted and released. -/
def internalReset (s : State) : State :=
  match s.barter.resetAt with
  | some t => if s.reached t then resetRelease (resetAssert s) else s
  | none => s

/-- INTERNAL_RESET. -/
def execInternalReset (s : State) : Result := .next (internalReset s)

end Sys2Proof.Machine
end

