-- ==== Sys2Proof/Machine/Clerk.lean ====
section
/-! DEFINITION. Barter requests: how the Clerk takes one up, how a reply is formed, and the requests about parameters,
functions, attention, tolls and logs (16_barter R336 to R350). -/

namespace Sys2Proof.Machine

/-- The Barter part changed. -/
def State.modBarter (s : State) (f : Barter → Barter) : State := { s with barter := f s.barter }

/-- A big-endian number of `n` bytes at an offset of a body (R7). -/
def beAt (b : List Byte) (i n : Nat) : Nat := ofBeBytes ((b.drop i).take n)

/-- A payload with its trailer: the first 8 bytes of the HMAC over every byte before it (R337). -/
def State.sealed (s : State) (payload : List Byte) : List Byte :=
  payload ++ (hmacSha256 s.barter.key payload).take 8

/-- The payload of a reply without its trailer (R336, R342). -/
def State.replyPayload (s : State) (r : BarterRequest) (flags : Nat) (code : Code) (body : List Byte) : List Byte :=
  [0x56, 0x72, 1, BitVec.ofNat 8 flags] ++ beBytes 4 r.seq ++ beBytes 2 r.op ++ beBytes 2 body.length ++
    beBytes 4 s.barter.nonce ++ beBytes 2 (s.statusWord code) ++ beBytes 2 s.status.aseq ++ body

/-- A datagram leaves for the source of a request (R334). DEDUCED (log entry 60). -/
def State.sendTo (s : State) (r : BarterRequest) (payload : List Byte) : State :=
  s.modBarter fun b => { b with sent := some (.udp r.mac r.ip r.port (s.sealed payload)) }

/-- A place among the kept replies is that of request `q` (R339). -/
def Kept.of (k : Kept) (q : BarterRequest) : Bool := k.seq == q.seq && k.trailer == q.trailer

/-- A request is answered: the code and the body, and for one that came in a frame the reply, which is kept while its request
is among the last 8 accepted (R339, R341). DEDUCED (log entry 60). -/
def State.reply (s : State) (r : Option BarterRequest) (code : Code) (body : List Byte) (flags : Nat := 0) : State :=
  let s1 := (s.answer code).modBarter fun b => { b with reply := body }
  match r with
  | none => s1
  | some q =>
    let payload := s1.replyPayload q flags code body
    (s1.modBarter fun b => { b with kept := b.kept.map fun k => if k.of q then { k with payload := payload } else k }).sendTo q payload

/-- The Clerk ends its work on a frame with the reply: the accesses that it had still to make for it are reset with it (R264). -/
def State.finish (s : State) (r : Option BarterRequest) (code : Code) (body : List Byte) (flags : Nat := 0) : State :=
  let t := s.reply r code body flags
  match r with
  | none => t
  | some _ => (t.resetPort false 21).resetPort true 3

/-- BUSY_RETRY for a full queue or the deadline, without effect: toll 245, but during start-up (R340, R373). -/
def State.turnBack (s : State) (q : BarterRequest) : State :=
  (s.tollIf (s.image.phase == .running || s.image.phase == .safe) 245).reply (some q) .busyRetry []

/-- The tick in which 900 ms had passed since a request's registration is over (R340). -/
def State.tooLate (s : State) (q : BarterRequest) : Bool := decide (q.at_ + 900 * mitesPerMs < s.now)

/-- Opcodes that a device in the safe state executes (R376). -/
def safeOpcodes : List Nat := [0x0001, 0x0002, 0x000D, 0x000E, 0x0011]

/-- The code with which a request is turned away before it is executed (R373, R376). -/
def State.turnedAway (s : State) (op : Nat) : Option Code :=
  match s.image.phase with
  | .running => none
  | .safe => if safeOpcodes.contains op then none else some .badOpcode
  | _ => if op = 0x0001 then none else some .busyRetry

/-- A waiting request is the one that a command names. -/
def BarterRequest.names (r : BarterRequest) (op flags : Nat) (body : List Byte) : Bool :=
  r.op == op && r.body == body && (op != 0x0001 || r.flags % 2 == flags)

/-- A request answered at its deadline whose execution comes in the same tick stands again at the head of the queue: its reply is sent
and BUSY_RETRY is not (Barter coincidences). -/
def State.unexpire (s : State) (op flags : Nat) (body : List Byte) : State :=
  match s.ev.expired with
  | some (q, old) =>
    if q.names op flags body then
      let t := (if s.image.phase == .running || s.image.phase == .safe then s.untoll 245 else s).modBarter fun b => { b with
        queue := q :: b.queue, kept := b.kept.map fun k => if k.of q then { k with payload := [] } else k
        reply := old.reply, sent := old.sent }
      { t with ev := { t.ev with expired := none } }
    else s
  | none => s

/-- The Clerk takes up a request, unless it still works on one (R31): the oldest that waits, where it is the one named; where none
waits, the named one as a request whose frame is not part of the model; and none where another is the oldest. One that is too late
is answered without effect (R340). DEDUCED (log entry 32). -/
def State.clerk (s : State) (op : Nat) (body : List Byte) (act : Option BarterRequest → State → State) (flags : Nat := 0) :
    State :=
  if s.barter.run.isSome || s.barter.work.isSome then s
  else
    let s := s.unexpire op flags body
    let run (r : Option BarterRequest) (t : State) : State := match t.turnedAway op with
      | some c => (t.tollIf (c == .badOpcode && (op == 0x0004 || op == 0x0005)) 244).finish r c []
      | none => act r t
    match s.barter.queue with
    | q :: rest =>
      if q.names op flags body then
        let t := s.modBarter fun b => { b with queue := rest }
        if s.tooLate q then t.turnBack q else run (some q) t
      else s
    | [] => run none s

/-- PING (R338, R345): the chronicle. -/
def pingBody (s : State) : List Byte := beBytes 10 s.now ++ [0, 0]

/-- PING. -/
def execPing (body : List Byte) (s : State) : Result :=
  .next (s.clerk 0x0001 body fun r t => if body.isEmpty then t.finish r .ok (pingBody t) else t.finish r .badParam [])

/-- RENEW (R338): a PING with RENEW draws a new nonce, and its reply carries it with RENEWED set. DEDUCED (log entry 38).
-/
def renew (r : Option BarterRequest) (s : State) : State :=
  let t := s.newNonce
  t.finish r .ok (pingBody t) 2

/-- RENEW. -/
def execRenew (body : List Byte) (s : State) : Result :=
  .next (s.clerk 0x0001 body (fun r t => if body.isEmpty then renew r t else t.finish r .badParam []) 1)

/-- The next item of a READ_PARAM or WRITE_PARAM (R346): its bytes, its code, and the state. An item that is not read has
no value in the spec: it is free. DESIGN CHOICE (log entry 37). -/
def State.doItem (s : State) (write : Bool) (n v : Nat) : List Byte × Code × State :=
  if write then
    let t := s.writeParam n (BitVec.ofNat 32 v)
    (beBytes 2 n ++ [BitVec.ofNat 8 t.code.num, 0], t.code, t)
  else
    match s.readParam n with
    | (some w, t) => (beBytes 2 n ++ [0, 0] ++ beBytes 4 w.toNat, .ok, t)
    | (none, t) =>
      let (x, t1) := t.draw
      (beBytes 2 n ++ [BitVec.ofNat 8 Code.badParam.num, 0] ++ beBytes 4 x, .badParam, t1)

/-- One item in the present tick; after the last the reply is formed, with the code of the first item that is not OK (R346). -/
def State.runItem (s : State) : State :=
  match s.barter.run with
  | none => s
  | some p =>
    match p.items with
    | [] => (s.modBarter fun b => { b with run := none }).finish p.req p.code (beBytes 2 p.count ++ [0, 0] ++ p.out)
    | (n, v) :: rest =>
      let (bs, c, t) := s.doItem p.write n v
      let p1 := { p with items := rest, out := p.out ++ bs, code := if p.code = .ok then c else p.code }
      if rest.isEmpty then
        (t.modBarter fun b => { b with run := none }).finish p.req p1.code (beBytes 2 p.count ++ [0, 0] ++ p1.out)
      else t.modBarter fun b => { b with run := some p1 }

/-- READ_PARAM and WRITE_PARAM begin with their first item (R346): `k` bytes an item. -/
def beginItems (write : Bool) (k : Nat) (body : List Byte) (r : Option BarterRequest) (s : State) : State :=
  let n := beAt body 0 2
  if n = 0 ∨ 64 < n ∨ body.length ≠ 2 + k * n then s.finish r .badParam []
  else
    let items := (pieces n k (body.drop 2)).map fun e => (beAt e 0 2, beAt e 2 (k - 2))
    (s.modBarter fun b => { b with run := some { req := r, write := write, count := n, items := items } }).runItem

/-- READ_PARAM. -/
def execReadParam (body : List Byte) (s : State) : Result := .next (s.clerk 0x0002 body (beginItems false 2 body))

/-- WRITE_PARAM. -/
def execWriteParam (body : List Byte) (s : State) : Result := .next (s.clerk 0x0003 body (beginItems true 6 body))

/-- A STOP_FN or START_FN request, of which no two take effect in one tick (R31). DEDUCED (log entry 32). -/
def State.clerkFn (s : State) (op : Nat) (body : List Byte) (act : Option BarterRequest → State → State) : State :=
  if s.ev.fnMoved then s
  else
    let t := s.clerk op body act
    if t.run == s.run then t else { t with ev := { t.ev with fnMoved := true } }

/-- STOP_FN (R28, R30, R347). -/
def stopRequest (body : List Byte) (r : Option BarterRequest) (s : State) : State :=
  if body.length ≠ 2 then (s.toll 244).finish r .badParam []
  else let t := s.stopFn (beAt body 0 1); t.finish r t.code []

/-- STOP_FN. -/
def execStopFn (body : List Byte) (s : State) : Result := .next (s.clerkFn 0x0004 body (stopRequest body))

/-- START_FN (R24 to R29, R345, R347). -/
def startRequest (body : List Byte) (r : Option BarterRequest) (s : State) : State :=
  if body.length ≠ 2 then (s.toll 244).finish r .badParam [0, 0, 0, 0]
  else let (w, t) := s.startFn (beAt body 0 1); t.finish r t.code (beBytes 4 w.toNat)

/-- START_FN. -/
def execStartFn (body : List Byte) (s : State) : Result := .next (s.clerkFn 0x0005 body (startRequest body))

/-- ACK_ATTN (R344): the masked items, but for those whose event falls in the same tick. -/
def ackAttn (body : List Byte) (r : Option BarterRequest) (s : State) : State :=
  if body.length ≠ 4 then s.finish r .badParam []
  else if beAt body 0 2 ≠ s.status.aseq then s.finish r .range []
  else
    let clears (i : Nat) : Bool := (beAt body 2 2).testBit i && !s.ev.items.contains i
    let x := s.status
    let y := { x with
      level := if clears 0 then 0 else x.level
      attnNew := x.attnNew && !clears 0
      segReady := x.segReady && !clears 1
      measLimit := x.measLimit && !clears 2
      tollMoved := x.tollMoved && !clears 3 }
    { s with status := y, ev := { s.ev with acked := some (r, x) } }.finish r .ok []

/-- An acknowledgement that an attention of the same tick has overtaken is answered RANGE (Barter coincidences). -/
def State.judgeAck (s : State) : State :=
  match s.ev.acked with
  | some (r, _) => if s.ev.ackLost then s.finish r .range [] else s
  | none => s

/-- ACK_ATTN. -/
def execAckAttn (body : List Byte) (s : State) : Result := .next (s.clerk 0x000B body (ackAttn body))

/-- TOLL_READ (R345, R397). -/
def tollRead (body : List Byte) (r : Option BarterRequest) (s : State) : State :=
  let first := beAt body 0 2
  let n := beAt body 2 2
  if body.length ≠ 4 ∨ 255 < first ∨ n = 0 ∨ 256 - first < n then s.finish r .badParam []
  else s.finish r .ok (beBytes 2 first ++ beBytes 2 n ++ (List.range n).flatMap fun i => beBytes 4 (s.tollShown (first + i)))

/-- TOLL_READ. -/
def execTollRead (body : List Byte) (s : State) : Result := .next (s.clerk 0x000F body (tollRead body))

/-- Entry `i` of log 0, the error log, or 1, the DRAM error log, as stored; both are rings (R291, R401). -/
def State.logBytes (s : State) (log i : Nat) : List Byte :=
  if log = 0 then (s.logEntry (i % 256)).bytes
  else (Sparse.get (fun _ => ({} : DramLogEntry)) s.dram.log (i % 64)).bytes

/-- Entries of a log's ring. -/
def logSize (log : Nat) : Nat := if log = 0 then 256 else 64

/-- LOG_READ (R345, R401). -/
def logRead (body : List Byte) (r : Option BarterRequest) (s : State) : State :=
  let log := beAt body 0 1
  let first := beAt body 2 2
  let n := beAt body 4 2
  if body.length ≠ 8 ∨ 1 < log ∨ logSize log ≤ first ∨ n = 0 ∨ 89 < n then s.finish r .badParam []
  else
    let (head, total) := if log = 0 then (s.log.head, s.log.total) else (s.dram.head, s.dram.total)
    s.finish r .ok (beBytes 2 head ++ [0, 0] ++ beBytes 4 total ++ (List.range n).flatMap fun i => s.logBytes log (first + i))

/-- LOG_READ. -/
def execLogRead (body : List Byte) (s : State) : Result := .next (s.clerk 0x0010 body (logRead body))

/-- RESET_REQUEST (R350): 1 ms after the reply the device resets. -/
def resetRequest (body : List Byte) (r : Option BarterRequest) (s : State) : State :=
  if body.length ≠ 4 ∨ beAt body 0 2 ≠ 0x5253 then s.finish r .badParam []
  else (s.finish r .ok []).modBarter fun b => { b with resetAt := some (s.now + mitesPerMs) }

/-- RESET_REQUEST. -/
def execResetRequest (body : List Byte) (s : State) : Result := .next (s.clerk 0x0011 body (resetRequest body))

/-- REQUEST_DEADLINE (R340): the oldest request that waits has not begun 900 ms after its registration; one whose execution comes in
the same tick is executed after all. -/
def requestDeadline (s : State) : State :=
  match s.barter.queue with
  | q :: rest =>
    if s.reached (q.at_ + 900 * mitesPerMs) then
      let t := (s.modBarter fun b => { b with queue := rest }).turnBack q
      { t with ev := { t.ev with expired := some (q, s.barter) } }
    else s
  | [] => s

/-- REQUEST_DEADLINE. -/
def execRequestDeadline (s : State) : Result := .next (requestDeadline s)

end Sys2Proof.Machine
end

