-- ==== Sys2Proof/Machine/Fetch.lean ====
section
/-! DEFINITION. The fetches and the upload of an overlay (16_barter R345, R348, R349; 08_records R200; 11_steelyard R244). -/

namespace Sys2Proof.Machine

/-- Sixteen bytes of Hall read by the Clerk: zero where the access answers with an error (R348). -/
def State.clerkWord (s : State) (a : Nat) : List Byte × Bool × State :=
  let t := hallRead 21 (BitVec.ofNat 27 a) .clean .clean s
  (if t.hall.answer.error then List.replicate 16 0 else leBytes 16 t.hall.answer.word.toNat, t.hall.answer.error, t)

/-- `n` words of Hall from a word address on, read by the Clerk: the bytes, and whether an access answered with an error. -/
def State.clerkWords (s : State) : Nat → Nat → List Byte × Bool × State
  | 0, _ => ([], false, s)
  | n + 1, a =>
    let (b, e, t) := s.clerkWord a
    let (bs, es, u) := t.clerkWords n (a + 16)
    (b ++ bs, e || es, u)

/-- A segment number has closed: the last closed one is not behind it (R199). -/
def Stall.closed (t : Stall) (q : Nat) : Bool := decide ((t.lastSeg + 2 ^ 40 - q) % 2 ^ 40 < 2 ^ 39)

/-- Headers of consecutive segments from `q` on, up to `n` (R348). -/
def State.readHeaders (s : State) (st : Fin 16) : Nat → Nat → List (List Byte) × State
  | 0, _ => ([], s)
  | n + 1, q =>
    let t := s.stalls[st]
    let (h, _, s1) := s.readRecord (t.setup.slotAddr q) 64
    if t.setup.ring && t.closed q && leAt h 0x1E 5 == q then
      let (hs, s2) := s1.readHeaders st n ((q + 1) % 2 ^ 40)
      (h :: hs, s2)
    else ([], s1)

/-- FETCH_HDR (R348). -/
def fetchHdr (body : List Byte) (r : Option BarterRequest) (s : State) : State :=
  let stall := beAt body 0 1
  let count := beAt body 1 1
  let first := beAt body 4 8
  if body.length ≠ 12 ∨ 15 < stall ∨ count = 0 ∨ 22 < count ∨ 2 ^ 40 ≤ first then s.finish r .badParam []
  else
    let n : Fin 16 := Fin.ofNat 16 stall
    let q := if first = 2 ^ 40 - 1 then (s.stalls[n]).lastSeg else first
    let (hs, t) := s.readHeaders n count q
    if hs.isEmpty then t.finish r .noData []
    else t.finish r .ok ([BitVec.ofNat 8 hs.length, 0, 0, 0] ++ hs.flatten)

/-- FETCH_HDR. -/
def execFetchHdr (body : List Byte) (s : State) : Result := .next (s.clerk 0x0006 body (fetchHdr body))

/-- FETCH_SEG (R200, R348). -/
def fetchSeg (body : List Byte) (r : Option BarterRequest) (s : State) : State :=
  let stall := beAt body 0 1
  let q := beAt body 4 8
  let offset := beAt body 12 4
  let len := beAt body 16 2
  if body.length ≠ 20 ∨ 15 < stall ∨ 2 ^ 40 ≤ q ∨ len = 0 ∨ 1436 < len then s.finish r .badParam []
  else
    let t := s.stalls[Fin.ofNat 16 stall]
    let u := t.setup
    let (h, _, s1) := s.readRecord (u.slotAddr q) 64
    let stands := u.ring && leAt h 0x1E 5 == q && t.holdsSlot q
    let area := areaBytes u.fmt u.units
    if !stands then s1.finish r .noData []
    else if area ≤ offset then s1.finish r .range []
    else
      let n := min len (area - offset)
      let (bs, bad, s2) := s1.readRecord (u.slotAddr q + 64 + offset) n
      s2.finish r .ok (beBytes 4 offset ++ beBytes 2 n ++ beBytes 2 (bad.toNat + 2 * (decide (n < len)).toNat) ++ bs)

/-- FETCH_SEG. -/
def execFetchSeg (body : List Byte) (s : State) : Result := .next (s.clerk 0x0007 body (fetchSeg body))

/-! ## Work on Hall -/

/-- The word of Hall that an item of the Clerk's work reaches. -/
def ClerkItem.addr : ClerkItem → Option Nat
  | .zeros => none
  | .read a => some a
  | .write a _ => some a

/-- One item of the Clerk's work: the bytes that it gives the reply, and whether its access answered with an error. -/
def State.doWord (s : State) : ClerkItem → List Byte × Bool × State
  | .zeros => (List.replicate 16 0, false, s)
  | .read a => s.clerkWord a
  | .write a w => ([], !s.accessOk 21 a, Machine.hallWrite 21 (BitVec.ofNat 27 a) true true w s)

/-- The bank at which an item has its access; one outside the regions of the port reaches none (R253). -/
def State.bankOf (s : State) (x : ClerkItem) : Option Nat := x.addr.filter fun a => s.accessOk 21 a

/-- One item of the Clerk's work in the present tick, at its bank. -/
def State.reachWord (s : State) (x : ClerkItem) : List Byte × Bool × State :=
  (match s.bankOf x with | some a => s.takeBank 21 a | none => s).doWord x

/-- Words of Hall that the Clerk's port may reach in a tick (R247). -/
def clerkWidth : Nat := 4

/-- Up to `n` items of the Clerk's work in the present tick, in order: each takes its bank, and waits, with those behind it, where the
bank does not let port 21 in (R247). After the last the reply is formed. DESIGN CHOICE (log entry 78). -/
def State.workOn (s : State) : Nat → State
  | 0 => s
  | n + 1 =>
    match s.barter.work with
    | none => s
    | some w =>
      match w.items with
      | [] => s
      | x :: rest =>
        if (s.bankOf x).any fun a => !s.bankFree 21 a then s
        else
          let (bs, e, t) := s.reachWord x
          let q := { w with items := rest, out := w.out ++ bs, bad := w.bad || e }
          if rest.isEmpty then
            (t.modBarter fun b => { b with work := none }).finish q.req (if q.bad then .internal else .ok) q.out
          else (t.modBarter fun b => { b with work := some q }).workOn n

/-- The Clerk begins its work on Hall for a request, with the beginning of the reply; `snap` names the map of whose snapshot it is. -/
def State.beginWork (s : State) (r : Option BarterRequest) (items : List ClerkItem) (out : List Byte) (snap : Option (Fin 8) := none) :
    State :=
  (s.modBarter fun b => { b with work := some { req := r, items := items, out := out, snap := snap } }).workOn clerkWidth

/-- The Clerk's work on Hall in a tick. A tile of a snapshot of which a new copy has begun is refused, so that it holds one instant
(R244). DESIGN CHOICE (log entry 78). -/
def State.clerkWork (s : State) : State :=
  match s.barter.work with
  | some w =>
    if w.snap.any fun k => (s.yards[k]).copying then (s.modBarter fun b => { b with work := none }).finish w.req .busyRetry []
    else s.workOn clerkWidth
  | none => s

/-- FETCH_MEAS (R348): entries of a stall's ledger from an index on, wrapping from 4,095 to 0 (R226). -/
def fetchMeas (body : List Byte) (r : Option BarterRequest) (s : State) : State :=
  let stall := beAt body 0 1
  let first := beAt body 2 2
  let count := beAt body 4 2
  if body.length ≠ 8 ∨ 15 < stall ∨ 4095 < first ∨ count = 0 ∨ 89 < count then s.finish r .badParam []
  else
    let n : Fin 16 := Fin.ofNat 16 stall
    let base := (s.region (s.val F.STL_MEAS_CTRL_REGION 0 n)).base
    s.beginWork r ((List.range count).map fun j => .read (base + 16 * ((first + j) % 4096)))
      (beBytes 2 (s.stalls[n]).head ++ [0, 0] ++ beBytes 4 (s.stalls[n]).total)

/-- FETCH_MEAS. -/
def execFetchMeas (body : List Byte) (s : State) : Result := .next (s.clerk 0x0008 body (fetchMeas body))

/-- The word with the four cells of column `x` from row `y` on of a map at `base`: zeros beyond COLS or ROWS (R231, R244). -/
def State.cellsAt (s : State) (k : Fin 8) (base x y : Nat) : ClerkItem :=
  if s.mapCols k ≤ x ∨ s.mapRows k ≤ y then .zeros else .read (base + 4 * (x * s.mapRows k + y))

/-- The words of tile (a, b) in the order of its payload: column by column, four words each (R244). -/
def State.tileWords (s : State) (k : Fin 8) (base a b : Nat) : List ClerkItem :=
  (List.range 64).map fun i => s.cellsAt k base (16 * a + i / 4) (16 * b + 4 * (i % 4))

/-- FETCH_TILE (R244, R348): the words of a tile are read over several ticks; those of a snapshot are of one instant. -/
def fetchTile (body : List Byte) (r : Option BarterRequest) (s : State) : State :=
  let map := beAt body 0 1
  let source := beAt body 1 1
  let a := beAt body 2 2
  let b := beAt body 4 2
  if body.length ≠ 8 ∨ 7 < map ∨ 1 < source then s.finish r .badParam []
  else
    let k : Fin 8 := Fin.ofNat 8 map
    let snap := source == 1
    if !s.yardRuns k || (snap && !s.flag F.YRD_REGION_SNAP_EN k) then s.finish r .noData []
    else if s.mapCols k ≤ 16 * a ∨ s.mapRows k ≤ 16 * b then s.finish r .range []
    else if snap && (s.yards[k]).copying then s.finish r .busyRetry []
    else s.beginWork r (s.tileWords k (if snap then s.snapBase k else s.mapBase k) a b) [] (if snap then some k else none)

/-- FETCH_TILE. -/
def execFetchTile (body : List Byte) (s : State) : Result := .next (s.clerk 0x0009 body (fetchTile body))

/-- UPLOAD_OVERLAY (R349). -/
def uploadOverlay (body : List Byte) (r : Option BarterRequest) (s : State) : State :=
  let a := beAt body 0 4
  let n := beAt body 4 2
  if n < 16 ∨ 1440 < n ∨ n % 16 ≠ 0 ∨ a % 16 ≠ 0 ∨ body.length ≠ 8 + n ||
      !inOverlay ((List.range 32).map s.region) a n then s.finish r .badParam []
  else s.beginWork r ((List.range (n / 16)).map fun i => .write (a + 16 * i) (BitVec.ofNat 128 (leAt body (8 + 16 * i) 16))) []

/-- UPLOAD_OVERLAY. -/
def execUploadOverlay (body : List Byte) (s : State) : Result := .next (s.clerk 0x000A body (uploadOverlay body))

/-! ## The flash -/

/-- The flash after an operation (R350, R377): a sector is erased before the first page that begins it; programming turns bits
from 1 to 0. -/
def State.flashDone (s : State) (op : FlashOp) : State :=
  let unit := s.eraseUnit op.addr
  let starts := (s.opSectors op).filter fun a => decide (op.addr ≤ a)
  let s1 := starts.foldl (fun s a => s.modImage fun x => { x with
    flash := s.flashErased a unit, torn := x.torn.filter fun t => !(decide (a ≤ t) && decide (t < a + unit)) }) s
  let bytes := op.bytes.zipIdx.map fun (b, i) => (op.addr + i, b &&& Sparse.get flashFill s1.image.flash (op.addr + i))
  s1.modImage fun x => { x with op := none, flash := Sparse.setAll flashFill x.flash bytes }

/-- The time of a flash operation by SFDP's figures. -/
def State.flashMites (s : State) (op : FlashOp) : Nat :=
  ((s.opSectors op).filter fun a => decide (op.addr ≤ a)).length * s.image.eraseMites +
    (unitsOf 256 op.addr op.bytes.length).length * s.image.pageMites

/-- A flash operation begins, where it can end within 1 s of its request's registration; otherwise it does not begin and
the request is turned away at its deadline (R340). DEDUCED (log entry 39). -/
def State.beginFlash (s : State) (r : Option BarterRequest) (op : FlashOp) : State :=
  let at_ := match r with | some q => q.at_ | none => s.now
  if s.now + s.flashMites op ≤ at_ + mitesPerSec then s.modImage fun x => { x with op := some op }
  else (s.toll 245).finish r .busyRetry []

/-- A reply IMAGE_ERROR counts toll 251 (R377). -/
def State.imageError (s : State) (r : Option BarterRequest) : State := (s.toll 251).finish r .imageError []

/-- The running image was loaded from the slot (R350); in the safe state both slots are writable (R376). -/
def State.runsFrom (s : State) (slot : Nat) : Bool := s.image.source != 2 && s.image.slot == slot

/-- IMAGE_WRITE (R345, R350, R377). DEDUCED (log entry 39). -/
def imageWriteRequest (body : List Byte) (r : Option BarterRequest) (s : State) : State :=
  let slot := beAt body 0 1
  let offset := beAt body 4 4
  let n := beAt body 8 2
  if n < 256 ∨ 1280 < n ∨ n % 256 ≠ 0 ∨ offset % 256 ≠ 0 ∨ 1 < slot ∨ body.length ≠ 12 + n ∨ s.slotLen < offset + n then
    s.finish r .badParam []
  else if s.runsFrom slot then s.imageError r
  else if s.image.op.isSome then s.finish r .busyRetry []
  else s.beginFlash r { addr := s.slotAddr slot + offset, bytes := body.drop 12, req := r }

/-- IMAGE_WRITE. -/
def execImageWrite (body : List Byte) (s : State) : Result := .next (s.clerk 0x000D body (imageWriteRequest body))

/-- A directory record (R359). -/
def directoryRecord (seq pref : Nat) : List Byte :=
  let b : List Byte := [0x54, 0x59, 0x56, 0x44] ++ leBytes 4 seq ++ leBytes 1 pref ++ List.replicate 19 0
  b ++ leBytes 4 (crc32 b)

/-- The record that a commit writes: in the sector that does not hold the newer one, SEQ one ahead of it, or 1 (R377). -/
def State.commitRecord (s : State) (slot : Nat) : Nat × List Byte :=
  match s.newerRecord with
  | some (i, seq, _) => (4096 * (1 - i), directoryRecord ((seq + 1) % 2 ^ 32) slot)
  | none => (0, directoryRecord 1 slot)

/-- IMAGE_COMMIT (R369, R377). DEDUCED (log entry 39). -/
def imageCommit (body : List Byte) (r : Option BarterRequest) (s : State) : State :=
  let slot := beAt body 0 1
  if body.length ≠ 4 ∨ 1 < slot then s.finish r .badParam []
  else match s.checkSlot slot with
    | (.error _, t) => t.imageError r
    | (.ok _, t) =>
      if t.preferredSlot = slot then t.finish r .ok []
      else
        let (a, record) := t.commitRecord slot
        t.beginFlash r { addr := a, bytes := record, req := r }

/-- IMAGE_COMMIT, which runs once the flash operation before it is complete (R31). -/
def execImageCommit (body : List Byte) (s : State) : Result :=
  .next (if s.image.op.isSome then s else s.clerk 0x000E body (imageCommit body))

/-- FLASH_OPERATION_DONE (R377): the flash reports the program, and any erase, complete; the request is answered. -/
def flashOperationDone (s : State) : State :=
  match s.image.op with
  | some op => (s.flashDone op).finish op.req .ok []
  | none => s

/-- FLASH_OPERATION_DONE. -/
def execFlashOperationDone (s : State) : Result := .next (flashOperationDone s)

end Sys2Proof.Machine
end

