-- ==== Sys2Proof/Machine/Wharf.lean ====
section
/-! DEFINITION. The Wharf: consignments and their chunks (16_barter R351 to R354). -/

namespace Sys2Proof.Machine

/-- The Wharf part changed. -/
def State.modWharf (s : State) (f : Wharf → Wharf) : State := { s with wharf := f s.wharf }

/-- Bytes in a chunk (R352). -/
def chunkBytes : Nat := 1024

/-- The length of a consignment's stream in bytes (R352). -/
def State.streamBytes (s : State) (kind unit count : Nat) : Nat :=
  match kind with
  | 0 => let u := (s.stalls[Fin.ofNat 16 unit]).setup; if u.ring then count * u.slotBytes else 0
  | 1 => s.mapBytes (Fin.ofNat 8 unit)
  | 2 => 65536
  | _ => 16 * logSize (kind - 3)

/-- The consignment that a CONSIGN body asks for (R351). -/
def State.consignOf (s : State) (body : List Byte) : Consign :=
  let kind := beAt body 4 1
  let unit := beAt body 20 1
  let total := s.streamBytes kind unit (beAt body 32 4)
  let chunks := (total + chunkBytes - 1) / chunkBytes
  let first := beAt body 36 4
  let n := beAt body 40 4
  { cid := beAt body 0 4, kind := kind, port := beAt body 6 2, mac := (body.drop 8).take 6, ip := (body.drop 16).take 4
    unit := unit, snap := beAt body 21 1 == 1, seg := beAt body 24 8, count := beAt body 32 4, next := first
    stop := if n = 0 then chunks else min chunks (first + n), total := total }

/-- A field of a CONSIGN body is out of range (R341, R351). DEDUCED (log entry 48). -/
def Consign.bad (c : Consign) (source : Nat) : Bool :=
  decide (4 < c.kind) || ((c.kind == 0 || c.kind == 2) && decide (15 < c.unit)) || (c.kind == 1 && decide (7 < c.unit)) ||
  (c.kind == 1 && decide (1 < source)) || (c.kind == 0 && (c.count == 0 || decide (2 ^ 20 < c.count) || decide (2 ^ 40 ≤ c.seg)))

/-- The first chunk asked for is not one of the stream, nor chunk 0 of an empty one (R352, R432). DEDUCED (log entry 48). -/
def Consign.beyond (c : Consign) : Bool := c.next != 0 && decide ((c.total + chunkBytes - 1) / chunkBytes ≤ c.next)

/-- A consignment joins the Wharf: in progress where none is, else queued (R354); one of an empty stream ends as it comes to its turn
(R432). -/
def State.takeConsign (s : State) (c : Consign) : State :=
  match s.wharf.current with
  | none => s.modWharf fun w => { w with current := if c.total = 0 then none else some c, cid := c.cid }
  | some _ => s.modWharf fun w => { w with queued := some c }

/-- A consignment is accepted, and its request answered (R352, R354). -/
def State.acceptConsign (s : State) (r : Option BarterRequest) (c : Consign) : State :=
  (s.takeConsign c).finish r .ok
    (beBytes 8 c.total ++ beBytes 4 ((c.total + chunkBytes - 1) / chunkBytes) ++ List.replicate 4 0)

/-- CONSIGN (R351, R352, R354). DEDUCED (log entry 48). -/
def consign (body : List Byte) (r : Option BarterRequest) (s : State) : State :=
  let c := s.consignOf body
  if body.length ≠ 44 ∨ c.bad (beAt body 21 1) then s.finish r .badParam []
  else if !s.running fnWharf then s.finish r .notAdmitted []
  else if c.beyond then s.finish r .badParam []
  else if !s.wharf.link then
    let t := (s.toll 249).finish r .busyRetry []
    { t with ev := { t.ev with linkDown := some (r, c) } }
  else if s.wharf.queued.isSome then s.finish r .busyRetry []
  else if c.kind = 1 ∧ c.snap ∧ (s.yards[Fin.ofNat 8 c.unit]).copying then s.finish r .busyRetry []
  else s.acceptConsign r c

/-- CONSIGN. -/
def execConsign (body : List Byte) (s : State) : Result := .next (s.clerk 0x000C body (consign body))

/-- Bytes of a segments stream from byte `i` on, `n` of them, slot by slot (R352); `fuel` bounds the slots visited. -/
def State.readSlots (s : State) (u : Setup) (seg : Nat) : Nat → Nat → Nat → List Byte × Bool × State
  | 0, _, _ => ([], false, s)
  | fuel + 1, i, n =>
    if n = 0 ∨ u.slotBytes = 0 then ([], false, s)
    else
      let k := i % u.slotBytes
      let m := min n (u.slotBytes - k)
      let (bs, bad, t) := s.readRecord (u.slotAddr ((seg + i / u.slotBytes) % 2 ^ 40) + k) m
      let (rest, bads, t1) := t.readSlots u seg fuel (i + m) (n - m)
      (bs ++ rest, bad || bads, t1)

/-- Bytes of a consignment's stream from byte `i` on, a multiple of 1,024 (R352): read as they stand now. -/
def State.readStream (s : State) (c : Consign) (i n : Nat) : List Byte × Bool × State :=
  match c.kind with
  | 0 => s.readSlots (s.stalls[Fin.ofNat 16 c.unit]).setup c.seg 18 i n
  | 1 =>
    let k : Fin 8 := Fin.ofNat 8 c.unit
    s.clerkWords (n / 16) ((if c.snap then s.snapBase k else s.mapBase k) + i)
  | 2 => s.clerkWords (n / 16) ((s.region (s.val F.STL_MEAS_CTRL_REGION 0 c.unit)).base + i)
  | _ => ((List.range (n / 16)).flatMap fun j => s.logBytes (c.kind - 3) (i / 16 + j), false, s)

/-- The payload of a chunk's datagram (R353). -/
def chunkPayload (c : Consign) (bad : Bool) (data : List Byte) : List Byte :=
  let last := decide (c.total ≤ (c.next + 1) * chunkBytes)
  let head := [0x57, 0x68, 1, BitVec.ofNat 8 (last.toNat + 2 * bad.toNat)] ++ beBytes 4 c.cid ++ beBytes 4 c.next
  head ++ beBytes 4 (crc32 (head ++ data)) ++ data

/-- The consignment in progress is over: the queued one takes its place (R354). -/
def Wharf.advance (w : Wharf) (c : Consign) : Wharf :=
  if c.next + 1 < c.stop then { w with current := some { c with next := c.next + 1 } }
  else match w.queued with
    | some q => { w with current := if q.total = 0 then none else some q, queued := none, cid := q.cid }
    | none => { w with current := none }

/-- The data of a chunk pass through the BARTER region of Hall, written through port 19 or 21 and read by the Wharf through port 23 (R352);
the region's chunk places are used in turn. DESIGN CHOICE (log entry 92). -/
def State.passRegion (s : State) (chunk : Nat) (data : List Byte) : List Byte × State :=
  let a := (s.region (s.val F.WHF_CTRL_REGION)).base + chunk % 64 * chunkBytes
  let t := s.hallWrite a (data ++ List.replicate ((16 - data.length % 16) % 16) 0)
  (memBytes t.hall.mem a data.length, t)

/-- WHARF_CHUNK (R352, R353): the next chunk of the consignment in progress leaves. DEDUCED (log entry 48). -/
def wharfChunk (s : State) : State :=
  match s.wharf.current with
  | none => s
  | some c =>
    if !s.wharf.link then s
    else
      let i := c.next * chunkBytes
      let (stream, bad, s1) := s.readStream c i (min chunkBytes (c.total - i))
      let (data, t) := s1.passRegion c.next stream
      t.modWharf fun w => { w.advance c with
        sent := (w.sent + 1) % 2 ^ 32, last := chunkPayload c bad data, lastTo := (c.mac, c.ip, c.port)
        lastFrom := (beBytes 6 (s.val F.WHF_MAC_HI_MACH * 2 ^ 32 + s.val F.WHF_MAC_LO_MACL), s.ip, 47743) }

/-- WHARF_CHUNK. -/
def execWharfChunk (s : State) : Result := .next (wharfChunk s)

/-- WHARF_LINK_UP (R351): a CONSIGN that the present tick has refused for want of the link is accepted (Wharf coincidences), unless it
would have met another refusal. -/
def wharfLinkUp (s : State) : State :=
  let t := s.modWharf fun w => { w with link := true }
  match s.ev.linkDown with
  | some (r, c) =>
    let u : State := { t.untoll 249 with ev := { t.ev with linkDown := none } }
    if c.kind = 1 ∧ c.snap ∧ (u.yards[Fin.ofNat 8 c.unit]).copying then u.finish r .busyRetry [] else u.acceptConsign r c
  | none => t

/-- WHARF_LINK_UP. -/
def execWharfLinkUp (s : State) : Result := .next (wharfLinkUp s)

/-- WHARF_LINK_LOSS (R354): the consignment in progress and the queued one are abandoned, with toll 248 for each. -/
def wharfLinkLoss (s : State) : State :=
  if s.wharf.link then
    let n := s.wharf.current.isSome.toNat + s.wharf.queued.isSome.toNat
    let t := s.modWharf fun w => { w with link := false, current := none, queued := none }
    if n = 0 then t else t.toll 248 n
  else s

/-- WHARF_LINK_LOSS. -/
def execWharfLinkLoss (s : State) : Result := .next (wharfLinkLoss s)

end Sys2Proof.Machine
end

