-- ==== Sys2Proof/Machine/Barter.lean ====
section
/-! DEFINITION. The field link: frames received, and what becomes of them (16_barter R332 to R340; 18_power R392). A frame is
its bytes without the frame check sequence, which the MAC has found good. -/

namespace Sys2Proof.Machine

/-- A stranger: no reply, and its toll (R335). -/
def State.stranger (s : State) (toll : Nat) : State := s.toll toll

/-- Where a frame comes from: its source MAC, and for IPv4 its source address and port. -/
structure FrameSource where
  mac : List Byte
  ip : List Byte := []
  port : Nat := 0
deriving DecidableEq, Repr

/-- The frame passes the MAC filter: 64 to 1,518 bytes with its check sequence, an EtherType and no length, to this device or to
everyone (R334). -/
def State.macAccepts (s : State) (f : List Byte) : Bool :=
  decide (60 ≤ f.length) && decide (f.length ≤ 1514) && decide (0x0600 ≤ beAt f 12 2) &&
    (f.take 6 == s.mac || f.take 6 == List.replicate 6 0xFF)

/-- The ones' complement sum of 16-bit words, as IPv4 and ICMP form their checksums; a good one gives 0xFFFF. -/
def onesSum (bs : List Byte) : Nat :=
  let total := ((List.range ((bs.length + 1) / 2)).map fun i => beAt (bs ++ [0]) (2 * i) 2).sum
  let once := total % 65536 + total / 65536
  once % 65536 + once / 65536

/-- The request that a Barter payload spells (R336). -/
def requestOf (p : List Byte) (src : FrameSource) (at_ : Nat) : BarterRequest :=
  { op := beAt p 8 2, flags := beAt p 3 1, seq := beAt p 4 4, trailer := p.drop (p.length - 8)
    body := (p.drop 16).take (p.length - 24), mac := src.mac, ip := src.ip, port := src.port, at_ := at_ }

/-- A payload passes: MAGIC, VERSION, LENGTH and the UDP length agree, and the trailer matches (R336, R337). -/
def State.authentic (s : State) (p : List Byte) : Bool :=
  decide (24 ≤ p.length) && beAt p 0 2 == 0x5672 && beAt p 2 1 == 1 && beAt p 10 2 + 24 == p.length &&
    decide (beAt p 10 2 ≤ 1448) && p.drop (p.length - 8) == (hmacSha256 s.barter.key (p.take (p.length - 8))).take 8

/-- A sequence number is accepted by the window (R338). -/
def Barter.accepts (b : Barter) (seq : Nat) : Bool :=
  decide (b.hi < seq) || (decide (b.hi < seq + 64) && decide (seq < b.hi) && !b.seen.contains seq)

/-- The window with a number accepted. -/
def Barter.accept (b : Barter) (seq : Nat) : Barter :=
  let hi := max b.hi seq
  { b with hi := hi, seen := (seq :: b.seen).filter fun x => decide (hi < x + 64) }

/-- The opcodes of R345. DEDUCED (log entry 36). -/
def knownOpcode (op : Nat) : Bool := decide (1 ≤ op) && decide (op ≤ 0x0011)

/-- A kept reply again, with RESENT set (R339). -/
def State.resend (s : State) (k : Kept) (r : BarterRequest) : State :=
  let flags := beAt k.payload 3 1
  s.sendTo r (k.payload.take 3 ++ [BitVec.ofNat 8 (flags ||| 1)] ++ k.payload.drop 4)

/-- An accepted request is registered, its reply to be kept (R339), or answered at once: BUSY_RETRY where the queue is full (R340), BAD_OPCODE for an
opcode that does not exist (R341). DEDUCED (log entry 36). -/
def State.register (s : State) (r : BarterRequest) : State :=
  let t := s.modBarter fun b => { b.accept r.seq with kept := (⟨r.seq, r.trailer, []⟩ :: b.kept).take 8 }
  if !knownOpcode r.op then t.reply (some r) ((t.turnedAway r.op).getD .badOpcode) []
  else if 8 ≤ t.barter.queue.length then t.turnBack r
  else t.modBarter fun b => { b with queue := b.queue ++ [r] }

/-- A Barter payload (R337 to R339): authentication, then a kept reply, then the nonce, then the window. DEDUCED (log
entry 38). -/
def State.barterPayload (s : State) (p : List Byte) (src : FrameSource) : State :=
  if !s.authentic p then s.stranger 241
  else
    let r := requestOf p src s.now
    match s.barter.kept.find? fun k => k.of r && !k.payload.isEmpty with
    | some k => s.resend k r
    | none =>
      if beAt p 12 4 ≠ s.barter.nonce then
        if r.op = 0x0001 then
          s.sendTo r (if r.body.isEmpty then s.replyPayload r 0 .ok (pingBody s) else s.replyPayload r 0 .badParam [])
        else s.stranger 242
      else if s.barter.accepts r.seq then s.register r
      else s.stranger 242

/-- An ARP frame (R334): a request for this device's address is answered, one for another is ignored. -/
def State.arpFrame (s : State) (f : List Byte) : State :=
  if beAt f 14 2 = 1 ∧ beAt f 16 2 = 0x0800 ∧ beAt f 18 1 = 6 ∧ beAt f 19 1 = 4 ∧ beAt f 20 2 = 1 then
    if (f.drop 38).take 4 = s.ip then
      s.modBarter fun b => { b with sent := some (.arp ((f.drop 6).take 6) ((f.drop 28).take 4)) }
    else s
  else s.stranger 240

/-- An ICMP message (R334): an echo request is answered with the same data. -/
def State.icmpPacket (s : State) (src : FrameSource) (m : List Byte) : State :=
  if m.length < 8 ∨ m.take 2 ≠ [8, 0] ∨ onesSum m ≠ 0xFFFF then s.stranger 240
  else s.modBarter fun b => { b with sent := some (.icmp src.mac src.ip (m.drop 4)) }

/-- A UDP datagram (R334): port 47742 is Barter's. -/
def State.udpPacket (s : State) (src : FrameSource) (m : List Byte) : State :=
  if m.length < 8 ∨ beAt m 2 2 ≠ 47742 then s.stranger 240
  else if beAt m 4 2 ≠ m.length then s.stranger 241
  else s.barterPayload (m.drop 8) { src with port := beAt m 0 2 }

/-- An IPv4 packet is one that the device handles: no options, no fragment, a good header checksum, to this address (R334). -/
def State.ipAccepts (s : State) (p : List Byte) : Bool :=
  beAt p 0 1 == 0x45 && onesSum (p.take 20) == 0xFFFF && beAt p 6 2 % 2 ^ 14 == 0 && decide (20 ≤ beAt p 2 2) &&
    decide (beAt p 2 2 ≤ p.length) && (p.drop 16).take 4 == s.ip

/-- An IPv4 frame (R334). -/
def State.ipFrame (s : State) (f : List Byte) : State :=
  let p := f.drop 14
  if !s.ipAccepts p then s.stranger 240
  else
    let src : FrameSource := { mac := (f.drop 6).take 6, ip := (p.drop 12).take 4 }
    let m := (p.take (beAt p 2 2)).drop 20
    match beAt p 9 1 with
    | 1 => s.icmpPacket src m
    | 17 => s.udpPacket src m
    | _ => s.stranger 240

/-- A frame that passes the MAC filter, by its EtherType (R334). DEDUCED (log entry 35). -/
def State.takeFrame (s : State) (f : List Byte) : State :=
  match beAt f 12 2 with
  | 0x0806 => s.arpFrame f
  | 0x0800 => s.ipFrame f
  | _ => s.stranger 240

/-- A frame wakes the device (R392): unicast to its MAC, or an ARP request for its address. -/
def State.wakingFrame (s : State) (f : List Byte) : Bool :=
  f.take 6 == s.mac || (beAt f 12 2 == 0x0806 && beAt f 20 2 == 1 && (f.drop 38).take 4 == s.ip)

/-- A frame on the field link. In WATCH the PHY listens only while the Barter wake source is enabled; it holds the first
waking frame and discards what comes after it (R392). -/
def State.receive (s : State) (f : List Byte) : State :=
  if !s.barter.up || !s.macAccepts f then s
  else if s.power.regime = .watch then
    if (s.val F.PWR_WAKE_EN_EN).testBit 2 && s.barter.held.isNone && s.wakingFrame f then
      (s.modBarter fun b => { b with held := some f }).wakeEvent 2
    else s
  else s.takeFrame f

/-- BARTER_FRAME_RECEIVED (R334 to R340). -/
def execBarterFrameReceived (frame : List Byte) (s : State) : Result := .next (s.receive frame)

/-- ARP_REQUEST (R334): a frame of ARP's EtherType. -/
def execArpRequest (frame : List Byte) (s : State) : Result := .next (if beAt frame 12 2 = 0x0806 then s.receive frame else s)

/-- ICMP_ECHO (R334): an IPv4 frame with an ICMP message. -/
def execIcmpEcho (frame : List Byte) (s : State) : Result :=
  .next (if beAt frame 12 2 = 0x0800 ∧ beAt frame 23 1 = 1 then s.receive frame else s)

/-- PLCA is enabled: BTR_PLCA.ID is not 255, outside the safe state (R332, R376). -/
def State.plcaEnabled (s : State) : Bool := s.val F.BTR_PLCA_ID != 255 && !s.inSafe

/-- The device is the PLCA coordinator: it sends the BEACON that begins each cycle (R332). -/
def State.plcaCoordinator (s : State) : Bool := s.plcaEnabled && s.barter.up && s.val F.BTR_PLCA_ID == 0

/-- The transmit opportunities that follow a BEACON of this device: node and its TO_TIMER in bit times (R332; BTR_PLCA). -/
def State.plcaCycle (s : State) : List (Nat × Nat) :=
  if s.plcaCoordinator then (List.range (s.val F.BTR_PLCA_NCOUNT)).map fun i => (i, s.val F.BTR_PLCA_TO) else []

/-- Whether the device may begin to send in the transmit opportunity of a node: its own while PLCA is in force, one frame in each;
at any time under CSMA/CD (R332, R333). -/
def State.maySendIn (s : State) (node : Nat) : Bool := s.barter.up && (s.barter.csma || s.val F.BTR_PLCA_ID == node)

/-- PLCA_FALLBACK (R333): the PLCA status stops being OK; a change from PLCA to CSMA/CD counts toll 246. -/
def plcaFallback (s : State) : State :=
  let t := s.modBarter fun b => { b with plcaOk := false, csma := b.up }
  if s.plcaEnabled && s.barter.up && !s.barter.csma then t.toll 246 else t

/-- PLCA_FALLBACK. -/
def execPlcaFallback (s : State) : Result := .next (plcaFallback s)

/-- PLCA_RESTORE (R333): the PLCA status is OK. -/
def plcaRestore (s : State) : State :=
  if s.plcaEnabled && s.barter.up then s.modBarter fun b => { b with plcaOk := true, csma := false } else s

/-- PLCA_RESTORE. -/
def execPlcaRestore (s : State) : Result := .next (plcaRestore s)

/-- FRAME_ABANDONED (R333): 16 attempts under CSMA/CD; the frame that was to leave is not sent. -/
def frameAbandoned (s : State) : State :=
  if s.barter.csma then (s.modBarter fun b => { b with sent := none }).toll 247 else s

/-- FRAME_ABANDONED. -/
def execFrameAbandoned (s : State) : Result := .next (frameAbandoned s)

end Sys2Proof.Machine
end

