-- ==== Sys2Proof/Machine/Watch.lean ====
section
/-! DEFINITION. WATCH: its entry, with the Watch store, and the wake from it (18_power R390 to R393). -/

namespace Sys2Proof.Machine

/-- The segments of a stopped stall are closed, merged and given their headers, and its runs reach their maps (R181,
R390). DEDUCED (log entry 47). -/
def State.drainStall (s : State) (n : Fin 16) : State :=
  let s1 := if (s.stalls[n]).stopping then s.finishStop n else s
  let k := (s1.stalls[n]).segs.length
  let s2 := (List.range k).foldl (fun s _ =>
    match (s.stalls[n]).segs.find? fun g => g.number.isNone with
    | some g => s.closeSegment n g
    | none => s) s1
  let s3 := (List.range k).foldl (fun s _ => match (s.stalls[n]).segs.findSome? (·.merge) with
    | some m => s.mergeNow n m (Vector.replicate 8 0)
    | none => s) s2
  let s4 := (List.range k).foldl (fun s _ =>
    match (s.stalls[n]).segs.head? with
    | some g =>
      (if g.setup.ring then s.dramWrite (g.setup.slotAddr (g.number.getD 0)) (g.header (s.stalls[n]).head).bytes else s).completeSegment n g
    | none => s) s3
  let s5 := (List.range (s4.stalls[n]).runs.length).foldl (fun s _ => yardRunAdd n s) s4
  (List.finRange 8).foldl (fun s k => s.drainYard k) s5

/-- What the Watch store takes (R390): Hall, the parameter values, the segment numbers, and the functions stopped. -/
def State.watchStore (s : State) (run : List Nat) : WatchStore :=
  { hall := s.hall.mem, bad := s.hall.bad, written := s.written, force := s.force
    segNos := s.stalls.toList.map (·.segNo), run := run }

/-- Hall's 128 MiB stand in the Watch store in ascending address (DEDUCED, log entry 33). -/
def State.writeStore (s : State) : State :=
  let base := s.storeBase
  let kept := s.dram.mem.filter fun c => c.1 < base || base + hallSize ≤ c.1
  let below := kept.filter fun c => c.1 < base
  let above := kept.filter fun c => base ≤ c.1
  { s with dram := { s.dram with
    mem := below ++ ((s.hall.mem.filter fun c => c.1 < hallSize).map fun c => (base + c.1, c.2)) ++ above
    bad := s.dram.bad.filter fun w => w < base / 8 || (base + storeBytes) / 8 ≤ w } }

/-- The Watch store holds a codeword that is known not to be correctable (R393). -/
def State.storeBad (s : State) : Bool := s.dram.bad.any fun w => decide (s.storeBase / 8 ≤ w) && decide (w < (s.storeBase + storeBytes) / 8)

/-- The sample domain and the weighers' own work end (R390). A calibration that this cuts short is over, and CAL_MODE takes effect
(R115). -/
def State.endRotation (s : State) : State :=
  { s with
    conv := { s.conv with phase := .idle, substitute := none, handover := none }
    cal := { s.cal with
      slice := none, candidate := none, request := false, stepDue := none, reliefDue := none, stepped := []
      mode := if s.calRunning then s.val F.CAL_MODE_MODE else s.cal.mode }
    pool := { s.pool with move := none, test := none, outOfTurn := [], hung := [], weighers := s.pool.weighers.map fun w =>
      if w.role = .retired then w else {} } }

/-- WATCH is entered (R390, R391): functions other than TALLY and AUX stop, leaves first; the Watch store is written;
record memory sleeps; the Mints stop, or Mint C goes on in HOLDOVER where REFCLK is absent (03_mints, the chronicle in WATCH); the
rails but VDDQ are switched off. DEDUCED (log entry 46). Actions of firings that are still due, a TOUT pulse and its toll 9 among them,
are discarded: DESIGN CHOICE (log entry 87). The pins of VIO lose their supply (20_package R411). -/
def State.enterWatch (s : State) : State :=
  let run := s.run.filter fun f => f != fnTally && f != fnAux
  let s1 := (List.finRange 16).foldl (fun s n => s.drainStall n) (State.stopLeaves run 32 s)
  let s2 := { s1.writeStore.dramSleeps.endRotation with acts := [] }
  let onRef := s2.refSeen false
  let s3 := (List.finRange 5).foldl (fun s m => if m = mintC ∧ !onRef then s.holdOver m else s.stopMint m) s2
  let s4 := s3.modPower fun p => { p with
    regime := .watch, watchOnRef := onRef, railsUp := false, waking := false, change := none, watchAt := none, watchForced := false
    pen := (Vector.replicate 6 false).set 3 p.pen[railVddq], store := some (s1.watchStore run) }
  { s4 with
    trigOut := Vector.replicate 4 {}, trigIn := Vector.replicate 4 false, tap := {}
    hall := { s4.hall with mem := [], bad := [], latent := [], arbs := [] }, wharf := { s4.wharf with link := false } }.wakeIfDue

/-- WATCH_ENTRY (R390): 1 ms after the reply to the request, or at once where temperature forces it. A change between FULL and
LEAN that is under way completes first. -/
def watchEntry (s : State) : State :=
  match s.power.watchAt with
  | some t => if s.reached t && s.power.regime != .watch then (regimeChange s).enterWatch else s
  | none => s

/-- WATCH_ENTRY. -/
def execWatchEntry (s : State) : Result := .next (watchEntry s)

/-- REQ takes the value of WAKE_TO (R393). -/
def State.setRequested (s : State) (r : Regime) : State :=
  let m := F.PWR_REGIME_REQ.put 3
  (s.setWritten R.PWR_REGIME.base (F.PWR_REGIME_REQ.put r.code) m).setForce R.PWR_REGIME.base (F.PWR_REGIME_REQ.put r.code) m

/-- The Watch store is restored (R393); where that changes MNT_REF.SEL, it is a relock (R61). -/
def State.restore (s : State) (w : WatchStore) : State :=
  let s1 := { s with hall := { s.hall with mem := w.hall, bad := w.bad, latent := [] }, written := w.written, force := w.force }
  let s2 := (w.segNos.zip (List.finRange 16)).foldl (fun s (q, n) => s.modStall n fun t => { t with segNo := q }) s1
  if s2.flag F.MNT_REF_SEL == s2.refs.active then s2 else s2.relock

/-- Record memory leaves self-refresh (R281). -/
def State.dramWakes (s : State) : State :=
  (List.finRange 8).foldl (fun s c => s.subWakes c) s

/-- The wake is complete (R393): the Mints having locked, record memory is retrained, the store is restored, and the functions
recorded are started in the regime that WAKE_TO names. DEDUCED (log entry 46). -/
def State.finishWake (s : State) (w : WatchStore) (t : Training) : State :=
  let lean := s.flag F.PWR_REGIME_WAKE_TO
  let s2 := (s.dramWakes.retrainDram t lean).restore w
  let to_ : Regime := if lean then .lean else .full
  let s3 := (s2.setRequested to_).modPower fun p => { p with regime := to_, waking := false, store := none, watchOnRef := true }
  s3.startRelief.startAll w.run

/-- The frame that the PHY has held is processed once Barter runs again (R392). -/
def State.takeHeld (s : State) : State :=
  if s.power.regime = .watch ∨ !s.barter.up then s
  else match s.barter.held with
    | some f => (s.modBarter fun b => { b with held := none }).takeFrame f
    | none => s

/-- The full start-up runs, the rails being on (R393). -/
def State.startAgain (s : State) : State :=
  ((s.restart.modPower fun p => { p with railsUp := true }).modImage fun x => { x with released := s.now }).modBarter fun b =>
    { b with held := s.barter.held }

/-- The Mints that the wake has started have locked, but for those that have no reference to lock to and stay in HOLDOVER (R393,
R430). -/
def State.mintsReady (s : State) : Bool := s.mints.all fun x => x.mode == .locked || x.mode == .holdover

/-- WAKE_COMPLETE (R393): every rail is in regulation again, and the Mints have locked. `t`: what the sweeps of the short retrain
find; `intact`: the store holds no uncorrectable codeword. Otherwise the store is discarded and the full start-up runs from the
image. -/
def wakeComplete (t : Training) (intact : Bool) (s : State) : State :=
  if !s.power.waking || !s.power.railsUp || !s.mintsReady then s
  else match s.power.store with
    | some w =>
      let retrained := s.retrainPasses t (s.flag F.PWR_REGIME_WAKE_TO)
      if retrained && intact && !s.storeBad then s.finishWake w t
      else if retrained then s.startAgain
      else (s.startAgain.toll 200).attention 3
    | none => s.startAgain

/-- WAKE_COMPLETE. -/
def execWakeComplete (t : Training) (intact : Bool) (s : State) : Result := .next (wakeComplete t intact s)

end Sys2Proof.Machine
end

