-- ==== Sys2Proof/Machine/Tick.lean ====
section
/-! DEFINITION. TICK: the present tick closes and the next one opens (00_scope, units; R20; DESIGN CHOICE, log entry 3). What the tick has
registered is worked off, the samples of the tick pass through the stalls, and at mite 0 of the next tick whatever waited for it
takes effect. -/

namespace Sys2Proof.Machine

/-- How many TAPs lie between a stall and its channel, counted to at most `fuel`. -/
def State.tapDepth (s : State) : Nat → Fin 16 → Nat
  | 0, _ => 0
  | fuel + 1, n => match (s.stalls[n]).setup.tap with
    | some (m, _) => s.tapDepth fuel m + 1
    | none => 0

/-- The channel at the root of a stall's source. -/
def State.rootChan (s : State) : Nat → Fin 16 → Nat
  | 0, n => (s.stalls[n]).setup.chan
  | fuel + 1, n => match (s.stalls[n]).setup.tap with
    | some (m, _) => s.rootChan fuel m
    | none => (s.stalls[n]).setup.chan

/-- The active stalls, each after the stall it taps. One that was started in the present tick takes samples from the next one on
(DEDUCED, log entry 49). -/
def State.stallOrder (s : State) : List (Fin 16) :=
  ((List.finRange 16).filter fun n => (s.stalls[n]).active && !s.ev.started.contains n).insertionSort fun a b => s.tapDepth 16 a ≤ s.tapDepth 16 b

/-- A value of the tick's stream is attributed to the tag of its sample's tick; a tag without samples lies at the number of the
next sample. -/
def tagValue (tags : List TickTag) (v : Val) : List TickTag :=
  tags.map fun k =>
    if k.tick = v.tick then { k with first := if k.count = 0 then v.num else k.first, count := k.count + 1 }
    else if v.tick < k.tick ∧ k.count = 0 then { k with first := v.num + 1 }
    else k

/-- The tag of the present tick in stall `n` (R46, R48, R67, R110, R192, R223). DEDUCED (log entry 53). -/
def State.tagOfTick (s : State) (n : Fin 16) : TickTag :=
  let m := s.tally.mode
  let chan := s.rootChan 16 n
  { tick := s.now, first := (s.stalls[n]).samples, count := 0, coast := s.tally.bcoast || s.crierCoast, hold := s.sampleHold || s.ev.hold
    rejoin := s.tally.brejoin, begins := s.tally.bbegins
    cal := s.cal.stepped.any fun k => s.channelOf k == chan
    noPos := m == .lost || m == .reacquiring || m == .stopped }

/-- A container of stall `n` is lost to a hang (R143). -/
def State.lostNow (s : State) (n : Fin 16) (v : Val) : Bool := s.pool.hung.any fun h => h.stall == n && s.dealtTo n h.share v.num

/-- The stages whose inputs a segment needs at its close. -/
def StageOp.keeps : StageOp → Bool
  | .measure _ => true
  | .yard _ _ => true
  | .decim .envelope _ _ => true
  | _ => false

/-- The values of a tick that segments may need: the inputs of those stages, and the record's units, which come from the Sieve
where its channel is in force (R203). -/
def Setup.keptOf (u : Setup) (streams : List (List Val)) : List (Nat × Val) :=
  ((u.stages.zipIdx.filter fun d => d.1.op.keeps).flatMap fun d => (streams.getD d.2 []).map fun v => (d.2, v)) ++
    (if u.sieve then [] else (streams.getD u.stages.length []).map fun v => (u.stages.length, v))

/-- The first sample that an open segment, or one still to come, may need. -/
def Stall.keepFrom (t : Stall) : Nat :=
  let next := match t.bell.obs with | v :: _ => v.num | [] => t.samples
  (t.segs.filter fun g => g.number.isNone && g.own.isNone).foldl
    (fun a g => min a (min g.start (max g.first (t.samples - g.setup.cap)))) (next - t.setup.cap)

/-- The first sample that a gate of such a segment, or its trigger's tag, may need: with POST beyond the capacity a POST gate
begins before the span (R180, R219). -/
def Stall.gateFrom (t : Stall) : Nat :=
  (t.segs.filter fun g => g.number.isNone && g.own.isNone).foldl (fun a g => min a g.trig.num) t.keepFrom

/-- The input of stage `i` is what measurement slots are evaluated on. -/
def Setup.measuredAt (u : Setup) (i : Nat) : Bool := match u.stages[i]? with | some d => d.op.isMeasure | none => false

/-- Where units do not come in a fixed number to the samples, those dropped before sample `a` are counted, for the stall and for the
buffers and triggers that lie before it (R183). -/
def Stall.countDropped (t : Stall) (a : Nat) : Stall :=
  if !t.setup.uneven then t
  else
    let before (x : Nat) : Nat := t.gaps.gone +
      (t.kept.filter fun y => y.1 == t.setup.stages.length && decide (y.2.num < x)).length
    let seen (x : Nat) (old : Option Nat) : Option Nat := if old.isNone && decide (x < a) then some (before x) else old
    { t with
      gaps := { t.gaps with gone := before a }
      segs := t.segs.map fun g =>
        if g.number.isNone && g.own.isNone then
          { g with unitsFirst := seen g.first g.unitsFirst, unitsTrig := seen g.trig.num g.unitsTrig }
        else g
      bell := { t.bell with bufUnits := match t.bell.bufFrom with | some x => seen x t.bell.bufUnits | none => none } }

/-- Values and tags that no segment needs are dropped. -/
def Stall.trim (t0 : Stall) : Stall :=
  let a := t0.keepFrom
  let b := t0.gateFrom
  let t := t0.countDropped a
  { t with
    kept := t.kept.filter fun x => decide (a ≤ x.2.num) || (t.setup.measuredAt x.1 && decide (b ≤ x.2.num))
    tags := t.tags.filter fun k => decide (b ≤ k.first + k.count) }

/-- The source values of the present tick pass through stall `n` (R126, R128, R129, R134, R143): its chain, its Bell's samples, its
tags, and the inputs of its Sieve channel. -/
def State.stallTick (s : State) (n : Fin 16) (src : List Val) : State :=
  let t := s.stalls[n]
  let u := t.setup
  let vals := src.zipIdx.map fun (v, i) => { v with num := t.samples + i }
  let r := t.chainRun u.stages t.stageStates vals
  let hung := s.pool.hung.any (·.stall == n)
  let streams := if hung then r.streams.map fun l => l.filter fun v => !s.lostNow n v else r.streams
  let lost := if hung then ((r.streams.getD u.stages.length []).filter fun v => s.lostNow n v).map (·.num) else []
  let tags := (vals.foldl tagValue (t.tags ++ [s.tagOfTick n])).map fun k =>
    if hung then { k with lost := k.lost || vals.any fun v => v.tick == k.tick && s.lostNow n v } else k
  let s1 := s.modStall n fun t => Stall.trim { t with
    gaps := { t.gaps with lost := t.gaps.lost ++ lost }
    samples := t.samples + vals.length, stageStates := r.sts, streams := streams, envOut := [], envSat := false
    kept := t.kept ++ u.keptOf streams, tags := tags, bell := { t.bell with obs := t.bell.obs ++ vals } }
  let s1 := if t.samples / 256 = (t.samples + vals.length) / 256 then s1 else s1.blockBoundary n
  let s3 := (s1.satToll n (r.sat || t.envSat)).turnTolls r.turns
  if u.sieve then
    { s3 with sieve := { s3.sieve with
      inputs := s3.sieve.inputs ++ (streams.getD u.stages.length []).map fun v => (n, v, s.now) } }
  else s3

/-- The containers of every channel in the present tick, and the value each carries over (R103). -/
def State.containers (s : State) (volts : Vector (Vector Int 2) 17) : List (List Container × Rat) :=
  (List.range s.channels).map fun c => s.correct volts c

/-- The source values of stall `n` in the present tick (R76, R127). -/
def State.sourceOf (s : State) (cs : List (List Container × Rat)) (n : Fin 16) : List Val :=
  let t := s.stalls[n]
  match t.setup.tap with
  | some (m, k) => ((s.stalls[m]).streams).getD k []
  | none => s.sourceVals t.samples (((cs.map (·.1)).getD t.setup.chan []).map (·.value))

/-- The inputs of the Sieve registered in the present tick stand in the order of their channels (R208). -/
def State.orderInputs (s : State) : State :=
  let old := s.sieve.inputs.filter fun x => x.2.2 != s.now
  let new := s.sieve.inputs.filter fun x => x.2.2 == s.now
  { s with sieve := { s.sieve with inputs := old ++ new.insertionSort fun a b => a.1 ≤ b.1 } }

/-- Over-range samples of the tick (R80): each input's bit in CNV_OVR, and toll 16 once. DEDUCED (log entry 64). -/
def State.noteOverRange (s : State) (cs : List (List Container × Rat)) : State :=
  let hit := (cs.zipIdx.filter fun c => c.1.1.any (·.overRange)).map fun c => s.inputOf c.2
  if hit.isEmpty then s
  else (s.setSticky R.CNV_OVR.base (BitVec.ofNat 32 (hit.foldl (fun a i => a + 2 ^ i) 0))).toll 16

/-- Envelope outputs of a stall that no longer takes samples count their saturation too (R129). -/
def State.noteEnvelopes (s : State) : State :=
  (List.finRange 16).foldl (fun s n =>
    if (s.stalls[n]).envSat then (s.satToll n true).modStall n fun t => { t with envSat := false } else s) s

/-- The samples of the present tick: corrected, compared, noted, and passed through the stalls. -/
def State.sampleTick (s : State) (volts : Vector (Vector Int 2) 17) : State :=
  let cs := s.containers volts
  let s1 := ((s.compareTick volts).zeroTick volts).noteOverRange cs
  let s2 := { s1 with conv := { s1.conv with
    carry := Vector.ofFn fun (c : Fin 16) => match cs[c.val]? with | some x => x.2 | none => s1.conv.carry[c] } }
  (s2.stallOrder.foldl (fun s n => s.stallTick n (s.sourceOf cs n)) s2).orderInputs

/-- Decisions whose tick has come are settled, stall by stall. -/
def State.settleDecisions (s : State) : State :=
  (List.finRange 16).foldl (fun s n => (List.range (s.bell n).decisions.length).foldl (fun s _ => s.nextDecision n) s) s

/-- STOPs registered in the present tick are finished (R181), those of tapping stalls first. -/
def State.finishStops (s : State) : State :=
  (List.finRange 16).foldl (fun s n => if (s.stalls[n]).stopping then s.finishStop n else s) s

/-- A cycle of subchannel `c`'s arbiter; a burst granted enters its queue (R256, R277). -/
def State.dramCycle (s : State) (c : Fin 8) : State :=
  let i := 256 + c.val
  let parks := s.subParks c
  let taken := (s.dram.subs[c]).taken
  let full := s.queueFull c
  let granted := (((s.arb i).settleHolder.without full).decideCycle (s.frozenArb i) (s.slotOwner i) (portsAt i) (burstLen i)).holder
  let s1 := (s.arbCycle i parks taken full).modSub c fun x => { x with taken := false }
  match granted with
  | some h => match h.req.addrs with
    | a :: _ => if parks || taken then s1 else s1.queueBurst c h.req.port a
    | [] => s1
  | none => s1

/-- Twenty-fifths of a DRAM cycle in a tick: a burst lasts 2.5 ns in FULL and 10/3 ns in LEAN (12_hall, before R256).
DESIGN CHOICE (log entry 56). -/
def State.dramStep (s : State) : Nat := if s.power.regime = .lean then 6 else 8

/-- The arbiters with anything to decide: those of the DRAM, or those of Hall and of the transmit queues. -/
def State.busyArbs (s : State) (dram : Bool) : List Nat :=
  (s.hall.arbs.map (·.1)).filter fun i => (decide (256 ≤ i) && decide (i < 264)) == dram

/-- The arbiters' part in closing a tick (R256 to R260): a cycle of every Hall bank and transmit queue, and one of the DRAM where one ends.
DESIGN CHOICE (log entry 56). -/
def State.arbiters (s : State) : State :=
  let s1 := (s.busyArbs false).foldl (fun s i => s.arbCycle i false (s.ev.banks.any fun x => x.1 == i) fun _ => false) s
  let ph := s1.hall.kphase + s.dramStep
  let s2 := if 25 ≤ ph then
      let s2 := (s1.busyArbs true).foldl (fun s i => s.dramCycle (subOf i)) s1
      { s2 with hall := { s2.hall with kappa := s2.hall.kappa + 1, kphase := ph - 25 } }
    else { s1 with hall := { s1.hall with kphase := ph } }
  { s2 with hall := { s2.hall with tau := s2.hall.tau + 1 } }

/-- The part of closing a tick that belongs to the sample and record domains, which WATCH powers down. -/
def State.closeRecords (s : State) (volts : Vector (Vector Int 2) 17) : State :=
  let s := s.fillHalts
  let s1 := if s.sampling then s.sampleTick volts else s
  let s2 := s1.noteEnvelopes.finishStops.releaseDue.clampTolls
  let p := s.tally.bp / 65536
  let q := (s.tally.bp + s.tally.bs) / 65536
  let s3 := ((s2.closeYards p q).closeDram).arbiters
  (List.finRange 16).foldl (fun s n => s.completeEmpty n) s3

/-- The STEP jumps so far, after the tick's tally has closed (R152). -/
def State.addJump (s : State) : State :=
  { s with jumps := s.jumps + (s.tally.pos.floor / 65536 - (s.tally.bp + s.tally.bs) / 65536) }

/-- The errors that arise in Hall (R250); there is no Hall to hold them in WATCH. -/
def State.hallFlips (s : State) (flips : List (Fin 16777216 × Bool)) : State :=
  if s.power.regime = .watch then s
  else { s with hall := flips.foldl (fun h x => h.flip x.1 x.2) s.hall }

/-- The present tick closes. DEDUCED (log entry 47). -/
def State.closeTick (s : State) (volts : Vector (Vector Int 2) 17) : State :=
  let s1 := s.evalDue.settleDecisions.sieveDrain
  let s2 := s1.tallyClose.closeSlots.closeEntries.closeTout
  let s3 := if s2.power.regime = .watch then s2 else s2.closeRecords volts
  s3.takeInjections.addJump.judgeAck.coolDown.keepWakes.gateMints.dropDue.mergeTolls.flushLog

/-- A comparator's count begins again as its new parameters come into force (R100). -/
def State.restartComparator (s : State) (n : Nat) : State :=
  if 0x0590 ≤ n ∧ n < 0x05A0 then
    s.modAux fun a => { a with comps := updAt a.comps (Fin.ofNat 8 ((n - 0x0590) / 2)) fun c => { c with hits := 0 } }
  else s

/-- LV words written in the tick before come into force (R39, R100, R379). -/
def State.openWords (s : State) : State :=
  s.nextTick.foldl (fun s n => (s.setForce n (s.lastWritten n) (classMask n (· == .lv))).restartComparator n)
    { s with nextTick := [] }

/-- The tally's position in grains at a firing's instant (R44): in the tick that has closed, or at mite 0 of the present one. -/
def State.snapPosition (s : State) (instant : Nat) : Int :=
  if s.now ≤ instant then s.tally.pos.floor / 65536
  else s.tally.posAt (s.now - s.tally.bchron) ((instant : Int) - s.tally.bchron)

/-- A firing's actions take effect at mite 0 of the present tick (R56, R126, R164, R242, R326). DEDUCED (log entry 65). -/
def State.doAction (s : State) (a : Action) : State :=
  let s1 := match a.start with
    | some n => s.endLaunchWait n a.instant
    | none => s
  let s2 := match a.bell with
    | some n => if (s1.bell n).phase == Phase.stopped then s1
      else s1.modBell n fun b => { b with forces := b.forces ++ [Forced.mk a.instant a.late] }
    | none => s1
  let s3 := match a.tout with
    | some p => s2.toutPulse p a.instant
    | none => s2
  let s4 := match a.snap with
    | some k => s3.takeSnap k (BitVec.ofNat 64 a.instant) (BitVec.ofInt 64 (s3.snapPosition a.instant))
    | none => s3
  s4.launchOut a

/-- The actions due are taken, in ascending order of slots and then of entries. -/
def State.openActions (s : State) : State :=
  let due := (s.acts.filter fun a => decide (a.due ≤ s.now)).insertionSort fun a b => a.unit ≤ b.unit
  due.foldl (fun s a => s.doAction a) { s with acts := s.acts.filter fun a => !decide (a.due ≤ s.now) }

/-- The next tick opens: the chronicle advances by `len` mites, and what waited for the tick takes effect. -/
def State.openTick (s : State) (len : Nat) : State :=
  let s1 := { s with chron := s.chron + BitVec.ofNat 80 len, ev := { hold := s.sampleHold } }
  let s2 := s1.openWords.openHandover.openStep.openActions.openYards.scanTick
  s2.openSlots.openEntries.armEntries.runItem.clerkWork.takeHeld.takeRelease

/-- The regulator channels whose writes fail, as the outside has it (R385). -/
def State.regulatorsAnswer (s : State) (mute : BitVec 6) : State := s.modPower fun p => { p with mute := mute }

/-- TICK. DESIGN CHOICE (log entry 3). DESIGN CHOICE (log entry 63). -/
def tick (x : TickIn) (s : State) : State :=
  if s.power.vaon then ((((s.regulatorsAnswer x.mute).scanPins x).hallFlips x.flips).closeTick x.volts).openTick s.tickLen else s

/-- TICK. -/
def execTick (x : TickIn) (s : State) : Result := .next (tick x s)

end Sys2Proof.Machine
end

