-- ==== Sys2Proof/Machine/Dispatch.lean ====
section
/-! DEFINITION. The dispatch of a command to its meaning: one arm for each constructor of `Instr`. -/

namespace Sys2Proof.Machine

def exec (i : Instr) (s : State) : Host.Outcome State Fault Refusal :=
  match i with
  | .ping body => Sys2Proof.Machine.execPing body s
  | .renew body => Sys2Proof.Machine.execRenew body s
  | .readParam body => Sys2Proof.Machine.execReadParam body s
  | .writeParam body => Sys2Proof.Machine.execWriteParam body s
  | .paramWrite n w => Sys2Proof.Machine.execParamWrite n w s
  | .stopFn body => Sys2Proof.Machine.execStopFn body s
  | .startFn body => Sys2Proof.Machine.execStartFn body s
  | .fetchHdr body => Sys2Proof.Machine.execFetchHdr body s
  | .fetchSeg body => Sys2Proof.Machine.execFetchSeg body s
  | .fetchMeas body => Sys2Proof.Machine.execFetchMeas body s
  | .fetchTile body => Sys2Proof.Machine.execFetchTile body s
  | .uploadOverlay body => Sys2Proof.Machine.execUploadOverlay body s
  | .ackAttn body => Sys2Proof.Machine.execAckAttn body s
  | .consign body => Sys2Proof.Machine.execConsign body s
  | .imageWrite body => Sys2Proof.Machine.execImageWrite body s
  | .imageCommit body => Sys2Proof.Machine.execImageCommit body s
  | .tollRead body => Sys2Proof.Machine.execTollRead body s
  | .logRead body => Sys2Proof.Machine.execLogRead body s
  | .resetRequest body => Sys2Proof.Machine.execResetRequest body s
  | .barterFrameReceived frame => Sys2Proof.Machine.execBarterFrameReceived frame s
  | .arpRequest frame => Sys2Proof.Machine.execArpRequest frame s
  | .icmpEcho frame => Sys2Proof.Machine.execIcmpEcho frame s
  | .requestDeadline => Sys2Proof.Machine.execRequestDeadline s
  | .plcaFallback => Sys2Proof.Machine.execPlcaFallback s
  | .plcaRestore => Sys2Proof.Machine.execPlcaRestore s
  | .frameAbandoned => Sys2Proof.Machine.execFrameAbandoned s
  | .wharfLinkUp => Sys2Proof.Machine.execWharfLinkUp s
  | .wharfLinkLoss => Sys2Proof.Machine.execWharfLinkLoss s
  | .wharfChunk => Sys2Proof.Machine.execWharfChunk s
  | .launchArm k ctrl => Sys2Proof.Machine.execLaunchArm k ctrl s
  | .launchDisarm k ctrl => Sys2Proof.Machine.execLaunchDisarm k ctrl s
  | .launchSlotFire k => Sys2Proof.Machine.execLaunchSlotFire k s
  | .toutPulseRise pin => Sys2Proof.Machine.execToutPulseRise pin s
  | .toutPulseFall pin => Sys2Proof.Machine.execToutPulseFall pin s
  | .tallySnapRead => Sys2Proof.Machine.execTallySnapRead s
  | .chronRead => Sys2Proof.Machine.execChronRead s
  | .lastsegRead n => Sys2Proof.Machine.execLastsegRead n s
  | .yardSnapRead k => Sys2Proof.Machine.execYardSnapRead k s
  | .flipRead => Sys2Proof.Machine.execFlipRead s
  | .cryOfsRead => Sys2Proof.Machine.execCryOfsRead s
  | .w1cClear n w => Sys2Proof.Machine.execW1cClear n w s
  | .stallWindowAccess n write => Sys2Proof.Machine.execStallWindowAccess n write s
  | .sieveWindowAccess write => Sys2Proof.Machine.execSieveWindowAccess write s
  | .measSlotWindowAccess n write => Sys2Proof.Machine.execMeasSlotWindowAccess n write s
  | .paletteWindowAccess write => Sys2Proof.Machine.execPaletteWindowAccess write s
  | .elogDataRead => Sys2Proof.Machine.execElogDataRead s
  | .logDataRead => Sys2Proof.Machine.execLogDataRead s
  | .bankRequest n w => Sys2Proof.Machine.execBankRequest n w s
  | .sivSync w => Sys2Proof.Machine.execSivSync w s
  | .yardClear k => Sys2Proof.Machine.execYardClear k s
  | .yardSnap k => Sys2Proof.Machine.execYardSnap k s
  | .sgnCommit w => Sys2Proof.Machine.execSgnCommit w s
  | .trainingGo w => Sys2Proof.Machine.execTrainingGo w s
  | .trainingDelayWrite w => Sys2Proof.Machine.execTrainingDelayWrite w s
  | .trainingSweepDone c reads counts => Sys2Proof.Machine.execTrainingSweepDone c reads counts s
  | .otpProgram => Sys2Proof.Machine.execOtpProgram s
  | .otpProgramDone => Sys2Proof.Machine.execOtpProgramDone s
  | .rollbackAdvance => Sys2Proof.Machine.execRollbackAdvance s
  | .regimeRequestFull admitLean wakeTo => Sys2Proof.Machine.execRegimeRequestFull admitLean wakeTo s
  | .regimeRequestLean admitLean wakeTo => Sys2Proof.Machine.execRegimeRequestLean admitLean wakeTo s
  | .regimeRequestWatch admitLean wakeTo => Sys2Proof.Machine.execRegimeRequestWatch admitLean wakeTo s
  | .regimeChange => Sys2Proof.Machine.execRegimeChange s
  | .hallFreezeWrite j w => Sys2Proof.Machine.execHallFreezeWrite j w s
  | .dramFreezeWrite w => Sys2Proof.Machine.execDramFreezeWrite w s
  | .refSelectWrite w => Sys2Proof.Machine.execRefSelectWrite w s
  | .tallyCountEdge port a b stamp => Sys2Proof.Machine.execTallyCountEdge port a b stamp s
  | .tallyMeasurement => Sys2Proof.Machine.execTallyMeasurement s
  | .tallyIndex port level stamp => Sys2Proof.Machine.execTallyIndex port level stamp s
  | .lossIntervalExpiry => Sys2Proof.Machine.execLossIntervalExpiry s
  | .stillTimeExpiry => Sys2Proof.Machine.execStillTimeExpiry s
  | .coastMaxExpiry => Sys2Proof.Machine.execCoastMaxExpiry s
  | .vaonPowerUp => Sys2Proof.Machine.execVaonPowerUp s
  | .resetNAssert => Sys2Proof.Machine.execResetNAssert s
  | .resetNRelease => Sys2Proof.Machine.execResetNRelease s
  | .internalReset => Sys2Proof.Machine.execInternalReset s
  | .mintStart m => Sys2Proof.Machine.execMintStart m s
  | .refAbsent loss words => Sys2Proof.Machine.execRefAbsent loss words s
  | .refQualified cp0 => Sys2Proof.Machine.execRefQualified cp0 s
  | .pullingFreqSettled m word => Sys2Proof.Machine.execPullingFreqSettled m word s
  | .mintLock m => Sys2Proof.Machine.execMintLock m s
  | .reliefSettled => Sys2Proof.Machine.execReliefSettled s
  | .refereeWindowEnd => Sys2Proof.Machine.execRefereeWindowEnd s
  | .witnessWindowEnd => Sys2Proof.Machine.execWitnessWindowEnd s
  | .calShadowEnd => Sys2Proof.Machine.execCalShadowEnd s
  | .calSubstepEnd => Sys2Proof.Machine.execCalSubstepEnd s
  | .calDwellEnd => Sys2Proof.Machine.execCalDwellEnd s
  | .calCheckEnd candidate => Sys2Proof.Machine.execCalCheckEnd candidate s
  | .calReturnSettled => Sys2Proof.Machine.execCalReturnSettled s
  | .calVerifyEnd residuals => Sys2Proof.Machine.execCalVerifyEnd residuals s
  | .calRestoreSettled => Sys2Proof.Machine.execCalRestoreSettled s
  | .reliefSelfcalEnd candidate skews => Sys2Proof.Machine.execReliefSelfcalEnd candidate skews s
  | .calIntervalExpiry => Sys2Proof.Machine.execCalIntervalExpiry s
  | .calAuxPeriodExpiry => Sys2Proof.Machine.execCalAuxPeriodExpiry s
  | .auxCalComplete ofs gain => Sys2Proof.Machine.execAuxCalComplete ofs gain s
  | .auxPeriodStart => Sys2Proof.Machine.execAuxPeriodStart s
  | .auxConversionEnd raw => Sys2Proof.Machine.execAuxConversionEnd raw s
  | .auxWarmupDone => Sys2Proof.Machine.execAuxWarmupDone s
  | .auxInjectRequest source => Sys2Proof.Machine.execAuxInjectRequest source s
  | .auxWatchTimer => Sys2Proof.Machine.execAuxWatchTimer s
  | .pmMonitorRound => Sys2Proof.Machine.execPmMonitorRound s
  | .wghTestPeriodExpiry => Sys2Proof.Machine.execWghTestPeriodExpiry s
  | .migrationCopyDone => Sys2Proof.Machine.execMigrationCopyDone s
  | .migrationSwitch => Sys2Proof.Machine.execMigrationSwitch s
  | .wghTestDone pass => Sys2Proof.Machine.execWghTestDone pass s
  | .wghHang w => Sys2Proof.Machine.execWghHang w s
  | .hungChainRestart w => Sys2Proof.Machine.execHungChainRestart w s
  | .trigInEdge pin level stamp => Sys2Proof.Machine.execTrigInEdge pin level stamp s
  | .bellAdvance n => Sys2Proof.Machine.execBellAdvance n s
  | .bellReset n => Sys2Proof.Machine.execBellReset n s
  | .bellTimerExpiry n k => Sys2Proof.Machine.execBellTimerExpiry n k s
  | .autoTrigger n => Sys2Proof.Machine.execAutoTrigger n s
  | .holdoffElapsed n => Sys2Proof.Machine.execHoldoffElapsed n s
  | .rearmEnd n => Sys2Proof.Machine.execRearmEnd n s
  | .bellDecision n => Sys2Proof.Machine.execBellDecision n s
  | .segmentClose n => Sys2Proof.Machine.execSegmentClose n s
  | .mergeReadDone n found => Sys2Proof.Machine.execMergeReadDone n found s
  | .headerWriteDone n => Sys2Proof.Machine.execHeaderWriteDone n s
  | .sieveInput => Sys2Proof.Machine.execSieveInput s
  | .sieveOutputRelease => Sys2Proof.Machine.execSieveOutputRelease s
  | .yardRunAdd n => Sys2Proof.Machine.execYardRunAdd n s
  | .decayPeriodStart k => Sys2Proof.Machine.execDecayPeriodStart k s
  | .decaySweepDone k => Sys2Proof.Machine.execDecaySweepDone k s
  | .snapCopyDone k => Sys2Proof.Machine.execSnapCopyDone k s
  | .clearDone k => Sys2Proof.Machine.execClearDone k s
  | .hallRead port addr e0 e1 => Sys2Proof.Machine.execHallRead port addr e0 e1 s
  | .hallWrite port addr h0 h1 w => Sys2Proof.Machine.execHallWrite port addr h0 h1 w s
  | .add32Wrapping port addr mask adds ret e0 e1 => Sys2Proof.Machine.execAdd32Wrapping port addr mask adds ret e0 e1 s
  | .add32Saturating port addr mask adds ret e0 e1 => Sys2Proof.Machine.execAdd32Saturating port addr mask adds ret e0 e1 s
  | .swap32 port addr mask vals e0 e1 => Sys2Proof.Machine.execSwap32 port addr mask vals e0 e1 s
  | .swap64 port addr h0 h1 vals e0 e1 => Sys2Proof.Machine.execSwap64 port addr h0 h1 vals e0 e1 s
  | .scrubStep e0 e1 => Sys2Proof.Machine.execScrubStep e0 e1 s
  | .hallScrubPeriod => Sys2Proof.Machine.execHallScrubPeriod s
  | .hallRequest arb port held work background => Sys2Proof.Machine.execHallRequest arb port held work background s
  | .dramBurst owner addr write scrub found => Sys2Proof.Machine.execDramBurst owner addr write scrub found s
  | .srEntry c => Sys2Proof.Machine.execSrEntry c s
  | .srExit c => Sys2Proof.Machine.execSrExit c s
  | .srExitDone c => Sys2Proof.Machine.execSrExitDone c s
  | .refreshDue c => Sys2Proof.Machine.execRefreshDue c s
  | .mr4Read code => Sys2Proof.Machine.execMr4Read code s
  | .hammerMitigation c bank row => Sys2Proof.Machine.execHammerMitigation c bank row s
  | .hammerWindowEnd => Sys2Proof.Machine.execHammerWindowEnd s
  | .retrainStep c dqs lane delays => Sys2Proof.Machine.execRetrainStep c dqs lane delays s
  | .dramScrubPeriod c => Sys2Proof.Machine.execDramScrubPeriod c s
  | .headerRewrite found => Sys2Proof.Machine.execHeaderRewrite found s
  | .signboardLatch even0 odd0 even1 odd1 => Sys2Proof.Machine.execSignboardLatch even0 odd0 even1 odd1 s
  | .l1FillDone => Sys2Proof.Machine.execL1FillDone s
  | .crierPortSync p => Sys2Proof.Machine.execCrierPortSync p s
  | .idleFrame p f => Sys2Proof.Machine.execIdleFrame p f s
  | .tallyFrame p f => Sys2Proof.Machine.execTallyFrame p f s
  | .cryPair p a b => Sys2Proof.Machine.execCryPair p a b s
  | .launchPair p a b => Sys2Proof.Machine.execLaunchPair p a b s
  | .delayRequest p f => Sys2Proof.Machine.execDelayRequest p f s
  | .delayResponse p f => Sys2Proof.Machine.execDelayResponse p f s
  | .delayRequestDue => Sys2Proof.Machine.execDelayRequestDue s
  | .delayUnanswered => Sys2Proof.Machine.execDelayUnanswered s
  | .crierLinkLoss p commas => Sys2Proof.Machine.execCrierLinkLoss p commas s
  | .crierEntryFire e => Sys2Proof.Machine.execCrierEntryFire e s
  | .railSettled => Sys2Proof.Machine.execRailSettled s
  | .railTimeout => Sys2Proof.Machine.execRailTimeout s
  | .sequenceRetry => Sys2Proof.Machine.execSequenceRetry s
  | .brownOut => Sys2Proof.Machine.execBrownOut s
  | .brownOutRestart => Sys2Proof.Machine.execBrownOutRestart s
  | .pmAlert words => Sys2Proof.Machine.execPmAlert words s
  | .pmbusPoll words => Sys2Proof.Machine.execPmbusPoll words s
  | .vcoreAdapt up => Sys2Proof.Machine.execVcoreAdapt up s
  | .tempReading sensor tj => Sys2Proof.Machine.execTempReading sensor tj s
  | .thermalRecovery => Sys2Proof.Machine.execThermalRecovery s
  | .watchEntry => Sys2Proof.Machine.execWatchEntry s
  | .wakeEvent source => Sys2Proof.Machine.execWakeEvent source s
  | .wakeComplete training intact => Sys2Proof.Machine.execWakeComplete training intact s
  | .startup sfdp reread training => Sys2Proof.Machine.execStartup sfdp reread training s
  | .flashOperationDone => Sys2Proof.Machine.execFlashOperationDone s
  | .tick pins => Sys2Proof.Machine.execTick pins s
  | .calToneSettled => Sys2Proof.Machine.execCalToneSettled s
  | .srEntryDone c => Sys2Proof.Machine.execSrEntryDone c s
  | .crierTransmitCycle p => Sys2Proof.Machine.execCrierTransmitCycle p s
  | .vaonRemoval => Sys2Proof.Machine.execVaonRemoval s

end Sys2Proof.Machine
end

