-- ==== Sys2Proof/Safety.lean ====
section
/-! DEFINITION. What claims call a safe run, and the words they are put in: the device never stops, its memories and counters keep
their forms, and the situations in which a command has its effect. -/

namespace Sys2Proof

/-- A command that takes the device through a reset that clears the tolls: VAON or RESET_N (R396). -/
def Instr.clearsTolls : Instr → Bool
  | .vaonPowerUp => true | .vaonRemoval => true | .resetNAssert => true | .internalReset => true
  | _ => false

/-- A command that moves the chronicle: TICK, and VAON's coming and going (R20, R70). -/
def Instr.movesChronicle : Instr → Bool
  | .tick _ => true | .vaonPowerUp => true | .vaonRemoval => true
  | _ => false

end Sys2Proof

namespace Sys2Proof.Machine

/-- A command is carried out: the device goes on (01_architecture R32). -/
abbrev Completes (r : Result) : Prop := ∃ t, r = .next t

/-- Hall, record memory and the flash are in canonical form, and so is what the Watch store holds of Hall. -/
abbrev State.memoriesWf (s : State) : Prop :=
  Memory.wf s.hall.mem = true ∧ Memory.wf s.dram.mem = true ∧ Sparse.wf flashFill s.image.flash = true ∧
    (s.power.store.all fun w => Memory.wf w.hall) = true

/-- The toll counters are in canonical form, and none exceeds its ceiling (R396). -/
abbrev State.tollsSaturate (s : State) : Prop := Sparse.wf (fun _ => 0) s.tolls = true ∧ ∀ i, s.tollValue i ≤ tollMax

/-- The Clerk is free and nothing waits: a request named by a command is taken up at once, and its frame is not in question. -/
abbrev State.clerkFree (s : State) : Prop :=
  s.image.phase = .running ∧ s.barter.run = none ∧ s.barter.work = none ∧ s.barter.queue = [] ∧ s.ev.expired = none

/-- A request is answered with a code and a reply body. -/
def State.replied (s : State) (c : Code) (body : List Byte) : State :=
  { s with code := c, barter := { s.barter with reply := body } }

/-- A parameter whose write is judged field by field (R9): `r` is its register, and no chapter makes the write an action. -/
def RegDef.plainWrite (r : RegDef) : Bool :=
  ! [0x0100, 0x0242, 0x1007, 0x103A, 0x2001, 0x2004, 0x2011, 0x2109, 0x2208, 0x2228, 0x2320, 0x2324, 0x2419, 0x2420, 0x2700,
    0x2A02, 0x2A0A].contains r.base

/-- Hall holds no error, found or not (R250). -/
abbrev State.hallSound (s : State) : Prop := s.hall.bad = [] ∧ s.hall.latent = []

/-- The words that the Clerk's work reaches in the present tick are in regions that port 21 may access, at banks that let it in, no two
at one bank (R247, R253). -/
abbrev State.clerkReaches (s : State) (items : List ClerkItem) : Prop :=
  let at_ := items.filterMap ClerkItem.addr
  s.ev.banks = [] ∧ (at_.map hallBank).Nodup ∧ ∀ a ∈ at_, a % 16 = 0 ∧ a < 2 ^ 27 ∧ s.accessOk 21 a = true ∧ s.bankFree 21 a = true

/-- The UDP datagram of an Ethernet frame with an IPv4 packet. -/
def udpOf (f : List Byte) : List Byte := ((f.drop 14).take (beAt f 16 2)).drop 20

/-- The source of a frame's UDP datagram. -/
def sourceOf (f : List Byte) : FrameSource := ⟨(f.drop 6).take 6, (f.drop 26).take 4, beAt (udpOf f) 0 2⟩

/-- A frame carries a Barter payload to this device, which listens (R334, R336). -/
abbrev State.carries (s : State) (f : List Byte) : Prop :=
  s.barter.up = true ∧ s.power.regime ≠ .watch ∧ s.macAccepts f = true ∧ beAt f 12 2 = 0x0800 ∧
  s.ipAccepts (f.drop 14) = true ∧ beAt f 23 1 = 17 ∧ 8 ≤ (udpOf f).length ∧ beAt (udpOf f) 2 2 = 47742 ∧
  beAt (udpOf f) 4 2 = (udpOf f).length

/-- One sample waits for the Bell of stall `n` and may be evaluated, and nothing but the sequence itself acts at it: no
comparator, counter, pin or action is set up, no timer runs but those of `timers`, and the auto mode is off in force and as
written unless `auto`. -/
abbrev State.quietSample (s : State) (n : Fin 16) (v : Val) (timers auto : Bool) : Prop :=
  let b := s.bell n
  b.obs = [v] ∧ v.tick + mitesPerTick * (s.stalls[n]).evalLag < s.now ∧ v.mode = .stopped ∧
  b.outs = [] ∧ b.forces = [] ∧ b.prev.isSome = true ∧ b.rstHeld = false ∧ b.autoDue = false ∧
  (∀ k : Fin 4, s.val F.STL_BEL_CMP_CFG_TYPE k n = 0 ∧ s.wval F.STL_BEL_CMP_CFG_TYPE k n = 0 ∧
    s.val F.STL_BEL_CNT_CFG_RUNMASK k n = 0 ∧ s.val F.STL_BEL_CNT_CFG_CLRMASK k n = 0) ∧
  (∀ k : Fin 2, s.val F.STL_BEL_TMR_CFG_STARTMASK k n = 0 ∧ (timers = false → (b.timers[k]).run = false)) ∧
  (auto = false → s.val F.STL_BEL_AUTO_AUTO 0 n = 0 ∧ s.wval F.STL_BEL_AUTO_AUTO 0 n = 0)

end Sys2Proof.Machine
end

