-- ==== Sys2Proof/Certificates/Slice0/Obligations.lean ====
section
/-! DEFINITION. The statements for the provers. Each says what a family of commands does: where it completes, what it changes, and
that it changes nothing else. `{ t with a := s.a } = s` says that `t` differs from `s` in the field `a` alone. -/

open Sys2Proof Sys2Proof.Machine

/-! ## Barter (chapter 16) -/

/-- PING replies with the chronicle; RENEW draws a new non-zero nonce and empties the window (R338, R345). That a request may be
named by a command, without a frame, is the model's reading (log entry 32). The nonce drawn is a free value (log entry 7). -/
def Obligations.PingAndRenewReply : Prop :=
  ∀ s : State, s.clerkFree →
    exec (.ping []) s = .next (s.replied .ok (beBytes 10 s.now ++ [0, 0])) ∧
    ∃ t, exec (.renew []) s = .next t ∧ { t with code := s.code, free := s.free, barter := s.barter } = s ∧ t.code = .ok ∧
      t.barter.nonce ≠ 0 ∧ t.barter.nonce < 2 ^ 32 ∧ t.barter.hi = 0 ∧ t.barter.seen = [] ∧
      t.barter.reply = beBytes 10 s.now ++ [0, 0]

/-- A request that came in a frame, taken up before its deadline: the reply is sealed with the key, sent to its source and
kept in the place that its acceptance took (R337, R339), and what the Clerk still asks of the arbiters is reset, which is no
more than their requests and toll 167 (R264). A frame whose SEQ and trailer equal those of a request whose reply is kept is
answered with that reply, RESENT set, and nothing else happens (R339). -/
def Obligations.RepliesAreKeptAndResent : Prop :=
  (∀ (s : State) (q : BarterRequest) (rest : List BarterRequest), s.image.phase = .running → s.barter.run = none →
    s.barter.work = none → s.ev.expired = none → s.barter.queue = q :: rest → q.op = 1 → q.body = [] → q.flags % 2 = 0 →
    s.now ≤ q.at_ + 900 * 40000000 →
    ∃ (t : State) (p : List Byte), exec (.ping []) s = .next t ∧
      { t with code := s.code, barter := s.barter, hall := s.hall, tollDue := s.tollDue } = s ∧
      { t.hall with arbs := s.hall.arbs } = s.hall ∧
      (∀ i, i ≠ 167 → Sparse.get (fun _ => 0) t.tollDue i = Sparse.get (fun _ => 0) s.tollDue i) ∧
      t.code = .ok ∧ t.barter.queue = rest ∧ t.barter.kept = s.barter.kept.map (fun k =>
        if k.seq = q.seq ∧ k.trailer = q.trailer then ⟨k.seq, k.trailer, p⟩ else k) ∧
      t.barter.sent = some (.udp q.mac q.ip q.port (p ++ (hmacSha256 s.barter.key p).take 8))) ∧
  (∀ (s : State) (f : List Byte) (k : Kept), s.carries f → s.authentic ((udpOf f).drop 8) = true →
    s.barter.kept.find? (fun k => k.seq == beAt ((udpOf f).drop 8) 4 4 &&
      k.trailer == (udpOf f).drop ((udpOf f).length - 8) && k.payload != []) = some k → 4 ≤ k.payload.length →
    ∃ q : List Byte,
      exec (.barterFrameReceived f) s = .next { s with barter := { s.barter with
        sent := some (.udp (sourceOf f).mac (sourceOf f).ip (sourceOf f).port (q ++ (hmacSha256 s.barter.key q).take 8)) } } ∧
      q.take 3 = k.payload.take 3 ∧ beAt q 3 1 = beAt k.payload 3 1 ||| 1 ∧ q.drop 4 = k.payload.drop 4)

/-- What becomes of a frame for port 47742 (R335, R337, R338, R341): no reply and toll 241 where the trailer does not match;
no reply and toll 242 for a replay; an accepted request waits, the window takes its number, and its reply has a place among
the last 8 (R339). ARP and ICMP echo requests to the device's address are answered, PLCA falls back to CSMA/CD with toll
246, and a frame abandoned after 16 attempts is not sent, with toll 247 (R333, R334). -/
def Obligations.FramesAndTheLinkAreAnswered : Prop :=
  (∀ (s : State) (f : List Byte), s.carries f →
    let p := (udpOf f).drop 8
    (s.authentic p = false → exec (.barterFrameReceived f) s = .next (s.toll 241)) ∧
    (s.authentic p = true → (∀ k ∈ s.barter.kept, k.payload = [] ∨ k.seq ≠ beAt p 4 4) → beAt p 12 4 = s.barter.nonce →
      (s.barter.accepts (beAt p 4 4) = false → exec (.barterFrameReceived f) s = .next (s.toll 242)) ∧
      (s.barter.accepts (beAt p 4 4) = true → knownOpcode (beAt p 8 2) = true → s.barter.queue.length < 8 →
        ∃ t, exec (.barterFrameReceived f) s = .next t ∧ { t with barter := s.barter } = s ∧
          t.barter.queue = s.barter.queue ++ [requestOf p (sourceOf f) s.now] ∧
          t.barter.hi = max s.barter.hi (beAt p 4 4) ∧ t.barter.accepts (beAt p 4 4) = false ∧
          t.barter.kept = (⟨beAt p 4 4, p.drop (p.length - 8), []⟩ :: s.barter.kept).take 8))) ∧
  (∀ (s : State) (f : List Byte), s.barter.up = true → s.power.regime ≠ .watch →
    (s.macAccepts f = true → beAt f 12 2 = 0x0806 → beAt f 14 8 = 0x0001080006040001 → (f.drop 38).take 4 = s.ip →
      exec (.arpRequest f) s = .next { s with barter := { s.barter with
        sent := some (.arp ((f.drop 6).take 6) ((f.drop 28).take 4)) } }) ∧
    (s.macAccepts f = true → beAt f 12 2 = 0x0800 → s.ipAccepts (f.drop 14) = true → beAt f 23 1 = 1 → 8 ≤ (udpOf f).length →
      (udpOf f).take 2 = [8, 0] → onesSum (udpOf f) = 0xFFFF →
      exec (.icmpEcho f) s = .next { s with barter := { s.barter with
        sent := some (.icmp ((f.drop 6).take 6) ((f.drop 26).take 4) ((udpOf f).drop 4)) } }) ∧
    (s.plcaEnabled = true → s.barter.csma = false →
      exec .plcaFallback s = .next ({ s with barter := { s.barter with plcaOk := false, csma := true } }.toll 246)) ∧
    (s.plcaEnabled = true →
      exec .plcaRestore s = .next { s with barter := { s.barter with plcaOk := true, csma := false } }) ∧
    (s.barter.csma = true →
      exec .frameAbandoned s = .next ({ s with barter := { s.barter with sent := none } }.toll 247)))

/-- READ_PARAM and WRITE_PARAM act on one item a tick, in the order listed (R346): a request of up to 64 items completes its
first item, and with the last the reply is formed. An item of WRITE_PARAM does what a write of that parameter does. A write
of any parameter that is judged field by field, in range and not stop-locked, is answered OK and changes its LV and SL
fields (R8, R9, R429). A stop-locked write is refused while its function runs and the value differs, with toll 243 and
nothing else changed; while it is stopped the value written changes and the value in force does not; a clear of W1C bits
spares those set in the present tick (R9, R10). That a request may be named by a command, without a frame, is the model's
reading (log entry 32). -/
def Obligations.WritesAreJudgedAndItemsTaken : Prop :=
  (∀ (s : State) (a : Nat) (rest : List Nat) (v : Word), s.clerkFree → rest.length < 64 → (∀ n ∈ a :: rest, n < 2 ^ 16) →
    s.readValue a = some v →
    ∃ t, exec (.readParam (beBytes 2 (rest.length + 1) ++ (a :: rest).flatMap (beBytes 2))) s = .next t ∧
      (rest = [] → t.code = .ok ∧ t.barter.run = none ∧
        t.barter.reply = [0, 1, 0, 0] ++ beBytes 2 a ++ [0, 0] ++ beBytes 4 v.toNat) ∧
      (rest ≠ [] → ∃ p, t.barter.run = some p ∧ p.items = rest.map (fun n => (n, 0)) ∧
        p.out = beBytes 2 a ++ [0, 0] ++ beBytes 4 v.toNat)) ∧
  (∀ (s : State) (a : Nat) (w : Word) (rest : List (Nat × Word)), s.clerkFree → rest.length < 64 → a < 2 ^ 16 →
    (∀ x ∈ rest, x.1 < 2 ^ 16) →
    let items := rest.map fun x => (x.1, x.2.toNat)
    let s1 : State := { s with barter := { s.barter with run := some {
      req := none, write := true, count := rest.length + 1, items := (a, w.toNat) :: items } } }
    ∃ t u, exec (.paramWrite (BitVec.ofNat 16 a) w) s1 = .next u ∧
      exec (.writeParam (beBytes 2 (rest.length + 1) ++ (beBytes 2 a ++ beBytes 4 w.toNat) ++
        rest.flatMap fun x => beBytes 2 x.1 ++ beBytes 4 x.2.toNat)) s = .next t ∧ t.code = u.code ∧
      { t with barter := u.barter } = u ∧
      (rest = [] → t.barter.run = none ∧ t.barter.reply = [0, 1, 0, 0] ++ beBytes 2 a ++ [BitVec.ofNat 8 u.code.num, 0]) ∧
      (rest ≠ [] → ∃ p, t.barter.run = some p ∧ p.items = items ∧ p.out = beBytes 2 a ++ [BitVec.ofNat 8 u.code.num, 0])) ∧
  (∀ (s : State) (n : BitVec 16) (w : Word) (r : RegDef) (k st : Nat), Sparse.wf resetWord s.written = true →
    locate n.toNat = some (r, k, st) → r.plainWrite = true → r.mask (fun a => a == .lv || a == .sl) ≠ 0 →
    r.outOfRange w (fun a => a == .lv || a == .sl) = false → s.spanNeedsTally r.base n.toNat w = false →
    (r.base = R.CAL_FREEZE.base → s.calHidden = false) →
    (s.running (lockOf n.toNat) = true → (w ^^^ s.lastWritten n.toNat) &&& r.mask (· == .sl) = 0) →
    let m := r.mask fun a => a == .lv || a == .sl
    ∃ t, exec (.paramWrite n w) s = .next t ∧ t.code = .ok ∧
      t.lastWritten n.toNat = (s.lastWritten n.toNat &&& ~~~m) ||| (w &&& m) ∧
      ∀ j, j ≠ n.toNat → t.lastWritten j = s.lastWritten j) ∧
  (∀ (s : State) (n : BitVec 16) (w : Word), classMask n.toNat (· == .w1c) ≠ 0 →
    exec (.w1cClear n w) s = .next ((s.clearSticky n.toNat (w &&& classMask n.toNat (· == .w1c))).answer .ok)) ∧
  (∀ (s : State) (n : Fin 16) (w : Word), 2 ≤ w.toNat →
    (s.running (fnStall n) = true → w ≠ s.lastWritten (R.STL_SEGLEN.num 0 n) →
      exec (.paramWrite (BitVec.ofNat 16 (R.STL_SEGLEN.num 0 n)) w) s = .next ((s.toll 243).answer .stopLocked)) ∧
    (s.running (fnStall n) = false →
      exec (.paramWrite (BitVec.ofNat 16 (R.STL_SEGLEN.num 0 n)) w) s = .next { s with
        code := .ok, written := Sparse.set resetWord s.written (R.STL_SEGLEN.num 0 n) w }) ∧
    (∃ t, exec (.w1cClear (BitVec.ofNat 16 R.CNV_OVR.base) w) s = .next t ∧ { t with code := s.code, sticky := s.sticky } = s ∧
      t.code = .ok ∧ t.sticky = Sparse.set (fun _ => 0) s.sticky R.CNV_OVR.base (s.stickyBits R.CNV_OVR.base &&&
        ~~~(w &&& 0xFFFF &&& ~~~(Sparse.get (fun _ => 0) s.ev.sticky R.CNV_OVR.base)))))

/-- START_FN of a running function, and STOP_FN of a stopped one, are answered OK without effect (R347). A STOP on which
another running function depends is refused, with toll 244 (R28). START of the Sieve brings its stop-locked values into
force and adds it to the functions that run; its STOP, with no stall using it, takes it away again (R24, R30, R379). A START
of a stall whose dependencies do not all run is refused with NOT_ADMITTED and the DEP bit, counts toll 244, and starts
nothing (R25, R29, R341). That a request may be named by a command, without a frame, is the model's reading (log entry 32).
-/
def Obligations.FunctionsStartAndStop : Prop :=
  (∀ s : State, s.clerkFree → s.ev.fnMoved = false →
    (∀ fn : Byte, functionIds.contains fn.toNat = true →
      (s.running fn.toNat = true → exec (.startFn [fn, 0]) s = .next (s.replied .ok [0, 0, 0, 0])) ∧
      (s.running fn.toNat = false → exec (.stopFn [fn, 0]) s = .next (s.replied .ok [])) ∧
      (s.running fn.toNat = true → s.hasDependents fn.toNat = true →
        exec (.stopFn [fn, 0]) s = .next ((s.toll 244).replied .dependentRunning []))) ∧
    (s.running fnSieve = false → (s.forceLocked fnSieve).lockedOutOfRange fnSieve = false →
      exec (.startFn [0x20, 0]) s = .next
        ({ s with force := (s.forceLocked fnSieve).force, run := s.run ++ [fnSieve], ev := { s.ev with fnMoved := true } }.replied
          .ok [0, 0, 0, 0])) ∧
    (s.running fnSieve = true → s.hasDependents fnSieve = false →
      exec (.stopFn [0x20, 0]) s = .next
        ({ s with run := s.run.erase fnSieve, ev := { s.ev with fnMoved := true } }.replied .ok []))) ∧
  (∀ (s : State) (n : Fin 16), s.clerkFree → s.ev.fnMoved = false → s.running (fnStall n) = false →
    (s.stalls[n]).stopping = false →
    let s1 := s.forceLocked (fnStall n)
    let u := s1.trialSetup n
    s1.stallBadParam n u (weighersFor ((s1.stalls[n]).chainCost u.rate u.stages)) = false →
    s1.depsRun (fnStall n) = false →
    ∃ t, exec (.startFn [BitVec.ofNat 8 (fnStall n), 0]) s = .next t ∧ t.code = .notAdmitted ∧
      t.barter.reply = [0, 0, 0, 16] ∧ t.run = s.run ∧ t.force = s.force ∧ t.tollDue = (s.toll 244).tollDue ∧
      F.STL_ADMIT_DEP.get (t.stalls[n]).admitWord = 1 ∧ (t.stalls[n]).mode = (s.stalls[n]).mode)

/-- FETCH_HDR returns the headers of consecutive slots, from the segment named or from the last closed one on, up to the count
asked for, the first slot whose stored SEGNO is another or the first segment that has not closed; where there is none it is
answered NO_DATA. FETCH_SEG returns the stored data of a segment whose slot has not been overwritten, cut short at the end
of the area with TRUNC; an offset at or beyond the area is RANGE, and another SEGNO NO_DATA. FETCH_MEAS returns ledger
entries with HEAD and TOTAL, the indices wrapping. FETCH_TILE answers with the cells of a tile of a snapshot or of the live
map, zero beyond COLS and ROWS; a tile wholly beyond the map is answered RANGE, a stopped map NO_DATA, and a snapshot that
is being copied BUSY_RETRY (R200, R244, R348). What the Clerk reads of Hall it reads up to four words a tick, each at its
bank, and waits where the bank does not let it in (R247); after the last the reply is formed. All of it where the words read
hold no error. That a request may be named by a command, without a frame, and how the words of a reply fall into ticks, is
the model's reading (log entries 32 and 78). -/
def Obligations.RecordsAndHallAreFetched : Prop :=
  (∀ (s : State) (n : Fin 16) (q : Nat), s.clerkFree → s.dram.bad = [] → (s.stalls[n]).setup.ring = true → q < 2 ^ 40 →
    let u := (s.stalls[n]).setup
    let slot (i : Nat) : List Byte := memBytes s.dram.mem (u.slotAddr ((q + i) % 2 ^ 40)) 64
    let there (i : Nat) : Prop := (s.stalls[n]).closed ((q + i) % 2 ^ 40) = true ∧ leAt (slot i) 0x1E 5 = (q + i) % 2 ^ 40
    (∀ first c : Nat, (first = q ∧ q < 2 ^ 40 - 1 ∨ first = 2 ^ 40 - 1 ∧ (s.stalls[n]).lastSeg = q) → 1 ≤ c → c ≤ 22 →
      let req : Instr := .fetchHdr ([BitVec.ofNat 8 n, BitVec.ofNat 8 c, 0, 0] ++ beBytes 8 first)
      (¬there 0 → exec req s = .next (s.replied .noData [])) ∧
      (∀ k : Nat, 1 ≤ k → k ≤ c → (∀ i < k, there i) → (k = c ∨ ¬there k) →
        exec req s = .next (s.replied .ok ([BitVec.ofNat 8 k, 0, 0, 0] ++ (List.range k).flatMap slot)))) ∧
    (∀ i len : Nat, 1 ≤ len → len ≤ 1436 → i < 2 ^ 32 →
      let req : Instr := .fetchSeg ([BitVec.ofNat 8 n, 0, 0, 0] ++ beBytes 8 q ++ beBytes 4 i ++ beBytes 2 len ++ [0, 0])
      let k := min len (areaBytes u.fmt u.units - i)
      let back := ((s.stalls[n]).lastSeg + 1 + 2 ^ 40 - q) % 2 ^ 40
      (leAt (slot 0) 0x1E 5 ≠ q → exec req s = .next (s.replied .noData [])) ∧
      (u.fill = false → u.slots ≤ back → exec req s = .next (s.replied .noData [])) ∧
      (leAt (slot 0) 0x1E 5 = q →
        (back < u.slots ∨ u.fill = true ∧ back = u.slots ∧ (s.stalls[n]).segs = [] ∧ (s.bell n).bufFrom = none) →
        (areaBytes u.fmt u.units ≤ i → exec req s = .next (s.replied .range [])) ∧
        (i < areaBytes u.fmt u.units → exec req s =
          .next (s.replied .ok (beBytes 4 i ++ beBytes 2 k ++ beBytes 2 (if k < len then 2 else 0) ++
            memBytes s.dram.mem (u.slotAddr q + 64 + i) k)))))) ∧
  (∀ s : State, s.clerkFree →
    let begun (w : HallWork) : State := { s with barter := { s.barter with work := some w } }.workOn 4
    (∀ (n : Fin 16) (i c : Nat), i ≤ 4095 → 1 ≤ c → c ≤ 89 →
      let base := (s.region (s.val F.STL_MEAS_CTRL_REGION 0 n)).base
      exec (.fetchMeas ([BitVec.ofNat 8 n, 0] ++ beBytes 2 i ++ beBytes 2 c ++ [0, 0])) s = .next (begun {
        req := none, items := (List.range c).map fun j => .read (base + 16 * ((i + j) % 4096))
        out := beBytes 2 (s.stalls[n]).head ++ [0, 0] ++ beBytes 4 (s.stalls[n]).total })) ∧
    (∀ (k : Fin 8) (a b : Nat) (snap : Bool), a < 2 ^ 16 → b < 2 ^ 16 →
      let req : Instr := .fetchTile ([BitVec.ofNat 8 k, BitVec.ofNat 8 snap.toNat] ++ beBytes 2 a ++ beBytes 2 b ++ [0, 0])
      -- the four cells of column 16a + j / 4 from row 16b + 4 (j % 4) on
      let word (base j : Nat) : ClerkItem :=
        if s.mapCols k ≤ 16 * a + j / 4 ∨ s.mapRows k ≤ 16 * b + 4 * (j % 4) then .zeros
        else .read (base + 4 * ((16 * a + j / 4) * s.mapRows k + (16 * b + 4 * (j % 4))))
      let reads (base : Nat) : State := begun {
        req := none, items := (List.range 64).map (word base), snap := if snap then some k else none }
      (s.yardRuns k = false → exec req s = .next (s.replied .noData [])) ∧
      (s.yardRuns k = true → (snap = true → s.flag F.YRD_REGION_SNAP_EN k = true) →
        (s.mapCols k ≤ 16 * a ∨ s.mapRows k ≤ 16 * b) → exec req s = .next (s.replied .range [])) ∧
      (s.yardRuns k = true → 16 * a < s.mapCols k → 16 * b < s.mapRows k → snap = true → s.flag F.YRD_REGION_SNAP_EN k = true →
        ((s.yards[k]).copying = true → exec req s = .next (s.replied .busyRetry [])) ∧
        ((s.yards[k]).copying = false → exec req s = .next (reads (s.snapBase k)))) ∧
      (s.yardRuns k = true → 16 * a < s.mapCols k → 16 * b < s.mapRows k → snap = false →
        exec req s = .next (reads (s.mapBase k))))) ∧
  (∀ (s : State) (w : HallWork), s.barter.work = some w →
    let t := s.workOn 4
    let now := w.items.take 4
    let got := now.flatMap fun x => match x.addr with | some a => memBytes s.hall.mem a 16 | none => List.replicate 16 0
    (∀ k : Fin 8, w.snap = some k → (s.yards[k]).copying = true → w.req = none →
      s.clerkWork = { s.replied .busyRetry [] with barter := { (s.replied .busyRetry []).barter with work := none } }) ∧
    ((∀ k : Fin 8, w.snap = some k → (s.yards[k]).copying = false) → s.clerkWork = t) ∧
    (∀ (x : ClerkItem) (rest : List ClerkItem) (a : Nat), w.items = x :: rest → x.addr = some a → s.accessOk 21 a = true →
      s.bankFree 21 a = false → t = s) ∧
    (w.items ≠ [] → w.bad = false → s.hallSound → s.clerkReaches now → (∀ x ∈ now, ∀ a v, x ≠ .write a v) →
      (4 < w.items.length ∨ w.req = none →
        { t with code := s.code, barter := s.barter, hall := s.hall, ev := { t.ev with banks := [] } } = s ∧
        { t.hall with answer := s.hall.answer, arbs := s.hall.arbs } = s.hall) ∧
      (4 < w.items.length → t.barter = { s.barter with
        work := some { w with items := w.items.drop 4, out := w.out ++ got } }) ∧
      (w.items.length ≤ 4 → w.req = none → t.barter.work = none ∧ t.code = .ok ∧ t.barter.reply = w.out ++ got)))

/-- UPLOAD_OVERLAY writes its data where they lie wholly in an overlay region, word by word and nothing anywhere else; a request
outside one is answered BAD_PARAM and writes nothing (R349). That a request may be named by a command, without a frame, and
how its words fall into ticks, is the model's reading (log entries 32 and 78). -/
def Obligations.OverlaysAreUploaded : Prop :=
  (∀ (s : State) (a : Nat) (data : List Byte), s.clerkFree → a % 16 = 0 → a < 2 ^ 27 → data.length % 16 = 0 →
    16 ≤ data.length → data.length ≤ 1440 →
    let req : Instr := .uploadOverlay (beBytes 4 a ++ beBytes 2 data.length ++ [0, 0] ++ data)
    let items : List ClerkItem := (List.range (data.length / 16)).map fun i =>
      .write (a + 16 * i) (BitVec.ofNat 128 (leAt data (16 * i) 16))
    (inOverlay ((List.range 32).map s.region) a data.length = true →
      exec req s = .next ({ s with barter := { s.barter with work := some { req := none, items := items } } }.workOn 4)) ∧
    (inOverlay ((List.range 32).map s.region) a data.length = false → exec req s = .next (s.replied .badParam []))) ∧
  (∀ (s : State) (l : List (Nat × BitVec 128)), s.memoriesWf → l ≠ [] → (∀ k : Fin 8, (s.yards[k]).copying = false) →
    s.barter.work = some { req := none, items := l.map fun x => .write x.1 x.2 } →
    let now := l.take 4
    s.clerkReaches (now.map fun x => .write x.1 x.2) →
    let t := s.workOn 4
    { t with code := s.code, barter := s.barter, hall := s.hall, ev := { t.ev with banks := [] } } = s ∧
    (∀ x ∈ now, ∀ i < 16, memByte t.hall.mem (x.1 + i) = x.2.extractLsb' (8 * i) 8) ∧
    (∀ y : Nat, (∀ x ∈ now, y < x.1 ∨ x.1 + 16 ≤ y) → memByte t.hall.mem y = memByte s.hall.mem y) ∧
    (4 < l.length → t.barter = { s.barter with work := some { req := none, items := (l.drop 4).map fun x => .write x.1 x.2 } }) ∧
    (l.length ≤ 4 → t.barter.work = none ∧ t.code = .ok ∧ t.barter.reply = []))

/-- IMAGE_WRITE begins a program operation, and IMAGE_COMMIT of a slot that checks and is not preferred the operation that
writes its directory record; a commit of the slot that is preferred already is answered OK; a write to the running slot is
answered IMAGE_ERROR with toll 251 (R350, R377). FLASH_OPERATION_DONE completes the operation: the sectors that begin within
it are erased, bits only fall from 1 to 0, and no other byte changes. That a request may be named by a command, without a
frame, is the model's reading (log entry 32). The erase before a page and the deadline are the model's reading (log entry
39). -/
def Obligations.FlashIsWritten : Prop :=
  (∀ (s : State) (slot : Fin 2) (offset m : Nat) (data : List Byte), s.clerkFree → 1 ≤ m → m ≤ 5 → data.length = 256 * m →
    offset % 256 = 0 → offset + data.length ≤ s.slotLen → s.slotLen ≤ 2 ^ 31 → s.image.op = none →
    let req : Instr := .imageWrite ([BitVec.ofNat 8 slot, 0, 0, 0] ++ beBytes 4 offset ++ beBytes 2 data.length ++ [0, 0] ++ data)
    let op : FlashOp := ⟨s.slotAddr slot + offset, data, none⟩
    (s.runsFrom slot = true → exec req s = .next ((s.toll 251).replied .imageError [])) ∧
    (s.runsFrom slot = false → s.flashMites op ≤ mitesPerSec →
      exec req s = .next { s with image := { s.image with op := some op } })) ∧
  (∀ (s : State) (slot : Fin 2), s.clerkFree → s.image.op = none → (∃ x, s.checkSlot slot = (.ok x, s)) →
    let req : Instr := .imageCommit [BitVec.ofNat 8 slot, 0, 0, 0]
    let op : FlashOp := ⟨(s.commitRecord slot).1, (s.commitRecord slot).2, none⟩
    (s.preferredSlot = slot.val → exec req s = .next (s.replied .ok [])) ∧
    (s.preferredSlot ≠ slot.val → s.flashMites op ≤ mitesPerSec →
      exec req s = .next { s with image := { s.image with op := some op } })) ∧
  (∀ (s : State) (op : FlashOp), s.memoriesWf → s.image.op = some op → op.bytes ≠ [] → op.req = none →
    let u := s.eraseUnit op.addr
    let stop := op.addr + op.bytes.length
    let was (x : Nat) : Byte :=
      if op.addr ≤ x / u * u ∧ x / u * u < stop then 0xFF else Sparse.get flashFill s.image.flash x
    ∃ t, exec .flashOperationDone s = .next t ∧ { t with code := s.code, barter := s.barter, image := s.image } = s ∧ t.code = .ok ∧
      t.image.op = none ∧ ∀ x, Sparse.get flashFill t.image.flash x =
        if op.addr ≤ x ∧ x < stop then op.bytes.getD (x - op.addr) 0 &&& was x else was x)

/-- ACK_ATTN clears the masked items whose event does not fall in the present tick if the number is ASEQ; otherwise it clears
nothing and is answered RANGE (R344). -/
def Obligations.AttentionIsAcknowledged : Prop :=
  ∀ (s : State) (num mask : BitVec 16), s.clerkFree → s.status.aseq < 2 ^ 16 →
    let req : Instr := .ackAttn (beBytes 2 num.toNat ++ beBytes 2 mask.toNat)
    (num.toNat ≠ s.status.aseq → exec req s = .next (s.replied .range [])) ∧
    (num.toNat = s.status.aseq →
      ∃ t, exec req s = .next t ∧ { t with code := s.code, barter := s.barter, status := s.status, ev := s.ev } = s ∧ t.code = .ok ∧
        t.ev = { s.ev with acked := some (none, s.status) } ∧ t.status.aseq = s.status.aseq ∧
        (t.status.level = 0 ∨ t.status.level = s.status.level) ∧
        (mask.getLsbD 0 = true → 0 ∉ s.ev.items → t.status.level = 0 ∧ t.status.attnNew = false) ∧
        (mask.getLsbD 0 = false ∨ 0 ∈ s.ev.items →
          t.status.level = s.status.level ∧ t.status.attnNew = s.status.attnNew) ∧
        (t.status.segReady = (s.status.segReady && (!mask.getLsbD 1 || s.ev.items.contains 1))) ∧
        (t.status.measLimit = (s.status.measLimit && (!mask.getLsbD 2 || s.ev.items.contains 2))) ∧
        (t.status.tollMoved = (s.status.tollMoved && (!mask.getLsbD 3 || s.ev.items.contains 3))))

/-- A toll counter is read as its parameter and in a run by TOLL_READ, all in one tick, and what is counted in a tick is
read in it as before the increment (R397). Where samples of earlier ticks still wait for a Bell, a read shows their counts
too, which is the model's reading of when a Bell counts (log entry 23). -/
def Obligations.TollsAreRead : Prop :=
  (∀ (s : State) (i : Nat), i < 256 → s.readValue (0x2800 + i) = some (BitVec.ofNat 32 (s.tollShown i))) ∧
  (∀ (s : State) (i n : Nat), s.clerkFree → 1 ≤ n → i + n ≤ 256 → exec (.tollRead (beBytes 2 i ++ beBytes 2 n)) s =
    .next (s.replied .ok (beBytes 2 i ++ beBytes 2 n ++ (List.range n).flatMap fun j => beBytes 4 (s.tollShown (i + j))))) ∧
  (∀ (s : State) (i : Nat), (∀ n : Fin 16, (s.bell n).obs = []) → s.ev.past = [] →
    s.tollShown i = min (2 ^ 32 - 1) (s.tollValue i)) ∧
  (∀ (s : State) (i k n : Nat), (s.toll k n).tollValue i = s.tollValue i)

/-- LOG_READ returns entries of the error log's ring or of the DRAM error log's, and RESET_REQUEST with its confirmation
word makes an internal reset due 1 ms later; a request that has waited for 900 ms in a running device is answered BUSY_RETRY
with toll 245 (R340, R345, R350, R401). That a request may be named by a command, without a frame, is the model's reading
(log entry 32). -/
def Obligations.LogsAndDeadlines : Prop :=
  ∀ s : State,
    (s.clerkFree →
      (∀ log first n : Nat, log ≤ 1 → first < logSize log → 1 ≤ n → n ≤ 89 →
        let head := if log = 0 then s.log.head else s.dram.head
        let total := if log = 0 then s.log.total else s.dram.total
        exec (.logRead ([BitVec.ofNat 8 log, 0] ++ beBytes 2 first ++ beBytes 2 n ++ [0, 0])) s =
          .next (s.replied .ok (beBytes 2 head ++ [0, 0] ++ beBytes 4 total ++
            (List.range n).flatMap fun i => s.logBytes log ((first + i) % logSize log)))) ∧
      exec (.resetRequest [0x52, 0x53, 0, 0]) s = .next { s with
        code := .ok, barter := { s.barter with reply := [], resetAt := some (s.now + 40000000) } }) ∧
    (∀ q rest, s.barter.queue = q :: rest → s.now ≥ q.at_ + 900 * 40000000 → s.image.phase = .running →
      ∃ t, exec .requestDeadline s = .next t ∧ { t with code := s.code, barter := s.barter, ev := s.ev, tollDue := s.tollDue } = s ∧
        t.code = .busyRetry ∧ t.barter.queue = rest ∧ t.tollDue = (s.toll 245).tollDue ∧
        t.ev = { s.ev with expired := some (q, s.barter) } ∧
        (∀ k ∈ s.barter.kept, ¬(k.seq = q.seq ∧ k.trailer = q.trailer) → k ∈ t.barter.kept) ∧
        t.barter.kept.length = s.barter.kept.length ∧ ∀ k ∈ t.barter.kept, k.seq = q.seq → k.trailer = q.trailer → k.payload ≠ [])

/-- A consignment joins a Wharf whose link is up, in progress or queued, or is refused with BUSY_RETRY and toll 249 while the
link is down; one of the error log is four chunks long, and one of an empty stream is over at once (R432). A chunk leaves
through the BARTER region of Hall, and the consignment moves on; one of the error log holds its entries; where in the region
it lies is the model's choice (log entry 92). A link loss abandons what is there with toll 248 for each (R351 to R354). That
a request may be named by a command, without a frame, is the model's reading (log entry 32). -/
def Obligations.ConsignmentsAreSent : Prop :=
  ∀ s : State,
    (∀ body : List Byte, s.clerkFree → s.running fnWharf = true → s.wharf.queued = none → body.length = 44 →
      let c := s.consignOf body
      c.bad (beAt body 21 1) = false → c.beyond = false →
      (s.wharf.link = false → exec (.consign body) s = .next { (s.toll 249).replied .busyRetry [] with
        ev := { s.ev with linkDown := some (none, c) } }) ∧
      (s.wharf.link = true → (c.kind = 1 → c.snap = true → (s.yards[Fin.ofNat 8 c.unit]).copying = false) →
        exec (.consign body) s = .next ({ s with wharf := match s.wharf.current with
            | none => { s.wharf with current := if c.total = 0 then none else some c, cid := c.cid }
            | some _ => { s.wharf with queued := some c } }.replied .ok
          (beBytes 8 c.total ++ beBytes 4 ((c.total + 1023) / 1024) ++ [0, 0, 0, 0])))) ∧
    (∀ (cid port : Nat) (mac ip : List Byte), cid < 2 ^ 32 → port < 2 ^ 16 → mac.length = 6 → ip.length = 4 →
      s.consignOf (beBytes 4 cid ++ [3, 0] ++ beBytes 2 port ++ mac ++ [0, 0] ++ ip ++ List.replicate 24 0) =
        { cid := cid, kind := 3, port := port, mac := mac, ip := ip, stop := 4, total := 4096 }) ∧
    (∀ c : Consign, s.wharf.link = true → s.wharf.current = some c →
      (∃ t, exec .wharfChunk s = .next t ∧ t.wharf.sent = (s.wharf.sent + 1) % 2 ^ 32 ∧ t.wharf.lastTo = (c.mac, c.ip, c.port) ∧
        t.wharf.link = true ∧
        t.wharf.current = (if c.next + 1 < c.stop then some { c with next := c.next + 1 }
          else s.wharf.queued.filter fun q => q.total != 0) ∧
        t.wharf.queued = (if c.next + 1 < c.stop then s.wharf.queued else none)) ∧
      (c.kind = 3 → c.total = 4096 → c.next < 4 → s.memoriesWf →
        let a := (s.region (s.val F.WHF_CTRL_REGION)).base + 1024 * c.next
        ∃ t, exec .wharfChunk s = .next t ∧ { t with wharf := s.wharf, hall := s.hall } = s ∧
        memBytes t.hall.mem a 1024 = t.wharf.last.drop 16 ∧
        (∀ x, x < a ∨ a + 1024 ≤ x → memByte t.hall.mem x = memByte s.hall.mem x) ∧
        t.wharf.last.take 3 = [0x57, 0x68, 1] ∧ (t.wharf.last.drop 4).take 8 = beBytes 4 c.cid ++ beBytes 4 c.next ∧
        t.wharf.last.drop 16 = (List.range 64).flatMap fun j => (s.logEntry ((64 * c.next + j) % 256)).bytes)) ∧
    (s.ev.linkDown = none → exec .wharfLinkUp s = .next { s with wharf := { s.wharf with link := true } }) ∧
    (s.wharf.link = true → exec .wharfLinkLoss s = .next (State.tollMany { s with wharf := { s.wharf with
      link := false, current := none, queued := none } } 248 (s.wharf.current.isSome.toNat + s.wharf.queued.isSome.toNat)))

/-! ## The tally and the launch table (chapter 02) -/

/-- An edge on a tracked QUAD port, unfiltered (R34, R41, R43): one of A and B changed registers one count and one
measurement at the edge's stamp; both changed is toll 1; a count within 20 ns of the last is toll 2. A rising Z of the
active port, in a mode with a Z, is the index (R33, R49). -/
def Obligations.EdgesAreRegistered : Prop :=
  ∀ (s : State) (p : Fin 4) (stamp : Nat), s.power.regime ≠ .watch → s.filterMites p = 0 → s.portTracked p = true →
    let P := s.tally.ports[p]
    (s.portMode p = 1 → s.ev.timeout = none →
      (exec (.tallyCountEdge p (!P.a) (!P.b) stamp) s = .next ((s.modPort p fun q => { q with a := !P.a, b := !P.b }).toll 1)) ∧
      (∀ c, P.lastCount = some c → stamp < c + 800 →
        exec (.tallyCountEdge p (!P.a) P.b stamp) s = .next ((s.modPort p fun q => { q with a := !P.a }).toll 2)) ∧
      ((∀ c, P.lastCount = some c → c + 800 ≤ stamp) →
        ∃ t k, exec (.tallyCountEdge p (!P.a) P.b stamp) s = .next t ∧ (k = P.count + 1 ∨ k = P.count - 1) ∧
          { t with tally := s.tally } = s ∧
          { t.tally with ports := s.tally.ports, measQ := s.tally.measQ } = s.tally ∧
          t.tally.measQ = s.tally.measQ ++ [⟨p, P.posOf (s.countsPerTurn p) k, stamp⟩] ∧
          t.tally.ports[p] = { P with
            a := !P.a, count := k, reverse := decide (k < P.count), lastCount := some stamp, lastMeas := some stamp
            prevMeas := P.lastMeas, lastPos := P.posOf (s.countsPerTurn p) k } ∧
          ∀ q : Fin 4, q ≠ p → t.tally.ports[q] = s.tally.ports[q])) ∧
    (p = s.tally.active → modeHasIndex (s.portMode p) = true → s.flag F.TLY_TP_MODE_Z_EN p = true → P.z = false →
      ∃ t, exec (.tallyIndex p true stamp) s = .next t ∧ { t with tally := s.tally } = s ∧
        { t.tally with ports := s.tally.ports, index := s.tally.index } = s.tally ∧ t.tally.index = some stamp ∧
        t.tally.ports[p] = { P with z := true } ∧ ∀ q : Fin 4, q ≠ p → t.tally.ports[q] = s.tally.ports[q])

/-- A measurement of the active port (R43, R45, R47): STILL and TRACKING hand it to the loop; COASTING rejoins and tracks,
with toll 5, the measurement placed on the count that is assigned to it, and the jump is made good in one step or set as the
residue of a slew (R48); LOST begins to reacquire, and REACQUIRING goes on counting until there are enough. In CRIER mode a
measurement has no count and is taken as it is. -/
def Obligations.MeasurementsMoveTheTally : Prop :=
  ∀ (s : State) (m : Meas) (q : List Meas), s.tally.measQ = m :: q → m.port = s.tally.active →
    let P := s.tally.ports[m.port]
    let counted := s.portMode m.port ≠ 6
    let pos : Rat := if s.portMode m.port = 6 then m.pos else P.posOf (s.countsPerTurn m.port) (s.assignCount m)
    let placed (t : State) : Prop := { t.tally.ports[m.port] with count := P.count } = P ∧
      (counted → (t.tally.ports[m.port]).count = s.assignCount m) ∧ (¬counted → t.tally.ports[m.port] = P) ∧
      ∀ p : Fin 4, p ≠ m.port → t.tally.ports[p] = s.tally.ports[p]
    ((s.tally.mode = .still ∨ s.tally.mode = .tracking) →
      exec .tallyMeasurement s = .next { s with tally := { s.tally with
        measQ := q, mode := .tracking, loop := some m, measured := true, fbOffset := (s.measureOffset m).tally.fbOffset } }) ∧
    (s.tally.mode = .coasting →
      let j := pos - s.extrapolated m.stamp
      ∃ t, exec .tallyMeasurement s = .next t ∧ { t with tally := s.tally, tollDue := s.tollDue } = s ∧
        t.tollDue = (s.toll 5).tollDue ∧ t.tally.mode = .tracking ∧ t.tally.measQ = q ∧ t.tally.loop = none ∧ placed t ∧
        t.tally.pos = s.tally.pos ∧ t.tally.spd = s.tally.spd ∧ t.tally.acc = s.tally.acc ∧ t.tally.lastStamp = m.stamp ∧
        t.tally.lastPos = pos ∧ t.tally.lastJump = grainWord j ∧
        (s.flag F.TLY_REJOIN_POLICY = false →
          t.tally.residue = 0 ∧ t.tally.jump = s.tally.jump + j ∧ t.tally.stepped = true) ∧
        (s.flag F.TLY_REJOIN_POLICY = true →
          t.tally.residue = j ∧ t.tally.jump = s.tally.jump ∧ t.tally.stepped = s.tally.stepped)) ∧
    (s.tally.mode = .lost →
      ∃ t, exec .tallyMeasurement s = .next t ∧ { t with tally := s.tally } = s ∧ placed t ∧
        t.tally = { s.tally with
          ports := t.tally.ports, measQ := q, mode := .reacquiring, reacq := 1, measured := true, lastStamp := m.stamp, lastPos := pos
          lastTick := s.now, gain := s.measGain, lastDt := s.measDt, expect := .none }) ∧
    (s.tally.mode = .reacquiring → s.tally.reacq + 1 < s.val F.TLY_REJOIN_REACQ →
      exec .tallyMeasurement s = .next { s with tally := { s.tally with
        measQ := q, reacq := s.tally.reacq + 1, measured := true, lastStamp := m.stamp, lastPos := m.pos, lastTick := s.now
        gain := s.measGain, lastDt := s.measDt, expect := .none } })

/-- The tally's timeouts (R45, R50): a loss interval without an edge begins a coast with toll 3, or moves to a tracking
fallback port with tolls 7 and 5; the longest coast ends in LOST with toll 4 and INDEXED clear; a stopped motion is STILL.
An edge of the active port in the same tick prevents each of them (R59), and one registered after a timeout takes it back.
That a coast begins at mite 0 of its tick is the model's choice (log entry 73). -/
def Obligations.TimeoutsMoveTheTally : Prop :=
  ∀ s : State,
    let keeps (tolls : List Nat) : Option (Tally × List Nat) := some (match s.ev.timeout with
      | some (before, counted) => (before, counted ++ tolls)
      | none => (s.tally, tolls))
    let after (tolls : List Nat) (t : Tally) : State :=
      { s with tally := t, ev := { s.ev with timeout := keeps tolls }, tollDue := (tolls.foldl (fun u i => u.toll i) s).tollDue }
    (s.tally.mode = .tracking → s.tallyClock = false → s.edgeInTick = false → s.lossDue = true →
      ((∀ p, s.fallbackPort = some p → s.tally.onFb = true ∨ s.portTracking p = false) → exec .lossIntervalExpiry s =
        .next (after [3] { s.tally with mode := .coasting, coastAt := s.now })) ∧
      (∀ p, s.fallbackPort = some p → s.tally.onFb = false → s.portTracking p = true →
        ∃ t, exec .lossIntervalExpiry s = .next t ∧ t = after [7, 5] t.tally ∧
          t.tally.mode = .tracking ∧ t.tally.active = p ∧ t.tally.onFb = true)) ∧
    (s.tally.mode = .coasting → s.edgeInTick = false →
      s.reached (s.tally.coastAt + tallyTimeMites (s.val F.TLY_COAST_MAX_CMAX)) = true → exec .coastMaxExpiry s =
        .next (after [4] { s.tally with mode := .lost, leaving := true, indexed := false, residue := 0 })) ∧
    (s.tally.mode = .tracking → s.edgeInTick = false → s.stillDue = true → s.tallyClock = false →
      s.tally.expect.unbounded = true → exec .stillTimeExpiry s =
        .next (after [] { s.tally with mode := .still, spd := 0, acc := 0 })) ∧
    (s.tally.mode = .reacquiring → s.edgeInTick = false → s.stillDue = true → exec .stillTimeExpiry s =
        .next (after [4] { s.tally with mode := .lost, reacq := 0, indexed := false, residue := 0 })) ∧
    (s.edgeInTick = true → exec .lossIntervalExpiry s = .next s ∧ exec .stillTimeExpiry s = .next s ∧
      exec .coastMaxExpiry s = .next s) ∧
    (∀ (before : Tally) (tolls : List Nat), s.ev.timeout = some (before, tolls) →
      (s.edgeWins before.active).tally.mode = before.mode ∧ (s.edgeWins before.active).ev.timeout = none ∧
      (s.edgeWins before.active).tollDue = (s.untollAll tolls).tollDue)

/-- A read of TLY_SNAP_PLO returns the low word of the position in grains at mite 0 of its tick and latches the high word,
the chronicle and the speed of the same tick, in grains per tick as a signed 16.16 number; the four words that it latches
read as latched (R5, R58). A read of MNT_CHRON_LO returns the chronicle of its tick and latches its two higher words (R71).
Which tick's broadcast the first is, is the model's reading (log entry 67). -/
def Obligations.SnapshotsAreLatched : Prop :=
  ∀ s : State,
    (∃ t, exec .tallySnapRead s = .next t ∧ { t with tally := s.tally, code := s.code } = s ∧ t.code = .ok ∧
      { t.tally with snapPhi := s.tally.snapPhi, snapClo := s.tally.snapClo, snapChi := s.tally.snapChi
                     snapSpd := s.tally.snapSpd } = s.tally ∧
      s.readValue R.TLY_SNAP_PLO.base = some s.snapPlo ∧
      (t.tally.snapPhi ++ s.snapPlo : BitVec 64) = BitVec.ofInt 64 (s.broadcast.bp / 65536) ∧
      (t.tally.snapChi ++ t.tally.snapClo : BitVec 64) = BitVec.ofNat 64 s.now ∧
      t.tally.snapSpd = BitVec.ofInt 32 (max (-2 ^ 31) (min (2 ^ 31 - 1) ((s.broadcast.bs : Rat) * 32 / s.tickLen).floor)) ∧
      t.readValue R.TLY_SNAP_PHI.base = some t.tally.snapPhi ∧ t.readValue R.TLY_SNAP_CLO.base = some t.tally.snapClo ∧
      t.readValue R.TLY_SNAP_CHI.base = some t.tally.snapChi ∧ t.readValue R.TLY_SNAP_SPD.base = some t.tally.snapSpd) ∧
    ∃ t, exec .chronRead s = .next t ∧ t = { s with code := .ok, refs := { s.refs with
        chronHi := s.chron.extractLsb' 32 32, chronEra := (s.chron.extractLsb' 64 16).zeroExtend 32 } } ∧
      s.readValue R.MNT_CHRON_LO.base = some (s.chron.extractLsb' 0 32) ∧
      t.readValue R.MNT_CHRON_HI.base = some (s.chron.extractLsb' 32 32) ∧
      t.readValue R.MNT_CHRON_ERA.base = some ((s.chron.extractLsb' 64 16).zeroExtend 32)

/-- TLY_LSk_CTRL (R55): ARM registers an arming to the target in TLO and THI, which takes effect at the next tick and clears
FIRED and LATE; ARM = 0 registers a disarm; DIR 3 is refused with RANGE and toll 243; so is a chronicle target older than
TLY_LATE_MITES, which counts toll 8 as well. An armed slot whose chronicle target falls in the present tick fires once, at
the target's mite, and one whose target the tally crosses fires at the crossing; its actions are due in the next tick (R52,
R54, R56). A slot that is not armed does nothing. A TOUT pulse is 16 ticks long (R56). That an event which is not due, or
whose situation does not hold, changes nothing is the model's choice (log entry 2). -/
def Obligations.SlotsAreArmedAndFire : Prop :=
  (∀ (s : State) (k : Fin 64) (ctrl : Word),
    let sl := s.slots[k]
    let d := F.TLY_LS_CTRL_DIR.get ctrl
    let chron := F.TLY_LS_CTRL_BASE.get ctrl == 1
    let old := decide ((s.val F.TLY_LATE_MITES_MSPAN : Int) < s.targetAge (s.slotTarget k))
    let put (u : State) (sl' : Slot) : State :=
      { (u.writeLaunchCtrl k ctrl) with slots := s.slots.set k.val sl' k.isLt, code := .ok }
    (d = 3 → exec (.launchArm k ctrl) s = .next (s.refuseWrite .range) ∧
      exec (.launchDisarm k ctrl) s = .next (s.refuseWrite .range)) ∧
    (d ≠ 3 → (chron && old) = true → exec (.launchArm k ctrl) s = .next ((s.toll 8).refuseWrite .range)) ∧
    (d ≠ 3 → (chron && old) = false → exec (.launchArm k ctrl) s = .next (put s { sl with
      arming := some ⟨s.slotTarget k, d, chron⟩, disarm := false })) ∧
    (∀ a : Arming, sl.arming = some a →
      let o := (s.slotOpen sl).1
      o.armed = true ∧ o.latched = a ∧ o.arming = none ∧ o.fired = false ∧ o.late = false) ∧
    (d ≠ 3 → exec (.launchDisarm k ctrl) s = .next (put s { sl with arming := none, disarm := true }))) ∧
  (∀ s : State,
    (∀ (k : Fin 64) (instant : Nat), (s.slots[k]).armed = true → (s.slots[k]).test = false →
      ((s.slots[k]).latched.chron = true ∧ s.now ≤ instant ∧ instant < s.now + s.tickLen ∧
          (s.slots[k]).latched.target.toNat = instant % 2 ^ 64 ∨
        (s.slots[k]).latched.chron = false ∧ s.broadcast.fires = true ∧
          tallyCrossing s.broadcast s.tickLen (s.slots[k]).latched (s.slots[k]).prev = some ⟨instant, none⟩) →
      ∃ (t : State) (a : Action), exec (.launchSlotFire k) s = .next t ∧
        { t with slots := s.slots, acts := s.acts, aux := s.aux } = s ∧
        t.slots = s.slots.set k.val { s.slots[k] with armed := false, fired := true, late := false } k.isLt ∧
        t.acts = s.acts ++ [a] ∧ a.instant = instant ∧ a.due = s.now + s.tickLen ∧ a.late = false ∧
        t.aux = if s.val F.AUX_INJ16_SLOT = k.val then { s.aux with asked := s.aux.asked ++ [16] } else s.aux) ∧
    (∀ k : Fin 64, (s.slots[k]).armed = false → exec (.launchSlotFire k) s = .next s) ∧
    (∀ (pin : Fin 4) (r : Nat) (rs : List Nat), (s.trigOut[pin]).rises = r :: rs → r < s.now + s.tickLen →
      exec (.toutPulseRise pin) s = .next (s.modTout pin fun p => { p with level := true, rises := rs, fall := some (r + 512) })) ∧
    (∀ (pin : Fin 4) (f : Nat), (s.trigOut[pin]).fall = some f → f < s.now + s.tickLen →
      exec (.toutPulseFall pin) s = .next (s.modTout pin fun p => { p with level := false, fall := none })))

/-! ## Hall and its arbiters (chapter 12) -/

/-- Accesses of a port to a word of its regions, with no error found (R247 to R250, R253): a read returns the word, a write
changes the bytes of the halves written, an atomic changes the lanes selected and answers the old word where asked. No other
byte changes, and the answer is due six ticks later; a word that a snapshot copy has still to pass is copied first (R242),
and is not the subject here. The access takes its bank under the grant of the bank's arbiter (R249, R258); a bank that
cannot execute it in this tick does not, which as a command is the model's reading (log entry 56). An access outside the
regions of its port is not executed: an error response, toll 162 and a log entry (R253). An uncorrectable error is counted
in toll 161 and logged, a corrected one in toll 160 (R250). The ECC error that an access finds is an operand of its command
(log entry 14). -/
def Obligations.HallAccessesAndErrors : Prop :=
  (∀ (s : State) (port : Fin 26) (addr : BitVec 27), s.memoriesWf → s.hallSound → s.accessOk port addr.toNat = true →
    s.bankFree port addr.toNat = true →
    let a := wordAddr addr.toNat
    (∀ k : Fin 8, (s.yards[k]).copying = true → a < s.mapBase k ∨ s.mapBase k + s.mapBytes k ≤ a) →
    let done (c : Instr) (put : Nat → Option Byte) (w : BitVec 128) (sat : BitVec 4) : Prop :=
      ∃ t, exec c s = .next t ∧ { t with hall := s.hall, ev := s.ev } = s ∧ t.ev = (s.takeBank port addr.toNat).ev ∧
        { t.hall with mem := s.hall.mem, answer := s.hall.answer } = (s.takeBank port addr.toNat).hall ∧
        t.hall.answer = ⟨port, w, false, sat, s.now + 192⟩ ∧
        (∀ i < 16, memByte t.hall.mem (a + i) = (put i).getD (memByte s.hall.mem (a + i))) ∧
        (∀ x, (x < a ∨ a + 16 ≤ x) → memByte t.hall.mem x = memByte s.hall.mem x)
    let byteOf (v : Nat) (i : Nat) : Byte := BitVec.ofNat 8 (v / 256 ^ i)
    let old (i : Nat) : Nat := memNat s.hall.mem (a + 4 * i) 4
    let sel (mask : BitVec 4) (v : Nat → Nat) (i : Nat) : Option Byte :=
      if mask.getLsbD (i / 4) then some (byteOf (v (i / 4)) (i % 4)) else none
    let ans (ret : Bool) : BitVec 128 := if ret then BitVec.ofNat 128 (memNat s.hall.mem a 16) else 0
    done (.hallRead port addr .clean .clean) (fun _ => none) (ans true) 0 ∧
    (∀ (h0 h1 : Bool) (w : BitVec 128), done (.hallWrite port addr h0 h1 w)
      (fun i => if (if i < 8 then h0 else h1) then some (byteOf w.toNat i) else none) 0 0) ∧
    (∀ (mask : BitVec 4) (v : Vector Word 4) (ret : Bool),
      done (.add32Wrapping port addr mask v ret .clean .clean)
        (sel mask fun i => (old i + (v[Fin.ofNat 4 i]).toNat) % 2 ^ 32) (ans ret) 0 ∧
      (∃ sat : BitVec 4, (∀ i < 4, sat.getLsbD i = (mask.getLsbD i && decide (2 ^ 32 ≤ old i + (v[Fin.ofNat 4 i]).toNat))) ∧
        done (.add32Saturating port addr mask v ret .clean .clean)
          (sel mask fun i => min (old i + (v[Fin.ofNat 4 i]).toNat) (2 ^ 32 - 1)) (ans ret) sat) ∧
      done (.swap32 port addr mask v .clean .clean) (sel mask fun i => (v[Fin.ofNat 4 i]).toNat) (ans true) 0) ∧
    (∀ (h0 h1 : Bool) (v : Vector Quad 2), done (.swap64 port addr h0 h1 v .clean .clean)
      (fun i => if (if i < 8 then h0 else h1) then some (byteOf (v[Fin.ofNat 2 (i / 8)]).toNat (i % 8)) else none) (ans true) 0)) ∧
  (∀ (s : State) (port : Fin 26) (addr : BitVec 27),
    (s.accessOk port addr.toNat = false → ∀ c ∈ ([.hallRead port addr .clean .clean, .hallWrite port addr true true 0,
        .add32Wrapping port addr 15 (Vector.replicate 4 1) true .clean .clean,
        .add32Saturating port addr 15 (Vector.replicate 4 1) true .clean .clean,
        .swap32 port addr 15 (Vector.replicate 4 1) .clean .clean,
        .swap64 port addr true true (Vector.replicate 2 1) .clean .clean] : List Instr),
      ∃ t, exec c s = .next t ∧ { t with hall := s.hall, tollDue := s.tollDue, log := s.log } = s ∧ t.hall.mem = s.hall.mem ∧
        t.hall.answer.error = true ∧ t.tollDue = (s.toll 162).tollDue ∧
        t.log.due = s.log.due ++ [⟨s.now % 2 ^ 64, 4, port, 162, addr.zeroExtend 32⟩]) ∧
    (s.accessOk port addr.toNat = true → s.bankFree port addr.toNat = false → ∀ e0 e1, exec (.hallRead port addr e0 e1) s = .next s) ∧
    (s.accessOk port addr.toNat = true → s.bankFree port addr.toNat = true → s.hallSound →
      (∃ t, exec (.hallRead port addr .corrected .clean) s = .next t ∧
        { t with hall := s.hall, ev := s.ev, stalls := s.stalls, tollDue := s.tollDue } = s ∧ t.hall.mem = s.hall.mem ∧
        t.stalls = (s.markStaging (wordAddr addr.toNat) 0x100).stalls ∧ t.hall.answer.error = false ∧
        t.tollDue = (s.toll 160).tollDue ∧ t.hall.eccAddr = wordAddr addr.toNat ∧ t.hall.eccUncorr = false) ∧
      (∃ t, exec (.hallRead port addr .uncorrectable .clean) s = .next t ∧
        { t with hall := s.hall, ev := s.ev, stalls := s.stalls, tollDue := s.tollDue, log := s.log } = s ∧ t.hall.mem = s.hall.mem ∧
        t.stalls = (s.markStaging (wordAddr addr.toNat) 0x200).stalls ∧
        t.hall.answer.error = true ∧ t.tollDue = (s.toll 161).tollDue ∧ t.hall.eccUncorr = true ∧
        t.log.due.length = s.log.due.length + 1)))

/-- The scrubber visits every word of Hall in turn, in cycles that background work may use (R261); a period that ends before
its pass counts toll 166, and one that ends after it begins the next (R251). A freeze is written for the next cycle, but a
new one is refused with STOP_LOCKED and tolls 168 and 243 while a function it would starve runs (R265, R266). A request
presented waits at its arbiter, a Hall bank's, a subchannel's or a transmit queue's; a held one out of order is single, with
toll 165 (R258, R263). -/
def Obligations.ScrubsFreezesAndRequests : Prop :=
  (∀ s : State,
    (s.hall.scrubOn = true → s.hallSound → s.backgroundMay 24 (16 * s.hall.scrubWord) = true →
      let u := s.takeBank 24 (16 * s.hall.scrubWord)
      (s.hall.scrubWord + 1 < 2 ^ 23 → exec (.scrubStep .clean .clean) s = .next { u with hall := { u.hall with
        scrubWord := s.hall.scrubWord + 1 } }) ∧
      (s.hall.scrubWord + 1 = 2 ^ 23 → s.hall.scrubLate = false → exec (.scrubStep .clean .clean) s = .next { u with
        hall := { u.hall with scrubWord := 0, scrubOn := false, scrubPasses := (s.hall.scrubPasses + 1) % 256 } })) ∧
    (s.hall.scrubLate = false → s.now + s.tickLen > s.hall.scrubStart + s.hall.scrubPeriod * 40000000000 →
      (s.hall.scrubOn = true → exec .hallScrubPeriod s = .next ({ s with hall := { s.hall with scrubLate := true } }.toll 166)) ∧
      (s.hall.scrubOn = false → exec .hallScrubPeriod s = .next { s with hall := { s.hall with
        scrubOn := true, scrubStart := s.now, scrubPeriod := s.wval F.HAL_SCRUB_PERIOD } }))) ∧
  (∀ s : State,
    (∀ (j : Fin 8) (w : Word),
      ((w &&& ~~~(s.lastWritten (R.HAL_FREEZE.num j)) = 0 ∨ s.hallUsers = false) → exec (.hallFreezeWrite j w) s =
        .next (((s.setWritten (R.HAL_FREEZE.num j) w (BitVec.allOnes 32)).atNextTick (R.HAL_FREEZE.num j)).answer .ok)) ∧
      (w &&& ~~~(s.lastWritten (R.HAL_FREEZE.num j)) ≠ 0 → s.hallUsers = true →
        exec (.hallFreezeWrite j w) s = .next ((s.toll 168).refuseWrite .stopLocked))) ∧
    (∀ w : Word,
      ((w &&& 0xFF &&& ~~~(s.lastWritten R.ARB_DFREEZE.base) = 0 ∨ s.anyStall = false) → exec (.dramFreezeWrite w) s =
        .next (((s.setWritten R.ARB_DFREEZE.base w 0xFF).atNextTick R.ARB_DFREEZE.base).answer .ok)) ∧
      (w &&& 0xFF &&& ~~~(s.lastWritten R.ARB_DFREEZE.base) ≠ 0 → s.anyStall = true →
        exec (.dramFreezeWrite w) s = .next ((s.toll 168).refuseWrite .stopLocked))) ∧
    (∀ (arb : Fin 269) (port : Fin 26) (held : Bool) (work : List (BitVec 38)) (bg : Bool), work ≠ [] →
      (arb.val < 256 ∧ (arb.val, port.val) ∉ s.ev.presented ∧
          (s.ev.presented.filter fun x => decide (x.1 < 256) && x.2 == port.val).length < portWidth port ∨
        264 ≤ arb.val ∧ port.val = (if arb.val = 268 then 23 else 22) ∨
        256 ≤ arb.val ∧ arb.val < 264 ∧ port.val < 4 ∧ ∀ b, (s.dram.subs[subOf arb]).sr ≠ .entering b) →
      ∃ t, exec (.hallRequest arb port held work bg) s = .next t ∧
        { t with hall := s.hall, ev := s.ev, tollDue := s.tollDue } = s ∧ t.hall.mem = s.hall.mem ∧
        t.tollDue = (s.tollIf (held && s.holdsLater port arb) 165).tollDue ∧
        t.arb arb = { s.arb arb with live := (s.arb arb).live ++
          [⟨port, held && !(s.holdsLater port arb), work.length, bg, work.map (·.toNat)⟩] }))

/-! ## The Steelyard (chapter 11) -/

/-- Clears and snapshots (R242, R243). A clear shows CLEARING until it has passed every word; each word that it passes is
zero after, no other byte changing. A snapshot is due in the next tick, or is refused with toll 149 where the map does not
run or has none, and with toll 146 while a copy runs. Each word that a copy passes is read as it stands and, six ticks on,
written at its place in the snapshot, no other byte changing; the copy shows COPYING until it has written every word.
Reading SNAP_CLO latches the other words of its instant. How many words a pass visits in a tick, and that an event which is
not due changes nothing, are the model's choices (log entries 77 and 2). -/
def Obligations.MapsAreClearedAndSnapped : Prop :=
  ∀ (s : State) (k : Fin 8),
    let y := s.yards[k]
    let yard (y' : Yard) : State := { s with yards := s.yards.set k.val y' k.isLt }
    let word (a i : Nat) : Prop := s.memoriesWf ∧ s.hallSound ∧ s.accessOk 16 (a + 16 * i) = true
    (exec (.yardClear k) s = .next ((yard (if y.clearing then y else { y with clearing := true, clearAt := 0 })).answer .ok)) ∧
    (y.clearing = true →
      (s.mapWords k ≤ y.clearAt → exec (.clearDone k) s = .next (yard { y with clearing := false })) ∧
      (y.clearAt < s.mapWords k → exec (.clearDone k) s = .next s)) ∧
    (∀ i : Nat, word (s.mapBase k) i → (∀ j : Fin 8, (s.yards[j]).copying = false) →
      let t := s.visitClear k i
      let a := s.mapBase k + 16 * i
      { t with hall := s.hall, yards := s.yards } = s ∧ t.yards = s.yards.set k.val { y with clearAt := i + 1 } k.isLt ∧
      ∀ x, memByte t.hall.mem x = if a ≤ x ∧ x < a + 16 then 0 else memByte s.hall.mem x) ∧
    ((s.yardRuns k && s.flag F.YRD_REGION_SNAP_EN k) = false → exec (.yardSnap k) s = .next ((s.toll 149).answer .ok)) ∧
    (s.yardRuns k = true → s.flag F.YRD_REGION_SNAP_EN k = true →
      (y.copying = true → exec (.yardSnap k) s = .next ((s.toll 146).answer .ok)) ∧
      (y.copying = false → exec (.yardSnap k) s = .next ((yard { y with snapDue := true }).answer .ok))) ∧
    (y.copying = true →
      (s.mapWords k ≤ y.copyAt → (∀ x ∈ y.owed, x.2.isStore = false) →
        exec (.snapCopyDone k) s = .next (yard { y with copying := false, copied := [] })) ∧
      (y.copyAt < s.mapWords k ∨ (∃ x ∈ y.owed, x.2.isStore = true) → exec (.snapCopyDone k) s = .next s)) ∧
    (∀ i : Nat, word (s.mapBase k) i → y.copying = true → y.copyAt ≤ i → i ∉ y.copied →
      s.visitCopy k i = yard { y with
        copyAt := i + 1
        owed := y.owed ++ [(s.now + 6 * 32, .store (s.snapBase k + 16 * i) (memNat s.hall.mem (s.mapBase k + 16 * i) 16))] }) ∧
    (∀ i w : Nat, word (s.snapBase k) i →
      let t := s.makeOwed (.store (s.snapBase k + 16 * i) w)
      let a := s.snapBase k + 16 * i
      { t with hall := s.hall } = s ∧ memNat t.hall.mem a 16 = w % 2 ^ 128 ∧
      ∀ x, x < a ∨ a + 16 ≤ x → memByte t.hall.mem x = memByte s.hall.mem x) ∧
    (exec (.yardSnapRead k) s = .next ((yard { y with
      latchChi := y.snapChron.extractLsb' 32 32, latchPlo := y.snapPos.extractLsb' 0 32
      latchPhi := y.snapPos.extractLsb' 32 32 }).answer .ok))

/-- Decay (R241): a period brings K and PERIOD as last written into force and begins a sweep, or skips it while one runs; at
each word that a sweep visits, the share 2^-K of every cell, rounded up, is owed, and it is taken from the cells by a
wrapping add, no other byte changing; the sweep shows SWEEPING until it has visited every word and made its subtractions. A
run's adds, up to four in a tick, increment, saturating, the cells of each word that its mask selects, and no other, and the
rest wait; the run no longer waits; a saturation counts toll 144 once a tick for its map (R237, R238, R247). How many words
a sweep visits in a tick is the model's choice (log entry 77). -/
def Obligations.RunsAreAddedAndDecay : Prop :=
  (∀ (s : State) (k : Fin 8),
    let y := s.yards[k]
    let yard (y' : Yard) : State := { s with yards := s.yards.set k.val y' k.isLt }
    let force := (s.bringIntoForce [F.YRD_DECAY_K.num k]).force
    let e := s.wval F.YRD_DECAY_K k
    let next := y.periodAt + max 1 (s.wval F.YRD_DECAY_PERIOD k) * 40000000
    (s.yardRuns k = true → s.reached y.periodAt = true → e ≠ 0 → Sparse.wf resetWord s.force = true →
      (y.sweeping = false → exec (.decayPeriodStart k) s = .next { s with
        force := force
        yards := s.yards.set k.val { y with periodAt := next, sweeping := true, sweepK := e, sweepAt := 0 } k.isLt }) ∧
      (y.sweeping = true → exec (.decayPeriodStart k) s = .next { s with
        force := force, yards := s.yards.set k.val { y with periodAt := next } k.isLt
        ev := { s.ev with yardSkip := k :: s.ev.yardSkip } })) ∧
    (y.sweeping = true → s.ev.yardSkip = [] →
      (s.mapWords k ≤ y.sweepAt → (∀ x ∈ y.owed, x.2.isStore = true) →
        exec (.decaySweepDone k) s = .next (yard { y with sweeping := false })) ∧
      (y.sweepAt < s.mapWords k ∨ (∃ x ∈ y.owed, x.2.isStore = false) → exec (.decaySweepDone k) s = .next s)) ∧
    (∀ i : Nat, s.hallSound → s.accessOk 16 (s.mapBase k + 16 * i) = true →
      let a := s.mapBase k + 16 * i
      let cell (j : Nat) : Nat := memNat s.hall.mem (a + 4 * j) 4
      let share (j : Nat) : Nat := (cell j + 2 ^ y.sweepK - 1) / 2 ^ y.sweepK
      s.visitSweep k i = yard { y with
        sweepAt := i + 1, owed := y.owed ++ [(s.now + 6 * 32, .lower a [share 0, share 1, share 2, share 3])] })) ∧
  (∀ (s : State) (a : Nat) (subs : List Nat), a % 16 = 0 → s.memoriesWf → s.hallSound → s.accessOk 16 a = true →
    (∀ j : Fin 8, (s.yards[j]).copying = false) →
    let t := s.makeOwed (.lower a subs)
    { t with hall := s.hall } = s ∧
    (∀ j < 4, subs.getD j 0 ≤ 2 ^ 32 → (memNat t.hall.mem (a + 4 * j) 4 : Int) =
      ((memNat s.hall.mem (a + 4 * j) 4 : Int) - subs.getD j 0) % 2 ^ 32) ∧
    ∀ x, x < a ∨ a + 16 ≤ x → memByte t.hall.mem x = memByte s.hall.mem x) ∧
  (∀ (s : State) (n : Fin 16) (r : YardRun) (rs : List YardRun),
    let now := r.adds.take 4
    (s.stalls[n]).runs = r :: rs → s.yardTooFast r.map = false → (s.yards[r.map]).adds = [] → s.memoriesWf → s.hallSound →
    (∀ j : Fin 8, (s.yards[j]).copying = false) → s.ev.banks = [] → (now.map fun p => hallBank p.1).Nodup →
    Sparse.wf (fun _ => ({} : Arbiter)) s.hall.arbs = true →
    (∀ p ∈ now, p.1 % 16 = 0 ∧ p.2 < 16 ∧ s.accessOk 16 p.1 = true ∧ s.bankFree 16 p.1 = true) →
    let old (a i : Nat) : Nat := memNat s.hall.mem (a + 4 * i) 4
    let sat (p : Nat × Nat) : Bool := (List.range 4).any fun i => p.2.testBit i && old p.1 i == 2 ^ 32 - 1
    ∃ t, exec (.yardRunAdd n) s = .next t ∧
      { t with hall := s.hall, stalls := s.stalls, yards := s.yards, ev := s.ev, tollDue := s.tollDue } = s ∧
      t.stalls = s.stalls.set n.val { s.stalls[n] with runs := rs } n.isLt ∧
      t.yards = s.yards.set r.map.val { s.yards[r.map] with adds := r.adds.drop 4 } r.map.isLt ∧
      (∀ p ∈ now, ∀ i < 4, memNat t.hall.mem (p.1 + 4 * i) 4 =
        if p.2.testBit i then min (old p.1 i + 1) (2 ^ 32 - 1) else old p.1 i) ∧
      (∀ x, (∀ p ∈ now, x < p.1 ∨ p.1 + 16 ≤ x) → memByte t.hall.mem x = memByte s.hall.mem x) ∧
      t.tollDue = (s.tollIf (now.any sat && !s.ev.yardSat.contains r.map) 144).tollDue)

/-! ## The Sieve (chapter 09) -/

/-- A channel filters an input (R204, R208): with one section, the section's recurrence in 40 bits, scaled to 16; with more, the
cascade of them; each section and each output that clamps makes toll 128 or 129 due in the tick in which the engine forms
it, and the output is released after the channel's latency. No other channel changes. An output whose tick has come reaches
its stall's staging, and every eighth presents a request of Hall port 20 for a word of the stall's region (R203, R208). A
synchronising reset is registered for the channels named and no others (R213). In which tick a section is evaluated, and
that eight outputs make a word, are the model's choices (log entry 88). -/
def Obligations.SamplesAreFilteredAndReleased : Prop :=
  (∀ (s : State) (n : Fin 16) (v : Val) (tick : Nat) (q : List (Fin 16 × Val × Nat)), s.sieve.inputs = (n, v, tick) :: q →
    let c := s.sieve.chans[n]
    s.inputHeld n v = false → s.beginsBy n v = none → s.flag F.SIV_CH_CFG_MEDIAN n = false → s.val F.SIV_CH_CFG_K n = 1 →
    c.resets = [] → c.request = none → c.queued = none → c.fade = none → c.force = false →
    let b (i : Nat) : Int := s.sieve.coef n false 0 i
    let x : Int := v.lo * 256
    let rnd (p : Int) : Int := roundDiv p (2 ^ 29)
    let y := satSigned 40 (rnd (b 0 * x) + (c.bankA[(0 : Fin 16)]).1)
    let z := satSigned 16 (shiftRound y (8 + signed 8 (s.val F.SIV_CH_CFG_OSHIFT n)))
    ∃ t, exec .sieveInput s = .next t ∧ { t with sieve := s.sieve } = s ∧
      { t.sieve with inputs := s.sieve.inputs, outputs := s.sieve.outputs, chans := s.sieve.chans, clamps := s.sieve.clamps } =
        s.sieve ∧
      t.sieve.inputs = q ∧
      t.sieve.outputs = s.sieve.outputs ++ [(tick + 32 * s.sieveLatency n, n, { v with
        lo := z, hi := z, settling := c.settle != 0 })] ∧
      t.sieve.chans = s.sieve.chans.set n.val { c with
        settle := c.settle - 1, retiring := none
        bankA := c.bankA.set 0 (satSigned 40 (rnd (b 1 * x - b 3 * y) + (c.bankA[(0 : Fin 16)]).2),
          satSigned 40 (rnd (b 2 * x - b 4 * y))) } n.isLt) ∧
  (∀ (s : State) (n : Fin 16) (v : Val) (tick : Nat) (q : List (Fin 16 × Val × Nat)), s.sieve.inputs = (n, v, tick) :: q →
    let c := s.sieve.chans[n]
    s.inputHeld n v = false → s.beginsBy n v = none → s.flag F.SIV_CH_CFG_MEDIAN n = false →
    c.resets = [] → c.request = none → c.queued = none → c.fade = none →
    ∃ (t : State) (y : Int) (st : SectionStates) (clamps : List Nat), exec .sieveInput s = .next t ∧
      { t with sieve := s.sieve } = s ∧
      s.sieve.cascade n c.force (s.val F.SIV_CH_CFG_K n) (v.lo * 256) (c.bank c.force) = (y, st, clamps) ∧
      t.sieve.inputs = q ∧ (t.sieve.chans[n]).bank c.force = st ∧ (∀ m : Fin 16, m ≠ n → t.sieve.chans[m] = s.sieve.chans[m]) ∧
      (let z := shiftRound y (8 + signed 8 (s.val F.SIV_CH_CFG_OSHIFT n))
       t.sieve.outputs = s.sieve.outputs ++ [(tick + 32 * s.sieveLatency n, n, { v with
         lo := satSigned 16 z, hi := satSigned 16 z, settling := c.settle != 0 })] ∧
       ∀ d toll : Nat, (d, toll) ∈ t.sieve.clamps ↔ (d, toll) ∈ s.sieve.clamps ∨
         toll = 128 ∧ (∃ j ∈ clamps, d = tick + 32 * (32 * (j + 1) + n * s.val F.SIV_CTRL_SECTIONS)) ∨
         toll = 129 ∧ satSigned 16 z ≠ z ∧ d = tick + 32 * s.sieveLatency n)) ∧
  (∀ s : State,
    (∀ (d : Nat) (n : Fin 16) (v : Val) (os : List (Nat × Fin 16 × Val)), s.sieve.outputs = (d, n, v) :: os →
      let count := (s.sieve.chans[n]).staged + 1
      let u : State := { s with
        sieve := { s.sieve with outputs := os, chans := s.sieve.chans.set n.val { s.sieve.chans[n] with staged := count } n.isLt }
        stalls := s.stalls.set n.val { s.stalls[n] with
          kept := (s.stalls[n]).kept ++ [((s.stalls[n]).setup.stages.length, v)] } n.isLt }
      d < s.now + s.tickLen →
        (count % 8 ≠ 0 → exec .sieveOutputRelease s = .next u) ∧
        (count % 8 = 0 → ∀ r : Nat, ((List.range 32).find? fun r => (s.region r).kind == 1 && (s.region r).owner == n.val) = some r →
          let a := (s.region r).base + 16 * ((count / 8 - 1) % ((s.region r).size / 16))
          ∃ t, exec .sieveOutputRelease s = .next t ∧ { t with hall := s.hall, ev := s.ev } = u ∧ t.hall.mem = s.hall.mem ∧
            t.arb (hallBank a) = { s.arb (hallBank a) with
              live := (s.arb (hallBank a)).live ++ [⟨20, false, 1, false, [a]⟩] })) ∧
    (∀ w : Word, s.sieve.inputs = [] → ∃ t, exec (.sivSync w) s = .next t ∧ { t with sieve := s.sieve, code := s.code } = s ∧
      t.code = .ok ∧ { t.sieve with chans := s.sieve.chans } = s.sieve ∧
      ∀ n : Fin 16, t.sieve.chans[n] = if w.getLsbD n
        then { s.sieve.chans[n] with resets := (s.sieve.chans[n]).resets ++ [.tick (s.now + s.tickLen)] }
        else s.sieve.chans[n]))

/-- Bank requests and the coefficient window (R206, R207, R210, R212, R215): a request waits for its input, or is queued
behind a fade, where one that replaces a queued one counts toll 130; one for the bank in force has no effect; in median mode
it is refused with BAD_PARAM and tolls 132 and 243. A coefficient is written unless its bank is in use, which is refused
with STOP_LOCKED and tolls 131 and 243; either way the address advances. -/
def Obligations.BanksAndCoefficients : Prop :=
  ∀ s : State, s.sieve.inputs = [] →
    (∀ (n : Fin 16) (w : Word),
      let c := s.sieve.chans[n]
      let b := w.getLsbD 0
      let put (c' : SieveChan) (u : State) : Prop :=
        { u with sieve := s.sieve, written := s.written, force := s.force, code := s.code, tollDue := s.tollDue } = s ∧
        { u.sieve with chans := s.sieve.chans } = s.sieve ∧ u.sieve.chans = s.sieve.chans.set n.val c' n.isLt ∧ u.code = .ok
      (s.flag F.SIV_CH_CFG_MEDIAN n = true → exec (.bankRequest n w) s = .next ((s.toll 132).refuseWrite .badParam)) ∧
      (s.flag F.SIV_CH_CFG_MEDIAN n = false → c.fade = none → c.queued = none ∨ b = c.force → ∃ t,
        exec (.bankRequest n w) s = .next t ∧ t.tollDue = s.tollDue ∧
        put { c with request := if b = c.force then c.request.filter (fun r => r.2 != s.now) else some (b, s.now) } t) ∧
      (s.flag F.SIV_CH_CFG_MEDIAN n = false → c.fade.isSome = true ∨ c.queued.isSome = true ∧ b ≠ c.force → ∃ t,
        exec (.bankRequest n w) s = .next t ∧
        t.tollDue = (s.tollIf c.queued.isSome 130).tollDue ∧ put { c with queued := some b } t)) ∧
    (let a := s.val F.SIV_WIN_ADDR_ADDR
     let chan : Fin 16 := Fin.ofNat 16 (a / 256)
     let inUse := s.bankInUse chan (a / 128 % 2 == 1) || s.swapsNow chan (a / 128 % 2 == 1)
     exec (.sieveWindowAccess none) s = .next (s.sieveAddrNext.answer .ok) ∧
     (∀ w : Word,
        (inUse = true → exec (.sieveWindowAccess (some w)) s = .next (((s.toll 131).refuseWrite .stopLocked).sieveAddrNext)) ∧
        (inUse = false → 4 < a % 8 → exec (.sieveWindowAccess (some w)) s = .next (s.sieveAddrNext.answer .ok)) ∧
        (inUse = false → a % 8 ≤ 4 → ∃ t, exec (.sieveWindowAccess (some w)) s = .next t ∧ t.code = .ok ∧
          { t with sieve := s.sieve, written := s.written, force := s.force, code := s.code } = s ∧
          t.sieve.coefs = Sparse.set coefReset s.sieve.coefs a w ∧ t.sieve.chans = s.sieve.chans ∧
          t.written = s.sieveAddrNext.written ∧ t.force = s.sieveAddrNext.force)))

/-! ## The Signboard (chapter 14) -/

/-- A commit makes the groups it names pending with their shadows of this moment, counting toll 227 where one of them was
pending, or is refused with BAD_PARAM; one that names nothing has no effect (R304, R305); in the tick of a latch it takes
effect at that latch. The latch brings what is pending into force with the flip's instant, ends the frame, counts tolls 224
and 225 for outputs whose pads show other control signals or colour bytes of another CRC-32 than was composed, and is
nothing to a stopped Signboard (R296, R304, R308). A palette access writes a shadow entry, an L0 entry without its alpha,
and advances the address (R303); reading SGN_FLIP_CLO latches the other words of the flip (R304); a plot's fill completes,
its columns in the spare half of the plot region in Hall, or is discarded with toll 229 where its segment has been
overwritten (R300); how a column stands in the half is the model's choice (log entry 89). That an event which is not due, or
whose situation does not hold, changes nothing is the model's choice (log entry 2). -/
def Obligations.SignboardFlipsAndFills : Prop :=
  (∀ s : State,
    (∀ w : Word, F.SGN_COMMIT_GROUPS.get w = 0 → exec (.sgnCommit w) s = .next (s.answer .ok)) ∧
    (∀ w : Word,
      let gs : List (Fin 5) := (List.finRange 5).filter fun g => (F.SGN_COMMIT_GROUPS.get w).testBit g
      (gs ≠ [] → s.commitBad gs = true → exec (.sgnCommit w) s = .next (s.refuseWrite .badParam)) ∧
      (gs ≠ [] → s.commitBad gs = false → s.ev.latched = true → ∃ t, exec (.sgnCommit w) s = .next t ∧ t.code = .ok ∧
        t.sign.pending = [] ∧ t.sign.flipFrame = s.sign.frame ∧ t.sign.flipChron = s.chron.extractLsb' 0 64) ∧
      (gs ≠ [] → s.commitBad gs = false → s.ev.latched = false → ∃ t, exec (.sgnCommit w) s = .next t ∧
        { t with sign := s.sign, code := s.code, tollDue := s.tollDue } = s ∧ t.code = .ok ∧
        { t.sign with pending := s.sign.pending, pendWords := s.sign.pendWords, pendPalette := s.sign.pendPalette } = s.sign ∧
        (∀ g : Fin 5, g ∈ t.sign.pending ↔ g ∈ s.sign.pending ∨ g ∈ gs) ∧
        (∀ g ∈ gs, ∀ n ∈ groupWords g, (n, s.lastWritten n) ∈ t.sign.pendWords) ∧
        t.sign.pendPalette = (if 3 ∈ gs then s.sign.palette else s.sign.pendPalette) ∧
        t.tollDue = (s.tollIf (gs.any s.sign.pending.contains) 227).tollDue)) ∧
    (∀ e0 o0 e1 o1 : List PadFlip, s.running fnSignboard = false → exec (.signboardLatch e0 o0 e1 o1) s = .next s) ∧
    (∀ (f : PadFlip) (comp : Fin 3) (bit : Nat), lvdsBit (s.flag F.SGN_CTRL_MAP) f.pair f.slot = .colour comp bit →
      f.cycle.val < s.val F.SGN_HACT_HACT → f.line.val < s.panelHeight → s.readBackDiffers [f] [] = true) ∧
    (s.running fnSignboard = true → s.flag F.SGN_LAYERS_ECRC_EN = false → s.sign.fill = none → s.sign.fetchErr = false →
      (∀ y < s.panelHeight, s.errorWords (s.mapWordsOf y) = [] ∧ s.errorWords (s.plotWordsOf y) = [] ∧
        s.errorWords (s.overlayWordsOf y) = []) →
      (∃ t, exec (.signboardLatch [] [] [] []) s = .next t ∧
        { t with sign := s.sign, force := s.force, free := s.free, ev := s.ev } = s ∧
        t.force = (s.captureForce (if s.sign.pending = [] then [] else s.sign.pendWords)).force ∧ t.sign.pending = [] ∧
        t.sign.frame = (s.sign.frame + 1) % 2 ^ 32 ∧
        (s.sign.pending = [] → t.sign.flipFrame = s.sign.flipFrame) ∧
        (s.sign.pending ≠ [] → t.sign.flipFrame = t.sign.frame ∧ t.sign.flipChron = s.chron.extractLsb' 0 64 ∧
          t.sign.flipPos = s.positionNow)) ∧
      (∀ e0 o0 e1 o1 : List PadFlip,
        let rb0 := s.readBackDiffers e0 o0
        let rb1 := s.readBackDiffers e1 o1
        ∃ t, exec (.signboardLatch e0 o0 e1 o1) s = .next t ∧ t.tollDue = ((s.tollIf rb0 224).tollIf rb1 225).tollDue ∧
          (rb0 = true → (t.stickyBits R.SGN_RB.base).getLsbD 0 = true) ∧
          (rb1 = true → (t.stickyBits R.SGN_RB.base).getLsbD 1 = true)))) ∧
  (∀ s : State,
    (let a := s.val F.SGN_PAL_ADDR_ADDR
     let next (u : State) : State := ((u.setWritten R.SGN_PAL_ADDR.base (BitVec.ofNat 32 ((a + 1) % 512)) 0x1FF).setForce
        R.SGN_PAL_ADDR.base (BitVec.ofNat 32 ((a + 1) % 512)) 0x1FF).answer .ok
     exec (.paletteWindowAccess none) s = .next (next s) ∧
     ∀ w : Word, exec (.paletteWindowAccess (some w)) s = .next (next { s with sign := { s.sign with
        palette := Sparse.set (fun _ => 0) s.sign.palette a (if a < 256 then w &&& 0xFFFFFF else w) } })) ∧
    (exec .flipRead s = .next { s with code := .ok, sign := { s.sign with
      latchChi := s.sign.flipChron.extractLsb' 32 32, latchPlo := s.sign.flipPos.extractLsb' 0 32
      latchPhi := s.sign.flipPos.extractLsb' 32 32 } }) ∧
    (∀ f : Fill, s.sign.fill = some f → f.done = none → s.ev.fillLost = none →
      (s.overwritten f.stall f.number = true →
        exec .l1FillDone s = .next ({ s with sign := { s.sign with fill := none } }.toll 229)) ∧
      (s.overwritten f.stall f.number = false → s.dram.bad = [] → s.memoriesWf →
        let cols := (s.plotOf s.dram.mem f.stall f.number).take ((s.region (s.val F.SGN_REGIONS_PLOT)).size / 8)
        let upper := match s.sign.plot with | some p => !p.upper | none => false
        let p : Plot := ⟨f.stall, f.number, upper, cols.length⟩
        let a := s.plotBase p
        ∃ t, exec .l1FillDone s = .next t ∧ { t with hall := s.hall, sign := s.sign } = s ∧
          t.sign = { s.sign with fill := some { f with done := some (s.now, p) } } ∧
          memBytes t.hall.mem a (plotBytes cols).length = plotBytes cols ∧
          ∀ x, x < a ∨ a + (plotBytes cols).length ≤ x → memByte t.hall.mem x = memByte s.hall.mem x)))

/-! ## The Mints and their references (chapter 03) -/

/-- A running Mint pulls, settles and locks (R66, R68, R430): it starts from its last word into PULLING or HOLDOVER, and locks
only 1,024 reference periods after its frequency has settled; Mint C's lock ends its holdover length. The references (R60,
R61, R65, R66): qualification begins the pulling of every held Mint of the reference selected; the loss of REFCLK while it
is in use counts toll 12 and puts every locked Mint in HOLDOVER with its word frozen, and a loss by threshold those it
names; a write of MNT_REF that leaves SEL as it is changes the word alone, and one that changes it sets every running Mint
pulling, at once where the new reference is qualified, and where it is not, with its qualification. That an event which is
not due, or whose situation does not hold, changes nothing is the model's choice (log entry 2). The words at a loss are
operands, and what a write of SEL counts is the model's reading (log entries 2 and 21). The words to which a Mint relocked
from LOCKED falls back are the model's choice (log entry 86). -/
def Obligations.MintsAndReferences : Prop :=
  (∀ (s : State) (m : Fin 5),
    let x := s.mints[m]
    let put (x' : Mint) : State := { s with mints := s.mints.set m.val x' m.isLt }
    (x.mode = .stopped → s.mintAllowed m = true →
      let word : Dco := if x.ran then x.dco else ⟨Config.factoryDco m 0, Config.factoryDco m 1⟩
      let u := put { x with
        mode := if s.selectedOk then .pulling else .holdover, settled := false, pullAt := s.now, ran := true
        dco := word, frozen := word, gatedPower := false }
      (m ≠ 1 → exec (.mintStart m) s = .next u) ∧
      (m = 1 → exec (.mintStart m) s = .next { u with
        power := { s.power with watchOnRef := false }
        refs := if s.selectedOk then s.refs else { s.refs with holding := true, holdStart := s.now, holdLen := 0 } })) ∧
    (x.mode ≠ .stopped ∨ s.mintAllowed m = false → exec (.mintStart m) s = .next s) ∧
    (∀ w : Dco, x.mode = .pulling → x.settled = false →
      (x.pullAt + x.pullMites m w < (s.now + s.tickLen : Nat) →
        exec (.pullingFreqSettled m w) s = .next (put { x with settled := true, dco := w, zeroAt := s.now })) ∧
      ((s.now + s.tickLen : Nat) ≤ x.pullAt + x.pullMites m w → exec (.pullingFreqSettled m w) s = .next s)) ∧
    (s.now + s.tickLen ≤ x.zeroAt + 1024 * 400 → exec (.mintLock m) s = .next s) ∧
    (x.mode = .pulling → x.settled = true → x.zeroAt + 1024 * 400 < s.now + s.tickLen → (m ≠ 1 ∨ s.refs.holding = false) →
      exec (.mintLock m) s = .next (put { x with mode := .locked, settled := false })) ∧
    (x.mode = .pulling → x.settled = true → x.zeroAt + 1024 * 400 < s.now + s.tickLen → m = 1 → s.refs.holding = true →
      exec (.mintLock m) s = .next { put { x with mode := .locked, settled := false } with
        refs := { s.refs with holding := false, holdLen := s.now - s.refs.holdStart } }) ∧
    (x.settled = false → exec (.mintLock m) s = .next s)) ∧
  (∀ s : State,
    (∀ cp0 : Bool, s.ev.refLost = none →
      ∃ t, exec (.refQualified cp0) s = .next t ∧ { t with refs := s.refs, ev := s.ev, mints := s.mints } = s ∧
        (let due := s.refs.relockDue && s.flag F.MNT_REF_SEL != cp0
         t.refs = if cp0 then { s.refs with cp0Present := true, cp0Ok := true, relockDue := due }
          else { s.refs with refPresent := true, refOk := true, relockDue := due }) ∧
        ∀ m : Fin 5,
          let x := s.mints[m]
          t.mints[m] = if s.flag F.MNT_REF_SEL = cp0 ∧ (x.mode = .holdover ∨ s.refs.relockDue = true ∧ x.mode = .locked)
          then { x with mode := .pulling, settled := false, pullAt := s.now, frozen := if x.mode = .locked then x.dco else x.frozen }
          else x) ∧
    (∀ ws : Vector Dco 5, s.flag F.MNT_REF_SEL = false → s.flag F.MNT_REF_AUTO = false → s.ev.refQualified = [] →
      (∀ m : Fin 5, (s.mints[m]).mode = .locked) →
      ∃ t, exec (.refAbsent (.noEdges false) ws) s = .next t ∧
        { t with refs := s.refs, mints := s.mints, ev := s.ev, tollDue := s.tollDue } = s ∧
        t.refs = { s.refs with refPresent := false, refOk := false, holding := true, holdStart := s.now, holdLen := 0 } ∧
        (∀ m : Fin 5, t.mints[m] = { s.mints[m] with
          mode := .holdover, settled := false, frozen := ws[m], dco := ws[m] }) ∧
        t.tollDue = (((((((s.toll 12).toll 10).toll 10).toll 11).toll 11).toll 11)).tollDue) ∧
    (∀ (ws : Vector Dco 5) (ms : List (Fin 5)), s.ev.refQualified = [] →
      ∃ t, exec (.refAbsent (.overThreshold ms) ws) s = .next t ∧
        (if s.flag F.MNT_REF_SEL then t.refs.cp0Ok else t.refs.refOk) = false ∧
        ∀ m : Fin 5, t.mints[m] = if m ∈ ms ∧ (s.mints[m]).mode = .locked
          then { s.mints[m] with mode := .holdover, settled := false, frozen := ws[m], dco := ws[m] } else s.mints[m]) ∧
    (∀ w : Word, let mask := R.MNT_REF.mask (· == .lv)
      let s1 := ((s.setWritten R.MNT_REF.base w mask).setForce R.MNT_REF.base w mask).answer .ok
      s1.flag F.MNT_REF_AUTO = false →
      (s1.flag F.MNT_REF_SEL = s.flag F.MNT_REF_SEL → exec (.refSelectWrite w) s = .next s1) ∧
      (s1.flag F.MNT_REF_SEL ≠ s.flag F.MNT_REF_SEL → s1.selectedOk = true →
        ∃ t, exec (.refSelectWrite w) s = .next t ∧ { t with mints := s.mints, refs := s.refs } = s1 ∧
          t.refs = { s.refs with active := s1.flag F.MNT_REF_SEL, relockDue := false } ∧
          ∀ m : Fin 5, (t.mints[m]).mode = if (s.mints[m]).mode = .stopped then .stopped else .pulling) ∧
      (s1.flag F.MNT_REF_SEL ≠ s.flag F.MNT_REF_SEL → s1.selectedOk = false →
        ∃ t, exec (.refSelectWrite w) s = .next t ∧ { t with mints := s.mints, refs := s.refs } = s1 ∧
          t.refs = { s.refs with active := s1.flag F.MNT_REF_SEL, relockDue := true } ∧
          ∀ m : Fin 5, (t.mints[m]).mode = (s.mints[m]).mode)))

/-! ## The converters and their calibration (chapters 04 and 05) -/

/-- A comparison window that is full ends (R83 to R87): a good one moves the relief slice to the next position; a bad one
counts toll 17, and the third in a row moves the relief slice to the next position as witness; a bad witness window retires
the relief slice with toll 19, and a good one retires the suspect with toll 18, each raising attention at level 2 and
logging. A settled move for a referee begins a window (R78, R83). The relief slice's move ends after 256 ticks (R78, R81,
R106): with a referee's window, a calibration's shadow, or the permanent substitution; before that nothing happens. That an
event which is not due, or whose situation does not hold, changes nothing is the model's choice (log entry 2). The
converters' factory values and their rounding are opaque (log entries 6 and 12). -/
def Obligations.WindowsAndMovesEnd : Prop :=
  (∀ s : State, s.conv.windowFull = true →
    let k := s.conv.target
    let settled := (if s.conv.handover = some none then s.now + s.tickLen else s.now) + 256 * 32
    (s.conv.phase = .window none → s.conv.windowSuspect = false → s.cal.request = false →
      ∃ t, exec .refereeWindowEnd s = .next t ∧ { t with conv := s.conv } = s ∧ t.conv.suspect = s.conv.suspect.set k.val 0 k.isLt ∧
        t.conv.target = Fin.ofNat 16 (k.val + 1) ∧ t.conv.phase = .settling .referee settled ∧
        t.conv.lastSlice = k.val ∧ t.conv.lastSusp = false ∧ t.conv.lastWit = false) ∧
    (s.conv.phase = .window none → s.conv.windowSuspect = true → 2 ≤ s.conv.suspect[k] →
      ∃ t, exec .refereeWindowEnd s = .next t ∧ t.conv.target = Fin.ofNat 16 (k.val + 1) ∧
        t.conv.phase = .settling (.witness k) settled ∧ t.tollDue = (s.toll 17).tollDue) ∧
    (s.conv.phase = .window none → s.conv.windowSuspect = true → s.conv.suspect[k] < 2 → s.cal.request = false →
      ∃ t, exec .refereeWindowEnd s = .next t ∧
        { t with conv := s.conv, tollDue := s.tollDue, status := s.status, ev := s.ev } = s ∧
        t.conv.suspect = s.conv.suspect.set k.val (s.conv.suspect[k] + 1) k.isLt ∧ t.conv.target = k ∧
        t.conv.phase = .window none ∧ t.conv.winCount = 0 ∧ t.tollDue = (s.toll 17).tollDue ∧
        t.status = (s.attention 1).status) ∧
    (∀ j : Fin 16, s.conv.phase = .window (some j) →
      let due (slice toll : Nat) (t : State) : Prop :=
        t.tollDue = (s.toll toll).tollDue ∧ t.status = (s.attention 2).status ∧ t.conv.degraded = true ∧
        t.log.due = s.log.due ++ [⟨s.now % 2 ^ 64, 6, slice, toll, 0⟩]
      (s.conv.windowSuspect = true → ∃ t, exec .witnessWindowEnd s = .next t ∧ due 16 19 t ∧ t.conv.phase = .off ∧
        t.conv.retired = some 16) ∧
      (s.conv.windowSuspect = false → ∃ t, exec .witnessWindowEnd s = .next t ∧ due j 18 t ∧
        t.conv.phase = .settling .retirement settled ∧ t.conv.target = j))) ∧
  (∀ (s : State) (goal : MoveFor) (due : Nat), s.conv.phase = .settling goal due →
    (s.now + s.tickLen ≤ due → exec .reliefSettled s = .next s) ∧
    (due < s.now + s.tickLen →
      let limit := s.val F.CAL_PLAUS_LIMIT_LIMIT
      let win (log : Nat) (p : ReliefPhase) : State := { s with conv := { s.conv with
        winLen := 2 ^ log, winLimit := limit, winCount := 0, winSum := 0, winFrom := 0, winDiff := 0, phase := p } }
      match goal with
      | .referee => exec .reliefSettled s = .next (win (s.val F.CAL_CHECK_WINDOW_WLOG) (.window none))
      | .witness k => exec .reliefSettled s = .next (win (s.val F.CAL_CHECK_WINDOW_WLOG) (.window (some k)))
      | .calibration => exec .reliefSettled s = .next (win (s.val F.CAL_HANDOVER_HLOG) .shadow)
      | .retirement => ∃ t, exec .reliefSettled s = .next t ∧ { t with conv := s.conv } = s ∧ t.conv.phase = .permanent ∧
          t.conv.handover = some (some s.conv.target) ∧ t.conv.retired.map Fin.val = some s.conv.target.val))

/-- The steps of a calibration in order (R105 to R108): the handover after a good shadow, or toll 22 after a bad one; the
tone, the ten sub-steps of the dwell, the check with the limits as written by its beginning, the return, and the
verification's window. That an event which is not due, or whose situation does not hold, changes nothing is the model's
choice (log entry 2). What the background calibration measures comes as an operand (log entry 2). -/
def Obligations.CalibrationProceeds : Prop :=
  ∀ (s : State) (k : Fin 17), s.cal.slice = some k →
    let go (p : ReliefPhase) : State := { s with conv := { s.conv with phase := p } }
    let early (due : Nat) : Prop := s.now + s.tickLen ≤ due
    (s.conv.phase = .shadow → s.conv.windowFull = true →
      (s.conv.windowSuspect = false → exec .calShadowEnd s = .next { s with conv := { s.conv with
        handover := some (some s.conv.target), phase := .tone (s.now + 257 * 32) } }) ∧
      (s.conv.windowSuspect = true → ∃ t, exec .calShadowEnd s = .next t ∧ t.tollDue = (s.toll 22).tollDue ∧
        t.cal.slice = none ∧ t.conv.handover = s.conv.handover ∧ t.cal.full = s.cal.full ∧ t.cal.lean = s.cal.lean)) ∧
    (∀ due : Nat, s.conv.phase = .tone due → (early due → exec .calToneSettled s = .next s) ∧
      (¬early due → exec .calToneSettled s = .next (go (.dwell 0 (due + s.substepMites 0))))) ∧
    (∀ i due : Nat, s.conv.phase = .dwell i due → ¬early due →
      (i < 9 → exec .calSubstepEnd s = .next (go (.dwell (i + 1) (due + s.substepMites (i + 1))))) ∧
      (i = 9 → exec .calDwellEnd s = .next { (go (.check (due + 1024 * 32))) with force := (s.bringIntoForce limitWords).force })) ∧
    (∀ (due : Nat) (cand : Coef), s.conv.phase = .check due → ¬early due → (s.val F.CAL_FREEZE_FRZ).testBit k.val = false →
      let c := s.measured cand
      let ok := s.acceptsBody c (s.coefs)[k] && s.acceptsSkew c.skew ((s.coefs)[k]).skew
      exec (.calCheckEnd cand) s = .next ({ s with
        cal := { s.cal with candidate := if ok then some c else none }
        conv := { s.conv with phase := .returning (due + 256 * 32) } }.tollIf (!ok) 23)) ∧
    (∀ due : Nat, s.conv.phase = .returning due → ¬early due → exec .calReturnSettled s = .next { s with conv := { s.conv with
      winLen := 2 ^ s.val F.CAL_VERIFY_VLOG, winLimit := s.val F.CAL_PLAUS_LIMIT_LIMIT, winCount := 0, winSum := 0
      winFrom := 0, winDiff := 0, phase := .verify } })

/-- How a calibration ends (R108 to R112): a good verification makes the step due and hands back; a bad one discards the
candidate with toll 24 and attention, and hands back after it has settled; the relief slice's own candidate is taken, or
rejected with toll 25. Coefficients in force change in none of them. CAL_INTERVAL after the last calibration began, a STEADY
rotation asks for the next one: the relief slice's own begins at once in place of a referee window, and another waits (R90,
R113); it never asks earlier, nor for a device that has retired a slice (R88), nor before the sample domain runs. That an
event which is not due, or whose situation does not hold, changes nothing is the model's choice (log entry 2). What the
background calibration measures comes as an operand (log entry 2). -/
def Obligations.CalibrationEndsAndIsAskedFor : Prop :=
  (∀ s : State,
    let kept (t : State) : Prop := t.cal.full = s.cal.full ∧ t.cal.lean = s.cal.lean ∧ t.cal.slice = none
    (∀ (k : Fin 17) (c : Coef) (r : Rat × Rat), s.cal.slice = some k → s.cal.candidate = some c → s.conv.phase = .verify →
      s.conv.windowFull = true →
      (s.conv.windowSuspect = false → ∃ t, exec (.calVerifyEnd r) s = .next t ∧ kept t ∧
        t.cal.stepDue = some (s.power.regime == .lean, k, c) ∧ t.conv.handover = some none ∧ t.tollDue = s.tollDue ∧
        t.cal.residuals[s.conv.target] = ((s.conv.winDiff : Rat) / (s.conv.winLen : Rat), r.1, r.2)) ∧
      (s.conv.windowSuspect = true → ∃ t, exec (.calVerifyEnd r) s = .next t ∧ t.cal.full = s.cal.full ∧
        t.cal.lean = s.cal.lean ∧ t.cal.candidate = none ∧ t.cal.stepDue = s.cal.stepDue ∧
        t.conv.phase = .restoring (s.now + 256 * 32) ∧ t.tollDue = (s.toll 24).tollDue ∧
        t.status = (s.attention 1).status)) ∧
    (∀ due : Nat, s.conv.phase = .restoring due → due < s.now + s.tickLen → ∃ t, exec .calRestoreSettled s = .next t ∧ kept t ∧
      t.cal.stepDue = s.cal.stepDue ∧ t.conv.handover = some none ∧ t.tollDue = s.tollDue) ∧
    (∀ (due : Nat) (cand : Coef) (v : Vector Int 16), s.conv.phase = .selfCal due → due < s.now + s.tickLen →
      let s' := s.bringIntoForce limitWords
      let c := s'.measured cand
      (s'.acceptsBody c (s.coefs)[16] = false → ∃ t, exec (.reliefSelfcalEnd cand v) s = .next t ∧ kept t ∧
        t.cal.stepDue = s.cal.stepDue ∧ t.tollDue = (s.toll 25).tollDue) ∧
      (s'.acceptsBody c (s.coefs)[16] = true → (∀ p : Fin 16, s'.acceptsSkew (s'.referSkew v[p]) s.reliefSkews[p] = true) →
        ∃ t, exec (.reliefSelfcalEnd cand v) s = .next t ∧ kept t ∧ t.cal.stepDue = some (s.power.regime == .lean, 16, c) ∧
          t.tollDue = s.tollDue))) ∧
  (∀ s : State, s.calMode = 1 →
    let due := s.cal.startAt + s.val F.CAL_INTERVAL_INT * 40000000
    (s.now + s.tickLen ≤ due → exec .calIntervalExpiry s = .next s) ∧
    (due < s.now + s.tickLen →
      (s.conv.degraded = true → exec .calIntervalExpiry s = .next s) ∧
      (s.conv.degraded = false → s.conv.phase = .verify →
        exec .calIntervalExpiry s = .next { s with cal := { s.cal with request := true } }) ∧
      (s.conv.degraded = false → s.conv.phase = .idle → exec .calIntervalExpiry s = .next s) ∧
      (s.conv.degraded = false → s.conv.phase = .window none → s.selfCalNext = false →
        exec .calIntervalExpiry s = .next { s with cal := { s.cal with request := true } }) ∧
      (s.conv.degraded = false → s.conv.phase = .window none → s.selfCalNext = true → ∃ t due,
        exec .calIntervalExpiry s = .next t ∧ { t with cal := s.cal, conv := s.conv, force := s.force } = s ∧
        t.cal.slice = some 16 ∧ t.cal.startAt = s.now ∧ t.cal.request = false ∧ { t.conv with phase := s.conv.phase } = s.conv ∧
        t.conv.phase = .selfCal due)))

/-! ## The auxiliary converter (chapters 04 and 05) -/

/-- A conversion ends 625 ticks after its acquisition began, not before; its result replaces its channel's and is counted,
and that of an injected one with no comparator, tally port or further work changes nothing else but what the power manager
reads; a fragment of the converter's own calibration is counted as one (R91, R97, R98, R119). -/
def Obligations.AuxConversionsEnd : Prop :=
  ∀ (s : State) (c : AuxConv) (raw : Int), s.aux.conv = some c →
    (s.now + s.tickLen ≤ c.start + 625 * 32 → exec (.auxConversionEnd raw) s = .next s) ∧
    (c.start + 625 * 32 < s.now + s.tickLen → c.job = .fragment → ∃ t, exec (.auxConversionEnd raw) s = .next t ∧
      t.aux.results = s.aux.results ∧ t.aux.calFrag = s.aux.calFrag + 1) ∧
    (∀ h : c.chan < 35, c.start + 625 * 32 < s.now + s.tickLen → c.job ≠ .fragment →
      let results := s.aux.results.set c.chan
        ⟨(s.auxCorrect c.chan raw % 65536).toNat, (s.aux.results[c.chan].count + 1) % 256, true⟩ h
      (∃ t, exec (.auxConversionEnd raw) s = .next t ∧ t.aux.results = results ∧ t.chron = s.chron) ∧
      (∀ i : Fin 19, c.job = .injected i → i.val < 18 → s.aux.pending = [] → s.aux.entry = none → s.aux.calActive = false →
        (∀ k : Fin 8, s.flag F.AUX_WATCH_EN k = false) → s.tally.mode = .stopped →
        ∃ t, exec (.auxConversionEnd raw) s = .next t ∧ { t with aux := s.aux, ev := s.ev, power := s.power } = s ∧
          t.aux.conv = none ∧ t.aux.results = results ∧ { t.power with temps := s.power.temps, readings := s.power.readings } = s.power ∧
          (c.chan < 0x10 → t.power = s.power) ∧
          (∀ j : Fin 12, t.power.temps[j] = if c.chan = 0x10 + j then some (s.auxCorrect c.chan raw) else s.power.temps[j]) ∧
          ∀ j : Fin 7, t.power.readings[j] =
            if c.chan = 0x1C + j then some (s.now, (s.auxCorrect c.chan raw).toNat) else s.power.readings[j]))

/-- Injected requests (R96): the trigger or firing that has asked for one of an enabled source makes it wait, or drops it
with toll 20 where that source waits already; with the converter idle and powered, or at a regular conversion that began in
the same tick and gives way to it, its conversion begins at once; a source that is not enabled does nothing. The Watch timer
requests source 17, and each millisecond the power manager's round begins with code 10H. The start-up delay of a
powered-down converter ends (R95). A period start with the sequence still running is missed with toll 21, and else begins
it, the converter having woken before (R94, R95). A full calibration of the converter begins at the end of its period, or
counts toll 27 while the last one runs; its offset and gain are taken together where both lie within their limits, and
otherwise toll 28 is counted (R120, R122). -/
def Obligations.AuxRequestsAndPeriods : Prop :=
  (∀ s : State,
    let busy := s.aux.conv.isSome = true ∧ ∀ c, s.aux.conv = some c → c.start ≠ s.now
    let free := s.aux.conv = none ∨ ∃ c e, s.aux.conv = some c ∧ c.start = s.now ∧ c.job = .entry e
    let powered := s.aux.powered || s.ev.auxDown
    (∀ i : Fin 19, i.val < 18 →
      (i ∉ s.aux.asked → exec (.auxInjectRequest i) s = .next s) ∧
      (i ∈ s.aux.asked →
        let asked := s.aux.asked.erase i
        (s.flag F.AUX_INJ_EN i.val = false → exec (.auxInjectRequest i) s = .next { s with aux := { s.aux with asked := asked } }) ∧
        (s.flag F.AUX_INJ_EN i.val = true →
          (i ∈ s.aux.pending → exec (.auxInjectRequest i) s = .next ({ s with
            aux := { s.aux with asked := asked }, ev := { s.ev with auxDropped := i :: s.ev.auxDropped } }.toll 20)) ∧
          (i ∉ s.aux.pending → busy → exec (.auxInjectRequest i) s = .next { s with aux := { s.aux with
            asked := asked, pending := s.aux.pending ++ [i], powered := powered } }) ∧
          (s.aux.pending = [] → free → s.aux.warmAt = none → powered = true → i ∉ s.ev.auxDropped →
            exec (.auxInjectRequest i) s = .next { s with aux := { s.aux with
              asked := asked, conv := some ⟨.injected i, s.val F.AUX_INJ_CHAN i.val, s.now⟩, powered := true } })))) ∧
    (busy → (17 : Fin 19) ∉ s.aux.pending → s.flag F.AUX_INJ_EN 17 = true →
      s.val F.AUX_WATCH_PERIOD_WP ≠ 0 → s.aux.timerAt < s.now + s.tickLen →
      exec .auxWatchTimer s = .next { s with aux := { s.aux with
        timerAt := max s.aux.timerAt s.now + s.auxMites (s.val F.AUX_WATCH_PERIOD_WP), pending := s.aux.pending ++ [17]
        powered := powered } }) ∧
    (busy → (18 : Fin 19) ∉ s.aux.pending → s.aux.round = none → s.aux.roundAt < s.now + s.tickLen →
      exec .pmMonitorRound s = .next { s with aux := { s.aux with
        round := some 0x10, roundAt := max s.aux.roundAt s.now + 40000000, pending := s.aux.pending ++ [18], powered := powered } }) ∧
    (s.aux.round.isSome = true ∨ s.now + s.tickLen ≤ s.aux.roundAt → exec .pmMonitorRound s = .next s) ∧
    (∀ (at_ : Nat) (i : Fin 19), s.aux.warmAt = some at_ → at_ < s.now + s.tickLen → i.val < 18 → s.aux.pending = [i] →
      s.aux.conv = none → i ∉ s.ev.auxDropped → exec .auxWarmupDone s = .next { s with aux := { s.aux with
        conv := some ⟨.injected i, s.val F.AUX_INJ_CHAN i.val, s.now⟩, warmAt := none, powered := true, pending := [] } })) ∧
  (∀ s : State,
    (s.running fnAux = true → s.val F.AUX_SEQ_LEN_LEN ≠ 0 → s.val F.AUX_SEQ_PERIOD_PERIOD ≠ 0 →
      let next := s.aux.periodAt + s.auxMites (s.val F.AUX_SEQ_PERIOD_PERIOD)
      let awake := max s.aux.periodAt (s.aux.downAt + 500 * 32)
      (s.now + s.tickLen ≤ s.aux.periodAt → exec .auxPeriodStart s = .next s) ∧
      (s.aux.periodAt < s.now + s.tickLen →
        (s.aux.entry.isSome = true → s.aux.conv = none →
          exec .auxPeriodStart s = .next ({ s with aux := { s.aux with periodAt := next } }.toll 21)) ∧
        (s.aux.entry = none → s.aux.conv = none → s.aux.pending = [] → s.aux.calActive = false →
          (s.aux.powered = true ∨ awake ≤ s.now → exec .auxPeriodStart s = .next { s with aux := { s.aux with
            periodAt := next, entry := some 0, powered := true, warmAt := none
            conv := some ⟨.entry 0, s.val F.AUX_SEQ_CHAN 0, s.now⟩ } }) ∧
          (s.aux.powered = false → s.now < awake → exec .auxPeriodStart s = .next { s with aux := { s.aux with
            periodAt := next, entry := some 0
            warmAt := some (match s.aux.warmAt with | some t => min t awake | none => awake) } })))) ∧
    (s.val F.CAL_AUX_PERIOD_PER ≠ 0 → s.aux.calStart + s.val F.CAL_AUX_PERIOD_PER * 40000000 < s.now + s.tickLen →
      (s.aux.calActive = false → s.aux.conv.isSome = true → exec .calAuxPeriodExpiry s = .next { s with aux := { s.aux with
        calActive := true, calFrag := 0, calStart := s.now, calLate := false, sinceFrag := 0 } }) ∧
      (s.aux.calActive = true → s.aux.calLate = false →
        exec .calAuxPeriodExpiry s = .next ({ s with
          aux := { s.aux with calLate := true }, ev := { s.ev with auxLate := true } }.toll 27))) ∧
    (∀ (o : Int) (g : Nat), s.aux.calActive = true → s.aux.calFrag = 64 → s.ev.auxLate = false →
      let done (o : Int) (g : Nat) : State := { s with aux := { s.aux with
        calActive := false, calFrag := 0, calRounds := (s.aux.calRounds + 1) % 65536, calLate := false, ofs := o, gain := g } }
      let ok := o.natAbs ≤ 512 ∧ (o - s.aux.ofs).natAbs ≤ 16 ∧ 99 * 32768 ≤ g * 100 ∧ g * 100 ≤ 101 * 32768 ∧
        ((g : Int) - s.aux.gain).natAbs ≤ 16
      (ok → exec (.auxCalComplete o g) s = .next (done o g)) ∧
      (¬ok → exec (.auxCalComplete o g) s = .next ((done s.aux.ofs s.aux.gain).toll 28))))

/-! ## The weighers (chapter 06) -/

/-- The self-test round (R138 to R141): a period takes up a free weigher at once, begins a migration of an assigned one to
the lowest-numbered free weigher, or counts toll 50 while a test or a migration runs; a weigher that passes becomes free,
one that fails is retired with toll 48 and attention. That an event which is not due, or whose situation does not hold,
changes nothing is the model's choice (log entry 2). -/
def Obligations.WeighersAreTested : Prop :=
  ∀ s : State,
    (s.now + s.tickLen ≤ s.pool.periodAt → exec .wghTestPeriodExpiry s = .next s) ∧
    (s.pool.periodAt < s.now + s.tickLen → s.val F.WGH_TEST_PERIOD_PER ≠ 0 →
      let next := s.pool.periodAt + max 1 (s.wval F.WGH_TEST_PERIOD_PER) * 40000000000
      (∀ w : Fin 68, s.pool.selected = some w → s.pool.test.isSome = true → ∃ t, exec .wghTestPeriodExpiry s = .next t ∧
        { t with pool := s.pool, force := s.force, tollDue := s.tollDue } = s ∧
        t.pool = { s.pool with periodAt := next } ∧ t.tollDue = (s.toll 50).tollDue) ∧
      (∀ w : Fin 68, s.pool.selected = some w → s.pool.outOfTurn = [] → s.pool.test = none → s.pool.move = none →
        (s.pool.weighers[w]).role = .free → ∃ t, exec .wghTestPeriodExpiry s = .next t ∧
          { t with pool := s.pool, force := s.force } = s ∧ t.pool = { s.pool with
            periodAt := next, next := Fin.ofNat 68 (w.val + 1)
            weighers := s.pool.weighers.set w.val { role := .testing } w.isLt
            test := some (w, s.now + 262144 * 32) }) ∧
      (∀ w d : Fin 68, s.pool.selected = some w → s.pool.test = none → s.pool.move = none →
        (s.pool.weighers[w]).role = .assigned → s.pool.freeList.head? = some d → ∃ t, exec .wghTestPeriodExpiry s = .next t ∧
          { t with pool := s.pool, force := s.force } = s ∧ t.pool.move = some ⟨w, d, .copying, s.now + 4096 * 32⟩ ∧
          t.pool.weighers[w] = { s.pool.weighers[w] with role := .source } ∧
          t.pool.weighers[d] = { s.pool.weighers[w] with role := .destination } ∧ t.pool.test = none)) ∧
    (∀ (w : Fin 68) (due : Nat), s.pool.test = some (w, due) → due < s.now + s.tickLen →
      let done (pass : Bool) : State := { s with pool := { s.pool with
        weighers := s.pool.weighers.set w.val { role := if pass then .free else .retired } w.isLt
        test := none, last := w, failed := !pass, tests := (s.pool.tests + 1) % 65536 } }
      exec (.wghTestDone true) s = .next (done true) ∧
      ∃ t, exec (.wghTestDone false) s = .next t ∧ { t with tollDue := s.tollDue, status := s.status, ev := s.ev } =
        done false ∧ t.tollDue = (s.toll 48).tollDue ∧
        (t.status = (s.attention 2).status ∨ t.status = ((s.attention 2).attention 2).status))

/-- A migration copies, waits for the next block boundary of its stall, transfers its working state in 64 ticks, and
switches: the destination takes the source's place, and the source is tested (R139, R140). A weigher that hangs has its
requests forced low (R264), counts toll 49 and is logged (R142, R143): its chain is to restart on the lowest-numbered free
weigher, or in place; a migration that it takes part in is abandoned, and its chain goes on where it has not hung. The
restart comes at a block boundary after the hang and clears the chain's stage state, in place with toll 51. That an event
which is not due, or whose situation does not hold, changes nothing is the model's choice (log entry 2). -/
def Obligations.MigrationsAndHangs : Prop :=
  (∀ (s : State) (m : Migration), s.pool.move = some m →
    (s.now + s.tickLen ≤ m.due → exec .migrationCopyDone s = .next s ∧ exec .migrationSwitch s = .next s) ∧
    (m.stage = .waiting → s.blockBoundary (s.pool.weighers[m.src]).stall = { s with pool := { s.pool with
      move := some { m with stage := .transferring, due := s.now + 64 * 32 } } }) ∧
    (m.due < s.now + s.tickLen →
      (m.stage = .copying → exec .migrationCopyDone s = .next { s with pool := { s.pool with
        move := some { m with stage := .waiting } } }) ∧
      (m.stage = .transferring → m.src ≠ m.dst → ∃ t, exec .migrationSwitch s = .next t ∧ { t with pool := s.pool } = s ∧
        { t.pool with weighers := s.pool.weighers, move := s.pool.move, test := s.pool.test } = s.pool ∧
        t.pool.move = none ∧ t.pool.test = some (m.src, s.now + 262144 * 32) ∧
        t.pool.weighers[m.src] = { role := .testing } ∧
        t.pool.weighers[m.dst] = { s.pool.weighers[m.dst] with role := .assigned } ∧
        ∀ k : Fin 68, k ≠ m.src → k ≠ m.dst → t.pool.weighers[k] = s.pool.weighers[k]))) ∧
  (∀ (s : State) (w : Fin 68),
    let x := s.pool.weighers[w]
    let due (moves : Bool) (t : State) : Prop :=
      t.tollDue = ((s.resetWeigher x.stall moves).toll 49).tollDue ∧ t.pool.outOfTurn = s.pool.outOfTurn ++ [w] ∧
      t.hall = (s.resetWeigher x.stall moves).hall ∧
      t.log.due.length = s.log.due.length + 1 ∧ ∀ m : Fin 16, m ≠ x.stall → t.stalls[m] = s.stalls[m]
    ((x.role = .free ∨ x.role = .testing ∨ x.role = .retired) → exec (.wghHang w) s = .next s) ∧
    (x.role = .assigned → s.pool.move = none →
      let hung (u : Fin 68) (inPlace : Bool) (t : State) : Prop :=
        due false t ∧ t.pool.weighers[u] = x ∧
        t.pool.hung = s.pool.hung ++ [⟨u, inPlace, x.stall, x.share, (s.stalls[x.stall]).samples / 256⟩]
      (∀ d : Fin 68, s.pool.freeList.head? = some d → ∃ t, exec (.wghHang w) s = .next t ∧ hung d false t ∧
        t.pool.weighers[w] = {}) ∧
      (s.pool.freeList = [] → ∃ t, exec (.wghHang w) s = .next t ∧ hung w true t)) ∧
    (∀ m : Migration, s.pool.move = some m → m.src ≠ m.dst → x.role = .source ∧ w = m.src ∨ x.role = .destination ∧ w = m.dst →
      ∃ t, exec (.wghHang w) s = .next t ∧ due true t ∧ t.pool.move = none ∧ t.pool.hung = s.pool.hung ∧ t.pool.weighers[w] = {} ∧
        (t.pool.weighers[if w = m.src then m.dst else m.src]).role = .assigned) ∧
    (∀ h : Hung, s.pool.hung.find? (·.weigher == w) = some h →
      let st := s.stalls[h.stall]
      (st.samples / 256 ≤ h.block → exec (.hungChainRestart w) s = .next s) ∧
      (h.block < st.samples / 256 → exec (.hungChainRestart w) s = .next ({ s with
        pool := { s.pool with hung := s.pool.hung.erase h }
        stalls := s.stalls.set h.stall.val { st with
          stageStates := st.stageStates.map fun _ => {}
          gaps := { st.gaps with restarts := (st.samples, st.gaps.counted st.setup.dtot st.samples) :: st.gaps.restarts } }
          h.stall.isLt }.tollIf h.inPlace 51))))

/-! ## The Bell (chapter 07) -/

/-- The sequence at a sample (R157, R159, R160): ADV moves to NEXT, RST to state 0, and a timer's span that elapses is its
expiry. Nothing outside the stall changes, and a Bell for which no sample waits is unchanged. That an event which is not
due, or whose situation does not hold, changes nothing is the model's choice (log entry 2). -/
def Obligations.SequencesMove : Prop :=
  ∀ (s : State) (n : Fin 16) (v : Val) (k : Nat),
    let b := s.bell n
    let moved (c : Instr) (ok : Bell → Prop) : Prop := ∃ t, exec c s = .next t ∧ { t with stalls := s.stalls } = s ∧
      (∀ m : Fin 16, m ≠ n → t.stalls[m] = s.stalls[m]) ∧ (t.bell n).obs = [] ∧ (t.bell n).prev = some v ∧
      (t.bell n).phase = .armed ∧ ok (t.bell n)
    (b.obs = [] → exec (.bellAdvance n) s = .next s ∧ exec (.bellReset n) s = .next s ∧
      exec (.bellTimerExpiry n 0) s = .next s ∧ exec (.autoTrigger n) s = .next s ∧ exec (.holdoffElapsed n) s = .next s ∧
      exec (.rearmEnd n) s = .next s) ∧
    (b.phase = .armed → b.beginAt = none → s.val F.STL_BEL_S_COND_QUAL b.state n = 0 →
      s.flag F.STL_BEL_S_COND_QINV b.state n = false →
      (s.quietSample n v false false → s.val F.STL_BEL_S_COND_ADV b.state n = 1 → s.val F.STL_BEL_S_COND_ADV 0 n ≤ 1 →
        s.val F.STL_BEL_S_COND_NEXT b.state n = k → s.word (R.STL_BEL_S_ACT.num k n) = 0 → moved (.bellAdvance n) fun c => c.state = k) ∧
      (s.quietSample n v false false → s.val F.STL_BEL_S_COND_ADV b.state n = 0 → s.val F.STL_BEL_S_COND_ADV 0 n = 0 →
        s.val F.STL_BEL_S_COND_RST b.state n = 1 → s.word (R.STL_BEL_S_ACT.num 0 n) = 0 →
        moved (.bellReset n) fun c => c.state = 0) ∧
      (∀ j : Fin 2, s.quietSample n v true false → s.val F.STL_BEL_S_COND_ADV b.state n = 0 →
        s.val F.STL_BEL_S_COND_ADV 0 n = 0 → s.val F.STL_BEL_S_COND_RST b.state n = 0 → (b.timers[j]).run = true →
        spanElapsed (s.val F.STL_BEL_TMR_DUR_DUR j n) (b.timers[j]).start (b.timers[j]).pos 0 v = true →
        moved (.bellTimerExpiry n j) fun c =>
          (c.timers[j]).run = false ∧ (c.timers[j]).expired = true ∧ c.state = b.state))

/-- Triggers and phases (R145, R146, R162 to R164, R167): a TRIGGER action's entry opens a segment at its sample and ends
the ARMED phase; auto mode forces one when its span has elapsed; a hold that has elapsed arms the Bell in state 0; a rearm
that has ended begins a buffer, with the reset of its Sieve channel that SYNC_SEG asks for (R213). A trigger asks for the
stall's injected conversion (R96). The order of a sample's effects inside a tick is the model's choice (log entry 3). -/
def Obligations.TriggersOpenSegments : Prop :=
  ∀ (s : State) (n : Fin 16) (v : Val) (k : Nat),
    let b := s.bell n
    let u := (s.stalls[n]).setup
    let opened (forced : Bool) (t : State) : Prop := ∃ g : Segment, (t.stalls[n]).segs = (s.stalls[n]).segs ++ [g] ∧
      g.setup = u ∧ g.trig = v ∧ g.frac = 0 ∧ g.forced = forced ∧ g.late = false ∧ g.last = v.num + u.post - 1 ∧
      g.first = b.bufFrom.getD v.num ∧ g.decided = false ∧ (t.bell n).phase = .post ∧
      t.aux = { s.aux with asked := s.aux.asked ++ [Fin.ofNat 19 n.val] }
    let plain (t : State) : Prop := { t with stalls := s.stalls, force := s.force, aux := s.aux, sieve := s.sieve } = s ∧
      (∀ m : Fin 16, m ≠ n → t.stalls[m] = s.stalls[m]) ∧ (t.bell n).obs = []
    (b.phase = .armed → b.beginAt = none → 2 ≤ u.post →
      (s.quietSample n v false false → s.val F.STL_BEL_S_COND_QUAL b.state n = 0 →
        s.flag F.STL_BEL_S_COND_QINV b.state n = false → s.val F.STL_BEL_S_COND_ADV b.state n = 1 →
        s.val F.STL_BEL_S_COND_ADV 0 n ≤ 1 → s.val F.STL_BEL_S_COND_NEXT b.state n = k →
        s.word (R.STL_BEL_S_ACT.num k n) = F.STL_BEL_S_ACT_TRIGGER.put 1 →
        ∃ t, exec (.bellAdvance n) s = .next t ∧ plain t ∧ t.sieve = s.sieve ∧ opened false t) ∧
      (s.quietSample n v false true → s.val F.STL_BEL_S_COND_ADV b.state n = 0 → s.val F.STL_BEL_S_COND_ADV 0 n = 0 →
        s.val F.STL_BEL_S_COND_RST b.state n = 0 → spanValue (s.val F.STL_BEL_AUTO_AUTO 0 n) ≠ 0 →
        spanElapsed (s.val F.STL_BEL_AUTO_AUTO 0 n) b.autoAt b.autoPos 0 v = true →
        ∃ t, exec (.autoTrigger n) s = .next t ∧ plain t ∧ t.sieve = s.sieve ∧ opened true t)) ∧
    (b.phase = .hold → b.beginAt = none → s.quietSample n v false false → b.holdElapsed v = true →
      s.flag F.STL_BEL_CTRL_PREFILL_WAIT 0 n = false → s.val F.STL_BEL_S_COND_ADV 0 n = 0 →
      s.val F.STL_BEL_S_COND_RST 0 n = 0 → s.word (R.STL_BEL_S_ACT.num 0 n) = 0 →
      ∃ t, exec (.holdoffElapsed n) s = .next t ∧ plain t ∧ t.aux = s.aux ∧ t.sieve = s.sieve ∧ (t.bell n).phase = .armed ∧
        (t.bell n).state = 0) ∧
    (∀ x : Nat, b.phase = .rearm → b.beginAt = some x → x ≤ v.chron → s.quietSample n v false false →
      b.holdElapsed v = false → spanUnit b.holdWord < 4 →
      ∃ t, exec (.rearmEnd n) s = .next t ∧ plain t ∧ t.aux = s.aux ∧ t.sieve = (s.syncBuffer n v).sieve ∧
        (t.bell n).phase = .hold ∧ (t.bell n).bufFrom = some v.num ∧ (t.bell n).beginAt = none)

/-- A change of a TRIG_IN pin is kept for every Bell that runs and for no other; a level that is there already is nothing
(R149, R153), and in WATCH the pin has no supply (R411). A decision whose tick has come decides the first undecided segment;
before its tick nothing happens (R165). That an event which is not due, or whose situation does not hold, changes nothing is
the model's choice (log entry 2). -/
def Obligations.PinsAndDecisions : Prop :=
  ∀ s : State,
    (∀ (pin : Fin 4) (level : Bool) (stamp : Nat),
      (s.trigIn[pin] = level ∨ s.power.regime = .watch → exec (.trigInEdge pin level stamp) s = .next s) ∧
      (s.trigIn[pin] ≠ level → s.power.regime ≠ .watch → s.ev.trigEdges = [] → ∃ t, exec (.trigInEdge pin level stamp) s = .next t ∧
        { t with trigIn := s.trigIn, ev := s.ev, stalls := s.stalls } = s ∧
        t.trigIn = s.trigIn.set pin level ∧ t.ev = { s.ev with trigEdges := [(pin, level)] } ∧
        ∀ n : Fin 16,
          let kept : Bell := { s.bell n with outs := (s.bell n).outs ++ [⟨0x18 + pin.val, stamp, level, true⟩] }
          t.stalls[n] = if (s.bell n).phase = .stopped then s.stalls[n] else { s.stalls[n] with bell := kept })) ∧
    (∀ (n : Fin 16) (due : Nat) (i : Rat) (ds : List (Nat × Decision)), (s.bell n).decisions = (due, .trigger i) :: ds →
      (s.now + s.tickLen ≤ due → exec (.bellDecision n) s = .next s) ∧
      (∀ (g : Segment) (gs : List Segment), due < s.now + s.tickLen → (∀ m : Fin 16, (s.bell m).linked = false) →
        (s.stalls[n]).segs = g :: gs → g.decided = false →
        let x : Stall := { s.stalls[n] with
          bell := { s.bell n with decisions := ds }, segs := { g with decided := true } :: gs }
        exec (.bellDecision n) s = .next { s with stalls := s.stalls.set n.val x n.isLt }))

/-! ## Records (chapters 08 and 10) -/

/-- A segment that may close is numbered with its stall's SEGNO, which advances, and its values are written to its slot's
data area and nowhere else (R177, R181, R183). One that may not close is left. A header write completes a segment (R196,
R199): its 64 bytes stand at the start of its slot and no other byte changes, its number is the last segment's, and
SEG_READY is set. A merge read, in a cycle that the subchannel's arbiter grants to MAINT work, completes the data first: it
writes the last burst whole, the segment's last units before the old bits after them, or before zeros where the burst is
uncorrectable, which is toll 193 and a log entry (R273, R278, R288). That an event which is not due, or whose situation does
not hold, changes nothing is the model's choice (log entry 2). That a segment closes by a command of its own, which puts its
values in place at once, is the model's reading (log entry 55). -/
def Obligations.SegmentsCloseAndComplete : Prop :=
  (∀ (s : State) (n : Fin 16) (g : Segment),
    let x := s.stalls[n]
    x.segs = [g] → g.number = none →
    (s.closable n g = false → exec (.segmentClose n) s = .next s) ∧
    (s.closable n g = true → s.memoriesWf → g.setup.stages = [] → g.setup.ring = true → g.setup.fmt = 1 → g.setup.sieve = false →
      g.marks = [] → 0 < g.setup.units → (between g.start g.last (g.keptAt x 0)).length ≤ g.setup.units →
      let a := g.setup.slotAddr x.segNo + 64
      ∃ (t : State) (h : Segment), exec (.segmentClose n) s = .next t ∧ { t with stalls := s.stalls, dram := s.dram } = s ∧
        (∀ m : Fin 16, m ≠ n → t.stalls[m] = s.stalls[m]) ∧ (t.stalls[n]).segNo = (x.segNo + 1) % 2 ^ 40 ∧
        (t.stalls[n]).segs = [h] ∧ h.number = some x.segNo ∧ h.setup = g.setup ∧ h.trig = g.trig ∧ h.frac = g.frac ∧
        h.last = g.last ∧ h.entries = 0 ∧ h.pre = (g.trig.num : Int) - g.start ∧ h.closedAt = s.now ∧
        (t.stalls[n]).lastSeg = x.lastSeg ∧
        ∀ y, (y < a ∨ a + (2 * g.setup.units + 63) / 64 * 64 ≤ y) → memByte t.dram.mem y = memByte s.dram.mem y) ∧
    (s.closable n g = true → ∃ t, exec (.segmentClose n) s = .next t ∧ (t.stalls[n]).segNo = (x.segNo + 1) % 2 ^ 40 ∧
      (∀ m : Fin 16, m ≠ n → t.stalls[m] = s.stalls[m]) ∧
      (g.setup.ring = true → ∃ h : Segment, (t.stalls[n]).segs = [h] ∧ h.number = some x.segNo ∧ h.setup = g.setup ∧
        h.trig = g.trig ∧ h.last = g.last ∧ h.entry = x.head ∧ h.closedAt = s.now))) ∧
  (∀ (s : State) (n : Fin 16) (g : Segment) (q : Nat), (s.stalls[n]).segs = [g] →
    (g.number = some q → g.merge = none → g.setup.ring = true →
      let a := g.setup.slotAddr q
      (s.now ≤ g.closedAt → exec (.headerWriteDone n) s = .next s) ∧
      (g.closedAt < s.now → s.memoriesWf → ∃ t, exec (.headerWriteDone n) s = .next t ∧
        (t.stalls[n]).lastSeg = q ∧ (t.stalls[n]).segs = [] ∧ (∀ m : Fin 16, m ≠ n → t.stalls[m] = s.stalls[m]) ∧
        t.status.segReady = true ∧ memBytes t.dram.mem a 64 = (g.header (s.stalls[n]).head).bytes ∧
        (∀ y, (y < a ∨ a + 64 ≤ y) → memByte t.dram.mem y = memByte s.dram.mem y) ∧
        (g.setup.fill = false → g.results = [] →
          { t with stalls := s.stalls, dram := s.dram, status := s.status, ev := s.ev } = s ∧
          t.stalls = s.stalls.set n.val { s.stalls[n] with lastSeg := q, segs := [] } n.isLt ∧
          t.status = { s.status with segReady := true }))) ∧
    (∀ m : Merge, g.merge = some m →
      let c := (s.dramPlace m.addr).sub
      let data := ofLeBytes m.data % 2 ^ m.bits
      (s.maintMay c = false → ∀ found : Vector SymbolErrors 8, exec (.mergeReadDone n found) s = .next s) ∧
      (s.maintMay c = true → (∀ found : Vector SymbolErrors 8, ∃ t, exec (.mergeReadDone n found) s = .next t ∧
        ∃ h : Segment, (t.stalls[n]).segs = [h] ∧ h.merge = none ∧ h.number = g.number ∧ h.setup = g.setup) ∧
      (s.memoriesWf → s.dram.bad = [] → m.bits ≤ 512 → m.addr % 64 = 0 →
        (∃ t, exec (.mergeReadDone n (Vector.replicate 8 0)) s = .next t ∧
          { t with dram := s.dram, hall := s.hall, ev := s.ev } = s.modStall n (fun x => { x with segs := [{ g with merge := none }] }) ∧
          t.hall.mem = s.hall.mem ∧ t.dram.bad = [] ∧
          memNat t.dram.mem m.addr 64 = data + 2 ^ m.bits * (memNat s.dram.mem m.addr 64 / 2 ^ m.bits) ∧
          ∀ y, y < m.addr ∨ m.addr + 64 ≤ y → memByte t.dram.mem y = memByte s.dram.mem y) ∧
        ∀ (k : Fin 8) (e : SymbolErrors), s.dram.rewrites.length < 16 → rsDecode e = .uncorrectable →
          ∃ t, exec (.mergeReadDone n ((Vector.replicate 8 0).set k.val e k.isLt)) s = .next t ∧
            t.tollDue = (s.toll 193).tollDue ∧ t.dram.total = (s.dram.total + 1) % 2 ^ 24 ∧ t.dram.bad = [] ∧
            memNat t.dram.mem m.addr 64 = data))))

/-- STLn_LASTSEG_LO latches the number's high byte (R199). The stall's windows: a word is written and the address advances;
a word locked by a running stall that the write would change is refused with STOP_LOCKED, and a reserved GATE or POL or a
NaN limit with RANGE, both with toll 243 (R9, R130, R225, R229, R429); a reserved bit is no part of what is locked (R9,
R11), and which bits a descriptor's words reserve is the model's reading (log entry 81). -/
def Obligations.StallWindows : Prop :=
  ∀ (s : State) (n : Fin 16),
    let x := s.stalls[n]
    let win (u : State) : State := u.stallAddrNext (R.STL_WIN_ADDR.num 0 n) 320
    let ms (u : State) : State := u.stallAddrNext (R.STL_MS_ADDR.num 0 n) 128
    let put (x' : Stall) : State := { s with stalls := s.stalls.set n.val x' n.isLt }
    let a := s.val F.STL_WIN_ADDR_ADDR 0 n
    let m := s.val F.STL_MS_ADDR_ADDR 0 n
    exec (.lastsegRead n) s = .next ((put { x with lastSegHi := x.lastSeg / 2 ^ 32 }).answer .ok) ∧
    exec (.stallWindowAccess n none) s = .next ((win s).answer .ok) ∧
    exec (.measSlotWindowAccess n none) s = .next ((ms s).answer .ok) ∧
    (∀ w : Word,
      let locked := s.running (fnStall n) = true
      let differs := (Sparse.get (fun _ => 0) x.window a ^^^ w) &&& windowMask x.window a ≠ 0
      let differsMs := (Sparse.get msReset x.msWords m ^^^ w) &&& (if m % 4 = 0 then 0xFFFF else BitVec.allOnes 32) ≠ 0
      (locked → differs → exec (.stallWindowAccess n (some w)) s = .next (win (s.refuseWrite .stopLocked))) ∧
      (¬locked ∨ ¬differs → exec (.stallWindowAccess n (some w)) s =
        .next ((win (put { x with window := Sparse.set (fun _ => 0) x.window a w })).answer .ok)) ∧
      (msRefused m w = true → exec (.measSlotWindowAccess n (some w)) s = .next (ms (s.refuseWrite .range))) ∧
      (msRefused m w = false → m % 4 < 2 → locked → differsMs →
        exec (.measSlotWindowAccess n (some w)) s = .next (ms (s.refuseWrite .stopLocked))) ∧
      (msRefused m w = false → m % 4 < 2 → ¬locked ∨ ¬differsMs → exec (.measSlotWindowAccess n (some w)) s =
        .next ((ms (put { x with msWords := Sparse.set msReset x.msWords m w })).answer .ok)) ∧
      (msRefused m w = false → 2 ≤ m % 4 → ∃ t, exec (.measSlotWindowAccess n (some w)) s = .next t ∧
        { t with ev := s.ev } = (ms (put { x with msWords := Sparse.set msReset x.msWords m w })).answer .ok))

/-! ## Record memory (chapter 13) -/

/-- A burst of record memory (R272, R277, R287, R288): on a subchannel that is awake, where it is the burst that the
controller issues next, a read returns its 64 bytes, a write stores them and changes no other byte; it leaves the queue. An
error in one symbol of a codeword is corrected, with toll 192 and the data as it was written, and a MAINT cycle is asked for
to write it back; an uncorrectable codeword is an error with toll 193 and a log entry; a burst beyond the memory is an error
with toll 194. No burst is issued on a subchannel that sleeps (R280), and a visit of the scrub moves its address on (R289).
The errors that a burst finds are an operand of its command (log entry 14). -/
def Obligations.BurstsAreIssued : Prop :=
  (∀ (i : Fin 10) (e : BitVec 8), e ≠ 0 → let word : SymbolErrors := BitVec.ofNat 80 (e.toNat * 256 ^ i.val)
    rsDecode word = .corrected i ∧ residualErrors word = 0) ∧
  (∀ (s : State) (o : Fin 4) (addr : BitVec 38), s.memoriesWf → s.dram.bad = [] → addr.toNat % 64 = 0 →
    let a := addr.toNat
    let clean : Vector SymbolErrors 8 := Vector.replicate 8 0
    let read : BitVec 512 := BitVec.ofNat 512 (memNat s.dram.mem a 64)
    let p := s.dramPlace a
    let x := s.dram.subs[p.sub]
    let ready : Prop := s.nextBurst p.sub (if (o, a) ∈ x.queue then x.queue else x.queue ++ [(o, a)]) = some (o, a)
    (s.dramSize ≤ a → ∀ w c found, exec (.dramBurst o addr w c found) s =
      .next ({ s with dram := { s.dram with answer := ⟨o, 0, true⟩ } }.toll 194)) ∧
    (a < s.dramSize → x.sr ≠ .active ∨ ¬ready → ∀ w c found, exec (.dramBurst o addr w c found) s = .next s) ∧
    (a < s.dramSize → x.sr = .active → ready →
      let moved (t : State) : Prop := { t with dram := s.dram } = s ∧
        { t.dram with mem := s.dram.mem, answer := s.dram.answer, subs := s.dram.subs } = s.dram ∧
        (∀ c : Fin 8, c ≠ p.sub → t.dram.subs[c] = s.dram.subs[c]) ∧
        (t.dram.subs[p.sub]).queue = x.queue.erase (o, a)
      (∃ t, exec (.dramBurst o addr none false clean) s = .next t ∧ moved t ∧ t.dram.mem = s.dram.mem ∧
        t.dram.answer = ⟨o, read, false⟩) ∧
      (∀ w : BitVec 512, ∃ t, exec (.dramBurst o addr (some w) false clean) s = .next t ∧ moved t ∧
        t.dram.answer = ⟨o, 0, false⟩ ∧ memNat t.dram.mem a 64 = w.toNat ∧
        ∀ x, (x < a ∨ a + 64 ≤ x) → memByte t.dram.mem x = memByte s.dram.mem x) ∧
      (∀ (k : Fin 8) (e : SymbolErrors), s.ringAt (a + 8 * k.val) = none →
        let found := clean.set k.val e k.isLt
        (∀ i : Fin 10, rsDecode e = .corrected i → residualErrors e = 0 →
          ∃ t, exec (.dramBurst o addr none false found) s = .next t ∧
            { t with dram := s.dram, hall := s.hall, ev := s.ev, tollDue := s.tollDue } = s ∧ t.hall.mem = s.hall.mem ∧
            (t.arb (256 + p.sub)).live = (s.arb (256 + p.sub)).live ++ [⟨2, false, 1, false, [a]⟩] ∧
            t.tollDue = (s.toll 192).tollDue ∧ t.dram.mem = s.dram.mem ∧ t.dram.answer = ⟨o, read, false⟩ ∧ t.dram.bad = []) ∧
        (rsDecode e = .uncorrectable →
          ∃ t, exec (.dramBurst o addr none false found) s = .next t ∧ { t with dram := s.dram, tollDue := s.tollDue } = s ∧
            t.tollDue = (s.toll 193).tollDue ∧ t.dram.mem = s.dram.mem ∧ t.dram.answer = ⟨o, 0, true⟩ ∧
            t.dram.bad = [a / 8 + k.val] ∧ t.dram.head = (s.dram.head + 1) % 64 ∧
            t.dram.total = (s.dram.total + 1) % 2 ^ 24)) ∧
      (s.scrubRuns = true → s.maintWaits p.sub = false → s.retrainWaits p.sub = false → s.scrubMay p.sub = true → x.scrubOn = true →
        x.scrubAt = p.local_ / 64 → p.local_ / 64 + 1 < s.scrubBursts →
        ∃ t, exec (.dramBurst o addr none true clean) s = .next t ∧ t.dram.mem = s.dram.mem ∧
          (t.dram.subs[p.sub]).scrubAt = p.local_ / 64 + 1)))

/-- A subchannel's self-refresh (R280): entered after its idle count where no request waits, its rows closed; left for a
waiting request, with the idle count and the refresh schedule begun again, but not in WATCH or in a change of regime (R270,
R281). No other subchannel changes. Refresh (R279): due once a tREFI to every bank while no stall runs, and once a quarter
of it to one bank index of those left while one does, one without an ACQ burst queued where there is one (which of several
is free, log entry 79); MR4 decides the rate, and beyond its range counts toll 204 with attention at level 3. That an event
which is not due, or whose situation does not hold, changes nothing is the model's choice (log entry 2). -/
def Obligations.SubchannelsSleepAndRefresh : Prop :=
  (∀ (s : State) (c : Fin 8),
    let x := s.dram.subs[c]
    let put (x' : Subchannel) : State := { s with dram := { s.dram with subs := s.dram.subs.set c.val x' c.isLt } }
    (x.sr = .active → x.idleLimit ≠ 0 → x.idleLimit ≤ x.idle → s.subBusy c = false → x.banks = [] →
      exec (.srEntry c) s = .next (put { x with sr := .entering false })) ∧
    (s.subBusy c = true → exec (.srEntry c) s = .next s) ∧
    (∀ asked : Bool, x.sr = .entering asked →
      exec (.srEntryDone c) s = .next (put { x with sr := if asked && !s.heldAsleep then .exiting else .asleep })) ∧
    (x.sr = .asleep →
      (s.subBusy c = true → s.heldAsleep = false → exec (.srExit c) s = .next (put { x with sr := .exiting })) ∧
      (s.subBusy c = false ∨ s.heldAsleep = true → exec (.srExit c) s = .next s)) ∧
    (x.sr = .exiting → s.power.regime ≠ .watch → exec (.srExitDone c) s = .next (put { x with
      sr := .active, idle := 0, idleLimit := s.val F.DRM_IDLE_SR_IDLE, refreshLeft := [0, 1, 2, 3]
      refreshAt := s.now + s.refreshMites / if s.anyStall then 4 else 1 })) ∧
    (x.sr = .exiting → s.power.regime = .watch → exec (.srExitDone c) s = .next s)) ∧
  (∀ s : State,
    (∀ c : Fin 8,
      let x := s.dram.subs[c]
      let put (x' : Subchannel) : State := { s with dram := { s.dram with subs := s.dram.subs.set c.val x' c.isLt } }
      x.sr = .active → x.banks = [] →
      (s.now + s.tickLen ≤ x.refreshAt → exec (.refreshDue c) s = .next s) ∧
      (x.refreshAt < s.now + s.tickLen →
        (s.anyStall = false → exec (.refreshDue c) s = .next (put { x with
          refreshing := true, refreshAt := x.refreshAt + if s.dram.rate2 then 78000 else 156000, refreshLeft := [0, 1, 2, 3] })) ∧
        (s.anyStall = true →
          let left := if x.refreshLeft = [] then [0, 1, 2, 3] else x.refreshLeft
          ∃ t k, exec (.refreshDue c) s = .next t ∧ k ∈ left ∧ ((∃ j ∈ left, s.acqQueued c j = false) → s.acqQueued c k = false) ∧
            { t with dram := s.dram, free := s.free } = s ∧ t.dram = (put { x with
              refreshing := true, refreshAt := x.refreshAt + if s.dram.rate2 then 19500 else 39000, refreshLeft := left.erase k }).dram))) ∧
    (s.dram.mr4At < s.now + s.tickLen →
      let rate (r : Bool) : State := { s with dram := { s.dram with
        rate2 := r, mr4At := s.dram.mr4At + s.val F.DRM_REFRESH_MR4_PER * 40000000 } }
      exec (.mr4Read 0) s = .next (rate false) ∧ exec (.mr4Read 1) s = .next (rate true) ∧
      exec (.mr4Read 2) s = .next (((rate true).toll 204).attention 3)))

/-- Hammer tables and pass clocks (R282, R289): a row at the threshold is mitigated, its entry cleared, with toll 196, its
neighbours activated where the devices have no RFM, in a cycle granted to MAINT work that is MAINT's, READ's or unreserved,
but not before a merge read that waits there (R273); at the end of the window the tables are empty and the threshold is read
again. A scrub's period that ends in a pass is late with toll 195; otherwise the next pass begins. A header rewrite, in such
a cycle too, adds its flags to the header that stands and renews its CRC, changing no other byte of record memory; where the
header cannot be trusted or read it counts toll 202 and writes nothing (R200, R290). The logs' data words advance their
selectors (R291, R401). That an event which is not due, or whose situation does not hold, changes nothing is the model's
choice (log entry 2). -/
def Obligations.RowsScrubsAndRewrites : Prop :=
  (∀ s : State,
    (∀ (c : Fin 8) (b : Fin 64) (row n : Nat), (s.dram.subs[c]).banks = [(b.val, ⟨none, [(row, n)]⟩)] →
      (n < s.dram.hammerTh ∨ s.mergeWaits c = true ∨ s.maintMay c = false ∨ s.slotOwner (256 + c) ∉ [1, 2, 7] →
        exec (.hammerMitigation c b row) s = .next s) ∧
      (s.dram.hammerTh ≤ n → s.mergeWaits c = false → s.maintMay c = true → s.slotOwner (256 + c) ∈ [1, 2, 7] →
        ∃ t, exec (.hammerMitigation c b row) s = .next t ∧
          { t with dram := s.dram, hall := s.hall, tollDue := s.tollDue } = s ∧ t.hall.mem = s.hall.mem ∧
          t.tollDue = (s.toll 196).tollDue ∧ { t.dram with mitigations := s.dram.mitigations, subs := s.dram.subs } = s.dram ∧
          t.dram.mitigations = (s.dram.mitigations + 1) % 2 ^ 32 ∧
          (∀ d : Fin 8, d ≠ c → t.dram.subs[d] = s.dram.subs[d]) ∧ (t.dram.subs[c]).bank b.val =
            if s.dram.rfm then ⟨none, []⟩ else ⟨none, (s.neighbours row).foldl hammerAct []⟩)) ∧
    (s.now + s.tickLen ≤ s.dram.windowEnd → exec .hammerWindowEnd s = .next s) ∧
    (s.dram.windowEnd < s.now + s.tickLen → (∀ c : Fin 8, (s.dram.subs[c]).banks = []) →
      exec .hammerWindowEnd s = .next { s with dram := { s.dram with
        hammerTh := s.val F.DRM_HAMMER_TH_TH, windowEnd := s.dram.windowEnd + 1280000000 } }) ∧
    (∀ c : Fin 8,
      let x := s.dram.subs[c]
      let put (x' : Subchannel) : State := { s with dram := { s.dram with subs := s.dram.subs.set c.val x' c.isLt } }
      s.val F.DRM_SCRUB_PERIOD ≠ 0 → x.scrubLate = false → s.val F.DRM_SCRUB_PERIOD * 144000000000000 ≤ x.scrubClock →
      (x.scrubOn = true → exec (.dramScrubPeriod c) s = .next ((put { x with scrubLate := true }).toll 195)) ∧
      (x.scrubOn = false → exec (.dramScrubPeriod c) s =
        .next (put { x with scrubAt := 0, scrubClock := 0, scrubOn := true })))) ∧
  (∀ s : State,
    let clean : Vector SymbolErrors 8 := Vector.replicate 8 0
    (s.dram.rewrites = [] → ∀ found, exec (.headerRewrite found) s = .next s) ∧
    (∀ (r : Rewrite) (rs : List Rewrite), s.dram.rewrites = r :: rs →
      let u := (s.stalls[r.stall]).setup
      let a := u.base + r.slot * u.slotBytes
      let c := (s.dramPlace a).sub
      (s.mergeWaits c = true ∨ s.maintMay c = false → ∀ found, exec (.headerRewrite found) s = .next s) ∧
      (s.mergeWaits c = false → s.maintMay c = true → s.dram.bad = [] →
        (s.headerStands r.stall r.slot = false → ∃ t, exec (.headerRewrite clean) s = .next t ∧
          { t with dram := s.dram, hall := s.hall, tollDue := s.tollDue } = s ∧ t.hall.mem = s.hall.mem ∧
          { t.dram with subs := s.dram.subs, rewrites := s.dram.rewrites } = s.dram ∧ t.dram.rewrites = rs ∧
          t.tollDue = (s.toll 202).tollDue) ∧
        (∀ (k : Fin 8) (e : SymbolErrors), a % 8 = 0 → rs.length < 15 → rsDecode e = .uncorrectable →
          ∃ t, exec (.headerRewrite (clean.set k.val e k.isLt)) s = .next t ∧
            t.tollDue = ((s.toll 193).toll 202).tollDue ∧ t.dram.mem = s.dram.mem ∧
            (s.ringAt (a + 8 * k.val) = some (r.stall, r.slot) → t.dram.rewrites.length = rs.length)) ∧
        (s.headerStands r.stall r.slot = true → s.memoriesWf →
          ∃ t, exec (.headerRewrite clean) s = .next t ∧ { t with dram := s.dram, hall := s.hall } = s ∧
            t.hall.mem = s.hall.mem ∧ t.dram.rewrites = rs ∧
            memNat t.dram.mem (a + 0x1A) 2 = (memNat s.dram.mem (a + 0x1A) 2 ||| r.flags) % 65536 ∧
            memNat t.dram.mem (a + 60) 4 = crc32 (memBytes t.dram.mem a 60) % 2 ^ 32 ∧
            ∀ x, (x < a + 0x1A ∨ (a + 0x1C ≤ x ∧ x < a + 60) ∨ a + 64 ≤ x) →
              memByte t.dram.mem x = memByte s.dram.mem x))) ∧
    (let e := s.val F.DRM_ELOG_SEL_ENTRY
     let w := s.val F.DRM_ELOG_SEL_WORD
     ∃ t, exec .elogDataRead s = .next t ∧ { t with code := s.code, written := s.written, force := s.force } = s ∧ t.code = .ok ∧
      (w < 3 → t.force = Sparse.set resetWord s.force R.DRM_ELOG_SEL.base
        (F.DRM_ELOG_SEL_ENTRY.put e ||| F.DRM_ELOG_SEL_WORD.put (w + 1)))) ∧
    (let e := s.val F.LOG_SEL_ENTRY
     let w := s.val F.LOG_SEL_WORD
     ∃ t, exec .logDataRead s = .next t ∧ { t with code := s.code, written := s.written, force := s.force } = s ∧ t.code = .ok ∧
      (w < 3 → t.force = Sparse.set resetWord s.force R.LOG_SEL.base
        (F.LOG_SEL_ENTRY.put e ||| F.LOG_SEL_WORD.put (w + 1)))))

/-- Training (R284, R286): a GO with COUNT zero is refused with RANGE; a sweep starts on a frozen subchannel, and a sweep or a
delay write for one that is not frozen is refused with STOP_LOCKED and tolls 203 and 243. A sweep that is done shows, for
every bit, its first and last point without an error and its errors at the last point, and the bits that failed there. A
retraining step adjusts the read DQ delays of a byte lane, or its write DQS delay, with toll 198 beyond the drift limit and
toll 199 where it finds no window, in a cycle granted to MAINT work during a refresh, on a trained controller, with no other
MAINT work but scrub waiting (R273). What FIRST and LAST show of a bit that passes nowhere is free (log entry 85), and which
cycles lie in a refresh is the model's reading (log entry 58). -/
def Obligations.DelaysAreTrained : Prop :=
  ∀ s : State,
    (∀ w : Word,
      let c := F.DRM_TR_CTRL_SUB.get w
      let s1 := ((s.setWritten R.DRM_TR_CTRL.base w trainingMask).setForce R.DRM_TR_CTRL.base w trainingMask).answer .ok
      (F.DRM_TR_CTRL_COUNT.get w = 0 → exec (.trainingGo w) s = .next (s.refuseWrite .range)) ∧
      (F.DRM_TR_CTRL_COUNT.get w ≠ 0 →
        (F.DRM_TR_CTRL_GO.get w = 1 → s.subFrozen c = false →
          exec (.trainingGo w) s = .next ((s.toll 203).refuseWrite .stopLocked)) ∧
        (F.DRM_TR_CTRL_GO.get w = 0 → exec (.trainingGo w) s = .next s1) ∧
        (F.DRM_TR_CTRL_GO.get w = 1 → s.subFrozen c = true →
          ∃ t, exec (.trainingGo w) s = .next t ∧ { t with dram := s.dram } = s1 ∧ t.dram.sweepDone = false ∧
            { t.dram with sweepDone := s.dram.sweepDone, subs := s.dram.subs } = s.dram ∧
            (∀ d : Fin 8, d.val ≠ c → t.dram.subs[d] = s.dram.subs[d]) ∧
            (t.dram.subs[Fin.ofNat 8 c]).sweep = some ⟨F.DRM_TR_CTRL_MODE.get w, s.val F.DRM_TR_SWEEP_START, s.val F.DRM_TR_SWEEP_END,
              s.val F.DRM_TR_SWEEP_STEP, F.DRM_TR_CTRL_COUNT.get w, s.val F.DRM_TR_SEED_SEED⟩))) ∧
    (∀ w : Word,
      (s.subFrozen (s.val F.DRM_TR_DSEL_SUB) = false →
        exec (.trainingDelayWrite w) s = .next ((s.toll 203).refuseWrite .stopLocked)) ∧
      (s.subFrozen (s.val F.DRM_TR_DSEL_SUB) = true → Sparse.wf s.trainedDelay s.dram.delays = true →
        ∃ t, exec (.trainingDelayWrite w) s = .next t ∧ t.code = .ok ∧
          { t with dram := { t.dram with delays := s.dram.delays }, code := s.code } = s ∧
          t.delayOf s.selectedDelay = F.DRM_TR_DDATA_DLY.get w ∧ ∀ k, k ≠ s.selectedDelay → t.delayOf k = s.delayOf k)) ∧
    (∀ (c : Fin 8) (reads : List (List (BitVec 640))) (counts : Vector (List Nat) 40),
      ((s.dram.subs[c]).sweep = none → exec (.trainingSweepDone c reads counts) s = .next s) ∧
      (∀ w : Sweep, (s.dram.subs[c]).sweep = some w →
        ∃ t, exec (.trainingSweepDone c reads counts) s = .next t ∧ { t with dram := s.dram, free := s.free } = s ∧
          t.dram.sweepDone = true ∧ t.dram.mem = s.dram.mem ∧
          t.dram.subs = s.dram.subs.set c.val { s.dram.subs[c] with sweep := none } c.isLt ∧
          ∀ i : Fin 40,
            let errs := w.errors i reads counts
            let good := ((w.points.zip errs).filter fun p => p.2 == 0).map (·.1)
            let last := errs.getLastD 0
            t.dram.errors.getLsbD i = decide (last ≠ 0) ∧ (t.dram.results[i]).2.2 = BitVec.ofNat 12 (min 4095 last) ∧
            ∀ a ps, good = a :: ps → (t.dram.results[i]).1 = BitVec.ofNat 10 a ∧
              (t.dram.results[i]).2.1 = BitVec.ofNat 10 (ps.getLastD a))) ∧
    (∀ (c : Fin 8) (dqs : Bool) (lane : Fin 5) (d : Option (Vector (BitVec 10) 8)),
      (s.dram.trained = false ∨ s.maintMay c = false ∨ s.maintWaits c = true ∨ (s.dram.subs[c]).refreshing = false ∨
        dqs = false ∧ (s.dram.subs[c]).retrainLeft = 0) → exec (.retrainStep c dqs lane d) s = .next s) ∧
    (∀ (c : Fin 8) (dqs : Bool) (lane : Fin 5) (d : Vector (BitVec 10) 8), s.dram.trained = true → s.maintMay c = true →
      s.maintWaits c = false → (s.dram.subs[c]).refreshing = true → dqs = true ∨ (s.dram.subs[c]).retrainLeft ≠ 0 →
      Sparse.wf s.trainedDelay s.dram.delays = true →
      let key (i : Fin 8) : Nat := delayKey (s.power.regime = .lean) c (if dqs then 2 else 4) (8 * lane + i)
      let moved (t : State) : Prop := { t with dram := s.dram, hall := s.hall, tollDue := s.tollDue } = s ∧
        t.hall.mem = s.hall.mem ∧ { t.dram with subs := s.dram.subs, delays := s.dram.delays } = s.dram ∧
        ∀ e : Fin 8, e ≠ c → t.dram.subs[e] = s.dram.subs[e]
      (∃ t, exec (.retrainStep c dqs lane none) s = .next t ∧ moved t ∧ t.tollDue = (s.toll 199).tollDue ∧
        t.dram.delays = s.dram.delays) ∧
      (∃ t, exec (.retrainStep c dqs lane (some d)) s = .next t ∧ moved t ∧ (∀ i : Fin 8, t.delayOf (key i) = (d[i]).toNat) ∧
        (∀ k, (∀ i, k ≠ key i) → t.delayOf k = s.delayOf k) ∧
        t.tollDue = (s.tollIf (decide (∃ i : Fin 8,
          s.val F.DRM_RETRAIN_DRIFT_LIM < (((d[i]).toNat : Int) - s.delayOf (key i)).natAbs)) 198).tollDue))

/-! ## The Crier (chapter 15) -/

/-- A port in DOWN that finds its symbols enters SYNC, CP0 RANGING; a loss of its line takes a port back to DOWN, out of UP
with toll 233 and with what waited discarded under toll 236 (R316, R330). A frame that is not good is discarded with toll
232, both of a pair together (R314). A good IDLE frame brings a port in SYNC that sees its partner receive UP (R312, R316);
on a port that is up it renews PRXOK, and on CP0 it gives the device its place (R311). A good TALLY frame is CP0's alone: it
keeps the port's time and phases (R318, R322). A good cry is registered and forwarded (R311, R324); a launch pair is
forwarded, and arms the lowest free entry of the device it is addressed to (R327). That an event which is not due, or whose
situation does not hold, changes nothing is the model's choice (log entry 2). -/
def Obligations.PortsAndTheirFrames : Prop :=
  (∀ (s : State) (p : Fin 4),
    let q := s.crier.ports[p]
    let put (q' : CrierPort) : State := { s with crier := { s.crier with ports := s.crier.ports.set p.val q' p.isLt } }
    (q.state = .down → p ≠ 0 → exec (.crierPortSync p) s = .next (put { q with state := .sync })) ∧
    (q.state = .down → p = 0 → ∃ t, exec (.crierPortSync p) s = .next t ∧ { t with crier := s.crier } = s ∧
      (t.crier.ports[p]).state = .ranging ∧ t.crier.asked = none) ∧
    (q.state ≠ .down → exec (.crierPortSync p) s = .next s) ∧
    (q.state = .up → p ≠ 0 → q.forwarded = [] → q.launches = [] → q.cries = [] → exec (.crierLinkLoss p false) s =
      .next ((put { q with state := .down, prxok := false, miswire := false, ring := false, discards := [], replies := []
                           request := none }).toll 233)) ∧
    (q.state.synced = true → (p = 0 → s.crier.lastFrame ≠ some s.now) → ∃ t, exec (.crierLinkLoss p false) s = .next t ∧
      { t with crier := s.crier, tollDue := s.tollDue, ev := s.ev } = s ∧ (t.crier.ports[p]).state = .down ∧
      (t.crier.ports[p]).replies = [] ∧ (∀ r : Fin 4, r ≠ p → t.crier.ports[r] = s.crier.ports[r]) ∧
      (q.state ≠ .up → t.tollDue = s.tollDue) ∧ (p = 0 → t.crier.asked = none ∧ t.crier.fields = [])) ∧
    (q.state.synced = true → ∀ f : CrierFrame, f.good = false →
      let bad (n : Nat) : State := (put { q with errs := (q.errs + n) % 65536
                                                 discards := (List.replicate n s.now ++ q.discards).take 16 }).toll 232
      (∀ c ∈ ([.idleFrame p f, .tallyFrame p f, .delayRequest p f, .delayResponse p f] : List Instr),
        exec c s = .next (bad 1)) ∧
      (∀ g : CrierFrame, ∀ c ∈ ([.cryPair p f g, .launchPair p g f] : List Instr), exec c s = .next (bad 2)))) ∧
  (∀ (s : State) (p : Fin 4) (f g : CrierFrame), f.good = true → g.good = true →
    let q := s.crier.ports[p]
    let put (q' : CrierPort) : State := { s with crier := { s.crier with ports := s.crier.ports.set p.val q' p.isLt } }
    let passed (t : State) : Prop := ∀ r : Fin 4, r ≠ p → (s.crier.ports[r]).state = .up →
      (s.crier.ports[r]).forwarded.length < 4 →
      t.crier.ports[r] = { s.crier.ports[r] with forwarded := (s.crier.ports[r]).forwarded ++ [(f.w, g.w)] }
    (frameType f.w = frameIdle → p ≠ 0 → q.miswire = false → frameBits f.w 59 2 = 0 →
      (q.state = .sync → q.ring = false → frameBits f.w 58 1 = 1 →
        exec (.idleFrame p f) s = .next (put { q with state := .up, prxok := true })) ∧
      (q.state = .up → exec (.idleFrame p f) s = .next (put { q with prxok := frameBits f.w 58 1 == 1 }))) ∧
    (frameType f.w = frameIdle → p = 0 → (q.state = .ranging ∨ q.state = .up) → frameBits f.w 59 2 ≠ 0 →
      let depth := frameBits f.w 24 16
      depth ≠ 65535 → exec (.idleFrame p f) s = .next { s with crier := { s.crier with
        ports := s.crier.ports.set p.val { q with prxok := frameBits f.w 58 1 == 1 } p.isLt
        path := pathBelow (frameBits f.w 40 16) depth (frameBits f.w 59 2)
        depth := depth + 1, deep := decide (8 < depth + 1) } }) ∧
    (frameType f.w = frameTally → p ≠ 0 → q.state.synced = true → exec (.tallyFrame p f) s = .next s) ∧
    (frameType f.w = frameTally → p = 0 → q.state = .up → s.ev.linkLost = none →
      let ph := frameBits f.w 58 3
      ∃ t, exec (.tallyFrame p f) s = .next t ∧ t.crier.ports = s.crier.ports ∧ t.crier.lastFrame = some s.now ∧
        t.crier.tst = frameBits f.w 56 2 ∧ t.crier.rxPos = s.crier.rebuilt f.w ∧
        t.crier.ph0 = (if ph = 0 then f.arrival else s.crier.ph0) ∧ t.crier.fields.lookup ph = some (frameBits f.w 0 24) ∧
        (ph = 7 → s.isRoot = false → t.crier.lead = frameBits f.w 0 24 % 2 ^ 20) ∧
        (2 ≤ frameBits f.w 56 2 → t.tally = s.tally)) ∧
    (frameType f.w = frameCryA → frameType g.w = frameCryB → q.state = .up →
      ∃ t, exec (.cryPair p f g) s = .next t ∧ { t with stalls := s.stalls, crier := s.crier, tollDue := s.tollDue } = s ∧
        passed t ∧ t.crier.ports[p] = q ∧
        ∀ n : Fin 16, (s.bell n).phase ≠ .stopped →
          (t.bell n).outs = (s.bell n).outs ++ [⟨0x20 + frameBits f.w 56 4, s.now, false, true⟩]) ∧
    (frameType f.w = frameLaunchA → frameType g.w = frameLaunchB → q.state = .up →
      ∃ t, exec (.launchPair p f g) s = .next t ∧ { t with crier := s.crier, tollDue := s.tollDue } = s ∧
        passed t ∧ t.crier.ports[p] = q ∧
        (s.addressed f.w = false → t.crier.table = s.crier.table) ∧
        (∀ e : Fin 16, s.addressed f.w = true → s.crier.freeEntry = some e → frameBits f.w 59 1 = 0 →
          ∃ r : RxEntry, t.crier.table = s.crier.table.set e.val (some r) e.isLt ∧
            r.slot = { arming := some (s.extendTarget f.w g.w) } ∧ r.act = frameBits f.w 36 4 ∧
            r.stall.val = frameBits f.w 32 4 ∧ r.pin.val = frameBits f.w 30 2 ∧ r.yard.val = frameBits f.w 27 3)))

/-- Hop delays (R319, R320): a request is answered in its slot; a request of this device falls due in RANGING as soon as
none is outstanding, and in UP when its period has come; its response is taken with the latency it carries, and gives a
sample; 16 cycles without one count toll 239, which a response in the tick of that timeout takes back. That an event which
is not due, or whose situation does not hold, changes nothing is the model's choice (log entry 2). -/
def Obligations.DelaysAreMeasured : Prop :=
  ∀ s : State,
    (∀ (p : Fin 4) (f : CrierFrame), f.good = true → frameType f.w = frameDelay → frameBits f.w 60 1 = 0 →
      (s.crier.ports[p]).state.synced = true → exec (.delayRequest p f) s = .next { s with crier := { s.crier with
        ports := s.crier.ports.set p.val { s.crier.ports[p] with
          replies := (s.crier.ports[p]).replies ++ [(frameBits f.w 48 8, f.arrival)] } p.isLt } }) ∧
    (let q := s.crier.ports[(0 : Fin 4)]
     s.crier.asked = none → q.request = none → (q.state = .ranging ∨ (q.state = .up ∧ s.crier.askAt < s.now + s.tickLen)) →
      ∃ t, exec .delayRequestDue s = .next t ∧ { t with crier := s.crier } = s ∧
        (t.crier.ports[(0 : Fin 4)]).request = some s.crier.seq ∧ t.crier.seq = (s.crier.seq + 1) % 256) ∧
    (∀ seq d1 : Nat, s.crier.asked = some (seq, d1) →
      (d1 / 16 + 16 * 2048 < s.now + s.tickLen →
        exec .delayUnanswered s = .next { s.toll 239 with
          crier := { s.crier with asked := none }, ev := { s.ev with unanswered := some (seq, d1) } }) ∧
      (s.now + s.tickLen ≤ d1 / 16 + 16 * 2048 → exec .delayUnanswered s = .next s) ∧
      (∀ f : CrierFrame, f.good = true → frameType f.w = frameDelay → frameBits f.w 60 1 = 1 → frameBits f.w 48 8 = seq →
        (s.crier.ports[(0 : Fin 4)]).state.synced = true →
        (∃ t, exec (.delayResponse 0 f) s = .next t ∧ t.crier.asked = none ∧ t.crier.accumIn = frameBits f.w 0 24 ∧
          ∀ r : Fin 4, r ≠ 0 → t.crier.ports[r] = s.crier.ports[r]) ∧
        ((s.crier.ports[(0 : Fin 4)]).state = .ranging → s.crier.samples = [] → s.isRoot = true → 0 < s.crier.lead →
          4096 ≤ 32 * s.crier.lead → s.crier.leadShort = false →
          exec (.delayResponse 0 f) s = .next { s with crier := { s.crier with
            asked := none, accumIn := frameBits f.w 0 24
            samples := [((f.arrival : Rat) - d1 - frameBits f.w 24 24) / 2 + signed 16 (s.val F.CRY_ASYM_ASYM)] } }))) ∧
    (∀ (seq d1 : Nat) (f : CrierFrame), s.crier.asked = none → s.ev.unanswered = some (seq, d1) → f.good = true →
      frameType f.w = frameDelay → frameBits f.w 60 1 = 1 → frameBits f.w 48 8 = seq → s.isRoot = true →
      (s.crier.ports[(0 : Fin 4)]).state = .ranging → s.crier.samples = [] → 0 < s.crier.lead → 4096 ≤ 32 * s.crier.lead →
      s.crier.leadShort = false → ∃ t, exec (.delayResponse 0 f) s = .next t ∧ t.ev.unanswered = none ∧
        t.tollDue = (s.untoll 239).tollDue ∧ t.crier.samples.length = 1)

/-- The receive table (R327) and the transmitter (R315): an entry whose chronicle target falls in the present tick fires and is
freed, its actions due in the next tick; in a cycle that begins, slots 1 and 2 of a port take the pair that waits longest,
forwarded ones first. A read of CRY_OFS_LO latches the offset's other words (R321). That an event which is not due, or whose
situation does not hold, changes nothing is the model's choice (log entry 2). -/
def Obligations.EntriesFireAndCyclesLeave : Prop :=
  ∀ s : State,
    (∀ (e : Fin 16) (r : RxEntry) (j : Nat), s.crier.table[e] = some r → r.slot.armed = true → r.slot.test = false →
      r.slot.latched.chron = true → j < s.tickLen → r.slot.latched.target.toNat = (s.now + j) % 2 ^ 64 →
      ∃ (t : State) (a : Action), exec (.crierEntryFire e) s = .next t ∧ { t with crier := s.crier, acts := s.acts } = s ∧
        t.crier = { s.crier with table := s.crier.table.set e.val none e.isLt } ∧ t.acts = s.acts ++ [a] ∧
        a.instant = s.now + j ∧ a.due = s.now + s.tickLen ∧ a.late = false ∧ a.unit = 64 + e.val) ∧
    (∀ (e : Fin 16) (r : RxEntry), s.crier.table[e] = some r →
      (s.slotHit s.tallyClose.tally r.slot = none → exec (.crierEntryFire e) s = .next s) ∧
      (∀ c : Crossed, s.slotHit s.tallyClose.tally r.slot = some c → ∃ t, exec (.crierEntryFire e) s = .next t ∧
        t.crier = { s.crier with table := s.crier.table.set e.val none e.isLt } ∧
        t.acts = s.acts ++ [r.action e c (s.now + s.tickLen)] ∧ (c.late.isSome = true → t.tollDue = (s.toll 237).tollDue))) ∧
    (∀ e : Fin 16, s.crier.table[e] = none → exec (.crierEntryFire e) s = .next s) ∧
    (∀ c0 : Nat, s.cycleStart = some c0 →
      (∀ p : Fin 4, (s.crier.ports[p]).state ≠ .off → (s.crier.ports[p]).cycleAt ≠ some c0 →
        ∃ t, exec (.crierTransmitCycle p) s = .next t ∧ (t.crier.ports[p]).cycleAt = some c0 ∧
          (∀ r : Fin 4, r ≠ p → t.crier.ports[r] = s.crier.ports[r]) ∧ t.crier.table = s.crier.table) ∧
      (∀ p : Fin 4, (s.crier.ports[p]).cycleAt = some c0 → exec (.crierTransmitCycle p) s = .next s) ∧
      let q := s.crier.ports[(0 : Fin 4)]
      (q.state = .off → exec (.crierTransmitCycle 0) s = .next s) ∧
      (∀ (x : Quad × Quad) (l : List (Quad × Quad)), q.state = .up → q.cycleAt ≠ some c0 → q.forwarded = x :: l →
        ∃ t, exec (.crierTransmitCycle 0) s = .next t ∧ { t with crier := s.crier } = s ∧
          { t.crier with ports := s.crier.ports } = s.crier ∧
          (∀ p : Fin 4, p ≠ 0 → t.crier.ports[p] = s.crier.ports[p]) ∧
          t.crier.ports[(0 : Fin 4)] = { q with
            cycleAt := some c0, forwarded := l, sent := #v[s.mkIdle 0, x.1, x.2] })) ∧
    (∃ t, exec .cryOfsRead s = .next t ∧ { t with code := s.code, crier := s.crier } = s ∧ t.code = .ok ∧
      { t.crier with ofsHi := s.crier.ofsHi, ofsEra := s.crier.ofsEra, ofsFr := s.crier.ofsFr } = s.crier ∧
      t.crier.ofsHi = BitVec.ofNat 32 (s.ofsWord / 2 ^ 40) ∧ t.crier.ofsEra = BitVec.ofNat 32 (s.ofsWord / 2 ^ 72) ∧
      t.crier.ofsFr = BitVec.ofNat 32 (s.ofsWord % 2 ^ 8))

/-! ## The fuses (chapter 17) -/

/-- A fuse word is programmed by OR into the fuses that exist, or is refused with BAD_PARAM and toll 243, and is turned away
with BUSY_RETRY while a programming lasts; ROLLBACK_ADVANCE blows the fuses of the running image's level where they are not
blown (R366 to R368). -/
def Obligations.FusesAreBlown : Prop :=
  ∀ s : State,
    let i := s.val F.IMG_OTP_SEL_WORD
    let data := s.word R.IMG_OTP_DATA.base
    (s.otpBusy = true → exec .otpProgram s = .next { s with code := .busyRetry }) ∧
    (s.otpBusy = false → s.otpRefused i data = true → exec .otpProgram s = .next ((s.toll 243).answer .badParam)) ∧
    (s.otpBusy = false → s.otpRefused i data = false → exec .otpProgram s = .next { s with code := .ok, image := { s.image with
      otp := s.image.otp.set (i % 32) (s.image.otp[i % 32] ||| (data &&& otpMask i)) (Nat.mod_lt _ (by decide))
      otpUntil := some (s.now + 80000000) } }) ∧
    exec .otpProgramDone s = .next { s with image := { s.image with otpUntil := none } } ∧
    ((s.image.source ≠ 0 ∨ s.image.sigchk = false) → exec .rollbackAdvance s = .next ((s.toll 243).answer .badParam)) ∧
    (s.image.phase = .running → s.image.source = 0 → s.image.sigchk = true → s.image.level ≤ 64 →
      (s.image.level ≤ arbCount s.image.otp → exec .rollbackAdvance s = .next { s with code := .ok }) ∧
      (arbCount s.image.otp < s.image.level → ∃ t, exec .rollbackAdvance s = .next t ∧
        { t with image := s.image, code := s.code } = s ∧ t.code = .ok ∧ { t.image with otp := s.image.otp } = s.image ∧
        s.image.level ≤ arbCount t.image.otp ∧
        ∀ (j : Nat) (h : j < 32), j ≠ 17 → j ≠ 18 → t.image.otp[j] = s.image.otp[j]))

/-! ## Power regimes (chapter 18) -/

/-- A request of a regime (R388 to R391): FULL is due at once where another is in force; LEAN is refused with RANGE where
the running stalls, their charges computed anew, do not fit it; the subchannels that are awake enter self-refresh for the
change (R270); WATCH is due 1 ms later, or refused with RANGE where a ring lies in the Watch store. A change between FULL
and LEAN takes effect with a step of every position (R111, R388), the subchannels leaving self-refresh and the outputs of
Mints S and M gated in between; without one due nothing happens. That an event which is not due, or whose situation does not
hold, changes nothing is the model's choice (log entry 2). -/
def Obligations.RegimesAreRequestedAndChange : Prop :=
  (∀ (s : State) (lean wake : Bool),
    let asked (u : State) (q : Nat) : State := u.setRegimeWord q lean wake
    let due (r : Regime) : Option Regime := if s.power.regime = r then none else some r
    let sleeps (r : Regime) (t : State) : Prop := ∀ c : Fin 8,
      let x := s.dram.subs[c]
      t.dram.subs[c] = if s.power.regime ≠ r ∧ s.power.regime ≠ .watch ∧ x.sr = .active
        then { x.closeRows (fun _ => true) with sr := .entering false } else x
    let granted (c : Instr) (u : State) (r : Regime) : Prop := ∃ t, exec c s = .next t ∧ sleeps r t ∧
      { t with dram := { t.dram with subs := s.dram.subs } } = { u with power := { s.power with change := due r } }
    (s.power.forced = false → granted (.regimeRequestFull lean wake) (asked s 0) .full) ∧
    (s.power.forced = true → exec (.regimeRequestFull lean wake) s = .next (asked s 0)) ∧
    (s.recharge.leanFits = true → s.power.forced = false → granted (.regimeRequestLean lean wake) (asked s.recharge 1) .lean) ∧
    (s.recharge.leanFits = false → exec (.regimeRequestLean lean wake) s = .next ((s.toll 243).answer .range)) ∧
    ({ s.recharge with stalls := s.stalls } = s ∧ ∀ n : Fin 16, { s.recharge.stalls[n] with setup := (s.stalls[n]).setup } = s.stalls[n]) ∧
    (s.ringInStore = false → s.dram.trained = true → exec (.regimeRequestWatch lean wake) s =
      .next { asked s 2 with power := { s.power with watchAt := some (s.now + 40000000) } }) ∧
    ((s.ringInStore = true ∨ s.dram.trained = false) → exec (.regimeRequestWatch lean wake) s =
      .next ((s.toll 243).answer .range))) ∧
  (∀ s : State,
    (s.power.change = none → exec .regimeChange s = .next s) ∧
    (∀ r : Regime, s.power.change = some r → s.power.regime = r → r ≠ .watch →
      exec .regimeChange s = .next { s with power := { s.power with change := none } }) ∧
    (∀ r : Regime, s.power.change = some r → s.power.regime ≠ .watch → s.power.regime ≠ r →
      ∃ t, exec .regimeChange s = .next t ∧ t.power = { s.power with regime := r, change := none } ∧
        t.cal.stepped = List.finRange 16 ∧ t.dram.mem = s.dram.mem ∧ t.run = s.run) ∧
    (∀ r : Regime, s.power.change = some r → s.power.regime ≠ .watch → s.power.regime ≠ r → s.cal.slice = none →
      ∃ t, exec .regimeChange s = .next t ∧
        { t with power := s.power, conv := s.conv, cal := s.cal, dram := s.dram, mints := s.mints } = s ∧
        t.power = { s.power with regime := r, change := none } ∧ t.dram.mem = s.dram.mem ∧
        t.cal = { s.cal with
          stepped := List.finRange 16, lastSlice := 15, lastStep := s.now % 2 ^ 64
          steps := (s.cal.steps + 16) % 65536 } ∧
        (∀ m : Fin 5, { t.mints[m] with gates := (s.mints[m]).gates } = s.mints[m] ∧
          (t.mints[m]).gates.map (·.on) = (s.mints[m]).gates.map (·.on) ++ if m = 0 ∨ m = 2 then [false, true] else []) ∧
        ∀ c : Fin 8, t.dram.subs[c] = { (s.dram.subs[c]).closeRows fun _ => true with sr := .exiting }))

/-- WATCH is entered when it is due and not before (R390, R391): only Mint C may run on, the rails but VDDQ are off, the
functions other than TALLY and AUX are recorded for the wake, Hall is empty, and the trigger pins have lost their supply
(R411). A wake source that is enabled and fires leaves its cause and begins the wake's rail sequence; while WATCH is being
entered it waits, in a wake under way it leaves its cause alone, and outside it is remembered for its tick alone (R392,
R393). A wake that finds its rails, its Mints locked or held, and an intact store takes up the regime WAKE_TO names; one
that does not find its store runs the full start-up, with toll 200 where the retrain has failed; one without its rails or
its Mints waits. That an event which is not due, or whose situation does not hold, changes nothing is the model's choice
(log entry 2). Where Hall and the parameters stand in the Watch store is the model's choice (log entry 33). -/
def Obligations.WatchIsEnteredAndLeft : Prop :=
  (∀ s : State,
    (s.power.watchAt = none → exec .watchEntry s = .next s) ∧
    (∀ due : Nat, s.power.watchAt = some due → s.now + s.tickLen ≤ due → exec .watchEntry s = .next s) ∧
    (∀ due : Nat, s.power.watchAt = some due → due < s.now + s.tickLen → s.power.regime ≠ .watch →
      (∃ t, exec .watchEntry s = .next t ∧ t.power.regime = .watch ∧ t.power.store.isSome = true ∧ t.hall.mem = [] ∧
        t.wharf.link = false ∧ t.trigIn = Vector.replicate 4 false ∧ t.trigOut = Vector.replicate 4 {} ∧ t.acts = []) ∧
      (s.power.wakes = [] → (∀ k : Fin 8, (s.yards[k]).adds = [] ∧ (s.yards[k]).owed = []) →
        (∀ f ∈ s.run, f = fnTally ∨ f = fnAux) → (∀ n : Fin 16, s.stalls[n] = {}) → s.power.change = none →
        ∃ t, exec .watchEntry s = .next t ∧ t.power.regime = .watch ∧ t.power.watchOnRef = s.refSeen false ∧
          t.power.railsUp = false ∧ t.power.watchAt = none ∧
          t.power.pen = #v[false, false, false, s.power.pen[3], false, false] ∧
          (∀ m : Fin 5, (m ≠ 1 ∨ s.refSeen false = true) → (t.mints[m]).mode = .stopped) ∧ t.hall.mem = [] ∧ t.run = s.run ∧
          t.tally = s.tally ∧ t.chron = s.chron ∧ (∀ c : Fin 8, (t.dram.subs[c]).sr = .asleep) ∧
          t.power.store.map WatchStore.hall = some s.hall.mem ∧ t.power.store.map WatchStore.run = some []))) ∧
  (∀ s : State,
    (∀ i : Fin 5, 2 ≤ i.val → s.wakeFires i = true) ∧
    (∀ i : Fin 5,
      (s.wakeFires i = false → exec (.wakeEvent i) s = .next s) ∧
      (s.wakeFires i = true →
        let on := (s.val F.PWR_WAKE_EN_EN).testBit i.val
        let cause := (s.setSticky R.PWR_WAKE_CAUSE.base (F.PWR_WAKE_CAUSE_CAUSE.put (2 ^ i.val))).sticky
        (s.power.regime ≠ .watch → s.power.watchAt = none →
          exec (.wakeEvent i) s = .next { s with ev := { s.ev with wakes := s.ev.wakes ++ [i] } }) ∧
        ((s.power.regime = .watch ∨ s.power.watchAt.isSome = true) →
          (on = false → exec (.wakeEvent i) s = .next s) ∧
          (on = true → s.power.waking = true → exec (.wakeEvent i) s = .next { s with sticky := cause })) ∧
        (s.power.regime ≠ .watch → s.power.watchAt.isSome = true → on = true → s.power.waking = false →
          ∃ t, exec (.wakeEvent i) s = .next t ∧ t.sticky = cause ∧ i ∈ t.power.wakes ∧
            { t.power with wakes := s.power.wakes } = s.power) ∧
        (on = true → s.power.regime = .watch → s.power.waking = false → s.power.forced = false →
          ∃ t, exec (.wakeEvent i) s = .next t ∧ { t with power := s.power, sticky := s.sticky, ev := s.ev } = s ∧
            t.power.waking = true ∧ t.power.wakes = [] ∧ t.sticky = cause))) ∧
    (∀ (w : Training) (b : Bool), (s.power.waking = false ∨ s.power.railsUp = false ∨ s.mintsReady = false) →
      exec (.wakeComplete w b) s = .next s) ∧
    (∀ (w : Training) (b : Bool),
      let passes := s.retrainPasses w (s.flag F.PWR_REGIME_WAKE_TO)
      s.power.waking = true → s.power.railsUp = true → s.mintsReady = true →
      (s.power.store = none ∨ passes = false ∨ b = false ∨ s.storeBad = true) →
      ∃ t, exec (.wakeComplete w b) s = .next t ∧ t.image.phase = .down ∧ t.image.released = s.now ∧ t.power.railsUp = true ∧
        t.power.waking = false ∧ t.power.store = none ∧ t.run = [] ∧ t.chron = s.chron ∧ t.tolls = s.tolls ∧
        (s.power.store.isSome = true → passes = false → t.tollDue = (s.toll 200).tollDue) ∧
        ((s.power.store = none ∨ passes = true) → t.tollDue = s.tollDue)) ∧
    (∀ (w : WatchStore) (r : Training), s.power.waking = true → s.power.railsUp = true → s.mintsReady = true →
      s.power.store = some w → s.storeBad = false → s.retrainPasses r (s.flag F.PWR_REGIME_WAKE_TO) = true →
      (∃ t, exec (.wakeComplete r true) s = .next t ∧ t.power.waking = false ∧ t.power.store = none ∧
        t.power.regime = if s.flag F.PWR_REGIME_WAKE_TO then .lean else .full) ∧
      (w.run = [] → w.segNos = [] → s.cal.first = false → s.cal.mode = 1 → s.conv.retired = none → s.conv.degraded = false →
        ({ s with written := w.written, force := w.force } : State).flag F.MNT_REF_SEL = s.refs.active →
        ∃ t, exec (.wakeComplete r true) s = .next t ∧ t.power.waking = false ∧ t.power.store = none ∧
          t.power.regime ≠ .watch ∧ t.hall.mem = w.hall ∧ t.hall.bad = w.bad ∧ t.chron = s.chron ∧ t.tally = s.tally ∧
          t.tollDue = s.tollDue ∧ t.mints = s.mints ∧ ∀ c : Fin 8, (t.dram.subs[c]).sr = .active)))

/-- The rails (R382, R383): each has stayed in its window for 1 ms before the next that is not in regulation is enabled, in
ascending order; one not in regulation within 20 ms lowers them all with toll 252, and the sequence begins again 1 s later;
a rail that settles in the tick of its timeout wins. A brown-out (R384, R396): the rails fall but VDDQ, the Mints stop,
nothing runs, Hall is lost, and tolls, log, chronicle, flash and fuses are kept; 1 s later the sequence begins again. That
an event which is not due, or whose situation does not hold, changes nothing is the model's choice (log entry 2). -/
def Obligations.RailsAndBrownOuts : Prop :=
  (∀ s : State,
    (∀ (k : Fin 6) (t0 : Nat), s.power.waiting = some (k, t0) → s.ev.railOut = none →
      (s.now + s.tickLen ≤ t0 + 40000000 → exec .railSettled s = .next s ∧ exec .railTimeout s = .next s) ∧
      (t0 + 40000000 < s.now + s.tickLen → s.strays k = true → exec .railSettled s = .next s) ∧
      (t0 + 40000000 < s.now + s.tickLen → s.strays k = false →
        (∀ j : Fin 6, k < j → (∀ i : Fin 6, k < i → i < j → s.regulated i = true) → s.regulated j = false → exec .railSettled s =
          .next { s with power := { s.power with pen := s.power.pen.set j.val true j.isLt, waiting := some (j, s.now) } }) ∧
        ((∀ i : Fin 6, k < i → s.regulated i = true) → exec .railSettled s =
          .next { s with power := { s.power with waiting := none, railsUp := true } })) ∧
      (s.reachedWindow k t0 = true → exec .railTimeout s = .next s) ∧
      (t0 + 800000000 < s.now + s.tickLen → s.reachedWindow k t0 = false →
        let out : State := { s with
          ev := { s.ev with railOut := some (s.power.pen, s.power.waiting, s.power.railsUp, s.power.failCh) }
          power := { s.power with
            pen := Vector.replicate 6 false, waiting := none, railsUp := false, failCh := k
            retryAt := some (s.now + 40000000000) } }
        exec .railTimeout s = .next (out.toll 252) ∧
        (s.power.retryAt = none → s.tollDue = [] → exec .railSettled (out.toll 252) = exec .railSettled s))) ∧
    (∀ at_ : Nat, s.power.retryAt = some at_ →
      ((s.now + s.tickLen ≤ at_ ∨ s.power.resetN = true) → exec .sequenceRetry s = .next s) ∧
      (at_ < s.now + s.tickLen → s.power.resetN = false →
        ∀ j : Fin 6, (∀ i < j, s.regulated i = true) → s.regulated j = false →
          exec .sequenceRetry s = .next { s with power := { s.power with
            store := none, retryAt := none, holdEnd := none, railsUp := false, pen := s.power.pen.set j.val true j.isLt
            waiting := some (j, s.now) } }))) ∧
  (∀ s : State,
    (s.railsDue = true → ∃ t, exec .brownOut s = .next t ∧ t.chron = s.chron ∧ t.tolls = s.tolls ∧ t.log = s.log ∧
      t.tollDue = (s.toll 252).tollDue ∧ t.run = [] ∧ t.hall.mem = [] ∧ t.power.railsUp = false ∧
      t.power.pen = #v[false, false, false, s.power.pen[3], false, false] ∧
      t.power.holdEnd = some (s.now + 40000000000) ∧ t.image.otp = s.image.otp ∧ t.pending = s.pending ∧
      (s.image.op = none → t.image.flash = s.image.flash) ∧ ∀ m : Fin 5, (t.mints[m]).mode = .stopped) ∧
    (s.railsDue = false → exec .brownOut s = .next s) ∧
    (∀ at_ : Nat, s.power.holdEnd = some at_ →
      ((s.now + s.tickLen ≤ at_ ∨ s.power.resetN = true) → exec .brownOutRestart s = .next s) ∧
      (∀ j : Fin 6, at_ < s.now + s.tickLen → s.power.resetN = false → (∀ i < j, s.regulated i = true) → s.regulated j = false →
        exec .brownOutRestart s = .next { s with
          image := { s.image with released := s.now }
          power := { s.power with
            retryAt := none, holdEnd := none, railsUp := false, pen := s.power.pen.set j.val true j.isLt, waiting := some (j, s.now) } })))

/-- The power manager (R385, R386): a regulator's fault is toll 252, FAULT and attention at level 3; each transaction of a
poll that fails twice counts toll 252; an alert without a fault, and a poll of a master without addresses, change at most
what was seen of the alert; the core voltage moves by 5 mV within 750 to 900 mV while its rail is on and the monitor does
not deny it, and the master sends it where the channel has an address, or counts toll 252 where the write fails twice. That
an event which is not due, or whose situation does not hold, changes nothing is the model's choice (log entry 2). When a
regulator is polled is left to the sender (log entry 44). -/
def Obligations.RegulatorsAreWatched : Prop :=
  ∀ s : State,
    (∀ w : BitVec 16, s.pmAddressed 0 = true → (∀ k : Fin 6, k ≠ 0 → s.pmAddressed k = false) → 2 ≤ w.toNat →
      ∃ t, exec (.pmAlert (Vector.replicate 6 (some w))) s = .next t ∧
        { t with power := s.power, tollDue := s.tollDue, sticky := s.sticky, status := s.status, ev := s.ev } = s ∧
        { t.power with channels := s.power.channels, alertSeen := s.power.alertSeen } = s.power ∧
        t.power.alertSeen = true ∧ t.power.channels = s.power.channels.set 0 (w, (s.power.channels[0]).2) ∧
        t.tollDue = (s.toll 252).tollDue ∧ t.status = (s.attention 3).status ∧
        t.sticky = (s.setSticky R.PWR_STAT.base (F.PWR_STAT_FAULT.put 1)).sticky) ∧
    ((∀ k : Fin 6, s.pmAddressed k = false) →
      (∀ w, exec (.pmAlert w) s = .next { s with power := { s.power with alertSeen := false } }) ∧
      (∀ w, exec (.pmbusPoll w) s = .next { s with power := { s.power with alertSeen := false } })) ∧
    (s.pmAddressed 3 = true → (∀ k : Fin 6, k ≠ 3 → s.pmAddressed k = false) →
      (∀ v, exec (.pmbusPoll (Vector.replicate 6 ⟨some 0, some v, some 0⟩)) s = .next { s with power := { s.power with
        alertSeen := false, channels := s.power.channels.set 3 (0, 0) } }) ∧
      ∀ x : Telemetry, x.status.isNone = true ∨ x.status = some 0 → ∃ t, exec (.pmbusPoll (Vector.replicate 6 x)) s = .next t ∧
        { t with power := s.power, tollDue := s.tollDue, free := s.free } = s ∧
        let none_ : Nat := x.status.isNone.toNat + x.vout.isNone.toNat + x.iout.isNone.toNat
        t.tollDue = if none_ = 0 then s.tollDue else (s.toll 252 none_).tollDue) ∧
    exec (.vcoreAdapt none) s = .next s ∧
    (s.power.pen[0] = false → ∀ up, exec (.vcoreAdapt up) s = .next s) ∧
    (∀ up : Bool,
      let c := s.power.vcoreCmd
      let next := if up then min 900 (c + 5) else max 750 (c - 5)
      let addr := s.val F.PWR_RG_CFG_ADDR 0
      ((next = c ∨ s.vcoreHolds next = false) → exec (.vcoreAdapt (some up)) s = .next s) ∧
      (s.power.pen[0] = true → next ≠ c → s.vcoreHolds next = true →
        (addr = 0 → exec (.vcoreAdapt (some up)) s =
          .next { s with power := { s.power with vcoreCmd := next, sent := [] } }) ∧
        (addr ≠ 0 → s.power.mute.getLsbD 0 = true → ∃ t, exec (.vcoreAdapt (some up)) s = .next t ∧
          { t with power := s.power, free := s.free, tollDue := s.tollDue } = s ∧
          t.power = { s.power with vcoreCmd := next, sent := [] } ∧ t.tollDue = (s.toll 252).tollDue) ∧
        (addr ≠ 0 → s.power.mute.getLsbD 0 = false → ∃ t x,
          exec (.vcoreAdapt (some up)) s = .next t ∧ { t with power := s.power, free := s.free } = s ∧
          t.power = { s.power with
            vcoreCmd := next, sent := [⟨addr, s.flag F.PWR_RG_CFG_PEC 0, 0x21, leBytes 2 x⟩] })))

/-- Temperature (R394): TJ is the highest of the sensors' readings; below the warning a reading is kept and nothing else
happens; the warning raises attention at level 2; at 120 °C LEAN is forced with toll 253 and at 130 °C WATCH is forced with
toll 254 and attention at level 3; 10 s below 110 °C end what was forced; for a change of regime the subchannels that are
awake enter self-refresh (R270). That an event which is not due, or whose situation does not hold, changes nothing is the
model's choice (log entry 2). -/
def Obligations.TemperatureIsWatched : Prop :=
  ∀ s : State,
    let sleeps (r : Regime) (t : State) : Prop := ∀ c : Fin 8,
      let x := s.dram.subs[c]
      t.dram.subs[c] = if s.power.regime ≠ r ∧ x.sr = .active
        then { x.closeRows (fun _ => true) with sr := .entering false } else x
    (∀ (n : Fin 12) (v : BitVec 16), ∃ t, exec (.tempReading n v) s = .next t ∧
      t.power.temps = s.power.temps.set n.val (some v.toInt) n.isLt ∧
      (∀ (i : Fin 12) (x : Int), t.power.temps[i] = some x → x ≤ t.power.tj) ∧
      ∃ i : Fin 12, t.power.sensor = i.val ∧ t.power.temps[i] = some t.power.tj) ∧
    (∀ (n : Fin 12) (v : BitVec 16), s.power.regime = .full → s.power.watchAt = none → s.power.forced = false →
      s.power.change = none → s.power.watchForced = false →
      (∀ (i : Fin 12) (x : Int), i ≠ n → s.power.temps[i] = some x → x < v.toInt) →
      let warn : Int := s.val F.PWR_THERM_TJ_WARN
      let read (th : Bool) : State := { s with power := { s.power with
        temps := s.power.temps.set n.val (some v.toInt) n.isLt, tj := v.toInt, sensor := n.val, thermal := th
        coolSince := if v.toInt < 110 * 128 then some (s.power.coolSince.getD s.now) else none } }
      (v.toInt < (warn - 5) * 128 → v.toInt < 120 * 128 → exec (.tempReading n v) s = .next (read false)) ∧
      (warn * 128 ≤ v.toInt → v.toInt < 120 * 128 → s.power.thermal = false →
        exec (.tempReading n v) s = .next ((read true).attention 2)) ∧
      (120 * 128 ≤ v.toInt → v.toInt < 130 * 128 → warn ≤ 120 → s.power.thermal = true →
        s.recharge.leanFits = true → ∃ t, exec (.tempReading n v) s = .next t ∧ sleeps .lean t ∧
        { t with
          power := s.power, tollDue := s.tollDue, status := s.status, ev := s.ev
          dram := { t.dram with subs := s.dram.subs } } = s.recharge ∧
        t.power = { (read true).power with forced := true, change := some .lean } ∧
        t.tollDue = (s.toll 253).tollDue ∧ t.status = (s.attention 3).status) ∧
      (130 * 128 ≤ v.toInt → warn ≤ 130 → s.power.thermal = true → ∃ t, exec (.tempReading n v) s = .next t ∧
        { t with power := s.power, tollDue := s.tollDue, status := s.status, ev := s.ev } = s ∧
        t.power = { (read true).power with forced := true, watchForced := true, watchAt := some s.now } ∧
        t.tollDue = (s.toll 254).tollDue ∧ t.status = (s.attention 3).status)) ∧
    (∀ c : Nat, s.power.coolSince = some c →
      (s.now + s.tickLen ≤ c + 400000000000 → exec .thermalRecovery s = .next s) ∧
      (c + 400000000000 < s.now + s.tickLen → s.power.forced = true → s.power.regime ≠ .watch → s.power.watchAt = none →
        ∃ t, exec .thermalRecovery s = .next t ∧ sleeps s.requested t ∧
          { t with dram := { t.dram with subs := s.dram.subs } } = { s with power := { s.power with
            forced := false, change := if s.power.regime = s.requested then none else some s.requested } }))

/-! ## Reset and start-up (chapter 17) -/

/-- VAON and RESET_N (R70, R371, R383, R396, R401): VAON's removal leaves flash and fuses alone, and its return a device
whose chronicle begins at zero; RESET_N stops every function, clears tolls and log, and keeps chronicle, Mints,
coefficients, fuses and rails; its release begins the rail sequence with VAON applied, 1 ms after VAON where it came before,
and while a brown-out holds the enables low it leaves them low (R384). That an event which is not due, or whose situation
does not hold, changes nothing is the model's choice (log entry 2). -/
def Obligations.ResetsKeepWhatTheyKeep : Prop :=
  ∀ s : State,
    (s.power.vaon = false → ∃ t, exec .vaonPowerUp s = .next t ∧
      t.power = { State.reset.power with releaseAt := if s.power.resetN = true then none else some 40000000 } ∧ t.chron = 0 ∧
      t.run = [] ∧ t.tolls = [] ∧ t.image.flash = s.image.flash ∧ t.image.otp = s.image.otp ∧ t.pending = s.pending) ∧
    (s.power.vaon = true → exec .vaonPowerUp s = .next s) ∧
    (∃ t, exec .vaonRemoval s = .next t ∧ t.power.vaon = false ∧ t.chron = 0 ∧ t.run = [] ∧ t.image.otp = s.image.otp ∧
      (s.image.op = none → t.image.flash = s.image.flash) ∧ t.pending = s.pending) ∧
    (s.power.vaon = true → s.flag F.MNT_REF_SEL = false → ∃ t, exec .resetNAssert s = .next t ∧ t.power.resetN = true ∧
      t.chron = s.chron ∧ t.run = [] ∧ t.tolls = [] ∧ t.log = {} ∧ t.written = [] ∧ t.force = [] ∧ t.mints = s.mints ∧
      t.cal.full = s.cal.full ∧ t.cal.lean = s.cal.lean ∧ t.power.pen = s.power.pen ∧ t.image.phase = .down ∧
      (∀ w : Fin 68, (t.pool.weighers[w]).role = if (s.pool.weighers[w]).role = .retired then .retired else .free) ∧
      t.hall.mem = s.hall.mem ∧ t.dram.mem = [] ∧ t.tally.mode = .stopped ∧ t.pending = s.pending) ∧
    (s.power.vaon = false → exec .resetNAssert s = .next { s with power := { s.power with resetN := true } }) ∧
    ((s.power.vaon = false ∨ s.power.resetN = false) →
      exec .resetNRelease s = .next { s with power := { s.power with resetN := false } }) ∧
    (∀ e : Nat, s.power.vaon = true → s.power.resetN = true → s.power.holdEnd = some e → s.now + s.tickLen ≤ e →
      exec .resetNRelease s = .next { s with
        image := { s.image with released := s.now }, power := { s.power with resetN := false, releaseAt := none } }) ∧
    (∀ j : Fin 6, s.power.vaon = true → s.power.resetN = true → (∀ e, s.power.holdEnd = some e → e < s.now + s.tickLen) →
      (∀ i < j, s.regulated i = true) → s.regulated j = false → exec .resetNRelease s = .next { s with
        image := { s.image with released := s.now }
        power := { s.power with
          resetN := false, releaseAt := none, retryAt := none, holdEnd := none, railsUp := false, pen := s.power.pen.set j.val true j.isLt
          waiting := some (j, s.now) } }) ∧
    (∀ at_ : Nat, s.barter.resetAt = some at_ →
      (s.now + s.tickLen ≤ at_ → exec .internalReset s = .next s) ∧
      (at_ < s.now + s.tickLen → s.power.vaon = true → ∃ t, exec .internalReset s = .next t ∧ t.power.resetN = false ∧
        t.image.released = s.now ∧ t.run = [] ∧ t.tolls = [] ∧ t.chron = s.chron))

/-- The start-up (R357, R370, R372, R376): without a flash that answers the device enters the safe state with two counts of
toll 250 and attention at level 3; its second stage trains record memory, which is zeroed, and the image runs; before the
rails are in regulation nothing happens. That an event which is not due, or whose situation does not hold, changes nothing
is the model's choice (log entry 2). That the start-up is two commands is the model's reading (log entry 43). -/
def Obligations.StartupRuns : Prop :=
  ∀ s : State,
    (∀ f a d, (s.power.resetN = true ∨ s.power.railsUp = false) → exec (.startup f a d) s = .next s) ∧
    (∀ a d, s.power.resetN = false → s.power.railsUp = true → s.image.phase = .down →
      ∃ t, exec (.startup none a d) s = .next t ∧ t.image.phase = .safe ∧ t.image.source = 2 ∧
        t.image.otpForce = s.image.otp ∧ t.tollDue = ((s.toll 250).toll 250).tollDue ∧ t.status = (s.attention 3).status ∧
        t.barter.up = true ∧ t.barter.nonce ≠ 0 ∧ t.hall = s.hall ∧ t.written = s.written ∧ t.force = s.force ∧ t.run = s.run) ∧
    (∀ f a d, s.power.resetN = false → s.power.railsUp = true → s.image.phase = .down →
      ∃ t, exec (.startup f a d) s = .next t ∧ (t.image.phase = .applying ∨ t.image.phase = .safe) ∧ t.barter.up = true) ∧
    (∀ f a d, s.power.resetN = false → s.power.railsUp = true → s.image.phase = .applying →
      ∃ t, exec (.startup f a d) s = .next t ∧ t.image.phase = .running ∧ t.image.starts = [] ∧
        t.image.startMs = (s.now - s.image.released) / 40000000) ∧
    (∀ f, s.power.resetN = false → s.power.railsUp = true → s.image.phase = .applying → s.image.starts = [] →
      s.conv.retired = some 16 → ∀ r w, s.trainingPasses w (fun _ => true) = true →
      ∃ t, exec (.startup f r w) s = .next t ∧ t.image.phase = .running ∧ t.dram.trained = true ∧
        t.dram.mem = [] ∧ t.image.startMs = (s.now - s.image.released) / 40000000 ∧ t.tollDue = s.tollDue ∧
        t.status = s.status ∧ t.run = s.run ∧ t.hall = s.hall)

/-! ## The device as a whole -/

/-- A step takes the command at the front of the queue and is its execution with the queue's rest; on an empty queue the device
idles, which is the model's choice (log entry 1). -/
def Obligations.StepRunsTheFront : Prop :=
  (∀ (s : State) (c : Instr) (rest : List Instr), s.pending = c :: rest → step s = exec c { s with pending := rest }) ∧
  (∀ s : State, s.pending = [] → step s = .next s)

/-- No command stops the device, and every command leaves the queue alone, which is the step's (R32). That a command whose
situation does not hold leaves the state as it is, and does not stop the device, is the model's choice (log entry 2). -/
def Obligations.NothingStops : Prop :=
  ∀ (c : Instr) (s : State), ∃ t, exec c s = .next t ∧ t.pending = s.pending

/-- Reset: what the spec gives (R4, R45, R65, R70, R145, R316, R341, R370, R396, R401): the chronicle is zero, the tally and
every function are stopped, the Mints are stopped, every Crier port is OFF, tolls and log are empty, RESET_N is asserted and
no rail is enabled. That VAON is applied in this state is the model's choice (log entry 5). -/
def Obligations.ResetLeaves : Prop :=
  let s := State.reset
  s.chron = 0 ∧ s.run = [] ∧ s.tally.mode = .stopped ∧ (∀ m : Fin 5, (s.mints[m]).mode = .stopped) ∧
  (∀ n : Fin 16, (s.stalls[n]).mode = .stopped ∧ (s.bell n).phase = .stopped ∧ (s.stalls[n]).lastSeg = 2 ^ 40 - 1) ∧
  (∀ p : Fin 4, s.portState p = .off) ∧ (∀ i, s.tollValue i = 0) ∧ s.log.total = 0 ∧ s.power.resetN = true ∧
  s.power.pen = Vector.replicate 6 false ∧ s.pending = []

/-- The memories are in canonical form at reset, and no toll exceeds its ceiling. What unlisted bytes read as is the model's
choice (log entry 13). -/
def Obligations.InvariantsHoldAtReset : Prop :=
  State.reset.memoriesWf ∧ State.reset.tollsSaturate

/-- Every step keeps Hall, record memory, the flash and the Watch store in canonical form. -/
def Obligations.MemoriesStayCanonical : Prop :=
  ∀ s t : State, s.memoriesWf → step s = .next t → t.memoriesWf

/-- Only TICK moves the chronicle, by 32 mites, or by the 400 of a REFCLK period in WATCH, and only while VAON is applied; the
device's power-up sets it to zero (R20, R70). -/
def Obligations.ChronicleCountsTicks : Prop :=
  ∀ s t : State,
    (∀ v, exec (.tick v) s = .next t → s.power.vaon = true → t.chron = s.chron + BitVec.ofNat 80
      (if s.power.regime = .watch ∧ s.power.watchOnRef = true then 400 else 32)) ∧
    (∀ v, exec (.tick v) s = .next t → s.power.vaon = false → t = s) ∧
    (exec .vaonPowerUp s = .next t → s.power.vaon = false → t.chron = 0) ∧
    (∀ c : Instr, c.movesChronicle = false → exec c s = .next t → t.chron = s.chron)

/-- The toll counters saturate, change at TICK alone and never fall, but for a reset of VAON or RESET_N, which clears them
(R396, R397). -/
def Obligations.TollsOnlyRise : Prop :=
  ∀ (c : Instr) (s t : State), s.tollsSaturate → exec c s = .next t →
    t.tollsSaturate ∧ (c.clearsTolls = false → ∀ i, s.tollValue i ≤ t.tollValue i) ∧
    (c.clearsTolls = false → (∀ v, c ≠ .tick v) → t.tolls = s.tolls)

/-- A tick of a device that is switched on but stopped: the chronicle advances, what was counted joins the tolls and what is due
joins the log, and what was registered in the tick is forgotten (R20, R396, R397, R401). The order of what happens inside a tick
is the model's choice (log entry 3). -/
def Obligations.TicksClose : Prop :=
  ∀ (v : TickIn) (chron : BitVec 80) (i n : Nat) (e : LogEntry), i < 256 → 0 < n → n < 2 ^ 32 →
    let s : State := { State.reset with chron := chron, tollDue := [(i, n)], log := { State.reset.log with due := [e] } }
    ∃ t, exec (.tick v) s = .next t ∧ t.chron = chron + 32 ∧ t.tollValue i = n ∧ t.tollDue = [] ∧ t.log.due = [] ∧
      t.log.total = 1 ∧ t.logEntry 0 = e ∧ t.ev = {} ∧ t.run = [] ∧ t.pending = []
end

