-- ==== Sys2Proof/Laws/Sparse.lean ====
section
/-! SUPPORT. Maps with a default: reading after writing, the canonical form, and that equal maps are equal data. -/

namespace Sys2Proof.Machine

variable {α : Type} {d : Nat → α}

theorem Sparse.wf_cons [DecidableEq α] {j : Nat} {v : α} {m : List (Nat × α)} :
    Sparse.wf d ((j, v) :: m) = true ↔ v ≠ d j ∧ (∀ c ∈ m, j < c.1) ∧ Sparse.wf d m = true := by
  simp [Sparse.wf, and_assoc]

/-- Below every listed key a map reads as its default. -/
theorem Sparse.get_below {m : List (Nat × α)} {k : Nat} (h : ∀ c ∈ m, k < c.1) : Sparse.get d m k = d k := by
  cases m with
  | nil => rfl
  | cons c m =>
    obtain ⟨j, v⟩ := c
    have := h (j, v) (by simp)
    simp_all [Sparse.get]

theorem Sparse.get_cons_above {j k : Nat} {v : α} {m : List (Nat × α)} (h : j < k) :
    Sparse.get d ((j, v) :: m) k = Sparse.get d m k := by
  simp only [Sparse.get]
  rw [if_neg (by omega), if_neg (by omega)]

variable [DecidableEq α]

theorem Sparse.get_cell {k j : Nat} {v : α} {m : List (Nat × α)} (h : ∀ c ∈ m, k < c.1) :
    Sparse.get d (Sparse.cell d k v ++ m) j = if j = k then v else Sparse.get d m j := by
  unfold Sparse.cell
  split
  case isTrue hv =>
    simp only [List.nil_append]
    split
    case isTrue hj => subst hj; rw [Sparse.get_below h, hv]
    case isFalse => rfl
  case isFalse =>
    simp only [List.cons_append, List.nil_append, Sparse.get]
    rcases Nat.lt_trichotomy j k with hj | hj | hj
    · rw [if_pos hj, if_neg (by omega), Sparse.get_below fun c hc => lt_trans hj (h c hc)]
    · subst hj; simp
    · rw [if_neg (by omega), if_neg (by omega)]

/-- Reading after writing. -/
theorem Sparse.get_set {m : List (Nat × α)} (h : Sparse.wf d m = true) (k j : Nat) (v : α) :
    Sparse.get d (Sparse.set d m k v) j = if j = k then v else Sparse.get d m j := by
  induction m with
  | nil =>
    have := Sparse.get_cell (d := d) (k := k) (j := j) (v := v) (m := []) (by simp)
    simpa [Sparse.set] using this
  | cons c m ih =>
    obtain ⟨i, w⟩ := c
    obtain ⟨_, hm, hw⟩ := Sparse.wf_cons.1 h
    simp only [Sparse.set]
    split
    case isTrue hk =>
      refine Sparse.get_cell fun c hc => ?_
      rcases List.mem_cons.1 hc with rfl | hc
      · exact hk
      · exact lt_trans hk (hm c hc)
    case isFalse hk =>
      split
      case isTrue hki =>
        subst hki
        rw [Sparse.get_cell hm]
        split
        case isTrue => rfl
        case isFalse hj =>
          simp only [Sparse.get]
          split
          case isTrue hlt => exact Sparse.get_below fun c hc => lt_trans hlt (hm c hc)
          case isFalse => simp
      case isFalse hki =>
        simp only [Sparse.get, ih hw]
        split
        case isTrue => rw [if_neg (by omega)]
        case isFalse =>
          split
          case isTrue => rw [if_neg (by omega)]
          case isFalse => rfl

theorem Sparse.mem_cell {k : Nat} {v : α} {c : Nat × α} (h : c ∈ Sparse.cell d k v) : c.1 = k := by
  unfold Sparse.cell at h
  split at h <;> simp_all

/-- A key of a map after a write was there before, or is the one written. -/
theorem Sparse.mem_set {m : List (Nat × α)} {k : Nat} {v : α} {c : Nat × α} (h : c ∈ Sparse.set d m k v) :
    c.1 = k ∨ c ∈ m := by
  induction m with
  | nil => exact .inl (Sparse.mem_cell h)
  | cons i m ih =>
    obtain ⟨i, w⟩ := i
    simp only [Sparse.set] at h
    split at h
    · exact (List.mem_append.1 h).imp Sparse.mem_cell id
    · split at h
      · exact (List.mem_append.1 h).imp Sparse.mem_cell (List.mem_cons_of_mem _)
      · rcases List.mem_cons.1 h with rfl | h
        · exact .inr (by simp)
        · exact (ih h).imp id (List.mem_cons_of_mem _)

theorem Sparse.wf_cell_append {k : Nat} {v : α} {m : List (Nat × α)} (hm : ∀ c ∈ m, k < c.1) (h : Sparse.wf d m = true) :
    Sparse.wf d (Sparse.cell d k v ++ m) = true := by
  unfold Sparse.cell
  split
  · exact h
  · exact Sparse.wf_cons.2 ⟨by assumption, hm, h⟩

/-- A write keeps the canonical form. -/
theorem Sparse.wf_set {m : List (Nat × α)} (h : Sparse.wf d m = true) (k : Nat) (v : α) :
    Sparse.wf d (Sparse.set d m k v) = true := by
  induction m with
  | nil => simpa [Sparse.set] using Sparse.wf_cell_append (d := d) (k := k) (v := v) (m := []) (by simp) rfl
  | cons c m ih =>
    obtain ⟨i, w⟩ := c
    obtain ⟨hd, hm, hw⟩ := Sparse.wf_cons.1 h
    simp only [Sparse.set]
    split
    case isTrue hk =>
      refine Sparse.wf_cell_append (fun c hc => ?_) h
      rcases List.mem_cons.1 hc with rfl | hc
      · exact hk
      · exact lt_trans hk (hm c hc)
    case isFalse hk =>
      split
      case isTrue hki => subst hki; exact Sparse.wf_cell_append hm hw
      case isFalse hki =>
        refine Sparse.wf_cons.2 ⟨hd, fun c hc => ?_, ih hw⟩
        rcases Sparse.mem_set hc with h' | h'
        · omega
        · exact hm c h'

/-- Writes one after another keep the canonical form. -/
theorem Sparse.wf_setAll {α : Type} [DecidableEq α] {d : Nat → α} {m : List (Nat × α)} (h : Sparse.wf d m = true)
    (l : List (Nat × α)) : Sparse.wf d (Sparse.setAll d m l) = true := by
  unfold Sparse.setAll
  induction l generalizing m with
  | nil => exact h
  | cons c l ih => exact ih (Sparse.wf_set h _ _)

/-- Leaving entries out keeps the canonical form. -/
theorem Sparse.wf_filter {m : List (Nat × α)} (h : Sparse.wf d m = true) (p : Nat × α → Bool) :
    Sparse.wf d (m.filter p) = true := by
  induction m with
  | nil => rfl
  | cons c m ih =>
    obtain ⟨i, w⟩ := c
    obtain ⟨hd, hm, hw⟩ := Sparse.wf_cons.1 h
    rw [List.filter_cons]
    split
    · exact Sparse.wf_cons.2 ⟨hd, fun c hc => hm c (List.mem_filter.1 hc).1, ih hw⟩
    · exact ih hw

/-- Reading a map of which only the keys that satisfy `p` are kept. -/
theorem Sparse.get_filter {m : List (Nat × α)} (h : Sparse.wf d m = true) (p : Nat → Bool) (k : Nat) :
    Sparse.get d (m.filter fun c => p c.1) k = if p k then Sparse.get d m k else d k := by
  induction m with
  | nil => simp [Sparse.get]
  | cons c m ih =>
    obtain ⟨i, w⟩ := c
    obtain ⟨_, hm, hw⟩ := Sparse.wf_cons.1 h
    rcases Nat.lt_trichotomy k i with hk | hk | hk
    · have hb : ∀ c ∈ ((i, w) :: m), k < c.1 := fun c hc => by
        rcases List.mem_cons.1 hc with rfl | hc
        · exact hk
        · exact lt_trans hk (hm c hc)
      rw [Sparse.get_below fun c hc => hb c (List.mem_filter.1 hc).1, Sparse.get_below hb]
      simp
    · subst hk
      rw [List.filter_cons]
      have hb : Sparse.get d (m.filter fun c => p c.1) k = d k :=
        Sparse.get_below fun c hc => hm c (List.mem_filter.1 hc).1
      by_cases hp : p k <;> simp [hp, Sparse.get, hb]
    · rw [List.filter_cons, Sparse.get_cons_above hk]
      split
      · rw [Sparse.get_cons_above hk, ih hw]
      · exact ih hw

/-- Canonical maps that read alike are equal data. -/
theorem Sparse.ext {m n : List (Nat × α)} (hm : Sparse.wf d m = true) (hn : Sparse.wf d n = true)
    (h : ∀ k, Sparse.get d m k = Sparse.get d n k) : m = n := by
  induction m generalizing n with
  | nil =>
    cases n with
    | nil => rfl
    | cons c n =>
      obtain ⟨i, w⟩ := c
      have := h i
      simp [Sparse.get] at this
      exact absurd this.symm (Sparse.wf_cons.1 hn).1
  | cons c m ih =>
    obtain ⟨i, w⟩ := c
    obtain ⟨hd, hl, hw⟩ := Sparse.wf_cons.1 hm
    cases n with
    | nil =>
      have := h i
      simp [Sparse.get] at this
      exact absurd this hd
    | cons c n =>
      obtain ⟨j, v⟩ := c
      obtain ⟨hd', hl', hw'⟩ := Sparse.wf_cons.1 hn
      rcases Nat.lt_trichotomy i j with hij | hij | hij
      · have := h i
        simp [Sparse.get, hij] at this
        exact absurd this hd
      · subst hij
        have hv : w = v := by simpa [Sparse.get] using h i
        subst hv
        congr 1
        refine ih hw hw' fun k => ?_
        rcases Nat.lt_trichotomy k i with hk | hk | hk
        · rw [Sparse.get_below fun c hc => lt_trans hk (hl c hc), Sparse.get_below fun c hc => lt_trans hk (hl' c hc)]
        · subst hk; rw [Sparse.get_below hl, Sparse.get_below hl']
        · simpa [Sparse.get_cons_above hk] using h k
      · have := h j
        simp [Sparse.get, hij] at this
        exact absurd this.symm hd'

/-- Writing what a key reads as changes nothing. -/
theorem Sparse.set_get {m : List (Nat × α)} (h : Sparse.wf d m = true) (k : Nat) : Sparse.set d m k (Sparse.get d m k) = m :=
  Sparse.ext (Sparse.wf_set h k _) h fun j => by
    rw [Sparse.get_set h]
    split
    case isTrue hj => rw [hj]
    case isFalse => rfl

end Sys2Proof.Machine
end

