-- ==== Sys2Proof/Laws/Memory.lean ====
section
/-! SUPPORT. Byte memories: every operation keeps the canonical form, and a read after a write. -/

namespace Sys2Proof.Machine

/-- Writing bytes keeps a memory canonical. -/
theorem memWrite_wf {m : List Host.Cell} (h : Memory.wf m = true) (a : Nat) (bs : List Byte) :
    Memory.wf (memWrite m a bs) = true := by
  induction bs generalizing m a with
  | nil => exact h
  | cons b bs ih => exact ih (Sparse.wf_set h a b) (a + 1)

/-- A byte after bytes were written: the byte written there, or the one that was there. -/
theorem memByte_memWrite {m : List Host.Cell} (h : Memory.wf m = true) (a : Nat) (bs : List Byte) (x : Nat) :
    memByte (memWrite m a bs) x = if a ≤ x ∧ x < a + bs.length then bs.getD (x - a) 0 else memByte m x := by
  induction bs generalizing m a with
  | nil => simp [memWrite]
  | cons b bs ih =>
    rw [memWrite, ih (Sparse.wf_set h a b)]
    simp only [List.length_cons]
    by_cases h1 : a + 1 ≤ x ∧ x < a + 1 + bs.length
    · rw [if_pos h1, if_pos (by omega), show x - a = (x - (a + 1)) + 1 by omega]
      simp
    · rw [if_neg h1, memByte, Sparse.get_set h]
      by_cases h2 : x = a
      · subst h2; simp
      · rw [if_neg h2, if_neg (by omega)]; rfl

/-- A byte outside what is written is as before. -/
theorem memByte_memWrite_outside {m : List Host.Cell} (h : Memory.wf m = true) {a x : Nat} {bs : List Byte}
    (hx : x < a ∨ a + bs.length ≤ x) : memByte (memWrite m a bs) x = memByte m x := by
  rw [memByte_memWrite h, if_neg (by omega)]

@[simp] theorem memBytes_length (m : List Host.Cell) (a n : Nat) : (memBytes m a n).length = n := by simp [memBytes]

/-- What was written is read back. -/
theorem memBytes_memWrite {m : List Host.Cell} (h : Memory.wf m = true) (a : Nat) (bs : List Byte) :
    memBytes (memWrite m a bs) a bs.length = bs := by
  apply List.ext_getElem
  · simp
  · intro i h1 h2
    simp only [memBytes, List.getElem_map, List.getElem_range, memByte_memWrite h]
    rw [if_pos (by omega), show a + i - a = i by omega]
    exact List.getD_eq_getElem _ _ h2

/-- Bytes that lie outside what is written are as before. -/
theorem memBytes_memWrite_outside {m : List Host.Cell} (h : Memory.wf m = true) {a x n : Nat} {bs : List Byte}
    (hx : x + n ≤ a ∨ a + bs.length ≤ x) : memBytes (memWrite m a bs) x n = memBytes m x n := by
  refine List.map_congr_left fun i hi => ?_
  have := List.mem_range.1 hi
  exact memByte_memWrite_outside h (by omega)

@[simp] theorem leBytes_length (n v : Nat) : (leBytes n v).length = n := by simp [leBytes]

/-- Little-endian bytes of a number that fits make that number. -/
theorem ofLeBytes_leBytes (n v : Nat) : ofLeBytes (leBytes n v) = v % 256 ^ n := by
  induction n generalizing v with
  | zero => simp [leBytes, ofLeBytes, Nat.mod_one]
  | succ n ih =>
    have h : leBytes (n + 1) v = BitVec.ofNat 8 v :: leBytes n (v / 256) := by
      simp only [leBytes, List.range_succ_eq_map, List.map_cons, List.map_map, pow_zero, Nat.div_one, List.cons.injEq, true_and]
      refine List.map_congr_left fun i _ => ?_
      simp [Function.comp, Nat.pow_succ, Nat.div_div_eq_div_mul, Nat.mul_comm]
    rw [h, ofLeBytes, ih, BitVec.toNat_ofNat, show (256 : Nat) ^ (n + 1) = 256 * 256 ^ n by ring, Nat.mod_mul]

/-- A number that was written is read back. -/
theorem memNat_memWrite {m : List Host.Cell} (h : Memory.wf m = true) (a n v : Nat) :
    memNat (memWrite m a (leBytes n v)) a n = v % 256 ^ n := by
  have := memBytes_memWrite h a (leBytes n v)
  rw [leBytes_length] at this
  rw [memNat, this, ofLeBytes_leBytes]

/-- A number that lies outside what is written is as before. -/
theorem memNat_memWrite_outside {m : List Host.Cell} (h : Memory.wf m = true) {a x n : Nat} {bs : List Byte}
    (hx : x + n ≤ a ∨ a + bs.length ≤ x) : memNat (memWrite m a bs) x n = memNat m x n := by
  rw [memNat, memBytes_memWrite_outside h hx, memNat]

/-- What a write of Hall can do: bytes change, and words written whole are free of errors, found or not. -/
theorem hallWrite_spec (s : State) (a : Nat) (bs : List Byte) :
    { s.hallWrite a bs with hall := s.hall } = s ∧ (s.hallWrite a bs).hall.mem = memWrite s.hall.mem a bs ∧
    { (s.hallWrite a bs).hall with mem := s.hall.mem, bad := s.hall.bad, latent := s.hall.latent } = s.hall := ⟨rfl, rfl, rfl⟩

/-- What a write of record memory can do. -/
theorem dramWrite_spec (s : State) (a : Nat) (bs : List Byte) :
    { s.dramWrite a bs with dram := s.dram } = s ∧ (s.dramWrite a bs).dram.mem = memWrite s.dram.mem a bs ∧
    { (s.dramWrite a bs).dram with mem := s.dram.mem, bad := s.dram.bad } = s.dram := ⟨rfl, rfl, rfl⟩

end Sys2Proof.Machine
end

