-- ==== Sys2Proof/Laws/Calm.lean ====
section
/-! SUPPORT. Frames: what every operation of the machine leaves alone (the relation itself and the shared operations). -/

namespace Sys2Proof.Machine

set_option Elab.async false

/-- The queue, the chronicle and the toll counters are as before, and canonical memories stay canonical. -/
structure Calm (s t : State) : Prop where
  pending : t.pending = s.pending
  chron : t.chron = s.chron
  tolls : t.tolls = s.tolls
  mems : s.memoriesWf → t.memoriesWf

theorem Calm.refl (s : State) : Calm s s := ⟨rfl, rfl, rfl, id⟩

/-- Calm changes follow one another. -/
theorem Calm.trans {s t u : State} (h : Calm s t) (k : Calm t u) : Calm s u :=
  ⟨k.pending.trans h.pending, k.chron.trans h.chron, k.tolls.trans h.tolls, fun x => k.mems (h.mems x)⟩

/-- `Calm s t` for a state `t` that is written out. -/
def CalmMk (s : State) (chron : BitVec 80) (written : List (Nat × Word)) (force : List (Nat × Word)) (nextTick : List Nat) (code
    : Code) (run : List Nat) (tally : Tally) (slots : Vector Slot 64) (acts : List Action) (trigOut : Vector TrigOut 4) (mints :
    Vector Mint 5) (refs : Refs) (conv : Conv) (cal : Cal) (aux : Auxiliary) (pool : Pool) (stalls : Vector Stall 16) (sieve :
    Sieve) (yards : Vector Yard 8) (hall : Hall) (dram : Dram) (sign : Signboard) (jumps : Int) (trigIn : Vector Bool 4) (crier
    : Crier) (barter : Barter) (wharf : Wharf) (image : Image) (power : Power) (tap : Tap) (status : Status) (sticky : List (Nat × Word))
    (tolls : List (Nat × Nat)) (tollDue : List (Nat × Nat)) (log : ErrorLog) (ev : TickEvents) (free : Nat) (pending : List
    Instr) : Prop :=
    Calm s (State.mk chron written force nextTick code run tally slots acts trigOut mints refs conv cal aux pool stalls sieve
    yards hall dram sign jumps trigIn crier barter wharf image power tap status sticky tolls tollDue log ev free pending)

theorem Calm.written {s : State} {chron : BitVec 80} {written : List (Nat × Word)} {force : List (Nat × Word)} {nextTick : List
    Nat} {code : Code} {run : List Nat} {tally : Tally} {slots : Vector Slot 64} {acts : List Action} {trigOut : Vector TrigOut
    4} {mints : Vector Mint 5} {refs : Refs} {conv : Conv} {cal : Cal} {aux : Auxiliary} {pool : Pool} {stalls : Vector Stall
    16} {sieve : Sieve} {yards : Vector Yard 8} {hall : Hall} {dram : Dram} {sign : Signboard} {jumps : Int} {trigIn : Vector
    Bool 4} {crier : Crier} {barter : Barter} {wharf : Wharf} {image : Image} {power : Power} {tap : Tap} {status : Status} {sticky : List
    (Nat × Word)} {tolls : List (Nat × Nat)} {tollDue : List (Nat × Nat)} {log : ErrorLog} {ev : TickEvents} {free : Nat}
    {pending : List Instr} :
        Calm s (State.mk chron written force nextTick code run tally slots acts trigOut mints refs conv cal aux pool stalls
    sieve yards hall dram sign jumps trigIn crier barter wharf image power tap status sticky tolls tollDue log ev free pending) =
    CalmMk s chron written force nextTick code run tally slots acts trigOut mints refs conv cal aux pool stalls sieve yards hall
    dram sign jumps trigIn crier barter wharf image power tap status sticky tolls tollDue log ev free pending := rfl

/-- Writing fields other than the queue, the chronicle and the toll counters is calm, where the memories stay canonical. -/
theorem CalmMk.put {s s1 : State} {written : List (Nat × Word)} {force : List (Nat × Word)} {nextTick : List Nat} {code : Code}
    {run : List Nat} {tally : Tally} {slots : Vector Slot 64} {acts : List Action} {trigOut : Vector TrigOut 4} {mints : Vector
    Mint 5} {refs : Refs} {conv : Conv} {cal : Cal} {aux : Auxiliary} {pool : Pool} {stalls : Vector Stall 16} {sieve : Sieve}
    {yards : Vector Yard 8} {hall : Hall} {dram : Dram} {sign : Signboard} {jumps : Int} {trigIn : Vector Bool 4} {crier :
    Crier} {barter : Barter} {wharf : Wharf} {image : Image} {power : Power} {tap : Tap} {status : Status} {sticky : List (Nat × Word)}
    {tollDue : List (Nat × Nat)} {log : ErrorLog} {ev : TickEvents} {free : Nat}
        (hm : s1.memoriesWf → (State.mk s1.chron written force nextTick code run tally slots acts trigOut mints refs conv cal
    aux pool stalls sieve yards hall dram sign jumps trigIn crier barter wharf image power tap status sticky s1.tolls tollDue log ev
    free s1.pending).memoriesWf) (h : Calm s s1) :
        CalmMk s s1.chron written force nextTick code run tally slots acts trigOut mints refs conv cal aux pool stalls sieve
    yards hall dram sign jumps trigIn crier barter wharf image power tap status sticky s1.tolls tollDue log ev free s1.pending :=
    h.trans ⟨rfl, rfl, rfl, hm⟩

/-- A choice between two calm changes is calm. -/
theorem Calm.ite {s a b : State} {c : Prop} [Decidable c] (ha : Calm s a) (hb : Calm s b) : Calm s (if c then a else b) := by
  split
  · exact ha
  · exact hb

/-- Calm changes made one after another along a list are calm. -/
theorem Calm.foldl {α : Type} {f : State → α → State} {l : List α} {s a : State} (h : Calm s a)
    (hf : ∀ t x, Calm t (f t x)) : Calm s (l.foldl f a) := by
  induction l generalizing a with
  | nil => exact h
  | cons x l ih => exact ih (h.trans (hf a x))

/-- The same where each change also carries a value. -/
theorem Calm.foldlSnd {α β : Type} {f : β × State → α → β × State} {l : List α} {s : State} {p : β × State} (h : Calm s p.2)
    (hf : ∀ q x, Calm q.2 (f q x).2) : Calm s (l.foldl f p).2 := by
  induction l generalizing p with
  | nil => exact h
  | cons x l ih => exact ih (h.trans (hf p x))

theorem Calm.of_snd {α : Type} {s t : State} {a : α} {p : α × State} (h : Calm s p.2) (e : p = (a, t)) : Calm s t := by
  subst e; exact h

theorem Calm.of_thd {α β : Type} {s t : State} {a : α} {b : β} {p : α × β × State} (h : Calm s p.2.2) (e : p = (a, b, t)) :
    Calm s t := by
  subst e; exact h

theorem Calm.of_fst {α : Type} {s t : State} {a : α} {p : State × α} (h : Calm s p.1) (e : p = (t, a)) : Calm s t := by
  subst e; exact h

theorem State.modDram_calm (s : State) (f : Dram → Dram) (h : ∀ d : Dram, Memory.wf d.mem = true → Memory.wf (f d).mem = true) :
    Calm s (s.modDram f) := ⟨rfl, rfl, rfl, fun x => ⟨x.1, h _ x.2.1, x.2.2⟩⟩

theorem State.modImage_calm (s : State) (f : Image → Image)
    (h : ∀ d : Image, Sparse.wf flashFill d.flash = true → Sparse.wf flashFill (f d).flash = true) :
    Calm s (s.modImage f) := ⟨rfl, rfl, rfl, fun x => ⟨x.1, x.2.1, h _ x.2.2.1, x.2.2.2⟩⟩

theorem State.modPower_calm (s : State) (f : Power → Power)
    (h : ∀ d : Power, (d.store.all fun w => Memory.wf w.hall) = true → ((f d).store.all fun w => Memory.wf w.hall) = true) :
    Calm s (s.modPower f) := ⟨rfl, rfl, rfl, fun x => ⟨x.1, x.2.1, x.2.2.1, h _ x.2.2.2⟩⟩

/-- Writing Hall is calm. -/
theorem State.hallWrite_calm (s : State) (a : Nat) (bs : List Byte) : Calm s (s.hallWrite a bs) :=
  ⟨rfl, rfl, rfl, fun x => ⟨memWrite_wf x.1 a bs, x.2⟩⟩

/-- Writing record memory is calm. -/
theorem State.dramWrite_calm (s : State) (a : Nat) (bs : List Byte) : Calm s (s.dramWrite a bs) :=
  ⟨rfl, rfl, rfl, fun x => ⟨x.1, memWrite_wf x.2.1 a bs, x.2.2⟩⟩

/-- The queue and the chronicle are as before, and canonical memories stay canonical. -/
structure Tame (s t : State) : Prop where
  pending : t.pending = s.pending
  chron : t.chron = s.chron
  mems : s.memoriesWf → t.memoriesWf

theorem Tame.refl (s : State) : Tame s s := ⟨rfl, rfl, id⟩

/-- Tame changes follow one another. -/
theorem Tame.trans {s t u : State} (h : Tame s t) (k : Tame t u) : Tame s u :=
  ⟨k.pending.trans h.pending, k.chron.trans h.chron, fun x => k.mems (h.mems x)⟩

theorem Calm.tame {s t : State} (h : Calm s t) : Tame s t := ⟨h.pending, h.chron, h.mems⟩

theorem Tame.foldl {α : Type} {f : State → α → State} {l : List α} {s a : State} (h : Tame s a)
    (hf : ∀ t x, Tame t (f t x)) : Tame s (l.foldl f a) := by
  induction l generalizing a with
  | nil => exact h
  | cons x l ih => exact ih (h.trans (hf a x))

theorem State.toll_calm (s : State) (i : Nat) (n : Nat) : Calm s (State.toll s i n) := by
  unfold State.toll
  try dsimp only
  repeat' (first
    | with_reducible exact Calm.refl _
    | (simp only [Calm.written]; with_reducible refine CalmMk.put (fun h => h) ?_))

theorem State.tollMany_calm (s : State) (i n : Nat) : Calm s (State.tollMany s i n) := by
  unfold State.tollMany
  try dsimp only
  repeat' (first
    | with_reducible exact Calm.refl _
    | with_reducible apply Calm.trans ?_ (State.toll_calm ..)
    | split)

theorem State.tollIf_calm (s : State) (c : Bool) (i : Nat) : Calm s (State.tollIf s c i) := by
  unfold State.tollIf
  try dsimp only
  repeat' (first
    | with_reducible exact Calm.refl _
    | with_reducible apply Calm.trans ?_ (State.toll_calm ..)
    | split)

theorem State.tollOnce_calm (s : State) (i : Nat) : Calm s (State.tollOnce s i) := by
  unfold State.tollOnce
  try dsimp only
  repeat' (first
    | with_reducible exact Calm.refl _
    | with_reducible apply Calm.trans ?_ (State.toll_calm ..)
    | split)

theorem State.untoll_calm (s : State) (i : Nat) : Calm s (State.untoll s i) := by
  unfold State.untoll
  try dsimp only
  repeat' (first
    | with_reducible exact Calm.refl _
    | (simp only [Calm.written]; with_reducible refine CalmMk.put (fun h => h) ?_))

theorem State.untollAll_calm (s : State) (l : List Nat) : Calm s (State.untollAll s l) := by
  unfold State.untollAll
  try dsimp only
  repeat' (first
    | with_reducible exact Calm.refl _
    | with_reducible apply Calm.trans ?_ (State.untoll_calm ..)
    | with_reducible apply Calm.foldl
    | (intro _ _; try dsimp only))

theorem State.notePast_calm (s t : State) (i : Nat) : Calm t (State.notePast s t i) := by
  unfold State.notePast
  try dsimp only
  split
  · exact Calm.refl _
  · simp only [Calm.written]
    with_reducible refine CalmMk.put (fun h => h) ?_
    exact Calm.refl _

theorem State.logEvent_calm (s : State) (kind unit toll : Nat) (detail : Int) : Calm s (State.logEvent s kind unit toll detail) := by
  unfold State.logEvent
  try dsimp only
  repeat' (first
    | with_reducible exact Calm.refl _
    | with_reducible apply Calm.trans ?_ (State.toll_calm ..)
    | (simp only [Calm.written]; with_reducible refine CalmMk.put (fun h => h) ?_))

theorem State.draw_calm (s : State) : Calm s (State.draw s).2 := by
  unfold State.draw
  try dsimp only
  repeat' (first
    | with_reducible exact Calm.refl _
    | (simp only [Calm.written]; with_reducible refine CalmMk.put (fun h => h) ?_))

theorem State.unack_calm (s : State) : Calm s (State.unack s) := by
  unfold State.unack
  try dsimp only
  repeat' (first
    | with_reducible exact Calm.refl _
    | split
    | (simp only [Calm.written]; with_reducible refine CalmMk.put (fun h => h) ?_))

theorem State.attention_calm (s : State) (level : Nat) : Calm s (State.attention s level) := by
  unfold State.attention
  try dsimp only
  repeat' (first
    | with_reducible exact Calm.refl _
    | with_reducible apply Calm.trans ?_ (State.unack_calm ..)
    | (simp only [Calm.written]; with_reducible refine CalmMk.put (fun h => h) ?_))

theorem State.setSticky_calm (s : State) (n : Nat) (bits : Word) : Calm s (State.setSticky s n bits) := by
  unfold State.setSticky
  try dsimp only
  repeat' (first
    | with_reducible exact Calm.refl _
    | (simp only [Calm.written]; with_reducible refine CalmMk.put (fun h => h) ?_))

theorem State.clearSticky_calm (s : State) (n : Nat) (bits : Word) : Calm s (State.clearSticky s n bits) := by
  unfold State.clearSticky
  try dsimp only
  repeat' (first
    | with_reducible exact Calm.refl _
    | (simp only [Calm.written]; with_reducible refine CalmMk.put (fun h => h) ?_))

theorem State.answer_calm (s : State) (c : Code) : Calm s (State.answer s c) := by
  unfold State.answer
  try dsimp only
  repeat' (first
    | with_reducible exact Calm.refl _
    | (simp only [Calm.written]; with_reducible refine CalmMk.put (fun h => h) ?_))

theorem State.refuseWrite_calm (s : State) (c : Code) : Calm s (State.refuseWrite s c) := by
  unfold State.refuseWrite
  try dsimp only
  repeat' (first
    | with_reducible exact Calm.refl _
    | with_reducible apply Calm.trans ?_ (State.toll_calm ..)
    | with_reducible apply Calm.trans ?_ (State.answer_calm ..))

theorem State.setWritten_calm (s : State) (n : Nat) (w mask : Word) : Calm s (State.setWritten s n w mask) := by
  unfold State.setWritten
  try dsimp only
  repeat' (first
    | with_reducible exact Calm.refl _
    | (simp only [Calm.written]; with_reducible refine CalmMk.put (fun h => h) ?_))

theorem State.setForce_calm (s : State) (n : Nat) (w mask : Word) : Calm s (State.setForce s n w mask) := by
  unfold State.setForce
  try dsimp only
  repeat' (first
    | with_reducible exact Calm.refl _
    | (simp only [Calm.written]; with_reducible refine CalmMk.put (fun h => h) ?_))

theorem State.atNextTick_calm (s : State) (n : Nat) : Calm s (State.atNextTick s n) := by
  unfold State.atNextTick
  try dsimp only
  repeat' (first
    | with_reducible exact Calm.refl _
    | split
    | (simp only [Calm.written]; with_reducible refine CalmMk.put (fun h => h) ?_))

theorem State.bringIntoForce_calm (s : State) (ns : List Nat) : Calm s (State.bringIntoForce s ns) := by
  unfold State.bringIntoForce
  try dsimp only
  repeat' (first
    | with_reducible exact Calm.refl _
    | with_reducible apply Calm.trans ?_ (State.setForce_calm ..)
    | with_reducible apply Calm.foldl
    | (intro _ _; try dsimp only))

theorem State.askInjection_calm (s : State) (i : Fin 19) : Calm s (State.askInjection s i) := by
  unfold State.askInjection
  try dsimp only
  repeat' (first
    | with_reducible exact Calm.refl _
    | (simp only [Calm.written]; with_reducible refine CalmMk.put (fun h => h) ?_))

end Sys2Proof.Machine
end

