-- ==== Sys2Proof/Laws/CalmTally.lean ====
section
/-! SUPPORT. Frames: what every operation of the machine leaves alone (the converters, the clocks, the tally and its slots). -/

namespace Sys2Proof.Machine

set_option Elab.async false

theorem State.modMint_calm (s : State) (m : Fin 5) (f : Mint → Mint) : Calm s (State.modMint s m f) := by
  unfold State.modMint
  try dsimp only
  repeat' (first
    | with_reducible exact Calm.refl _
    | (simp only [Calm.written]; with_reducible refine CalmMk.put (fun h => h) ?_))

theorem State.beginHold_calm (s : State) (m : Fin 5) : Calm s (State.beginHold s m) := by
  unfold State.beginHold
  try dsimp only
  repeat' (first
    | with_reducible exact Calm.refl _
    | split
    | (simp only [Calm.written]; with_reducible refine CalmMk.put (fun h => h) ?_))

theorem State.gateEdge_calm (s : State) (m : Fin 5) (on : Bool) : Calm s (State.gateEdge s m on) := by
  unfold State.gateEdge
  try dsimp only
  repeat' (first
    | with_reducible exact Calm.refl _
    | split
    | (simp only [Calm.written]; with_reducible refine CalmMk.put (fun h => h) ?_))

theorem State.gateMints_calm (s : State) : Calm s (State.gateMints s) := by
  unfold State.gateMints
  try dsimp only
  repeat' (first
    | with_reducible exact Calm.refl _
    | with_reducible apply Calm.trans ?_ (State.gateEdge_calm ..)
    | with_reducible apply Calm.foldl
    | (intro _ _; try dsimp only)
    | split
    | (simp only [Calm.written]; with_reducible refine CalmMk.put (fun h => h) ?_))

theorem State.mintLoss_calm (s : State) (m : Fin 5) (word : Dco) : Calm s (State.mintLoss s m word) := by
  unfold State.mintLoss
  try dsimp only
  repeat' (first
    | with_reducible exact Calm.refl _
    | with_reducible apply Calm.trans ?_ (State.modMint_calm ..)
    | with_reducible apply Calm.trans ?_ (State.beginHold_calm ..)
    | with_reducible apply Calm.trans ?_ (State.toll_calm ..)
    | split)

theorem State.holdOver_calm (s : State) (m : Fin 5) : Calm s (State.holdOver s m) := by
  unfold State.holdOver
  try dsimp only
  repeat' (first
    | with_reducible exact Calm.refl _
    | with_reducible apply Calm.trans ?_ (State.mintLoss_calm ..)
    | split)

theorem State.mintPull_calm (s : State) (m : Fin 5) : Calm s (State.mintPull s m) := by
  unfold State.mintPull
  try dsimp only
  repeat' (first
    | with_reducible exact Calm.refl _
    | with_reducible apply Calm.trans ?_ (State.modMint_calm ..))

theorem State.allLoss_calm (s : State) (words : Vector Dco 5) : Calm s (State.allLoss s words) := by
  unfold State.allLoss
  try dsimp only
  repeat' (first
    | with_reducible exact Calm.refl _
    | with_reducible apply Calm.trans ?_ (State.mintLoss_calm ..)
    | with_reducible apply Calm.foldl
    | (intro _ _; try dsimp only))

theorem State.repull_calm (s : State) (m : Fin 5) : Calm s (State.repull s m) := by
  unfold State.repull
  try dsimp only
  repeat' (first
    | with_reducible exact Calm.refl _
    | with_reducible apply Calm.trans ?_ (State.modMint_calm ..)
    | with_reducible apply Calm.trans ?_ (State.mintPull_calm ..))

theorem State.allPull_calm (s : State) : Calm s (State.allPull s) := by
  unfold State.allPull
  try dsimp only
  repeat' (first
    | with_reducible exact Calm.refl _
    | with_reducible apply Calm.trans ?_ (State.repull_calm ..)
    | with_reducible apply Calm.foldl
    | (intro _ _; try dsimp only)
    | split
    | (simp only [Calm.written]; with_reducible refine CalmMk.put (fun h => h) ?_))

theorem State.relock_calm (s : State) : Calm s (State.relock s) := by
  unfold State.relock
  try dsimp only
  repeat' (first
    | with_reducible exact Calm.refl _
    | with_reducible apply Calm.trans ?_ (State.mintPull_calm ..)
    | with_reducible apply Calm.trans ?_ (State.repull_calm ..)
    | with_reducible apply Calm.foldl
    | (intro _ _; try dsimp only)
    | split
    | (simp only [Calm.written]; with_reducible refine CalmMk.put (fun h => h) ?_))

theorem State.setRefSel_calm (s : State) (v : Bool) : Calm s (State.setRefSel s v) := by
  unfold State.setRefSel
  try dsimp only
  repeat' (first
    | with_reducible exact Calm.refl _
    | with_reducible apply Calm.trans ?_ (State.setWritten_calm ..)
    | with_reducible apply Calm.trans ?_ (State.setForce_calm ..))

theorem State.setRef_calm (s : State) (cp0 present ok : Bool) : Calm s (State.setRef s cp0 present ok) := by
  unfold State.setRef
  try dsimp only
  repeat' (first
    | with_reducible exact Calm.refl _
    | with_reducible apply Calm.trans ?_ (State.present_calm ..)
    | split
    | (simp only [Calm.written]; with_reducible refine CalmMk.put (fun h => h) ?_))

theorem State.lostRef_calm (s t : State) : Calm t (s.lostRef t) := ⟨rfl, rfl, rfl, id⟩

theorem State.autoSwitch_calm (s : State) : Calm s (State.autoSwitch s) := by
  unfold State.autoSwitch
  try dsimp only
  repeat' (first
    | with_reducible exact Calm.refl _
    | with_reducible apply Calm.trans ?_ (State.lostRef_calm ..)
    | with_reducible apply Calm.trans ?_ (State.setRefSel_calm ..)
    | with_reducible apply Calm.trans ?_ (State.toll_calm ..)
    | with_reducible apply Calm.trans ?_ (State.relock_calm ..)
    | split)

theorem State.arrivalWins_calm (s : State) (cp0 : Bool) : Calm s (State.arrivalWins s cp0) := by
  unfold State.arrivalWins
  try dsimp only
  repeat' (first
    | with_reducible exact Calm.refl _
    | with_reducible apply Calm.trans ?_ (State.untollAll_calm ..)
    | with_reducible apply Calm.trans ?_ (State.setRefSel_calm ..)
    | split
    | (simp only [Calm.written]; with_reducible refine CalmMk.put (fun h => h) ?_))

theorem refLoss_calm (loss : RefLoss) (words : Vector Dco 5) (s : State) : Calm s (refLoss loss words s) := by
  unfold refLoss
  try dsimp only
  repeat' (first
    | with_reducible exact Calm.refl _
    | with_reducible apply Calm.trans ?_ (State.setRef_calm ..)
    | with_reducible apply Calm.trans ?_ (State.lostRef_calm ..)
    | with_reducible apply Calm.trans ?_ (State.mintLoss_calm ..)
    | with_reducible apply Calm.trans ?_ (State.tollIf_calm ..)
    | with_reducible apply Calm.trans ?_ (State.toll_calm ..)
    | with_reducible apply Calm.trans ?_ (State.allLoss_calm ..)
    | with_reducible apply Calm.trans ?_ (State.autoSwitch_calm ..)
    | with_reducible apply Calm.foldl
    | (intro _ _; try dsimp only)
    | split)

theorem refQualify_calm (cp0 : Bool) (s : State) : Calm s (refQualify cp0 s) := by
  unfold refQualify
  try dsimp only
  repeat' (first
    | with_reducible exact Calm.refl _
    | with_reducible apply Calm.trans ?_ (State.arrivalWins_calm ..)
    | with_reducible apply Calm.trans ?_ (State.setRef_calm ..)
    | with_reducible apply Calm.trans ?_ (State.allPull_calm ..)
    | split
    | (simp only [Calm.written]; with_reducible refine CalmMk.put (fun h => h) ?_))

theorem pullSettle_calm (m : Fin 5) (word : Dco) (s : State) : Calm s (pullSettle m word s) := by
  unfold pullSettle
  try dsimp only
  repeat' (first
    | with_reducible exact Calm.refl _
    | with_reducible apply Calm.trans ?_ (State.modMint_calm ..)
    | split)

theorem State.endHold_calm (s : State) (m : Fin 5) : Calm s (State.endHold s m) := by
  unfold State.endHold
  try dsimp only
  repeat' (first
    | with_reducible exact Calm.refl _
    | split
    | (simp only [Calm.written]; with_reducible refine CalmMk.put (fun h => h) ?_))

theorem mintLocks_calm (m : Fin 5) (s : State) : Calm s (mintLocks m s) := by
  unfold mintLocks
  try dsimp only
  repeat' (first
    | with_reducible exact Calm.refl _
    | with_reducible apply Calm.trans ?_ (State.modMint_calm ..)
    | with_reducible apply Calm.trans ?_ (State.endHold_calm ..)
    | split)

theorem State.startMint_calm (s : State) (m : Fin 5) : Calm s (State.startMint s m) := by
  unfold State.startMint
  try dsimp only
  repeat' (first
    | with_reducible exact Calm.refl _
    | with_reducible apply Calm.trans ?_ (State.modMint_calm ..)
    | with_reducible apply Calm.trans ?_ (State.beginHold_calm ..)
    | split
    | (simp only [Calm.written]; with_reducible refine CalmMk.put (fun h => h) ?_))

theorem mintStarts_calm (m : Fin 5) (s : State) : Calm s (mintStarts m s) := by
  unfold mintStarts
  try dsimp only
  repeat' (first
    | with_reducible exact Calm.refl _
    | with_reducible apply Calm.trans ?_ (State.startMint_calm ..)
    | split)

theorem State.stopMint_calm (s : State) (m : Fin 5) : Calm s (State.stopMint s m) := by
  unfold State.stopMint
  try dsimp only
  repeat' (first
    | with_reducible exact Calm.refl _
    | with_reducible apply Calm.trans ?_ (State.modMint_calm ..)
    | with_reducible apply Calm.trans ?_ (State.endHold_calm ..))

theorem refSelect_calm (w : Word) (s : State) : Calm s (refSelect w s) := by
  unfold refSelect
  try dsimp only
  repeat' (first
    | with_reducible exact Calm.refl _
    | with_reducible apply Calm.trans ?_ (State.setWritten_calm ..)
    | with_reducible apply Calm.trans ?_ (State.setForce_calm ..)
    | with_reducible apply Calm.trans ?_ (State.answer_calm ..)
    | with_reducible apply Calm.trans ?_ (State.relock_calm ..)
    | with_reducible apply Calm.trans ?_ (State.autoSwitch_calm ..)
    | split)

theorem chronLatch_calm (s : State) : Calm s (chronLatch s) := by
  unfold chronLatch
  try dsimp only
  repeat' (first
    | with_reducible exact Calm.refl _
    | (simp only [Calm.written]; with_reducible refine CalmMk.put (fun h => h) ?_))

theorem State.zeroTick_calm (s : State) (volts : Vector (Vector Int 2) 17) : Calm s (State.zeroTick s volts) := by
  unfold State.zeroTick
  try dsimp only
  repeat' (first
    | with_reducible exact Calm.refl _
    | split
    | (simp only [Calm.written]; with_reducible refine CalmMk.put (fun h => h) ?_))

theorem State.compareTick_calm (s : State) (volts : Vector (Vector Int 2) 17) : Calm s (State.compareTick s volts) := by
  unfold State.compareTick
  try dsimp only
  repeat' (first
    | with_reducible exact Calm.refl _
    | split
    | (simp only [Calm.written]; with_reducible refine CalmMk.put (fun h => h) ?_))

theorem State.moveRelief_calm (s : State) (k : Fin 16) (goal : MoveFor) : Calm s (State.moveRelief s k goal) := by
  unfold State.moveRelief
  try dsimp only
  repeat' (first
    | with_reducible exact Calm.refl _
    | split
    | (simp only [Calm.written]; with_reducible refine CalmMk.put (fun h => h) ?_))

theorem State.beginReferee_calm (s : State) (suspect : Option (Fin 16)) : Calm s (State.beginReferee s suspect) := by
  unfold State.beginReferee
  try dsimp only
  repeat' (first
    | with_reducible exact Calm.refl _
    | (simp only [Calm.written]; with_reducible refine CalmMk.put (fun h => h) ?_))

theorem State.retireTolls_calm (s : State) (slice : Fin 17) : Calm s (State.retireTolls s slice) := by
  unfold State.retireTolls
  try dsimp only
  repeat' (first
    | with_reducible exact Calm.refl _
    | with_reducible apply Calm.trans ?_ (State.toll_calm ..)
    | with_reducible apply Calm.trans ?_ (State.attention_calm ..)
    | with_reducible apply Calm.trans ?_ (State.logEvent_calm ..)
    | split
    | (simp only [Calm.written]; with_reducible refine CalmMk.put (fun h => h) ?_))

theorem reliefSettles_calm (s : State) : Calm s (reliefSettles s) := by
  unfold reliefSettles
  try dsimp only
  repeat' (first
    | with_reducible exact Calm.refl _
    | with_reducible apply Calm.trans ?_ (State.beginReferee_calm ..)
    | split
    | (simp only [Calm.written]; with_reducible refine CalmMk.put (fun h => h) ?_))

theorem State.openHandover_calm (s : State) : Calm s (State.openHandover s) := by
  unfold State.openHandover
  try dsimp only
  repeat' (first
    | with_reducible exact Calm.refl _
    | split
    | (simp only [Calm.written]; with_reducible refine CalmMk.put (fun h => h) ?_))

theorem State.restartWindow_calm (s : State) : Calm s (State.restartWindow s) := by
  unfold State.restartWindow
  try dsimp only
  repeat' (first
    | with_reducible exact Calm.refl _
    | with_reducible apply Calm.trans ?_ (State.beginReferee_calm ..)
    | split
    | (simp only [Calm.written]; with_reducible refine CalmMk.put (fun h => h) ?_))

theorem State.endRound_calm (s : State) : Calm s (State.endRound s) := by
  unfold State.endRound
  try dsimp only
  repeat' (first
    | with_reducible exact Calm.refl _
    | (simp only [Calm.written]; with_reducible refine CalmMk.put (fun h => h) ?_))

theorem State.beginCal_calm (s : State) : Calm s (State.beginCal s) := by
  unfold State.beginCal
  try dsimp only
  repeat' (first
    | with_reducible exact Calm.refl _
    | with_reducible apply Calm.trans ?_ (State.endRound_calm ..)
    | with_reducible apply Calm.trans ?_ (State.bringIntoForce_calm ..)
    | with_reducible apply Calm.trans ?_ (State.moveRelief_calm ..)
    | split
    | (simp only [Calm.written]; with_reducible refine CalmMk.put (fun h => h) ?_))

theorem State.beginCalOr_calm (s : State) (k : Fin 16) : Calm s (State.beginCalOr s k) := by
  unfold State.beginCalOr
  try dsimp only
  repeat' (first
    | with_reducible exact Calm.refl _
    | with_reducible apply Calm.trans ?_ (State.beginCal_calm ..)
    | with_reducible apply Calm.trans ?_ (State.moveRelief_calm ..)
    | split)

theorem State.reliefNext_calm (s : State) (k : Fin 16) : Calm s (State.reliefNext s k) := by
  unfold State.reliefNext
  try dsimp only
  repeat' (first
    | with_reducible exact Calm.refl _
    | with_reducible apply Calm.trans ?_ (State.beginCalOr_calm ..)
    | with_reducible apply Calm.trans ?_ (State.moveRelief_calm ..)
    | split
    | (simp only [Calm.written]; with_reducible refine CalmMk.put (fun h => h) ?_))

theorem refereeEnd_calm (s : State) : Calm s (refereeEnd s) := by
  unfold refereeEnd
  try dsimp only
  repeat' (first
    | with_reducible exact Calm.refl _
    | with_reducible apply Calm.trans ?_ (State.reliefNext_calm ..)
    | with_reducible apply Calm.trans ?_ (State.toll_calm ..)
    | with_reducible apply Calm.trans ?_ (State.attention_calm ..)
    | with_reducible apply Calm.trans ?_ (State.moveRelief_calm ..)
    | with_reducible apply Calm.trans ?_ (State.beginReferee_calm ..)
    | split
    | (simp only [Calm.written]; with_reducible refine CalmMk.put (fun h => h) ?_))

theorem witnessEnd_calm (s : State) : Calm s (witnessEnd s) := by
  unfold witnessEnd
  try dsimp only
  repeat' (first
    | with_reducible exact Calm.refl _
    | with_reducible apply Calm.trans ?_ (State.retireTolls_calm ..)
    | with_reducible apply Calm.trans ?_ (State.moveRelief_calm ..)
    | split
    | (simp only [Calm.written]; with_reducible refine CalmMk.put (fun h => h) ?_))

theorem State.endCal_calm (s : State) : Calm s (State.endCal s) := by
  unfold State.endCal
  try dsimp only
  repeat' (first
    | with_reducible exact Calm.refl _
    | with_reducible apply Calm.trans ?_ (State.endRound_calm ..)
    | with_reducible apply Calm.trans ?_ (State.moveRelief_calm ..)
    | split
    | (simp only [Calm.written]; with_reducible refine CalmMk.put (fun h => h) ?_))

theorem State.handBack_calm (s : State) : Calm s (State.handBack s) := by
  unfold State.handBack
  try dsimp only
  repeat' (first
    | with_reducible exact Calm.refl _
    | with_reducible apply Calm.trans ?_ (State.endCal_calm ..)
    | (simp only [Calm.written]; with_reducible refine CalmMk.put (fun h => h) ?_))

theorem calShadowEnd_calm (s : State) : Calm s (calShadowEnd s) := by
  unfold calShadowEnd
  try dsimp only
  repeat' (first
    | with_reducible exact Calm.refl _
    | with_reducible apply Calm.trans ?_ (State.toll_calm ..)
    | with_reducible apply Calm.trans ?_ (State.endCal_calm ..)
    | split
    | (simp only [Calm.written]; with_reducible refine CalmMk.put (fun h => h) ?_))

theorem calToneSettled_calm (s : State) : Calm s (calToneSettled s) := by
  unfold calToneSettled
  try dsimp only
  repeat' (first
    | with_reducible exact Calm.refl _
    | split
    | (simp only [Calm.written]; with_reducible refine CalmMk.put (fun h => h) ?_))

theorem calSubstepEnd_calm (s : State) : Calm s (calSubstepEnd s) := by
  unfold calSubstepEnd
  try dsimp only
  repeat' (first
    | with_reducible exact Calm.refl _
    | split
    | (simp only [Calm.written]; with_reducible refine CalmMk.put (fun h => h) ?_))

theorem calDwellEnd_calm (s : State) : Calm s (calDwellEnd s) := by
  unfold calDwellEnd
  try dsimp only
  repeat' (first
    | with_reducible exact Calm.refl _
    | with_reducible apply Calm.trans ?_ (State.bringIntoForce_calm ..)
    | split
    | (simp only [Calm.written]; with_reducible refine CalmMk.put (fun h => h) ?_))

theorem calCheckEnd_calm (cand : Coef) (s : State) : Calm s (calCheckEnd cand s) := by
  unfold calCheckEnd
  try dsimp only
  repeat' (first
    | with_reducible exact Calm.refl _
    | with_reducible apply Calm.trans ?_ (State.tollIf_calm ..)
    | split
    | (simp only [Calm.written]; with_reducible refine CalmMk.put (fun h => h) ?_))

theorem calReturnSettled_calm (s : State) : Calm s (calReturnSettled s) := by
  unfold calReturnSettled
  try dsimp only
  repeat' (first
    | with_reducible exact Calm.refl _
    | split
    | (simp only [Calm.written]; with_reducible refine CalmMk.put (fun h => h) ?_))

theorem State.renewQuality_calm (s : State) : Calm s s.renewQuality := by
  unfold State.renewQuality
  extract_lets sp chans lines top rms
  split
  rename_i spur t e
  have h : Calm s t := by
    split at e
    · exact Calm.of_snd (p := (_, s)) (.refl _) e
    · split at e
      · exact Calm.of_snd (State.draw_calm ..) e
      · exact Calm.of_snd (p := (_, s)) (.refl _) e
  exact h.trans ⟨rfl, rfl, rfl, id⟩

theorem calVerifyEnd_calm (res : Rat × Rat) (s : State) : Calm s (calVerifyEnd res s) := by
  unfold calVerifyEnd
  try dsimp only
  repeat' (first
    | with_reducible exact Calm.refl _
    | with_reducible assumption
    | with_reducible apply Calm.trans ?_ (State.toll_calm ..)
    | with_reducible apply Calm.trans ?_ (State.attention_calm ..)
    | with_reducible apply Calm.trans ?_ (State.handBack_calm ..)
    | with_reducible apply Calm.trans ?_ (State.renewQuality_calm ..)
    | with_reducible apply Calm.foldl
    | split
    | (simp only [Calm.written]; with_reducible refine CalmMk.put (fun h => h) ?_))

theorem calRestoreSettled_calm (s : State) : Calm s (calRestoreSettled s) := by
  unfold calRestoreSettled
  try dsimp only
  repeat' (first
    | with_reducible exact Calm.refl _
    | with_reducible apply Calm.trans ?_ (State.renewQuality_calm ..)
    | with_reducible apply Calm.trans ?_ (State.handBack_calm ..)
    | split)

theorem reliefSelfCalEnd_calm (cand : Coef) (skews : Vector Int 16) (s : State) : Calm s (reliefSelfCalEnd cand skews s) := by
  unfold reliefSelfCalEnd
  try dsimp only
  repeat' (first
    | with_reducible exact Calm.refl _
    | with_reducible apply Calm.trans ?_ (State.bringIntoForce_calm ..)
    | with_reducible apply Calm.trans ?_ (State.endCal_calm ..)
    | with_reducible apply Calm.trans ?_ (State.toll_calm ..)
    | with_reducible apply Calm.trans ?_ (State.attention_calm ..)
    | split
    | (simp only [Calm.written]; with_reducible refine CalmMk.put (fun h => h) ?_))

theorem State.askCal_calm (s : State) : Calm s (State.askCal s) := by
  unfold State.askCal
  try dsimp only
  repeat' (first
    | with_reducible exact Calm.refl _
    | with_reducible apply Calm.trans ?_ (State.beginCal_calm ..)
    | split
    | (simp only [Calm.written]; with_reducible refine CalmMk.put (fun h => h) ?_))

theorem calIntervalExpiry_calm (s : State) : Calm s (calIntervalExpiry s) := by
  unfold calIntervalExpiry
  try dsimp only
  repeat' (first
    | with_reducible exact Calm.refl _
    | with_reducible apply Calm.trans ?_ (State.askCal_calm ..)
    | split)

theorem State.applyCalMode_calm (s : State) : Calm s (State.applyCalMode s) := by
  unfold State.applyCalMode
  try dsimp only
  repeat' (first
    | with_reducible exact Calm.refl _
    | with_reducible apply Calm.trans ?_ (State.askCal_calm ..)
    | split
    | (simp only [Calm.written]; with_reducible refine CalmMk.put (fun h => h) ?_))

theorem State.startRelief_calm (s : State) : Calm s (State.startRelief s) := by
  unfold State.startRelief
  try dsimp only
  repeat' (first
    | with_reducible exact Calm.refl _
    | with_reducible apply Calm.trans ?_ (State.moveRelief_calm ..)
    | with_reducible apply Calm.trans ?_ (State.beginCalOr_calm ..)
    | split
    | (simp only [Calm.written]; with_reducible refine CalmMk.put (fun h => h) ?_))

theorem State.openStep_calm (s : State) : Calm s (State.openStep s) := by
  unfold State.openStep
  try dsimp only
  repeat' (first
    | with_reducible exact Calm.refl _
    | split
    | (simp only [Calm.written]; with_reducible refine CalmMk.put (fun h => h) ?_))

theorem State.resumeRotation_calm (s : State) : Calm s (State.resumeRotation s) := by
  unfold State.resumeRotation
  try dsimp only
  repeat' (first
    | with_reducible exact Calm.refl _
    | with_reducible apply Calm.trans ?_ (State.beginCalOr_calm ..)
    | with_reducible apply Calm.trans ?_ (State.moveRelief_calm ..)
    | split)

theorem State.abandonCal_calm (s : State) : Calm s (State.abandonCal s) := by
  unfold State.abandonCal
  try dsimp only
  repeat' (first
    | with_reducible exact Calm.refl _
    | (simp only [Calm.written]; with_reducible refine CalmMk.put (fun h => h) ?_))

theorem State.regimeStep_calm (s : State) : Calm s (State.regimeStep s) := by
  unfold State.regimeStep
  try dsimp only
  repeat' (first
    | with_reducible exact Calm.refl _
    | with_reducible apply Calm.trans ?_ (State.renewQuality_calm ..)
    | with_reducible apply Calm.trans ?_ (State.abandonCal_calm ..)
    | with_reducible apply Calm.trans ?_ (State.resumeRotation_calm ..)
    | with_reducible apply Calm.trans ?_ (State.restartWindow_calm ..)
    | split
    | (simp only [Calm.written]; with_reducible refine CalmMk.put (fun h => h) ?_))

theorem State.modPort_calm (s : State) (p : Fin 4) (f : TallyPort → TallyPort) : Calm s (State.modPort s p f) := by
  unfold State.modPort
  try dsimp only
  repeat' (first
    | with_reducible exact Calm.refl _
    | (simp only [Calm.written]; with_reducible refine CalmMk.put (fun h => h) ?_))

theorem State.edgeWins_calm (s : State) (p : Fin 4) : Calm s (State.edgeWins s p) := by
  unfold State.edgeWins
  try dsimp only
  repeat' (first
    | with_reducible exact Calm.refl _
    | with_reducible apply Calm.trans ?_ (State.untollAll_calm ..)
    | split
    | (simp only [Calm.written]; with_reducible refine CalmMk.put (fun h => h) ?_))

theorem State.pushAt_calm (s : State) (p : Fin 4) (pos stamp : Rat) : Calm s (State.pushAt s p pos stamp) := by
  unfold State.pushAt
  try dsimp only
  repeat' (first
    | with_reducible exact Calm.refl _
    | with_reducible apply Calm.trans ?_ (State.edgeWins_calm ..)
    | with_reducible apply Calm.trans ?_ (State.modPort_calm ..)
    | (simp only [Calm.written]; with_reducible refine CalmMk.put (fun h => h) ?_))

theorem State.pushMeas_calm (s : State) (p : Fin 4) (stamp : Rat) : Calm s (State.pushMeas s p stamp) := by
  unfold State.pushMeas
  try dsimp only
  repeat' (first
    | with_reducible exact Calm.refl _
    | with_reducible apply Calm.trans ?_ (State.pushAt_calm ..))

theorem State.registerCount_calm (s : State) (p : Fin 4) (rev : Bool) (stamp : Nat) : Calm s (State.registerCount s p rev stamp) := by
  unfold State.registerCount
  try dsimp only
  repeat' (first
    | with_reducible exact Calm.refl _
    | with_reducible apply Calm.trans ?_ (State.toll_calm ..)
    | with_reducible apply Calm.trans ?_ (State.modPort_calm ..)
    | with_reducible apply Calm.trans ?_ (State.pushMeas_calm ..)
    | split)

theorem State.registerAB_calm (s : State) (p : Fin 4) (a b : Bool) (stamp : Nat) : Calm s (State.registerAB s p a b stamp) := by
  unfold State.registerAB
  try dsimp only
  repeat' (first
    | with_reducible exact Calm.refl _
    | with_reducible apply Calm.trans ?_ (State.modPort_calm ..)
    | with_reducible apply Calm.trans ?_ (State.toll_calm ..)
    | with_reducible apply Calm.trans ?_ (State.registerCount_calm ..)
    | split)

theorem State.registerZ_calm (s : State) (p : Fin 4) (level : Bool) (stamp : Nat) : Calm s (State.registerZ s p level stamp) := by
  unfold State.registerZ
  try dsimp only
  repeat' (first
    | with_reducible exact Calm.refl _
    | with_reducible apply Calm.trans ?_ (State.modPort_calm ..)
    | split
    | (simp only [Calm.written]; with_reducible refine CalmMk.put (fun h => h) ?_))

theorem State.holdChange_calm (s : State) (p : Fin 4) (pin : TallyPin) (level : Bool) (stamp : Nat) : Calm s (State.holdChange s p pin level stamp) := by
  unfold State.holdChange
  try dsimp only
  repeat' (first
    | with_reducible exact Calm.refl _
    | with_reducible apply Calm.trans ?_ (State.modPort_calm ..)
    | with_reducible apply Calm.trans ?_ (State.toll_calm ..)
    | split)

theorem State.filteredChange_calm (s : State) (p : Fin 4) (pin : TallyPin) (level : Bool) (stamp : Nat) : Calm s (State.filteredChange s p pin level stamp) := by
  unfold State.filteredChange
  try dsimp only
  repeat' (first
    | with_reducible exact Calm.refl _
    | with_reducible apply Calm.trans ?_ (State.holdChange_calm ..)
    | split)

theorem State.releaseHeld_calm (s : State) (p : Fin 4) : Calm s (State.releaseHeld s p) := by
  unfold State.releaseHeld
  try dsimp only
  repeat' (first
    | with_reducible exact Calm.refl _
    | with_reducible apply Calm.trans ?_ (State.modPort_calm ..)
    | with_reducible apply Calm.trans ?_ (State.registerZ_calm ..)
    | with_reducible apply Calm.trans ?_ (State.registerAB_calm ..)
    | with_reducible apply Calm.foldl
    | (intro _ _; try dsimp only)
    | split)

theorem countEdge_calm (port : Fin 4) (a b : Bool) (stamp : Nat) (s : State) : Calm s (countEdge port a b stamp s) := by
  unfold countEdge
  try dsimp only
  repeat' (first
    | with_reducible exact Calm.refl _
    | with_reducible apply Calm.trans ?_ (State.modPort_calm ..)
    | with_reducible apply Calm.trans ?_ (State.registerAB_calm ..)
    | with_reducible apply Calm.trans ?_ (State.filteredChange_calm ..)
    | split)

theorem indexEdge_calm (port : Fin 4) (level : Bool) (stamp : Nat) (s : State) : Calm s (indexEdge port level stamp s) := by
  unfold indexEdge
  try dsimp only
  repeat' (first
    | with_reducible exact Calm.refl _
    | with_reducible apply Calm.trans ?_ (State.modPort_calm ..)
    | with_reducible apply Calm.trans ?_ (State.registerZ_calm ..)
    | with_reducible apply Calm.trans ?_ (State.filteredChange_calm ..)
    | split)

theorem State.rejoin_calm (s : State) (j : Rat) : Calm s (State.rejoin s j) := by
  unfold State.rejoin
  try dsimp only
  repeat' (first
    | with_reducible exact Calm.refl _
    | with_reducible apply Calm.trans ?_ (State.toll_calm ..)
    | split
    | (simp only [Calm.written]; with_reducible refine CalmMk.put (fun h => h) ?_))

theorem State.assign_calm (s : State) (m : Meas) : Calm s (State.assign s m).1 := by
  unfold State.assign
  try dsimp only
  repeat' (first
    | with_reducible exact Calm.refl _
    | with_reducible apply Calm.trans ?_ (State.modPort_calm ..)
    | split)

theorem State.afterMeas_calm (s : State) (m : Meas) : Calm s (State.afterMeas s m) := by
  unfold State.afterMeas
  try dsimp only
  repeat' (first
    | with_reducible exact Calm.refl _
    | (simp only [Calm.written]; with_reducible refine CalmMk.put (fun h => h) ?_))

theorem State.forLoop_calm (s : State) (m : Meas) : Calm s (State.forLoop s m) := by
  unfold State.forLoop
  try dsimp only
  repeat' (first
    | with_reducible exact Calm.refl _
    | (simp only [Calm.written]; with_reducible refine CalmMk.put (fun h => h) ?_))

theorem State.measureOffset_calm (s : State) (m : Meas) : Calm s (State.measureOffset s m) := by
  unfold State.measureOffset
  try dsimp only
  repeat' (first
    | with_reducible exact Calm.refl _
    | split
    | (simp only [Calm.written]; with_reducible refine CalmMk.put (fun h => h) ?_))

theorem State.rejoinAt_calm (s : State) (m : Meas) : Calm s (State.rejoinAt s m) := by
  unfold State.rejoinAt
  try dsimp only
  repeat' (first
    | with_reducible exact Calm.refl _
    | with_reducible apply Calm.trans ?_ (State.assign_calm ..)
    | with_reducible apply Calm.trans ?_ (Calm.of_fst (State.assign_calm ..) (by assumption))
    | with_reducible apply Calm.trans ?_ (State.rejoin_calm ..)
    | with_reducible apply Calm.trans ?_ (State.afterMeas_calm ..)
    | with_reducible apply Calm.trans ?_ (State.measureOffset_calm ..)
    | split
    | (simp only [Calm.written]; with_reducible refine CalmMk.put (fun h => h) ?_))

theorem State.activeMeas_calm (s : State) (m : Meas) : Calm s (State.activeMeas s m) := by
  unfold State.activeMeas
  try dsimp only
  repeat' (first
    | with_reducible exact Calm.refl _
    | with_reducible apply Calm.trans ?_ (State.forLoop_calm ..)
    | with_reducible apply Calm.trans ?_ (State.rejoinAt_calm ..)
    | with_reducible apply Calm.trans ?_ (State.assign_calm ..)
    | with_reducible apply Calm.trans ?_ (Calm.of_fst (State.assign_calm ..) (by assumption))
    | with_reducible apply Calm.trans ?_ (State.afterMeas_calm ..)
    | with_reducible apply Calm.trans ?_ (State.rejoin_calm ..)
    | with_reducible apply Calm.trans ?_ (State.measureOffset_calm ..)
    | split
    | (simp only [Calm.written]; with_reducible refine CalmMk.put (fun h => h) ?_))

theorem State.switchPort_calm (s : State) (p : Fin 4) (fb : Bool) : Calm s (State.switchPort s p fb) := by
  unfold State.switchPort
  try dsimp only
  repeat' (first
    | with_reducible exact Calm.refl _
    | with_reducible apply Calm.trans ?_ (State.toll_calm ..)
    | (simp only [Calm.written]; with_reducible refine CalmMk.put (fun h => h) ?_))

theorem State.takeMeas_calm (s : State) (m : Meas) : Calm s (State.takeMeas s m) := by
  unfold State.takeMeas
  try dsimp only
  repeat' (first
    | with_reducible exact Calm.refl _
    | with_reducible apply Calm.trans ?_ (State.measureOffset_calm ..)
    | with_reducible apply Calm.trans ?_ (State.activeMeas_calm ..)
    | with_reducible apply Calm.trans ?_ (State.switchPort_calm ..)
    | with_reducible apply Calm.trans ?_ (State.rejoinAt_calm ..)
    | split)

theorem takeMeasurement_calm (s : State) : Calm s (takeMeasurement s) := by
  unfold takeMeasurement
  try dsimp only
  repeat' (first
    | with_reducible exact Calm.refl _
    | with_reducible apply Calm.trans ?_ (State.takeMeas_calm ..)
    | split
    | (simp only [Calm.written]; with_reducible refine CalmMk.put (fun h => h) ?_))

theorem State.releaseAll_calm (s : State) : Calm s (State.releaseAll s) := by
  unfold State.releaseAll
  try dsimp only
  repeat' (first
    | with_reducible exact Calm.refl _
    | with_reducible apply Calm.trans ?_ (State.releaseHeld_calm ..)
    | with_reducible apply Calm.foldl
    | (intro _ _; try dsimp only))

theorem State.timedOut_calm (s : State) (tolls : List Nat) (after : State) : Calm after (s.timedOut tolls after) :=
  ⟨rfl, rfl, rfl, id⟩

theorem State.beginCoast_calm (s : State) : Calm s (State.beginCoast s) := by
  unfold State.beginCoast
  try dsimp only
  repeat' (first
    | with_reducible exact Calm.refl _
    | with_reducible apply Calm.trans ?_ (State.toll_calm ..)
    | (simp only [Calm.written]; with_reducible refine CalmMk.put (fun h => h) ?_))

theorem lossExpiry_calm (s : State) : Calm s (lossExpiry s) := by
  unfold lossExpiry
  try dsimp only
  repeat' (first
    | with_reducible exact Calm.refl _
    | with_reducible apply Calm.trans ?_ (State.switchPort_calm ..)
    | with_reducible apply Calm.trans ?_ (State.modPort_calm ..)
    | with_reducible apply Calm.trans ?_ (State.timedOut_calm ..)
    | with_reducible apply Calm.trans ?_ (State.rejoin_calm ..)
    | with_reducible apply Calm.trans ?_ (State.beginCoast_calm ..)
    | split
    | (simp only [Calm.written]; with_reducible refine CalmMk.put (fun h => h) ?_))

theorem stillExpiry_calm (s : State) : Calm s (stillExpiry s) := by
  unfold stillExpiry
  try dsimp only
  repeat' (first
    | with_reducible exact Calm.refl _
    | with_reducible apply Calm.trans ?_ (State.timedOut_calm ..)
    | with_reducible apply Calm.trans ?_ (State.toll_calm ..)
    | split
    | (simp only [Calm.written]; with_reducible refine CalmMk.put (fun h => h) ?_))

theorem coastExpiry_calm (s : State) : Calm s (coastExpiry s) := by
  unfold coastExpiry
  try dsimp only
  repeat' (first
    | with_reducible exact Calm.refl _
    | with_reducible apply Calm.trans ?_ (State.timedOut_calm ..)
    | with_reducible apply Calm.trans ?_ (State.toll_calm ..)
    | split
    | (simp only [Calm.written]; with_reducible refine CalmMk.put (fun h => h) ?_))

theorem State.loopStep_calm (s : State) : Calm s (State.loopStep s) := by
  unfold State.loopStep
  try dsimp only
  repeat' (first
    | with_reducible exact Calm.refl _
    | with_reducible apply Calm.trans ?_ (State.afterMeas_calm ..)
    | split
    | (simp only [Calm.written]; with_reducible refine CalmMk.put (fun h => h) ?_))

theorem State.slewStep_calm (s : State) : Calm s (State.slewStep s) := by
  unfold State.slewStep
  try dsimp only
  repeat' (first
    | with_reducible exact Calm.refl _
    | split
    | (simp only [Calm.written]; with_reducible refine CalmMk.put (fun h => h) ?_))

theorem State.indexStep_calm (s : State) (pos0 : Rat) : Calm s (State.indexStep s pos0) := by
  unfold State.indexStep
  try dsimp only
  repeat' (first
    | with_reducible exact Calm.refl _
    | with_reducible apply Calm.trans ?_ (State.modPort_calm ..)
    | with_reducible apply Calm.trans ?_ (State.rejoin_calm ..)
    | with_reducible apply Calm.trans ?_ (State.toll_calm ..)
    | split
    | (simp only [Calm.written]; with_reducible refine CalmMk.put (fun h => h) ?_))

theorem State.clockFallback_calm (s : State) : Calm s (State.clockFallback s) := by
  unfold State.clockFallback
  try dsimp only
  repeat' (first
    | with_reducible exact Calm.refl _
    | with_reducible apply Calm.trans ?_ (State.modPort_calm ..)
    | split)

theorem State.tallyClose_calm (s : State) : Calm s (State.tallyClose s) := by
  unfold State.tallyClose
  try dsimp only
  repeat' (first
    | with_reducible exact Calm.refl _
    | with_reducible apply Calm.trans ?_ (State.releaseAll_calm ..)
    | with_reducible apply Calm.trans ?_ (State.takeMeas_calm ..)
    | with_reducible apply Calm.trans ?_ (State.loopStep_calm ..)
    | with_reducible apply Calm.trans ?_ (State.slewStep_calm ..)
    | with_reducible apply Calm.trans ?_ (State.indexStep_calm ..)
    | with_reducible apply Calm.trans ?_ (State.clockFallback_calm ..)
    | with_reducible apply Calm.foldl
    | (intro _ _; try dsimp only)
    | split
    | (simp only [Calm.written]; with_reducible refine CalmMk.put (fun h => h) ?_))

theorem snapRead_calm (s : State) : Calm s (snapRead s) := by
  unfold snapRead
  try dsimp only
  repeat' (first
    | with_reducible exact Calm.refl _
    | (simp only [Calm.written]; with_reducible refine CalmMk.put (fun h => h) ?_))

theorem State.mainsSample_calm (s : State) (p : Fin 4) (v : Int) (stamp : Nat) : Calm s (State.mainsSample s p v stamp) := by
  unfold State.mainsSample
  try dsimp only
  repeat' (first
    | with_reducible exact Calm.refl _
    | with_reducible apply Calm.trans ?_ (State.modPort_calm ..)
    | with_reducible apply Calm.trans ?_ (State.pushMeas_calm ..)
    | split)

theorem State.sincosPair_calm (s : State) (p : Fin 4) (sine cosine : Int) (stamp : Nat) : Calm s (State.sincosPair s p sine cosine stamp) := by
  unfold State.sincosPair
  try dsimp only
  repeat' (first
    | with_reducible exact Calm.refl _
    | with_reducible apply Calm.trans ?_ (State.modPort_calm ..)
    | with_reducible apply Calm.trans ?_ (State.pushMeas_calm ..)
    | with_reducible apply Calm.trans ?_ (State.tollIf_calm ..)
    | split)

theorem State.sincosSample_calm (s : State) (p : Fin 4) (i chan : Nat) (v : Int) (stamp : Nat) : Calm s (State.sincosSample s p i chan v stamp) := by
  unfold State.sincosSample
  try dsimp only
  repeat' (first
    | with_reducible exact Calm.refl _
    | with_reducible apply Calm.trans ?_ (State.modPort_calm ..)
    | with_reducible apply Calm.trans ?_ (State.sincosPair_calm ..)
    | split)

theorem State.tallyAuxSample_calm (s : State) (entry : Option Nat) (chan : Nat) (v : Int) (stamp : Nat) : Calm s (State.tallyAuxSample s entry chan v stamp) := by
  unfold State.tallyAuxSample
  try dsimp only
  repeat' (first
    | with_reducible exact Calm.refl _
    | with_reducible apply Calm.trans ?_ (State.mainsSample_calm ..)
    | with_reducible apply Calm.trans ?_ (State.sincosSample_calm ..)
    | with_reducible apply Calm.foldl
    | (intro _ _; try dsimp only)
    | split)

theorem State.crierMeas_calm (s : State) (pos stamp : Rat) : Calm s (State.crierMeas s pos stamp) := by
  unfold State.crierMeas
  try dsimp only
  repeat' (first
    | with_reducible exact Calm.refl _
    | with_reducible apply Calm.trans ?_ (State.modPort_calm ..)
    | with_reducible apply Calm.trans ?_ (State.pushAt_calm ..)
    | with_reducible apply Calm.foldl
    | (intro _ _; try dsimp only)
    | split)

theorem State.startTally_calm (s : State) : Calm s (State.startTally s) := by
  unfold State.startTally
  try dsimp only
  repeat' (first
    | with_reducible exact Calm.refl _
    | split
    | (simp only [Calm.written]; with_reducible refine CalmMk.put (fun h => h) ?_))

theorem State.stopTally_calm (s : State) : Calm s (State.stopTally s) := by
  unfold State.stopTally
  try dsimp only
  repeat' (first
    | with_reducible exact Calm.refl _
    | (simp only [Calm.written]; with_reducible refine CalmMk.put (fun h => h) ?_))

theorem State.modAux_calm (s : State) (f : Auxiliary → Auxiliary) : Calm s (State.modAux s f) := by
  unfold State.modAux
  try dsimp only
  repeat' (first
    | with_reducible exact Calm.refl _
    | (simp only [Calm.written]; with_reducible refine CalmMk.put (fun h => h) ?_))

theorem State.beginConv_calm (s : State) (job : AuxJob) (chan : Nat) : Calm s (State.beginConv s job chan) := by
  unfold State.beginConv
  try dsimp only
  repeat' (first
    | with_reducible exact Calm.refl _
    | with_reducible apply Calm.trans ?_ (State.modAux_calm ..)
    | with_reducible apply Calm.trans ?_ (State.untoll_calm ..)
    | split
    | (simp only [Calm.written]; with_reducible refine CalmMk.put (fun h => h) ?_))

theorem State.warmUp_calm (s : State) : Calm s (State.warmUp s) := by
  unfold State.warmUp
  try dsimp only
  repeat' (first
    | with_reducible exact Calm.refl _
    | with_reducible apply Calm.trans ?_ (State.modAux_calm ..)
    | split)

theorem State.chooseConv_calm (s : State) : Calm s (State.chooseConv s) := by
  unfold State.chooseConv
  try dsimp only
  repeat' (first
    | with_reducible exact Calm.refl _
    | with_reducible apply Calm.trans ?_ (State.beginConv_calm ..)
    | with_reducible apply Calm.trans ?_ (State.warmUp_calm ..)
    | with_reducible apply Calm.trans ?_ (State.toll_calm ..)
    | with_reducible apply Calm.trans ?_ (State.modAux_calm ..)
    | split
    | (simp only [Calm.written]; with_reducible refine CalmMk.put (fun h => h) ?_))

theorem State.startSequence_calm (s : State) (due : Nat) : Calm s (State.startSequence s due) := by
  unfold State.startSequence
  try dsimp only
  repeat' (first
    | with_reducible exact Calm.refl _
    | with_reducible apply Calm.trans ?_ (State.modAux_calm ..)
    | with_reducible apply Calm.trans ?_ (State.chooseConv_calm ..)
    | split)

theorem auxPeriodStart_calm (s : State) : Calm s (auxPeriodStart s) := by
  unfold auxPeriodStart
  try dsimp only
  repeat' (first
    | with_reducible exact Calm.refl _
    | with_reducible apply Calm.trans ?_ (State.modAux_calm ..)
    | with_reducible apply Calm.trans ?_ (State.toll_calm ..)
    | with_reducible apply Calm.trans ?_ (State.startSequence_calm ..)
    | split
    | (simp only [Calm.written]; with_reducible refine CalmMk.put (fun h => h) ?_))

theorem State.watchResult_calm (s : State) (k : Fin 8) (chan : Nat) (v : Int) : Calm s (State.watchResult s k chan v) := by
  unfold State.watchResult
  try dsimp only
  repeat' (first
    | with_reducible exact Calm.refl _
    | with_reducible apply Calm.trans ?_ (State.modAux_calm ..)
    | with_reducible apply Calm.trans ?_ (State.setSticky_calm ..)
    | with_reducible apply Calm.trans ?_ (State.attention_calm ..)
    | split
    | (simp only [Calm.written]; with_reducible refine CalmMk.put (fun h => h) ?_))

theorem Power.reads_store (p : Power) (now chan : Nat) (v : Int) : (p.reads now chan v).store = p.store := by
  unfold Power.reads
  split
  · rfl
  · split <;> rfl

theorem State.auxResult_calm (s : State) (entry : Option Nat) (chan : Nat) (raw : Int) (stamp : Nat) :
    Calm s (State.auxResult s entry chan raw stamp) := by
  unfold State.auxResult
  try dsimp only
  repeat' (first
    | with_reducible apply Calm.trans ?_ (State.tallyAuxSample_calm ..)
    | with_reducible apply Calm.foldl
    | (intro t k; exact State.watchResult_calm ..))
  exact (State.modAux_calm ..).trans (State.modPower_calm _ _ fun p h => by simpa only [Power.reads_store] using h)

theorem auxConversionEnd_calm (raw : Int) (s : State) : Calm s (auxConversionEnd raw s) := by
  unfold auxConversionEnd
  try dsimp only
  repeat' (first
    | with_reducible exact Calm.refl _
    | with_reducible apply Calm.trans ?_ (State.modAux_calm ..)
    | with_reducible apply Calm.trans ?_ (State.auxResult_calm ..)
    | with_reducible apply Calm.trans ?_ (State.chooseConv_calm ..)
    | split)

theorem auxWarmupDone_calm (s : State) : Calm s (auxWarmupDone s) := by
  unfold auxWarmupDone
  try dsimp only
  repeat' (first
    | with_reducible exact Calm.refl _
    | with_reducible apply Calm.trans ?_ (State.modAux_calm ..)
    | with_reducible apply Calm.trans ?_ (State.chooseConv_calm ..)
    | split)

theorem State.yieldConv_calm (s : State) (i : Fin 19) : Calm s (State.yieldConv s i) := by
  unfold State.yieldConv
  try dsimp only
  repeat' (first
    | with_reducible exact Calm.refl _
    | with_reducible apply Calm.trans ?_ (State.untoll_calm ..)
    | with_reducible apply Calm.trans ?_ (State.modAux_calm ..)
    | with_reducible apply Calm.trans ?_ (State.toll_calm ..)
    | split
    | (simp only [Calm.written]; with_reducible refine CalmMk.put (fun h => h) ?_))

theorem State.injectRequest_calm (s : State) (i : Fin 19) : Calm s (State.injectRequest s i) := by
  unfold State.injectRequest
  try dsimp only
  repeat' (first
    | with_reducible exact Calm.refl _
    | with_reducible apply Calm.trans ?_ (State.toll_calm ..)
    | with_reducible apply Calm.trans ?_ (State.modAux_calm ..)
    | with_reducible apply Calm.trans ?_ (State.yieldConv_calm ..)
    | with_reducible apply Calm.trans ?_ (State.chooseConv_calm ..)
    | split
    | (simp only [Calm.written]; with_reducible refine CalmMk.put (fun h => h) ?_))

theorem State.requestIfEnabled_calm (s : State) (i : Fin 19) : Calm s (State.requestIfEnabled s i) := by
  unfold State.requestIfEnabled
  try dsimp only
  repeat' (first
    | with_reducible exact Calm.refl _
    | with_reducible apply Calm.trans ?_ (State.injectRequest_calm ..)
    | split)

theorem auxInject_calm (i : Fin 19) (s : State) : Calm s (auxInject i s) := by
  unfold auxInject
  try dsimp only
  repeat' (first
    | with_reducible exact Calm.refl _
    | with_reducible apply Calm.trans ?_ (State.modAux_calm ..)
    | with_reducible apply Calm.trans ?_ (State.requestIfEnabled_calm ..)
    | split)

theorem State.takeInjections_calm (s : State) : Calm s (State.takeInjections s) := by
  unfold State.takeInjections
  try dsimp only
  repeat' (first
    | with_reducible exact Calm.refl _
    | with_reducible apply Calm.trans ?_ (auxInject_calm ..)
    | with_reducible apply Calm.foldl
    | (intro _ _; try dsimp only))

theorem auxWatchTimer_calm (s : State) : Calm s (auxWatchTimer s) := by
  unfold auxWatchTimer
  try dsimp only
  repeat' (first
    | with_reducible exact Calm.refl _
    | with_reducible apply Calm.trans ?_ (State.modAux_calm ..)
    | with_reducible apply Calm.trans ?_ (State.requestIfEnabled_calm ..)
    | split)

theorem pmRound_calm (s : State) : Calm s (pmRound s) := by
  unfold pmRound
  try dsimp only
  repeat' (first
    | with_reducible exact Calm.refl _
    | with_reducible apply Calm.trans ?_ (State.modAux_calm ..)
    | with_reducible apply Calm.trans ?_ (State.injectRequest_calm ..)
    | split)

theorem calAuxPeriod_calm (s : State) : Calm s (calAuxPeriod s) := by
  unfold calAuxPeriod
  try dsimp only
  repeat' (first
    | with_reducible exact Calm.refl _
    | with_reducible apply Calm.trans ?_ (State.modAux_calm ..)
    | with_reducible apply Calm.trans ?_ (State.toll_calm ..)
    | with_reducible apply Calm.trans ?_ (State.chooseConv_calm ..)
    | split
    | (simp only [Calm.written]; with_reducible refine CalmMk.put (fun h => h) ?_))

theorem auxCalComplete_calm (ofs : Int) (gain : Nat) (s : State) : Calm s (auxCalComplete ofs gain s) := by
  unfold auxCalComplete
  try dsimp only
  repeat' (first
    | with_reducible exact Calm.refl _
    | with_reducible apply Calm.trans ?_ (State.untoll_calm ..)
    | with_reducible apply Calm.trans ?_ (State.modAux_calm ..)
    | with_reducible apply Calm.trans ?_ (State.toll_calm ..)
    | split
    | (simp only [Calm.written]; with_reducible refine CalmMk.put (fun h => h) ?_))

theorem State.startAux_calm (s : State) : Calm s (State.startAux s) := by
  unfold State.startAux
  try dsimp only
  repeat' (first
    | with_reducible exact Calm.refl _
    | with_reducible apply Calm.trans ?_ (State.modAux_calm ..)
    | with_reducible apply Calm.trans ?_ (State.startSequence_calm ..)
    | split)

theorem State.stopAux_calm (s : State) : Calm s (State.stopAux s) := by
  unfold State.stopAux
  try dsimp only
  repeat' (first
    | with_reducible exact Calm.refl _
    | with_reducible apply Calm.trans ?_ (State.modAux_calm ..))

theorem State.modStall_calm (s : State) (n : Fin 16) (f : Stall → Stall) : Calm s (State.modStall s n f) := by
  unfold State.modStall
  try dsimp only
  repeat' (first
    | with_reducible exact Calm.refl _
    | (simp only [Calm.written]; with_reducible refine CalmMk.put (fun h => h) ?_))

theorem State.logLate_calm (s : State) (chron : Bool) (unit toll : Nat) (lateness : Int) : Calm s (State.logLate s chron unit toll lateness) := by
  unfold State.logLate
  try dsimp only
  repeat' (first
    | with_reducible exact Calm.refl _
    | with_reducible apply Calm.trans ?_ (State.toll_calm ..)
    | with_reducible apply Calm.trans ?_ (State.logEvent_calm ..))

theorem State.fireSlot_calm (s : State) (k : Fin 64) (c : Crossed) : Calm s (State.fireSlot s k c) := by
  unfold State.fireSlot
  try dsimp only
  repeat' (first
    | with_reducible exact Calm.refl _
    | with_reducible apply Calm.trans ?_ (State.askInjection_calm ..)
    | with_reducible apply Calm.trans ?_ (State.toll_calm ..)
    | with_reducible apply Calm.trans ?_ (State.logLate_calm ..)
    | split
    | (simp only [Calm.written]; with_reducible refine CalmMk.put (fun h => h) ?_))

theorem State.fireIfCrossed_calm (s : State) (t : Tally) (k : Fin 64) : Calm s (State.fireIfCrossed s t k) := by
  unfold State.fireIfCrossed
  try dsimp only
  repeat' (first
    | with_reducible exact Calm.refl _
    | with_reducible apply Calm.trans ?_ (State.fireSlot_calm ..)
    | split)

theorem launchFire_calm (k : Fin 64) (s : State) : Calm s (launchFire k s) := by
  unfold launchFire
  try dsimp only
  repeat' (first
    | with_reducible exact Calm.refl _
    | with_reducible apply Calm.trans ?_ (State.fireIfCrossed_calm ..))

theorem State.writeLaunchCtrl_calm (s : State) (k : Fin 64) (ctrl : Word) : Calm s (State.writeLaunchCtrl s k ctrl) := by
  unfold State.writeLaunchCtrl
  try dsimp only
  repeat' (first
    | with_reducible exact Calm.refl _
    | with_reducible apply Calm.trans ?_ (State.setWritten_calm ..)
    | with_reducible apply Calm.trans ?_ (State.atNextTick_calm ..))

theorem State.armSlot_calm (s : State) (k : Fin 64) (a : Arming) : Calm s (State.armSlot s k a).1 := by
  unfold State.armSlot
  try dsimp only
  repeat' (first
    | with_reducible exact Calm.refl _
    | with_reducible apply Calm.trans ?_ (State.toll_calm ..)
    | split
    | (simp only [Calm.written]; with_reducible refine CalmMk.put (fun h => h) ?_))

theorem launchArmWrite_calm (k : Fin 64) (ctrl : Word) (s : State) : Calm s (launchArmWrite k ctrl s) := by
  unfold launchArmWrite
  try dsimp only
  repeat' (first
    | with_reducible exact Calm.refl _
    | with_reducible apply Calm.trans ?_ (State.refuseWrite_calm ..)
    | with_reducible apply Calm.trans ?_ (State.armSlot_calm ..)
    | with_reducible apply Calm.trans ?_ (Calm.of_fst (State.armSlot_calm ..) (by assumption))
    | with_reducible apply Calm.trans ?_ (State.writeLaunchCtrl_calm ..)
    | with_reducible apply Calm.trans ?_ (State.answer_calm ..)
    | split)

theorem launchDisarmWrite_calm (k : Fin 64) (ctrl : Word) (s : State) : Calm s (launchDisarmWrite k ctrl s) := by
  unfold launchDisarmWrite
  try dsimp only
  repeat' (first
    | with_reducible exact Calm.refl _
    | with_reducible apply Calm.trans ?_ (State.refuseWrite_calm ..)
    | with_reducible apply Calm.trans ?_ (State.writeLaunchCtrl_calm ..)
    | with_reducible apply Calm.trans ?_ (State.answer_calm ..)
    | split
    | (simp only [Calm.written]; with_reducible refine CalmMk.put (fun h => h) ?_))

theorem State.openSlot_calm (s : State) (k : Fin 64) : Calm s (State.openSlot s k) := by
  unfold State.openSlot
  try dsimp only
  repeat' (first
    | with_reducible exact Calm.refl _
    | with_reducible apply Calm.trans ?_ (State.fireSlot_calm ..)
    | split
    | (simp only [Calm.written]; with_reducible refine CalmMk.put (fun h => h) ?_))

theorem State.closeSlots_calm (s : State) : Calm s (State.closeSlots s) := by
  unfold State.closeSlots
  try dsimp only
  repeat' (first
    | with_reducible exact Calm.refl _
    | with_reducible apply Calm.trans ?_ (State.fireIfCrossed_calm ..)
    | with_reducible apply Calm.foldl
    | (intro _ _; try dsimp only)
    | (simp only [Calm.written]; with_reducible refine CalmMk.put (fun h => h) ?_))

theorem State.openSlots_calm (s : State) : Calm s (State.openSlots s) := by
  unfold State.openSlots
  try dsimp only
  repeat' (first
    | with_reducible exact Calm.refl _
    | with_reducible apply Calm.trans ?_ (State.openSlot_calm ..)
    | with_reducible apply Calm.foldl
    | (intro _ _; try dsimp only))

theorem State.modTout_calm (s : State) (p : Fin 4) (f : TrigOut → TrigOut) : Calm s (State.modTout s p f) := by
  unfold State.modTout
  try dsimp only
  repeat' (first
    | with_reducible exact Calm.refl _
    | (simp only [Calm.written]; with_reducible refine CalmMk.put (fun h => h) ?_))

theorem State.closeTout_calm (s : State) : Calm s (State.closeTout s) := by
  unfold State.closeTout
  try dsimp only
  repeat' (first
    | with_reducible exact Calm.refl _
    | with_reducible apply Calm.foldl
    | split
    | (simp only [Calm.written]; with_reducible refine CalmMk.put (fun h => h) ?_))

theorem State.toutPulse_calm (s : State) (pin : Fin 4) (instant : Nat) : Calm s (State.toutPulse s pin instant) := by
  unfold State.toutPulse
  try dsimp only
  repeat' (first
    | with_reducible exact Calm.refl _
    | with_reducible apply Calm.trans ?_ (State.modTout_calm ..)
    | split)

end Sys2Proof.Machine
end

