-- ==== Sys2Proof/Laws/CalmTriggers.lean ====
section
/-! SUPPORT. Frames: what every operation of the machine leaves alone (the Bells, the Crier and the Sieve). -/

namespace Sys2Proof.Machine

set_option Elab.async false

theorem State.modBell_calm (s : State) (n : Fin 16) (f : Bell → Bell) : Calm s (State.modBell s n f) := by
  unfold State.modBell
  try dsimp only
  repeat' (first
    | with_reducible exact Calm.refl _
    | with_reducible apply Calm.trans ?_ (State.modStall_calm ..))

theorem State.settle_calm (s : State) (f : Option Nat) : Calm s (State.settle s f).2 := by
  unfold State.settle
  try dsimp only
  repeat' (first
    | with_reducible exact Calm.refl _
    | with_reducible apply Calm.trans ?_ (State.draw_calm ..)
    | with_reducible apply Calm.trans ?_ (Calm.of_snd (State.draw_calm ..) (by assumption))
    | split)

theorem State.formComps_calm (s : State) (n : Fin 16) (v : Val) : Calm s (State.formComps s n v).2 := by
  unfold State.formComps
  extract_lets pair b
  split
  rename_i cs es e
  extract_lets s1
  have h1 : Calm s s1 := State.modBell_calm ..
  split
  · exact h1
  · refine Calm.foldlSnd (p := ([], s1)) h1 fun q k => ?_
    dsimp only
    split
    · exact Calm.refl _
    · exact State.settle_calm ..

theorem State.formOutside_calm (s : State) (n : Fin 16) (interval : Nat) (v : Val) : Calm s (State.formOutside s n interval v).2 := by
  unfold State.formOutside
  try dsimp only
  repeat' (first
    | with_reducible exact Calm.refl _
    | with_reducible apply Calm.trans ?_ (State.modBell_calm ..))

theorem State.formConds_calm (s : State) (n : Fin 16) (v : Val) : Calm s (State.formConds s n v).2 := by
  unfold State.formConds
  try dsimp only
  repeat' (first
    | with_reducible exact Calm.refl _
    | with_reducible apply Calm.trans ?_ (State.formComps_calm ..)
    | with_reducible apply Calm.trans ?_ (Calm.of_snd (State.formComps_calm ..) (by assumption))
    | with_reducible apply Calm.trans ?_ (State.formOutside_calm ..)
    | with_reducible apply Calm.trans ?_ (Calm.of_snd (State.formOutside_calm ..) (by assumption))
    | with_reducible apply Calm.trans ?_ (State.modBell_calm ..))

theorem State.countUp_calm (s : State) (n : Fin 16) (c : Conds) (k : Fin 4) (f : Nat) : Calm s (State.countUp s n c k f).2 := by
  unfold State.countUp
  try dsimp only
  repeat' (first
    | with_reducible exact Calm.refl _
    | with_reducible apply Calm.trans ?_ (State.modBell_calm ..))

theorem State.countRound_calm (s : State) (n : Fin 16) (c : Conds) (l : List (Fin 4)) : Calm s (State.countRound s n c l).2.1 := by
  unfold State.countRound
  extract_lets st
  suffices H : ∀ (p : Conds × State × List (Fin 4)), Calm s p.2.1 → Calm s (l.foldl (fun (x : Conds × State × List (Fin 4))
      (k : Fin 4) =>
    let src := x.2.1.val F.STL_BEL_CNT_CFG_SRC k n
    if (x.2.1.val F.STL_BEL_CNT_CFG_RUNMASK k n).testBit st && x.2.1.occurs n x.1 src then
      let (c', s') := x.2.1.countUp n x.1 k (x.1.frac src)
      (c', s', x.2.2)
    else (x.1, x.2.1, x.2.2 ++ [k])) p).2.1 from H (c, s, []) (.refl _)
  induction l with
  | nil => exact fun p h => h
  | cons k l ih =>
    intro p h
    refine ih _ ?_
    dsimp only
    split
    · exact h.trans (State.countUp_calm p.2.1 n p.1 k (p.1.frac (p.2.1.val F.STL_BEL_CNT_CFG_SRC k n)))
    · exact h

theorem State.countAll_calm (s : State) (n : Fin 16) (c : Conds) : Calm s (State.countAll s n c).2 := by
  unfold State.countAll
  exact (((State.countRound_calm ..).trans (State.countRound_calm ..)).trans (State.countRound_calm ..)).trans
    (State.countRound_calm ..)

theorem State.decideLater_calm (s : State) (n : Fin 16) (v : Val) (d : Decision) : Calm s (State.decideLater s n v d) := by
  unfold State.decideLater
  try dsimp only
  repeat' (first
    | with_reducible exact Calm.refl _
    | with_reducible apply Calm.trans ?_ (State.modBell_calm ..))

theorem State.relink_calm (s : State) (n : Fin 16) : Calm s (State.relink s n) := by
  unfold State.relink
  try dsimp only
  repeat' (first
    | with_reducible exact Calm.refl _
    | with_reducible apply Calm.trans ?_ (State.modBell_calm ..))

theorem State.happen_calm (s : State) (n : Fin 16) (h : Happening) : Calm s (State.happen s n h) := by
  unfold State.happen
  try dsimp only
  repeat' (first
    | with_reducible exact Calm.refl _
    | with_reducible apply Calm.trans ?_ (State.modBell_calm ..))

theorem State.endSegment_calm (s : State) (n : Fin 16) (c : Conds) (v : Val) : Calm s (State.endSegment s n c v) := by
  unfold State.endSegment
  try dsimp only
  repeat' (first
    | with_reducible exact Calm.refl _
    | with_reducible apply Calm.trans ?_ (State.modStall_calm ..))

theorem State.accept_calm (s : State) (n : Fin 16) (c : Conds) (v : Val) (f : Nat) (forced late : Bool) (instant : Rat) :
    Calm s (State.accept s n c v f forced late instant) := by
  unfold State.accept
  try dsimp only
  repeat' (first
    | with_reducible exact Calm.refl _
    | with_reducible apply Calm.trans ?_ (State.modStall_calm ..)
    | with_reducible apply Calm.trans ?_ (State.decideLater_calm ..)
    | with_reducible apply Calm.trans ?_ (State.relink_calm ..)
    | with_reducible apply Calm.trans ?_ (State.askInjection_calm ..)
    | with_reducible apply Calm.trans ?_ (State.endSegment_calm ..)
    | split)

theorem State.enter_calm (s : State) (n : Fin 16) (c : Conds) (v : Val) (k f : Nat) (trig : Bool) :
    Calm s (State.enter s n c v k f trig).2 := by
  unfold State.enter
  extract_lets s1 s2 s3 s4
  have h1 : Calm s s1 := State.modBell_calm ..
  have h2 : Calm s s2 := Calm.ite (h1.trans (State.modBell_calm ..)) h1
  have h3 : Calm s s3 := Calm.ite (h2.trans (State.decideLater_calm ..)) h2
  have h4 : Calm s s4 := Calm.ite (h3.trans (State.decideLater_calm ..)) h3
  split
  rename_i c5 s5 e
  have h5 : Calm s s5 := by
    split at e
    · exact Calm.of_snd (h4.trans (State.countUp_calm ..)) e
    · exact Calm.of_snd (p := (c, s4)) h4 e
  exact Calm.ite (h5.trans (State.accept_calm ..)) h5

theorem State.ignoreTrigger_calm (s : State) (n : Fin 16) : Calm s (State.ignoreTrigger s n) := by
  unfold State.ignoreTrigger
  try dsimp only
  repeat' (first
    | with_reducible exact Calm.refl _
    | with_reducible apply Calm.trans ?_ (State.modBell_calm ..)
    | with_reducible apply Calm.trans ?_ (State.toll_calm ..)
    | with_reducible apply Calm.trans ?_ (State.happen_calm ..)
    | split)

theorem State.countOverlap_calm (s : State) (n : Fin 16) : Calm s (State.countOverlap s n) := by
  unfold State.countOverlap
  try dsimp only
  repeat' (first
    | with_reducible exact Calm.refl _
    | with_reducible apply Calm.trans ?_ (State.modBell_calm ..)
    | with_reducible apply Calm.trans ?_ (State.toll_calm ..))

theorem State.sequenceMove_calm (s : State) (n : Fin 16) (c : Conds) : Calm s (State.sequenceMove s n c).2 := by
  unfold State.sequenceMove
  try dsimp only
  repeat' (first
    | with_reducible exact Calm.refl _
    | with_reducible apply Calm.trans ?_ (State.modBell_calm ..)
    | split)

theorem State.acceptForced_calm (s : State) (n : Fin 16) (c : Conds) (v : Val) (f : Forced) : Calm s (State.acceptForced s n c v f) := by
  unfold State.acceptForced
  try dsimp only
  repeat' (first
    | with_reducible exact Calm.refl _
    | with_reducible apply Calm.trans ?_ (State.accept_calm ..))

theorem State.autoStep_calm (s : State) (n : Fin 16) (c : Conds) (v : Val) (last : Bool) : Calm s (State.autoStep s n c v last) := by
  unfold State.autoStep
  try dsimp only
  repeat' (first
    | with_reducible exact Calm.refl _
    | with_reducible apply Calm.trans ?_ (State.accept_calm ..)
    | with_reducible apply Calm.trans ?_ (State.happen_calm ..)
    | with_reducible apply Calm.trans ?_ (State.modBell_calm ..)
    | split)

theorem State.armedMove_calm (s : State) (n : Fin 16) (c : Conds) (v : Val) (move : Option (Nat × Nat × Bool)) (trig : Bool) :
    Calm s (match move with
      | some (k, f, adv) =>
        ((s.modBell n fun b => { b with rstHeld := false }).happen n (if adv then .advanced else .reset)).enter n c v k f trig
      | none => (c, s)).2 := by
  split
  · exact ((State.modBell_calm ..).trans (State.happen_calm ..)).trans (State.enter_calm ..)
  · exact Calm.refl _

theorem State.ignoreAll_calm (n : Fin 16) (l : List Forced) (s : State) : Calm s (l.foldl (fun s _ => s.ignoreTrigger n) s) :=
  Calm.foldl (.refl _) fun _ _ => State.ignoreTrigger_calm ..

theorem State.armedForced_calm (s s5 : State) (h5 : Calm s s5) (n : Fin 16) (c : Conds) (v : Val) (forced : List Forced)
    (forcedFirst trig : Bool) :
    Calm s (match forced with
      | [] => s5
      | f :: fs =>
        if forcedFirst then
          let s1 := if trig then s5.ignoreTrigger n else s5
          fs.foldl (fun s _ => s.ignoreTrigger n) (s1.acceptForced n c v f)
        else forced.foldl (fun s _ => s.ignoreTrigger n) s5) := by
  split
  · exact h5
  · refine Calm.ite ?_ (h5.trans (State.ignoreAll_calm ..))
    exact ((Calm.ite (h5.trans (State.ignoreTrigger_calm ..)) h5).trans (State.acceptForced_calm ..)).trans
      (State.ignoreAll_calm ..)

theorem State.armedSample_calm (s : State) (n : Fin 16) (c : Conds) (v : Val) (forced : List Forced) (last : Bool) :
    Calm s (State.armedSample s n c v forced last).2 := by
  unfold State.armedSample
  extract_lets s1 c1 st
  have h1 : Calm s s1 := Calm.foldl (.refl _) fun t k => State.happen_calm ..
  split
  rename_i c2 s2 e2
  have h2 : Calm s s2 := Calm.of_snd (h1.trans (State.countAll_calm ..)) e2
  split
  rename_i move s3 e3
  have h3 : Calm s s3 := Calm.of_snd (h2.trans (State.sequenceMove_calm ..)) e3
  extract_lets first taken overlap s4 seqTrig forcedFirst
  have h4 : Calm s s4 := Calm.ite (h3.trans (State.countOverlap_calm ..)) h3
  clear_value s1 c1 st first taken overlap s4 seqTrig forcedFirst
  split
  rename_i c5 s5 e5
  have h5 : Calm s s5 := Calm.of_snd (h4.trans (State.armedMove_calm ..)) e5
  extract_lets z6 s6
  have h6 : Calm s s6 := State.armedForced_calm s s5 h5 n c5 v forced forcedFirst seqTrig.isSome
  clear_value s6
  split
  rename_i c7 s7 e7
  have h7 : Calm s s7 := by
    split at e7
    · exact Calm.of_snd (((h6.trans (State.modBell_calm ..)).trans (State.happen_calm ..)).trans (State.enter_calm ..)) e7
    · exact Calm.of_snd (p := (c5, s6)) h6 e7
  exact h7.trans (State.autoStep_calm ..)

theorem State.syncBuffer_calm (s : State) (n : Fin 16) (v : Val) : Calm s (State.syncBuffer s n v) := by
  unfold State.syncBuffer
  try dsimp only
  repeat' (first
    | with_reducible exact Calm.refl _
    | split
    | (simp only [Calm.written]; with_reducible refine CalmMk.put (fun h => h) ?_))

theorem State.beginBuffer_calm (s : State) (n : Fin 16) (v : Val) : Calm s (State.beginBuffer s n v) := by
  unfold State.beginBuffer
  try dsimp only
  repeat' (first
    | with_reducible exact Calm.refl _
    | with_reducible apply Calm.trans ?_ (State.modBell_calm ..)
    | with_reducible apply Calm.trans ?_ (State.syncBuffer_calm ..)
    | with_reducible apply Calm.trans ?_ (State.happen_calm ..)
    | split)

theorem State.latchHold_calm (s : State) (n : Fin 16) (v : Val) : Calm s (State.latchHold s n v) := by
  unfold State.latchHold
  try dsimp only
  repeat' (first
    | with_reducible exact Calm.refl _
    | with_reducible apply Calm.trans ?_ (State.modBell_calm ..)
    | split)

theorem State.armIfReady_calm (s : State) (n : Fin 16) (v : Val) : Calm s (State.armIfReady s n v) := by
  unfold State.armIfReady
  try dsimp only
  repeat' (first
    | with_reducible exact Calm.refl _
    | with_reducible apply Calm.trans ?_ (State.bringIntoForce_calm ..)
    | with_reducible apply Calm.trans ?_ (State.relink_calm ..)
    | with_reducible apply Calm.trans ?_ (State.modBell_calm ..)
    | with_reducible apply Calm.trans ?_ (State.happen_calm ..)
    | split)

theorem State.countHold_calm (s : State) (n : Fin 16) (c : Conds) (v : Val) : Calm s (State.countHold s n c v) := by
  unfold State.countHold
  try dsimp only
  repeat' (first
    | with_reducible exact Calm.refl _
    | with_reducible apply Calm.trans ?_ (State.modBell_calm ..)
    | split)

theorem State.bellPhase_calm (s : State) (n : Fin 16) (c : Conds) (v : Val) (forced : List Forced) (armedNow trig last : Bool) :
    Calm s (match (s.bell n).phase with
      | .armed =>
        let (c, s) := if armedNow then s.enter n c v 0 0 true else (c, s)
        s.armedSample n c v forced last
      | .hold =>
        let short := s.prefillShort n v
        let s := if trig && short && (s.bell n).holdWord = 0 then s.ignoreTrigger n else s
        match forced with
        | [] => (c, s)
        | f :: fs =>
          (c, if short then forced.foldl (fun s _ => s.ignoreTrigger n) s
            else fs.foldl (fun s _ => s.ignoreTrigger n) (s.acceptForced n c v f))
      | p =>
        let s := if trig && (p == Phase.post || p == Phase.rearm) then s.ignoreTrigger n else s
        (c, forced.foldl (fun s _ => s.ignoreTrigger n) s)).2 := by
  have hi : ∀ (l : List Forced) (t : State), Calm t (l.foldl (fun s _ => s.ignoreTrigger n) t) :=
    fun l t => Calm.foldl (.refl _) fun t k => State.ignoreTrigger_calm ..
  have hg : ∀ (p : Bool), Calm s (if p then s.ignoreTrigger n else s) := fun p => Calm.ite (State.ignoreTrigger_calm ..) (.refl _)
  split
  · split
    rename_i c1 s1 e
    refine Calm.trans ?_ (State.armedSample_calm ..)
    split at e
    · exact Calm.of_snd (State.enter_calm ..) e
    · exact Calm.of_snd (p := (c, s)) (.refl _) e
  · extract_lets short s1
    have h1 : Calm s s1 := Calm.ite (State.ignoreTrigger_calm ..) (.refl _)
    split
    · exact h1
    · exact Calm.ite (h1.trans (hi _ _)) ((h1.trans (State.acceptForced_calm ..)).trans (hi _ _))
  · exact (Calm.ite (State.ignoreTrigger_calm ..) (.refl _)).trans (hi _ _)

theorem State.bellSample_calm (s : State) (n : Fin 16) (v : Val) (last : Bool) : Calm s (State.bellSample s n v last) := by
  unfold State.bellSample
  extract_lets s1 post s2 armedNow
  have h1 : Calm s s1 := State.modBell_calm ..
  refine Calm.ite h1 ?_
  have h2 : Calm s s2 := ((h1.trans (State.latchHold_calm ..)).trans (State.beginBuffer_calm ..)).trans (State.armIfReady_calm ..)
  split
  rename_i c3 s3 e3
  have h3 : Calm s s3 := Calm.of_snd (h2.trans (State.formConds_calm ..)) e3
  extract_lets forced s4 trig
  have h4 : Calm s s4 := h3.trans (State.modBell_calm ..)
  split
  rename_i c5 s5 e5
  have h5 : Calm s s5 := Calm.of_snd (h4.trans (State.bellPhase_calm s4 n c3 v forced armedNow trig last)) e5
  extract_lets s6 ends s7
  have h6 : Calm s s6 := h5.trans (State.countHold_calm ..)
  have h7 : Calm s s7 := Calm.ite (h6.trans (State.endSegment_calm ..)) h6
  exact h7.trans (State.modBell_calm ..)

theorem State.evalNext_calm (s : State) (n : Fin 16) : Calm s (State.evalNext s n) := by
  unfold State.evalNext
  try dsimp only
  repeat' (first
    | with_reducible exact Calm.refl _
    | with_reducible apply Calm.trans ?_ (State.modBell_calm ..)
    | with_reducible apply Calm.trans ?_ (State.bellSample_calm ..)
    | with_reducible apply Calm.trans ?_ (State.notePast_calm ..)
    | split)

theorem State.evalMany_calm (n : Fin 16) (k : Nat) (s : State) : Calm s (s.evalMany n k) := by
  induction k generalizing s with
  | zero => exact .refl _
  | succ k ih =>
    have h : Calm s (s.evalNext n) := State.evalNext_calm ..
    exact Calm.ite h (h.trans (ih _))

theorem State.scanFor_calm (n : Fin 16) (h : Happening) (k : Nat) (s : State) : Calm s ((s.scanFor n h k).getD s) := by
  suffices H : ∀ t, s.scanFor n h k = some t → Calm s t by
    cases e : s.scanFor n h k with
    | none => exact .refl _
    | some t => exact H t e
  induction k generalizing s with
  | zero => intro t e; cases e
  | succ k ih =>
    intro t e
    unfold State.scanFor at e
    dsimp only at e
    split at e
    · cases e; exact State.evalNext_calm ..
    · split at e
      · cases e
      · exact (State.evalNext_calm ..).trans (ih _ t e)

theorem State.reportBell_calm (s : State) (n : Fin 16) (h : Happening) : Calm s (State.reportBell s n h) :=
  State.scanFor_calm ..

theorem State.evalDue_calm (s : State) : Calm s (State.evalDue s) := Calm.foldl (.refl _) fun _ _ => State.evalMany_calm ..

theorem State.offerOutside_calm (s : State) (n : Fin 16) (o : Outside) : Calm s (State.offerOutside s n o) := by
  unfold State.offerOutside
  try dsimp only
  repeat' (first
    | with_reducible exact Calm.refl _
    | with_reducible apply Calm.trans ?_ (State.modBell_calm ..)
    | split)

theorem State.offerAll_calm (s : State) (o : Outside) : Calm s (State.offerAll s o) := by
  unfold State.offerAll
  try dsimp only
  repeat' (first
    | with_reducible exact Calm.refl _
    | with_reducible apply Calm.trans ?_ (State.offerOutside_calm ..)
    | with_reducible apply Calm.foldl
    | (intro _ _; try dsimp only))

theorem trigInEdge_calm (pin : Fin 4) (level : Bool) (stamp : Nat) (s : State) : Calm s (trigInEdge pin level stamp s) := by
  unfold trigInEdge
  try dsimp only
  repeat' (first
    | with_reducible exact Calm.refl _
    | with_reducible apply Calm.trans ?_ (State.offerAll_calm ..)
    | split
    | (simp only [Calm.written]; with_reducible refine CalmMk.put (fun h => h) ?_))

theorem State.receiveCry_calm (s : State) (ch : Nat) : Calm s (State.receiveCry s ch) := by
  unfold State.receiveCry
  try dsimp only
  repeat' (first
    | with_reducible exact Calm.refl _
    | with_reducible apply Calm.trans ?_ (State.offerAll_calm ..))

theorem State.launchByBell_calm (s : State) (k : Fin 64) (chron pos : Rat) : Calm s (State.launchByBell s k chron pos) := by
  unfold State.launchByBell
  try dsimp only
  repeat' (first
    | with_reducible exact Calm.refl _
    | with_reducible apply Calm.trans ?_ (State.armSlot_calm ..))

theorem State.modCrier_calm (s : State) (f : Crier → Crier) : Calm s (State.modCrier s f) := by
  unfold State.modCrier
  try dsimp only
  repeat' (first
    | with_reducible exact Calm.refl _
    | (simp only [Calm.written]; with_reducible refine CalmMk.put (fun h => h) ?_))

theorem State.modPortC_calm (s : State) (p : Fin 4) (f : CrierPort → CrierPort) : Calm s (State.modPortC s p f) := by
  unfold State.modPortC
  try dsimp only
  repeat' (first
    | with_reducible exact Calm.refl _
    | with_reducible apply Calm.trans ?_ (State.modCrier_calm ..))

theorem State.judgeLead_calm (s : State) : Calm s (State.judgeLead s) := by
  unfold State.judgeLead
  try dsimp only
  repeat' (first
    | with_reducible exact Calm.refl _
    | with_reducible apply Calm.trans ?_ (State.modCrier_calm ..)
    | with_reducible apply Calm.trans ?_ (State.toll_calm ..)
    | with_reducible apply Calm.trans ?_ (State.attention_calm ..)
    | split)

theorem State.leaveUp_calm (s : State) (p : Fin 4) : Calm s (State.leaveUp s p) := by
  unfold State.leaveUp
  try dsimp only
  repeat' (first
    | with_reducible exact Calm.refl _
    | with_reducible apply Calm.trans ?_ (State.toll_calm ..)
    | with_reducible apply Calm.trans ?_ (State.modPortC_calm ..)
    | split)

theorem State.dropPort_calm (s : State) (p : Fin 4) (next : PortState) : Calm s (State.dropPort s p next) := by
  unfold State.dropPort
  try dsimp only
  repeat' (first
    | with_reducible exact Calm.refl _
    | with_reducible apply Calm.trans ?_ (State.leaveUp_calm ..)
    | with_reducible apply Calm.trans ?_ (State.modPortC_calm ..)
    | with_reducible apply Calm.trans ?_ (State.modCrier_calm ..)
    | split)

theorem State.startCrier_calm (s : State) : Calm s (State.startCrier s) := by
  unfold State.startCrier
  try dsimp only
  repeat' (first
    | with_reducible exact Calm.refl _
    | with_reducible apply Calm.trans ?_ (State.modPortC_calm ..)
    | with_reducible apply Calm.trans ?_ (State.judgeLead_calm ..)
    | with_reducible apply Calm.foldl
    | (intro _ _; try dsimp only)
    | split)

theorem State.stopCrier_calm (s : State) : Calm s (State.stopCrier s) := by
  unfold State.stopCrier
  try dsimp only
  repeat' (first
    | with_reducible exact Calm.refl _
    | with_reducible apply Calm.trans ?_ (State.dropPort_calm ..)
    | with_reducible apply Calm.trans ?_ (State.modCrier_calm ..)
    | with_reducible apply Calm.foldl
    | (intro _ _; try dsimp only))

theorem State.discardFrames_calm (s : State) (p : Fin 4) (n : Nat) : Calm s (State.discardFrames s p n) := by
  unfold State.discardFrames
  try dsimp only
  repeat' (first
    | with_reducible exact Calm.refl _
    | with_reducible apply Calm.trans ?_ (State.modPortC_calm ..)
    | with_reducible apply Calm.trans ?_ (State.toll_calm ..))

theorem State.receiveFrame_calm (s : State) (p : Fin 4) (type : Nat) (f : CrierFrame) (act : State → State) (ha : ∀ t, Calm t (act t)) :
    Calm s (State.receiveFrame s p type f act) := by
  unfold State.receiveFrame
  exact Calm.ite (.refl _) (Calm.ite (State.discardFrames_calm ..) (Calm.ite (ha _) (.refl _)))

theorem portSync_calm (p : Fin 4) (s : State) : Calm s (portSync p s) := by
  unfold portSync
  try dsimp only
  repeat' (first
    | with_reducible exact Calm.refl _
    | with_reducible apply Calm.trans ?_ (State.modPortC_calm ..)
    | with_reducible apply Calm.trans ?_ (State.modCrier_calm ..)
    | split)

theorem State.portUp_calm (s : State) (p : Fin 4) : Calm s (State.portUp s p) := by
  unfold State.portUp
  try dsimp only
  repeat' (first
    | with_reducible exact Calm.refl _
    | with_reducible apply Calm.trans ?_ (State.modPortC_calm ..)
    | with_reducible apply Calm.trans ?_ (State.modCrier_calm ..)
    | split)

theorem State.takePlace_calm (s : State) (w : Quad) : Calm s (State.takePlace s w) := by
  unfold State.takePlace
  try dsimp only
  repeat' (first
    | with_reducible exact Calm.refl _
    | with_reducible apply Calm.trans ?_ (State.modCrier_calm ..))

theorem State.takeIdle_calm (s : State) (p : Fin 4) (w : Quad) : Calm s (State.takeIdle s p w) := by
  unfold State.takeIdle
  try dsimp only
  repeat' (first
    | with_reducible exact Calm.refl _
    | with_reducible apply Calm.trans ?_ (State.modPortC_calm ..)
    | with_reducible apply Calm.trans ?_ (State.tollIf_calm ..)
    | with_reducible apply Calm.trans ?_ (State.takePlace_calm ..)
    | with_reducible apply Calm.trans ?_ (State.portUp_calm ..)
    | split)

theorem idleFrame_calm (p : Fin 4) (f : CrierFrame) (s : State) : Calm s (idleFrame p f s) := by
  unfold idleFrame
  try dsimp only
  repeat' (first
    | with_reducible exact Calm.refl _
    | with_reducible apply Calm.trans ?_ (State.receiveFrame_calm ..)
    | with_reducible apply Calm.trans ?_ (State.takeIdle_calm ..)
    | (intro _; try dsimp only))

theorem State.takeTally_calm (s : State) (f : CrierFrame) : Calm s (State.takeTally s f) := by
  unfold State.takeTally
  try dsimp only
  repeat' (first
    | with_reducible exact Calm.refl _
    | with_reducible apply Calm.trans ?_ (State.modCrier_calm ..)
    | with_reducible apply Calm.trans ?_ (State.judgeLead_calm ..)
    | with_reducible apply Calm.trans ?_ (State.crierMeas_calm ..)
    | split)

theorem State.undoLoss_calm (s : State) (p : Fin 4) (f : CrierFrame) : Calm s (State.undoLoss s p f) := by
  unfold State.undoLoss
  try dsimp only
  repeat' (first
    | with_reducible exact Calm.refl _
    | with_reducible apply Calm.trans ?_ (State.modCrier_calm ..)
    | with_reducible apply Calm.trans ?_ (State.untollAll_calm ..)
    | split
    | (simp only [Calm.written]; with_reducible refine CalmMk.put (fun h => h) ?_))

theorem tallyFrame_calm (p : Fin 4) (f : CrierFrame) (s : State) : Calm s (tallyFrame p f s) := by
  unfold tallyFrame
  try dsimp only
  repeat' (first
    | with_reducible exact Calm.refl _
    | with_reducible apply Calm.trans ?_ (State.undoLoss_calm ..)
    | with_reducible apply Calm.trans ?_ (State.receiveFrame_calm ..)
    | with_reducible apply Calm.trans ?_ (State.takeTally_calm ..)
    | (intro _; try dsimp only)
    | split)

theorem State.queueForward_calm (s : State) (p : Fin 4) (pair : Quad × Quad) : Calm s (State.queueForward s p pair) := by
  unfold State.queueForward
  try dsimp only
  repeat' (first
    | with_reducible exact Calm.refl _
    | with_reducible apply Calm.trans ?_ (State.modPortC_calm ..)
    | with_reducible apply Calm.trans ?_ (State.toll_calm ..)
    | split)

theorem State.forwardPair_calm (s : State) (p : Fin 4) (pair : Quad × Quad) : Calm s (State.forwardPair s p pair) := by
  unfold State.forwardPair
  try dsimp only
  repeat' (first
    | with_reducible exact Calm.refl _
    | with_reducible apply Calm.trans ?_ (State.queueForward_calm ..)
    | with_reducible apply Calm.foldl
    | (intro _ _; try dsimp only)
    | split)

theorem State.queueOwn_calm (s : State) (p : Fin 4) (launch : Bool) (pair : Quad × Quad) : Calm s (State.queueOwn s p launch pair) := by
  unfold State.queueOwn
  try dsimp only
  repeat' (first
    | with_reducible exact Calm.refl _
    | with_reducible apply Calm.trans ?_ (State.modPortC_calm ..)
    | with_reducible apply Calm.trans ?_ (State.toll_calm ..)
    | split)

theorem State.originate_calm (s : State) (launch : Bool) (pair : Quad × Quad) : Calm s (State.originate s launch pair) := by
  unfold State.originate
  try dsimp only
  repeat' (first
    | with_reducible exact Calm.refl _
    | with_reducible apply Calm.trans ?_ (State.queueOwn_calm ..)
    | with_reducible apply Calm.foldl
    | (intro _ _; try dsimp only)
    | split)

theorem State.receivePair_calm (s : State) (p : Fin 4) (ta tb : Nat) (a b : CrierFrame) (act : State → State) (ha : ∀ t, Calm t (act t)) :
    Calm s (State.receivePair s p ta tb a b act) := by
  unfold State.receivePair
  exact Calm.ite (.refl _) (Calm.ite (State.discardFrames_calm ..) (Calm.ite (ha _) (.refl _)))

theorem cryPair_calm (p : Fin 4) (a b : CrierFrame) (s : State) : Calm s (cryPair p a b s) := by
  unfold cryPair
  try dsimp only
  repeat' (first
    | with_reducible exact Calm.refl _
    | with_reducible apply Calm.trans ?_ (State.receivePair_calm ..)
    | with_reducible apply Calm.trans ?_ (State.receiveCry_calm ..)
    | with_reducible apply Calm.trans ?_ (State.forwardPair_calm ..)
    | (intro _; try dsimp only))

theorem State.cryOut_calm (s : State) (ch : Nat) (chron pos : Rat) : Calm s (State.cryOut s ch chron pos) := by
  unfold State.cryOut
  try dsimp only
  repeat' (first
    | with_reducible exact Calm.refl _
    | with_reducible apply Calm.trans ?_ (State.originate_calm ..)
    | with_reducible apply Calm.trans ?_ (State.receiveCry_calm ..)
    | split)

theorem State.applyDecision_calm (s : State) (n : Fin 16) (d : Decision) : Calm s (s.applyDecision n d) := by
  cases d with
  | trigger i =>
    exact Calm.foldl (State.modStall_calm ..) fun t m => Calm.ite (State.offerOutside_calm ..) (.refl _)
  | launch k c p => exact State.launchByBell_calm ..
  | cry ch c p => exact .refl _

theorem State.settleDecision_calm (s : State) (n : Fin 16) (d : Decision) : Calm s (State.settleDecision s n d) := by
  unfold State.settleDecision
  split
  · exact State.cryOut_calm ..
  · exact State.applyDecision_calm ..

theorem State.nextDecision_calm (s : State) (n : Fin 16) : Calm s (State.nextDecision s n) := by
  unfold State.nextDecision
  try dsimp only
  repeat' (first
    | with_reducible exact Calm.refl _
    | with_reducible apply Calm.trans ?_ (State.modBell_calm ..)
    | with_reducible apply Calm.trans ?_ (State.settleDecision_calm ..)
    | split)

theorem State.armEntry_calm (s : State) (a b : Quad) : Calm s (State.armEntry s a b) := by
  unfold State.armEntry
  try dsimp only
  repeat' (first
    | with_reducible exact Calm.refl _
    | with_reducible apply Calm.trans ?_ (State.toll_calm ..)
    | with_reducible apply Calm.trans ?_ (State.modCrier_calm ..)
    | split)

theorem launchPair_calm (p : Fin 4) (a b : CrierFrame) (s : State) : Calm s (launchPair p a b s) := by
  unfold launchPair
  try dsimp only
  repeat' (first
    | with_reducible exact Calm.refl _
    | with_reducible apply Calm.trans ?_ (State.receivePair_calm ..)
    | with_reducible apply Calm.trans ?_ (State.armEntry_calm ..)
    | with_reducible apply Calm.trans ?_ (State.forwardPair_calm ..)
    | (intro _; try dsimp only)
    | split)

theorem State.launchOut_calm (s : State) (act : Action) : Calm s (State.launchOut s act) := by
  unfold State.launchOut
  try dsimp only
  repeat' (first
    | with_reducible exact Calm.refl _
    | with_reducible apply Calm.trans ?_ (State.originate_calm ..)
    | with_reducible apply Calm.trans ?_ (State.armEntry_calm ..)
    | split)

theorem State.setEntry_calm (s : State) (e : Fin 16) (r : Option RxEntry) : Calm s (State.setEntry s e r) := by
  unfold State.setEntry
  try dsimp only
  repeat' (first
    | with_reducible exact Calm.refl _
    | with_reducible apply Calm.trans ?_ (State.modCrier_calm ..))

theorem State.fireEntry_calm (s : State) (e : Fin 16) (r : RxEntry) (c : Crossed) : Calm s (State.fireEntry s e r c) := by
  unfold State.fireEntry
  try dsimp only
  repeat' (first
    | with_reducible exact Calm.refl _
    | with_reducible apply Calm.trans ?_ (State.setEntry_calm ..)
    | with_reducible apply Calm.trans ?_ (State.toll_calm ..)
    | with_reducible apply Calm.trans ?_ (State.logLate_calm ..)
    | split
    | (simp only [Calm.written]; with_reducible refine CalmMk.put (fun h => h) ?_))

theorem State.fireEntryIfCrossed_calm (s : State) (t : Tally) (e : Fin 16) : Calm s (State.fireEntryIfCrossed s t e) := by
  unfold State.fireEntryIfCrossed
  try dsimp only
  repeat' (first
    | with_reducible exact Calm.refl _
    | with_reducible apply Calm.trans ?_ (State.fireEntry_calm ..)
    | split)

theorem entryFire_calm (e : Fin 16) (s : State) : Calm s (entryFire e s) := by
  unfold entryFire
  try dsimp only
  repeat' (first
    | with_reducible exact Calm.refl _
    | with_reducible apply Calm.trans ?_ (State.fireEntryIfCrossed_calm ..))

theorem State.closeEntries_calm (s : State) : Calm s (State.closeEntries s) := by
  unfold State.closeEntries
  try dsimp only
  repeat' (first
    | with_reducible exact Calm.refl _
    | with_reducible apply Calm.trans ?_ (State.fireEntryIfCrossed_calm ..)
    | with_reducible apply Calm.trans ?_ (State.modCrier_calm ..)
    | with_reducible apply Calm.foldl
    | (intro _ _; try dsimp only))

theorem State.openEntries_calm (s : State) : Calm s (State.openEntries s) := by
  unfold State.openEntries
  try dsimp only
  repeat' (first
    | with_reducible exact Calm.refl _
    | with_reducible apply Calm.trans ?_ (State.fireEntry_calm ..)
    | with_reducible apply Calm.trans ?_ (State.setEntry_calm ..)
    | with_reducible apply Calm.foldl
    | (intro _ _; try dsimp only)
    | split)

theorem delayRequest_calm (p : Fin 4) (f : CrierFrame) (s : State) : Calm s (delayRequest p f s) := by
  unfold delayRequest
  try dsimp only
  repeat' (first
    | with_reducible exact Calm.refl _
    | with_reducible apply Calm.trans ?_ (State.receiveFrame_calm ..)
    | with_reducible apply Calm.trans ?_ (State.modPortC_calm ..)
    | (intro _; try dsimp only)
    | split)

theorem State.hopSample_calm (s : State) (d : Rat) : Calm s (State.hopSample s d) := by
  unfold State.hopSample
  try dsimp only
  repeat' (first
    | with_reducible exact Calm.refl _
    | with_reducible apply Calm.trans ?_ (State.modCrier_calm ..)
    | with_reducible apply Calm.trans ?_ (State.judgeLead_calm ..)
    | with_reducible apply Calm.trans ?_ (State.portUp_calm ..)
    | with_reducible apply Calm.trans ?_ (State.toll_calm ..)
    | split)

theorem State.useResponse_calm (s : State) (f : CrierFrame) (d1 : Nat) : Calm s (State.useResponse s f d1) := by
  unfold State.useResponse
  try dsimp only
  repeat' (first
    | with_reducible exact Calm.refl _
    | with_reducible apply Calm.trans ?_ (State.modCrier_calm ..)
    | with_reducible apply Calm.trans ?_ (State.judgeLead_calm ..)
    | with_reducible apply Calm.trans ?_ (State.hopSample_calm ..))

theorem State.takeResponse_calm (s : State) (f : CrierFrame) : Calm s (State.takeResponse s f) := by
  unfold State.takeResponse
  try dsimp only
  repeat' (first
    | with_reducible exact Calm.refl _
    | with_reducible apply Calm.trans ?_ (State.modCrier_calm ..)
    | with_reducible apply Calm.trans ?_ (State.useResponse_calm ..)
    | with_reducible apply Calm.trans ?_ (State.untoll_calm ..)
    | split
    | (simp only [Calm.written]; with_reducible refine CalmMk.put (fun h => h) ?_))

theorem delayResponse_calm (p : Fin 4) (f : CrierFrame) (s : State) : Calm s (delayResponse p f s) := by
  unfold delayResponse
  try dsimp only
  repeat' (first
    | with_reducible exact Calm.refl _
    | with_reducible apply Calm.trans ?_ (State.receiveFrame_calm ..)
    | with_reducible apply Calm.trans ?_ (State.takeResponse_calm ..)
    | (intro _; try dsimp only)
    | split)

theorem delayDue_calm (s : State) : Calm s (delayDue s) := by
  unfold delayDue
  try dsimp only
  repeat' (first
    | with_reducible exact Calm.refl _
    | with_reducible apply Calm.trans ?_ (State.modPortC_calm ..)
    | with_reducible apply Calm.trans ?_ (State.modCrier_calm ..)
    | split)

theorem delayUnanswered_calm (s : State) : Calm s (delayUnanswered s) := by
  unfold delayUnanswered
  try dsimp only
  repeat' (first
    | with_reducible exact Calm.refl _
    | with_reducible apply Calm.trans ?_ (State.modCrier_calm ..)
    | with_reducible apply Calm.trans ?_ (State.toll_calm ..)
    | split
    | (simp only [Calm.written]; with_reducible refine CalmMk.put (fun h => h) ?_))

theorem linkLoss_calm (p : Fin 4) (commas : Bool) (s : State) : Calm s (linkLoss p commas s) := by
  unfold linkLoss
  try dsimp only
  repeat' (first
    | with_reducible exact Calm.refl _
    | with_reducible apply Calm.trans ?_ (State.dropPort_calm ..)
    | split
    | (simp only [Calm.written]; with_reducible refine CalmMk.put (fun h => h) ?_))

theorem State.sendPair_calm (s : State) (p : Fin 4) (pair : Quad × Quad) : Calm s (State.sendPair s p pair) := by
  unfold State.sendPair
  try dsimp only
  repeat' (first
    | with_reducible exact Calm.refl _
    | with_reducible apply Calm.trans ?_ (State.modPortC_calm ..))

theorem State.sendDelay_calm (s : State) (p : Fin 4) (c0 : Nat) (w : Quad) : Calm s (State.sendDelay s p c0 w) := by
  unfold State.sendDelay
  try dsimp only
  repeat' (first
    | with_reducible exact Calm.refl _
    | with_reducible apply Calm.trans ?_ (State.modPortC_calm ..))

theorem State.fillSlots_calm (s : State) (p : Fin 4) (c0 : Nat) : Calm s (State.fillSlots s p c0) := by
  unfold State.fillSlots
  try dsimp only
  repeat' (first
    | with_reducible exact Calm.refl _
    | with_reducible apply Calm.trans ?_ (State.modPortC_calm ..)
    | with_reducible apply Calm.trans ?_ (State.sendPair_calm ..)
    | with_reducible apply Calm.trans ?_ (State.sendDelay_calm ..)
    | with_reducible apply Calm.trans ?_ (State.modCrier_calm ..)
    | split)

theorem State.fillSlot0_calm (s : State) (p : Fin 4) (c0 : Nat) : Calm s (State.fillSlot0 s p c0) := by
  unfold State.fillSlot0
  try dsimp only
  repeat' (first
    | with_reducible exact Calm.refl _
    | with_reducible apply Calm.trans ?_ (State.modPortC_calm ..)
    | with_reducible apply Calm.trans ?_ (State.modCrier_calm ..)
    | with_reducible apply Calm.trans ?_ (State.judgeLead_calm ..)
    | split)

theorem transmitCycle_calm (p : Fin 4) (s : State) : Calm s (transmitCycle p s) := by
  unfold transmitCycle
  try dsimp only
  repeat' (first
    | with_reducible exact Calm.refl _
    | with_reducible apply Calm.trans ?_ (State.modPortC_calm ..)
    | with_reducible apply Calm.trans ?_ (State.fillSlot0_calm ..)
    | with_reducible apply Calm.trans ?_ (State.fillSlots_calm ..)
    | split)

theorem cryOfsRead_calm (s : State) : Calm s (cryOfsRead s) := by
  unfold cryOfsRead
  try dsimp only
  repeat' (first
    | with_reducible exact Calm.refl _
    | with_reducible apply Calm.trans ?_ (State.modCrier_calm ..))

end Sys2Proof.Machine
end

