-- ==== Sys2Proof/Laws/CalmRecords.lean ====
section
/-! SUPPORT. Frames: what every operation of the machine leaves alone (Hall, the maps, the Weighers, the records and the DRAM). -/

namespace Sys2Proof.Machine

set_option Elab.async false

theorem State.modYard_calm (s : State) (k : Fin 8) (f : Yard → Yard) : Calm s (State.modYard s k f) := by
  unfold State.modYard
  try dsimp only
  repeat' (first
    | with_reducible exact Calm.refl _
    | (simp only [Calm.written]; with_reducible refine CalmMk.put (fun h => h) ?_))

theorem State.hallAnswer_calm (s : State) (port : Nat) (w : BitVec 128) (error : Bool) (sat : BitVec 4) : Calm s (State.hallAnswer s port w error sat) := by
  unfold State.hallAnswer
  try dsimp only
  repeat' (first
    | with_reducible exact Calm.refl _
    | with_reducible apply Calm.trans ?_ (State.answer_calm ..)
    | (simp only [Calm.written]; with_reducible refine CalmMk.put (fun h => h) ?_))

theorem State.accessRefused_calm (s : State) (port a : Nat) : Calm s (State.accessRefused s port a) := by
  unfold State.accessRefused
  try dsimp only
  repeat' (first
    | with_reducible exact Calm.refl _
    | with_reducible apply Calm.trans ?_ (State.hallAnswer_calm ..)
    | with_reducible apply Calm.trans ?_ (State.toll_calm ..)
    | with_reducible apply Calm.trans ?_ (State.logEvent_calm ..))

theorem State.eccRecord_calm (s : State) (half : Nat) (uncorr : Bool) : Calm s (State.eccRecord s half uncorr) := by
  unfold State.eccRecord
  try dsimp only
  repeat' (first
    | with_reducible exact Calm.refl _
    | (simp only [Calm.written]; with_reducible refine CalmMk.put (fun h => h) ?_))

theorem State.markStaging_calm (s : State) (a flags : Nat) : Calm s (State.markStaging s a flags) := by
  unfold State.markStaging
  try dsimp only
  repeat' (first
    | with_reducible exact Calm.refl _
    | split
    | (simp only [Calm.written]; with_reducible refine CalmMk.put (fun h => h) ?_))

theorem State.eccFound_calm (s : State) (port half : Nat) (e : Ecc) : Calm s (State.eccFound s port half e) := by
  unfold State.eccFound
  extract_lets e h0 s1
  have h1 : Calm s s1 := ⟨rfl, rfl, rfl, id⟩
  have hm (a f : Nat) : Calm s (s1.markStaging a f) := h1.trans (State.markStaging_calm ..)
  split
  · refine (Calm.trans (t := { (s1.markStaging (half * 8) (2 ^ 9)) with hall := { s1.hall with
        bad := if s1.hall.bad.contains half then s1.hall.bad else s1.hall.bad ++ [half] } }) ?_
      (State.eccRecord_calm ..)).trans ((State.toll_calm ..).trans (State.logEvent_calm ..))
    exact ⟨(hm _ _).pending, (hm _ _).chron, (hm _ _).tolls, fun h => ⟨h.1, ((hm _ _).mems h).2⟩⟩
  · exact Calm.ite (((hm _ _).trans (State.eccRecord_calm ..)).trans (State.toll_calm ..)) h1

theorem State.eccWord_calm (s : State) (port a : Nat) (t0 t1 : Bool) (e0 e1 : Ecc) : Calm s (State.eccWord s port a t0 t1 e0 e1) := by
  unfold State.eccWord
  try dsimp only
  repeat' (first
    | with_reducible exact Calm.refl _
    | with_reducible apply Calm.trans ?_ (State.eccFound_calm ..)
    | split)

theorem State.copyWord_calm (s : State) (k : Fin 8) (i : Nat) : Calm s (State.copyWord s k i) := by
  unfold State.copyWord
  try dsimp only
  repeat' (first
    | with_reducible exact Calm.refl _
    | with_reducible apply Calm.trans ?_ (State.accessRefused_calm ..)
    | with_reducible apply Calm.trans ?_ (State.eccWord_calm ..)
    | with_reducible apply Calm.trans ?_ (State.draw_calm ..)
    | with_reducible apply Calm.trans ?_ (Calm.of_snd (State.draw_calm ..) (by assumption))
    | with_reducible apply Calm.trans ?_ (State.modYard_calm ..)
    | split)

theorem State.copyEarly_calm (s : State) (k : Fin 8) (i : Nat) : Calm s (State.copyEarly s k i) := by
  unfold State.copyEarly
  try dsimp only
  repeat' (first
    | with_reducible exact Calm.refl _
    | with_reducible apply Calm.trans ?_ (State.copyWord_calm ..)
    | with_reducible apply Calm.trans ?_ (State.modYard_calm ..)
    | split)

theorem State.copyFirst_calm (s : State) (a : Nat) : Calm s (State.copyFirst s a) := by
  unfold State.copyFirst
  try dsimp only
  repeat' (first
    | with_reducible exact Calm.refl _
    | with_reducible apply Calm.trans ?_ (State.copyEarly_calm ..)
    | with_reducible apply Calm.foldl
    | (intro _ _; try dsimp only)
    | split)

theorem hallRead_calm (port : Fin 26) (addr : BitVec 27) (e0 e1 : Ecc) (s : State) : Calm s (hallRead port addr e0 e1 s) := by
  unfold hallRead
  try dsimp only
  repeat' (first
    | with_reducible exact Calm.refl _
    | with_reducible apply Calm.trans ?_ (State.accessRefused_calm ..)
    | with_reducible apply Calm.trans ?_ (State.eccWord_calm ..)
    | with_reducible apply Calm.trans ?_ (State.hallAnswer_calm ..)
    | split)

theorem hallWrite_calm (port : Fin 26) (addr : BitVec 27) (h0 h1 : Bool) (w : BitVec 128) (s : State) : Calm s (hallWrite port addr h0 h1 w s) := by
  unfold hallWrite
  try dsimp only
  repeat' (first
    | with_reducible exact Calm.refl _
    | with_reducible apply Calm.trans ?_ (State.hallWrite_calm ..)
    | with_reducible apply Calm.trans ?_ (State.accessRefused_calm ..)
    | with_reducible apply Calm.trans ?_ (State.copyFirst_calm ..)
    | with_reducible apply Calm.trans ?_ (State.hallAnswer_calm ..)
    | split)

theorem State.putLanes_calm (s : State) (a : Nat) (mask : BitVec 4) (v : Nat → Nat) : Calm s (State.putLanes s a mask v) :=
  Calm.foldl (.refl _) fun _ _ => Calm.ite ⟨rfl, rfl, rfl, fun h => ⟨memWrite_wf h.1 _ _, h.2⟩⟩ (.refl _)

theorem State.laneAtomic_calm (s : State) (port a : Nat) (mask : BitVec 4) (ret : Bool) (e0 e1 : Ecc) (f : Nat → Nat → Nat × Bool) : Calm s (State.laneAtomic s port a mask ret e0 e1 f).1 := by
  unfold State.laneAtomic
  try dsimp only
  repeat' (first
    | with_reducible exact Calm.refl _
    | with_reducible apply Calm.trans ?_ (State.eccWord_calm ..)
    | with_reducible apply Calm.trans ?_ (State.hallAnswer_calm ..)
    | with_reducible apply Calm.trans ?_ (State.putLanes_calm ..)
    | with_reducible apply Calm.foldl
    | split)

theorem State.portLanes_calm (s : State) (port a : Nat) (mask : BitVec 4) (ret : Bool) (e0 e1 : Ecc) (f : Nat → Nat → Nat × Bool) : Calm s (State.portLanes s port a mask ret e0 e1 f).1 := by
  unfold State.portLanes
  try dsimp only
  repeat' (first
    | with_reducible exact Calm.refl _
    | with_reducible apply Calm.trans ?_ (State.accessRefused_calm ..)
    | with_reducible apply Calm.trans ?_ (State.copyFirst_calm ..)
    | with_reducible apply Calm.trans ?_ (State.laneAtomic_calm ..)
    | with_reducible apply Calm.trans ?_ (Calm.of_fst (State.laneAtomic_calm ..) (by assumption))
    | split)

theorem State.portAtomic_calm (s : State) (port : Fin 26) (addr : BitVec 27) (mask : BitVec 4) (ret : Bool) (e0 e1 : Ecc) (f : Nat → Nat → Nat × Bool) : Calm s (State.portAtomic s port addr mask ret e0 e1 f) := by
  unfold State.portAtomic
  try dsimp only
  repeat' (first
    | with_reducible exact Calm.refl _
    | with_reducible apply Calm.trans ?_ (State.portLanes_calm ..))

theorem State.setArb_calm (s : State) (i : Nat) (a : Arbiter) : Calm s (State.setArb s i a) := by
  unfold State.setArb
  try dsimp only
  repeat' (first
    | with_reducible exact Calm.refl _
    | (simp only [Calm.written]; with_reducible refine CalmMk.put (fun h => h) ?_))

theorem State.takeBank_calm (s : State) (port a : Nat) : Calm s (State.takeBank s port a) := by
  unfold State.takeBank
  try dsimp only
  repeat' (first
    | with_reducible exact Calm.refl _
    | with_reducible apply Calm.trans ?_ (State.setArb_calm ..)
    | (simp only [Calm.written]; with_reducible refine CalmMk.put (fun h => h) ?_))

theorem State.onBank_calm (s : State) (port a : Nat) (f : State → State) (hf : ∀ t, Calm t (f t)) : Calm s (s.onBank port a f) :=
  Calm.ite (hf _) (Calm.ite ((State.takeBank_calm ..).trans (hf _)) (.refl _))

theorem State.scrubBegin_calm (s : State) : Calm s (State.scrubBegin s) := by
  unfold State.scrubBegin
  try dsimp only
  repeat' (first
    | with_reducible exact Calm.refl _
    | with_reducible apply Calm.trans ?_ (scrubPeriod_calm ..)
    | (simp only [Calm.written]; with_reducible refine CalmMk.put (fun h => h) ?_))

theorem scrubStep_calm (e0 e1 : Ecc) (s : State) : Calm s (scrubStep e0 e1 s) := by
  unfold scrubStep
  try dsimp only
  repeat' (first
    | with_reducible exact Calm.refl _
    | with_reducible apply Calm.trans ?_ (State.takeBank_calm ..)
    | with_reducible apply Calm.trans ?_ (State.eccWord_calm ..)
    | with_reducible apply Calm.trans ?_ (State.scrubBegin_calm ..)
    | split
    | (simp only [Calm.written]; with_reducible refine CalmMk.put (fun h => h) ?_))

theorem scrubPeriod_calm (s : State) : Calm s (scrubPeriod s) := by
  unfold scrubPeriod
  try dsimp only
  repeat' (first
    | with_reducible exact Calm.refl _
    | with_reducible apply Calm.trans ?_ (State.toll_calm ..)
    | with_reducible apply Calm.trans ?_ (State.scrubBegin_calm ..)
    | split
    | (simp only [Calm.written]; with_reducible refine CalmMk.put (fun h => h) ?_))

theorem State.arbCycle_calm (s : State) (i : Nat) (parkAll done : Bool) (full : Nat → Bool) :
    Calm s (State.arbCycle s i parkAll done full) := by
  unfold State.arbCycle
  try dsimp only
  repeat' (first
    | with_reducible exact Calm.refl _
    | with_reducible apply Calm.trans ?_ (State.rejoin_calm ..)
    | with_reducible apply Calm.trans ?_ (State.setArb_calm ..)
    | with_reducible apply Calm.trans ?_ (State.tollMany_calm ..)
    | split)

theorem State.present_calm (s : State) (i port : Nat) (held : Bool) (work : List Nat) (background : Bool) :
    Calm s (State.present s i port held work background) := by
  unfold State.present
  try dsimp only
  repeat' (first
    | with_reducible exact Calm.refl _
    | with_reducible apply Calm.trans ?_ (State.setArb_calm ..)
    | with_reducible apply Calm.trans ?_ (State.tollIf_calm ..)
    | (simp only [Calm.written]; with_reducible refine CalmMk.put (fun h => h) ?_))

theorem State.resetPort_calm (s : State) (dram : Bool) (port : Nat) : Calm s (State.resetPort s dram port) := by
  unfold State.resetPort
  try dsimp only
  repeat' (first
    | with_reducible exact Calm.refl _
    | with_reducible apply Calm.trans ?_ (State.setArb_calm ..)
    | with_reducible apply Calm.trans ?_ (State.tollIf_calm ..)
    | with_reducible apply Calm.foldl
    | (intro _ _; try dsimp only))

theorem hallFreezeWrite_calm (j : Fin 8) (w : Word) (s : State) : Calm s (hallFreezeWrite j w s) := by
  unfold hallFreezeWrite
  try dsimp only
  repeat' (first
    | with_reducible exact Calm.refl _
    | with_reducible apply Calm.trans ?_ (State.toll_calm ..)
    | with_reducible apply Calm.trans ?_ (State.refuseWrite_calm ..)
    | with_reducible apply Calm.trans ?_ (State.setWritten_calm ..)
    | with_reducible apply Calm.trans ?_ (State.atNextTick_calm ..)
    | with_reducible apply Calm.trans ?_ (State.answer_calm ..)
    | split)

theorem dramFreezeWrite_calm (w : Word) (s : State) : Calm s (dramFreezeWrite w s) := by
  unfold dramFreezeWrite
  try dsimp only
  repeat' (first
    | with_reducible exact Calm.refl _
    | with_reducible apply Calm.trans ?_ (State.toll_calm ..)
    | with_reducible apply Calm.trans ?_ (State.refuseWrite_calm ..)
    | with_reducible apply Calm.trans ?_ (State.setWritten_calm ..)
    | with_reducible apply Calm.trans ?_ (State.atNextTick_calm ..)
    | with_reducible apply Calm.trans ?_ (State.answer_calm ..)
    | split)

theorem State.modSub_calm (s : State) (c : Fin 8) (f : Subchannel → Subchannel) : Calm s (State.modSub s c f) := by
  unfold State.modSub
  try dsimp only
  repeat' (first
    | with_reducible exact Calm.refl _
    | with_reducible apply Calm.trans ?_ (State.modDram_calm _ _ ?_)
    | with_reducible exact fun _ h => h)

theorem State.dramLog_calm (s : State) (addr symbol finder : Nat) (uncorr : Bool) : Calm s (State.dramLog s addr symbol finder uncorr) := by
  unfold State.dramLog
  try dsimp only
  repeat' (first
    | with_reducible exact Calm.refl _
    | with_reducible apply Calm.trans ?_ (State.modDram_calm _ _ ?_)
    | with_reducible exact fun _ h => h)

theorem State.askRewrite_calm (s : State) (n : Fin 16) (slot flags : Nat) : Calm s (State.askRewrite s n slot flags) := by
  unfold State.askRewrite
  try dsimp only
  repeat' (first
    | with_reducible exact Calm.refl _
    | with_reducible apply Calm.trans ?_ (State.modDram_calm _ _ ?_)
    | with_reducible apply Calm.trans ?_ (State.toll_calm ..)
    | with_reducible exact fun _ h => h
    | split)

theorem State.markSlot_calm (s : State) (a flags : Nat) : Calm s (State.markSlot s a flags) := by
  unfold State.markSlot
  try dsimp only
  repeat' (first
    | with_reducible exact Calm.refl _
    | with_reducible apply Calm.trans ?_ (State.modStall_calm ..)
    | with_reducible apply Calm.trans ?_ (State.askRewrite_calm ..)
    | split)

theorem State.leaveErrors_calm (s : State) (cw : Nat) (e : SymbolErrors) : Calm s (State.leaveErrors s cw e) := by
  unfold State.leaveErrors
  try dsimp only
  repeat' (first
    | with_reducible exact Calm.refl _
    | with_reducible apply Calm.trans ?_ (State.dramWrite_calm ..)
    | split)

theorem State.codewordFound_calm (s : State) (owner cw : Nat) (e : SymbolErrors) : Calm s (State.codewordFound s owner cw e) := by
  unfold State.codewordFound
  try dsimp only
  repeat' (first
    | with_reducible exact Calm.refl _
    | with_reducible apply Calm.trans ?_ (State.modDram_calm _ _ ?_)
    | with_reducible apply Calm.trans ?_ (State.toll_calm ..)
    | with_reducible apply Calm.trans ?_ (State.dramLog_calm ..)
    | with_reducible apply Calm.trans ?_ (State.markSlot_calm ..)
    | with_reducible apply Calm.trans ?_ (State.leaveErrors_calm ..)
    | with_reducible exact fun _ h => h
    | split)

theorem State.takeCycle_calm (s : State) (c : Fin 8) : Calm s (State.takeCycle s c) := by
  unfold State.takeCycle
  try dsimp only
  repeat' (first
    | with_reducible exact Calm.refl _
    | with_reducible apply Calm.trans ?_ (State.setArb_calm ..)
    | with_reducible apply Calm.trans ?_ (State.modSub_calm ..))

theorem State.presentDram_calm (s : State) (c : Fin 8) (owner : Nat) (held : Bool) (work : List Nat) (background : Bool) :
    Calm s (State.presentDram s c owner held work background) := by
  unfold State.presentDram
  try dsimp only
  repeat' (first
    | with_reducible exact Calm.refl _
    | with_reducible apply Calm.trans ?_ (State.present_calm ..)
    | with_reducible apply Calm.trans ?_ (State.modSub_calm ..)
    | with_reducible apply Calm.trans ?_ (State.toll_calm ..)
    | split)

theorem State.burstFound_calm (s : State) (owner cw : Nat) (found : Vector SymbolErrors 8) :
    Calm s (State.burstFound s owner cw found) := by
  unfold State.burstFound
  try dsimp only
  repeat' (first
    | with_reducible exact Calm.refl _
    | with_reducible apply Calm.trans ?_ (State.codewordFound_calm ..)
    | with_reducible apply Calm.trans ?_ (State.presentDram_calm ..)
    | with_reducible apply Calm.foldl
    | (intro _ _; try dsimp only)
    | split)

theorem State.readRecord_calm (s : State) (a n : Nat) : Calm s (State.readRecord s a n).2.2 := by
  unfold State.readRecord
  try dsimp only
  repeat' (first
    | with_reducible exact Calm.refl _
    | with_reducible apply Calm.trans ?_ (State.codewordFound_calm ..)
    | with_reducible apply Calm.foldl
    | (intro _ _; try dsimp only))

theorem State.modChan_calm (s : State) (n : Fin 16) (f : SieveChan → SieveChan) : Calm s (State.modChan s n f) := by
  unfold State.modChan
  try dsimp only
  repeat' (first
    | with_reducible exact Calm.refl _
    | (simp only [Calm.written]; with_reducible refine CalmMk.put (fun h => h) ?_))

theorem State.undoWrites_calm (s : State) (n : Fin 16) (bank : Bool) (tick : Nat) :
    Calm s (State.undoWrites s n bank tick) := by
  unfold State.undoWrites
  try dsimp only
  repeat' (first
    | with_reducible exact Calm.refl _
    | with_reducible apply Calm.trans ?_ (State.toll_calm ..)
    | with_reducible apply Calm.foldl
    | (intro _ _; try dsimp only)
    | (simp only [Calm.written]; with_reducible refine CalmMk.put (fun h => h) ?_))

theorem State.clampAt_calm (s : State) (tick toll : Nat) : Calm s (State.clampAt s tick toll) := by
  unfold State.clampAt
  try dsimp only
  repeat' (first
    | with_reducible exact Calm.refl _
    | with_reducible apply Calm.trans ?_ (State.toll_calm ..)
    | split
    | (simp only [Calm.written]; with_reducible refine CalmMk.put (fun h => h) ?_))

theorem State.clampTolls_calm (s : State) : Calm s (State.clampTolls s) := by
  unfold State.clampTolls
  try dsimp only
  repeat' (first
    | with_reducible exact Calm.refl _
    | with_reducible apply Calm.trans ?_ (State.toll_calm ..)
    | with_reducible apply Calm.foldl
    | (intro _ _; try dsimp only)
    | (simp only [Calm.written]; with_reducible refine CalmMk.put (fun h => h) ?_))

theorem State.sieveTake_calm (s : State) (n : Fin 16) (v : Val) (tick : Nat) : Calm s (State.sieveTake s n v tick) := by
  unfold State.sieveTake
  try dsimp only
  repeat' (first
    | with_reducible exact Calm.refl _
    | with_reducible apply Calm.trans ?_ (State.undoWrites_calm ..)
    | with_reducible apply Calm.trans ?_ (State.settle_calm ..)
    | with_reducible apply Calm.trans ?_ (Calm.of_snd (State.settle_calm ..) (by assumption))
    | with_reducible apply Calm.trans ?_ (State.modChan_calm ..)
    | with_reducible apply Calm.trans ?_ (State.clampAt_calm ..)
    | with_reducible apply Calm.foldl
    | (intro _ _; try dsimp only)
    | split
    | (simp only [Calm.written]; with_reducible refine CalmMk.put (fun h => h) ?_))

theorem sieveInput_calm (s : State) : Calm s (sieveInput s) := by
  unfold sieveInput
  try dsimp only
  repeat' (first
    | with_reducible exact Calm.refl _
    | with_reducible apply Calm.trans ?_ (State.sieveTake_calm ..)
    | split
    | (simp only [Calm.written]; with_reducible refine CalmMk.put (fun h => h) ?_))

theorem State.sieveMany_calm (k : Nat) (s : State) : Calm s (s.sieveMany k) := by
  induction k generalizing s with
  | zero => exact .refl _
  | succ k ih => exact (sieveInput_calm ..).trans (ih _)

theorem State.sieveDrain_calm (s : State) : Calm s (State.sieveDrain s) := State.sieveMany_calm ..

theorem State.stageOutput_calm (s : State) (n : Fin 16) (v : Val) : Calm s (State.stageOutput s n v) := by
  unfold State.stageOutput
  try dsimp only
  repeat' (first
    | with_reducible exact Calm.refl _
    | with_reducible apply Calm.trans ?_ (State.modStall_calm ..)
    | with_reducible apply Calm.trans ?_ (State.modChan_calm ..)
    | with_reducible apply Calm.trans ?_ (State.present_calm ..)
    | split)

theorem sieveRelease_calm (s : State) : Calm s (sieveRelease s) := by
  unfold sieveRelease
  try dsimp only
  repeat' (first
    | with_reducible exact Calm.refl _
    | with_reducible apply Calm.trans ?_ (State.stageOutput_calm ..)
    | split
    | (simp only [Calm.written]; with_reducible refine CalmMk.put (fun h => h) ?_))

theorem State.releaseDue_calm (s : State) : Calm s (State.releaseDue s) := by
  unfold State.releaseDue
  try dsimp only
  repeat' (first
    | with_reducible exact Calm.refl _
    | with_reducible apply Calm.trans ?_ (State.stageOutput_calm ..)
    | with_reducible apply Calm.foldl
    | (intro _ _; try dsimp only)
    | (simp only [Calm.written]; with_reducible refine CalmMk.put (fun h => h) ?_))

theorem bankRequest_calm (n : Fin 16) (w : Word) (s : State) : Calm s (bankRequest n w s) := by
  unfold bankRequest
  try dsimp only
  repeat' (first
    | with_reducible exact Calm.refl _
    | with_reducible apply Calm.trans ?_ (State.sieveDrain_calm ..)
    | with_reducible apply Calm.trans ?_ (State.toll_calm ..)
    | with_reducible apply Calm.trans ?_ (State.refuseWrite_calm ..)
    | with_reducible apply Calm.trans ?_ (State.setWritten_calm ..)
    | with_reducible apply Calm.trans ?_ (State.setForce_calm ..)
    | with_reducible apply Calm.trans ?_ (State.answer_calm ..)
    | with_reducible apply Calm.trans ?_ (State.modChan_calm ..)
    | with_reducible apply Calm.trans ?_ (State.tollIf_calm ..)
    | split)

theorem sivSync_calm (w : Word) (s : State) : Calm s (sivSync w s) := by
  unfold sivSync
  try dsimp only
  repeat' (first
    | with_reducible exact Calm.refl _
    | with_reducible apply Calm.trans ?_ (State.modChan_calm ..)
    | with_reducible apply Calm.trans ?_ (State.sieveDrain_calm ..)
    | with_reducible apply Calm.trans ?_ (State.answer_calm ..)
    | with_reducible apply Calm.foldl
    | (intro _ _; try dsimp only)
    | split)

theorem State.sieveAddrNext_calm (s : State) : Calm s (State.sieveAddrNext s) := by
  unfold State.sieveAddrNext
  try dsimp only
  repeat' (first
    | with_reducible exact Calm.refl _
    | with_reducible apply Calm.trans ?_ (State.setWritten_calm ..)
    | with_reducible apply Calm.trans ?_ (State.setForce_calm ..))

theorem sieveWindow_calm (write : Option Word) (s : State) : Calm s (sieveWindow write s) := by
  unfold sieveWindow
  try dsimp only
  repeat' (first
    | with_reducible exact Calm.refl _
    | with_reducible apply Calm.trans ?_ (State.sieveAddrNext_calm ..)
    | with_reducible apply Calm.trans ?_ (State.answer_calm ..)
    | with_reducible apply Calm.trans ?_ (State.sieveDrain_calm ..)
    | with_reducible apply Calm.trans ?_ (State.toll_calm ..)
    | with_reducible apply Calm.trans ?_ (State.refuseWrite_calm ..)
    | split
    | (simp only [Calm.written]; with_reducible refine CalmMk.put (fun h => h) ?_))

theorem State.yardAdd_calm (s : State) (addr mask : Nat) : Calm s (State.yardAdd s addr mask).1 := by
  unfold State.yardAdd
  try dsimp only
  repeat' (first
    | with_reducible exact Calm.refl _
    | with_reducible apply Calm.trans ?_ (State.portLanes_calm ..))

theorem State.mapAdd_calm (s : State) (k : Fin 8) (addr mask : Nat) : Calm s (State.mapAdd s k addr mask) := by
  unfold State.mapAdd
  try dsimp only
  repeat' (first
    | with_reducible exact Calm.refl _
    | with_reducible apply Calm.trans ?_ (State.yardAdd_calm ..)
    | with_reducible apply Calm.trans ?_ (Calm.of_fst (State.yardAdd_calm ..) (by assumption))
    | with_reducible apply Calm.trans ?_ (State.toll_calm ..)
    | split
    | (simp only [Calm.written]; with_reducible refine CalmMk.put (fun h => h) ?_))

theorem State.issueAdds_calm (s : State) (k : Fin 8) (n : Nat) : Calm s (s.issueAdds k n) := by
  induction n generalizing s with
  | zero => exact .refl _
  | succ n ih =>
    unfold State.issueAdds
    split
    · exact .refl _
    · exact Calm.ite (.refl _) ((((Calm.ite (State.takeBank_calm ..) (.refl _)).trans (State.modYard_calm ..)).trans
        (State.mapAdd_calm ..)).trans (ih _))

theorem yardRunAdd_calm (n : Fin 16) (s : State) : Calm s (yardRunAdd n s) := by
  unfold yardRunAdd
  split
  · exact ((State.modStall_calm ..).trans (State.modYard_calm ..)).trans (State.issueAdds_calm ..)
  · exact .refl _

theorem State.passWords_calm (s : State) (a n i : Nat) (f : State → Nat → State) (hf : ∀ t i, Calm t (f t i)) :
    Calm s (State.passWords s a n i f) :=
  Calm.ite (Calm.foldl (.refl _) hf) ((State.tollMany_calm ..).trans ⟨rfl, rfl, rfl, id⟩)

theorem State.clearWord_calm (s : State) (a i : Nat) : Calm s (State.clearWord s a i) := by
  unfold State.clearWord
  try dsimp only
  repeat' (first
    | with_reducible exact Calm.refl _
    | with_reducible apply Calm.trans ?_ (State.portLanes_calm ..))

theorem State.decayWord_calm (s : State) (k : Fin 8) (e a : Nat) : Calm s (State.decayWord s k e a) := by
  unfold State.decayWord
  try dsimp only
  repeat' (first
    | with_reducible exact Calm.refl _
    | with_reducible apply Calm.trans ?_ (State.accessRefused_calm ..)
    | with_reducible apply Calm.trans ?_ (State.eccWord_calm ..)
    | with_reducible apply Calm.trans ?_ (State.modYard_calm ..)
    | split)

theorem yardClear_calm (k : Fin 8) (s : State) : Calm s (yardClear k s) := by
  unfold yardClear
  try dsimp only
  repeat' (first
    | with_reducible exact Calm.refl _
    | with_reducible apply Calm.trans ?_ (State.modYard_calm ..)
    | with_reducible apply Calm.trans ?_ (State.answer_calm ..))

theorem clearDone_calm (k : Fin 8) (s : State) : Calm s (clearDone k s) := by
  unfold clearDone
  try dsimp only
  repeat' (first
    | with_reducible exact Calm.refl _
    | with_reducible apply Calm.trans ?_ (State.modYard_calm ..)
    | split)

theorem yardSnap_calm (k : Fin 8) (s : State) : Calm s (yardSnap k s) := by
  unfold yardSnap
  try dsimp only
  repeat' (first
    | with_reducible exact Calm.refl _
    | with_reducible apply Calm.trans ?_ (State.toll_calm ..)
    | with_reducible apply Calm.trans ?_ (State.modYard_calm ..)
    | with_reducible apply Calm.trans ?_ (State.answer_calm ..)
    | split)

theorem State.takeSnap_calm (s : State) (k : Fin 8) (chron pos : Quad) : Calm s (State.takeSnap s k chron pos) := by
  unfold State.takeSnap
  try dsimp only
  repeat' (first
    | with_reducible exact Calm.refl _
    | with_reducible apply Calm.trans ?_ (yardSnap_calm ..)
    | with_reducible apply Calm.trans ?_ (State.toll_calm ..)
    | with_reducible apply Calm.trans ?_ (State.modYard_calm ..)
    | split
    | (simp only [Calm.written]; with_reducible refine CalmMk.put (fun h => h) ?_))

theorem snapCopyDone_calm (k : Fin 8) (s : State) : Calm s (snapCopyDone k s) := by
  unfold snapCopyDone
  try dsimp only
  repeat' (first
    | with_reducible exact Calm.refl _
    | with_reducible apply Calm.trans ?_ (State.modYard_calm ..)
    | split)

theorem yardSnapRead_calm (k : Fin 8) (s : State) : Calm s (yardSnapRead k s) := by
  unfold yardSnapRead
  try dsimp only
  repeat' (first
    | with_reducible exact Calm.refl _
    | with_reducible apply Calm.trans ?_ (State.modYard_calm ..)
    | with_reducible apply Calm.trans ?_ (State.answer_calm ..))

theorem State.beginSweep_calm (s : State) (k : Fin 8) : Calm s (State.beginSweep s k) := by
  unfold State.beginSweep
  try dsimp only
  repeat' (first
    | with_reducible exact Calm.refl _
    | with_reducible apply Calm.trans ?_ (State.modYard_calm ..)
    | split)

theorem decayPeriod_calm (k : Fin 8) (s : State) : Calm s (decayPeriod k s) := by
  unfold decayPeriod
  try dsimp only
  repeat' (first
    | with_reducible exact Calm.refl _
    | with_reducible apply Calm.trans ?_ (State.bringIntoForce_calm ..)
    | with_reducible apply Calm.trans ?_ (State.modYard_calm ..)
    | with_reducible apply Calm.trans ?_ (State.beginSweep_calm ..)
    | split
    | (simp only [Calm.written]; with_reducible refine CalmMk.put (fun h => h) ?_))

theorem sweepDone_calm (k : Fin 8) (s : State) : Calm s (sweepDone k s) := by
  unfold sweepDone
  try dsimp only
  repeat' (first
    | with_reducible exact Calm.refl _
    | with_reducible apply Calm.trans ?_ (State.modYard_calm ..)
    | with_reducible apply Calm.trans ?_ (State.beginSweep_calm ..)
    | split
    | (simp only [Calm.written]; with_reducible refine CalmMk.put (fun h => h) ?_))

theorem State.makeOwed_calm (s : State) (x : YardAccess) : Calm s (State.makeOwed s x) := by
  unfold State.makeOwed
  try dsimp only
  repeat' (first
    | with_reducible exact Calm.refl _
    | with_reducible apply Calm.trans ?_ (State.hallWrite_calm ..)
    | with_reducible apply Calm.trans ?_ (hallWrite_calm ..)
    | with_reducible apply Calm.trans ?_ (State.accessRefused_calm ..)
    | with_reducible apply Calm.trans ?_ (State.portLanes_calm ..)
    | with_reducible apply Calm.trans ?_ (Calm.of_fst (State.portLanes_calm ..) (by assumption))
    | split)

theorem State.passPace_calm (s : State) (left : Nat) : Calm s (State.passPace s left).2 := by
  unfold State.passPace
  try dsimp only
  repeat' (first
    | with_reducible exact Calm.refl _
    | with_reducible apply Calm.trans ?_ (State.draw_calm ..)
    | with_reducible apply Calm.trans ?_ (Calm.of_snd (State.draw_calm ..) (by assumption))
    | split)

theorem State.visitClear_calm (s : State) (k : Fin 8) (i : Nat) : Calm s (State.visitClear s k i) := by
  unfold State.visitClear
  try dsimp only
  repeat' (first
    | with_reducible exact Calm.refl _
    | with_reducible apply Calm.trans ?_ (State.clearWord_calm ..)
    | with_reducible apply Calm.trans ?_ (State.modYard_calm ..))

theorem State.visitSweep_calm (s : State) (k : Fin 8) (i : Nat) : Calm s (State.visitSweep s k i) := by
  unfold State.visitSweep
  try dsimp only
  repeat' (first
    | with_reducible exact Calm.refl _
    | with_reducible apply Calm.trans ?_ (State.decayWord_calm ..)
    | with_reducible apply Calm.trans ?_ (State.modYard_calm ..))

theorem State.visitCopy_calm (s : State) (k : Fin 8) (i : Nat) : Calm s (State.visitCopy s k i) := by
  unfold State.visitCopy
  try dsimp only
  repeat' (first
    | with_reducible exact Calm.refl _
    | with_reducible apply Calm.trans ?_ (State.copyEarly_calm ..)
    | with_reducible apply Calm.trans ?_ (State.modYard_calm ..))

theorem State.passTick_calm (k : Fin 8) (at_ : Yard → Nat) (visit : State → Nat → State) (hv : ∀ t i, Calm t (visit t i)) (n : Nat)
    (s : State) : Calm s (s.passTick k at_ visit n) := by
  induction n generalizing s with
  | zero => exact .refl _
  | succ n ih =>
    unfold State.passTick
    exact Calm.ite ((hv _ _).trans (ih _)) (Calm.ite (((State.takeBank_calm ..).trans (hv _ _)).trans (ih _)) (.refl _))

theorem State.runPass_calm (s : State) (k : Fin 8) (on : Bool) (at_ : Yard → Nat) (visit : State → Nat → State)
    (hv : ∀ t i, Calm t (visit t i)) : Calm s (s.runPass k on at_ visit) := by
  unfold State.runPass
  exact Calm.ite ((State.passPace_calm ..).trans (State.passTick_calm _ _ _ hv _ _)) (.refl _)

theorem State.payOwed_calm (s : State) (k : Fin 8) (n : Nat) : Calm s (s.payOwed k n) := by
  induction n generalizing s with
  | zero => exact .refl _
  | succ n ih =>
    unfold State.payOwed
    split
    · exact .refl _
    · exact Calm.ite (.refl _) ((((Calm.ite (State.takeBank_calm ..) (.refl _)).trans (State.modYard_calm ..)).trans
        (State.makeOwed_calm ..)).trans (ih _))

theorem State.yardPasses_calm (s : State) (k : Fin 8) : Calm s (State.yardPasses s k) := by
  unfold State.yardPasses
  extract_lets s0 s1 s2
  have h0 : Calm s s0 := (Calm.ite (.refl _) (State.issueAdds_calm ..)).trans (State.payOwed_calm ..)
  have h1 : Calm s s1 := h0.trans (State.runPass_calm _ _ _ _ _ fun t i => State.visitClear_calm t k i)
  have h2 : Calm s s2 := h1.trans (State.runPass_calm _ _ _ _ _ fun t i => State.visitSweep_calm t k i)
  exact h2.trans (State.runPass_calm _ _ _ _ _ fun t i => State.visitCopy_calm t k i)

theorem State.drainYard_calm (s : State) (k : Fin 8) : Calm s (State.drainYard s k) := by
  unfold State.drainYard
  try dsimp only
  repeat' (first
    | with_reducible exact Calm.refl _
    | with_reducible apply Calm.trans ?_ (State.mapAdd_calm ..)
    | with_reducible apply Calm.trans ?_ (State.makeOwed_calm ..)
    | with_reducible apply Calm.trans ?_ (State.modYard_calm ..)
    | with_reducible apply Calm.foldl
    | (intro _ _; try dsimp only))

theorem State.closeYards_calm (s : State) (p q : Int) : Calm s (State.closeYards s p q) := by
  unfold State.closeYards
  try dsimp only
  repeat' (first
    | with_reducible exact Calm.refl _
    | with_reducible apply Calm.trans ?_ (State.yardPasses_calm ..)
    | with_reducible apply Calm.trans ?_ (State.toll_calm ..)
    | with_reducible apply Calm.trans ?_ (State.modYard_calm ..)
    | with_reducible apply Calm.foldl
    | (intro _ _; try dsimp only)
    | split)

theorem State.openYards_calm (s : State) : Calm s (State.openYards s) := by
  unfold State.openYards
  try dsimp only
  repeat' (first
    | with_reducible exact Calm.refl _
    | with_reducible apply Calm.trans ?_ (State.takeSnap_calm ..)
    | with_reducible apply Calm.trans ?_ (State.modYard_calm ..)
    | with_reducible apply Calm.foldl
    | (intro _ _; try dsimp only)
    | split)

theorem State.modWeigher_calm (s : State) (w : Fin 68) (f : Weigher → Weigher) : Calm s (State.modWeigher s w f) := by
  unfold State.modWeigher
  try dsimp only
  repeat' (first
    | with_reducible exact Calm.refl _
    | (simp only [Calm.written]; with_reducible refine CalmMk.put (fun h => h) ?_))

theorem State.spareCheck_calm (s : State) (old : Pool) : Calm s (State.spareCheck s old) := by
  unfold State.spareCheck
  try dsimp only
  repeat' (first
    | with_reducible exact Calm.refl _
    | with_reducible apply Calm.trans ?_ (State.attention_calm ..)
    | split)

theorem State.assignWeighers_calm (s : State) (n : Fin 16) (w : Nat) : Calm s (State.assignWeighers s n w) := by
  unfold State.assignWeighers
  try dsimp only
  repeat' (first
    | with_reducible exact Calm.refl _
    | with_reducible apply Calm.trans ?_ (State.modWeigher_calm ..)
    | with_reducible apply Calm.trans ?_ (State.spareCheck_calm ..)
    | with_reducible apply Calm.foldl
    | (intro _ _; try dsimp only)
    | split
    | (simp only [Calm.written]; with_reducible refine CalmMk.put (fun h => h) ?_))

theorem State.freeWeighers_calm (s : State) (n : Fin 16) : Calm s (State.freeWeighers s n) := by
  unfold State.freeWeighers
  try dsimp only
  repeat' (first
    | with_reducible exact Calm.refl _
    | split
    | (simp only [Calm.written]; with_reducible refine CalmMk.put (fun h => h) ?_))

theorem State.beginTest_calm (s : State) (w : Fin 68) : Calm s (State.beginTest s w) := by
  unfold State.beginTest
  try dsimp only
  repeat' (first
    | with_reducible exact Calm.refl _
    | with_reducible apply Calm.trans ?_ (State.modWeigher_calm ..)
    | (simp only [Calm.written]; with_reducible refine CalmMk.put (fun h => h) ?_))

theorem testPeriod_calm (s : State) : Calm s (testPeriod s) := by
  unfold testPeriod
  try dsimp only
  repeat' (first
    | with_reducible exact Calm.refl _
    | with_reducible apply Calm.trans ?_ (State.bringIntoForce_calm ..)
    | with_reducible apply Calm.trans ?_ (State.toll_calm ..)
    | with_reducible apply Calm.trans ?_ (State.beginTest_calm ..)
    | with_reducible apply Calm.trans ?_ (State.modWeigher_calm ..)
    | split
    | (simp only [Calm.written]; with_reducible refine CalmMk.put (fun h => h) ?_))

theorem migrationCopied_calm (s : State) : Calm s (migrationCopied s) := by
  unfold migrationCopied
  try dsimp only
  repeat' (first
    | with_reducible exact Calm.refl _
    | split
    | (simp only [Calm.written]; with_reducible refine CalmMk.put (fun h => h) ?_))

theorem State.blockBoundary_calm (s : State) (n : Fin 16) : Calm s (State.blockBoundary s n) := by
  unfold State.blockBoundary
  try dsimp only
  repeat' (first
    | with_reducible exact Calm.refl _
    | split
    | (simp only [Calm.written]; with_reducible refine CalmMk.put (fun h => h) ?_))

theorem migrationSwitch_calm (s : State) : Calm s (migrationSwitch s) := by
  unfold migrationSwitch
  try dsimp only
  repeat' (first
    | with_reducible exact Calm.refl _
    | with_reducible apply Calm.trans ?_ (State.modWeigher_calm ..)
    | with_reducible apply Calm.trans ?_ (State.beginTest_calm ..)
    | split
    | (simp only [Calm.written]; with_reducible refine CalmMk.put (fun h => h) ?_))

theorem testDone_calm (pass : Bool) (s : State) : Calm s (testDone pass s) := by
  unfold testDone
  try dsimp only
  repeat' (first
    | with_reducible exact Calm.refl _
    | with_reducible apply Calm.trans ?_ (State.modWeigher_calm ..)
    | with_reducible apply Calm.trans ?_ (State.toll_calm ..)
    | with_reducible apply Calm.trans ?_ (State.attention_calm ..)
    | with_reducible apply Calm.trans ?_ (State.spareCheck_calm ..)
    | split
    | (simp only [Calm.written]; with_reducible refine CalmMk.put (fun h => h) ?_))

theorem State.loseContainers_calm (s : State) (n : Fin 16) (share since : Nat) : Calm s (State.loseContainers s n share since) := by
  unfold State.loseContainers
  try dsimp only
  repeat' (first
    | with_reducible exact Calm.refl _
    | with_reducible apply Calm.trans ?_ (State.modStall_calm ..)
    | (simp only [Calm.written]; with_reducible refine CalmMk.put (fun h => h) ?_))

theorem State.resetWeigher_calm (s : State) (n : Fin 16) (moves : Bool) : Calm s (State.resetWeigher s n moves) := by
  unfold State.resetWeigher
  try dsimp only
  repeat' (first
    | with_reducible exact Calm.refl _
    | with_reducible apply Calm.trans ?_ (State.resetPort_calm ..)
    | split)

theorem weigherHang_calm (w : Fin 68) (s : State) : Calm s (weigherHang w s) := by
  unfold weigherHang
  try dsimp only
  repeat' (first
    | with_reducible exact Calm.refl _
    | with_reducible apply Calm.trans ?_ (State.resetWeigher_calm ..)
    | with_reducible apply Calm.trans ?_ (State.loseContainers_calm ..)
    | with_reducible apply Calm.trans ?_ (State.modWeigher_calm ..)
    | with_reducible apply Calm.trans ?_ (State.toll_calm ..)
    | with_reducible apply Calm.trans ?_ (State.logEvent_calm ..)
    | split
    | (simp only [Calm.written]; with_reducible refine CalmMk.put (fun h => h) ?_))

theorem hungRestart_calm (w : Fin 68) (s : State) : Calm s (hungRestart w s) := by
  unfold hungRestart
  try dsimp only
  repeat' (first
    | with_reducible exact Calm.refl _
    | with_reducible apply Calm.trans ?_ (State.modStall_calm ..)
    | with_reducible apply Calm.trans ?_ (State.tollIf_calm ..)
    | split
    | (simp only [Calm.written]; with_reducible refine CalmMk.put (fun h => h) ?_))

theorem State.writePieces_calm (s : State) (addr : Nat) (l : List (Nat × Nat × Nat)) : Calm s (State.writePieces s addr l) := by
  unfold State.writePieces
  try dsimp only
  repeat' (first
    | with_reducible exact Calm.refl _
    | with_reducible apply Calm.trans ?_ (State.dramWrite_calm ..)
    | with_reducible apply Calm.foldl
    | (intro _ _; try dsimp only)
    | split)

theorem State.ledgerWrite_calm (base : Nat) (es : List (List Byte)) (s : State) (i : Nat) :
    Calm s (s.ledgerWrite base i es) := by
  induction es generalizing s i with
  | nil => exact .refl _
  | cons e es ih => exact (State.hallWrite_calm ..).trans (ih _ _)

theorem State.holdBurst_calm (s old : State) (m : Merge) : Calm s (State.holdBurst s old m) := by
  unfold State.holdBurst
  generalize leBytes 64 _ = bs
  exact ⟨rfl, rfl, rfl, fun h => ⟨h.1, memWrite_wf h.2.1 _ _, h.2.2⟩⟩

theorem State.closeSegment_calm (s : State) (n : Fin 16) (g : Segment) : Calm s (State.closeSegment s n g) := by
  unfold State.closeSegment
  extract_lets t u q a tags units results free addr s0 calofs
  split
  extract_lets area full merge s1 runs
  split
  extract_lets es s2 done s3
  have h0 : Calm s s0 := ⟨rfl, rfl, rfl, id⟩
  have h1 : Calm s full := h0.trans (State.writePieces_calm ..)
  have hq (o : Option Merge) : Calm s (match o with | some m => full.holdBurst s0 m | none => full) := by
    cases o
    · exact h1
    · exact h1.trans (State.holdBurst_calm ..)
  have h1' : Calm s s1 := hq merge
  have h2 : Calm s s2 := (h1'.trans (State.ledgerWrite_calm ..)).trans (State.tollMany_calm ..)
  exact (h2.trans (State.modStall_calm ..)).trans (State.tollMany_calm ..)

theorem State.testLimits_calm (s : State) (n : Fin 16) (g : Segment) : Calm s (State.testLimits s n g) := by
  unfold State.testLimits
  try dsimp only
  repeat' (first
    | with_reducible exact Calm.refl _
    | with_reducible apply Calm.trans ?_ (State.hallWrite_calm ..)
    | with_reducible apply Calm.trans ?_ (hallWrite_calm ..)
    | with_reducible apply Calm.trans ?_ (State.toll_calm ..)
    | with_reducible apply Calm.trans ?_ (State.setSticky_calm ..)
    | with_reducible apply Calm.trans ?_ (State.attention_calm ..)
    | with_reducible apply Calm.foldl
    | (intro _ _; try dsimp only)
    | split
    | (simp only [Calm.written]; with_reducible refine CalmMk.put (fun h => h) ?_))

theorem State.requestStop_calm (s : State) (n : Fin 16) : Calm s (State.requestStop s n) := by
  unfold State.requestStop
  try dsimp only
  repeat' (first
    | with_reducible exact Calm.refl _
    | with_reducible apply Calm.trans ?_ (State.freeWeighers_calm ..)
    | with_reducible apply Calm.trans ?_ (State.modStall_calm ..)
    | split
    | (simp only [Calm.written]; with_reducible refine CalmMk.put (fun h => h) ?_))

theorem State.fillHalt_calm (s : State) (n : Fin 16) : Calm s (State.fillHalt s n) := by
  unfold State.fillHalt
  try dsimp only
  repeat' (first
    | with_reducible exact Calm.refl _
    | with_reducible apply Calm.trans ?_ (State.modStall_calm ..)
    | with_reducible apply Calm.trans ?_ (State.toll_calm ..)
    | with_reducible apply Calm.trans ?_ (State.attention_calm ..)
    | with_reducible apply Calm.trans ?_ (State.evalMany_calm ..)
    | with_reducible apply Calm.trans ?_ (State.modBell_calm ..)
    | with_reducible apply Calm.trans ?_ (State.requestStop_calm ..)
    | split)

theorem State.fillHalts_calm (s : State) : Calm s (State.fillHalts s) := by
  unfold State.fillHalts
  try dsimp only
  repeat' (first
    | with_reducible exact Calm.refl _
    | with_reducible apply Calm.trans ?_ (State.fillHalt_calm ..)
    | with_reducible apply Calm.trans ?_ (State.modStall_calm ..)
    | with_reducible apply Calm.foldl
    | (intro _ _; try dsimp only)
    | split)

theorem State.completeSegment_calm (s : State) (n : Fin 16) (g : Segment) : Calm s (State.completeSegment s n g) := by
  unfold State.completeSegment
  try dsimp only
  repeat' (first
    | with_reducible exact Calm.refl _
    | with_reducible apply Calm.trans ?_ (State.modStall_calm ..)
    | with_reducible apply Calm.trans ?_ (State.testLimits_calm ..)
    | split
    | (simp only [Calm.written]; with_reducible refine CalmMk.put (fun h => h) ?_))

theorem segmentClose_calm (n : Fin 16) (s : State) : Calm s (segmentClose n s) := by
  unfold segmentClose
  try dsimp only
  repeat' (first
    | with_reducible exact Calm.refl _
    | with_reducible apply Calm.trans ?_ (State.closeSegment_calm ..)
    | with_reducible apply Calm.trans ?_ (State.completeSegment_calm ..)
    | split)

theorem State.mergeNow_calm (s : State) (n : Fin 16) (m : Merge) (found : Vector SymbolErrors 8) :
    Calm s (State.mergeNow s n m found) := by
  unfold State.mergeNow
  try dsimp only
  repeat' (first
    | with_reducible exact Calm.refl _
    | with_reducible apply Calm.trans ?_ (State.burstFound_calm ..)
    | with_reducible apply Calm.trans ?_ (State.dramWrite_calm ..)
    | with_reducible apply Calm.trans ?_ (State.present_calm ..)
    | with_reducible apply Calm.trans ?_ (State.modStall_calm ..))

theorem mergeReadDone_calm (n : Fin 16) (found : Vector SymbolErrors 8) (s : State) : Calm s (mergeReadDone n found s) := by
  unfold mergeReadDone
  try dsimp only
  repeat' (first
    | with_reducible exact Calm.refl _
    | with_reducible apply Calm.trans ?_ (State.takeCycle_calm ..)
    | with_reducible apply Calm.trans ?_ (State.mergeNow_calm ..)
    | split)

theorem headerWriteDone_calm (n : Fin 16) (s : State) : Calm s (headerWriteDone n s) := by
  unfold headerWriteDone
  try dsimp only
  repeat' (first
    | with_reducible exact Calm.refl _
    | with_reducible apply Calm.trans ?_ (State.dramWrite_calm ..)
    | with_reducible apply Calm.trans ?_ (State.completeSegment_calm ..)
    | split)

theorem State.completeEmpty_calm (s : State) (n : Fin 16) : Calm s (State.completeEmpty s n) := by
  unfold State.completeEmpty
  try dsimp only
  repeat' (first
    | with_reducible exact Calm.refl _
    | with_reducible apply Calm.trans ?_ (State.completeSegment_calm ..)
    | split)

theorem State.satToll_calm (s : State) (n : Fin 16) (sat : Bool) : Calm s (State.satToll s n sat) := by
  unfold State.satToll
  try dsimp only
  repeat' (first
    | with_reducible exact Calm.refl _
    | with_reducible apply Calm.trans ?_ (State.toll_calm ..)
    | split
    | (simp only [Calm.written]; with_reducible refine CalmMk.put (fun h => h) ?_))

theorem State.turnTolls_calm (s : State) (turns : Nat) : Calm s (State.turnTolls s turns) := by
  unfold State.turnTolls
  try dsimp only
  repeat' (first
    | with_reducible exact Calm.refl _
    | with_reducible apply Calm.trans ?_ (State.tollIf_calm ..)
    | with_reducible apply Calm.trans ?_ (State.toll_calm ..)
    | split)

theorem State.finishStop_calm (s : State) (n : Fin 16) : Calm s (State.finishStop s n) := by
  unfold State.finishStop
  try dsimp only
  repeat' (first
    | with_reducible exact Calm.refl _
    | with_reducible apply Calm.trans ?_ (State.evalMany_calm ..)
    | with_reducible apply Calm.trans ?_ (State.modBell_calm ..)
    | with_reducible apply Calm.trans ?_ (State.sieveDrain_calm ..)
    | with_reducible apply Calm.trans ?_ (State.draw_calm ..)
    | with_reducible apply Calm.trans ?_ (Calm.of_snd (State.draw_calm ..) (by assumption))
    | with_reducible apply Calm.trans ?_ (State.satToll_calm ..)
    | with_reducible apply Calm.trans ?_ (State.turnTolls_calm ..)
    | with_reducible apply Calm.trans ?_ (State.modChan_calm ..)
    | with_reducible apply Calm.trans ?_ (State.modStall_calm ..)
    | with_reducible apply Calm.foldl
    | split
    | (simp only [Calm.written]; with_reducible refine CalmMk.put (fun h => h) ?_))

theorem lastsegRead_calm (n : Fin 16) (s : State) : Calm s (lastsegRead n s) := by
  unfold lastsegRead
  try dsimp only
  repeat' (first
    | with_reducible exact Calm.refl _
    | with_reducible apply Calm.trans ?_ (State.modStall_calm ..)
    | with_reducible apply Calm.trans ?_ (State.answer_calm ..))

theorem State.admitStall_calm (s : State) (n : Fin 16) (u : Setup) (eighths w : Nat) :
    Calm s (State.admitStall s n u eighths w) := by
  unfold State.admitStall
  try dsimp only
  repeat' (first
    | with_reducible exact Calm.refl _
    | with_reducible apply Calm.trans ?_ (State.assignWeighers_calm ..)
    | with_reducible apply Calm.trans ?_ (State.bringIntoForce_calm ..)
    | with_reducible apply Calm.trans ?_ (State.modStall_calm ..)
    | with_reducible apply Calm.trans ?_ (State.modChan_calm ..)
    | with_reducible apply Calm.trans ?_ (State.settle_calm ..)
    | with_reducible apply Calm.trans ?_ (Calm.of_snd (State.settle_calm ..) (by assumption))
    | split
    | (simp only [Calm.written]; with_reducible refine CalmMk.put (fun h => h) ?_))

theorem State.startStall_calm (s0 s : State) (n : Fin 16) {a : State} (h0 : Calm a s0) (h : Calm a s) :
    Calm a (State.startStall s0 s n).2 := by
  have hr : ∀ (l : List Nat) (f : Stall → Stall),
      Calm a (l.foldl (fun s i => s.toll i) ((s0.toll 244).modStall n f)) := fun l f =>
    Calm.foldl ((h0.trans (State.toll_calm ..)).trans (State.modStall_calm ..)) fun _ _ => State.toll_calm ..
  unfold State.startStall
  extract_lets t u cost w need refuse u' lane dram hall yard sieve
  split
  · exact hr ..
  · split
    · exact hr ..
    · split
      · exact hr ..
      · exact h.trans (State.admitStall_calm ..)

theorem State.endLaunchWait_calm (s : State) (n : Fin 16) (instant : Nat) : Calm s (State.endLaunchWait s n instant) := by
  unfold State.endLaunchWait
  try dsimp only
  repeat' (first
    | with_reducible exact Calm.refl _
    | with_reducible apply Calm.trans ?_ (State.modStall_calm ..)
    | with_reducible apply Calm.trans ?_ (State.toll_calm ..)
    | split)

theorem State.stallAddrNext_calm (s : State) (num limit : Nat) : Calm s (State.stallAddrNext s num limit) := by
  unfold State.stallAddrNext
  try dsimp only
  repeat' (first
    | with_reducible exact Calm.refl _
    | with_reducible apply Calm.trans ?_ (State.setWritten_calm ..)
    | with_reducible apply Calm.trans ?_ (State.setForce_calm ..))

theorem stallWindow_calm (n : Fin 16) (write : Option Word) (s : State) : Calm s (stallWindow n write s) := by
  unfold stallWindow
  try dsimp only
  repeat' (first
    | with_reducible exact Calm.refl _
    | with_reducible apply Calm.trans ?_ (State.stallAddrNext_calm ..)
    | with_reducible apply Calm.trans ?_ (State.answer_calm ..)
    | with_reducible apply Calm.trans ?_ (State.refuseWrite_calm ..)
    | with_reducible apply Calm.trans ?_ (State.modStall_calm ..)
    | split)

theorem measWindow_calm (n : Fin 16) (write : Option Word) (s : State) : Calm s (measWindow n write s) := by
  unfold measWindow
  try dsimp only
  repeat' (first
    | with_reducible exact Calm.refl _
    | with_reducible apply Calm.trans ?_ (State.stallAddrNext_calm ..)
    | with_reducible apply Calm.trans ?_ (State.answer_calm ..)
    | with_reducible apply Calm.trans ?_ (State.refuseWrite_calm ..)
    | with_reducible apply Calm.trans ?_ (State.modStall_calm ..)
    | split
    | (simp only [Calm.written]; with_reducible refine CalmMk.put (fun h => h) ?_))

theorem dramBurst_calm (owner : Fin 4) (addr : BitVec 38) (write : Option (BitVec 512)) (scrub : Bool) (found : Vector SymbolErrors 8) (s : State) :
    Calm s (dramBurst owner addr write scrub found s) := by
  unfold dramBurst
  try dsimp only
  repeat' (first
    | with_reducible exact Calm.refl _
    | with_reducible apply Calm.trans ?_ (State.modDram_calm _ _ ?_)
    | with_reducible apply Calm.trans ?_ (State.answer_calm ..)
    | with_reducible apply Calm.trans ?_ (State.toll_calm ..)
    | with_reducible apply Calm.trans ?_ (State.modSub_calm ..)
    | with_reducible apply Calm.trans ?_ (State.dramWrite_calm ..)
    | with_reducible apply Calm.trans ?_ (State.burstFound_calm ..)
    | with_reducible exact fun _ h => h
    | split)

theorem hallRequest_calm (arb : Fin 269) (port : Fin 26) (held : Bool) (work : List (BitVec 38)) (background : Bool) (s : State) :
    Calm s (hallRequest arb port held work background s) := by
  unfold hallRequest
  try dsimp only
  repeat' (first
    | with_reducible exact Calm.refl _
    | with_reducible apply Calm.trans ?_ (State.present_calm ..)
    | with_reducible apply Calm.trans ?_ (State.presentDram_calm ..)
    | split)

theorem srEntry_calm (c : Fin 8) (s : State) : Calm s (srEntry c s) := by
  unfold srEntry
  try dsimp only
  repeat' (first
    | with_reducible exact Calm.refl _
    | with_reducible apply Calm.trans ?_ (State.modSub_calm ..)
    | split)

theorem srEntryDone_calm (c : Fin 8) (s : State) : Calm s (srEntryDone c s) := by
  unfold srEntryDone
  try dsimp only
  repeat' (first
    | with_reducible exact Calm.refl _
    | with_reducible apply Calm.trans ?_ (State.modSub_calm ..)
    | split)

theorem srExit_calm (c : Fin 8) (s : State) : Calm s (srExit c s) := by
  unfold srExit
  try dsimp only
  repeat' (first
    | with_reducible exact Calm.refl _
    | with_reducible apply Calm.trans ?_ (State.modSub_calm ..)
    | split)

theorem State.subWakes_calm (s : State) (c : Fin 8) : Calm s (State.subWakes s c) := by
  unfold State.subWakes
  try dsimp only
  repeat' (first
    | with_reducible exact Calm.refl _
    | with_reducible apply Calm.trans ?_ (State.modSub_calm ..))

theorem srExitDone_calm (c : Fin 8) (s : State) : Calm s (srExitDone c s) := by
  unfold srExitDone
  try dsimp only
  repeat' (first
    | with_reducible exact Calm.refl _
    | with_reducible apply Calm.trans ?_ (State.subWakes_calm ..)
    | split)

theorem refreshDue_calm (c : Fin 8) (s : State) : Calm s (refreshDue c s) := by
  unfold refreshDue
  try dsimp only
  repeat' (first
    | with_reducible exact Calm.refl _
    | with_reducible apply Calm.trans ?_ (State.draw_calm ..)
    | with_reducible apply Calm.trans ?_ (Calm.of_snd (State.draw_calm ..) (by assumption))
    | with_reducible apply Calm.trans ?_ (State.modSub_calm ..)
    | split)

theorem mr4Read_calm (code : Fin 3) (s : State) : Calm s (mr4Read code s) := by
  unfold mr4Read
  try dsimp only
  repeat' (first
    | with_reducible exact Calm.refl _
    | with_reducible apply Calm.trans ?_ (State.modDram_calm _ _ ?_)
    | with_reducible apply Calm.trans ?_ (State.toll_calm ..)
    | with_reducible apply Calm.trans ?_ (State.attention_calm ..)
    | with_reducible exact fun _ h => h
    | split)

theorem State.mitigate_calm (s : State) (c : Fin 8) (bank row : Nat) : Calm s (State.mitigate s c bank row) := by
  unfold State.mitigate
  try dsimp only
  repeat' (first
    | with_reducible exact Calm.refl _
    | with_reducible apply Calm.trans ?_ (State.modSub_calm ..)
    | with_reducible apply Calm.trans ?_ (State.modDram_calm _ _ ?_)
    | with_reducible apply Calm.trans ?_ (State.toll_calm ..)
    | with_reducible exact fun _ h => h)

theorem hammerMitigation_calm (c : Fin 8) (bank : Fin 64) (row : Nat) (s : State) :
    Calm s (hammerMitigation c bank row s) := by
  unfold hammerMitigation
  try dsimp only
  repeat' (first
    | with_reducible exact Calm.refl _
    | with_reducible apply Calm.trans ?_ (State.takeCycle_calm ..)
    | with_reducible apply Calm.trans ?_ (State.mitigate_calm ..)
    | split)

theorem hammerWindowEnd_calm (s : State) : Calm s (hammerWindowEnd s) := by
  unfold hammerWindowEnd
  try dsimp only
  repeat' (first
    | with_reducible exact Calm.refl _
    | with_reducible apply Calm.trans ?_ (State.mitigate_calm ..)
    | with_reducible apply Calm.trans ?_ (State.modDram_calm _ _ ?_)
    | with_reducible exact fun _ h => h
    | with_reducible apply Calm.foldl
    | (intro _ _; try dsimp only)
    | split)

theorem State.setDelay_calm (s : State) (key d : Nat) : Calm s (State.setDelay s key d) := by
  unfold State.setDelay
  try dsimp only
  repeat' (first
    | with_reducible exact Calm.refl _
    | with_reducible apply Calm.trans ?_ (State.modDram_calm _ _ ?_)
    | with_reducible exact fun _ h => h)

theorem retrainStep_calm (c : Fin 8) (dqs : Bool) (lane : Fin 5) (delays : Option (Vector (BitVec 10) 8)) (s : State) :
    Calm s (retrainStep c dqs lane delays s) := by
  unfold retrainStep
  try dsimp only
  repeat' (first
    | with_reducible exact Calm.refl _
    | with_reducible apply Calm.trans ?_ (State.takeCycle_calm ..)
    | with_reducible apply Calm.trans ?_ (State.modSub_calm ..)
    | with_reducible apply Calm.trans ?_ (State.toll_calm ..)
    | with_reducible apply Calm.trans ?_ (State.setDelay_calm ..)
    | with_reducible apply Calm.trans ?_ (State.tollIf_calm ..)
    | with_reducible apply Calm.foldl
    | (intro _ _; try dsimp only)
    | split)

theorem dramScrubPeriod_calm (c : Fin 8) (s : State) : Calm s (dramScrubPeriod c s) := by
  unfold dramScrubPeriod
  try dsimp only
  repeat' (first
    | with_reducible exact Calm.refl _
    | with_reducible apply Calm.trans ?_ (State.modSub_calm ..)
    | with_reducible apply Calm.trans ?_ (State.toll_calm ..)
    | split)

theorem headerRewrite_calm (found : Vector SymbolErrors 8) (s : State) : Calm s (headerRewrite found s) := by
  unfold headerRewrite
  try dsimp only
  repeat' (first
    | with_reducible exact Calm.refl _
    | with_reducible apply Calm.trans ?_ (State.takeCycle_calm ..)
    | with_reducible apply Calm.trans ?_ (State.burstFound_calm ..)
    | with_reducible apply Calm.trans ?_ (State.modDram_calm _ _ ?_)
    | with_reducible apply Calm.trans ?_ (State.toll_calm ..)
    | with_reducible apply Calm.trans ?_ (State.dramWrite_calm ..)
    | with_reducible exact fun _ h => h
    | split)

theorem trainingGo_calm (w : Word) (s : State) : Calm s (trainingGo w s) := by
  unfold trainingGo
  try dsimp only
  repeat' (first
    | with_reducible exact Calm.refl _
    | with_reducible apply Calm.trans ?_ (State.refuseWrite_calm ..)
    | with_reducible apply Calm.trans ?_ (State.toll_calm ..)
    | with_reducible apply Calm.trans ?_ (State.setWritten_calm ..)
    | with_reducible apply Calm.trans ?_ (State.setForce_calm ..)
    | with_reducible apply Calm.trans ?_ (State.answer_calm ..)
    | with_reducible apply Calm.trans ?_ (State.modSub_calm ..)
    | with_reducible apply Calm.trans ?_ (State.modDram_calm _ _ ?_)
    | with_reducible apply Calm.trans ?_ (sweepDone_calm ..)
    | with_reducible exact fun _ h => h
    | split)

theorem trainingDelay_calm (w : Word) (s : State) : Calm s (trainingDelay w s) := by
  unfold trainingDelay
  try dsimp only
  repeat' (first
    | with_reducible exact Calm.refl _
    | with_reducible apply Calm.trans ?_ (State.toll_calm ..)
    | with_reducible apply Calm.trans ?_ (State.refuseWrite_calm ..)
    | with_reducible apply Calm.trans ?_ (State.setDelay_calm ..)
    | with_reducible apply Calm.trans ?_ (State.answer_calm ..)
    | split)

theorem trainingSweepDone_calm (c : Fin 8) (reads : List (List (BitVec 640))) (counts : Vector (List Nat) 40) (s : State) :
    Calm s (trainingSweepDone c reads counts s) := by
  unfold trainingSweepDone
  try dsimp only
  repeat' (first
    | with_reducible exact Calm.refl _
    | with_reducible apply Calm.trans ?_ (State.draw_calm ..)
    | with_reducible apply Calm.trans ?_ (Calm.of_snd (State.draw_calm ..) (by assumption))
    | with_reducible apply Calm.trans ?_ (State.modSub_calm ..)
    | with_reducible apply Calm.trans ?_ (State.modDram_calm _ _ ?_)
    | with_reducible apply Calm.trans ?_ (sweepDone_calm ..)
    | with_reducible exact fun _ h => h
    | split)

theorem State.trainDram_calm (s : State) (t : Training) : Calm s (State.trainDram s t) := by
  unfold State.trainDram
  extract_lets ok s1
  have h : Calm s s1 := State.modDram_calm _ _ fun _ h => h
  exact Calm.ite (h.trans (State.modDram_calm _ _ fun _ _ => rfl)) ((h.trans (State.toll_calm ..)).trans (State.attention_calm ..))

theorem State.retrainDram_calm (s : State) (t : Training) (lean : Bool) : Calm s (State.retrainDram s t lean) := by
  unfold State.retrainDram
  try dsimp only
  repeat' (first
    | with_reducible exact Calm.refl _
    | with_reducible apply Calm.trans ?_ (State.setDelay_calm ..)
    | with_reducible apply Calm.trans ?_ (State.modDram_calm _ _ ?_)
    | with_reducible apply Calm.trans ?_ (State.toll_calm ..)
    | with_reducible apply Calm.trans ?_ (State.attention_calm ..)
    | with_reducible exact fun _ h => h
    | with_reducible apply Calm.foldl
    | (intro _ _; try dsimp only)
    | split)

theorem State.dramSleeps_calm (s : State) : Calm s (State.dramSleeps s) := by
  unfold State.dramSleeps
  try dsimp only
  repeat' (first
    | with_reducible exact Calm.refl _
    | with_reducible apply Calm.trans ?_ (State.modSub_calm ..)
    | with_reducible apply Calm.foldl
    | (intro _ _; try dsimp only))

theorem State.closeDram_calm (s : State) : Calm s (State.closeDram s) := by
  unfold State.closeDram
  try dsimp only
  repeat' (first
    | with_reducible exact Calm.refl _
    | with_reducible apply Calm.trans ?_ (State.modSub_calm ..)
    | with_reducible apply Calm.foldl
    | (intro _ _; try dsimp only))

theorem State.queueBurst_calm (s : State) (c : Fin 8) (owner addr : Nat) : Calm s (State.queueBurst s c owner addr) := by
  unfold State.queueBurst
  try dsimp only
  repeat' (first
    | with_reducible exact Calm.refl _
    | with_reducible apply Calm.trans ?_ (State.modSub_calm ..))

theorem State.selNext_calm (s : State) (n entry word entryBits : Nat) (place : Nat → Nat → Word) : Calm s (State.selNext s n entry word entryBits place) := by
  unfold State.selNext
  try dsimp only
  repeat' (first
    | with_reducible exact Calm.refl _
    | with_reducible apply Calm.trans ?_ (State.setWritten_calm ..)
    | with_reducible apply Calm.trans ?_ (State.setForce_calm ..))

theorem elogDataRead_calm (s : State) : Calm s (elogDataRead s) := by
  unfold elogDataRead
  try dsimp only
  repeat' (first
    | with_reducible exact Calm.refl _
    | with_reducible apply Calm.trans ?_ (State.selNext_calm ..)
    | with_reducible apply Calm.trans ?_ (State.answer_calm ..))

end Sys2Proof.Machine
end

