-- ==== Sys2Proof/Laws/CalmControl.lean ====
section
/-! SUPPORT. Frames: what every operation of the machine leaves alone (regimes, parameters, functions, the image, resets and power). -/

namespace Sys2Proof.Machine

set_option Elab.async false

theorem State.pmSend_calm (s : State) (k : Fin 6) (code : Nat) (data : List Byte) : Calm s (State.pmSend s k code data) := by
  unfold State.pmSend
  try dsimp only
  repeat' (first
    | with_reducible exact Calm.refl _
    | with_reducible apply Calm.trans ?_ (State.toll_calm ..)
    | with_reducible apply Calm.trans ?_ (State.modPower_calm _ _ ?_)
    | with_reducible exact fun _ h => h
    | split)

theorem State.pmConfigure_calm (s : State) : Calm s (State.pmConfigure s) := by
  unfold State.pmConfigure
  try dsimp only
  repeat' (first
    | with_reducible exact Calm.refl _
    | with_reducible apply Calm.trans ?_ (State.pmSend_calm ..)
    | with_reducible apply Calm.trans ?_ (State.modPower_calm _ _ ?_)
    | with_reducible exact fun _ h => h
    | with_reducible apply Calm.foldl
    | (intro _ _; try dsimp only))

theorem State.recharge_calm (s : State) : Calm s (State.recharge s) := by
  unfold State.recharge
  try dsimp only
  repeat' (first
    | with_reducible exact Calm.refl _
    | with_reducible apply Calm.trans ?_ (State.modStall_calm ..)
    | with_reducible apply Calm.foldl
    | (intro _ _; try dsimp only)
    | split)

theorem State.setRegimeWord_calm (s : State) (req : Nat) (admitLean wakeTo : Bool) : Calm s (State.setRegimeWord s req admitLean wakeTo) := by
  unfold State.setRegimeWord
  try dsimp only
  repeat' (first
    | with_reducible exact Calm.refl _
    | with_reducible apply Calm.trans ?_ (State.setWritten_calm ..)
    | with_reducible apply Calm.trans ?_ (State.setForce_calm ..)
    | with_reducible apply Calm.trans ?_ (State.answer_calm ..))

theorem State.beginChange_calm (s : State) (r : Regime) : Calm s (State.beginChange s r) := by
  unfold State.beginChange
  try dsimp only
  repeat' (first
    | with_reducible exact Calm.refl _
    | with_reducible apply Calm.trans ?_ (State.modPower_calm _ _ ?_)
    | with_reducible apply Calm.trans ?_ (State.modSub_calm ..)
    | with_reducible exact fun _ h => h
    | with_reducible apply Calm.foldl
    | (intro _ _; try dsimp only)
    | split)

theorem State.askRegime_calm (s : State) (r : Regime) : Calm s (State.askRegime s r) := by
  unfold State.askRegime
  try dsimp only
  repeat' (first
    | with_reducible exact Calm.refl _
    | with_reducible apply Calm.trans ?_ (State.beginChange_calm ..)
    | split)

theorem regimeFull_calm (admitLean wakeTo : Bool) (s : State) : Calm s (regimeFull admitLean wakeTo s) := by
  unfold regimeFull
  try dsimp only
  repeat' (first
    | with_reducible exact Calm.refl _
    | with_reducible apply Calm.trans ?_ (State.setRegimeWord_calm ..)
    | with_reducible apply Calm.trans ?_ (State.askRegime_calm ..))

theorem regimeLean_calm (admitLean wakeTo : Bool) (s : State) : Calm s (regimeLean admitLean wakeTo s) := by
  unfold regimeLean
  try dsimp only
  repeat' (first
    | with_reducible exact Calm.refl _
    | with_reducible apply Calm.trans ?_ (State.recharge_calm ..)
    | with_reducible apply Calm.trans ?_ (State.setRegimeWord_calm ..)
    | with_reducible apply Calm.trans ?_ (State.askRegime_calm ..)
    | with_reducible apply Calm.trans ?_ (State.refuseWrite_calm ..)
    | split)

theorem regimeWatch_calm (admitLean wakeTo : Bool) (s : State) : Calm s (regimeWatch admitLean wakeTo s) := by
  unfold regimeWatch
  try dsimp only
  repeat' (first
    | with_reducible exact Calm.refl _
    | with_reducible apply Calm.trans ?_ (State.refuseWrite_calm ..)
    | with_reducible apply Calm.trans ?_ (State.setRegimeWord_calm ..)
    | with_reducible apply Calm.trans ?_ (State.modPower_calm _ _ ?_)
    | with_reducible exact fun _ h => h
    | split)

theorem State.enterRegime_calm (s : State) (r : Regime) : Calm s (State.enterRegime s r) := by
  unfold State.enterRegime
  try dsimp only
  repeat' (first
    | with_reducible exact Calm.refl _
    | with_reducible apply Calm.trans ?_ (State.modPower_calm _ _ ?_)
    | with_reducible apply Calm.trans ?_ (State.gateEdge_calm ..)
    | with_reducible apply Calm.trans ?_ (State.regimeStep_calm ..)
    | with_reducible apply Calm.trans ?_ (State.modSub_calm ..)
    | with_reducible exact fun _ h => h
    | with_reducible apply Calm.foldl
    | (intro _ _; try dsimp only)
    | split)

theorem regimeChange_calm (s : State) : Calm s (regimeChange s) := by
  unfold regimeChange
  try dsimp only
  repeat' (first
    | with_reducible exact Calm.refl _
    | with_reducible apply Calm.trans ?_ (State.enterRegime_calm ..)
    | split)

theorem otpProgram_calm (s : State) : Calm s (otpProgram s) := by
  unfold otpProgram
  try dsimp only
  repeat' (first
    | with_reducible exact Calm.refl _
    | with_reducible apply Calm.trans ?_ (State.answer_calm ..)
    | with_reducible apply Calm.trans ?_ (State.refuseWrite_calm ..)
    | with_reducible apply Calm.trans ?_ (State.modImage_calm _ _ ?_)
    | with_reducible exact fun _ h => h
    | split)

theorem rollbackAdvance_calm (s : State) : Calm s (rollbackAdvance s) := by
  unfold rollbackAdvance
  try dsimp only
  repeat' (first
    | with_reducible exact Calm.refl _
    | with_reducible apply Calm.trans ?_ (State.refuseWrite_calm ..)
    | with_reducible apply Calm.trans ?_ (State.answer_calm ..)
    | with_reducible apply Calm.trans ?_ (State.modImage_calm _ _ ?_)
    | with_reducible exact fun _ h => h
    | split)

theorem State.modSign_calm (s : State) (f : Signboard → Signboard) : Calm s (State.modSign s f) := by
  unfold State.modSign
  try dsimp only
  repeat' (first
    | with_reducible exact Calm.refl _
    | (simp only [Calm.written]; with_reducible refine CalmMk.put (fun h => h) ?_))

theorem paletteWindow_calm (write : Option Word) (s : State) : Calm s (paletteWindow write s) := by
  unfold paletteWindow
  try dsimp only
  repeat' (first
    | with_reducible exact Calm.refl _
    | with_reducible apply Calm.trans ?_ (State.modSign_calm ..)
    | with_reducible apply Calm.trans ?_ (State.setWritten_calm ..)
    | with_reducible apply Calm.trans ?_ (State.setForce_calm ..)
    | with_reducible apply Calm.trans ?_ (State.answer_calm ..)
    | split)

theorem flipRead_calm (s : State) : Calm s (flipRead s) := by
  unfold flipRead
  try dsimp only
  repeat' (first
    | with_reducible exact Calm.refl _
    | with_reducible apply Calm.trans ?_ (State.modSign_calm ..)
    | with_reducible apply Calm.trans ?_ (State.answer_calm ..))

theorem State.captureForce_calm (s : State) (l : List (Nat × Word)) : Calm s (State.captureForce s l) := by
  unfold State.captureForce
  try dsimp only
  repeat' (first
    | with_reducible exact Calm.refl _
    | with_reducible apply Calm.trans ?_ (State.setForce_calm ..)
    | with_reducible apply Calm.foldl
    | (intro _ _; try dsimp only))

theorem State.bufferReplaced_calm (s : State) (n : Fin 3) : Calm s (State.bufferReplaced s n) := by
  unfold State.bufferReplaced
  try dsimp only
  repeat' (first
    | with_reducible exact Calm.refl _
    | with_reducible apply Calm.trans ?_ (State.modSign_calm ..))

theorem State.applyFlip_calm (s : State) : Calm s (State.applyFlip s) := by
  unfold State.applyFlip
  try dsimp only
  repeat' (first
    | with_reducible exact Calm.refl _
    | with_reducible apply Calm.trans ?_ (State.captureForce_calm ..)
    | with_reducible apply Calm.trans ?_ (State.modSign_calm ..)
    | with_reducible apply Calm.trans ?_ (State.bufferReplaced_calm ..)
    | split)

theorem State.latchFill_calm (s : State) : Calm s (State.latchFill s) := by
  unfold State.latchFill
  try dsimp only
  repeat' (first
    | with_reducible exact Calm.refl _
    | with_reducible apply Calm.trans ?_ (State.modSign_calm ..)
    | with_reducible apply Calm.trans ?_ (State.toll_calm ..)
    | with_reducible apply Calm.trans ?_ (State.bufferReplaced_calm ..)
    | split
    | (simp only [Calm.written]; with_reducible refine CalmMk.put (fun h => h) ?_))

theorem State.beginFill_calm (s : State) : Calm s (State.beginFill s) := by
  unfold State.beginFill
  try dsimp only
  repeat' (first
    | with_reducible exact Calm.refl _
    | with_reducible apply Calm.trans ?_ (State.modSign_calm ..)
    | split)

theorem State.flipAtLatch_calm (s : State) : Calm s (State.flipAtLatch s) := by
  unfold State.flipAtLatch
  try dsimp only
  repeat' (first
    | with_reducible exact Calm.refl _
    | with_reducible apply Calm.trans ?_ (State.modSign_calm ..)
    | with_reducible apply Calm.trans ?_ (State.applyFlip_calm ..)
    | with_reducible apply Calm.trans ?_ (State.beginFill_calm ..)
    | split)

theorem sgnCommit_calm (w : Word) (s : State) : Calm s (sgnCommit w s) := by
  unfold sgnCommit
  try dsimp only
  repeat' (first
    | with_reducible exact Calm.refl _
    | with_reducible apply Calm.trans ?_ (State.answer_calm ..)
    | with_reducible apply Calm.trans ?_ (State.refuseWrite_calm ..)
    | with_reducible apply Calm.trans ?_ (State.modSign_calm ..)
    | with_reducible apply Calm.trans ?_ (State.tollIf_calm ..)
    | with_reducible apply Calm.trans ?_ (State.flipAtLatch_calm ..)
    | split)

theorem State.mismatch_calm (s : State) (bit toll : Nat) : Calm s (State.mismatch s bit toll) :=
  ((State.setSticky_calm ..).trans (State.modSign_calm ..)).trans (State.toll_calm ..)

theorem State.fetchWords_calm (s : State) (ws : List Nat) : Calm s (State.fetchWords s ws).2 := by
  unfold State.fetchWords
  refine Calm.foldlSnd (p := ([], s)) (.refl _) fun q a => ?_
  split
  · exact State.accessRefused_calm ..
  · exact State.eccWord_calm q.2 17 a true true .clean .clean

theorem State.planFetch_calm (s : State) : Calm s (State.planFetch s) := by
  unfold State.planFetch
  try dsimp only
  repeat' (first
    | with_reducible exact Calm.refl _
    | with_reducible apply Calm.trans ?_ (State.draw_calm ..)
    | with_reducible apply Calm.trans ?_ (Calm.of_snd (State.draw_calm ..) (by assumption))
    | with_reducible apply Calm.trans ?_ (State.modSign_calm ..)
    | split)

theorem State.fetchLine_calm (s : State) : Calm s (State.fetchLine s) := by
  unfold State.fetchLine
  try dsimp only
  repeat' (first
    | with_reducible exact Calm.refl _
    | with_reducible apply Calm.trans ?_ (State.fetchWords_calm ..)
    | with_reducible apply Calm.trans ?_ (Calm.of_snd (State.fetchWords_calm ..) (by assumption))
    | with_reducible apply Calm.trans ?_ (State.modSign_calm ..)
    | with_reducible apply Calm.trans ?_ (State.planFetch_calm ..))

theorem State.scanTick_calm (s : State) : Calm s (State.scanTick s) := by
  unfold State.scanTick
  try dsimp only
  repeat' (first
    | with_reducible exact Calm.refl _
    | with_reducible apply Calm.trans ?_ (State.fetchLine_calm ..)
    | split)

theorem State.fetchRest_calm (s : State) : Calm s (State.fetchRest s) := by
  unfold State.fetchRest
  try dsimp only
  repeat' (first
    | with_reducible exact Calm.refl _
    | with_reducible apply Calm.trans ?_ (State.fetchLine_calm ..)
    | with_reducible apply Calm.trans ?_ (State.modSign_calm ..)
    | with_reducible apply Calm.foldl
    | (intro _ _; try dsimp only)
    | split)

theorem State.beginFrame_calm (s : State) (lines : Nat) : Calm s (State.beginFrame s lines) := by
  unfold State.beginFrame
  try dsimp only
  repeat' (first
    | with_reducible exact Calm.refl _
    | with_reducible apply Calm.trans ?_ (State.modSign_calm ..)
    | with_reducible apply Calm.trans ?_ (State.planFetch_calm ..))

theorem State.overlayCrc_calm (s : State) : Calm s (State.overlayCrc s).2 := by
  unfold State.overlayCrc
  try dsimp only
  repeat' (first
    | with_reducible exact Calm.refl _
    | with_reducible apply Calm.trans ?_ (State.draw_calm ..)
    | with_reducible apply Calm.trans ?_ (Calm.of_snd (State.draw_calm ..) (by assumption))
    | split)

theorem signboardLatch_calm (even0 odd0 even1 odd1 : List PadFlip) (s : State) :
    Calm s (signboardLatch even0 odd0 even1 odd1 s) := by
  unfold signboardLatch
  try dsimp only
  repeat' (first
    | with_reducible exact Calm.refl _
    | with_reducible apply Calm.trans ?_ (State.fetchRest_calm ..)
    | with_reducible apply Calm.trans ?_ (State.tollIf_calm ..)
    | with_reducible apply Calm.trans ?_ (State.overlayCrc_calm ..)
    | with_reducible apply Calm.trans ?_ (Calm.of_snd (State.overlayCrc_calm ..) (by assumption))
    | with_reducible apply Calm.trans ?_ (State.mismatch_calm ..)
    | with_reducible apply Calm.trans ?_ (State.modSign_calm ..)
    | with_reducible apply Calm.trans ?_ (State.latchFill_calm ..)
    | with_reducible apply Calm.trans ?_ (State.applyFlip_calm ..)
    | with_reducible apply Calm.trans ?_ (State.beginFill_calm ..)
    | with_reducible apply Calm.trans ?_ (State.beginFrame_calm ..)
    | split
    | (simp only [Calm.written]; with_reducible refine CalmMk.put (fun h => h) ?_))

theorem State.writePlot_calm (s : State) (n : Fin 16) (q : Nat) (cols : List (Option (Nat × Nat))) :
    Calm s (State.writePlot s n q cols).2 := by
  unfold State.writePlot
  try dsimp only
  repeat' (first
    | with_reducible exact Calm.refl _
    | with_reducible apply Calm.trans ?_ (State.hallWrite_calm ..))

theorem State.readFill_calm (s : State) (n : Fin 16) (q : Nat) : Calm s (State.readFill s n q).2 := by
  unfold State.readFill
  extract_lets u a size
  split
  rename_i b e t he
  refine Calm.foldlSnd (p := (t.dram.mem, t)) (Calm.of_thd (State.readRecord_calm ..) he) fun q cw => ?_
  exact State.draw_calm ..

theorem State.completeFill_calm (s : State) (f : Fill) : Calm s (State.completeFill s f) := by
  unfold State.completeFill
  try dsimp only
  repeat' (first
    | with_reducible exact Calm.refl _
    | with_reducible apply Calm.trans ?_ (State.readFill_calm ..)
    | with_reducible apply Calm.trans ?_ (Calm.of_snd (State.readFill_calm ..) (by assumption))
    | with_reducible apply Calm.trans ?_ (State.writePlot_calm ..)
    | with_reducible apply Calm.trans ?_ (Calm.of_snd (State.writePlot_calm ..) (by assumption))
    | with_reducible apply Calm.trans ?_ (State.modSign_calm ..))

theorem l1FillDone_calm (s : State) : Calm s (l1FillDone s) := by
  unfold l1FillDone
  try dsimp only
  repeat' (first
    | with_reducible exact Calm.refl _
    | with_reducible apply Calm.trans ?_ (State.untoll_calm ..)
    | with_reducible apply Calm.trans ?_ (State.completeFill_calm ..)
    | with_reducible apply Calm.trans ?_ (State.modSign_calm ..)
    | with_reducible apply Calm.trans ?_ (State.toll_calm ..)
    | split
    | (simp only [Calm.written]; with_reducible refine CalmMk.put (fun h => h) ?_))

theorem State.startSign_calm (s : State) : Calm s (State.startSign s) := by
  unfold State.startSign
  try dsimp only
  repeat' (first
    | with_reducible exact Calm.refl _
    | with_reducible apply Calm.trans ?_ (State.bringIntoForce_calm ..)
    | with_reducible apply Calm.trans ?_ (State.modSign_calm ..)
    | with_reducible apply Calm.trans ?_ (State.beginFrame_calm ..))

theorem State.stopSign_calm (s : State) : Calm s (State.stopSign s) := by
  unfold State.stopSign
  try dsimp only
  repeat' (first
    | with_reducible exact Calm.refl _
    | with_reducible apply Calm.trans ?_ (State.modSign_calm ..))

theorem State.mergeToll_tame (s : State) (c : Nat × Nat) : Tame s (s.mergeToll c) := by
  unfold State.mergeToll
  extract_lets old new s1
  split <;> exact ⟨rfl, rfl, id⟩

theorem State.mergeTolls_tame (s : State) : Tame s s.mergeTolls := by
  unfold State.mergeTolls
  exact Tame.trans (Tame.foldl (.refl _) fun _ _ => State.mergeToll_tame ..) ⟨rfl, rfl, id⟩

theorem State.dropDue_calm (s : State) : Calm s (State.dropDue s) := by
  unfold State.dropDue
  try dsimp only
  repeat' (first
    | with_reducible exact Calm.refl _
    | split
    | (simp only [Calm.written]; with_reducible refine CalmMk.put (fun h => h) ?_))

theorem State.flushLog_calm (s : State) : Calm s (State.flushLog s) := by
  unfold State.flushLog
  try dsimp only
  repeat' (first
    | with_reducible exact Calm.refl _
    | with_reducible apply Calm.foldl
    | (simp only [Calm.written]; with_reducible refine CalmMk.put (fun h => h) ?_))

theorem logDataRead_calm (s : State) : Calm s (logDataRead s) := by
  unfold logDataRead
  try dsimp only
  repeat' (first
    | with_reducible exact Calm.refl _
    | with_reducible apply Calm.trans ?_ (State.selNext_calm ..)
    | with_reducible apply Calm.trans ?_ (State.answer_calm ..))

theorem State.readEffect_calm (s : State) (base k : Nat) (st : Fin 16) : Calm s (State.readEffect s base k st) := by
  unfold State.readEffect
  try dsimp only
  repeat' (first
    | with_reducible exact Calm.refl _
    | with_reducible apply Calm.trans ?_ (chronLatch_calm ..)
    | with_reducible apply Calm.trans ?_ (snapRead_calm ..)
    | with_reducible apply Calm.trans ?_ (measWindow_calm ..)
    | with_reducible apply Calm.trans ?_ (lastsegRead_calm ..)
    | with_reducible apply Calm.trans ?_ (stallWindow_calm ..)
    | with_reducible apply Calm.trans ?_ (sieveWindow_calm ..)
    | with_reducible apply Calm.trans ?_ (yardSnapRead_calm ..)
    | with_reducible apply Calm.trans ?_ (elogDataRead_calm ..)
    | with_reducible apply Calm.trans ?_ (paletteWindow_calm ..)
    | with_reducible apply Calm.trans ?_ (flipRead_calm ..)
    | with_reducible apply Calm.trans ?_ (cryOfsRead_calm ..)
    | with_reducible apply Calm.trans ?_ (logDataRead_calm ..)
    | split)

theorem State.readParam_calm (s : State) (n : Nat) : Calm s (State.readParam s n).2 := by
  unfold State.readParam
  try dsimp only
  repeat' (first
    | with_reducible exact Calm.refl _
    | with_reducible apply Calm.trans ?_ (State.readEffect_calm ..)
    | with_reducible apply Calm.trans ?_ (State.answer_calm ..)
    | split)

theorem State.forceLocked_calm (s : State) (fn : Nat) : Calm s (State.forceLocked s fn) := by
  unfold State.forceLocked
  try dsimp only
  repeat' (first
    | with_reducible exact Calm.refl _
    | with_reducible apply Calm.trans ?_ (State.setForce_calm ..)
    | with_reducible apply Calm.foldl
    | (intro _ _; try dsimp only))

theorem State.writeLive_calm (s : State) (base n : Nat) (w m : Word) : Calm s (State.writeLive s base n w m) := by
  unfold State.writeLive
  try dsimp only
  repeat' (first
    | with_reducible exact Calm.refl _
    | with_reducible apply Calm.trans ?_ (State.setWritten_calm ..)
    | with_reducible apply Calm.trans ?_ (State.setForce_calm ..)
    | with_reducible apply Calm.trans ?_ (State.atNextTick_calm ..)
    | split)

theorem State.writeEffect_calm (s : State) (base : Nat) : Calm s (State.writeEffect s base) := by
  unfold State.writeEffect
  try dsimp only
  repeat' (first
    | with_reducible exact Calm.refl _
    | with_reducible apply Calm.trans ?_ (State.applyCalMode_calm ..)
    | split)

theorem State.writeFields_calm (s : State) (r : RegDef) (n : Nat) (w : Word) : Calm s (State.writeFields s r n w) := by
  unfold State.writeFields
  extract_lets lv sl w1c s0 differs locked s1 s2 s3
  have h0 : Calm s s0 := Calm.ite (State.sieveDrain_calm ..) (.refl _)
  have h1 : Calm s s1 := Calm.ite h0 (h0.trans (State.setWritten_calm ..))
  have h2 : Calm s s2 := Calm.ite h1 ((h1.trans (State.writeLive_calm ..)).trans (State.writeEffect_calm ..))
  have h3 : Calm s s3 := Calm.ite h2 (h2.trans (State.clearSticky_calm ..))
  have hr (c : Code) : Calm s (s.refuseWrite c) := State.refuseWrite_calm ..
  exact Calm.ite (hr _) (Calm.ite (hr _) (Calm.ite (hr _) (Calm.ite (hr _)
    (Calm.ite (h3.trans (State.refuseWrite_calm ..)) (h3.trans (State.answer_calm ..))))))

theorem State.writeParam_calm (s : State) (n : Nat) (w : Word) : Calm s (State.writeParam s n w) := by
  unfold State.writeParam
  try dsimp only
  repeat' (first
    | with_reducible exact Calm.refl _
    | with_reducible apply Calm.trans ?_ (State.refuseWrite_calm ..)
    | with_reducible apply Calm.trans ?_ (refSelect_calm ..)
    | with_reducible apply Calm.trans ?_ (launchArmWrite_calm ..)
    | with_reducible apply Calm.trans ?_ (launchDisarmWrite_calm ..)
    | with_reducible apply Calm.trans ?_ (measWindow_calm ..)
    | with_reducible apply Calm.trans ?_ (stallWindow_calm ..)
    | with_reducible apply Calm.trans ?_ (sivSync_calm ..)
    | with_reducible apply Calm.trans ?_ (sieveWindow_calm ..)
    | with_reducible apply Calm.trans ?_ (bankRequest_calm ..)
    | with_reducible apply Calm.trans ?_ (yardClear_calm ..)
    | with_reducible apply Calm.trans ?_ (State.answer_calm ..)
    | with_reducible apply Calm.trans ?_ (yardSnap_calm ..)
    | with_reducible apply Calm.trans ?_ (hallFreezeWrite_calm ..)
    | with_reducible apply Calm.trans ?_ (dramFreezeWrite_calm ..)
    | with_reducible apply Calm.trans ?_ (trainingGo_calm ..)
    | with_reducible apply Calm.trans ?_ (trainingDelay_calm ..)
    | with_reducible apply Calm.trans ?_ (paletteWindow_calm ..)
    | with_reducible apply Calm.trans ?_ (sgnCommit_calm ..)
    | with_reducible apply Calm.trans ?_ (regimeFull_calm ..)
    | with_reducible apply Calm.trans ?_ (regimeLean_calm ..)
    | with_reducible apply Calm.trans ?_ (regimeWatch_calm ..)
    | with_reducible apply Calm.trans ?_ (rollbackAdvance_calm ..)
    | with_reducible apply Calm.trans ?_ (otpProgram_calm ..)
    | with_reducible apply Calm.trans ?_ (State.writeFields_calm ..)
    | split)

theorem w1cClear_calm (n : Nat) (w : Word) (s : State) : Calm s (w1cClear n w s) := by
  unfold w1cClear
  try dsimp only
  repeat' (first
    | with_reducible exact Calm.refl _
    | with_reducible apply Calm.trans ?_ (State.refuseWrite_calm ..)
    | with_reducible apply Calm.trans ?_ (State.clearSticky_calm ..)
    | with_reducible apply Calm.trans ?_ (State.answer_calm ..)
    | split)

theorem State.startYard_calm (s : State) (k : Fin 8) : Calm s (State.startYard s k) := by
  unfold State.startYard
  try dsimp only
  repeat' (first
    | with_reducible exact Calm.refl _
    | with_reducible apply Calm.trans ?_ (State.bringIntoForce_calm ..)
    | with_reducible apply Calm.trans ?_ (State.modYard_calm ..)
    | with_reducible apply Calm.trans ?_ (State.passWords_calm ..)
    | with_reducible apply Calm.trans ?_ (State.clearWord_calm ..)
    | with_reducible apply Calm.foldl
    | (intro _ _; try dsimp only))

theorem State.fnStarts_calm (s : State) (fn : Nat) : Calm s (State.fnStarts s fn) := by
  unfold State.fnStarts
  try dsimp only
  repeat' (first
    | with_reducible exact Calm.refl _
    | with_reducible apply Calm.trans ?_ (State.startTally_calm ..)
    | with_reducible apply Calm.trans ?_ (State.startYard_calm ..)
    | with_reducible apply Calm.trans ?_ (State.startSign_calm ..)
    | with_reducible apply Calm.trans ?_ (State.startCrier_calm ..)
    | with_reducible apply Calm.trans ?_ (State.startAux_calm ..)
    | split)

theorem State.joinRun_calm (s : State) (fn : Nat) : Calm s (State.joinRun s fn) := by
  unfold State.joinRun
  try dsimp only
  repeat' (first
    | with_reducible exact Calm.refl _
    | (simp only [Calm.written]; with_reducible refine CalmMk.put (fun h => h) ?_))

theorem State.settleStop_calm (s : State) (fn : Nat) : Calm s (State.settleStop s fn) := by
  unfold State.settleStop
  try dsimp only
  repeat' (first
    | with_reducible exact Calm.refl _
    | with_reducible apply Calm.trans ?_ (State.finishStop_calm ..)
    | split)

theorem State.startOther_calm (s : State) (fn : Nat) : Calm s (State.startOther s fn).2 := by
  unfold State.startOther
  try dsimp only
  repeat' (first
    | with_reducible exact Calm.refl _
    | with_reducible apply Calm.trans ?_ (State.forceLocked_calm ..)
    | with_reducible apply Calm.trans ?_ (State.toll_calm ..)
    | with_reducible apply Calm.trans ?_ (State.answer_calm ..)
    | with_reducible apply Calm.trans ?_ (State.fnStarts_calm ..)
    | with_reducible apply Calm.trans ?_ (State.joinRun_calm ..)
    | split)

theorem State.startAStall_calm (s : State) (n : Fin 16) : Calm s (State.startAStall s n).2 := by
  have h := State.startStall_calm s (s.forceLocked (fnStall n)) n (.refl s) (State.forceLocked_calm ..)
  unfold State.startAStall
  split <;> rename_i e
  · exact ((Calm.of_snd h e).trans (State.joinRun_calm ..)).trans (State.answer_calm ..)
  · exact (Calm.of_snd h e).trans (State.answer_calm ..)
  · exact (Calm.of_snd h e).trans (State.answer_calm ..)

theorem State.startFn_calm (s : State) (fn : Nat) : Calm s (State.startFn s fn).2 := by
  unfold State.startFn
  try dsimp only
  repeat' (first
    | with_reducible exact Calm.refl _
    | with_reducible apply Calm.trans ?_ (State.toll_calm ..)
    | with_reducible apply Calm.trans ?_ (State.answer_calm ..)
    | with_reducible apply Calm.trans ?_ (State.settleStop_calm ..)
    | with_reducible apply Calm.trans ?_ (State.startAStall_calm ..)
    | with_reducible apply Calm.trans ?_ (Calm.of_snd (State.startAStall_calm ..) (by assumption))
    | with_reducible apply Calm.trans ?_ (State.startOther_calm ..)
    | with_reducible apply Calm.trans ?_ (Calm.of_snd (State.startOther_calm ..) (by assumption))
    | split)

theorem State.fnStops_calm (s : State) (fn : Nat) : Calm s (State.fnStops s fn) := by
  unfold State.fnStops
  try dsimp only
  repeat' (first
    | with_reducible exact Calm.refl _
    | with_reducible apply Calm.trans ?_ (State.requestStop_calm ..)
    | with_reducible apply Calm.trans ?_ (State.stopTally_calm ..)
    | with_reducible apply Calm.trans ?_ (State.stopSign_calm ..)
    | with_reducible apply Calm.trans ?_ (State.stopCrier_calm ..)
    | with_reducible apply Calm.trans ?_ (State.stopAux_calm ..)
    | split
    | (simp only [Calm.written]; with_reducible refine CalmMk.put (fun h => h) ?_))

theorem State.stopFn_calm (s : State) (fn : Nat) : Calm s (State.stopFn s fn) := by
  unfold State.stopFn
  try dsimp only
  repeat' (first
    | with_reducible exact Calm.refl _
    | with_reducible apply Calm.trans ?_ (State.toll_calm ..)
    | with_reducible apply Calm.trans ?_ (State.answer_calm ..)
    | with_reducible apply Calm.trans ?_ (State.fnStops_calm ..)
    | split)

theorem State.startAll_calm (s : State) (fns : List Nat) : Calm s (State.startAll s fns) := by
  unfold State.startAll
  try dsimp only
  repeat' (first
    | with_reducible exact Calm.refl _
    | with_reducible apply Calm.trans ?_ (State.startFn_calm ..)
    | with_reducible apply Calm.trans ?_ (Calm.of_snd (State.startFn_calm ..) (by assumption))
    | with_reducible apply Calm.trans ?_ (State.attention_calm ..)
    | with_reducible apply Calm.foldl
    | (intro _ _; try dsimp only)
    | split)

theorem State.checkSlot_calm (s : State) (slot : Nat) : Calm s (State.checkSlot s slot).2 := by
  unfold State.checkSlot
  extract_lets a length flags nsect sections f
  split
  · exact State.draw_calm ..
  · exact .refl _

theorem State.setWhole_calm (s : State) (n : Nat) (w : Word) : Calm s (State.setWhole s n w) := by
  unfold State.setWhole
  try dsimp only
  repeat' (first
    | with_reducible exact Calm.refl _
    | with_reducible apply Calm.trans ?_ (State.setWritten_calm ..)
    | with_reducible apply Calm.trans ?_ (State.setForce_calm ..))

theorem State.applyRegions_calm (s : State) (b : List Byte) : Calm s (State.applyRegions s b) := by
  unfold State.applyRegions
  try dsimp only
  repeat' (first
    | with_reducible exact Calm.refl _
    | with_reducible apply Calm.trans ?_ (State.setWhole_calm ..)
    | with_reducible apply Calm.foldl
    | (intro _ _; try dsimp only))

theorem State.applyBoard_calm (s : State) (b : List Byte) : Calm s (State.applyBoard s b) := by
  unfold State.applyBoard
  try dsimp only
  repeat' (first
    | with_reducible exact Calm.refl _
    | with_reducible apply Calm.trans ?_ (State.setWhole_calm ..)
    | with_reducible apply Calm.trans ?_ (State.modImage_calm _ _ ?_)
    | with_reducible exact fun _ h => h)

theorem State.applySieveBank_calm (s : State) (b : List Byte) : Calm s (State.applySieveBank s b) := by
  unfold State.applySieveBank
  try dsimp only
  repeat' (first
    | with_reducible exact Calm.refl _
    | with_reducible apply Calm.foldl
    | (intro _ _; try dsimp only)
    | split
    | (simp only [Calm.written]; with_reducible refine CalmMk.put (fun h => h) ?_))

theorem State.applyGlokor_calm (s : State) (b : List Byte) : Calm s (State.applyGlokor s b) := by
  unfold State.applyGlokor
  try dsimp only
  repeat' (first
    | with_reducible exact Calm.refl _
    | with_reducible apply Calm.trans ?_ (State.setWritten_calm ..)
    | with_reducible apply Calm.trans ?_ (State.setForce_calm ..)
    | with_reducible apply Calm.foldl
    | (intro _ _; try dsimp only)
    | split)

theorem State.imageWrite_calm {s t : State} {n : Nat} {w : Word} (h : s.imageWrite n w = some t) : Calm s t := by
  unfold State.imageWrite at h
  split at h
  · cases h
  · dsimp only at h
    split at h
    · cases h
    · split at h
      · cases h
      · split at h
        · split at h
          · cases h; exact measWindow_calm ..
          · cases h
        · cases h; exact stallWindow_calm ..
        · cases h; exact sieveWindow_calm ..
        · cases h; exact paletteWindow_calm ..
        · split at h
          · cases h; exact State.writeParam_calm ..
          · cases h; exact ((State.setWritten_calm ..).trans (State.setForce_calm ..)).trans (State.answer_calm ..)

theorem State.applyLaunch_calm {s t : State} {e : List Byte} (h : s.applyLaunch e = some t) : Calm s t := by
  unfold State.applyLaunch at h
  dsimp only at h
  split at h
  · cases h
  · cases h
    exact ((State.setWhole_calm ..).trans (State.setWhole_calm ..)).trans (State.setWhole_calm ..)

theorem applyAll_calm {α : Type} {f : State → α → Option State} (hf : ∀ s x t, f s x = some t → Calm s t) (l : List α)
    (s : State) : Calm s (applyAll f l s).1 := by
  induction l generalizing s with
  | nil => exact .refl _
  | cons x l ih =>
    unfold applyAll
    split
    · exact (hf _ _ _ (by assumption)).trans (ih _)
    · exact .refl _

theorem State.applyImage_calm (s : State) (f : ImageFile) : Calm s (State.applyImage s f).1 := by
  unfold State.applyImage
  extract_lets l b s1 s2
  have h1 : Calm s s1 := ⟨rfl, rfl, rfl, id⟩
  have h2 : Calm s s2 := (h1.trans (State.applyRegions_calm ..)).trans (State.applyBoard_calm ..)
  split
  rename_i s3 params e3
  have h3 : Calm s s3 := h2.trans (Calm.of_fst (applyAll_calm (fun _ _ _ h => State.imageWrite_calm h) _ _) e3)
  split
  · exact h3
  · extract_lets s4 s5
    have h4 : Calm s s4 :=
      (Calm.foldl h3 fun _ _ => State.applySieveBank_calm ..).trans (State.applyGlokor_calm ..)
    have h5 : Calm s s5 := Calm.foldl h4 fun _ _ => State.hallWrite_calm ..
    split
    rename_i s6 launches e6
    have h6 : Calm s s6 := h5.trans (Calm.of_fst (applyAll_calm (fun _ _ _ h => State.applyLaunch_calm h) _ _) e6)
    dsimp only
    refine h6.trans (State.modImage_calm _ _ ?_)
    exact fun _ h => h

theorem State.tapClock_calm (s : State) (tms tdi : Bool) : Calm s (State.tapClock s tms tdi) := by
  unfold State.tapClock
  try dsimp only
  repeat' (first
    | with_reducible exact Calm.refl _
    | split
    | (simp only [Calm.written]; with_reducible refine CalmMk.put (fun h => h) ?_))

theorem State.scanPins_calm (s : State) (x : TickIn) : Calm s (State.scanPins s x) := by
  unfold State.scanPins
  try dsimp only
  repeat' (first
    | with_reducible exact Calm.refl _
    | with_reducible apply Calm.trans ?_ (State.tapClock_calm ..)
    | with_reducible apply Calm.foldl
    | (intro _ _; try dsimp only)
    | split
    | (simp only [Calm.written]; with_reducible refine CalmMk.put (fun h => h) ?_))

theorem State.lockTap_calm (s : State) : Calm s (State.lockTap s) := by
  unfold State.lockTap
  try dsimp only
  repeat' (first
    | with_reducible exact Calm.refl _
    | split
    | (simp only [Calm.written]; with_reducible refine CalmMk.put (fun h => h) ?_))

theorem State.flashErased_wf {s : State} (h : Sparse.wf flashFill s.image.flash = true) (a n : Nat) :
    Sparse.wf flashFill (s.flashErased a n) = true := Sparse.wf_filter h _

theorem State.interruptFlash_calm (s : State) : Calm s (State.interruptFlash s) := by
  unfold State.interruptFlash
  split
  · exact .refl _
  · exact Calm.ite ⟨rfl, rfl, rfl, fun h => ⟨h.1, h.2.1, State.flashErased_wf h.2.2.1 _ _, h.2.2.2⟩⟩
      (State.modImage_calm _ _ (by exact fun _ h => h))

theorem State.outlives_tame (s : State) : Tame s s.outlives :=
  ⟨rfl, rfl, fun h => ⟨h.1, rfl, ((State.interruptFlash_calm s).mems h).2.2.1, rfl⟩⟩

theorem State.resetAll_tame (s : State) : Tame s s.resetAll := by
  unfold State.resetAll
  have h : Tame s s.outlives := State.outlives_tame s
  have k : Tame s.outlives s.outlives.relock := (State.relock_calm _).tame
  change Tame s (if s.flag F.MNT_REF_SEL then { s.outlives.relock with tollDue := [] } else s.outlives)
  generalize s.outlives.relock = u at k ⊢
  generalize s.outlives = t at h k ⊢
  have hu : Tame u { u with tollDue := [] } := ⟨rfl, rfl, id⟩
  split
  · exact (h.trans k).trans hu
  · exact h

theorem State.restart_calm (s : State) : Calm s s.restart :=
  have h := State.resetAll_tame s
  ⟨h.pending, h.chron, rfl, h.mems⟩

theorem State.raiseFrom_calm (s : State) (i : Nat) : Calm s (State.raiseFrom s i) := by
  unfold State.raiseFrom
  try dsimp only
  repeat' (first
    | with_reducible exact Calm.refl _
    | with_reducible apply Calm.trans ?_ (State.modPower_calm _ _ ?_)
    | with_reducible exact fun _ h => h
    | split)

theorem State.beginSequence_calm (s : State) : Calm s (State.beginSequence s) := by
  unfold State.beginSequence
  try dsimp only
  repeat' (first
    | with_reducible exact Calm.refl _
    | with_reducible apply Calm.trans ?_ (State.modPower_calm _ _ ?_)
    | with_reducible apply Calm.trans ?_ (State.raiseFrom_calm ..)
    | with_reducible exact fun _ h => h)

theorem State.undoTimeout_calm (s : State) : Calm s s.undoTimeout := by
  unfold State.undoTimeout
  split
  · exact ⟨rfl, rfl, rfl, id⟩
  · exact .refl _

theorem railSettled_calm (s : State) : Calm s (railSettled s) := by
  unfold railSettled
  try dsimp only
  repeat' (first
    | with_reducible exact Calm.refl _
    | with_reducible apply Calm.trans ?_ (State.undoTimeout_calm ..)
    | with_reducible apply Calm.trans ?_ (State.raiseFrom_calm ..)
    | split)

theorem railTimeout_calm (s : State) : Calm s (railTimeout s) := by
  unfold railTimeout
  try dsimp only
  repeat' (first
    | with_reducible exact Calm.refl _
    | with_reducible apply Calm.trans ?_ (State.modPower_calm _ _ ?_)
    | with_reducible apply Calm.trans ?_ (State.toll_calm ..)
    | with_reducible exact fun _ h => h
    | split
    | (simp only [Calm.written]; with_reducible refine CalmMk.put (fun h => h) ?_))

theorem sequenceRetry_calm (s : State) : Calm s (sequenceRetry s) := by
  unfold sequenceRetry
  split
  · exact Calm.ite ((State.modPower_calm _ _ (by exact fun _ _ => rfl)).trans (State.beginSequence_calm ..)) (.refl _)
  · exact .refl _

theorem State.stopMints_calm (s : State) : Calm s (State.stopMints s) := by
  unfold State.stopMints
  try dsimp only
  repeat' (first
    | with_reducible exact Calm.refl _
    | with_reducible apply Calm.trans ?_ (State.stopMint_calm ..)
    | with_reducible apply Calm.foldl
    | (intro _ _; try dsimp only))

theorem brownOut_calm (s : State) : Calm s (brownOut s) := by
  unfold brownOut
  extract_lets s1
  have h1 : Calm s s1 := (State.stopMints_calm ..).trans (State.restart_calm ..)
  refine Calm.ite (.refl _) ?_
  refine ((h1.trans ?_).trans (State.modPower_calm _ _ (by exact fun _ h => h))).trans (State.toll_calm ..)
  exact ⟨rfl, rfl, rfl, fun h => ⟨rfl, h.2⟩⟩

theorem brownOutRestart_calm (s : State) : Calm s (brownOutRestart s) := by
  unfold brownOutRestart
  try dsimp only
  repeat' (first
    | with_reducible exact Calm.refl _
    | with_reducible apply Calm.trans ?_ (State.modImage_calm _ _ ?_)
    | with_reducible apply Calm.trans ?_ (State.beginSequence_calm ..)
    | with_reducible exact fun _ h => h
    | split)

theorem State.readStatus_calm (s : State) (words : Vector (Option (BitVec 16)) 6) : Calm s (State.readStatus s words) := by
  unfold State.readStatus
  try dsimp only
  repeat' (first
    | with_reducible exact Calm.refl _
    | with_reducible apply Calm.trans ?_ (State.modPower_calm _ _ ?_)
    | with_reducible apply Calm.trans ?_ (State.toll_calm ..)
    | with_reducible exact fun _ h => h
    | with_reducible apply Calm.foldl
    | (intro _ _; try dsimp only)
    | split)

theorem State.faultReported_calm (s : State) (words : Vector (Option (BitVec 16)) 6) : Calm s (State.faultReported s words) := by
  unfold State.faultReported
  try dsimp only
  repeat' (first
    | with_reducible exact Calm.refl _
    | with_reducible apply Calm.trans ?_ (State.toll_calm ..)
    | with_reducible apply Calm.trans ?_ (State.setSticky_calm ..)
    | with_reducible apply Calm.trans ?_ (State.attention_calm ..)
    | with_reducible apply Calm.trans ?_ (State.modPower_calm _ _ ?_)
    | with_reducible exact fun _ h => h
    | split)

theorem pmAlert_calm (words : Vector (Option (BitVec 16)) 6) (s : State) : Calm s (pmAlert words s) := by
  unfold pmAlert
  try dsimp only
  repeat' (first
    | with_reducible exact Calm.refl _
    | with_reducible apply Calm.trans ?_ (State.readStatus_calm ..)
    | with_reducible apply Calm.trans ?_ (State.modPower_calm _ _ ?_)
    | with_reducible apply Calm.trans ?_ (State.faultReported_calm ..)
    | with_reducible exact fun _ h => h)

theorem State.fieldOf_calm (s : State) (w : Nat) (x : Rat) : Calm s (State.fieldOf s w x).2 := by
  unfold State.fieldOf
  try dsimp only
  repeat' (first
    | with_reducible exact Calm.refl _
    | with_reducible apply Calm.trans ?_ (State.draw_calm ..)
    | with_reducible apply Calm.trans ?_ (Calm.of_snd (State.draw_calm ..) (by assumption))
    | split)

theorem State.takeVout_calm (s : State) (k : Fin 6) (w : Option (BitVec 16)) : Calm s (State.takeVout s k w) := by
  unfold State.takeVout
  try dsimp only
  repeat' (first
    | with_reducible exact Calm.refl _
    | with_reducible apply Calm.trans ?_ (State.toll_calm ..)
    | with_reducible apply Calm.trans ?_ (State.fieldOf_calm ..)
    | with_reducible apply Calm.trans ?_ (Calm.of_snd (State.fieldOf_calm ..) (by assumption))
    | with_reducible apply Calm.trans ?_ (State.modPower_calm _ _ ?_)
    | with_reducible exact fun _ h => h
    | split)

theorem State.takeIout_calm (s : State) (k : Fin 6) (w : Option (BitVec 16)) : Calm s (State.takeIout s k w) := by
  unfold State.takeIout
  try dsimp only
  repeat' (first
    | with_reducible exact Calm.refl _
    | with_reducible apply Calm.trans ?_ (State.toll_calm ..)
    | with_reducible apply Calm.trans ?_ (State.fieldOf_calm ..)
    | with_reducible apply Calm.trans ?_ (Calm.of_snd (State.fieldOf_calm ..) (by assumption))
    | with_reducible apply Calm.trans ?_ (State.modPower_calm _ _ ?_)
    | with_reducible exact fun _ h => h
    | split)

theorem State.takeReading_calm (s : State) (k : Fin 6) (t : Telemetry) : Calm s (State.takeReading s k t) := by
  unfold State.takeReading
  try dsimp only
  repeat' (first
    | with_reducible exact Calm.refl _
    | with_reducible apply Calm.trans ?_ (State.takeVout_calm ..)
    | with_reducible apply Calm.trans ?_ (State.takeIout_calm ..))

theorem pmbusPoll_calm (words : Vector Telemetry 6) (s : State) : Calm s (pmbusPoll words s) := by
  unfold pmbusPoll
  try dsimp only
  repeat' (first
    | with_reducible exact Calm.refl _
    | with_reducible apply Calm.trans ?_ (State.readStatus_calm ..)
    | with_reducible apply Calm.trans ?_ (State.takeReading_calm ..)
    | with_reducible apply Calm.trans ?_ (State.faultReported_calm ..)
    | with_reducible apply Calm.trans ?_ (State.modPower_calm _ _ ?_)
    | with_reducible exact fun _ h => h
    | with_reducible apply Calm.foldl
    | (intro _ _; try dsimp only)
    | split)

theorem State.sendVout_calm (s : State) (mv : Nat) : Calm s (State.sendVout s mv) := by
  unfold State.sendVout
  try dsimp only
  repeat' (first
    | with_reducible exact Calm.refl _
    | with_reducible apply Calm.trans ?_ (State.fieldOf_calm ..)
    | with_reducible apply Calm.trans ?_ (Calm.of_snd (State.fieldOf_calm ..) (by assumption))
    | with_reducible apply Calm.trans ?_ (State.pmSend_calm ..)
    | split)

theorem vcoreAdapt_calm (up : Option Bool) (s : State) : Calm s (vcoreAdapt up s) := by
  unfold vcoreAdapt
  try dsimp only
  repeat' (first
    | with_reducible exact Calm.refl _
    | with_reducible apply Calm.trans ?_ (State.sendVout_calm ..)
    | split
    | (simp only [Calm.written]; with_reducible refine CalmMk.put (fun h => h) ?_))

theorem State.stopLeaves_calm (fns : List Nat) (k : Nat) (s : State) : Calm s (State.stopLeaves fns k s) := by
  induction k generalizing s with
  | zero => exact .refl _
  | succ k ih =>
    unfold State.stopLeaves
    split
    · exact .refl _
    · exact (State.fnStops_calm ..).trans (ih _)

theorem State.shed_calm (s : State) (n : Fin 16) : Calm s (State.shed s n) :=
  (((State.stopLeaves_calm ..).trans (State.toll_calm ..)).trans (State.setSticky_calm ..)).trans (State.attention_calm ..)

theorem State.shedForLean_calm (s : State) : Calm s (State.shedForLean s) := by
  unfold State.shedForLean
  try dsimp only
  repeat' (first
    | with_reducible exact Calm.refl _
    | with_reducible apply Calm.trans ?_ (State.shed_calm ..)
    | with_reducible apply Calm.foldl
    | (intro _ _; try dsimp only)
    | split)

theorem State.forceLean_calm (s : State) : Calm s (State.forceLean s) := by
  unfold State.forceLean
  try dsimp only
  repeat' (first
    | with_reducible exact Calm.refl _
    | with_reducible apply Calm.trans ?_ (State.beginChange_calm ..)
    | with_reducible apply Calm.trans ?_ (State.recharge_calm ..)
    | with_reducible apply Calm.trans ?_ (State.modPower_calm _ _ ?_)
    | with_reducible apply Calm.trans ?_ (State.toll_calm ..)
    | with_reducible apply Calm.trans ?_ (State.attention_calm ..)
    | with_reducible apply Calm.trans ?_ (State.shedForLean_calm ..)
    | with_reducible exact fun _ h => h)

theorem State.forceWatch_calm (s : State) : Calm s (State.forceWatch s) := by
  unfold State.forceWatch
  try dsimp only
  repeat' (first
    | with_reducible exact Calm.refl _
    | with_reducible apply Calm.trans ?_ (State.modPower_calm _ _ ?_)
    | with_reducible apply Calm.trans ?_ (State.toll_calm ..)
    | with_reducible apply Calm.trans ?_ (State.attention_calm ..)
    | with_reducible exact fun _ h => h)

theorem State.beginWake_calm (s : State) : Calm s (State.beginWake s) := by
  unfold State.beginWake
  try dsimp only
  repeat' (first
    | with_reducible exact Calm.refl _
    | with_reducible apply Calm.trans ?_ (State.modPower_calm _ _ ?_)
    | with_reducible apply Calm.trans ?_ (State.beginSequence_calm ..)
    | with_reducible exact fun _ h => h)

theorem State.wakeIfDue_calm (s : State) : Calm s (State.wakeIfDue s) := by
  unfold State.wakeIfDue
  try dsimp only
  repeat' (first
    | with_reducible exact Calm.refl _
    | with_reducible apply Calm.trans ?_ (State.beginWake_calm ..)
    | split)

theorem State.takeWake_calm (s : State) (i : Fin 5) : Calm s (State.takeWake s i) := by
  unfold State.takeWake
  try dsimp only
  repeat' (first
    | with_reducible exact Calm.refl _
    | with_reducible apply Calm.trans ?_ (State.setSticky_calm ..)
    | with_reducible apply Calm.trans ?_ (State.modPower_calm _ _ ?_)
    | with_reducible apply Calm.trans ?_ (State.wakeIfDue_calm ..)
    | with_reducible exact fun _ h => h
    | split)

theorem State.wakeEvent_calm (s : State) (i : Fin 5) : Calm s (State.wakeEvent s i) := by
  unfold State.wakeEvent
  try dsimp only
  repeat' (first
    | with_reducible exact Calm.refl _
    | with_reducible apply Calm.trans ?_ (State.takeWake_calm ..)
    | split
    | (simp only [Calm.written]; with_reducible refine CalmMk.put (fun h => h) ?_))

theorem State.keepWakes_calm (s : State) : Calm s (State.keepWakes s) := by
  unfold State.keepWakes
  try dsimp only
  repeat' (first
    | with_reducible exact Calm.refl _
    | with_reducible apply Calm.trans ?_ (State.takeWake_calm ..)
    | with_reducible apply Calm.foldl
    | (intro _ _; try dsimp only)
    | split)

theorem State.thermalWarning_calm (s : State) : Calm s (State.thermalWarning s) := by
  unfold State.thermalWarning
  try dsimp only
  repeat' (first
    | with_reducible exact Calm.refl _
    | with_reducible apply Calm.trans ?_ (State.modPower_calm _ _ ?_)
    | with_reducible apply Calm.trans ?_ (State.attention_calm ..)
    | with_reducible exact fun _ h => h
    | split)

theorem State.coolDown_calm (s : State) : Calm s (State.coolDown s) := by
  unfold State.coolDown
  try dsimp only
  repeat' (first
    | with_reducible exact Calm.refl _
    | with_reducible apply Calm.trans ?_ (State.forceLean_calm ..)
    | split)

theorem tempReading_calm (sensor : Fin 12) (t : BitVec 16) (s : State) : Calm s (tempReading sensor t s) := by
  unfold tempReading
  try dsimp only
  repeat' (first
    | with_reducible exact Calm.refl _
    | with_reducible apply Calm.trans ?_ (State.modPower_calm _ _ ?_)
    | with_reducible apply Calm.trans ?_ (State.thermalWarning_calm ..)
    | with_reducible apply Calm.trans ?_ (State.wakeIfDue_calm ..)
    | with_reducible apply Calm.trans ?_ (State.forceWatch_calm ..)
    | with_reducible apply Calm.trans ?_ (State.coolDown_calm ..)
    | with_reducible exact fun _ h => h
    | split)

theorem thermalRecovery_calm (s : State) : Calm s (thermalRecovery s) := by
  unfold thermalRecovery
  try dsimp only
  repeat' (first
    | with_reducible exact Calm.refl _
    | with_reducible apply Calm.trans ?_ (State.modPower_calm _ _ ?_)
    | with_reducible apply Calm.trans ?_ (State.askRegime_calm ..)
    | with_reducible exact fun _ h => h
    | split)

theorem State.newNonce_calm (s : State) : Calm s (State.newNonce s) := by
  unfold State.newNonce
  try dsimp only
  repeat' (first
    | with_reducible exact Calm.refl _
    | with_reducible apply Calm.trans ?_ (State.draw_calm ..)
    | with_reducible apply Calm.trans ?_ (Calm.of_snd (State.draw_calm ..) (by assumption))
    | split
    | (simp only [Calm.written]; with_reducible refine CalmMk.put (fun h => h) ?_))

theorem State.linkUp_calm (s : State) : Calm s (State.linkUp s) := by
  unfold State.linkUp
  try dsimp only
  repeat' (first
    | with_reducible exact Calm.refl _
    | with_reducible apply Calm.trans ?_ (State.newNonce_calm ..)
    | (simp only [Calm.written]; with_reducible refine CalmMk.put (fun h => h) ?_))

theorem State.slotFails_calm (s : State) (slot reason : Nat) : Calm s (State.slotFails s slot reason) := by
  unfold State.slotFails
  try dsimp only
  repeat' (first
    | with_reducible exact Calm.refl _
    | with_reducible apply Calm.trans ?_ (State.modImage_calm _ _ ?_)
    | with_reducible apply Calm.trans ?_ (State.logEvent_calm ..)
    | with_reducible apply Calm.trans ?_ (State.toll_calm ..)
    | with_reducible exact fun _ h => h
    | split)

theorem State.trySlot_calm (s : State) (slot : Nat) (reread : List (Nat × Byte)) : Calm s (State.trySlot s slot reread).2 := by
  unfold State.trySlot
  split
  · rename_i e
    exact (Calm.of_snd (State.checkSlot_calm ..) e).trans (State.slotFails_calm ..)
  · rename_i f s1 e
    have h1 : Calm s s1 := Calm.of_snd (State.checkSlot_calm ..) e
    dsimp only
    have ht : Calm s1 (s1.applyImage { f with sections := s1.readAgain f reread }).1 := State.applyImage_calm ..
    generalize s1.applyImage { f with sections := s1.readAgain f reread } = r at ht ⊢
    split
    · exact h1.trans (State.slotFails_calm ..)
    · split
      · dsimp only
        refine (h1.trans ht).trans (State.modImage_calm _ _ ?_)
        exact fun _ h => h
      · refine (h1.trans ?_).trans (State.slotFails_calm ..)
        exact ⟨rfl, rfl, rfl, fun h => ⟨(ht.mems h).1, h.2⟩⟩

theorem State.enterSafe_calm (s : State) : Calm s (State.enterSafe s) := by
  unfold State.enterSafe
  try dsimp only
  repeat' (first
    | with_reducible exact Calm.refl _
    | with_reducible apply Calm.trans ?_ (State.modImage_calm _ _ ?_)
    | with_reducible apply Calm.trans ?_ (State.attention_calm ..)
    | with_reducible apply Calm.trans ?_ (State.linkUp_calm ..)
    | with_reducible exact fun _ h => h
    | split
    | (simp only [Calm.written]; with_reducible refine CalmMk.put (fun h => h) ?_))

theorem State.applyStage_calm (s : State) (sfdp : Option Sfdp) (reread : List (Nat × Byte)) :
    Calm s (State.applyStage s sfdp reread) := by
  unfold State.applyStage
  try dsimp only
  repeat' (first
    | with_reducible exact Calm.refl _
    | with_reducible apply Calm.trans ?_ (State.modImage_calm _ _ ?_)
    | with_reducible apply Calm.trans ?_ (State.lockTap_calm ..)
    | with_reducible apply Calm.trans ?_ (State.slotFails_calm ..)
    | with_reducible apply Calm.trans ?_ (State.enterSafe_calm ..)
    | with_reducible apply Calm.trans ?_ (State.trySlot_calm ..)
    | with_reducible apply Calm.trans ?_ (Calm.of_snd (State.trySlot_calm ..) (by assumption))
    | with_reducible apply Calm.trans ?_ (State.pmConfigure_calm ..)
    | with_reducible apply Calm.trans ?_ (State.linkUp_calm ..)
    | with_reducible apply Calm.trans ?_ (State.attention_calm ..)
    | with_reducible exact fun _ h => h
    | split)

theorem State.startStage_calm (s : State) (t : Training) : Calm s (State.startStage s t) := by
  unfold State.startStage
  try dsimp only
  repeat' (first
    | with_reducible exact Calm.refl _
    | with_reducible apply Calm.trans ?_ (State.trainDram_calm ..)
    | with_reducible apply Calm.trans ?_ (State.startRelief_calm ..)
    | with_reducible apply Calm.trans ?_ (State.startAll_calm ..)
    | with_reducible apply Calm.trans ?_ (State.modImage_calm _ _ ?_)
    | with_reducible exact fun _ h => h)

theorem startup_calm (sfdp : Option Sfdp) (reread : List (Nat × Byte)) (t : Training) (s : State) :
    Calm s (startup sfdp reread t s) := by
  unfold startup
  try dsimp only
  repeat' (first
    | with_reducible exact Calm.refl _
    | with_reducible apply Calm.trans ?_ (State.applyStage_calm ..)
    | with_reducible apply Calm.trans ?_ (State.startStage_calm ..)
    | split)

theorem State.armEntries_calm (s : State) : Calm s (State.armEntries s) := by
  unfold State.armEntries
  try dsimp only
  repeat' (first
    | with_reducible exact Calm.refl _
    | with_reducible apply Calm.trans ?_ (launchArmWrite_calm ..)
    | with_reducible apply Calm.trans ?_ (State.modImage_calm _ _ ?_)
    | with_reducible exact fun _ h => h
    | with_reducible apply Calm.foldl
    | (intro _ _; try dsimp only)
    | split)

theorem vaonPowerUp_keeps (s : State) :
    (vaonPowerUp s).pending = s.pending ∧ (s.memoriesWf → (vaonPowerUp s).memoriesWf) := by
  unfold vaonPowerUp
  split
  · exact ⟨rfl, id⟩
  · exact ⟨rfl, fun h => ⟨rfl, rfl, h.2.2.1, rfl⟩⟩

theorem vaonRemoval_keeps (s : State) :
    (vaonRemoval s).pending = s.pending ∧ (s.memoriesWf → (vaonRemoval s).memoriesWf) :=
  ⟨rfl, fun h => ⟨rfl, rfl, ((State.interruptFlash_calm s).mems h).2.2.1, rfl⟩⟩

theorem resetAssert_tame (s : State) : Tame s (resetAssert s) := by
  unfold resetAssert
  split
  · have h := (State.resetAll_tame s).trans (State.modPower_calm _ (fun p => { p with resetN := true }) (by exact fun _ h => h)).tame
    exact ⟨h.pending, h.chron, h.mems⟩
  · exact (State.modPower_calm _ _ (by exact fun _ h => h)).tame

theorem resetRelease_calm (s : State) : Calm s (resetRelease s) := by
  unfold resetRelease
  try dsimp only
  repeat' (first
    | with_reducible exact Calm.refl _
    | with_reducible apply Calm.trans ?_ (State.modPower_calm _ _ ?_)
    | with_reducible apply Calm.trans ?_ (State.modImage_calm _ _ ?_)
    | with_reducible apply Calm.trans ?_ (State.beginSequence_calm ..)
    | with_reducible exact fun _ h => h
    | split)

theorem State.takeRelease_calm (s : State) : Calm s (State.takeRelease s) := by
  unfold State.takeRelease
  try dsimp only
  repeat' (first
    | with_reducible exact Calm.refl _
    | with_reducible apply Calm.trans ?_ (resetRelease_calm ..)
    | split)

theorem internalReset_tame (s : State) : Tame s (internalReset s) := by
  unfold internalReset
  split
  · split
    · exact (resetAssert_tame s).trans (resetRelease_calm _).tame
    · exact .refl _
  · exact .refl _

end Sys2Proof.Machine
end

