-- ==== Sys2Proof/Laws/CalmHost.lean ====
section
/-! SUPPORT. Frames: what every operation of the machine leaves alone (the Clerk, Barter, the Wharf, WATCH and the tick). -/

namespace Sys2Proof.Machine

set_option Elab.async false

theorem State.modBarter_calm (s : State) (f : Barter → Barter) : Calm s (State.modBarter s f) := by
  unfold State.modBarter
  try dsimp only
  repeat' (first
    | with_reducible exact Calm.refl _
    | (simp only [Calm.written]; with_reducible refine CalmMk.put (fun h => h) ?_))

theorem State.sendTo_calm (s : State) (r : BarterRequest) (payload : List Byte) : Calm s (State.sendTo s r payload) := by
  unfold State.sendTo
  try dsimp only
  repeat' (first
    | with_reducible exact Calm.refl _
    | with_reducible apply Calm.trans ?_ (State.modBarter_calm ..))

theorem State.reply_calm (s : State) (r : Option BarterRequest) (code : Code) (body : List Byte) (flags : Nat) :
    Calm s (State.reply s r code body flags) := by
  unfold State.reply
  try dsimp only
  repeat' (first
    | with_reducible exact Calm.refl _
    | with_reducible apply Calm.trans ?_ (State.answer_calm ..)
    | with_reducible apply Calm.trans ?_ (State.modBarter_calm ..)
    | with_reducible apply Calm.trans ?_ (State.sendTo_calm ..)
    | split)

theorem State.finish_calm (s : State) (r : Option BarterRequest) (code : Code) (body : List Byte) (flags : Nat) :
    Calm s (State.finish s r code body flags) := by
  unfold State.finish
  try dsimp only
  repeat' (first
    | with_reducible exact Calm.refl _
    | with_reducible apply Calm.trans ?_ (State.reply_calm ..)
    | with_reducible apply Calm.trans ?_ (State.resetPort_calm ..)
    | split)

theorem State.turnBack_calm (s : State) (q : BarterRequest) : Calm s (State.turnBack s q) := by
  unfold State.turnBack
  try dsimp only
  repeat' (first
    | with_reducible exact Calm.refl _
    | with_reducible apply Calm.trans ?_ (State.tollIf_calm ..)
    | with_reducible apply Calm.trans ?_ (State.reply_calm ..))

theorem State.unexpire_calm (s : State) (op flags : Nat) (body : List Byte) : Calm s (State.unexpire s op flags body) := by
  unfold State.unexpire
  try dsimp only
  repeat' (first
    | with_reducible exact Calm.refl _
    | with_reducible apply Calm.trans ?_ (State.untoll_calm ..)
    | with_reducible apply Calm.trans ?_ (State.modBarter_calm ..)
    | with_reducible apply Calm.trans ?_ (State.reply_calm ..)
    | split
    | (simp only [Calm.written]; with_reducible refine CalmMk.put (fun h => h) ?_))

theorem State.clerk_calm (s : State) (op : Nat) (body : List Byte) (act : Option BarterRequest → State → State) (flags : Nat)
    (ha : ∀ r t, Calm t (act r t)) : Calm s (State.clerk s op body act flags) := by
  unfold State.clerk
  refine Calm.ite (.refl _) ?_
  extract_lets s1 run
  have h1 : Calm s s1 := State.unexpire_calm ..
  have hr (r : Option BarterRequest) (t : State) : Calm t (run r t) := by
    dsimp only [run]
    split
    · exact (State.tollIf_calm ..).trans (State.finish_calm ..)
    · exact ha _ _
  split
  · refine Calm.ite ?_ h1
    extract_lets t
    have ht : Calm s t := h1.trans (State.modBarter_calm ..)
    exact Calm.ite (ht.trans (State.turnBack_calm ..)) (ht.trans (hr _ _))
  · exact h1.trans (hr _ _)

theorem renew_calm (r : Option BarterRequest) (s : State) : Calm s (renew r s) := by
  unfold renew
  try dsimp only
  repeat' (first
    | with_reducible exact Calm.refl _
    | with_reducible apply Calm.trans ?_ (State.newNonce_calm ..)
    | with_reducible apply Calm.trans ?_ (State.finish_calm ..))

theorem State.doItem_calm (s : State) (write : Bool) (n v : Nat) : Calm s (State.doItem s write n v).2.2 := by
  unfold State.doItem
  try dsimp only
  repeat' (first
    | with_reducible exact Calm.refl _
    | with_reducible apply Calm.trans ?_ (State.writeParam_calm ..)
    | with_reducible apply Calm.trans ?_ (State.readParam_calm ..)
    | with_reducible apply Calm.trans ?_ (Calm.of_snd (State.readParam_calm ..) (by assumption))
    | with_reducible apply Calm.trans ?_ (State.draw_calm ..)
    | with_reducible apply Calm.trans ?_ (Calm.of_snd (State.draw_calm ..) (by assumption))
    | split)

theorem State.runItem_calm (s : State) : Calm s (State.runItem s) := by
  unfold State.runItem
  try dsimp only
  repeat' (first
    | with_reducible exact Calm.refl _
    | with_reducible apply Calm.trans ?_ (State.modBarter_calm ..)
    | with_reducible apply Calm.trans ?_ (State.finish_calm ..)
    | with_reducible apply Calm.trans ?_ (State.doItem_calm ..)
    | with_reducible apply Calm.trans ?_ (Calm.of_thd (State.doItem_calm ..) (by assumption))
    | split)

theorem beginItems_calm (write : Bool) (k : Nat) (body : List Byte) (r : Option BarterRequest) (s : State) : Calm s (beginItems write k body r s) := by
  unfold beginItems
  try dsimp only
  repeat' (first
    | with_reducible exact Calm.refl _
    | with_reducible apply Calm.trans ?_ (State.finish_calm ..)
    | with_reducible apply Calm.trans ?_ (State.modBarter_calm ..)
    | with_reducible apply Calm.trans ?_ (State.runItem_calm ..)
    | split)

theorem State.clerkFn_calm (s : State) (op : Nat) (body : List Byte) (act : Option BarterRequest → State → State)
    (ha : ∀ r t, Calm t (act r t)) : Calm s (State.clerkFn s op body act) := by
  unfold State.clerkFn
  extract_lets t
  have h : Calm s t := State.clerk_calm _ _ _ _ _ ha
  exact Calm.ite (.refl _) (Calm.ite h (h.trans ⟨rfl, rfl, rfl, id⟩))

theorem stopRequest_calm (body : List Byte) (r : Option BarterRequest) (s : State) : Calm s (stopRequest body r s) := by
  unfold stopRequest
  try dsimp only
  repeat' (first
    | with_reducible exact Calm.refl _
    | with_reducible apply Calm.trans ?_ (State.toll_calm ..)
    | with_reducible apply Calm.trans ?_ (State.finish_calm ..)
    | with_reducible apply Calm.trans ?_ (State.stopFn_calm ..)
    | split)

theorem startRequest_calm (body : List Byte) (r : Option BarterRequest) (s : State) : Calm s (startRequest body r s) := by
  unfold startRequest
  try dsimp only
  repeat' (first
    | with_reducible exact Calm.refl _
    | with_reducible apply Calm.trans ?_ (State.toll_calm ..)
    | with_reducible apply Calm.trans ?_ (State.finish_calm ..)
    | with_reducible apply Calm.trans ?_ (State.startFn_calm ..)
    | with_reducible apply Calm.trans ?_ (Calm.of_snd (State.startFn_calm ..) (by assumption))
    | split)

theorem ackAttn_calm (body : List Byte) (r : Option BarterRequest) (s : State) : Calm s (ackAttn body r s) := by
  unfold ackAttn
  try dsimp only
  repeat' (first
    | with_reducible exact Calm.refl _
    | with_reducible apply Calm.trans ?_ (State.finish_calm ..)
    | split
    | (simp only [Calm.written]; with_reducible refine CalmMk.put (fun h => h) ?_))

theorem State.judgeAck_calm (s : State) : Calm s (State.judgeAck s) := by
  unfold State.judgeAck
  try dsimp only
  repeat' (first
    | with_reducible exact Calm.refl _
    | with_reducible apply Calm.trans ?_ (State.finish_calm ..)
    | split)

theorem tollRead_calm (body : List Byte) (r : Option BarterRequest) (s : State) : Calm s (tollRead body r s) := by
  unfold tollRead
  try dsimp only
  repeat' (first
    | with_reducible exact Calm.refl _
    | with_reducible apply Calm.trans ?_ (State.finish_calm ..)
    | split)

theorem logRead_calm (body : List Byte) (r : Option BarterRequest) (s : State) : Calm s (logRead body r s) := by
  unfold logRead
  try dsimp only
  repeat' (first
    | with_reducible exact Calm.refl _
    | with_reducible apply Calm.trans ?_ (State.finish_calm ..)
    | split)

theorem resetRequest_calm (body : List Byte) (r : Option BarterRequest) (s : State) : Calm s (resetRequest body r s) := by
  unfold resetRequest
  try dsimp only
  repeat' (first
    | with_reducible exact Calm.refl _
    | with_reducible apply Calm.trans ?_ (State.finish_calm ..)
    | with_reducible apply Calm.trans ?_ (State.modBarter_calm ..)
    | split)

theorem requestDeadline_calm (s : State) : Calm s (requestDeadline s) := by
  unfold requestDeadline
  try dsimp only
  repeat' (first
    | with_reducible exact Calm.refl _
    | with_reducible apply Calm.trans ?_ (State.modBarter_calm ..)
    | with_reducible apply Calm.trans ?_ (State.turnBack_calm ..)
    | split
    | (simp only [Calm.written]; with_reducible refine CalmMk.put (fun h => h) ?_))

theorem State.clerkWord_calm (s : State) (a : Nat) : Calm s (State.clerkWord s a).2.2 := by
  unfold State.clerkWord
  try dsimp only
  repeat' (first
    | with_reducible exact Calm.refl _
    | with_reducible apply Calm.trans ?_ (hallRead_calm ..))

theorem State.clerkWords_calm (n : Nat) (s : State) (a : Nat) : Calm s (s.clerkWords n a).2.2 := by
  induction n generalizing s a with
  | zero => exact .refl _
  | succ n ih => exact (State.clerkWord_calm ..).trans (ih _ _)

theorem State.readHeaders_calm (st : Fin 16) (n : Nat) (s : State) (q : Nat) : Calm s (s.readHeaders st n q).2 := by
  induction n generalizing s q with
  | zero => exact .refl _
  | succ n ih =>
    unfold State.readHeaders
    dsimp only
    split
    · exact (State.readRecord_calm ..).trans (ih _ _)
    · exact State.readRecord_calm ..

theorem fetchHdr_calm (body : List Byte) (r : Option BarterRequest) (s : State) : Calm s (fetchHdr body r s) := by
  unfold fetchHdr
  try dsimp only
  repeat' (first
    | with_reducible exact Calm.refl _
    | with_reducible apply Calm.trans ?_ (State.finish_calm ..)
    | with_reducible apply Calm.trans ?_ (State.readHeaders_calm ..)
    | with_reducible apply Calm.trans ?_ (Calm.of_snd (State.readHeaders_calm ..) (by assumption))
    | split)

theorem fetchSeg_calm (body : List Byte) (r : Option BarterRequest) (s : State) : Calm s (fetchSeg body r s) := by
  unfold fetchSeg
  try dsimp only
  repeat' (first
    | with_reducible exact Calm.refl _
    | with_reducible apply Calm.trans ?_ (State.finish_calm ..)
    | with_reducible apply Calm.trans ?_ (State.readRecord_calm ..)
    | with_reducible apply Calm.trans ?_ (Calm.of_thd (State.readRecord_calm ..) (by assumption))
    | split)

theorem State.doWord_calm (s : State) (x : ClerkItem) : Calm s (s.doWord x).2.2 := by
  cases x with
  | zeros => exact .refl _
  | read a => exact State.clerkWord_calm ..
  | write a w => exact Machine.hallWrite_calm ..

theorem State.reachWord_calm (s : State) (x : ClerkItem) : Calm s (s.reachWord x).2.2 := by
  unfold State.reachWord
  split
  · exact (State.takeBank_calm ..).trans (State.doWord_calm ..)
  · exact State.doWord_calm ..

theorem State.workOn_calm (n : Nat) (s : State) : Calm s (s.workOn n) := by
  induction n generalizing s with
  | zero => exact .refl _
  | succ n ih =>
    unfold State.workOn
    split
    · exact .refl _
    · split
      · exact .refl _
      · split
        · exact .refl _
        · dsimp only
          split
          · exact ((State.reachWord_calm ..).trans (State.modBarter_calm ..)).trans (State.finish_calm ..)
          · exact ((State.reachWord_calm ..).trans (State.modBarter_calm ..)).trans (ih _)

theorem State.beginWork_calm (s : State) (r : Option BarterRequest) (items : List ClerkItem) (out : List Byte)
    (snap : Option (Fin 8)) : Calm s (State.beginWork s r items out snap) :=
  (State.modBarter_calm ..).trans (State.workOn_calm ..)

theorem State.clerkWork_calm (s : State) : Calm s (State.clerkWork s) := by
  unfold State.clerkWork
  split
  · split
    · exact (State.modBarter_calm ..).trans (State.finish_calm ..)
    · exact State.workOn_calm ..
  · exact .refl _

theorem fetchMeas_calm (body : List Byte) (r : Option BarterRequest) (s : State) : Calm s (fetchMeas body r s) := by
  unfold fetchMeas
  try dsimp only
  repeat' (first
    | with_reducible exact Calm.refl _
    | with_reducible apply Calm.trans ?_ (State.finish_calm ..)
    | with_reducible apply Calm.trans ?_ (State.beginWork_calm ..)
    | split)

theorem fetchTile_calm (body : List Byte) (r : Option BarterRequest) (s : State) : Calm s (fetchTile body r s) := by
  unfold fetchTile
  try dsimp only
  repeat' (first
    | with_reducible exact Calm.refl _
    | with_reducible apply Calm.trans ?_ (State.finish_calm ..)
    | with_reducible apply Calm.trans ?_ (State.beginWork_calm ..)
    | split)

theorem uploadOverlay_calm (body : List Byte) (r : Option BarterRequest) (s : State) : Calm s (uploadOverlay body r s) := by
  unfold uploadOverlay
  try dsimp only
  repeat' (first
    | with_reducible exact Calm.refl _
    | with_reducible apply Calm.trans ?_ (State.finish_calm ..)
    | with_reducible apply Calm.trans ?_ (State.beginWork_calm ..)
    | split)

theorem State.flashErase_calm (s : State) (a unit : Nat) (f : Image → List Nat) :
    Calm s (s.modImage fun x => { x with flash := s.flashErased a unit, torn := f x }) :=
  ⟨rfl, rfl, rfl, fun h => ⟨h.1, h.2.1, State.flashErased_wf h.2.2.1 _ _, h.2.2.2⟩⟩

theorem State.flashDone_calm (s : State) (op : FlashOp) : Calm s (State.flashDone s op) := by
  unfold State.flashDone
  extract_lets unit starts s1 bytes
  have h1 : Calm s s1 := Calm.foldl (.refl _) fun _ _ => State.flashErase_calm ..
  exact h1.trans (State.modImage_calm _ _ (by exact fun _ h => Sparse.wf_setAll h _))

theorem State.beginFlash_calm (s : State) (r : Option BarterRequest) (op : FlashOp) : Calm s (State.beginFlash s r op) := by
  unfold State.beginFlash
  try dsimp only
  repeat' (first
    | with_reducible exact Calm.refl _
    | with_reducible apply Calm.trans ?_ (State.modImage_calm _ _ ?_)
    | with_reducible apply Calm.trans ?_ (State.toll_calm ..)
    | with_reducible apply Calm.trans ?_ (State.finish_calm ..)
    | with_reducible exact fun _ h => h
    | split)

theorem State.imageError_calm (s : State) (r : Option BarterRequest) : Calm s (State.imageError s r) := by
  unfold State.imageError
  try dsimp only
  repeat' (first
    | with_reducible exact Calm.refl _
    | with_reducible apply Calm.trans ?_ (State.toll_calm ..)
    | with_reducible apply Calm.trans ?_ (State.finish_calm ..))

theorem imageWriteRequest_calm (body : List Byte) (r : Option BarterRequest) (s : State) : Calm s (imageWriteRequest body r s) := by
  unfold imageWriteRequest
  try dsimp only
  repeat' (first
    | with_reducible exact Calm.refl _
    | with_reducible apply Calm.trans ?_ (State.finish_calm ..)
    | with_reducible apply Calm.trans ?_ (State.imageError_calm ..)
    | with_reducible apply Calm.trans ?_ (State.beginFlash_calm ..)
    | split)

theorem imageCommit_calm (body : List Byte) (r : Option BarterRequest) (s : State) : Calm s (imageCommit body r s) := by
  unfold imageCommit
  try dsimp only
  repeat' (first
    | with_reducible exact Calm.refl _
    | with_reducible apply Calm.trans ?_ (State.finish_calm ..)
    | with_reducible apply Calm.trans ?_ (State.checkSlot_calm ..)
    | with_reducible apply Calm.trans ?_ (Calm.of_snd (State.checkSlot_calm ..) (by assumption))
    | with_reducible apply Calm.trans ?_ (State.imageError_calm ..)
    | with_reducible apply Calm.trans ?_ (State.beginFlash_calm ..)
    | split)

theorem flashOperationDone_calm (s : State) : Calm s (flashOperationDone s) := by
  unfold flashOperationDone
  try dsimp only
  repeat' (first
    | with_reducible exact Calm.refl _
    | with_reducible apply Calm.trans ?_ (State.flashDone_calm ..)
    | with_reducible apply Calm.trans ?_ (State.finish_calm ..)
    | split)

theorem State.modWharf_calm (s : State) (f : Wharf → Wharf) : Calm s (State.modWharf s f) := by
  unfold State.modWharf
  try dsimp only
  repeat' (first
    | with_reducible exact Calm.refl _
    | (simp only [Calm.written]; with_reducible refine CalmMk.put (fun h => h) ?_))

theorem State.takeConsign_calm (s : State) (c : Consign) : Calm s (State.takeConsign s c) := by
  unfold State.takeConsign
  try dsimp only
  repeat' (first
    | with_reducible exact Calm.refl _
    | with_reducible apply Calm.trans ?_ (State.modWharf_calm ..)
    | split)

theorem State.acceptConsign_calm (s : State) (r : Option BarterRequest) (c : Consign) : Calm s (State.acceptConsign s r c) := by
  unfold State.acceptConsign
  try dsimp only
  repeat' (first
    | with_reducible exact Calm.refl _
    | with_reducible apply Calm.trans ?_ (State.takeConsign_calm ..)
    | with_reducible apply Calm.trans ?_ (State.finish_calm ..))

theorem consign_calm (body : List Byte) (r : Option BarterRequest) (s : State) : Calm s (consign body r s) := by
  unfold consign
  try dsimp only
  repeat' (first
    | with_reducible exact Calm.refl _
    | with_reducible apply Calm.trans ?_ (State.finish_calm ..)
    | with_reducible apply Calm.trans ?_ (State.toll_calm ..)
    | with_reducible apply Calm.trans ?_ (State.acceptConsign_calm ..)
    | split
    | (simp only [Calm.written]; with_reducible refine CalmMk.put (fun h => h) ?_))

theorem State.readSlots_calm (u : Setup) (seg k : Nat) (s : State) (i n : Nat) : Calm s (s.readSlots u seg k i n).2.2 := by
  induction k generalizing s i n with
  | zero => exact .refl _
  | succ k ih =>
    unfold State.readSlots
    dsimp only
    split
    · exact .refl _
    · exact (State.readRecord_calm ..).trans (ih _ _ _)

theorem State.readStream_calm (s : State) (c : Consign) (i n : Nat) : Calm s (State.readStream s c i n).2.2 := by
  unfold State.readStream
  split
  · exact State.readSlots_calm ..
  · exact State.clerkWords_calm ..
  · exact State.clerkWords_calm ..
  · exact .refl _

theorem State.passRegion_calm (s : State) (chunk : Nat) (data : List Byte) : Calm s (State.passRegion s chunk data).2 := by
  unfold State.passRegion
  try dsimp only
  repeat' (first
    | with_reducible exact Calm.refl _
    | with_reducible apply Calm.trans ?_ (State.hallWrite_calm ..))

theorem wharfChunk_calm (s : State) : Calm s (wharfChunk s) := by
  unfold wharfChunk
  try dsimp only
  repeat' (first
    | with_reducible exact Calm.refl _
    | with_reducible apply Calm.trans ?_ (State.readStream_calm ..)
    | with_reducible apply Calm.trans ?_ (Calm.of_thd (State.readStream_calm ..) (by assumption))
    | with_reducible apply Calm.trans ?_ (State.passRegion_calm ..)
    | with_reducible apply Calm.trans ?_ (Calm.of_snd (State.passRegion_calm ..) (by assumption))
    | with_reducible apply Calm.trans ?_ (State.modWharf_calm ..)
    | split)

theorem wharfLinkUp_calm (s : State) : Calm s (wharfLinkUp s) := by
  unfold wharfLinkUp
  try dsimp only
  repeat' (first
    | with_reducible exact Calm.refl _
    | with_reducible apply Calm.trans ?_ (State.modWharf_calm ..)
    | with_reducible apply Calm.trans ?_ (State.untoll_calm ..)
    | with_reducible apply Calm.trans ?_ (State.finish_calm ..)
    | with_reducible apply Calm.trans ?_ (State.acceptConsign_calm ..)
    | split
    | (simp only [Calm.written]; with_reducible refine CalmMk.put (fun h => h) ?_))

theorem wharfLinkLoss_calm (s : State) : Calm s (wharfLinkLoss s) := by
  unfold wharfLinkLoss
  try dsimp only
  repeat' (first
    | with_reducible exact Calm.refl _
    | with_reducible apply Calm.trans ?_ (State.modWharf_calm ..)
    | with_reducible apply Calm.trans ?_ (State.toll_calm ..)
    | split)

theorem State.stranger_calm (s : State) (toll : Nat) : Calm s (State.stranger s toll) := by
  unfold State.stranger
  try dsimp only
  repeat' (first
    | with_reducible exact Calm.refl _
    | with_reducible apply Calm.trans ?_ (State.toll_calm ..))

theorem State.resend_calm (s : State) (k : Kept) (r : BarterRequest) : Calm s (State.resend s k r) := by
  unfold State.resend
  try dsimp only
  repeat' (first
    | with_reducible exact Calm.refl _
    | with_reducible apply Calm.trans ?_ (State.sendTo_calm ..))

theorem State.register_calm (s : State) (r : BarterRequest) : Calm s (State.register s r) := by
  unfold State.register
  try dsimp only
  repeat' (first
    | with_reducible exact Calm.refl _
    | with_reducible apply Calm.trans ?_ (State.modBarter_calm ..)
    | with_reducible apply Calm.trans ?_ (State.accept_calm ..)
    | with_reducible apply Calm.trans ?_ (State.reply_calm ..)
    | with_reducible apply Calm.trans ?_ (State.turnBack_calm ..)
    | split)

theorem State.barterPayload_calm (s : State) (p : List Byte) (src : FrameSource) : Calm s (State.barterPayload s p src) := by
  unfold State.barterPayload
  try dsimp only
  repeat' (first
    | with_reducible exact Calm.refl _
    | with_reducible apply Calm.trans ?_ (State.stranger_calm ..)
    | with_reducible apply Calm.trans ?_ (State.resend_calm ..)
    | with_reducible apply Calm.trans ?_ (State.sendTo_calm ..)
    | with_reducible apply Calm.trans ?_ (State.register_calm ..)
    | split)

theorem State.arpFrame_calm (s : State) (f : List Byte) : Calm s (State.arpFrame s f) := by
  unfold State.arpFrame
  try dsimp only
  repeat' (first
    | with_reducible exact Calm.refl _
    | with_reducible apply Calm.trans ?_ (State.modBarter_calm ..)
    | with_reducible apply Calm.trans ?_ (State.stranger_calm ..)
    | split)

theorem State.icmpPacket_calm (s : State) (src : FrameSource) (m : List Byte) : Calm s (State.icmpPacket s src m) := by
  unfold State.icmpPacket
  try dsimp only
  repeat' (first
    | with_reducible exact Calm.refl _
    | with_reducible apply Calm.trans ?_ (State.stranger_calm ..)
    | with_reducible apply Calm.trans ?_ (State.modBarter_calm ..)
    | split)

theorem State.udpPacket_calm (s : State) (src : FrameSource) (m : List Byte) : Calm s (State.udpPacket s src m) := by
  unfold State.udpPacket
  try dsimp only
  repeat' (first
    | with_reducible exact Calm.refl _
    | with_reducible apply Calm.trans ?_ (State.stranger_calm ..)
    | with_reducible apply Calm.trans ?_ (State.barterPayload_calm ..)
    | split)

theorem State.ipFrame_calm (s : State) (f : List Byte) : Calm s (State.ipFrame s f) := by
  unfold State.ipFrame
  try dsimp only
  repeat' (first
    | with_reducible exact Calm.refl _
    | with_reducible apply Calm.trans ?_ (State.stranger_calm ..)
    | with_reducible apply Calm.trans ?_ (State.icmpPacket_calm ..)
    | with_reducible apply Calm.trans ?_ (State.udpPacket_calm ..)
    | split)

theorem State.takeFrame_calm (s : State) (f : List Byte) : Calm s (State.takeFrame s f) := by
  unfold State.takeFrame
  try dsimp only
  repeat' (first
    | with_reducible exact Calm.refl _
    | with_reducible apply Calm.trans ?_ (State.arpFrame_calm ..)
    | with_reducible apply Calm.trans ?_ (State.ipFrame_calm ..)
    | with_reducible apply Calm.trans ?_ (State.stranger_calm ..)
    | split)

theorem State.receive_calm (s : State) (f : List Byte) : Calm s (State.receive s f) := by
  unfold State.receive
  try dsimp only
  repeat' (first
    | with_reducible exact Calm.refl _
    | with_reducible apply Calm.trans ?_ (State.modBarter_calm ..)
    | with_reducible apply Calm.trans ?_ (State.wakeEvent_calm ..)
    | with_reducible apply Calm.trans ?_ (State.takeFrame_calm ..)
    | split)

theorem plcaFallback_calm (s : State) : Calm s (plcaFallback s) := by
  unfold plcaFallback
  try dsimp only
  repeat' (first
    | with_reducible exact Calm.refl _
    | with_reducible apply Calm.trans ?_ (State.modBarter_calm ..)
    | with_reducible apply Calm.trans ?_ (State.toll_calm ..)
    | split)

theorem plcaRestore_calm (s : State) : Calm s (plcaRestore s) := by
  unfold plcaRestore
  try dsimp only
  repeat' (first
    | with_reducible exact Calm.refl _
    | with_reducible apply Calm.trans ?_ (State.modBarter_calm ..)
    | split)

theorem frameAbandoned_calm (s : State) : Calm s (frameAbandoned s) := by
  unfold frameAbandoned
  try dsimp only
  repeat' (first
    | with_reducible exact Calm.refl _
    | with_reducible apply Calm.trans ?_ (State.modBarter_calm ..)
    | with_reducible apply Calm.trans ?_ (State.toll_calm ..)
    | split)

theorem State.drainStall_calm (s : State) (n : Fin 16) : Calm s (State.drainStall s n) := by
  unfold State.drainStall
  try dsimp only
  repeat' (first
    | with_reducible exact Calm.refl _
    | with_reducible apply Calm.trans ?_ (State.finishStop_calm ..)
    | with_reducible apply Calm.trans ?_ (State.closeSegment_calm ..)
    | with_reducible apply Calm.trans ?_ (State.mergeNow_calm ..)
    | with_reducible apply Calm.trans ?_ (State.dramWrite_calm ..)
    | with_reducible apply Calm.trans ?_ (State.completeSegment_calm ..)
    | with_reducible apply Calm.trans ?_ (yardRunAdd_calm ..)
    | with_reducible apply Calm.trans ?_ (State.drainYard_calm ..)
    | with_reducible apply Calm.foldl
    | (intro _ _; try dsimp only)
    | split)

theorem Sparse.wf_append {α : Type} [DecidableEq α] {d : Nat → α} {m n : List (Nat × α)} (hm : Sparse.wf d m = true)
    (hn : Sparse.wf d n = true) (h : ∀ x ∈ m, ∀ y ∈ n, x.1 < y.1) : Sparse.wf d (m ++ n) = true := by
  induction m with
  | nil => exact hn
  | cons c m ih =>
    obtain ⟨i, v⟩ := c
    obtain ⟨hv, hi, hw⟩ := Sparse.wf_cons.1 hm
    refine Sparse.wf_cons.2 ⟨hv, fun x hx => ?_, ih hw fun x hx => h x (List.mem_cons_of_mem _ hx)⟩
    rcases List.mem_append.1 hx with hx | hx
    · exact hi x hx
    · exact h (i, v) List.mem_cons_self x hx

theorem Memory.wf_shift {m : List Host.Cell} (h : Memory.wf m = true) (b : Nat) :
    Memory.wf (m.map fun c => (b + c.1, c.2)) = true := by
  induction m with
  | nil => rfl
  | cons c m ih =>
    obtain ⟨hv, hi, hw⟩ := Sparse.wf_cons.1 h
    refine Sparse.wf_cons.2 ⟨hv, fun x hx => ?_, ih hw⟩
    obtain ⟨y, hy, rfl⟩ := List.mem_map.1 hx
    exact Nat.add_lt_add_left (hi y hy) b

theorem State.writeStore_calm (s : State) : Calm s s.writeStore := by
  refine ⟨rfl, rfl, rfl, fun h => ⟨h.1, ?_, h.2.2⟩⟩
  unfold State.writeStore
  refine Sparse.wf_append (Sparse.wf_append (Sparse.wf_filter (Sparse.wf_filter h.2.1 _) _)
    (Memory.wf_shift (Sparse.wf_filter h.1 _) _) ?_) (Sparse.wf_filter (Sparse.wf_filter h.2.1 _) _) ?_
  · intro x hx y hy
    obtain ⟨z, hz, rfl⟩ := List.mem_map.1 hy
    have := of_decide_eq_true (List.mem_filter.1 hx).2
    dsimp only
    omega
  · intro x hx y hy
    have h1 := (List.mem_filter.1 hy).2
    have h2 := (List.mem_filter.1 (List.mem_filter.1 hy).1).2
    simp only [decide_eq_true_eq, Bool.or_eq_true] at h1 h2
    rcases List.mem_append.1 hx with hx | hx
    · have := of_decide_eq_true (List.mem_filter.1 hx).2
      omega
    · obtain ⟨z, hz, rfl⟩ := List.mem_map.1 hx
      have := of_decide_eq_true (List.mem_filter.1 hz).2
      dsimp only
      omega

theorem State.endRotation_calm (s : State) : Calm s (State.endRotation s) := by
  unfold State.endRotation
  try dsimp only
  repeat' (first
    | with_reducible exact Calm.refl _
    | split
    | (simp only [Calm.written]; with_reducible refine CalmMk.put (fun h => h) ?_))

theorem State.enterWatch_calm (s : State) : Calm s s.enterWatch := by
  unfold State.enterWatch
  extract_lets run s1 z s2 onRef s3 s4
  have h1 : Calm s s1 := Calm.foldl (State.stopLeaves_calm ..) fun _ _ => State.drainStall_calm ..
  have hz : Calm s z := ((h1.trans (State.writeStore_calm ..)).trans (State.dramSleeps_calm ..)).trans (State.endRotation_calm ..)
  clear_value z
  have h2 : Calm s s2 := hz.trans ⟨rfl, rfl, rfl, id⟩
  have h3 : Calm s s3 := Calm.foldl h2 fun _ _ => Calm.ite (State.holdOver_calm ..) (State.stopMint_calm ..)
  clear_value s3 s2 s1
  have h4 : Calm s s4 := by
    refine ⟨h3.pending, h3.chron, h3.tolls, fun h => ?_⟩
    have x := h3.mems h
    exact ⟨x.1, x.2.1, x.2.2.1, (h1.mems h).1⟩
  refine (h4.trans ?_).trans (State.wakeIfDue_calm ..)
  exact ⟨rfl, rfl, rfl, fun h => ⟨rfl, h.2⟩⟩

theorem watchEntry_calm (s : State) : Calm s (watchEntry s) := by
  unfold watchEntry
  try dsimp only
  repeat' (first
    | with_reducible exact Calm.refl _
    | with_reducible apply Calm.trans ?_ (regimeChange_calm ..)
    | with_reducible apply Calm.trans ?_ (State.enterWatch_calm ..)
    | split)

theorem State.setRequested_calm (s : State) (r : Regime) : Calm s (State.setRequested s r) := by
  unfold State.setRequested
  try dsimp only
  repeat' (first
    | with_reducible exact Calm.refl _
    | with_reducible apply Calm.trans ?_ (State.setWritten_calm ..)
    | with_reducible apply Calm.trans ?_ (State.setForce_calm ..))

theorem State.restore_calm {a s : State} (h : Calm a s) (w : WatchStore)
    (hw : a.memoriesWf → Memory.wf w.hall = true) : Calm a (s.restore w) := by
  unfold State.restore
  extract_lets z s1 s2
  have h1 : Calm a s1 := ⟨h.pending, h.chron, h.tolls, fun x => ⟨hw x, (h.mems x).2⟩⟩
  have h2 : Calm a s2 := Calm.foldl h1 fun _ _ => State.modStall_calm ..
  exact Calm.ite h2 (h2.trans (State.relock_calm ..))

theorem State.dramWakes_calm (s : State) : Calm s (State.dramWakes s) := by
  unfold State.dramWakes
  try dsimp only
  repeat' (first
    | with_reducible exact Calm.refl _
    | with_reducible apply Calm.trans ?_ (State.subWakes_calm ..)
    | with_reducible apply Calm.foldl
    | (intro _ _; try dsimp only))

theorem State.finishWake_calm (s : State) (w : WatchStore) (t : Training)
    (hw : s.memoriesWf → Memory.wf w.hall = true) : Calm s (s.finishWake w t) := by
  unfold State.finishWake
  extract_lets lean s2 r s3
  have h2 : Calm s s2 := State.restore_calm ((State.dramWakes_calm ..).trans (State.retrainDram_calm ..)) w hw
  have h3 : Calm s s3 := (h2.trans (State.setRequested_calm ..)).trans (State.modPower_calm _ _ (by exact fun _ _ => rfl))
  exact (h3.trans (State.startRelief_calm ..)).trans (State.startAll_calm ..)

theorem State.takeHeld_calm (s : State) : Calm s (State.takeHeld s) := by
  unfold State.takeHeld
  try dsimp only
  repeat' (first
    | with_reducible exact Calm.refl _
    | with_reducible apply Calm.trans ?_ (State.modBarter_calm ..)
    | with_reducible apply Calm.trans ?_ (State.takeFrame_calm ..)
    | split)

theorem State.startAgain_calm (s : State) : Calm s (State.startAgain s) := by
  unfold State.startAgain
  try dsimp only
  repeat' (first
    | with_reducible exact Calm.refl _
    | with_reducible apply Calm.trans ?_ (State.restart_calm ..)
    | with_reducible apply Calm.trans ?_ (State.modPower_calm _ _ ?_)
    | with_reducible apply Calm.trans ?_ (State.modImage_calm _ _ ?_)
    | with_reducible apply Calm.trans ?_ (State.modBarter_calm ..)
    | with_reducible exact fun _ h => h)

theorem wakeComplete_calm (t : Training) (intact : Bool) (s : State) : Calm s (wakeComplete t intact s) := by
  have ha : Calm s s.startAgain := State.startAgain_calm ..
  unfold wakeComplete
  refine Calm.ite (.refl _) ?_
  split
  · rename_i w e
    refine Calm.ite (State.finishWake_calm _ _ _ fun h => ?_) (Calm.ite ha ((ha.trans (State.toll_calm ..)).trans (State.attention_calm ..)))
    simpa [e] using h.2.2.2
  · exact ha

theorem State.stallTick_calm (s : State) (n : Fin 16) (src : List Val) : Calm s (State.stallTick s n src) := by
  unfold State.stallTick
  try dsimp only
  repeat' (first
    | with_reducible exact Calm.refl _
    | with_reducible apply Calm.trans ?_ (State.modStall_calm ..)
    | with_reducible apply Calm.trans ?_ (State.blockBoundary_calm ..)
    | with_reducible apply Calm.trans ?_ (State.satToll_calm ..)
    | with_reducible apply Calm.trans ?_ (State.turnTolls_calm ..)
    | with_reducible apply Calm.foldl
    | split
    | (simp only [Calm.written]; with_reducible refine CalmMk.put (fun h => h) ?_))

theorem State.orderInputs_calm (s : State) : Calm s (State.orderInputs s) := by
  unfold State.orderInputs
  try dsimp only
  repeat' (first
    | with_reducible exact Calm.refl _
    | (simp only [Calm.written]; with_reducible refine CalmMk.put (fun h => h) ?_))

theorem State.noteOverRange_calm (s : State) (cs : List (List Container × Rat)) : Calm s (State.noteOverRange s cs) := by
  unfold State.noteOverRange
  try dsimp only
  repeat' (first
    | with_reducible exact Calm.refl _
    | with_reducible apply Calm.trans ?_ (State.setSticky_calm ..)
    | with_reducible apply Calm.trans ?_ (State.toll_calm ..)
    | with_reducible apply Calm.foldl
    | split)

theorem State.noteEnvelopes_calm (s : State) : Calm s (State.noteEnvelopes s) := by
  unfold State.noteEnvelopes
  try dsimp only
  repeat' (first
    | with_reducible exact Calm.refl _
    | with_reducible apply Calm.trans ?_ (State.satToll_calm ..)
    | with_reducible apply Calm.trans ?_ (State.modStall_calm ..)
    | with_reducible apply Calm.foldl
    | (intro _ _; try dsimp only)
    | split)

theorem State.sampleTick_calm (s : State) (volts : Vector (Vector Int 2) 17) : Calm s (State.sampleTick s volts) := by
  unfold State.sampleTick
  try dsimp only
  repeat' (first
    | with_reducible exact Calm.refl _
    | with_reducible apply Calm.trans ?_ (State.compareTick_calm ..)
    | with_reducible apply Calm.trans ?_ (State.zeroTick_calm ..)
    | with_reducible apply Calm.trans ?_ (State.noteOverRange_calm ..)
    | with_reducible apply Calm.trans ?_ (State.stallTick_calm ..)
    | with_reducible apply Calm.trans ?_ (State.orderInputs_calm ..)
    | with_reducible apply Calm.foldl
    | (intro _ _; try dsimp only)
    | split
    | (simp only [Calm.written]; with_reducible refine CalmMk.put (fun h => h) ?_))

theorem State.settleDecisions_calm (s : State) : Calm s (State.settleDecisions s) := by
  unfold State.settleDecisions
  try dsimp only
  repeat' (first
    | with_reducible exact Calm.refl _
    | with_reducible apply Calm.trans ?_ (State.nextDecision_calm ..)
    | with_reducible apply Calm.foldl
    | (intro _ _; try dsimp only))

theorem State.finishStops_calm (s : State) : Calm s (State.finishStops s) := by
  unfold State.finishStops
  try dsimp only
  repeat' (first
    | with_reducible exact Calm.refl _
    | with_reducible apply Calm.trans ?_ (State.finishStop_calm ..)
    | with_reducible apply Calm.foldl
    | (intro _ _; try dsimp only)
    | split)

theorem State.dramCycle_calm (s : State) (c : Fin 8) : Calm s (State.dramCycle s c) := by
  unfold State.dramCycle
  try dsimp only
  repeat' (first
    | with_reducible exact Calm.refl _
    | with_reducible apply Calm.trans ?_ (State.arbCycle_calm ..)
    | with_reducible apply Calm.trans ?_ (State.modSub_calm ..)
    | with_reducible apply Calm.trans ?_ (State.queueBurst_calm ..)
    | split)

theorem State.arbiters_calm (s : State) : Calm s (State.arbiters s) := by
  unfold State.arbiters
  try dsimp only
  repeat' (first
    | with_reducible exact Calm.refl _
    | with_reducible apply Calm.trans ?_ (State.arbCycle_calm ..)
    | with_reducible apply Calm.trans ?_ (State.dramCycle_calm ..)
    | with_reducible apply Calm.foldl
    | (intro _ _; try dsimp only)
    | split
    | (simp only [Calm.written]; with_reducible refine CalmMk.put (fun h => h) ?_))

theorem State.closeRecords_calm (s : State) (volts : Vector (Vector Int 2) 17) : Calm s (State.closeRecords s volts) := by
  unfold State.closeRecords
  try dsimp only
  repeat' (first
    | with_reducible exact Calm.refl _
    | with_reducible apply Calm.trans ?_ (State.fillHalts_calm ..)
    | with_reducible apply Calm.trans ?_ (State.sampleTick_calm ..)
    | with_reducible apply Calm.trans ?_ (State.noteEnvelopes_calm ..)
    | with_reducible apply Calm.trans ?_ (State.finishStops_calm ..)
    | with_reducible apply Calm.trans ?_ (State.releaseDue_calm ..)
    | with_reducible apply Calm.trans ?_ (State.clampTolls_calm ..)
    | with_reducible apply Calm.trans ?_ (State.closeYards_calm ..)
    | with_reducible apply Calm.trans ?_ (State.closeDram_calm ..)
    | with_reducible apply Calm.trans ?_ (State.arbiters_calm ..)
    | with_reducible apply Calm.trans ?_ (State.completeEmpty_calm ..)
    | with_reducible apply Calm.foldl
    | (intro _ _; try dsimp only)
    | split)

theorem State.addJump_calm (s : State) : Calm s (State.addJump s) := by
  unfold State.addJump
  try dsimp only
  repeat' (first
    | with_reducible exact Calm.refl _
    | (simp only [Calm.written]; with_reducible refine CalmMk.put (fun h => h) ?_))

theorem State.closeTick_tame (s : State) (volts : Vector (Vector Int 2) 17) : Tame s (s.closeTick volts) := by
  unfold State.closeTick
  extract_lets s1 s2 s3
  have h1 : Calm s s1 := ((State.evalDue_calm ..).trans (State.settleDecisions_calm ..)).trans (State.sieveDrain_calm ..)
  have h2 : Calm s s2 := (((h1.trans (State.tallyClose_calm ..)).trans (State.closeSlots_calm ..)).trans
    (State.closeEntries_calm ..)).trans (State.closeTout_calm ..)
  have h3 : Calm s s3 := Calm.ite h2 (h2.trans (State.closeRecords_calm ..))
  have h4 : Calm s s3.takeInjections.addJump.judgeAck.coolDown.keepWakes :=
    ((((h3.trans (State.takeInjections_calm ..)).trans (State.addJump_calm ..)).trans (State.judgeAck_calm ..)).trans
      (State.coolDown_calm ..)).trans (State.keepWakes_calm ..)
  have h5 : Calm s s3.takeInjections.addJump.judgeAck.coolDown.keepWakes.gateMints.dropDue :=
    (h4.trans (State.gateMints_calm ..)).trans (State.dropDue_calm ..)
  exact (h5.tame.trans (State.mergeTolls_tame _)).trans (State.flushLog_calm ..).tame

theorem Hall.flip_mem (h : Hall) (a : Fin 16777216) (u : Bool) : (h.flip a u).mem = h.mem := by
  unfold Hall.flip
  rfl

theorem Hall.flips_mem (l : List (Fin 16777216 × Bool)) (h : Hall) :
    (l.foldl (fun h x => h.flip x.1 x.2) h).mem = h.mem := by
  induction l generalizing h with
  | nil => rfl
  | cons x l ih => exact (ih _).trans (Hall.flip_mem ..)

theorem State.hallFlips_calm (s : State) (flips : List (Fin 16777216 × Bool)) : Calm s (State.hallFlips s flips) := by
  unfold State.hallFlips
  refine Calm.ite (.refl _) ⟨rfl, rfl, rfl, fun h => ⟨?_, h.2⟩⟩
  simpa only [Hall.flips_mem] using h.1

theorem State.restartComparator_calm (s : State) (n : Nat) : Calm s (State.restartComparator s n) := by
  unfold State.restartComparator
  try dsimp only
  repeat' (first
    | with_reducible exact Calm.refl _
    | with_reducible apply Calm.trans ?_ (State.modAux_calm ..)
    | split)

theorem State.openWords_calm (s : State) : Calm s (State.openWords s) := by
  unfold State.openWords
  try dsimp only
  repeat' (first
    | with_reducible exact Calm.refl _
    | with_reducible apply Calm.trans ?_ (State.setForce_calm ..)
    | with_reducible apply Calm.trans ?_ (State.restartComparator_calm ..)
    | with_reducible apply Calm.foldl
    | (intro _ _; try dsimp only)
    | (simp only [Calm.written]; with_reducible refine CalmMk.put (fun h => h) ?_))

theorem State.doAction_calm (s : State) (a : Action) : Calm s (State.doAction s a) := by
  unfold State.doAction
  try dsimp only
  repeat' (first
    | with_reducible exact Calm.refl _
    | with_reducible apply Calm.trans ?_ (State.endLaunchWait_calm ..)
    | with_reducible apply Calm.trans ?_ (State.modBell_calm ..)
    | with_reducible apply Calm.trans ?_ (State.toutPulse_calm ..)
    | with_reducible apply Calm.trans ?_ (State.takeSnap_calm ..)
    | with_reducible apply Calm.trans ?_ (State.launchOut_calm ..)
    | split)

theorem State.openActions_calm (s : State) : Calm s (State.openActions s) := by
  unfold State.openActions
  try dsimp only
  repeat' (first
    | with_reducible exact Calm.refl _
    | with_reducible apply Calm.trans ?_ (State.doAction_calm ..)
    | with_reducible apply Calm.foldl
    | (intro _ _; try dsimp only)
    | (simp only [Calm.written]; with_reducible refine CalmMk.put (fun h => h) ?_))

theorem State.openTick_keeps (s : State) (len : Nat) :
    (s.openTick len).pending = s.pending ∧ (s.openTick len).chron = s.chron + BitVec.ofNat 80 len ∧
      (s.openTick len).tolls = s.tolls ∧ (s.memoriesWf → (s.openTick len).memoriesWf) := by
  unfold State.openTick
  extract_lets s1 s2
  have h2 : Calm s1 s2 := (((((State.openWords_calm ..).trans (State.openHandover_calm ..)).trans (State.openStep_calm ..)).trans
    (State.openActions_calm ..)).trans (State.openYards_calm ..)).trans (State.scanTick_calm ..)
  have h := ((((((h2.trans (State.openSlots_calm ..)).trans (State.openEntries_calm ..)).trans (State.armEntries_calm ..)).trans
    (State.runItem_calm ..)).trans (State.clerkWork_calm ..)).trans (State.takeHeld_calm ..)).trans (State.takeRelease_calm ..)
  exact ⟨h.pending, h.chron, h.tolls, fun x => h.mems x⟩

theorem State.regulatorsAnswer_calm (s : State) (mute : BitVec 6) : Calm s (s.regulatorsAnswer mute) :=
  State.modPower_calm _ _ (by exact fun _ h => h)

theorem tick_keeps (x : TickIn) (s : State) :
    (tick x s).pending = s.pending ∧ (s.memoriesWf → (tick x s).memoriesWf) := by
  unfold tick
  split
  · have h0 : Calm s (((s.regulatorsAnswer x.mute).scanPins x).hallFlips x.flips) :=
      ((State.regulatorsAnswer_calm ..).trans (State.scanPins_calm ..)).trans (State.hallFlips_calm ..)
    have h1 := h0.tame.trans (State.closeTick_tame _ x.volts)
    have h2 := State.openTick_keeps ((((s.regulatorsAnswer x.mute).scanPins x).hallFlips x.flips).closeTick x.volts) s.tickLen
    exact ⟨h2.1.trans h1.pending, fun h => h2.2.2.2 (h1.mems h)⟩
  · exact ⟨rfl, id⟩

end Sys2Proof.Machine
end

