-- ==== Sys2Proof/Laws/State.lean ====
section
/-! SUPPORT. What each shared update of the state gives for every field: its own field its new value, every other field its old
one; and one equation for each element of a vector that an update changes. -/

namespace Sys2Proof.Machine

set_option Elab.async false

/-- An element of a vector of which one element was changed. -/
theorem updAt_get {α : Type} {n : Nat} (v : Vector α n) (i j : Fin n) (f : α → α) :
    (updAt v i f)[j] = if i = j then f v[j] else v[j] := by
  simp only [updAt, Fin.getElem_fin, Vector.getElem_set, Fin.ext_iff]
  split
  · rename_i h
    simp [h]
  · rfl

/-- The element that was changed. -/
@[simp] theorem updAt_same {α : Type} {n : Nat} (v : Vector α n) (i : Fin n) (f : α → α) :
    (updAt v i f)[i.val] = f v[i.val] := by simp [updAt]

/-- Every other element. -/
theorem updAt_other {α : Type} {n : Nat} (v : Vector α n) {i j : Fin n} (h : i ≠ j) (f : α → α) : (updAt v i f)[j] = v[j] :=
  (updAt_get v i j f).trans (if_neg h)

@[simp] theorem State.toll_chron (s : State) (i n : Nat) : (s.toll i n).chron = s.chron := rfl
@[simp] theorem State.toll_written (s : State) (i n : Nat) : (s.toll i n).written = s.written := rfl
@[simp] theorem State.toll_force (s : State) (i n : Nat) : (s.toll i n).force = s.force := rfl
@[simp] theorem State.toll_nextTick (s : State) (i n : Nat) : (s.toll i n).nextTick = s.nextTick := rfl
@[simp] theorem State.toll_code (s : State) (i n : Nat) : (s.toll i n).code = s.code := rfl
@[simp] theorem State.toll_run (s : State) (i n : Nat) : (s.toll i n).run = s.run := rfl
@[simp] theorem State.toll_tally (s : State) (i n : Nat) : (s.toll i n).tally = s.tally := rfl
@[simp] theorem State.toll_slots (s : State) (i n : Nat) : (s.toll i n).slots = s.slots := rfl
@[simp] theorem State.toll_acts (s : State) (i n : Nat) : (s.toll i n).acts = s.acts := rfl
@[simp] theorem State.toll_trigOut (s : State) (i n : Nat) : (s.toll i n).trigOut = s.trigOut := rfl
@[simp] theorem State.toll_mints (s : State) (i n : Nat) : (s.toll i n).mints = s.mints := rfl
@[simp] theorem State.toll_refs (s : State) (i n : Nat) : (s.toll i n).refs = s.refs := rfl
@[simp] theorem State.toll_conv (s : State) (i n : Nat) : (s.toll i n).conv = s.conv := rfl
@[simp] theorem State.toll_cal (s : State) (i n : Nat) : (s.toll i n).cal = s.cal := rfl
@[simp] theorem State.toll_aux (s : State) (i n : Nat) : (s.toll i n).aux = s.aux := rfl
@[simp] theorem State.toll_pool (s : State) (i n : Nat) : (s.toll i n).pool = s.pool := rfl
@[simp] theorem State.toll_stalls (s : State) (i n : Nat) : (s.toll i n).stalls = s.stalls := rfl
@[simp] theorem State.toll_sieve (s : State) (i n : Nat) : (s.toll i n).sieve = s.sieve := rfl
@[simp] theorem State.toll_yards (s : State) (i n : Nat) : (s.toll i n).yards = s.yards := rfl
@[simp] theorem State.toll_hall (s : State) (i n : Nat) : (s.toll i n).hall = s.hall := rfl
@[simp] theorem State.toll_dram (s : State) (i n : Nat) : (s.toll i n).dram = s.dram := rfl
@[simp] theorem State.toll_sign (s : State) (i n : Nat) : (s.toll i n).sign = s.sign := rfl
@[simp] theorem State.toll_jumps (s : State) (i n : Nat) : (s.toll i n).jumps = s.jumps := rfl
@[simp] theorem State.toll_trigIn (s : State) (i n : Nat) : (s.toll i n).trigIn = s.trigIn := rfl
@[simp] theorem State.toll_crier (s : State) (i n : Nat) : (s.toll i n).crier = s.crier := rfl
@[simp] theorem State.toll_barter (s : State) (i n : Nat) : (s.toll i n).barter = s.barter := rfl
@[simp] theorem State.toll_wharf (s : State) (i n : Nat) : (s.toll i n).wharf = s.wharf := rfl
@[simp] theorem State.toll_image (s : State) (i n : Nat) : (s.toll i n).image = s.image := rfl
@[simp] theorem State.toll_power (s : State) (i n : Nat) : (s.toll i n).power = s.power := rfl
@[simp] theorem State.toll_tap (s : State) (i n : Nat) : (s.toll i n).tap = s.tap := rfl
@[simp] theorem State.toll_status (s : State) (i n : Nat) : (s.toll i n).status = s.status := rfl
@[simp] theorem State.toll_sticky (s : State) (i n : Nat) : (s.toll i n).sticky = s.sticky := rfl
@[simp] theorem State.toll_tolls (s : State) (i n : Nat) : (s.toll i n).tolls = s.tolls := rfl
@[simp] theorem State.toll_tollDue (s : State) (i n : Nat) :
    (s.toll i n).tollDue = Sparse.set (fun _ => 0) s.tollDue i (Sparse.get (fun _ => 0) s.tollDue i + n) := rfl
@[simp] theorem State.toll_log (s : State) (i n : Nat) : (s.toll i n).log = s.log := rfl
@[simp] theorem State.toll_ev (s : State) (i n : Nat) : (s.toll i n).ev = s.ev := rfl
@[simp] theorem State.toll_free (s : State) (i n : Nat) : (s.toll i n).free = s.free := rfl
@[simp] theorem State.toll_pending (s : State) (i n : Nat) : (s.toll i n).pending = s.pending := rfl

@[simp] theorem State.logEvent_chron (s : State) (k u i : Nat) (d : Int) : (s.logEvent k u i d).chron = s.chron := rfl
@[simp] theorem State.logEvent_written (s : State) (k u i : Nat) (d : Int) : (s.logEvent k u i d).written = s.written := rfl
@[simp] theorem State.logEvent_force (s : State) (k u i : Nat) (d : Int) : (s.logEvent k u i d).force = s.force := rfl
@[simp] theorem State.logEvent_nextTick (s : State) (k u i : Nat) (d : Int) : (s.logEvent k u i d).nextTick = s.nextTick := rfl
@[simp] theorem State.logEvent_code (s : State) (k u i : Nat) (d : Int) : (s.logEvent k u i d).code = s.code := rfl
@[simp] theorem State.logEvent_run (s : State) (k u i : Nat) (d : Int) : (s.logEvent k u i d).run = s.run := rfl
@[simp] theorem State.logEvent_tally (s : State) (k u i : Nat) (d : Int) : (s.logEvent k u i d).tally = s.tally := rfl
@[simp] theorem State.logEvent_slots (s : State) (k u i : Nat) (d : Int) : (s.logEvent k u i d).slots = s.slots := rfl
@[simp] theorem State.logEvent_acts (s : State) (k u i : Nat) (d : Int) : (s.logEvent k u i d).acts = s.acts := rfl
@[simp] theorem State.logEvent_trigOut (s : State) (k u i : Nat) (d : Int) : (s.logEvent k u i d).trigOut = s.trigOut := rfl
@[simp] theorem State.logEvent_mints (s : State) (k u i : Nat) (d : Int) : (s.logEvent k u i d).mints = s.mints := rfl
@[simp] theorem State.logEvent_refs (s : State) (k u i : Nat) (d : Int) : (s.logEvent k u i d).refs = s.refs := rfl
@[simp] theorem State.logEvent_conv (s : State) (k u i : Nat) (d : Int) : (s.logEvent k u i d).conv = s.conv := rfl
@[simp] theorem State.logEvent_cal (s : State) (k u i : Nat) (d : Int) : (s.logEvent k u i d).cal = s.cal := rfl
@[simp] theorem State.logEvent_aux (s : State) (k u i : Nat) (d : Int) : (s.logEvent k u i d).aux = s.aux := rfl
@[simp] theorem State.logEvent_pool (s : State) (k u i : Nat) (d : Int) : (s.logEvent k u i d).pool = s.pool := rfl
@[simp] theorem State.logEvent_stalls (s : State) (k u i : Nat) (d : Int) : (s.logEvent k u i d).stalls = s.stalls := rfl
@[simp] theorem State.logEvent_sieve (s : State) (k u i : Nat) (d : Int) : (s.logEvent k u i d).sieve = s.sieve := rfl
@[simp] theorem State.logEvent_yards (s : State) (k u i : Nat) (d : Int) : (s.logEvent k u i d).yards = s.yards := rfl
@[simp] theorem State.logEvent_hall (s : State) (k u i : Nat) (d : Int) : (s.logEvent k u i d).hall = s.hall := rfl
@[simp] theorem State.logEvent_dram (s : State) (k u i : Nat) (d : Int) : (s.logEvent k u i d).dram = s.dram := rfl
@[simp] theorem State.logEvent_sign (s : State) (k u i : Nat) (d : Int) : (s.logEvent k u i d).sign = s.sign := rfl
@[simp] theorem State.logEvent_jumps (s : State) (k u i : Nat) (d : Int) : (s.logEvent k u i d).jumps = s.jumps := rfl
@[simp] theorem State.logEvent_trigIn (s : State) (k u i : Nat) (d : Int) : (s.logEvent k u i d).trigIn = s.trigIn := rfl
@[simp] theorem State.logEvent_crier (s : State) (k u i : Nat) (d : Int) : (s.logEvent k u i d).crier = s.crier := rfl
@[simp] theorem State.logEvent_barter (s : State) (k u i : Nat) (d : Int) : (s.logEvent k u i d).barter = s.barter := rfl
@[simp] theorem State.logEvent_wharf (s : State) (k u i : Nat) (d : Int) : (s.logEvent k u i d).wharf = s.wharf := rfl
@[simp] theorem State.logEvent_image (s : State) (k u i : Nat) (d : Int) : (s.logEvent k u i d).image = s.image := rfl
@[simp] theorem State.logEvent_power (s : State) (k u i : Nat) (d : Int) : (s.logEvent k u i d).power = s.power := rfl
@[simp] theorem State.logEvent_tap (s : State) (k u i : Nat) (d : Int) : (s.logEvent k u i d).tap = s.tap := rfl
@[simp] theorem State.logEvent_status (s : State) (k u i : Nat) (d : Int) : (s.logEvent k u i d).status = s.status := rfl
@[simp] theorem State.logEvent_sticky (s : State) (k u i : Nat) (d : Int) : (s.logEvent k u i d).sticky = s.sticky := rfl
@[simp] theorem State.logEvent_tolls (s : State) (k u i : Nat) (d : Int) : (s.logEvent k u i d).tolls = s.tolls := rfl
@[simp] theorem State.logEvent_tollDue (s : State) (k u i : Nat) (d : Int) : (s.logEvent k u i d).tollDue = s.tollDue := rfl
@[simp] theorem State.logEvent_ev (s : State) (k u i : Nat) (d : Int) : (s.logEvent k u i d).ev = s.ev := rfl
@[simp] theorem State.logEvent_free (s : State) (k u i : Nat) (d : Int) : (s.logEvent k u i d).free = s.free := rfl
@[simp] theorem State.logEvent_pending (s : State) (k u i : Nat) (d : Int) : (s.logEvent k u i d).pending = s.pending := rfl

@[simp] theorem State.unack_chron (s : State) : s.unack.chron = s.chron := by unfold State.unack; split <;> rfl
@[simp] theorem State.unack_written (s : State) : s.unack.written = s.written := by unfold State.unack; split <;> rfl
@[simp] theorem State.unack_force (s : State) : s.unack.force = s.force := by unfold State.unack; split <;> rfl
@[simp] theorem State.unack_nextTick (s : State) : s.unack.nextTick = s.nextTick := by unfold State.unack; split <;> rfl
@[simp] theorem State.unack_code (s : State) : s.unack.code = s.code := by unfold State.unack; split <;> rfl
@[simp] theorem State.unack_run (s : State) : s.unack.run = s.run := by unfold State.unack; split <;> rfl
@[simp] theorem State.unack_tally (s : State) : s.unack.tally = s.tally := by unfold State.unack; split <;> rfl
@[simp] theorem State.unack_slots (s : State) : s.unack.slots = s.slots := by unfold State.unack; split <;> rfl
@[simp] theorem State.unack_acts (s : State) : s.unack.acts = s.acts := by unfold State.unack; split <;> rfl
@[simp] theorem State.unack_trigOut (s : State) : s.unack.trigOut = s.trigOut := by unfold State.unack; split <;> rfl
@[simp] theorem State.unack_mints (s : State) : s.unack.mints = s.mints := by unfold State.unack; split <;> rfl
@[simp] theorem State.unack_refs (s : State) : s.unack.refs = s.refs := by unfold State.unack; split <;> rfl
@[simp] theorem State.unack_conv (s : State) : s.unack.conv = s.conv := by unfold State.unack; split <;> rfl
@[simp] theorem State.unack_cal (s : State) : s.unack.cal = s.cal := by unfold State.unack; split <;> rfl
@[simp] theorem State.unack_aux (s : State) : s.unack.aux = s.aux := by unfold State.unack; split <;> rfl
@[simp] theorem State.unack_pool (s : State) : s.unack.pool = s.pool := by unfold State.unack; split <;> rfl
@[simp] theorem State.unack_stalls (s : State) : s.unack.stalls = s.stalls := by unfold State.unack; split <;> rfl
@[simp] theorem State.unack_sieve (s : State) : s.unack.sieve = s.sieve := by unfold State.unack; split <;> rfl
@[simp] theorem State.unack_yards (s : State) : s.unack.yards = s.yards := by unfold State.unack; split <;> rfl
@[simp] theorem State.unack_hall (s : State) : s.unack.hall = s.hall := by unfold State.unack; split <;> rfl
@[simp] theorem State.unack_dram (s : State) : s.unack.dram = s.dram := by unfold State.unack; split <;> rfl
@[simp] theorem State.unack_sign (s : State) : s.unack.sign = s.sign := by unfold State.unack; split <;> rfl
@[simp] theorem State.unack_jumps (s : State) : s.unack.jumps = s.jumps := by unfold State.unack; split <;> rfl
@[simp] theorem State.unack_trigIn (s : State) : s.unack.trigIn = s.trigIn := by unfold State.unack; split <;> rfl
@[simp] theorem State.unack_crier (s : State) : s.unack.crier = s.crier := by unfold State.unack; split <;> rfl
@[simp] theorem State.unack_barter (s : State) : s.unack.barter = s.barter := by unfold State.unack; split <;> rfl
@[simp] theorem State.unack_wharf (s : State) : s.unack.wharf = s.wharf := by unfold State.unack; split <;> rfl
@[simp] theorem State.unack_image (s : State) : s.unack.image = s.image := by unfold State.unack; split <;> rfl
@[simp] theorem State.unack_power (s : State) : s.unack.power = s.power := by unfold State.unack; split <;> rfl
@[simp] theorem State.unack_tap (s : State) : s.unack.tap = s.tap := by unfold State.unack; split <;> rfl
@[simp] theorem State.unack_sticky (s : State) : s.unack.sticky = s.sticky := by unfold State.unack; split <;> rfl
@[simp] theorem State.unack_tolls (s : State) : s.unack.tolls = s.tolls := by unfold State.unack; split <;> rfl
@[simp] theorem State.unack_tollDue (s : State) : s.unack.tollDue = s.tollDue := by unfold State.unack; split <;> rfl
@[simp] theorem State.unack_log (s : State) : s.unack.log = s.log := by unfold State.unack; split <;> rfl
@[simp] theorem State.unack_free (s : State) : s.unack.free = s.free := by unfold State.unack; split <;> rfl
@[simp] theorem State.unack_pending (s : State) : s.unack.pending = s.pending := by unfold State.unack; split <;> rfl

@[simp] theorem State.attention_chron (s : State) (l : Nat) : (s.attention l).chron = s.chron := State.unack_chron s
@[simp] theorem State.attention_written (s : State) (l : Nat) : (s.attention l).written = s.written := State.unack_written s
@[simp] theorem State.attention_force (s : State) (l : Nat) : (s.attention l).force = s.force := State.unack_force s
@[simp] theorem State.attention_nextTick (s : State) (l : Nat) : (s.attention l).nextTick = s.nextTick := State.unack_nextTick s
@[simp] theorem State.attention_code (s : State) (l : Nat) : (s.attention l).code = s.code := State.unack_code s
@[simp] theorem State.attention_run (s : State) (l : Nat) : (s.attention l).run = s.run := State.unack_run s
@[simp] theorem State.attention_tally (s : State) (l : Nat) : (s.attention l).tally = s.tally := State.unack_tally s
@[simp] theorem State.attention_slots (s : State) (l : Nat) : (s.attention l).slots = s.slots := State.unack_slots s
@[simp] theorem State.attention_acts (s : State) (l : Nat) : (s.attention l).acts = s.acts := State.unack_acts s
@[simp] theorem State.attention_trigOut (s : State) (l : Nat) : (s.attention l).trigOut = s.trigOut := State.unack_trigOut s
@[simp] theorem State.attention_mints (s : State) (l : Nat) : (s.attention l).mints = s.mints := State.unack_mints s
@[simp] theorem State.attention_refs (s : State) (l : Nat) : (s.attention l).refs = s.refs := State.unack_refs s
@[simp] theorem State.attention_conv (s : State) (l : Nat) : (s.attention l).conv = s.conv := State.unack_conv s
@[simp] theorem State.attention_cal (s : State) (l : Nat) : (s.attention l).cal = s.cal := State.unack_cal s
@[simp] theorem State.attention_aux (s : State) (l : Nat) : (s.attention l).aux = s.aux := State.unack_aux s
@[simp] theorem State.attention_pool (s : State) (l : Nat) : (s.attention l).pool = s.pool := State.unack_pool s
@[simp] theorem State.attention_stalls (s : State) (l : Nat) : (s.attention l).stalls = s.stalls := State.unack_stalls s
@[simp] theorem State.attention_sieve (s : State) (l : Nat) : (s.attention l).sieve = s.sieve := State.unack_sieve s
@[simp] theorem State.attention_yards (s : State) (l : Nat) : (s.attention l).yards = s.yards := State.unack_yards s
@[simp] theorem State.attention_hall (s : State) (l : Nat) : (s.attention l).hall = s.hall := State.unack_hall s
@[simp] theorem State.attention_dram (s : State) (l : Nat) : (s.attention l).dram = s.dram := State.unack_dram s
@[simp] theorem State.attention_sign (s : State) (l : Nat) : (s.attention l).sign = s.sign := State.unack_sign s
@[simp] theorem State.attention_jumps (s : State) (l : Nat) : (s.attention l).jumps = s.jumps := State.unack_jumps s
@[simp] theorem State.attention_trigIn (s : State) (l : Nat) : (s.attention l).trigIn = s.trigIn := State.unack_trigIn s
@[simp] theorem State.attention_crier (s : State) (l : Nat) : (s.attention l).crier = s.crier := State.unack_crier s
@[simp] theorem State.attention_barter (s : State) (l : Nat) : (s.attention l).barter = s.barter := State.unack_barter s
@[simp] theorem State.attention_wharf (s : State) (l : Nat) : (s.attention l).wharf = s.wharf := State.unack_wharf s
@[simp] theorem State.attention_image (s : State) (l : Nat) : (s.attention l).image = s.image := State.unack_image s
@[simp] theorem State.attention_power (s : State) (l : Nat) : (s.attention l).power = s.power := State.unack_power s
@[simp] theorem State.attention_tap (s : State) (l : Nat) : (s.attention l).tap = s.tap := State.unack_tap s
@[simp] theorem State.attention_status (s : State) (l : Nat) :
    (s.attention l).status = { s.unack.status with aseq := (s.unack.status.aseq + 1) % 2 ^ 16, level := max s.unack.status.level l, attnNew := true } := rfl
@[simp] theorem State.attention_sticky (s : State) (l : Nat) : (s.attention l).sticky = s.sticky := State.unack_sticky s
@[simp] theorem State.attention_tolls (s : State) (l : Nat) : (s.attention l).tolls = s.tolls := State.unack_tolls s
@[simp] theorem State.attention_tollDue (s : State) (l : Nat) : (s.attention l).tollDue = s.tollDue := State.unack_tollDue s
@[simp] theorem State.attention_log (s : State) (l : Nat) : (s.attention l).log = s.log := State.unack_log s
@[simp] theorem State.attention_ev (s : State) (l : Nat) :
    (s.attention l).ev = { s.unack.ev with items := 0 :: s.unack.ev.items } := rfl
@[simp] theorem State.attention_free (s : State) (l : Nat) : (s.attention l).free = s.free := State.unack_free s
@[simp] theorem State.attention_pending (s : State) (l : Nat) : (s.attention l).pending = s.pending := State.unack_pending s

@[simp] theorem State.setSticky_chron (s : State) (n : Nat) (b : Word) : (s.setSticky n b).chron = s.chron := rfl
@[simp] theorem State.setSticky_written (s : State) (n : Nat) (b : Word) : (s.setSticky n b).written = s.written := rfl
@[simp] theorem State.setSticky_force (s : State) (n : Nat) (b : Word) : (s.setSticky n b).force = s.force := rfl
@[simp] theorem State.setSticky_nextTick (s : State) (n : Nat) (b : Word) : (s.setSticky n b).nextTick = s.nextTick := rfl
@[simp] theorem State.setSticky_code (s : State) (n : Nat) (b : Word) : (s.setSticky n b).code = s.code := rfl
@[simp] theorem State.setSticky_run (s : State) (n : Nat) (b : Word) : (s.setSticky n b).run = s.run := rfl
@[simp] theorem State.setSticky_tally (s : State) (n : Nat) (b : Word) : (s.setSticky n b).tally = s.tally := rfl
@[simp] theorem State.setSticky_slots (s : State) (n : Nat) (b : Word) : (s.setSticky n b).slots = s.slots := rfl
@[simp] theorem State.setSticky_acts (s : State) (n : Nat) (b : Word) : (s.setSticky n b).acts = s.acts := rfl
@[simp] theorem State.setSticky_trigOut (s : State) (n : Nat) (b : Word) : (s.setSticky n b).trigOut = s.trigOut := rfl
@[simp] theorem State.setSticky_mints (s : State) (n : Nat) (b : Word) : (s.setSticky n b).mints = s.mints := rfl
@[simp] theorem State.setSticky_refs (s : State) (n : Nat) (b : Word) : (s.setSticky n b).refs = s.refs := rfl
@[simp] theorem State.setSticky_conv (s : State) (n : Nat) (b : Word) : (s.setSticky n b).conv = s.conv := rfl
@[simp] theorem State.setSticky_cal (s : State) (n : Nat) (b : Word) : (s.setSticky n b).cal = s.cal := rfl
@[simp] theorem State.setSticky_aux (s : State) (n : Nat) (b : Word) : (s.setSticky n b).aux = s.aux := rfl
@[simp] theorem State.setSticky_pool (s : State) (n : Nat) (b : Word) : (s.setSticky n b).pool = s.pool := rfl
@[simp] theorem State.setSticky_stalls (s : State) (n : Nat) (b : Word) : (s.setSticky n b).stalls = s.stalls := rfl
@[simp] theorem State.setSticky_sieve (s : State) (n : Nat) (b : Word) : (s.setSticky n b).sieve = s.sieve := rfl
@[simp] theorem State.setSticky_yards (s : State) (n : Nat) (b : Word) : (s.setSticky n b).yards = s.yards := rfl
@[simp] theorem State.setSticky_hall (s : State) (n : Nat) (b : Word) : (s.setSticky n b).hall = s.hall := rfl
@[simp] theorem State.setSticky_dram (s : State) (n : Nat) (b : Word) : (s.setSticky n b).dram = s.dram := rfl
@[simp] theorem State.setSticky_sign (s : State) (n : Nat) (b : Word) : (s.setSticky n b).sign = s.sign := rfl
@[simp] theorem State.setSticky_jumps (s : State) (n : Nat) (b : Word) : (s.setSticky n b).jumps = s.jumps := rfl
@[simp] theorem State.setSticky_trigIn (s : State) (n : Nat) (b : Word) : (s.setSticky n b).trigIn = s.trigIn := rfl
@[simp] theorem State.setSticky_crier (s : State) (n : Nat) (b : Word) : (s.setSticky n b).crier = s.crier := rfl
@[simp] theorem State.setSticky_barter (s : State) (n : Nat) (b : Word) : (s.setSticky n b).barter = s.barter := rfl
@[simp] theorem State.setSticky_wharf (s : State) (n : Nat) (b : Word) : (s.setSticky n b).wharf = s.wharf := rfl
@[simp] theorem State.setSticky_image (s : State) (n : Nat) (b : Word) : (s.setSticky n b).image = s.image := rfl
@[simp] theorem State.setSticky_power (s : State) (n : Nat) (b : Word) : (s.setSticky n b).power = s.power := rfl
@[simp] theorem State.setSticky_tap (s : State) (n : Nat) (b : Word) : (s.setSticky n b).tap = s.tap := rfl
@[simp] theorem State.setSticky_status (s : State) (n : Nat) (b : Word) : (s.setSticky n b).status = s.status := rfl
@[simp] theorem State.setSticky_sticky (s : State) (n : Nat) (b : Word) :
    (s.setSticky n b).sticky = Sparse.set (fun _ => 0) s.sticky n (s.stickyBits n ||| b) := rfl
@[simp] theorem State.setSticky_tolls (s : State) (n : Nat) (b : Word) : (s.setSticky n b).tolls = s.tolls := rfl
@[simp] theorem State.setSticky_tollDue (s : State) (n : Nat) (b : Word) : (s.setSticky n b).tollDue = s.tollDue := rfl
@[simp] theorem State.setSticky_log (s : State) (n : Nat) (b : Word) : (s.setSticky n b).log = s.log := rfl
@[simp] theorem State.setSticky_free (s : State) (n : Nat) (b : Word) : (s.setSticky n b).free = s.free := rfl
@[simp] theorem State.setSticky_pending (s : State) (n : Nat) (b : Word) : (s.setSticky n b).pending = s.pending := rfl

@[simp] theorem State.clearSticky_chron (s : State) (n : Nat) (b : Word) : (s.clearSticky n b).chron = s.chron := rfl
@[simp] theorem State.clearSticky_written (s : State) (n : Nat) (b : Word) : (s.clearSticky n b).written = s.written := rfl
@[simp] theorem State.clearSticky_force (s : State) (n : Nat) (b : Word) : (s.clearSticky n b).force = s.force := rfl
@[simp] theorem State.clearSticky_nextTick (s : State) (n : Nat) (b : Word) : (s.clearSticky n b).nextTick = s.nextTick := rfl
@[simp] theorem State.clearSticky_code (s : State) (n : Nat) (b : Word) : (s.clearSticky n b).code = s.code := rfl
@[simp] theorem State.clearSticky_run (s : State) (n : Nat) (b : Word) : (s.clearSticky n b).run = s.run := rfl
@[simp] theorem State.clearSticky_tally (s : State) (n : Nat) (b : Word) : (s.clearSticky n b).tally = s.tally := rfl
@[simp] theorem State.clearSticky_slots (s : State) (n : Nat) (b : Word) : (s.clearSticky n b).slots = s.slots := rfl
@[simp] theorem State.clearSticky_acts (s : State) (n : Nat) (b : Word) : (s.clearSticky n b).acts = s.acts := rfl
@[simp] theorem State.clearSticky_trigOut (s : State) (n : Nat) (b : Word) : (s.clearSticky n b).trigOut = s.trigOut := rfl
@[simp] theorem State.clearSticky_mints (s : State) (n : Nat) (b : Word) : (s.clearSticky n b).mints = s.mints := rfl
@[simp] theorem State.clearSticky_refs (s : State) (n : Nat) (b : Word) : (s.clearSticky n b).refs = s.refs := rfl
@[simp] theorem State.clearSticky_conv (s : State) (n : Nat) (b : Word) : (s.clearSticky n b).conv = s.conv := rfl
@[simp] theorem State.clearSticky_cal (s : State) (n : Nat) (b : Word) : (s.clearSticky n b).cal = s.cal := rfl
@[simp] theorem State.clearSticky_aux (s : State) (n : Nat) (b : Word) : (s.clearSticky n b).aux = s.aux := rfl
@[simp] theorem State.clearSticky_pool (s : State) (n : Nat) (b : Word) : (s.clearSticky n b).pool = s.pool := rfl
@[simp] theorem State.clearSticky_stalls (s : State) (n : Nat) (b : Word) : (s.clearSticky n b).stalls = s.stalls := rfl
@[simp] theorem State.clearSticky_sieve (s : State) (n : Nat) (b : Word) : (s.clearSticky n b).sieve = s.sieve := rfl
@[simp] theorem State.clearSticky_yards (s : State) (n : Nat) (b : Word) : (s.clearSticky n b).yards = s.yards := rfl
@[simp] theorem State.clearSticky_hall (s : State) (n : Nat) (b : Word) : (s.clearSticky n b).hall = s.hall := rfl
@[simp] theorem State.clearSticky_dram (s : State) (n : Nat) (b : Word) : (s.clearSticky n b).dram = s.dram := rfl
@[simp] theorem State.clearSticky_sign (s : State) (n : Nat) (b : Word) : (s.clearSticky n b).sign = s.sign := rfl
@[simp] theorem State.clearSticky_jumps (s : State) (n : Nat) (b : Word) : (s.clearSticky n b).jumps = s.jumps := rfl
@[simp] theorem State.clearSticky_trigIn (s : State) (n : Nat) (b : Word) : (s.clearSticky n b).trigIn = s.trigIn := rfl
@[simp] theorem State.clearSticky_crier (s : State) (n : Nat) (b : Word) : (s.clearSticky n b).crier = s.crier := rfl
@[simp] theorem State.clearSticky_barter (s : State) (n : Nat) (b : Word) : (s.clearSticky n b).barter = s.barter := rfl
@[simp] theorem State.clearSticky_wharf (s : State) (n : Nat) (b : Word) : (s.clearSticky n b).wharf = s.wharf := rfl
@[simp] theorem State.clearSticky_image (s : State) (n : Nat) (b : Word) : (s.clearSticky n b).image = s.image := rfl
@[simp] theorem State.clearSticky_power (s : State) (n : Nat) (b : Word) : (s.clearSticky n b).power = s.power := rfl
@[simp] theorem State.clearSticky_tap (s : State) (n : Nat) (b : Word) : (s.clearSticky n b).tap = s.tap := rfl
@[simp] theorem State.clearSticky_status (s : State) (n : Nat) (b : Word) : (s.clearSticky n b).status = s.status := rfl
@[simp] theorem State.clearSticky_tolls (s : State) (n : Nat) (b : Word) : (s.clearSticky n b).tolls = s.tolls := rfl
@[simp] theorem State.clearSticky_tollDue (s : State) (n : Nat) (b : Word) : (s.clearSticky n b).tollDue = s.tollDue := rfl
@[simp] theorem State.clearSticky_log (s : State) (n : Nat) (b : Word) : (s.clearSticky n b).log = s.log := rfl
@[simp] theorem State.clearSticky_ev (s : State) (n : Nat) (b : Word) : (s.clearSticky n b).ev = s.ev := rfl
@[simp] theorem State.clearSticky_free (s : State) (n : Nat) (b : Word) : (s.clearSticky n b).free = s.free := rfl
@[simp] theorem State.clearSticky_pending (s : State) (n : Nat) (b : Word) : (s.clearSticky n b).pending = s.pending := rfl

@[simp] theorem State.answer_chron (s : State) (c : Code) : (s.answer c).chron = s.chron := rfl
@[simp] theorem State.answer_written (s : State) (c : Code) : (s.answer c).written = s.written := rfl
@[simp] theorem State.answer_force (s : State) (c : Code) : (s.answer c).force = s.force := rfl
@[simp] theorem State.answer_nextTick (s : State) (c : Code) : (s.answer c).nextTick = s.nextTick := rfl
@[simp] theorem State.answer_code (s : State) (c : Code) : (s.answer c).code = c := rfl
@[simp] theorem State.answer_run (s : State) (c : Code) : (s.answer c).run = s.run := rfl
@[simp] theorem State.answer_tally (s : State) (c : Code) : (s.answer c).tally = s.tally := rfl
@[simp] theorem State.answer_slots (s : State) (c : Code) : (s.answer c).slots = s.slots := rfl
@[simp] theorem State.answer_acts (s : State) (c : Code) : (s.answer c).acts = s.acts := rfl
@[simp] theorem State.answer_trigOut (s : State) (c : Code) : (s.answer c).trigOut = s.trigOut := rfl
@[simp] theorem State.answer_mints (s : State) (c : Code) : (s.answer c).mints = s.mints := rfl
@[simp] theorem State.answer_refs (s : State) (c : Code) : (s.answer c).refs = s.refs := rfl
@[simp] theorem State.answer_conv (s : State) (c : Code) : (s.answer c).conv = s.conv := rfl
@[simp] theorem State.answer_cal (s : State) (c : Code) : (s.answer c).cal = s.cal := rfl
@[simp] theorem State.answer_aux (s : State) (c : Code) : (s.answer c).aux = s.aux := rfl
@[simp] theorem State.answer_pool (s : State) (c : Code) : (s.answer c).pool = s.pool := rfl
@[simp] theorem State.answer_stalls (s : State) (c : Code) : (s.answer c).stalls = s.stalls := rfl
@[simp] theorem State.answer_sieve (s : State) (c : Code) : (s.answer c).sieve = s.sieve := rfl
@[simp] theorem State.answer_yards (s : State) (c : Code) : (s.answer c).yards = s.yards := rfl
@[simp] theorem State.answer_hall (s : State) (c : Code) : (s.answer c).hall = s.hall := rfl
@[simp] theorem State.answer_dram (s : State) (c : Code) : (s.answer c).dram = s.dram := rfl
@[simp] theorem State.answer_sign (s : State) (c : Code) : (s.answer c).sign = s.sign := rfl
@[simp] theorem State.answer_jumps (s : State) (c : Code) : (s.answer c).jumps = s.jumps := rfl
@[simp] theorem State.answer_trigIn (s : State) (c : Code) : (s.answer c).trigIn = s.trigIn := rfl
@[simp] theorem State.answer_crier (s : State) (c : Code) : (s.answer c).crier = s.crier := rfl
@[simp] theorem State.answer_barter (s : State) (c : Code) : (s.answer c).barter = s.barter := rfl
@[simp] theorem State.answer_wharf (s : State) (c : Code) : (s.answer c).wharf = s.wharf := rfl
@[simp] theorem State.answer_image (s : State) (c : Code) : (s.answer c).image = s.image := rfl
@[simp] theorem State.answer_power (s : State) (c : Code) : (s.answer c).power = s.power := rfl
@[simp] theorem State.answer_tap (s : State) (c : Code) : (s.answer c).tap = s.tap := rfl
@[simp] theorem State.answer_status (s : State) (c : Code) : (s.answer c).status = s.status := rfl
@[simp] theorem State.answer_sticky (s : State) (c : Code) : (s.answer c).sticky = s.sticky := rfl
@[simp] theorem State.answer_tolls (s : State) (c : Code) : (s.answer c).tolls = s.tolls := rfl
@[simp] theorem State.answer_tollDue (s : State) (c : Code) : (s.answer c).tollDue = s.tollDue := rfl
@[simp] theorem State.answer_log (s : State) (c : Code) : (s.answer c).log = s.log := rfl
@[simp] theorem State.answer_ev (s : State) (c : Code) : (s.answer c).ev = s.ev := rfl
@[simp] theorem State.answer_free (s : State) (c : Code) : (s.answer c).free = s.free := rfl
@[simp] theorem State.answer_pending (s : State) (c : Code) : (s.answer c).pending = s.pending := rfl

@[simp] theorem State.setWritten_chron (s : State) (n : Nat) (w m : Word) : (s.setWritten n w m).chron = s.chron := rfl
@[simp] theorem State.setWritten_written (s : State) (n : Nat) (w m : Word) :
    (s.setWritten n w m).written = Sparse.set resetWord s.written n ((s.lastWritten n &&& ~~~m) ||| (w &&& m)) := rfl
@[simp] theorem State.setWritten_force (s : State) (n : Nat) (w m : Word) : (s.setWritten n w m).force = s.force := rfl
@[simp] theorem State.setWritten_nextTick (s : State) (n : Nat) (w m : Word) : (s.setWritten n w m).nextTick = s.nextTick := rfl
@[simp] theorem State.setWritten_code (s : State) (n : Nat) (w m : Word) : (s.setWritten n w m).code = s.code := rfl
@[simp] theorem State.setWritten_run (s : State) (n : Nat) (w m : Word) : (s.setWritten n w m).run = s.run := rfl
@[simp] theorem State.setWritten_tally (s : State) (n : Nat) (w m : Word) : (s.setWritten n w m).tally = s.tally := rfl
@[simp] theorem State.setWritten_slots (s : State) (n : Nat) (w m : Word) : (s.setWritten n w m).slots = s.slots := rfl
@[simp] theorem State.setWritten_acts (s : State) (n : Nat) (w m : Word) : (s.setWritten n w m).acts = s.acts := rfl
@[simp] theorem State.setWritten_trigOut (s : State) (n : Nat) (w m : Word) : (s.setWritten n w m).trigOut = s.trigOut := rfl
@[simp] theorem State.setWritten_mints (s : State) (n : Nat) (w m : Word) : (s.setWritten n w m).mints = s.mints := rfl
@[simp] theorem State.setWritten_refs (s : State) (n : Nat) (w m : Word) : (s.setWritten n w m).refs = s.refs := rfl
@[simp] theorem State.setWritten_conv (s : State) (n : Nat) (w m : Word) : (s.setWritten n w m).conv = s.conv := rfl
@[simp] theorem State.setWritten_cal (s : State) (n : Nat) (w m : Word) : (s.setWritten n w m).cal = s.cal := rfl
@[simp] theorem State.setWritten_aux (s : State) (n : Nat) (w m : Word) : (s.setWritten n w m).aux = s.aux := rfl
@[simp] theorem State.setWritten_pool (s : State) (n : Nat) (w m : Word) : (s.setWritten n w m).pool = s.pool := rfl
@[simp] theorem State.setWritten_stalls (s : State) (n : Nat) (w m : Word) : (s.setWritten n w m).stalls = s.stalls := rfl
@[simp] theorem State.setWritten_sieve (s : State) (n : Nat) (w m : Word) : (s.setWritten n w m).sieve = s.sieve := rfl
@[simp] theorem State.setWritten_yards (s : State) (n : Nat) (w m : Word) : (s.setWritten n w m).yards = s.yards := rfl
@[simp] theorem State.setWritten_hall (s : State) (n : Nat) (w m : Word) : (s.setWritten n w m).hall = s.hall := rfl
@[simp] theorem State.setWritten_dram (s : State) (n : Nat) (w m : Word) : (s.setWritten n w m).dram = s.dram := rfl
@[simp] theorem State.setWritten_sign (s : State) (n : Nat) (w m : Word) : (s.setWritten n w m).sign = s.sign := rfl
@[simp] theorem State.setWritten_jumps (s : State) (n : Nat) (w m : Word) : (s.setWritten n w m).jumps = s.jumps := rfl
@[simp] theorem State.setWritten_trigIn (s : State) (n : Nat) (w m : Word) : (s.setWritten n w m).trigIn = s.trigIn := rfl
@[simp] theorem State.setWritten_crier (s : State) (n : Nat) (w m : Word) : (s.setWritten n w m).crier = s.crier := rfl
@[simp] theorem State.setWritten_barter (s : State) (n : Nat) (w m : Word) : (s.setWritten n w m).barter = s.barter := rfl
@[simp] theorem State.setWritten_wharf (s : State) (n : Nat) (w m : Word) : (s.setWritten n w m).wharf = s.wharf := rfl
@[simp] theorem State.setWritten_image (s : State) (n : Nat) (w m : Word) : (s.setWritten n w m).image = s.image := rfl
@[simp] theorem State.setWritten_power (s : State) (n : Nat) (w m : Word) : (s.setWritten n w m).power = s.power := rfl
@[simp] theorem State.setWritten_tap (s : State) (n : Nat) (w m : Word) : (s.setWritten n w m).tap = s.tap := rfl
@[simp] theorem State.setWritten_status (s : State) (n : Nat) (w m : Word) : (s.setWritten n w m).status = s.status := rfl
@[simp] theorem State.setWritten_sticky (s : State) (n : Nat) (w m : Word) : (s.setWritten n w m).sticky = s.sticky := rfl
@[simp] theorem State.setWritten_tolls (s : State) (n : Nat) (w m : Word) : (s.setWritten n w m).tolls = s.tolls := rfl
@[simp] theorem State.setWritten_tollDue (s : State) (n : Nat) (w m : Word) : (s.setWritten n w m).tollDue = s.tollDue := rfl
@[simp] theorem State.setWritten_log (s : State) (n : Nat) (w m : Word) : (s.setWritten n w m).log = s.log := rfl
@[simp] theorem State.setWritten_ev (s : State) (n : Nat) (w m : Word) : (s.setWritten n w m).ev = s.ev := rfl
@[simp] theorem State.setWritten_free (s : State) (n : Nat) (w m : Word) : (s.setWritten n w m).free = s.free := rfl
@[simp] theorem State.setWritten_pending (s : State) (n : Nat) (w m : Word) : (s.setWritten n w m).pending = s.pending := rfl

@[simp] theorem State.setForce_chron (s : State) (n : Nat) (w m : Word) : (s.setForce n w m).chron = s.chron := rfl
@[simp] theorem State.setForce_written (s : State) (n : Nat) (w m : Word) : (s.setForce n w m).written = s.written := rfl
@[simp] theorem State.setForce_force (s : State) (n : Nat) (w m : Word) :
    (s.setForce n w m).force = Sparse.set resetWord s.force n ((s.word n &&& ~~~m) ||| (w &&& m)) := rfl
@[simp] theorem State.setForce_nextTick (s : State) (n : Nat) (w m : Word) : (s.setForce n w m).nextTick = s.nextTick := rfl
@[simp] theorem State.setForce_code (s : State) (n : Nat) (w m : Word) : (s.setForce n w m).code = s.code := rfl
@[simp] theorem State.setForce_run (s : State) (n : Nat) (w m : Word) : (s.setForce n w m).run = s.run := rfl
@[simp] theorem State.setForce_tally (s : State) (n : Nat) (w m : Word) : (s.setForce n w m).tally = s.tally := rfl
@[simp] theorem State.setForce_slots (s : State) (n : Nat) (w m : Word) : (s.setForce n w m).slots = s.slots := rfl
@[simp] theorem State.setForce_acts (s : State) (n : Nat) (w m : Word) : (s.setForce n w m).acts = s.acts := rfl
@[simp] theorem State.setForce_trigOut (s : State) (n : Nat) (w m : Word) : (s.setForce n w m).trigOut = s.trigOut := rfl
@[simp] theorem State.setForce_mints (s : State) (n : Nat) (w m : Word) : (s.setForce n w m).mints = s.mints := rfl
@[simp] theorem State.setForce_refs (s : State) (n : Nat) (w m : Word) : (s.setForce n w m).refs = s.refs := rfl
@[simp] theorem State.setForce_conv (s : State) (n : Nat) (w m : Word) : (s.setForce n w m).conv = s.conv := rfl
@[simp] theorem State.setForce_cal (s : State) (n : Nat) (w m : Word) : (s.setForce n w m).cal = s.cal := rfl
@[simp] theorem State.setForce_aux (s : State) (n : Nat) (w m : Word) : (s.setForce n w m).aux = s.aux := rfl
@[simp] theorem State.setForce_pool (s : State) (n : Nat) (w m : Word) : (s.setForce n w m).pool = s.pool := rfl
@[simp] theorem State.setForce_stalls (s : State) (n : Nat) (w m : Word) : (s.setForce n w m).stalls = s.stalls := rfl
@[simp] theorem State.setForce_sieve (s : State) (n : Nat) (w m : Word) : (s.setForce n w m).sieve = s.sieve := rfl
@[simp] theorem State.setForce_yards (s : State) (n : Nat) (w m : Word) : (s.setForce n w m).yards = s.yards := rfl
@[simp] theorem State.setForce_hall (s : State) (n : Nat) (w m : Word) : (s.setForce n w m).hall = s.hall := rfl
@[simp] theorem State.setForce_dram (s : State) (n : Nat) (w m : Word) : (s.setForce n w m).dram = s.dram := rfl
@[simp] theorem State.setForce_sign (s : State) (n : Nat) (w m : Word) : (s.setForce n w m).sign = s.sign := rfl
@[simp] theorem State.setForce_jumps (s : State) (n : Nat) (w m : Word) : (s.setForce n w m).jumps = s.jumps := rfl
@[simp] theorem State.setForce_trigIn (s : State) (n : Nat) (w m : Word) : (s.setForce n w m).trigIn = s.trigIn := rfl
@[simp] theorem State.setForce_crier (s : State) (n : Nat) (w m : Word) : (s.setForce n w m).crier = s.crier := rfl
@[simp] theorem State.setForce_barter (s : State) (n : Nat) (w m : Word) : (s.setForce n w m).barter = s.barter := rfl
@[simp] theorem State.setForce_wharf (s : State) (n : Nat) (w m : Word) : (s.setForce n w m).wharf = s.wharf := rfl
@[simp] theorem State.setForce_image (s : State) (n : Nat) (w m : Word) : (s.setForce n w m).image = s.image := rfl
@[simp] theorem State.setForce_power (s : State) (n : Nat) (w m : Word) : (s.setForce n w m).power = s.power := rfl
@[simp] theorem State.setForce_tap (s : State) (n : Nat) (w m : Word) : (s.setForce n w m).tap = s.tap := rfl
@[simp] theorem State.setForce_status (s : State) (n : Nat) (w m : Word) : (s.setForce n w m).status = s.status := rfl
@[simp] theorem State.setForce_sticky (s : State) (n : Nat) (w m : Word) : (s.setForce n w m).sticky = s.sticky := rfl
@[simp] theorem State.setForce_tolls (s : State) (n : Nat) (w m : Word) : (s.setForce n w m).tolls = s.tolls := rfl
@[simp] theorem State.setForce_tollDue (s : State) (n : Nat) (w m : Word) : (s.setForce n w m).tollDue = s.tollDue := rfl
@[simp] theorem State.setForce_log (s : State) (n : Nat) (w m : Word) : (s.setForce n w m).log = s.log := rfl
@[simp] theorem State.setForce_ev (s : State) (n : Nat) (w m : Word) : (s.setForce n w m).ev = s.ev := rfl
@[simp] theorem State.setForce_free (s : State) (n : Nat) (w m : Word) : (s.setForce n w m).free = s.free := rfl
@[simp] theorem State.setForce_pending (s : State) (n : Nat) (w m : Word) : (s.setForce n w m).pending = s.pending := rfl

@[simp] theorem State.atNextTick_chron (s : State) (n : Nat) : (s.atNextTick n).chron = s.chron := rfl
@[simp] theorem State.atNextTick_written (s : State) (n : Nat) : (s.atNextTick n).written = s.written := rfl
@[simp] theorem State.atNextTick_force (s : State) (n : Nat) : (s.atNextTick n).force = s.force := rfl
@[simp] theorem State.atNextTick_nextTick (s : State) (n : Nat) :
    (s.atNextTick n).nextTick = if s.nextTick.contains n then s.nextTick else s.nextTick ++ [n] := rfl
@[simp] theorem State.atNextTick_code (s : State) (n : Nat) : (s.atNextTick n).code = s.code := rfl
@[simp] theorem State.atNextTick_run (s : State) (n : Nat) : (s.atNextTick n).run = s.run := rfl
@[simp] theorem State.atNextTick_tally (s : State) (n : Nat) : (s.atNextTick n).tally = s.tally := rfl
@[simp] theorem State.atNextTick_slots (s : State) (n : Nat) : (s.atNextTick n).slots = s.slots := rfl
@[simp] theorem State.atNextTick_acts (s : State) (n : Nat) : (s.atNextTick n).acts = s.acts := rfl
@[simp] theorem State.atNextTick_trigOut (s : State) (n : Nat) : (s.atNextTick n).trigOut = s.trigOut := rfl
@[simp] theorem State.atNextTick_mints (s : State) (n : Nat) : (s.atNextTick n).mints = s.mints := rfl
@[simp] theorem State.atNextTick_refs (s : State) (n : Nat) : (s.atNextTick n).refs = s.refs := rfl
@[simp] theorem State.atNextTick_conv (s : State) (n : Nat) : (s.atNextTick n).conv = s.conv := rfl
@[simp] theorem State.atNextTick_cal (s : State) (n : Nat) : (s.atNextTick n).cal = s.cal := rfl
@[simp] theorem State.atNextTick_aux (s : State) (n : Nat) : (s.atNextTick n).aux = s.aux := rfl
@[simp] theorem State.atNextTick_pool (s : State) (n : Nat) : (s.atNextTick n).pool = s.pool := rfl
@[simp] theorem State.atNextTick_stalls (s : State) (n : Nat) : (s.atNextTick n).stalls = s.stalls := rfl
@[simp] theorem State.atNextTick_sieve (s : State) (n : Nat) : (s.atNextTick n).sieve = s.sieve := rfl
@[simp] theorem State.atNextTick_yards (s : State) (n : Nat) : (s.atNextTick n).yards = s.yards := rfl
@[simp] theorem State.atNextTick_hall (s : State) (n : Nat) : (s.atNextTick n).hall = s.hall := rfl
@[simp] theorem State.atNextTick_dram (s : State) (n : Nat) : (s.atNextTick n).dram = s.dram := rfl
@[simp] theorem State.atNextTick_sign (s : State) (n : Nat) : (s.atNextTick n).sign = s.sign := rfl
@[simp] theorem State.atNextTick_jumps (s : State) (n : Nat) : (s.atNextTick n).jumps = s.jumps := rfl
@[simp] theorem State.atNextTick_trigIn (s : State) (n : Nat) : (s.atNextTick n).trigIn = s.trigIn := rfl
@[simp] theorem State.atNextTick_crier (s : State) (n : Nat) : (s.atNextTick n).crier = s.crier := rfl
@[simp] theorem State.atNextTick_barter (s : State) (n : Nat) : (s.atNextTick n).barter = s.barter := rfl
@[simp] theorem State.atNextTick_wharf (s : State) (n : Nat) : (s.atNextTick n).wharf = s.wharf := rfl
@[simp] theorem State.atNextTick_image (s : State) (n : Nat) : (s.atNextTick n).image = s.image := rfl
@[simp] theorem State.atNextTick_power (s : State) (n : Nat) : (s.atNextTick n).power = s.power := rfl
@[simp] theorem State.atNextTick_tap (s : State) (n : Nat) : (s.atNextTick n).tap = s.tap := rfl
@[simp] theorem State.atNextTick_status (s : State) (n : Nat) : (s.atNextTick n).status = s.status := rfl
@[simp] theorem State.atNextTick_sticky (s : State) (n : Nat) : (s.atNextTick n).sticky = s.sticky := rfl
@[simp] theorem State.atNextTick_tolls (s : State) (n : Nat) : (s.atNextTick n).tolls = s.tolls := rfl
@[simp] theorem State.atNextTick_tollDue (s : State) (n : Nat) : (s.atNextTick n).tollDue = s.tollDue := rfl
@[simp] theorem State.atNextTick_log (s : State) (n : Nat) : (s.atNextTick n).log = s.log := rfl
@[simp] theorem State.atNextTick_ev (s : State) (n : Nat) : (s.atNextTick n).ev = s.ev := rfl
@[simp] theorem State.atNextTick_free (s : State) (n : Nat) : (s.atNextTick n).free = s.free := rfl
@[simp] theorem State.atNextTick_pending (s : State) (n : Nat) : (s.atNextTick n).pending = s.pending := rfl

@[simp] theorem State.modMint_chron (s : State) (m : Fin 5) (f : Mint → Mint) : (s.modMint m f).chron = s.chron := rfl
@[simp] theorem State.modMint_written (s : State) (m : Fin 5) (f : Mint → Mint) : (s.modMint m f).written = s.written := rfl
@[simp] theorem State.modMint_force (s : State) (m : Fin 5) (f : Mint → Mint) : (s.modMint m f).force = s.force := rfl
@[simp] theorem State.modMint_nextTick (s : State) (m : Fin 5) (f : Mint → Mint) : (s.modMint m f).nextTick = s.nextTick := rfl
@[simp] theorem State.modMint_code (s : State) (m : Fin 5) (f : Mint → Mint) : (s.modMint m f).code = s.code := rfl
@[simp] theorem State.modMint_run (s : State) (m : Fin 5) (f : Mint → Mint) : (s.modMint m f).run = s.run := rfl
@[simp] theorem State.modMint_tally (s : State) (m : Fin 5) (f : Mint → Mint) : (s.modMint m f).tally = s.tally := rfl
@[simp] theorem State.modMint_slots (s : State) (m : Fin 5) (f : Mint → Mint) : (s.modMint m f).slots = s.slots := rfl
@[simp] theorem State.modMint_acts (s : State) (m : Fin 5) (f : Mint → Mint) : (s.modMint m f).acts = s.acts := rfl
@[simp] theorem State.modMint_trigOut (s : State) (m : Fin 5) (f : Mint → Mint) : (s.modMint m f).trigOut = s.trigOut := rfl
@[simp] theorem State.modMint_mints (s : State) (m : Fin 5) (f : Mint → Mint) : (s.modMint m f).mints = updAt s.mints m f := rfl
@[simp] theorem State.modMint_refs (s : State) (m : Fin 5) (f : Mint → Mint) : (s.modMint m f).refs = s.refs := rfl
@[simp] theorem State.modMint_conv (s : State) (m : Fin 5) (f : Mint → Mint) : (s.modMint m f).conv = s.conv := rfl
@[simp] theorem State.modMint_cal (s : State) (m : Fin 5) (f : Mint → Mint) : (s.modMint m f).cal = s.cal := rfl
@[simp] theorem State.modMint_aux (s : State) (m : Fin 5) (f : Mint → Mint) : (s.modMint m f).aux = s.aux := rfl
@[simp] theorem State.modMint_pool (s : State) (m : Fin 5) (f : Mint → Mint) : (s.modMint m f).pool = s.pool := rfl
@[simp] theorem State.modMint_stalls (s : State) (m : Fin 5) (f : Mint → Mint) : (s.modMint m f).stalls = s.stalls := rfl
@[simp] theorem State.modMint_sieve (s : State) (m : Fin 5) (f : Mint → Mint) : (s.modMint m f).sieve = s.sieve := rfl
@[simp] theorem State.modMint_yards (s : State) (m : Fin 5) (f : Mint → Mint) : (s.modMint m f).yards = s.yards := rfl
@[simp] theorem State.modMint_hall (s : State) (m : Fin 5) (f : Mint → Mint) : (s.modMint m f).hall = s.hall := rfl
@[simp] theorem State.modMint_dram (s : State) (m : Fin 5) (f : Mint → Mint) : (s.modMint m f).dram = s.dram := rfl
@[simp] theorem State.modMint_sign (s : State) (m : Fin 5) (f : Mint → Mint) : (s.modMint m f).sign = s.sign := rfl
@[simp] theorem State.modMint_jumps (s : State) (m : Fin 5) (f : Mint → Mint) : (s.modMint m f).jumps = s.jumps := rfl
@[simp] theorem State.modMint_trigIn (s : State) (m : Fin 5) (f : Mint → Mint) : (s.modMint m f).trigIn = s.trigIn := rfl
@[simp] theorem State.modMint_crier (s : State) (m : Fin 5) (f : Mint → Mint) : (s.modMint m f).crier = s.crier := rfl
@[simp] theorem State.modMint_barter (s : State) (m : Fin 5) (f : Mint → Mint) : (s.modMint m f).barter = s.barter := rfl
@[simp] theorem State.modMint_wharf (s : State) (m : Fin 5) (f : Mint → Mint) : (s.modMint m f).wharf = s.wharf := rfl
@[simp] theorem State.modMint_image (s : State) (m : Fin 5) (f : Mint → Mint) : (s.modMint m f).image = s.image := rfl
@[simp] theorem State.modMint_power (s : State) (m : Fin 5) (f : Mint → Mint) : (s.modMint m f).power = s.power := rfl
@[simp] theorem State.modMint_tap (s : State) (m : Fin 5) (f : Mint → Mint) : (s.modMint m f).tap = s.tap := rfl
@[simp] theorem State.modMint_status (s : State) (m : Fin 5) (f : Mint → Mint) : (s.modMint m f).status = s.status := rfl
@[simp] theorem State.modMint_sticky (s : State) (m : Fin 5) (f : Mint → Mint) : (s.modMint m f).sticky = s.sticky := rfl
@[simp] theorem State.modMint_tolls (s : State) (m : Fin 5) (f : Mint → Mint) : (s.modMint m f).tolls = s.tolls := rfl
@[simp] theorem State.modMint_tollDue (s : State) (m : Fin 5) (f : Mint → Mint) : (s.modMint m f).tollDue = s.tollDue := rfl
@[simp] theorem State.modMint_log (s : State) (m : Fin 5) (f : Mint → Mint) : (s.modMint m f).log = s.log := rfl
@[simp] theorem State.modMint_ev (s : State) (m : Fin 5) (f : Mint → Mint) : (s.modMint m f).ev = s.ev := rfl
@[simp] theorem State.modMint_free (s : State) (m : Fin 5) (f : Mint → Mint) : (s.modMint m f).free = s.free := rfl
@[simp] theorem State.modMint_pending (s : State) (m : Fin 5) (f : Mint → Mint) : (s.modMint m f).pending = s.pending := rfl

@[simp] theorem State.modAux_chron (s : State) (f : Auxiliary → Auxiliary) : (s.modAux f).chron = s.chron := rfl
@[simp] theorem State.modAux_written (s : State) (f : Auxiliary → Auxiliary) : (s.modAux f).written = s.written := rfl
@[simp] theorem State.modAux_force (s : State) (f : Auxiliary → Auxiliary) : (s.modAux f).force = s.force := rfl
@[simp] theorem State.modAux_nextTick (s : State) (f : Auxiliary → Auxiliary) : (s.modAux f).nextTick = s.nextTick := rfl
@[simp] theorem State.modAux_code (s : State) (f : Auxiliary → Auxiliary) : (s.modAux f).code = s.code := rfl
@[simp] theorem State.modAux_run (s : State) (f : Auxiliary → Auxiliary) : (s.modAux f).run = s.run := rfl
@[simp] theorem State.modAux_tally (s : State) (f : Auxiliary → Auxiliary) : (s.modAux f).tally = s.tally := rfl
@[simp] theorem State.modAux_slots (s : State) (f : Auxiliary → Auxiliary) : (s.modAux f).slots = s.slots := rfl
@[simp] theorem State.modAux_acts (s : State) (f : Auxiliary → Auxiliary) : (s.modAux f).acts = s.acts := rfl
@[simp] theorem State.modAux_trigOut (s : State) (f : Auxiliary → Auxiliary) : (s.modAux f).trigOut = s.trigOut := rfl
@[simp] theorem State.modAux_mints (s : State) (f : Auxiliary → Auxiliary) : (s.modAux f).mints = s.mints := rfl
@[simp] theorem State.modAux_refs (s : State) (f : Auxiliary → Auxiliary) : (s.modAux f).refs = s.refs := rfl
@[simp] theorem State.modAux_conv (s : State) (f : Auxiliary → Auxiliary) : (s.modAux f).conv = s.conv := rfl
@[simp] theorem State.modAux_cal (s : State) (f : Auxiliary → Auxiliary) : (s.modAux f).cal = s.cal := rfl
@[simp] theorem State.modAux_aux (s : State) (f : Auxiliary → Auxiliary) : (s.modAux f).aux = f s.aux := rfl
@[simp] theorem State.modAux_pool (s : State) (f : Auxiliary → Auxiliary) : (s.modAux f).pool = s.pool := rfl
@[simp] theorem State.modAux_stalls (s : State) (f : Auxiliary → Auxiliary) : (s.modAux f).stalls = s.stalls := rfl
@[simp] theorem State.modAux_sieve (s : State) (f : Auxiliary → Auxiliary) : (s.modAux f).sieve = s.sieve := rfl
@[simp] theorem State.modAux_yards (s : State) (f : Auxiliary → Auxiliary) : (s.modAux f).yards = s.yards := rfl
@[simp] theorem State.modAux_hall (s : State) (f : Auxiliary → Auxiliary) : (s.modAux f).hall = s.hall := rfl
@[simp] theorem State.modAux_dram (s : State) (f : Auxiliary → Auxiliary) : (s.modAux f).dram = s.dram := rfl
@[simp] theorem State.modAux_sign (s : State) (f : Auxiliary → Auxiliary) : (s.modAux f).sign = s.sign := rfl
@[simp] theorem State.modAux_jumps (s : State) (f : Auxiliary → Auxiliary) : (s.modAux f).jumps = s.jumps := rfl
@[simp] theorem State.modAux_trigIn (s : State) (f : Auxiliary → Auxiliary) : (s.modAux f).trigIn = s.trigIn := rfl
@[simp] theorem State.modAux_crier (s : State) (f : Auxiliary → Auxiliary) : (s.modAux f).crier = s.crier := rfl
@[simp] theorem State.modAux_barter (s : State) (f : Auxiliary → Auxiliary) : (s.modAux f).barter = s.barter := rfl
@[simp] theorem State.modAux_wharf (s : State) (f : Auxiliary → Auxiliary) : (s.modAux f).wharf = s.wharf := rfl
@[simp] theorem State.modAux_image (s : State) (f : Auxiliary → Auxiliary) : (s.modAux f).image = s.image := rfl
@[simp] theorem State.modAux_power (s : State) (f : Auxiliary → Auxiliary) : (s.modAux f).power = s.power := rfl
@[simp] theorem State.modAux_tap (s : State) (f : Auxiliary → Auxiliary) : (s.modAux f).tap = s.tap := rfl
@[simp] theorem State.modAux_status (s : State) (f : Auxiliary → Auxiliary) : (s.modAux f).status = s.status := rfl
@[simp] theorem State.modAux_sticky (s : State) (f : Auxiliary → Auxiliary) : (s.modAux f).sticky = s.sticky := rfl
@[simp] theorem State.modAux_tolls (s : State) (f : Auxiliary → Auxiliary) : (s.modAux f).tolls = s.tolls := rfl
@[simp] theorem State.modAux_tollDue (s : State) (f : Auxiliary → Auxiliary) : (s.modAux f).tollDue = s.tollDue := rfl
@[simp] theorem State.modAux_log (s : State) (f : Auxiliary → Auxiliary) : (s.modAux f).log = s.log := rfl
@[simp] theorem State.modAux_ev (s : State) (f : Auxiliary → Auxiliary) : (s.modAux f).ev = s.ev := rfl
@[simp] theorem State.modAux_free (s : State) (f : Auxiliary → Auxiliary) : (s.modAux f).free = s.free := rfl
@[simp] theorem State.modAux_pending (s : State) (f : Auxiliary → Auxiliary) : (s.modAux f).pending = s.pending := rfl

@[simp] theorem State.modPort_chron (s : State) (p : Fin 4) (f : TallyPort → TallyPort) : (s.modPort p f).chron = s.chron := rfl
@[simp] theorem State.modPort_written (s : State) (p : Fin 4) (f : TallyPort → TallyPort) :
    (s.modPort p f).written = s.written := rfl
@[simp] theorem State.modPort_force (s : State) (p : Fin 4) (f : TallyPort → TallyPort) : (s.modPort p f).force = s.force := rfl
@[simp] theorem State.modPort_nextTick (s : State) (p : Fin 4) (f : TallyPort → TallyPort) :
    (s.modPort p f).nextTick = s.nextTick := rfl
@[simp] theorem State.modPort_code (s : State) (p : Fin 4) (f : TallyPort → TallyPort) : (s.modPort p f).code = s.code := rfl
@[simp] theorem State.modPort_run (s : State) (p : Fin 4) (f : TallyPort → TallyPort) : (s.modPort p f).run = s.run := rfl
@[simp] theorem State.modPort_tally (s : State) (p : Fin 4) (f : TallyPort → TallyPort) :
    (s.modPort p f).tally = { s.tally with ports := updAt s.tally.ports p f } := rfl
@[simp] theorem State.modPort_slots (s : State) (p : Fin 4) (f : TallyPort → TallyPort) : (s.modPort p f).slots = s.slots := rfl
@[simp] theorem State.modPort_acts (s : State) (p : Fin 4) (f : TallyPort → TallyPort) : (s.modPort p f).acts = s.acts := rfl
@[simp] theorem State.modPort_trigOut (s : State) (p : Fin 4) (f : TallyPort → TallyPort) :
    (s.modPort p f).trigOut = s.trigOut := rfl
@[simp] theorem State.modPort_mints (s : State) (p : Fin 4) (f : TallyPort → TallyPort) : (s.modPort p f).mints = s.mints := rfl
@[simp] theorem State.modPort_refs (s : State) (p : Fin 4) (f : TallyPort → TallyPort) : (s.modPort p f).refs = s.refs := rfl
@[simp] theorem State.modPort_conv (s : State) (p : Fin 4) (f : TallyPort → TallyPort) : (s.modPort p f).conv = s.conv := rfl
@[simp] theorem State.modPort_cal (s : State) (p : Fin 4) (f : TallyPort → TallyPort) : (s.modPort p f).cal = s.cal := rfl
@[simp] theorem State.modPort_aux (s : State) (p : Fin 4) (f : TallyPort → TallyPort) : (s.modPort p f).aux = s.aux := rfl
@[simp] theorem State.modPort_pool (s : State) (p : Fin 4) (f : TallyPort → TallyPort) : (s.modPort p f).pool = s.pool := rfl
@[simp] theorem State.modPort_stalls (s : State) (p : Fin 4) (f : TallyPort → TallyPort) :
    (s.modPort p f).stalls = s.stalls := rfl
@[simp] theorem State.modPort_sieve (s : State) (p : Fin 4) (f : TallyPort → TallyPort) : (s.modPort p f).sieve = s.sieve := rfl
@[simp] theorem State.modPort_yards (s : State) (p : Fin 4) (f : TallyPort → TallyPort) : (s.modPort p f).yards = s.yards := rfl
@[simp] theorem State.modPort_hall (s : State) (p : Fin 4) (f : TallyPort → TallyPort) : (s.modPort p f).hall = s.hall := rfl
@[simp] theorem State.modPort_dram (s : State) (p : Fin 4) (f : TallyPort → TallyPort) : (s.modPort p f).dram = s.dram := rfl
@[simp] theorem State.modPort_sign (s : State) (p : Fin 4) (f : TallyPort → TallyPort) : (s.modPort p f).sign = s.sign := rfl
@[simp] theorem State.modPort_jumps (s : State) (p : Fin 4) (f : TallyPort → TallyPort) : (s.modPort p f).jumps = s.jumps := rfl
@[simp] theorem State.modPort_trigIn (s : State) (p : Fin 4) (f : TallyPort → TallyPort) :
    (s.modPort p f).trigIn = s.trigIn := rfl
@[simp] theorem State.modPort_crier (s : State) (p : Fin 4) (f : TallyPort → TallyPort) : (s.modPort p f).crier = s.crier := rfl
@[simp] theorem State.modPort_barter (s : State) (p : Fin 4) (f : TallyPort → TallyPort) :
    (s.modPort p f).barter = s.barter := rfl
@[simp] theorem State.modPort_wharf (s : State) (p : Fin 4) (f : TallyPort → TallyPort) : (s.modPort p f).wharf = s.wharf := rfl
@[simp] theorem State.modPort_image (s : State) (p : Fin 4) (f : TallyPort → TallyPort) : (s.modPort p f).image = s.image := rfl
@[simp] theorem State.modPort_power (s : State) (p : Fin 4) (f : TallyPort → TallyPort) : (s.modPort p f).power = s.power := rfl
@[simp] theorem State.modPort_tap (s : State) (p : Fin 4) (f : TallyPort → TallyPort) : (s.modPort p f).tap = s.tap := rfl
@[simp] theorem State.modPort_status (s : State) (p : Fin 4) (f : TallyPort → TallyPort) :
    (s.modPort p f).status = s.status := rfl
@[simp] theorem State.modPort_sticky (s : State) (p : Fin 4) (f : TallyPort → TallyPort) :
    (s.modPort p f).sticky = s.sticky := rfl
@[simp] theorem State.modPort_tolls (s : State) (p : Fin 4) (f : TallyPort → TallyPort) : (s.modPort p f).tolls = s.tolls := rfl
@[simp] theorem State.modPort_tollDue (s : State) (p : Fin 4) (f : TallyPort → TallyPort) :
    (s.modPort p f).tollDue = s.tollDue := rfl
@[simp] theorem State.modPort_log (s : State) (p : Fin 4) (f : TallyPort → TallyPort) : (s.modPort p f).log = s.log := rfl
@[simp] theorem State.modPort_ev (s : State) (p : Fin 4) (f : TallyPort → TallyPort) : (s.modPort p f).ev = s.ev := rfl
@[simp] theorem State.modPort_free (s : State) (p : Fin 4) (f : TallyPort → TallyPort) : (s.modPort p f).free = s.free := rfl
@[simp] theorem State.modPort_pending (s : State) (p : Fin 4) (f : TallyPort → TallyPort) :
    (s.modPort p f).pending = s.pending := rfl

@[simp] theorem State.modTout_chron (s : State) (p : Fin 4) (f : TrigOut → TrigOut) : (s.modTout p f).chron = s.chron := rfl
@[simp] theorem State.modTout_written (s : State) (p : Fin 4) (f : TrigOut → TrigOut) :
    (s.modTout p f).written = s.written := rfl
@[simp] theorem State.modTout_force (s : State) (p : Fin 4) (f : TrigOut → TrigOut) : (s.modTout p f).force = s.force := rfl
@[simp] theorem State.modTout_nextTick (s : State) (p : Fin 4) (f : TrigOut → TrigOut) :
    (s.modTout p f).nextTick = s.nextTick := rfl
@[simp] theorem State.modTout_code (s : State) (p : Fin 4) (f : TrigOut → TrigOut) : (s.modTout p f).code = s.code := rfl
@[simp] theorem State.modTout_run (s : State) (p : Fin 4) (f : TrigOut → TrigOut) : (s.modTout p f).run = s.run := rfl
@[simp] theorem State.modTout_tally (s : State) (p : Fin 4) (f : TrigOut → TrigOut) : (s.modTout p f).tally = s.tally := rfl
@[simp] theorem State.modTout_slots (s : State) (p : Fin 4) (f : TrigOut → TrigOut) : (s.modTout p f).slots = s.slots := rfl
@[simp] theorem State.modTout_acts (s : State) (p : Fin 4) (f : TrigOut → TrigOut) : (s.modTout p f).acts = s.acts := rfl
@[simp] theorem State.modTout_trigOut (s : State) (p : Fin 4) (f : TrigOut → TrigOut) :
    (s.modTout p f).trigOut = updAt s.trigOut p f := rfl
@[simp] theorem State.modTout_mints (s : State) (p : Fin 4) (f : TrigOut → TrigOut) : (s.modTout p f).mints = s.mints := rfl
@[simp] theorem State.modTout_refs (s : State) (p : Fin 4) (f : TrigOut → TrigOut) : (s.modTout p f).refs = s.refs := rfl
@[simp] theorem State.modTout_conv (s : State) (p : Fin 4) (f : TrigOut → TrigOut) : (s.modTout p f).conv = s.conv := rfl
@[simp] theorem State.modTout_cal (s : State) (p : Fin 4) (f : TrigOut → TrigOut) : (s.modTout p f).cal = s.cal := rfl
@[simp] theorem State.modTout_aux (s : State) (p : Fin 4) (f : TrigOut → TrigOut) : (s.modTout p f).aux = s.aux := rfl
@[simp] theorem State.modTout_pool (s : State) (p : Fin 4) (f : TrigOut → TrigOut) : (s.modTout p f).pool = s.pool := rfl
@[simp] theorem State.modTout_stalls (s : State) (p : Fin 4) (f : TrigOut → TrigOut) : (s.modTout p f).stalls = s.stalls := rfl
@[simp] theorem State.modTout_sieve (s : State) (p : Fin 4) (f : TrigOut → TrigOut) : (s.modTout p f).sieve = s.sieve := rfl
@[simp] theorem State.modTout_yards (s : State) (p : Fin 4) (f : TrigOut → TrigOut) : (s.modTout p f).yards = s.yards := rfl
@[simp] theorem State.modTout_hall (s : State) (p : Fin 4) (f : TrigOut → TrigOut) : (s.modTout p f).hall = s.hall := rfl
@[simp] theorem State.modTout_dram (s : State) (p : Fin 4) (f : TrigOut → TrigOut) : (s.modTout p f).dram = s.dram := rfl
@[simp] theorem State.modTout_sign (s : State) (p : Fin 4) (f : TrigOut → TrigOut) : (s.modTout p f).sign = s.sign := rfl
@[simp] theorem State.modTout_jumps (s : State) (p : Fin 4) (f : TrigOut → TrigOut) : (s.modTout p f).jumps = s.jumps := rfl
@[simp] theorem State.modTout_trigIn (s : State) (p : Fin 4) (f : TrigOut → TrigOut) : (s.modTout p f).trigIn = s.trigIn := rfl
@[simp] theorem State.modTout_crier (s : State) (p : Fin 4) (f : TrigOut → TrigOut) : (s.modTout p f).crier = s.crier := rfl
@[simp] theorem State.modTout_barter (s : State) (p : Fin 4) (f : TrigOut → TrigOut) : (s.modTout p f).barter = s.barter := rfl
@[simp] theorem State.modTout_wharf (s : State) (p : Fin 4) (f : TrigOut → TrigOut) : (s.modTout p f).wharf = s.wharf := rfl
@[simp] theorem State.modTout_image (s : State) (p : Fin 4) (f : TrigOut → TrigOut) : (s.modTout p f).image = s.image := rfl
@[simp] theorem State.modTout_power (s : State) (p : Fin 4) (f : TrigOut → TrigOut) : (s.modTout p f).power = s.power := rfl
@[simp] theorem State.modTout_tap (s : State) (p : Fin 4) (f : TrigOut → TrigOut) : (s.modTout p f).tap = s.tap := rfl
@[simp] theorem State.modTout_status (s : State) (p : Fin 4) (f : TrigOut → TrigOut) : (s.modTout p f).status = s.status := rfl
@[simp] theorem State.modTout_sticky (s : State) (p : Fin 4) (f : TrigOut → TrigOut) : (s.modTout p f).sticky = s.sticky := rfl
@[simp] theorem State.modTout_tolls (s : State) (p : Fin 4) (f : TrigOut → TrigOut) : (s.modTout p f).tolls = s.tolls := rfl
@[simp] theorem State.modTout_tollDue (s : State) (p : Fin 4) (f : TrigOut → TrigOut) :
    (s.modTout p f).tollDue = s.tollDue := rfl
@[simp] theorem State.modTout_log (s : State) (p : Fin 4) (f : TrigOut → TrigOut) : (s.modTout p f).log = s.log := rfl
@[simp] theorem State.modTout_ev (s : State) (p : Fin 4) (f : TrigOut → TrigOut) : (s.modTout p f).ev = s.ev := rfl
@[simp] theorem State.modTout_free (s : State) (p : Fin 4) (f : TrigOut → TrigOut) : (s.modTout p f).free = s.free := rfl
@[simp] theorem State.modTout_pending (s : State) (p : Fin 4) (f : TrigOut → TrigOut) :
    (s.modTout p f).pending = s.pending := rfl

@[simp] theorem State.modStall_chron (s : State) (n : Fin 16) (f : Stall → Stall) : (s.modStall n f).chron = s.chron := rfl
@[simp] theorem State.modStall_written (s : State) (n : Fin 16) (f : Stall → Stall) :
    (s.modStall n f).written = s.written := rfl
@[simp] theorem State.modStall_force (s : State) (n : Fin 16) (f : Stall → Stall) : (s.modStall n f).force = s.force := rfl
@[simp] theorem State.modStall_nextTick (s : State) (n : Fin 16) (f : Stall → Stall) :
    (s.modStall n f).nextTick = s.nextTick := rfl
@[simp] theorem State.modStall_code (s : State) (n : Fin 16) (f : Stall → Stall) : (s.modStall n f).code = s.code := rfl
@[simp] theorem State.modStall_run (s : State) (n : Fin 16) (f : Stall → Stall) : (s.modStall n f).run = s.run := rfl
@[simp] theorem State.modStall_tally (s : State) (n : Fin 16) (f : Stall → Stall) : (s.modStall n f).tally = s.tally := rfl
@[simp] theorem State.modStall_slots (s : State) (n : Fin 16) (f : Stall → Stall) : (s.modStall n f).slots = s.slots := rfl
@[simp] theorem State.modStall_acts (s : State) (n : Fin 16) (f : Stall → Stall) : (s.modStall n f).acts = s.acts := rfl
@[simp] theorem State.modStall_trigOut (s : State) (n : Fin 16) (f : Stall → Stall) :
    (s.modStall n f).trigOut = s.trigOut := rfl
@[simp] theorem State.modStall_mints (s : State) (n : Fin 16) (f : Stall → Stall) : (s.modStall n f).mints = s.mints := rfl
@[simp] theorem State.modStall_refs (s : State) (n : Fin 16) (f : Stall → Stall) : (s.modStall n f).refs = s.refs := rfl
@[simp] theorem State.modStall_conv (s : State) (n : Fin 16) (f : Stall → Stall) : (s.modStall n f).conv = s.conv := rfl
@[simp] theorem State.modStall_cal (s : State) (n : Fin 16) (f : Stall → Stall) : (s.modStall n f).cal = s.cal := rfl
@[simp] theorem State.modStall_aux (s : State) (n : Fin 16) (f : Stall → Stall) : (s.modStall n f).aux = s.aux := rfl
@[simp] theorem State.modStall_pool (s : State) (n : Fin 16) (f : Stall → Stall) : (s.modStall n f).pool = s.pool := rfl
@[simp] theorem State.modStall_stalls (s : State) (n : Fin 16) (f : Stall → Stall) :
    (s.modStall n f).stalls = updAt s.stalls n f := rfl
@[simp] theorem State.modStall_sieve (s : State) (n : Fin 16) (f : Stall → Stall) : (s.modStall n f).sieve = s.sieve := rfl
@[simp] theorem State.modStall_yards (s : State) (n : Fin 16) (f : Stall → Stall) : (s.modStall n f).yards = s.yards := rfl
@[simp] theorem State.modStall_hall (s : State) (n : Fin 16) (f : Stall → Stall) : (s.modStall n f).hall = s.hall := rfl
@[simp] theorem State.modStall_dram (s : State) (n : Fin 16) (f : Stall → Stall) : (s.modStall n f).dram = s.dram := rfl
@[simp] theorem State.modStall_sign (s : State) (n : Fin 16) (f : Stall → Stall) : (s.modStall n f).sign = s.sign := rfl
@[simp] theorem State.modStall_jumps (s : State) (n : Fin 16) (f : Stall → Stall) : (s.modStall n f).jumps = s.jumps := rfl
@[simp] theorem State.modStall_trigIn (s : State) (n : Fin 16) (f : Stall → Stall) : (s.modStall n f).trigIn = s.trigIn := rfl
@[simp] theorem State.modStall_crier (s : State) (n : Fin 16) (f : Stall → Stall) : (s.modStall n f).crier = s.crier := rfl
@[simp] theorem State.modStall_barter (s : State) (n : Fin 16) (f : Stall → Stall) : (s.modStall n f).barter = s.barter := rfl
@[simp] theorem State.modStall_wharf (s : State) (n : Fin 16) (f : Stall → Stall) : (s.modStall n f).wharf = s.wharf := rfl
@[simp] theorem State.modStall_image (s : State) (n : Fin 16) (f : Stall → Stall) : (s.modStall n f).image = s.image := rfl
@[simp] theorem State.modStall_power (s : State) (n : Fin 16) (f : Stall → Stall) : (s.modStall n f).power = s.power := rfl
@[simp] theorem State.modStall_tap (s : State) (n : Fin 16) (f : Stall → Stall) : (s.modStall n f).tap = s.tap := rfl
@[simp] theorem State.modStall_status (s : State) (n : Fin 16) (f : Stall → Stall) : (s.modStall n f).status = s.status := rfl
@[simp] theorem State.modStall_sticky (s : State) (n : Fin 16) (f : Stall → Stall) : (s.modStall n f).sticky = s.sticky := rfl
@[simp] theorem State.modStall_tolls (s : State) (n : Fin 16) (f : Stall → Stall) : (s.modStall n f).tolls = s.tolls := rfl
@[simp] theorem State.modStall_tollDue (s : State) (n : Fin 16) (f : Stall → Stall) :
    (s.modStall n f).tollDue = s.tollDue := rfl
@[simp] theorem State.modStall_log (s : State) (n : Fin 16) (f : Stall → Stall) : (s.modStall n f).log = s.log := rfl
@[simp] theorem State.modStall_ev (s : State) (n : Fin 16) (f : Stall → Stall) : (s.modStall n f).ev = s.ev := rfl
@[simp] theorem State.modStall_free (s : State) (n : Fin 16) (f : Stall → Stall) : (s.modStall n f).free = s.free := rfl
@[simp] theorem State.modStall_pending (s : State) (n : Fin 16) (f : Stall → Stall) :
    (s.modStall n f).pending = s.pending := rfl

@[simp] theorem State.modBell_chron (s : State) (n : Fin 16) (f : Bell → Bell) : (s.modBell n f).chron = s.chron := rfl
@[simp] theorem State.modBell_written (s : State) (n : Fin 16) (f : Bell → Bell) : (s.modBell n f).written = s.written := rfl
@[simp] theorem State.modBell_force (s : State) (n : Fin 16) (f : Bell → Bell) : (s.modBell n f).force = s.force := rfl
@[simp] theorem State.modBell_nextTick (s : State) (n : Fin 16) (f : Bell → Bell) : (s.modBell n f).nextTick = s.nextTick := rfl
@[simp] theorem State.modBell_code (s : State) (n : Fin 16) (f : Bell → Bell) : (s.modBell n f).code = s.code := rfl
@[simp] theorem State.modBell_run (s : State) (n : Fin 16) (f : Bell → Bell) : (s.modBell n f).run = s.run := rfl
@[simp] theorem State.modBell_tally (s : State) (n : Fin 16) (f : Bell → Bell) : (s.modBell n f).tally = s.tally := rfl
@[simp] theorem State.modBell_slots (s : State) (n : Fin 16) (f : Bell → Bell) : (s.modBell n f).slots = s.slots := rfl
@[simp] theorem State.modBell_acts (s : State) (n : Fin 16) (f : Bell → Bell) : (s.modBell n f).acts = s.acts := rfl
@[simp] theorem State.modBell_trigOut (s : State) (n : Fin 16) (f : Bell → Bell) : (s.modBell n f).trigOut = s.trigOut := rfl
@[simp] theorem State.modBell_mints (s : State) (n : Fin 16) (f : Bell → Bell) : (s.modBell n f).mints = s.mints := rfl
@[simp] theorem State.modBell_refs (s : State) (n : Fin 16) (f : Bell → Bell) : (s.modBell n f).refs = s.refs := rfl
@[simp] theorem State.modBell_conv (s : State) (n : Fin 16) (f : Bell → Bell) : (s.modBell n f).conv = s.conv := rfl
@[simp] theorem State.modBell_cal (s : State) (n : Fin 16) (f : Bell → Bell) : (s.modBell n f).cal = s.cal := rfl
@[simp] theorem State.modBell_aux (s : State) (n : Fin 16) (f : Bell → Bell) : (s.modBell n f).aux = s.aux := rfl
@[simp] theorem State.modBell_pool (s : State) (n : Fin 16) (f : Bell → Bell) : (s.modBell n f).pool = s.pool := rfl
@[simp] theorem State.modBell_stalls (s : State) (n : Fin 16) (f : Bell → Bell) :
    (s.modBell n f).stalls = updAt s.stalls n fun t => { t with bell := f t.bell } := rfl
@[simp] theorem State.modBell_sieve (s : State) (n : Fin 16) (f : Bell → Bell) : (s.modBell n f).sieve = s.sieve := rfl
@[simp] theorem State.modBell_yards (s : State) (n : Fin 16) (f : Bell → Bell) : (s.modBell n f).yards = s.yards := rfl
@[simp] theorem State.modBell_hall (s : State) (n : Fin 16) (f : Bell → Bell) : (s.modBell n f).hall = s.hall := rfl
@[simp] theorem State.modBell_dram (s : State) (n : Fin 16) (f : Bell → Bell) : (s.modBell n f).dram = s.dram := rfl
@[simp] theorem State.modBell_sign (s : State) (n : Fin 16) (f : Bell → Bell) : (s.modBell n f).sign = s.sign := rfl
@[simp] theorem State.modBell_jumps (s : State) (n : Fin 16) (f : Bell → Bell) : (s.modBell n f).jumps = s.jumps := rfl
@[simp] theorem State.modBell_trigIn (s : State) (n : Fin 16) (f : Bell → Bell) : (s.modBell n f).trigIn = s.trigIn := rfl
@[simp] theorem State.modBell_crier (s : State) (n : Fin 16) (f : Bell → Bell) : (s.modBell n f).crier = s.crier := rfl
@[simp] theorem State.modBell_barter (s : State) (n : Fin 16) (f : Bell → Bell) : (s.modBell n f).barter = s.barter := rfl
@[simp] theorem State.modBell_wharf (s : State) (n : Fin 16) (f : Bell → Bell) : (s.modBell n f).wharf = s.wharf := rfl
@[simp] theorem State.modBell_image (s : State) (n : Fin 16) (f : Bell → Bell) : (s.modBell n f).image = s.image := rfl
@[simp] theorem State.modBell_power (s : State) (n : Fin 16) (f : Bell → Bell) : (s.modBell n f).power = s.power := rfl
@[simp] theorem State.modBell_tap (s : State) (n : Fin 16) (f : Bell → Bell) : (s.modBell n f).tap = s.tap := rfl
@[simp] theorem State.modBell_status (s : State) (n : Fin 16) (f : Bell → Bell) : (s.modBell n f).status = s.status := rfl
@[simp] theorem State.modBell_sticky (s : State) (n : Fin 16) (f : Bell → Bell) : (s.modBell n f).sticky = s.sticky := rfl
@[simp] theorem State.modBell_tolls (s : State) (n : Fin 16) (f : Bell → Bell) : (s.modBell n f).tolls = s.tolls := rfl
@[simp] theorem State.modBell_tollDue (s : State) (n : Fin 16) (f : Bell → Bell) : (s.modBell n f).tollDue = s.tollDue := rfl
@[simp] theorem State.modBell_log (s : State) (n : Fin 16) (f : Bell → Bell) : (s.modBell n f).log = s.log := rfl
@[simp] theorem State.modBell_ev (s : State) (n : Fin 16) (f : Bell → Bell) : (s.modBell n f).ev = s.ev := rfl
@[simp] theorem State.modBell_free (s : State) (n : Fin 16) (f : Bell → Bell) : (s.modBell n f).free = s.free := rfl
@[simp] theorem State.modBell_pending (s : State) (n : Fin 16) (f : Bell → Bell) : (s.modBell n f).pending = s.pending := rfl

@[simp] theorem State.modCrier_chron (s : State) (f : Crier → Crier) : (s.modCrier f).chron = s.chron := rfl
@[simp] theorem State.modCrier_written (s : State) (f : Crier → Crier) : (s.modCrier f).written = s.written := rfl
@[simp] theorem State.modCrier_force (s : State) (f : Crier → Crier) : (s.modCrier f).force = s.force := rfl
@[simp] theorem State.modCrier_nextTick (s : State) (f : Crier → Crier) : (s.modCrier f).nextTick = s.nextTick := rfl
@[simp] theorem State.modCrier_code (s : State) (f : Crier → Crier) : (s.modCrier f).code = s.code := rfl
@[simp] theorem State.modCrier_run (s : State) (f : Crier → Crier) : (s.modCrier f).run = s.run := rfl
@[simp] theorem State.modCrier_tally (s : State) (f : Crier → Crier) : (s.modCrier f).tally = s.tally := rfl
@[simp] theorem State.modCrier_slots (s : State) (f : Crier → Crier) : (s.modCrier f).slots = s.slots := rfl
@[simp] theorem State.modCrier_acts (s : State) (f : Crier → Crier) : (s.modCrier f).acts = s.acts := rfl
@[simp] theorem State.modCrier_trigOut (s : State) (f : Crier → Crier) : (s.modCrier f).trigOut = s.trigOut := rfl
@[simp] theorem State.modCrier_mints (s : State) (f : Crier → Crier) : (s.modCrier f).mints = s.mints := rfl
@[simp] theorem State.modCrier_refs (s : State) (f : Crier → Crier) : (s.modCrier f).refs = s.refs := rfl
@[simp] theorem State.modCrier_conv (s : State) (f : Crier → Crier) : (s.modCrier f).conv = s.conv := rfl
@[simp] theorem State.modCrier_cal (s : State) (f : Crier → Crier) : (s.modCrier f).cal = s.cal := rfl
@[simp] theorem State.modCrier_aux (s : State) (f : Crier → Crier) : (s.modCrier f).aux = s.aux := rfl
@[simp] theorem State.modCrier_pool (s : State) (f : Crier → Crier) : (s.modCrier f).pool = s.pool := rfl
@[simp] theorem State.modCrier_stalls (s : State) (f : Crier → Crier) : (s.modCrier f).stalls = s.stalls := rfl
@[simp] theorem State.modCrier_sieve (s : State) (f : Crier → Crier) : (s.modCrier f).sieve = s.sieve := rfl
@[simp] theorem State.modCrier_yards (s : State) (f : Crier → Crier) : (s.modCrier f).yards = s.yards := rfl
@[simp] theorem State.modCrier_hall (s : State) (f : Crier → Crier) : (s.modCrier f).hall = s.hall := rfl
@[simp] theorem State.modCrier_dram (s : State) (f : Crier → Crier) : (s.modCrier f).dram = s.dram := rfl
@[simp] theorem State.modCrier_sign (s : State) (f : Crier → Crier) : (s.modCrier f).sign = s.sign := rfl
@[simp] theorem State.modCrier_jumps (s : State) (f : Crier → Crier) : (s.modCrier f).jumps = s.jumps := rfl
@[simp] theorem State.modCrier_trigIn (s : State) (f : Crier → Crier) : (s.modCrier f).trigIn = s.trigIn := rfl
@[simp] theorem State.modCrier_crier (s : State) (f : Crier → Crier) : (s.modCrier f).crier = f s.crier := rfl
@[simp] theorem State.modCrier_barter (s : State) (f : Crier → Crier) : (s.modCrier f).barter = s.barter := rfl
@[simp] theorem State.modCrier_wharf (s : State) (f : Crier → Crier) : (s.modCrier f).wharf = s.wharf := rfl
@[simp] theorem State.modCrier_image (s : State) (f : Crier → Crier) : (s.modCrier f).image = s.image := rfl
@[simp] theorem State.modCrier_power (s : State) (f : Crier → Crier) : (s.modCrier f).power = s.power := rfl
@[simp] theorem State.modCrier_tap (s : State) (f : Crier → Crier) : (s.modCrier f).tap = s.tap := rfl
@[simp] theorem State.modCrier_status (s : State) (f : Crier → Crier) : (s.modCrier f).status = s.status := rfl
@[simp] theorem State.modCrier_sticky (s : State) (f : Crier → Crier) : (s.modCrier f).sticky = s.sticky := rfl
@[simp] theorem State.modCrier_tolls (s : State) (f : Crier → Crier) : (s.modCrier f).tolls = s.tolls := rfl
@[simp] theorem State.modCrier_tollDue (s : State) (f : Crier → Crier) : (s.modCrier f).tollDue = s.tollDue := rfl
@[simp] theorem State.modCrier_log (s : State) (f : Crier → Crier) : (s.modCrier f).log = s.log := rfl
@[simp] theorem State.modCrier_ev (s : State) (f : Crier → Crier) : (s.modCrier f).ev = s.ev := rfl
@[simp] theorem State.modCrier_free (s : State) (f : Crier → Crier) : (s.modCrier f).free = s.free := rfl
@[simp] theorem State.modCrier_pending (s : State) (f : Crier → Crier) : (s.modCrier f).pending = s.pending := rfl

@[simp] theorem State.modPortC_chron (s : State) (p : Fin 4) (f : CrierPort → CrierPort) :
    (s.modPortC p f).chron = s.chron := rfl
@[simp] theorem State.modPortC_written (s : State) (p : Fin 4) (f : CrierPort → CrierPort) :
    (s.modPortC p f).written = s.written := rfl
@[simp] theorem State.modPortC_force (s : State) (p : Fin 4) (f : CrierPort → CrierPort) :
    (s.modPortC p f).force = s.force := rfl
@[simp] theorem State.modPortC_nextTick (s : State) (p : Fin 4) (f : CrierPort → CrierPort) :
    (s.modPortC p f).nextTick = s.nextTick := rfl
@[simp] theorem State.modPortC_code (s : State) (p : Fin 4) (f : CrierPort → CrierPort) : (s.modPortC p f).code = s.code := rfl
@[simp] theorem State.modPortC_run (s : State) (p : Fin 4) (f : CrierPort → CrierPort) : (s.modPortC p f).run = s.run := rfl
@[simp] theorem State.modPortC_tally (s : State) (p : Fin 4) (f : CrierPort → CrierPort) :
    (s.modPortC p f).tally = s.tally := rfl
@[simp] theorem State.modPortC_slots (s : State) (p : Fin 4) (f : CrierPort → CrierPort) :
    (s.modPortC p f).slots = s.slots := rfl
@[simp] theorem State.modPortC_acts (s : State) (p : Fin 4) (f : CrierPort → CrierPort) : (s.modPortC p f).acts = s.acts := rfl
@[simp] theorem State.modPortC_trigOut (s : State) (p : Fin 4) (f : CrierPort → CrierPort) :
    (s.modPortC p f).trigOut = s.trigOut := rfl
@[simp] theorem State.modPortC_mints (s : State) (p : Fin 4) (f : CrierPort → CrierPort) :
    (s.modPortC p f).mints = s.mints := rfl
@[simp] theorem State.modPortC_refs (s : State) (p : Fin 4) (f : CrierPort → CrierPort) : (s.modPortC p f).refs = s.refs := rfl
@[simp] theorem State.modPortC_conv (s : State) (p : Fin 4) (f : CrierPort → CrierPort) : (s.modPortC p f).conv = s.conv := rfl
@[simp] theorem State.modPortC_cal (s : State) (p : Fin 4) (f : CrierPort → CrierPort) : (s.modPortC p f).cal = s.cal := rfl
@[simp] theorem State.modPortC_aux (s : State) (p : Fin 4) (f : CrierPort → CrierPort) : (s.modPortC p f).aux = s.aux := rfl
@[simp] theorem State.modPortC_pool (s : State) (p : Fin 4) (f : CrierPort → CrierPort) : (s.modPortC p f).pool = s.pool := rfl
@[simp] theorem State.modPortC_stalls (s : State) (p : Fin 4) (f : CrierPort → CrierPort) :
    (s.modPortC p f).stalls = s.stalls := rfl
@[simp] theorem State.modPortC_sieve (s : State) (p : Fin 4) (f : CrierPort → CrierPort) :
    (s.modPortC p f).sieve = s.sieve := rfl
@[simp] theorem State.modPortC_yards (s : State) (p : Fin 4) (f : CrierPort → CrierPort) :
    (s.modPortC p f).yards = s.yards := rfl
@[simp] theorem State.modPortC_hall (s : State) (p : Fin 4) (f : CrierPort → CrierPort) : (s.modPortC p f).hall = s.hall := rfl
@[simp] theorem State.modPortC_dram (s : State) (p : Fin 4) (f : CrierPort → CrierPort) : (s.modPortC p f).dram = s.dram := rfl
@[simp] theorem State.modPortC_sign (s : State) (p : Fin 4) (f : CrierPort → CrierPort) : (s.modPortC p f).sign = s.sign := rfl
@[simp] theorem State.modPortC_jumps (s : State) (p : Fin 4) (f : CrierPort → CrierPort) :
    (s.modPortC p f).jumps = s.jumps := rfl
@[simp] theorem State.modPortC_trigIn (s : State) (p : Fin 4) (f : CrierPort → CrierPort) :
    (s.modPortC p f).trigIn = s.trigIn := rfl
@[simp] theorem State.modPortC_crier (s : State) (p : Fin 4) (f : CrierPort → CrierPort) :
    (s.modPortC p f).crier = { s.crier with ports := updAt s.crier.ports p f } := rfl
@[simp] theorem State.modPortC_barter (s : State) (p : Fin 4) (f : CrierPort → CrierPort) :
    (s.modPortC p f).barter = s.barter := rfl
@[simp] theorem State.modPortC_wharf (s : State) (p : Fin 4) (f : CrierPort → CrierPort) :
    (s.modPortC p f).wharf = s.wharf := rfl
@[simp] theorem State.modPortC_image (s : State) (p : Fin 4) (f : CrierPort → CrierPort) :
    (s.modPortC p f).image = s.image := rfl
@[simp] theorem State.modPortC_power (s : State) (p : Fin 4) (f : CrierPort → CrierPort) :
    (s.modPortC p f).power = s.power := rfl
@[simp] theorem State.modPortC_tap (s : State) (p : Fin 4) (f : CrierPort → CrierPort) : (s.modPortC p f).tap = s.tap := rfl
@[simp] theorem State.modPortC_status (s : State) (p : Fin 4) (f : CrierPort → CrierPort) :
    (s.modPortC p f).status = s.status := rfl
@[simp] theorem State.modPortC_sticky (s : State) (p : Fin 4) (f : CrierPort → CrierPort) :
    (s.modPortC p f).sticky = s.sticky := rfl
@[simp] theorem State.modPortC_tolls (s : State) (p : Fin 4) (f : CrierPort → CrierPort) :
    (s.modPortC p f).tolls = s.tolls := rfl
@[simp] theorem State.modPortC_tollDue (s : State) (p : Fin 4) (f : CrierPort → CrierPort) :
    (s.modPortC p f).tollDue = s.tollDue := rfl
@[simp] theorem State.modPortC_log (s : State) (p : Fin 4) (f : CrierPort → CrierPort) : (s.modPortC p f).log = s.log := rfl
@[simp] theorem State.modPortC_ev (s : State) (p : Fin 4) (f : CrierPort → CrierPort) : (s.modPortC p f).ev = s.ev := rfl
@[simp] theorem State.modPortC_free (s : State) (p : Fin 4) (f : CrierPort → CrierPort) : (s.modPortC p f).free = s.free := rfl
@[simp] theorem State.modPortC_pending (s : State) (p : Fin 4) (f : CrierPort → CrierPort) :
    (s.modPortC p f).pending = s.pending := rfl

@[simp] theorem State.modChan_chron (s : State) (n : Fin 16) (f : SieveChan → SieveChan) :
    (s.modChan n f).chron = s.chron := rfl
@[simp] theorem State.modChan_written (s : State) (n : Fin 16) (f : SieveChan → SieveChan) :
    (s.modChan n f).written = s.written := rfl
@[simp] theorem State.modChan_force (s : State) (n : Fin 16) (f : SieveChan → SieveChan) :
    (s.modChan n f).force = s.force := rfl
@[simp] theorem State.modChan_nextTick (s : State) (n : Fin 16) (f : SieveChan → SieveChan) :
    (s.modChan n f).nextTick = s.nextTick := rfl
@[simp] theorem State.modChan_code (s : State) (n : Fin 16) (f : SieveChan → SieveChan) : (s.modChan n f).code = s.code := rfl
@[simp] theorem State.modChan_run (s : State) (n : Fin 16) (f : SieveChan → SieveChan) : (s.modChan n f).run = s.run := rfl
@[simp] theorem State.modChan_tally (s : State) (n : Fin 16) (f : SieveChan → SieveChan) :
    (s.modChan n f).tally = s.tally := rfl
@[simp] theorem State.modChan_slots (s : State) (n : Fin 16) (f : SieveChan → SieveChan) :
    (s.modChan n f).slots = s.slots := rfl
@[simp] theorem State.modChan_acts (s : State) (n : Fin 16) (f : SieveChan → SieveChan) : (s.modChan n f).acts = s.acts := rfl
@[simp] theorem State.modChan_trigOut (s : State) (n : Fin 16) (f : SieveChan → SieveChan) :
    (s.modChan n f).trigOut = s.trigOut := rfl
@[simp] theorem State.modChan_mints (s : State) (n : Fin 16) (f : SieveChan → SieveChan) :
    (s.modChan n f).mints = s.mints := rfl
@[simp] theorem State.modChan_refs (s : State) (n : Fin 16) (f : SieveChan → SieveChan) : (s.modChan n f).refs = s.refs := rfl
@[simp] theorem State.modChan_conv (s : State) (n : Fin 16) (f : SieveChan → SieveChan) : (s.modChan n f).conv = s.conv := rfl
@[simp] theorem State.modChan_cal (s : State) (n : Fin 16) (f : SieveChan → SieveChan) : (s.modChan n f).cal = s.cal := rfl
@[simp] theorem State.modChan_aux (s : State) (n : Fin 16) (f : SieveChan → SieveChan) : (s.modChan n f).aux = s.aux := rfl
@[simp] theorem State.modChan_pool (s : State) (n : Fin 16) (f : SieveChan → SieveChan) : (s.modChan n f).pool = s.pool := rfl
@[simp] theorem State.modChan_stalls (s : State) (n : Fin 16) (f : SieveChan → SieveChan) :
    (s.modChan n f).stalls = s.stalls := rfl
@[simp] theorem State.modChan_sieve (s : State) (n : Fin 16) (f : SieveChan → SieveChan) :
    (s.modChan n f).sieve = { s.sieve with chans := updAt s.sieve.chans n f } := rfl
@[simp] theorem State.modChan_yards (s : State) (n : Fin 16) (f : SieveChan → SieveChan) :
    (s.modChan n f).yards = s.yards := rfl
@[simp] theorem State.modChan_hall (s : State) (n : Fin 16) (f : SieveChan → SieveChan) : (s.modChan n f).hall = s.hall := rfl
@[simp] theorem State.modChan_dram (s : State) (n : Fin 16) (f : SieveChan → SieveChan) : (s.modChan n f).dram = s.dram := rfl
@[simp] theorem State.modChan_sign (s : State) (n : Fin 16) (f : SieveChan → SieveChan) : (s.modChan n f).sign = s.sign := rfl
@[simp] theorem State.modChan_jumps (s : State) (n : Fin 16) (f : SieveChan → SieveChan) :
    (s.modChan n f).jumps = s.jumps := rfl
@[simp] theorem State.modChan_trigIn (s : State) (n : Fin 16) (f : SieveChan → SieveChan) :
    (s.modChan n f).trigIn = s.trigIn := rfl
@[simp] theorem State.modChan_crier (s : State) (n : Fin 16) (f : SieveChan → SieveChan) :
    (s.modChan n f).crier = s.crier := rfl
@[simp] theorem State.modChan_barter (s : State) (n : Fin 16) (f : SieveChan → SieveChan) :
    (s.modChan n f).barter = s.barter := rfl
@[simp] theorem State.modChan_wharf (s : State) (n : Fin 16) (f : SieveChan → SieveChan) :
    (s.modChan n f).wharf = s.wharf := rfl
@[simp] theorem State.modChan_image (s : State) (n : Fin 16) (f : SieveChan → SieveChan) :
    (s.modChan n f).image = s.image := rfl
@[simp] theorem State.modChan_power (s : State) (n : Fin 16) (f : SieveChan → SieveChan) :
    (s.modChan n f).power = s.power := rfl
@[simp] theorem State.modChan_tap (s : State) (n : Fin 16) (f : SieveChan → SieveChan) : (s.modChan n f).tap = s.tap := rfl
@[simp] theorem State.modChan_status (s : State) (n : Fin 16) (f : SieveChan → SieveChan) :
    (s.modChan n f).status = s.status := rfl
@[simp] theorem State.modChan_sticky (s : State) (n : Fin 16) (f : SieveChan → SieveChan) :
    (s.modChan n f).sticky = s.sticky := rfl
@[simp] theorem State.modChan_tolls (s : State) (n : Fin 16) (f : SieveChan → SieveChan) :
    (s.modChan n f).tolls = s.tolls := rfl
@[simp] theorem State.modChan_tollDue (s : State) (n : Fin 16) (f : SieveChan → SieveChan) :
    (s.modChan n f).tollDue = s.tollDue := rfl
@[simp] theorem State.modChan_log (s : State) (n : Fin 16) (f : SieveChan → SieveChan) : (s.modChan n f).log = s.log := rfl
@[simp] theorem State.modChan_ev (s : State) (n : Fin 16) (f : SieveChan → SieveChan) : (s.modChan n f).ev = s.ev := rfl
@[simp] theorem State.modChan_free (s : State) (n : Fin 16) (f : SieveChan → SieveChan) : (s.modChan n f).free = s.free := rfl
@[simp] theorem State.modChan_pending (s : State) (n : Fin 16) (f : SieveChan → SieveChan) :
    (s.modChan n f).pending = s.pending := rfl

@[simp] theorem State.modYard_chron (s : State) (k : Fin 8) (f : Yard → Yard) : (s.modYard k f).chron = s.chron := rfl
@[simp] theorem State.modYard_written (s : State) (k : Fin 8) (f : Yard → Yard) : (s.modYard k f).written = s.written := rfl
@[simp] theorem State.modYard_force (s : State) (k : Fin 8) (f : Yard → Yard) : (s.modYard k f).force = s.force := rfl
@[simp] theorem State.modYard_nextTick (s : State) (k : Fin 8) (f : Yard → Yard) : (s.modYard k f).nextTick = s.nextTick := rfl
@[simp] theorem State.modYard_code (s : State) (k : Fin 8) (f : Yard → Yard) : (s.modYard k f).code = s.code := rfl
@[simp] theorem State.modYard_run (s : State) (k : Fin 8) (f : Yard → Yard) : (s.modYard k f).run = s.run := rfl
@[simp] theorem State.modYard_tally (s : State) (k : Fin 8) (f : Yard → Yard) : (s.modYard k f).tally = s.tally := rfl
@[simp] theorem State.modYard_slots (s : State) (k : Fin 8) (f : Yard → Yard) : (s.modYard k f).slots = s.slots := rfl
@[simp] theorem State.modYard_acts (s : State) (k : Fin 8) (f : Yard → Yard) : (s.modYard k f).acts = s.acts := rfl
@[simp] theorem State.modYard_trigOut (s : State) (k : Fin 8) (f : Yard → Yard) : (s.modYard k f).trigOut = s.trigOut := rfl
@[simp] theorem State.modYard_mints (s : State) (k : Fin 8) (f : Yard → Yard) : (s.modYard k f).mints = s.mints := rfl
@[simp] theorem State.modYard_refs (s : State) (k : Fin 8) (f : Yard → Yard) : (s.modYard k f).refs = s.refs := rfl
@[simp] theorem State.modYard_conv (s : State) (k : Fin 8) (f : Yard → Yard) : (s.modYard k f).conv = s.conv := rfl
@[simp] theorem State.modYard_cal (s : State) (k : Fin 8) (f : Yard → Yard) : (s.modYard k f).cal = s.cal := rfl
@[simp] theorem State.modYard_aux (s : State) (k : Fin 8) (f : Yard → Yard) : (s.modYard k f).aux = s.aux := rfl
@[simp] theorem State.modYard_pool (s : State) (k : Fin 8) (f : Yard → Yard) : (s.modYard k f).pool = s.pool := rfl
@[simp] theorem State.modYard_stalls (s : State) (k : Fin 8) (f : Yard → Yard) : (s.modYard k f).stalls = s.stalls := rfl
@[simp] theorem State.modYard_sieve (s : State) (k : Fin 8) (f : Yard → Yard) : (s.modYard k f).sieve = s.sieve := rfl
@[simp] theorem State.modYard_yards (s : State) (k : Fin 8) (f : Yard → Yard) : (s.modYard k f).yards = updAt s.yards k f := rfl
@[simp] theorem State.modYard_hall (s : State) (k : Fin 8) (f : Yard → Yard) : (s.modYard k f).hall = s.hall := rfl
@[simp] theorem State.modYard_dram (s : State) (k : Fin 8) (f : Yard → Yard) : (s.modYard k f).dram = s.dram := rfl
@[simp] theorem State.modYard_sign (s : State) (k : Fin 8) (f : Yard → Yard) : (s.modYard k f).sign = s.sign := rfl
@[simp] theorem State.modYard_jumps (s : State) (k : Fin 8) (f : Yard → Yard) : (s.modYard k f).jumps = s.jumps := rfl
@[simp] theorem State.modYard_trigIn (s : State) (k : Fin 8) (f : Yard → Yard) : (s.modYard k f).trigIn = s.trigIn := rfl
@[simp] theorem State.modYard_crier (s : State) (k : Fin 8) (f : Yard → Yard) : (s.modYard k f).crier = s.crier := rfl
@[simp] theorem State.modYard_barter (s : State) (k : Fin 8) (f : Yard → Yard) : (s.modYard k f).barter = s.barter := rfl
@[simp] theorem State.modYard_wharf (s : State) (k : Fin 8) (f : Yard → Yard) : (s.modYard k f).wharf = s.wharf := rfl
@[simp] theorem State.modYard_image (s : State) (k : Fin 8) (f : Yard → Yard) : (s.modYard k f).image = s.image := rfl
@[simp] theorem State.modYard_power (s : State) (k : Fin 8) (f : Yard → Yard) : (s.modYard k f).power = s.power := rfl
@[simp] theorem State.modYard_tap (s : State) (k : Fin 8) (f : Yard → Yard) : (s.modYard k f).tap = s.tap := rfl
@[simp] theorem State.modYard_status (s : State) (k : Fin 8) (f : Yard → Yard) : (s.modYard k f).status = s.status := rfl
@[simp] theorem State.modYard_sticky (s : State) (k : Fin 8) (f : Yard → Yard) : (s.modYard k f).sticky = s.sticky := rfl
@[simp] theorem State.modYard_tolls (s : State) (k : Fin 8) (f : Yard → Yard) : (s.modYard k f).tolls = s.tolls := rfl
@[simp] theorem State.modYard_tollDue (s : State) (k : Fin 8) (f : Yard → Yard) : (s.modYard k f).tollDue = s.tollDue := rfl
@[simp] theorem State.modYard_log (s : State) (k : Fin 8) (f : Yard → Yard) : (s.modYard k f).log = s.log := rfl
@[simp] theorem State.modYard_ev (s : State) (k : Fin 8) (f : Yard → Yard) : (s.modYard k f).ev = s.ev := rfl
@[simp] theorem State.modYard_free (s : State) (k : Fin 8) (f : Yard → Yard) : (s.modYard k f).free = s.free := rfl
@[simp] theorem State.modYard_pending (s : State) (k : Fin 8) (f : Yard → Yard) : (s.modYard k f).pending = s.pending := rfl

@[simp] theorem State.modWeigher_chron (s : State) (w : Fin 68) (f : Weigher → Weigher) :
    (s.modWeigher w f).chron = s.chron := rfl
@[simp] theorem State.modWeigher_written (s : State) (w : Fin 68) (f : Weigher → Weigher) :
    (s.modWeigher w f).written = s.written := rfl
@[simp] theorem State.modWeigher_force (s : State) (w : Fin 68) (f : Weigher → Weigher) :
    (s.modWeigher w f).force = s.force := rfl
@[simp] theorem State.modWeigher_nextTick (s : State) (w : Fin 68) (f : Weigher → Weigher) :
    (s.modWeigher w f).nextTick = s.nextTick := rfl
@[simp] theorem State.modWeigher_code (s : State) (w : Fin 68) (f : Weigher → Weigher) : (s.modWeigher w f).code = s.code := rfl
@[simp] theorem State.modWeigher_run (s : State) (w : Fin 68) (f : Weigher → Weigher) : (s.modWeigher w f).run = s.run := rfl
@[simp] theorem State.modWeigher_tally (s : State) (w : Fin 68) (f : Weigher → Weigher) :
    (s.modWeigher w f).tally = s.tally := rfl
@[simp] theorem State.modWeigher_slots (s : State) (w : Fin 68) (f : Weigher → Weigher) :
    (s.modWeigher w f).slots = s.slots := rfl
@[simp] theorem State.modWeigher_acts (s : State) (w : Fin 68) (f : Weigher → Weigher) : (s.modWeigher w f).acts = s.acts := rfl
@[simp] theorem State.modWeigher_trigOut (s : State) (w : Fin 68) (f : Weigher → Weigher) :
    (s.modWeigher w f).trigOut = s.trigOut := rfl
@[simp] theorem State.modWeigher_mints (s : State) (w : Fin 68) (f : Weigher → Weigher) :
    (s.modWeigher w f).mints = s.mints := rfl
@[simp] theorem State.modWeigher_refs (s : State) (w : Fin 68) (f : Weigher → Weigher) : (s.modWeigher w f).refs = s.refs := rfl
@[simp] theorem State.modWeigher_conv (s : State) (w : Fin 68) (f : Weigher → Weigher) : (s.modWeigher w f).conv = s.conv := rfl
@[simp] theorem State.modWeigher_cal (s : State) (w : Fin 68) (f : Weigher → Weigher) : (s.modWeigher w f).cal = s.cal := rfl
@[simp] theorem State.modWeigher_aux (s : State) (w : Fin 68) (f : Weigher → Weigher) : (s.modWeigher w f).aux = s.aux := rfl
@[simp] theorem State.modWeigher_pool (s : State) (w : Fin 68) (f : Weigher → Weigher) :
    (s.modWeigher w f).pool = { s.pool with weighers := updAt s.pool.weighers w f } := rfl
@[simp] theorem State.modWeigher_stalls (s : State) (w : Fin 68) (f : Weigher → Weigher) :
    (s.modWeigher w f).stalls = s.stalls := rfl
@[simp] theorem State.modWeigher_sieve (s : State) (w : Fin 68) (f : Weigher → Weigher) :
    (s.modWeigher w f).sieve = s.sieve := rfl
@[simp] theorem State.modWeigher_yards (s : State) (w : Fin 68) (f : Weigher → Weigher) :
    (s.modWeigher w f).yards = s.yards := rfl
@[simp] theorem State.modWeigher_hall (s : State) (w : Fin 68) (f : Weigher → Weigher) : (s.modWeigher w f).hall = s.hall := rfl
@[simp] theorem State.modWeigher_dram (s : State) (w : Fin 68) (f : Weigher → Weigher) : (s.modWeigher w f).dram = s.dram := rfl
@[simp] theorem State.modWeigher_sign (s : State) (w : Fin 68) (f : Weigher → Weigher) : (s.modWeigher w f).sign = s.sign := rfl
@[simp] theorem State.modWeigher_jumps (s : State) (w : Fin 68) (f : Weigher → Weigher) :
    (s.modWeigher w f).jumps = s.jumps := rfl
@[simp] theorem State.modWeigher_trigIn (s : State) (w : Fin 68) (f : Weigher → Weigher) :
    (s.modWeigher w f).trigIn = s.trigIn := rfl
@[simp] theorem State.modWeigher_crier (s : State) (w : Fin 68) (f : Weigher → Weigher) :
    (s.modWeigher w f).crier = s.crier := rfl
@[simp] theorem State.modWeigher_barter (s : State) (w : Fin 68) (f : Weigher → Weigher) :
    (s.modWeigher w f).barter = s.barter := rfl
@[simp] theorem State.modWeigher_wharf (s : State) (w : Fin 68) (f : Weigher → Weigher) :
    (s.modWeigher w f).wharf = s.wharf := rfl
@[simp] theorem State.modWeigher_image (s : State) (w : Fin 68) (f : Weigher → Weigher) :
    (s.modWeigher w f).image = s.image := rfl
@[simp] theorem State.modWeigher_power (s : State) (w : Fin 68) (f : Weigher → Weigher) :
    (s.modWeigher w f).power = s.power := rfl
@[simp] theorem State.modWeigher_tap (s : State) (w : Fin 68) (f : Weigher → Weigher) : (s.modWeigher w f).tap = s.tap := rfl
@[simp] theorem State.modWeigher_status (s : State) (w : Fin 68) (f : Weigher → Weigher) :
    (s.modWeigher w f).status = s.status := rfl
@[simp] theorem State.modWeigher_sticky (s : State) (w : Fin 68) (f : Weigher → Weigher) :
    (s.modWeigher w f).sticky = s.sticky := rfl
@[simp] theorem State.modWeigher_tolls (s : State) (w : Fin 68) (f : Weigher → Weigher) :
    (s.modWeigher w f).tolls = s.tolls := rfl
@[simp] theorem State.modWeigher_tollDue (s : State) (w : Fin 68) (f : Weigher → Weigher) :
    (s.modWeigher w f).tollDue = s.tollDue := rfl
@[simp] theorem State.modWeigher_log (s : State) (w : Fin 68) (f : Weigher → Weigher) : (s.modWeigher w f).log = s.log := rfl
@[simp] theorem State.modWeigher_ev (s : State) (w : Fin 68) (f : Weigher → Weigher) : (s.modWeigher w f).ev = s.ev := rfl
@[simp] theorem State.modWeigher_free (s : State) (w : Fin 68) (f : Weigher → Weigher) : (s.modWeigher w f).free = s.free := rfl
@[simp] theorem State.modWeigher_pending (s : State) (w : Fin 68) (f : Weigher → Weigher) :
    (s.modWeigher w f).pending = s.pending := rfl

@[simp] theorem State.hallWrite_chron (s : State) (a : Nat) (bs : List Byte) : (s.hallWrite a bs).chron = s.chron := rfl
@[simp] theorem State.hallWrite_written (s : State) (a : Nat) (bs : List Byte) : (s.hallWrite a bs).written = s.written := rfl
@[simp] theorem State.hallWrite_force (s : State) (a : Nat) (bs : List Byte) : (s.hallWrite a bs).force = s.force := rfl
@[simp] theorem State.hallWrite_nextTick (s : State) (a : Nat) (bs : List Byte) :
    (s.hallWrite a bs).nextTick = s.nextTick := rfl
@[simp] theorem State.hallWrite_code (s : State) (a : Nat) (bs : List Byte) : (s.hallWrite a bs).code = s.code := rfl
@[simp] theorem State.hallWrite_run (s : State) (a : Nat) (bs : List Byte) : (s.hallWrite a bs).run = s.run := rfl
@[simp] theorem State.hallWrite_tally (s : State) (a : Nat) (bs : List Byte) : (s.hallWrite a bs).tally = s.tally := rfl
@[simp] theorem State.hallWrite_slots (s : State) (a : Nat) (bs : List Byte) : (s.hallWrite a bs).slots = s.slots := rfl
@[simp] theorem State.hallWrite_acts (s : State) (a : Nat) (bs : List Byte) : (s.hallWrite a bs).acts = s.acts := rfl
@[simp] theorem State.hallWrite_trigOut (s : State) (a : Nat) (bs : List Byte) : (s.hallWrite a bs).trigOut = s.trigOut := rfl
@[simp] theorem State.hallWrite_mints (s : State) (a : Nat) (bs : List Byte) : (s.hallWrite a bs).mints = s.mints := rfl
@[simp] theorem State.hallWrite_refs (s : State) (a : Nat) (bs : List Byte) : (s.hallWrite a bs).refs = s.refs := rfl
@[simp] theorem State.hallWrite_conv (s : State) (a : Nat) (bs : List Byte) : (s.hallWrite a bs).conv = s.conv := rfl
@[simp] theorem State.hallWrite_cal (s : State) (a : Nat) (bs : List Byte) : (s.hallWrite a bs).cal = s.cal := rfl
@[simp] theorem State.hallWrite_aux (s : State) (a : Nat) (bs : List Byte) : (s.hallWrite a bs).aux = s.aux := rfl
@[simp] theorem State.hallWrite_pool (s : State) (a : Nat) (bs : List Byte) : (s.hallWrite a bs).pool = s.pool := rfl
@[simp] theorem State.hallWrite_stalls (s : State) (a : Nat) (bs : List Byte) : (s.hallWrite a bs).stalls = s.stalls := rfl
@[simp] theorem State.hallWrite_sieve (s : State) (a : Nat) (bs : List Byte) : (s.hallWrite a bs).sieve = s.sieve := rfl
@[simp] theorem State.hallWrite_yards (s : State) (a : Nat) (bs : List Byte) : (s.hallWrite a bs).yards = s.yards := rfl
@[simp] theorem State.hallWrite_dram (s : State) (a : Nat) (bs : List Byte) : (s.hallWrite a bs).dram = s.dram := rfl
@[simp] theorem State.hallWrite_sign (s : State) (a : Nat) (bs : List Byte) : (s.hallWrite a bs).sign = s.sign := rfl
@[simp] theorem State.hallWrite_jumps (s : State) (a : Nat) (bs : List Byte) : (s.hallWrite a bs).jumps = s.jumps := rfl
@[simp] theorem State.hallWrite_trigIn (s : State) (a : Nat) (bs : List Byte) : (s.hallWrite a bs).trigIn = s.trigIn := rfl
@[simp] theorem State.hallWrite_crier (s : State) (a : Nat) (bs : List Byte) : (s.hallWrite a bs).crier = s.crier := rfl
@[simp] theorem State.hallWrite_barter (s : State) (a : Nat) (bs : List Byte) : (s.hallWrite a bs).barter = s.barter := rfl
@[simp] theorem State.hallWrite_wharf (s : State) (a : Nat) (bs : List Byte) : (s.hallWrite a bs).wharf = s.wharf := rfl
@[simp] theorem State.hallWrite_image (s : State) (a : Nat) (bs : List Byte) : (s.hallWrite a bs).image = s.image := rfl
@[simp] theorem State.hallWrite_power (s : State) (a : Nat) (bs : List Byte) : (s.hallWrite a bs).power = s.power := rfl
@[simp] theorem State.hallWrite_tap (s : State) (a : Nat) (bs : List Byte) : (s.hallWrite a bs).tap = s.tap := rfl
@[simp] theorem State.hallWrite_status (s : State) (a : Nat) (bs : List Byte) : (s.hallWrite a bs).status = s.status := rfl
@[simp] theorem State.hallWrite_sticky (s : State) (a : Nat) (bs : List Byte) : (s.hallWrite a bs).sticky = s.sticky := rfl
@[simp] theorem State.hallWrite_tolls (s : State) (a : Nat) (bs : List Byte) : (s.hallWrite a bs).tolls = s.tolls := rfl
@[simp] theorem State.hallWrite_tollDue (s : State) (a : Nat) (bs : List Byte) : (s.hallWrite a bs).tollDue = s.tollDue := rfl
@[simp] theorem State.hallWrite_log (s : State) (a : Nat) (bs : List Byte) : (s.hallWrite a bs).log = s.log := rfl
@[simp] theorem State.hallWrite_ev (s : State) (a : Nat) (bs : List Byte) : (s.hallWrite a bs).ev = s.ev := rfl
@[simp] theorem State.hallWrite_free (s : State) (a : Nat) (bs : List Byte) : (s.hallWrite a bs).free = s.free := rfl
@[simp] theorem State.hallWrite_pending (s : State) (a : Nat) (bs : List Byte) : (s.hallWrite a bs).pending = s.pending := rfl

@[simp] theorem State.setArb_chron (s : State) (i : Nat) (a : Arbiter) : (s.setArb i a).chron = s.chron := rfl
@[simp] theorem State.setArb_written (s : State) (i : Nat) (a : Arbiter) : (s.setArb i a).written = s.written := rfl
@[simp] theorem State.setArb_force (s : State) (i : Nat) (a : Arbiter) : (s.setArb i a).force = s.force := rfl
@[simp] theorem State.setArb_nextTick (s : State) (i : Nat) (a : Arbiter) : (s.setArb i a).nextTick = s.nextTick := rfl
@[simp] theorem State.setArb_code (s : State) (i : Nat) (a : Arbiter) : (s.setArb i a).code = s.code := rfl
@[simp] theorem State.setArb_run (s : State) (i : Nat) (a : Arbiter) : (s.setArb i a).run = s.run := rfl
@[simp] theorem State.setArb_tally (s : State) (i : Nat) (a : Arbiter) : (s.setArb i a).tally = s.tally := rfl
@[simp] theorem State.setArb_slots (s : State) (i : Nat) (a : Arbiter) : (s.setArb i a).slots = s.slots := rfl
@[simp] theorem State.setArb_acts (s : State) (i : Nat) (a : Arbiter) : (s.setArb i a).acts = s.acts := rfl
@[simp] theorem State.setArb_trigOut (s : State) (i : Nat) (a : Arbiter) : (s.setArb i a).trigOut = s.trigOut := rfl
@[simp] theorem State.setArb_mints (s : State) (i : Nat) (a : Arbiter) : (s.setArb i a).mints = s.mints := rfl
@[simp] theorem State.setArb_refs (s : State) (i : Nat) (a : Arbiter) : (s.setArb i a).refs = s.refs := rfl
@[simp] theorem State.setArb_conv (s : State) (i : Nat) (a : Arbiter) : (s.setArb i a).conv = s.conv := rfl
@[simp] theorem State.setArb_cal (s : State) (i : Nat) (a : Arbiter) : (s.setArb i a).cal = s.cal := rfl
@[simp] theorem State.setArb_aux (s : State) (i : Nat) (a : Arbiter) : (s.setArb i a).aux = s.aux := rfl
@[simp] theorem State.setArb_pool (s : State) (i : Nat) (a : Arbiter) : (s.setArb i a).pool = s.pool := rfl
@[simp] theorem State.setArb_stalls (s : State) (i : Nat) (a : Arbiter) : (s.setArb i a).stalls = s.stalls := rfl
@[simp] theorem State.setArb_sieve (s : State) (i : Nat) (a : Arbiter) : (s.setArb i a).sieve = s.sieve := rfl
@[simp] theorem State.setArb_yards (s : State) (i : Nat) (a : Arbiter) : (s.setArb i a).yards = s.yards := rfl
@[simp] theorem State.setArb_hall (s : State) (i : Nat) (a : Arbiter) :
    (s.setArb i a).hall = { s.hall with arbs := Sparse.set (fun _ => ({} : Arbiter)) s.hall.arbs i a } := rfl
@[simp] theorem State.setArb_dram (s : State) (i : Nat) (a : Arbiter) : (s.setArb i a).dram = s.dram := rfl
@[simp] theorem State.setArb_sign (s : State) (i : Nat) (a : Arbiter) : (s.setArb i a).sign = s.sign := rfl
@[simp] theorem State.setArb_jumps (s : State) (i : Nat) (a : Arbiter) : (s.setArb i a).jumps = s.jumps := rfl
@[simp] theorem State.setArb_trigIn (s : State) (i : Nat) (a : Arbiter) : (s.setArb i a).trigIn = s.trigIn := rfl
@[simp] theorem State.setArb_crier (s : State) (i : Nat) (a : Arbiter) : (s.setArb i a).crier = s.crier := rfl
@[simp] theorem State.setArb_barter (s : State) (i : Nat) (a : Arbiter) : (s.setArb i a).barter = s.barter := rfl
@[simp] theorem State.setArb_wharf (s : State) (i : Nat) (a : Arbiter) : (s.setArb i a).wharf = s.wharf := rfl
@[simp] theorem State.setArb_image (s : State) (i : Nat) (a : Arbiter) : (s.setArb i a).image = s.image := rfl
@[simp] theorem State.setArb_power (s : State) (i : Nat) (a : Arbiter) : (s.setArb i a).power = s.power := rfl
@[simp] theorem State.setArb_tap (s : State) (i : Nat) (a : Arbiter) : (s.setArb i a).tap = s.tap := rfl
@[simp] theorem State.setArb_status (s : State) (i : Nat) (a : Arbiter) : (s.setArb i a).status = s.status := rfl
@[simp] theorem State.setArb_sticky (s : State) (i : Nat) (a : Arbiter) : (s.setArb i a).sticky = s.sticky := rfl
@[simp] theorem State.setArb_tolls (s : State) (i : Nat) (a : Arbiter) : (s.setArb i a).tolls = s.tolls := rfl
@[simp] theorem State.setArb_tollDue (s : State) (i : Nat) (a : Arbiter) : (s.setArb i a).tollDue = s.tollDue := rfl
@[simp] theorem State.setArb_log (s : State) (i : Nat) (a : Arbiter) : (s.setArb i a).log = s.log := rfl
@[simp] theorem State.setArb_ev (s : State) (i : Nat) (a : Arbiter) : (s.setArb i a).ev = s.ev := rfl
@[simp] theorem State.setArb_free (s : State) (i : Nat) (a : Arbiter) : (s.setArb i a).free = s.free := rfl
@[simp] theorem State.setArb_pending (s : State) (i : Nat) (a : Arbiter) : (s.setArb i a).pending = s.pending := rfl

@[simp] theorem State.dramWrite_chron (s : State) (a : Nat) (bs : List Byte) : (s.dramWrite a bs).chron = s.chron := rfl
@[simp] theorem State.dramWrite_written (s : State) (a : Nat) (bs : List Byte) : (s.dramWrite a bs).written = s.written := rfl
@[simp] theorem State.dramWrite_force (s : State) (a : Nat) (bs : List Byte) : (s.dramWrite a bs).force = s.force := rfl
@[simp] theorem State.dramWrite_nextTick (s : State) (a : Nat) (bs : List Byte) :
    (s.dramWrite a bs).nextTick = s.nextTick := rfl
@[simp] theorem State.dramWrite_code (s : State) (a : Nat) (bs : List Byte) : (s.dramWrite a bs).code = s.code := rfl
@[simp] theorem State.dramWrite_run (s : State) (a : Nat) (bs : List Byte) : (s.dramWrite a bs).run = s.run := rfl
@[simp] theorem State.dramWrite_tally (s : State) (a : Nat) (bs : List Byte) : (s.dramWrite a bs).tally = s.tally := rfl
@[simp] theorem State.dramWrite_slots (s : State) (a : Nat) (bs : List Byte) : (s.dramWrite a bs).slots = s.slots := rfl
@[simp] theorem State.dramWrite_acts (s : State) (a : Nat) (bs : List Byte) : (s.dramWrite a bs).acts = s.acts := rfl
@[simp] theorem State.dramWrite_trigOut (s : State) (a : Nat) (bs : List Byte) : (s.dramWrite a bs).trigOut = s.trigOut := rfl
@[simp] theorem State.dramWrite_mints (s : State) (a : Nat) (bs : List Byte) : (s.dramWrite a bs).mints = s.mints := rfl
@[simp] theorem State.dramWrite_refs (s : State) (a : Nat) (bs : List Byte) : (s.dramWrite a bs).refs = s.refs := rfl
@[simp] theorem State.dramWrite_conv (s : State) (a : Nat) (bs : List Byte) : (s.dramWrite a bs).conv = s.conv := rfl
@[simp] theorem State.dramWrite_cal (s : State) (a : Nat) (bs : List Byte) : (s.dramWrite a bs).cal = s.cal := rfl
@[simp] theorem State.dramWrite_aux (s : State) (a : Nat) (bs : List Byte) : (s.dramWrite a bs).aux = s.aux := rfl
@[simp] theorem State.dramWrite_pool (s : State) (a : Nat) (bs : List Byte) : (s.dramWrite a bs).pool = s.pool := rfl
@[simp] theorem State.dramWrite_stalls (s : State) (a : Nat) (bs : List Byte) : (s.dramWrite a bs).stalls = s.stalls := rfl
@[simp] theorem State.dramWrite_sieve (s : State) (a : Nat) (bs : List Byte) : (s.dramWrite a bs).sieve = s.sieve := rfl
@[simp] theorem State.dramWrite_yards (s : State) (a : Nat) (bs : List Byte) : (s.dramWrite a bs).yards = s.yards := rfl
@[simp] theorem State.dramWrite_hall (s : State) (a : Nat) (bs : List Byte) : (s.dramWrite a bs).hall = s.hall := rfl
@[simp] theorem State.dramWrite_sign (s : State) (a : Nat) (bs : List Byte) : (s.dramWrite a bs).sign = s.sign := rfl
@[simp] theorem State.dramWrite_jumps (s : State) (a : Nat) (bs : List Byte) : (s.dramWrite a bs).jumps = s.jumps := rfl
@[simp] theorem State.dramWrite_trigIn (s : State) (a : Nat) (bs : List Byte) : (s.dramWrite a bs).trigIn = s.trigIn := rfl
@[simp] theorem State.dramWrite_crier (s : State) (a : Nat) (bs : List Byte) : (s.dramWrite a bs).crier = s.crier := rfl
@[simp] theorem State.dramWrite_barter (s : State) (a : Nat) (bs : List Byte) : (s.dramWrite a bs).barter = s.barter := rfl
@[simp] theorem State.dramWrite_wharf (s : State) (a : Nat) (bs : List Byte) : (s.dramWrite a bs).wharf = s.wharf := rfl
@[simp] theorem State.dramWrite_image (s : State) (a : Nat) (bs : List Byte) : (s.dramWrite a bs).image = s.image := rfl
@[simp] theorem State.dramWrite_power (s : State) (a : Nat) (bs : List Byte) : (s.dramWrite a bs).power = s.power := rfl
@[simp] theorem State.dramWrite_tap (s : State) (a : Nat) (bs : List Byte) : (s.dramWrite a bs).tap = s.tap := rfl
@[simp] theorem State.dramWrite_status (s : State) (a : Nat) (bs : List Byte) : (s.dramWrite a bs).status = s.status := rfl
@[simp] theorem State.dramWrite_sticky (s : State) (a : Nat) (bs : List Byte) : (s.dramWrite a bs).sticky = s.sticky := rfl
@[simp] theorem State.dramWrite_tolls (s : State) (a : Nat) (bs : List Byte) : (s.dramWrite a bs).tolls = s.tolls := rfl
@[simp] theorem State.dramWrite_tollDue (s : State) (a : Nat) (bs : List Byte) : (s.dramWrite a bs).tollDue = s.tollDue := rfl
@[simp] theorem State.dramWrite_log (s : State) (a : Nat) (bs : List Byte) : (s.dramWrite a bs).log = s.log := rfl
@[simp] theorem State.dramWrite_ev (s : State) (a : Nat) (bs : List Byte) : (s.dramWrite a bs).ev = s.ev := rfl
@[simp] theorem State.dramWrite_free (s : State) (a : Nat) (bs : List Byte) : (s.dramWrite a bs).free = s.free := rfl
@[simp] theorem State.dramWrite_pending (s : State) (a : Nat) (bs : List Byte) : (s.dramWrite a bs).pending = s.pending := rfl

@[simp] theorem State.modDram_chron (s : State) (f : Dram → Dram) : (s.modDram f).chron = s.chron := rfl
@[simp] theorem State.modDram_written (s : State) (f : Dram → Dram) : (s.modDram f).written = s.written := rfl
@[simp] theorem State.modDram_force (s : State) (f : Dram → Dram) : (s.modDram f).force = s.force := rfl
@[simp] theorem State.modDram_nextTick (s : State) (f : Dram → Dram) : (s.modDram f).nextTick = s.nextTick := rfl
@[simp] theorem State.modDram_code (s : State) (f : Dram → Dram) : (s.modDram f).code = s.code := rfl
@[simp] theorem State.modDram_run (s : State) (f : Dram → Dram) : (s.modDram f).run = s.run := rfl
@[simp] theorem State.modDram_tally (s : State) (f : Dram → Dram) : (s.modDram f).tally = s.tally := rfl
@[simp] theorem State.modDram_slots (s : State) (f : Dram → Dram) : (s.modDram f).slots = s.slots := rfl
@[simp] theorem State.modDram_acts (s : State) (f : Dram → Dram) : (s.modDram f).acts = s.acts := rfl
@[simp] theorem State.modDram_trigOut (s : State) (f : Dram → Dram) : (s.modDram f).trigOut = s.trigOut := rfl
@[simp] theorem State.modDram_mints (s : State) (f : Dram → Dram) : (s.modDram f).mints = s.mints := rfl
@[simp] theorem State.modDram_refs (s : State) (f : Dram → Dram) : (s.modDram f).refs = s.refs := rfl
@[simp] theorem State.modDram_conv (s : State) (f : Dram → Dram) : (s.modDram f).conv = s.conv := rfl
@[simp] theorem State.modDram_cal (s : State) (f : Dram → Dram) : (s.modDram f).cal = s.cal := rfl
@[simp] theorem State.modDram_aux (s : State) (f : Dram → Dram) : (s.modDram f).aux = s.aux := rfl
@[simp] theorem State.modDram_pool (s : State) (f : Dram → Dram) : (s.modDram f).pool = s.pool := rfl
@[simp] theorem State.modDram_stalls (s : State) (f : Dram → Dram) : (s.modDram f).stalls = s.stalls := rfl
@[simp] theorem State.modDram_sieve (s : State) (f : Dram → Dram) : (s.modDram f).sieve = s.sieve := rfl
@[simp] theorem State.modDram_yards (s : State) (f : Dram → Dram) : (s.modDram f).yards = s.yards := rfl
@[simp] theorem State.modDram_hall (s : State) (f : Dram → Dram) : (s.modDram f).hall = s.hall := rfl
@[simp] theorem State.modDram_dram (s : State) (f : Dram → Dram) : (s.modDram f).dram = f s.dram := rfl
@[simp] theorem State.modDram_sign (s : State) (f : Dram → Dram) : (s.modDram f).sign = s.sign := rfl
@[simp] theorem State.modDram_jumps (s : State) (f : Dram → Dram) : (s.modDram f).jumps = s.jumps := rfl
@[simp] theorem State.modDram_trigIn (s : State) (f : Dram → Dram) : (s.modDram f).trigIn = s.trigIn := rfl
@[simp] theorem State.modDram_crier (s : State) (f : Dram → Dram) : (s.modDram f).crier = s.crier := rfl
@[simp] theorem State.modDram_barter (s : State) (f : Dram → Dram) : (s.modDram f).barter = s.barter := rfl
@[simp] theorem State.modDram_wharf (s : State) (f : Dram → Dram) : (s.modDram f).wharf = s.wharf := rfl
@[simp] theorem State.modDram_image (s : State) (f : Dram → Dram) : (s.modDram f).image = s.image := rfl
@[simp] theorem State.modDram_power (s : State) (f : Dram → Dram) : (s.modDram f).power = s.power := rfl
@[simp] theorem State.modDram_tap (s : State) (f : Dram → Dram) : (s.modDram f).tap = s.tap := rfl
@[simp] theorem State.modDram_status (s : State) (f : Dram → Dram) : (s.modDram f).status = s.status := rfl
@[simp] theorem State.modDram_sticky (s : State) (f : Dram → Dram) : (s.modDram f).sticky = s.sticky := rfl
@[simp] theorem State.modDram_tolls (s : State) (f : Dram → Dram) : (s.modDram f).tolls = s.tolls := rfl
@[simp] theorem State.modDram_tollDue (s : State) (f : Dram → Dram) : (s.modDram f).tollDue = s.tollDue := rfl
@[simp] theorem State.modDram_log (s : State) (f : Dram → Dram) : (s.modDram f).log = s.log := rfl
@[simp] theorem State.modDram_ev (s : State) (f : Dram → Dram) : (s.modDram f).ev = s.ev := rfl
@[simp] theorem State.modDram_free (s : State) (f : Dram → Dram) : (s.modDram f).free = s.free := rfl
@[simp] theorem State.modDram_pending (s : State) (f : Dram → Dram) : (s.modDram f).pending = s.pending := rfl

@[simp] theorem State.modSub_chron (s : State) (c : Fin 8) (f : Subchannel → Subchannel) : (s.modSub c f).chron = s.chron := rfl
@[simp] theorem State.modSub_written (s : State) (c : Fin 8) (f : Subchannel → Subchannel) :
    (s.modSub c f).written = s.written := rfl
@[simp] theorem State.modSub_force (s : State) (c : Fin 8) (f : Subchannel → Subchannel) : (s.modSub c f).force = s.force := rfl
@[simp] theorem State.modSub_nextTick (s : State) (c : Fin 8) (f : Subchannel → Subchannel) :
    (s.modSub c f).nextTick = s.nextTick := rfl
@[simp] theorem State.modSub_code (s : State) (c : Fin 8) (f : Subchannel → Subchannel) : (s.modSub c f).code = s.code := rfl
@[simp] theorem State.modSub_run (s : State) (c : Fin 8) (f : Subchannel → Subchannel) : (s.modSub c f).run = s.run := rfl
@[simp] theorem State.modSub_tally (s : State) (c : Fin 8) (f : Subchannel → Subchannel) : (s.modSub c f).tally = s.tally := rfl
@[simp] theorem State.modSub_slots (s : State) (c : Fin 8) (f : Subchannel → Subchannel) : (s.modSub c f).slots = s.slots := rfl
@[simp] theorem State.modSub_acts (s : State) (c : Fin 8) (f : Subchannel → Subchannel) : (s.modSub c f).acts = s.acts := rfl
@[simp] theorem State.modSub_trigOut (s : State) (c : Fin 8) (f : Subchannel → Subchannel) :
    (s.modSub c f).trigOut = s.trigOut := rfl
@[simp] theorem State.modSub_mints (s : State) (c : Fin 8) (f : Subchannel → Subchannel) : (s.modSub c f).mints = s.mints := rfl
@[simp] theorem State.modSub_refs (s : State) (c : Fin 8) (f : Subchannel → Subchannel) : (s.modSub c f).refs = s.refs := rfl
@[simp] theorem State.modSub_conv (s : State) (c : Fin 8) (f : Subchannel → Subchannel) : (s.modSub c f).conv = s.conv := rfl
@[simp] theorem State.modSub_cal (s : State) (c : Fin 8) (f : Subchannel → Subchannel) : (s.modSub c f).cal = s.cal := rfl
@[simp] theorem State.modSub_aux (s : State) (c : Fin 8) (f : Subchannel → Subchannel) : (s.modSub c f).aux = s.aux := rfl
@[simp] theorem State.modSub_pool (s : State) (c : Fin 8) (f : Subchannel → Subchannel) : (s.modSub c f).pool = s.pool := rfl
@[simp] theorem State.modSub_stalls (s : State) (c : Fin 8) (f : Subchannel → Subchannel) :
    (s.modSub c f).stalls = s.stalls := rfl
@[simp] theorem State.modSub_sieve (s : State) (c : Fin 8) (f : Subchannel → Subchannel) : (s.modSub c f).sieve = s.sieve := rfl
@[simp] theorem State.modSub_yards (s : State) (c : Fin 8) (f : Subchannel → Subchannel) : (s.modSub c f).yards = s.yards := rfl
@[simp] theorem State.modSub_hall (s : State) (c : Fin 8) (f : Subchannel → Subchannel) : (s.modSub c f).hall = s.hall := rfl
@[simp] theorem State.modSub_dram (s : State) (c : Fin 8) (f : Subchannel → Subchannel) :
    (s.modSub c f).dram = { s.dram with subs := updAt s.dram.subs c f } := rfl
@[simp] theorem State.modSub_sign (s : State) (c : Fin 8) (f : Subchannel → Subchannel) : (s.modSub c f).sign = s.sign := rfl
@[simp] theorem State.modSub_jumps (s : State) (c : Fin 8) (f : Subchannel → Subchannel) : (s.modSub c f).jumps = s.jumps := rfl
@[simp] theorem State.modSub_trigIn (s : State) (c : Fin 8) (f : Subchannel → Subchannel) :
    (s.modSub c f).trigIn = s.trigIn := rfl
@[simp] theorem State.modSub_crier (s : State) (c : Fin 8) (f : Subchannel → Subchannel) : (s.modSub c f).crier = s.crier := rfl
@[simp] theorem State.modSub_barter (s : State) (c : Fin 8) (f : Subchannel → Subchannel) :
    (s.modSub c f).barter = s.barter := rfl
@[simp] theorem State.modSub_wharf (s : State) (c : Fin 8) (f : Subchannel → Subchannel) : (s.modSub c f).wharf = s.wharf := rfl
@[simp] theorem State.modSub_image (s : State) (c : Fin 8) (f : Subchannel → Subchannel) : (s.modSub c f).image = s.image := rfl
@[simp] theorem State.modSub_power (s : State) (c : Fin 8) (f : Subchannel → Subchannel) : (s.modSub c f).power = s.power := rfl
@[simp] theorem State.modSub_tap (s : State) (c : Fin 8) (f : Subchannel → Subchannel) : (s.modSub c f).tap = s.tap := rfl
@[simp] theorem State.modSub_status (s : State) (c : Fin 8) (f : Subchannel → Subchannel) :
    (s.modSub c f).status = s.status := rfl
@[simp] theorem State.modSub_sticky (s : State) (c : Fin 8) (f : Subchannel → Subchannel) :
    (s.modSub c f).sticky = s.sticky := rfl
@[simp] theorem State.modSub_tolls (s : State) (c : Fin 8) (f : Subchannel → Subchannel) : (s.modSub c f).tolls = s.tolls := rfl
@[simp] theorem State.modSub_tollDue (s : State) (c : Fin 8) (f : Subchannel → Subchannel) :
    (s.modSub c f).tollDue = s.tollDue := rfl
@[simp] theorem State.modSub_log (s : State) (c : Fin 8) (f : Subchannel → Subchannel) : (s.modSub c f).log = s.log := rfl
@[simp] theorem State.modSub_ev (s : State) (c : Fin 8) (f : Subchannel → Subchannel) : (s.modSub c f).ev = s.ev := rfl
@[simp] theorem State.modSub_free (s : State) (c : Fin 8) (f : Subchannel → Subchannel) : (s.modSub c f).free = s.free := rfl
@[simp] theorem State.modSub_pending (s : State) (c : Fin 8) (f : Subchannel → Subchannel) :
    (s.modSub c f).pending = s.pending := rfl

@[simp] theorem State.modSign_chron (s : State) (f : Signboard → Signboard) : (s.modSign f).chron = s.chron := rfl
@[simp] theorem State.modSign_written (s : State) (f : Signboard → Signboard) : (s.modSign f).written = s.written := rfl
@[simp] theorem State.modSign_force (s : State) (f : Signboard → Signboard) : (s.modSign f).force = s.force := rfl
@[simp] theorem State.modSign_nextTick (s : State) (f : Signboard → Signboard) : (s.modSign f).nextTick = s.nextTick := rfl
@[simp] theorem State.modSign_code (s : State) (f : Signboard → Signboard) : (s.modSign f).code = s.code := rfl
@[simp] theorem State.modSign_run (s : State) (f : Signboard → Signboard) : (s.modSign f).run = s.run := rfl
@[simp] theorem State.modSign_tally (s : State) (f : Signboard → Signboard) : (s.modSign f).tally = s.tally := rfl
@[simp] theorem State.modSign_slots (s : State) (f : Signboard → Signboard) : (s.modSign f).slots = s.slots := rfl
@[simp] theorem State.modSign_acts (s : State) (f : Signboard → Signboard) : (s.modSign f).acts = s.acts := rfl
@[simp] theorem State.modSign_trigOut (s : State) (f : Signboard → Signboard) : (s.modSign f).trigOut = s.trigOut := rfl
@[simp] theorem State.modSign_mints (s : State) (f : Signboard → Signboard) : (s.modSign f).mints = s.mints := rfl
@[simp] theorem State.modSign_refs (s : State) (f : Signboard → Signboard) : (s.modSign f).refs = s.refs := rfl
@[simp] theorem State.modSign_conv (s : State) (f : Signboard → Signboard) : (s.modSign f).conv = s.conv := rfl
@[simp] theorem State.modSign_cal (s : State) (f : Signboard → Signboard) : (s.modSign f).cal = s.cal := rfl
@[simp] theorem State.modSign_aux (s : State) (f : Signboard → Signboard) : (s.modSign f).aux = s.aux := rfl
@[simp] theorem State.modSign_pool (s : State) (f : Signboard → Signboard) : (s.modSign f).pool = s.pool := rfl
@[simp] theorem State.modSign_stalls (s : State) (f : Signboard → Signboard) : (s.modSign f).stalls = s.stalls := rfl
@[simp] theorem State.modSign_sieve (s : State) (f : Signboard → Signboard) : (s.modSign f).sieve = s.sieve := rfl
@[simp] theorem State.modSign_yards (s : State) (f : Signboard → Signboard) : (s.modSign f).yards = s.yards := rfl
@[simp] theorem State.modSign_hall (s : State) (f : Signboard → Signboard) : (s.modSign f).hall = s.hall := rfl
@[simp] theorem State.modSign_dram (s : State) (f : Signboard → Signboard) : (s.modSign f).dram = s.dram := rfl
@[simp] theorem State.modSign_sign (s : State) (f : Signboard → Signboard) : (s.modSign f).sign = f s.sign := rfl
@[simp] theorem State.modSign_jumps (s : State) (f : Signboard → Signboard) : (s.modSign f).jumps = s.jumps := rfl
@[simp] theorem State.modSign_trigIn (s : State) (f : Signboard → Signboard) : (s.modSign f).trigIn = s.trigIn := rfl
@[simp] theorem State.modSign_crier (s : State) (f : Signboard → Signboard) : (s.modSign f).crier = s.crier := rfl
@[simp] theorem State.modSign_barter (s : State) (f : Signboard → Signboard) : (s.modSign f).barter = s.barter := rfl
@[simp] theorem State.modSign_wharf (s : State) (f : Signboard → Signboard) : (s.modSign f).wharf = s.wharf := rfl
@[simp] theorem State.modSign_image (s : State) (f : Signboard → Signboard) : (s.modSign f).image = s.image := rfl
@[simp] theorem State.modSign_power (s : State) (f : Signboard → Signboard) : (s.modSign f).power = s.power := rfl
@[simp] theorem State.modSign_tap (s : State) (f : Signboard → Signboard) : (s.modSign f).tap = s.tap := rfl
@[simp] theorem State.modSign_status (s : State) (f : Signboard → Signboard) : (s.modSign f).status = s.status := rfl
@[simp] theorem State.modSign_sticky (s : State) (f : Signboard → Signboard) : (s.modSign f).sticky = s.sticky := rfl
@[simp] theorem State.modSign_tolls (s : State) (f : Signboard → Signboard) : (s.modSign f).tolls = s.tolls := rfl
@[simp] theorem State.modSign_tollDue (s : State) (f : Signboard → Signboard) : (s.modSign f).tollDue = s.tollDue := rfl
@[simp] theorem State.modSign_log (s : State) (f : Signboard → Signboard) : (s.modSign f).log = s.log := rfl
@[simp] theorem State.modSign_ev (s : State) (f : Signboard → Signboard) : (s.modSign f).ev = s.ev := rfl
@[simp] theorem State.modSign_free (s : State) (f : Signboard → Signboard) : (s.modSign f).free = s.free := rfl
@[simp] theorem State.modSign_pending (s : State) (f : Signboard → Signboard) : (s.modSign f).pending = s.pending := rfl

@[simp] theorem State.modImage_chron (s : State) (f : Image → Image) : (s.modImage f).chron = s.chron := rfl
@[simp] theorem State.modImage_written (s : State) (f : Image → Image) : (s.modImage f).written = s.written := rfl
@[simp] theorem State.modImage_force (s : State) (f : Image → Image) : (s.modImage f).force = s.force := rfl
@[simp] theorem State.modImage_nextTick (s : State) (f : Image → Image) : (s.modImage f).nextTick = s.nextTick := rfl
@[simp] theorem State.modImage_code (s : State) (f : Image → Image) : (s.modImage f).code = s.code := rfl
@[simp] theorem State.modImage_run (s : State) (f : Image → Image) : (s.modImage f).run = s.run := rfl
@[simp] theorem State.modImage_tally (s : State) (f : Image → Image) : (s.modImage f).tally = s.tally := rfl
@[simp] theorem State.modImage_slots (s : State) (f : Image → Image) : (s.modImage f).slots = s.slots := rfl
@[simp] theorem State.modImage_acts (s : State) (f : Image → Image) : (s.modImage f).acts = s.acts := rfl
@[simp] theorem State.modImage_trigOut (s : State) (f : Image → Image) : (s.modImage f).trigOut = s.trigOut := rfl
@[simp] theorem State.modImage_mints (s : State) (f : Image → Image) : (s.modImage f).mints = s.mints := rfl
@[simp] theorem State.modImage_refs (s : State) (f : Image → Image) : (s.modImage f).refs = s.refs := rfl
@[simp] theorem State.modImage_conv (s : State) (f : Image → Image) : (s.modImage f).conv = s.conv := rfl
@[simp] theorem State.modImage_cal (s : State) (f : Image → Image) : (s.modImage f).cal = s.cal := rfl
@[simp] theorem State.modImage_aux (s : State) (f : Image → Image) : (s.modImage f).aux = s.aux := rfl
@[simp] theorem State.modImage_pool (s : State) (f : Image → Image) : (s.modImage f).pool = s.pool := rfl
@[simp] theorem State.modImage_stalls (s : State) (f : Image → Image) : (s.modImage f).stalls = s.stalls := rfl
@[simp] theorem State.modImage_sieve (s : State) (f : Image → Image) : (s.modImage f).sieve = s.sieve := rfl
@[simp] theorem State.modImage_yards (s : State) (f : Image → Image) : (s.modImage f).yards = s.yards := rfl
@[simp] theorem State.modImage_hall (s : State) (f : Image → Image) : (s.modImage f).hall = s.hall := rfl
@[simp] theorem State.modImage_dram (s : State) (f : Image → Image) : (s.modImage f).dram = s.dram := rfl
@[simp] theorem State.modImage_sign (s : State) (f : Image → Image) : (s.modImage f).sign = s.sign := rfl
@[simp] theorem State.modImage_jumps (s : State) (f : Image → Image) : (s.modImage f).jumps = s.jumps := rfl
@[simp] theorem State.modImage_trigIn (s : State) (f : Image → Image) : (s.modImage f).trigIn = s.trigIn := rfl
@[simp] theorem State.modImage_crier (s : State) (f : Image → Image) : (s.modImage f).crier = s.crier := rfl
@[simp] theorem State.modImage_barter (s : State) (f : Image → Image) : (s.modImage f).barter = s.barter := rfl
@[simp] theorem State.modImage_wharf (s : State) (f : Image → Image) : (s.modImage f).wharf = s.wharf := rfl
@[simp] theorem State.modImage_image (s : State) (f : Image → Image) : (s.modImage f).image = f s.image := rfl
@[simp] theorem State.modImage_power (s : State) (f : Image → Image) : (s.modImage f).power = s.power := rfl
@[simp] theorem State.modImage_tap (s : State) (f : Image → Image) : (s.modImage f).tap = s.tap := rfl
@[simp] theorem State.modImage_status (s : State) (f : Image → Image) : (s.modImage f).status = s.status := rfl
@[simp] theorem State.modImage_sticky (s : State) (f : Image → Image) : (s.modImage f).sticky = s.sticky := rfl
@[simp] theorem State.modImage_tolls (s : State) (f : Image → Image) : (s.modImage f).tolls = s.tolls := rfl
@[simp] theorem State.modImage_tollDue (s : State) (f : Image → Image) : (s.modImage f).tollDue = s.tollDue := rfl
@[simp] theorem State.modImage_log (s : State) (f : Image → Image) : (s.modImage f).log = s.log := rfl
@[simp] theorem State.modImage_ev (s : State) (f : Image → Image) : (s.modImage f).ev = s.ev := rfl
@[simp] theorem State.modImage_free (s : State) (f : Image → Image) : (s.modImage f).free = s.free := rfl
@[simp] theorem State.modImage_pending (s : State) (f : Image → Image) : (s.modImage f).pending = s.pending := rfl

@[simp] theorem State.modPower_chron (s : State) (f : Power → Power) : (s.modPower f).chron = s.chron := rfl
@[simp] theorem State.modPower_written (s : State) (f : Power → Power) : (s.modPower f).written = s.written := rfl
@[simp] theorem State.modPower_force (s : State) (f : Power → Power) : (s.modPower f).force = s.force := rfl
@[simp] theorem State.modPower_nextTick (s : State) (f : Power → Power) : (s.modPower f).nextTick = s.nextTick := rfl
@[simp] theorem State.modPower_code (s : State) (f : Power → Power) : (s.modPower f).code = s.code := rfl
@[simp] theorem State.modPower_run (s : State) (f : Power → Power) : (s.modPower f).run = s.run := rfl
@[simp] theorem State.modPower_tally (s : State) (f : Power → Power) : (s.modPower f).tally = s.tally := rfl
@[simp] theorem State.modPower_slots (s : State) (f : Power → Power) : (s.modPower f).slots = s.slots := rfl
@[simp] theorem State.modPower_acts (s : State) (f : Power → Power) : (s.modPower f).acts = s.acts := rfl
@[simp] theorem State.modPower_trigOut (s : State) (f : Power → Power) : (s.modPower f).trigOut = s.trigOut := rfl
@[simp] theorem State.modPower_mints (s : State) (f : Power → Power) : (s.modPower f).mints = s.mints := rfl
@[simp] theorem State.modPower_refs (s : State) (f : Power → Power) : (s.modPower f).refs = s.refs := rfl
@[simp] theorem State.modPower_conv (s : State) (f : Power → Power) : (s.modPower f).conv = s.conv := rfl
@[simp] theorem State.modPower_cal (s : State) (f : Power → Power) : (s.modPower f).cal = s.cal := rfl
@[simp] theorem State.modPower_aux (s : State) (f : Power → Power) : (s.modPower f).aux = s.aux := rfl
@[simp] theorem State.modPower_pool (s : State) (f : Power → Power) : (s.modPower f).pool = s.pool := rfl
@[simp] theorem State.modPower_stalls (s : State) (f : Power → Power) : (s.modPower f).stalls = s.stalls := rfl
@[simp] theorem State.modPower_sieve (s : State) (f : Power → Power) : (s.modPower f).sieve = s.sieve := rfl
@[simp] theorem State.modPower_yards (s : State) (f : Power → Power) : (s.modPower f).yards = s.yards := rfl
@[simp] theorem State.modPower_hall (s : State) (f : Power → Power) : (s.modPower f).hall = s.hall := rfl
@[simp] theorem State.modPower_dram (s : State) (f : Power → Power) : (s.modPower f).dram = s.dram := rfl
@[simp] theorem State.modPower_sign (s : State) (f : Power → Power) : (s.modPower f).sign = s.sign := rfl
@[simp] theorem State.modPower_jumps (s : State) (f : Power → Power) : (s.modPower f).jumps = s.jumps := rfl
@[simp] theorem State.modPower_trigIn (s : State) (f : Power → Power) : (s.modPower f).trigIn = s.trigIn := rfl
@[simp] theorem State.modPower_crier (s : State) (f : Power → Power) : (s.modPower f).crier = s.crier := rfl
@[simp] theorem State.modPower_barter (s : State) (f : Power → Power) : (s.modPower f).barter = s.barter := rfl
@[simp] theorem State.modPower_wharf (s : State) (f : Power → Power) : (s.modPower f).wharf = s.wharf := rfl
@[simp] theorem State.modPower_image (s : State) (f : Power → Power) : (s.modPower f).image = s.image := rfl
@[simp] theorem State.modPower_power (s : State) (f : Power → Power) : (s.modPower f).power = f s.power := rfl
@[simp] theorem State.modPower_tap (s : State) (f : Power → Power) : (s.modPower f).tap = s.tap := rfl
@[simp] theorem State.modPower_status (s : State) (f : Power → Power) : (s.modPower f).status = s.status := rfl
@[simp] theorem State.modPower_sticky (s : State) (f : Power → Power) : (s.modPower f).sticky = s.sticky := rfl
@[simp] theorem State.modPower_tolls (s : State) (f : Power → Power) : (s.modPower f).tolls = s.tolls := rfl
@[simp] theorem State.modPower_tollDue (s : State) (f : Power → Power) : (s.modPower f).tollDue = s.tollDue := rfl
@[simp] theorem State.modPower_log (s : State) (f : Power → Power) : (s.modPower f).log = s.log := rfl
@[simp] theorem State.modPower_ev (s : State) (f : Power → Power) : (s.modPower f).ev = s.ev := rfl
@[simp] theorem State.modPower_free (s : State) (f : Power → Power) : (s.modPower f).free = s.free := rfl
@[simp] theorem State.modPower_pending (s : State) (f : Power → Power) : (s.modPower f).pending = s.pending := rfl

@[simp] theorem State.modBarter_chron (s : State) (f : Barter → Barter) : (s.modBarter f).chron = s.chron := rfl
@[simp] theorem State.modBarter_written (s : State) (f : Barter → Barter) : (s.modBarter f).written = s.written := rfl
@[simp] theorem State.modBarter_force (s : State) (f : Barter → Barter) : (s.modBarter f).force = s.force := rfl
@[simp] theorem State.modBarter_nextTick (s : State) (f : Barter → Barter) : (s.modBarter f).nextTick = s.nextTick := rfl
@[simp] theorem State.modBarter_code (s : State) (f : Barter → Barter) : (s.modBarter f).code = s.code := rfl
@[simp] theorem State.modBarter_run (s : State) (f : Barter → Barter) : (s.modBarter f).run = s.run := rfl
@[simp] theorem State.modBarter_tally (s : State) (f : Barter → Barter) : (s.modBarter f).tally = s.tally := rfl
@[simp] theorem State.modBarter_slots (s : State) (f : Barter → Barter) : (s.modBarter f).slots = s.slots := rfl
@[simp] theorem State.modBarter_acts (s : State) (f : Barter → Barter) : (s.modBarter f).acts = s.acts := rfl
@[simp] theorem State.modBarter_trigOut (s : State) (f : Barter → Barter) : (s.modBarter f).trigOut = s.trigOut := rfl
@[simp] theorem State.modBarter_mints (s : State) (f : Barter → Barter) : (s.modBarter f).mints = s.mints := rfl
@[simp] theorem State.modBarter_refs (s : State) (f : Barter → Barter) : (s.modBarter f).refs = s.refs := rfl
@[simp] theorem State.modBarter_conv (s : State) (f : Barter → Barter) : (s.modBarter f).conv = s.conv := rfl
@[simp] theorem State.modBarter_cal (s : State) (f : Barter → Barter) : (s.modBarter f).cal = s.cal := rfl
@[simp] theorem State.modBarter_aux (s : State) (f : Barter → Barter) : (s.modBarter f).aux = s.aux := rfl
@[simp] theorem State.modBarter_pool (s : State) (f : Barter → Barter) : (s.modBarter f).pool = s.pool := rfl
@[simp] theorem State.modBarter_stalls (s : State) (f : Barter → Barter) : (s.modBarter f).stalls = s.stalls := rfl
@[simp] theorem State.modBarter_sieve (s : State) (f : Barter → Barter) : (s.modBarter f).sieve = s.sieve := rfl
@[simp] theorem State.modBarter_yards (s : State) (f : Barter → Barter) : (s.modBarter f).yards = s.yards := rfl
@[simp] theorem State.modBarter_hall (s : State) (f : Barter → Barter) : (s.modBarter f).hall = s.hall := rfl
@[simp] theorem State.modBarter_dram (s : State) (f : Barter → Barter) : (s.modBarter f).dram = s.dram := rfl
@[simp] theorem State.modBarter_sign (s : State) (f : Barter → Barter) : (s.modBarter f).sign = s.sign := rfl
@[simp] theorem State.modBarter_jumps (s : State) (f : Barter → Barter) : (s.modBarter f).jumps = s.jumps := rfl
@[simp] theorem State.modBarter_trigIn (s : State) (f : Barter → Barter) : (s.modBarter f).trigIn = s.trigIn := rfl
@[simp] theorem State.modBarter_crier (s : State) (f : Barter → Barter) : (s.modBarter f).crier = s.crier := rfl
@[simp] theorem State.modBarter_barter (s : State) (f : Barter → Barter) : (s.modBarter f).barter = f s.barter := rfl
@[simp] theorem State.modBarter_wharf (s : State) (f : Barter → Barter) : (s.modBarter f).wharf = s.wharf := rfl
@[simp] theorem State.modBarter_image (s : State) (f : Barter → Barter) : (s.modBarter f).image = s.image := rfl
@[simp] theorem State.modBarter_power (s : State) (f : Barter → Barter) : (s.modBarter f).power = s.power := rfl
@[simp] theorem State.modBarter_tap (s : State) (f : Barter → Barter) : (s.modBarter f).tap = s.tap := rfl
@[simp] theorem State.modBarter_status (s : State) (f : Barter → Barter) : (s.modBarter f).status = s.status := rfl
@[simp] theorem State.modBarter_sticky (s : State) (f : Barter → Barter) : (s.modBarter f).sticky = s.sticky := rfl
@[simp] theorem State.modBarter_tolls (s : State) (f : Barter → Barter) : (s.modBarter f).tolls = s.tolls := rfl
@[simp] theorem State.modBarter_tollDue (s : State) (f : Barter → Barter) : (s.modBarter f).tollDue = s.tollDue := rfl
@[simp] theorem State.modBarter_log (s : State) (f : Barter → Barter) : (s.modBarter f).log = s.log := rfl
@[simp] theorem State.modBarter_ev (s : State) (f : Barter → Barter) : (s.modBarter f).ev = s.ev := rfl
@[simp] theorem State.modBarter_free (s : State) (f : Barter → Barter) : (s.modBarter f).free = s.free := rfl
@[simp] theorem State.modBarter_pending (s : State) (f : Barter → Barter) : (s.modBarter f).pending = s.pending := rfl

@[simp] theorem State.modWharf_chron (s : State) (f : Wharf → Wharf) : (s.modWharf f).chron = s.chron := rfl
@[simp] theorem State.modWharf_written (s : State) (f : Wharf → Wharf) : (s.modWharf f).written = s.written := rfl
@[simp] theorem State.modWharf_force (s : State) (f : Wharf → Wharf) : (s.modWharf f).force = s.force := rfl
@[simp] theorem State.modWharf_nextTick (s : State) (f : Wharf → Wharf) : (s.modWharf f).nextTick = s.nextTick := rfl
@[simp] theorem State.modWharf_code (s : State) (f : Wharf → Wharf) : (s.modWharf f).code = s.code := rfl
@[simp] theorem State.modWharf_run (s : State) (f : Wharf → Wharf) : (s.modWharf f).run = s.run := rfl
@[simp] theorem State.modWharf_tally (s : State) (f : Wharf → Wharf) : (s.modWharf f).tally = s.tally := rfl
@[simp] theorem State.modWharf_slots (s : State) (f : Wharf → Wharf) : (s.modWharf f).slots = s.slots := rfl
@[simp] theorem State.modWharf_acts (s : State) (f : Wharf → Wharf) : (s.modWharf f).acts = s.acts := rfl
@[simp] theorem State.modWharf_trigOut (s : State) (f : Wharf → Wharf) : (s.modWharf f).trigOut = s.trigOut := rfl
@[simp] theorem State.modWharf_mints (s : State) (f : Wharf → Wharf) : (s.modWharf f).mints = s.mints := rfl
@[simp] theorem State.modWharf_refs (s : State) (f : Wharf → Wharf) : (s.modWharf f).refs = s.refs := rfl
@[simp] theorem State.modWharf_conv (s : State) (f : Wharf → Wharf) : (s.modWharf f).conv = s.conv := rfl
@[simp] theorem State.modWharf_cal (s : State) (f : Wharf → Wharf) : (s.modWharf f).cal = s.cal := rfl
@[simp] theorem State.modWharf_aux (s : State) (f : Wharf → Wharf) : (s.modWharf f).aux = s.aux := rfl
@[simp] theorem State.modWharf_pool (s : State) (f : Wharf → Wharf) : (s.modWharf f).pool = s.pool := rfl
@[simp] theorem State.modWharf_stalls (s : State) (f : Wharf → Wharf) : (s.modWharf f).stalls = s.stalls := rfl
@[simp] theorem State.modWharf_sieve (s : State) (f : Wharf → Wharf) : (s.modWharf f).sieve = s.sieve := rfl
@[simp] theorem State.modWharf_yards (s : State) (f : Wharf → Wharf) : (s.modWharf f).yards = s.yards := rfl
@[simp] theorem State.modWharf_hall (s : State) (f : Wharf → Wharf) : (s.modWharf f).hall = s.hall := rfl
@[simp] theorem State.modWharf_dram (s : State) (f : Wharf → Wharf) : (s.modWharf f).dram = s.dram := rfl
@[simp] theorem State.modWharf_sign (s : State) (f : Wharf → Wharf) : (s.modWharf f).sign = s.sign := rfl
@[simp] theorem State.modWharf_jumps (s : State) (f : Wharf → Wharf) : (s.modWharf f).jumps = s.jumps := rfl
@[simp] theorem State.modWharf_trigIn (s : State) (f : Wharf → Wharf) : (s.modWharf f).trigIn = s.trigIn := rfl
@[simp] theorem State.modWharf_crier (s : State) (f : Wharf → Wharf) : (s.modWharf f).crier = s.crier := rfl
@[simp] theorem State.modWharf_barter (s : State) (f : Wharf → Wharf) : (s.modWharf f).barter = s.barter := rfl
@[simp] theorem State.modWharf_wharf (s : State) (f : Wharf → Wharf) : (s.modWharf f).wharf = f s.wharf := rfl
@[simp] theorem State.modWharf_image (s : State) (f : Wharf → Wharf) : (s.modWharf f).image = s.image := rfl
@[simp] theorem State.modWharf_power (s : State) (f : Wharf → Wharf) : (s.modWharf f).power = s.power := rfl
@[simp] theorem State.modWharf_tap (s : State) (f : Wharf → Wharf) : (s.modWharf f).tap = s.tap := rfl
@[simp] theorem State.modWharf_status (s : State) (f : Wharf → Wharf) : (s.modWharf f).status = s.status := rfl
@[simp] theorem State.modWharf_sticky (s : State) (f : Wharf → Wharf) : (s.modWharf f).sticky = s.sticky := rfl
@[simp] theorem State.modWharf_tolls (s : State) (f : Wharf → Wharf) : (s.modWharf f).tolls = s.tolls := rfl
@[simp] theorem State.modWharf_tollDue (s : State) (f : Wharf → Wharf) : (s.modWharf f).tollDue = s.tollDue := rfl
@[simp] theorem State.modWharf_log (s : State) (f : Wharf → Wharf) : (s.modWharf f).log = s.log := rfl
@[simp] theorem State.modWharf_ev (s : State) (f : Wharf → Wharf) : (s.modWharf f).ev = s.ev := rfl
@[simp] theorem State.modWharf_free (s : State) (f : Wharf → Wharf) : (s.modWharf f).free = s.free := rfl
@[simp] theorem State.modWharf_pending (s : State) (f : Wharf → Wharf) : (s.modWharf f).pending = s.pending := rfl

end Sys2Proof.Machine
end

