-- ==== Sys2Proof/Laws/Ops.lean ====
section
/-! SUPPORT. What the shared operations of Ops.lean give when they are read back: parameter words, tolls, sticky bits, the error
log, free values and the attention register. -/

namespace Sys2Proof.Machine

/-- A word as last written, after a write of some of its bits (R379). -/
theorem State.lastWritten_setWritten {s : State} (h : Sparse.wf resetWord s.written = true) (n k : Nat) (w m : Word) :
    (s.setWritten n w m).lastWritten k = if k = n then (s.lastWritten n &&& ~~~m) ||| (w &&& m) else s.lastWritten k :=
  Sparse.get_set h n k _

/-- A word in force, after some of its bits have come into force (R379). -/
theorem State.word_setForce {s : State} (h : Sparse.wf resetWord s.force = true) (n k : Nat) (w m : Word) :
    (s.setForce n w m).word k = if k = n then (s.word n &&& ~~~m) ||| (w &&& m) else s.word k :=
  Sparse.get_set h n k _

/-- What the present tick has counted, after one more count (R396). -/
theorem State.tollCounted_toll {s : State} (h : Sparse.wf (fun _ => 0) s.tollDue = true) (i n k : Nat) :
    (s.toll i n).tollCounted k = if k = i then s.tollCounted i + n else s.tollCounted k :=
  Sparse.get_set h i k _

/-- A toll that is counted is read with its old value in the same tick (R397). -/
@[simp] theorem State.tollValue_toll (s : State) (i n k : Nat) : (s.toll i n).tollValue k = s.tollValue k := rfl

/-- W1C bits after an event (R8). -/
theorem State.stickyBits_setSticky {s : State} (h : Sparse.wf (fun _ => 0) s.sticky = true) (n k : Nat) (b : Word) :
    (s.setSticky n b).stickyBits k = if k = n then s.stickyBits n ||| b else s.stickyBits k :=
  Sparse.get_set h n k _

/-- W1C bits after ones were written to some of them: what an event of the same tick has set stays (R8, R10). -/
theorem State.stickyBits_clearSticky {s : State} (h : Sparse.wf (fun _ => 0) s.sticky = true) (n k : Nat) (b : Word) :
    (s.clearSticky n b).stickyBits k =
      if k = n then s.stickyBits n &&& ~~~(b &&& ~~~(Sparse.get (fun _ => 0) s.ev.sticky n)) else s.stickyBits k :=
  Sparse.get_set h n k _

/-- A count that is not zero (R396). -/
theorem State.tollMany_eq (s : State) (i n : Nat) : s.tollMany i n = s ∨ s.tollMany i n = s.toll i n := by
  unfold State.tollMany
  split
  · exact .inl rfl
  · exact .inr rfl

/-- A count on a condition (R396). -/
theorem State.tollIf_eq (s : State) (c : Bool) (i : Nat) :
    (c = false ∧ s.tollIf c i = s) ∨ (c = true ∧ s.tollIf c i = s.toll i) := by
  cases c
  · exact .inl ⟨rfl, rfl⟩
  · exact .inr ⟨rfl, rfl⟩

/-- A count made once a tick (R396). -/
theorem State.tollOnce_eq (s : State) (i : Nat) :
    (s.tollCounted i = 0 ∧ s.tollOnce i = s.toll i) ∨ (s.tollCounted i ≠ 0 ∧ s.tollOnce i = s) := by
  by_cases h : s.tollCounted i = 0
  · exact .inl ⟨h, if_pos h⟩
  · exact .inr ⟨h, if_neg h⟩

/-- A refused write: its code, toll 243, and nothing else (R341, R398). -/
theorem State.refuseWrite_eq (s : State) (c : Code) :
    s.refuseWrite c = { s with code := c, tollDue := (s.toll 243).tollDue } := rfl

/-- An entry for the error log: only the log changes, by one entry that is due (R401). -/
theorem State.logEvent_eq (s : State) (kind unit toll : Nat) (detail : Int) :
    ∃ e : LogEntry, s.logEvent kind unit toll detail = { s with log := { s.log with due := s.log.due ++ [e] } } := ⟨_, rfl⟩

/-- An acknowledgement that is taken back leaves ASEQ as it is. -/
@[simp] theorem State.unack_aseq (s : State) : s.unack.status.aseq = s.status.aseq := by
  unfold State.unack
  split <;> rfl

/-- An acknowledgement that is taken back does not lower LEVEL. -/
theorem State.unack_level (s : State) : s.status.level ≤ s.unack.status.level := by
  unfold State.unack
  split
  · exact Nat.le_max_left _ _
  · exact Nat.le_refl _

/-- Attention raised: ASEQ advances, LEVEL does not fall, ATTN_NEW is set (R343). -/
theorem State.attention_spec (s : State) (l : Nat) :
    (s.attention l).status.aseq = (s.status.aseq + 1) % 2 ^ 16 ∧ l ≤ (s.attention l).status.level ∧
      s.status.level ≤ (s.attention l).status.level ∧ (s.attention l).status.attnNew = true :=
  ⟨by simp, Nat.le_max_right _ _, (s.unack_level).trans (Nat.le_max_left _ _), rfl⟩

/-- A free value is drawn: only its counter moves. -/
theorem State.draw_eq (s : State) : s.draw = (Config.freeValue s.free, { s with free := s.free + 1 }) := rfl

end Sys2Proof.Machine
end

