-- ==== Sys2Proof/Laws/Records.lean ====
section
/-! SUPPORT. How many words a CHANGE record takes: never more than the bound at which its stall's budget charges it (08_records R191 to
R194). -/

namespace Sys2Proof.Machine

/-- A RAW token of at most 64 values takes at most 25 words (R188). -/
theorem rawToken_length_le {l : List Int} (h : l.length ≤ 64) : (rawToken l).length ≤ 25 := by
  simp only [rawToken, List.length_append, List.length_map, List.length_range, List.length_singleton]
  omega

/-- A list of lists, each of at most `k` entries, joined. -/
theorem length_flatMap_le {α β : Type} (l : List α) (f : α → List β) (k : Nat) (h : ∀ x ∈ l, (f x).length ≤ k) :
    (l.flatMap f).length ≤ k * l.length := by
  induction l with
  | nil => simp
  | cons x l ih =>
    have hx := h x (by simp)
    have hl := ih fun y hy => h y (by simp [hy])
    simp only [List.flatMap_cons, List.length_append, List.length_cons, Nat.mul_succ]
    omega

/-- The RAW coding of at most `64 k` values takes at most `25 k` words (R191). -/
theorem rawWords_length_le {l : List Int} {k : Nat} (h : l.length ≤ 64 * k) : (rawWords l).length ≤ 25 * k := by
  have h1 : (rawWords l).length ≤ 25 * ((l.length + 63) / 64) :=
    (length_flatMap_le _ _ 25 fun i _ => rawToken_length_le (by simp)).trans (by simp)
  have h2 : (l.length + 63) / 64 ≤ k := by omega
  exact h1.trans (Nat.mul_le_mul_left _ h2)

/-- The data tokens of a block take at most the words of its RAW coding (R191). -/
theorem blockWords_length_le (dead : Nat) (linear : Bool) (l : List Int) :
    (blockWords dead linear l).length ≤ (rawWords l).length := by
  cases l with
  | nil => simp [blockWords]
  | cons v vs =>
    simp only [blockWords]
    generalize (0, v) :: (if linear then linearTokens dead 0 v [] 1 vs else holdTokens dead v 1 vs) = toks
    split
    · assumption
    · exact le_refl _

/-- A record of at most `k` blocks of `128 c` values takes at most 51 c words a block, whatever its marks, and so no more than
`changeBound` of a full record, at which R194 charges it (R192, R193). -/
theorem changeRecord_length_le {c k dead : Nat} {linear : Bool} {marks : List ChangeMark} {vals : List Int} (hc : 0 < c)
    (h : vals.length ≤ 128 * c * k) : (changeRecord (128 * c) dead linear marks vals).1.length ≤ changeBound (128 * c * k) := by
  have hb : (vals.length + 128 * c - 1) / (128 * c) ≤ k := by
    have : vals.length + 128 * c - 1 < 128 * c * (k + 1) := by
      have : 128 * c * (k + 1) = 128 * c * k + 128 * c := by ring
      omega
    exact Nat.lt_succ_iff.1 (Nat.div_lt_of_lt_mul this)
  have he : changeBound (128 * c * k) = 51 * c * k := by
    rw [changeBound, show 51 * (128 * c * k) = 128 * (51 * c * k) by ring]
    exact Nat.mul_div_cancel_left _ (by decide)
  rw [he]
  refine le_trans ?_ (Nat.mul_le_mul_left (51 * c) hb)
  simp only [changeRecord, List.flatMap_map]
  refine (length_flatMap_le _ _ (51 * c) fun i _ => ?_).trans (by simp)
  simp only [List.length_append, List.length_map, List.length_take]
  have hd : (blockWords dead linear ((vals.drop (128 * c * i)).take (128 * c))).length ≤ 25 * (2 * c) :=
    (blockWords_length_le ..).trans (rawWords_length_le (by simp; omega))
  have hm : 128 * c / 128 = c := Nat.mul_div_cancel_left _ (by decide)
  rw [hm]
  omega

end Sys2Proof.Machine
end

