-- ==== Sys2Proof/WellFormed.lean ====
section
/-! DEFINITION. Which commands are well formed: what the spec says of a command's operands beyond their types. A meaning is total
all the same; what it does with an ill-formed command is of no consequence. -/

namespace Sys2Proof

open Machine

/-- The body of a request (16_barter R336). -/
def bodyOk (body : List Byte) : Bool := decide (body.length ≤ 1448)

/-- A frame without its check sequence (R334). -/
def frameOk (f : List Byte) : Bool := decide (60 ≤ f.length) && decide (f.length ≤ 1514)

/-- A number fits a signed field of `w` bits. -/
def fitsSigned (w : Nat) (i : Int) : Bool := decide (-(2 ^ (w - 1) : Nat) ≤ i) && decide (i < (2 ^ (w - 1) : Nat))

/-- Coefficients within their formats and ranges (05_calibration R102). -/
def Machine.Coef.ok (c : Coef) : Bool :=
  decide (c.ofs.natAbs ≤ 32767) && fitsSigned 16 c.gain && decide (c.skew.natAbs ≤ 2000) && fitsSigned 16 c.bw &&
  c.inl.all fun e => decide (e.1 < 64) && decide (e.2.natAbs ≤ 127)

/-- What SFDP can tell: a flash of some size, with sectors (17_image R357). -/
def Machine.Sfdp.ok (x : Sfdp) : Bool := decide (0 < x.sector) && decide (x.sector ≤ x.density)

/-- What training can find: passing windows among the taps of a delay (13_dram R283, R286). -/
def Machine.Training.ok (t : Training) : Bool :=
  let window (e : Option (Nat × Nat)) : Bool := e.all fun p => decide (p.1 ≤ p.2) && decide (p.2 < 1024)
  window t.eye && t.bits.all fun b => window b.2

/-- A command is well formed. -/
def WellFormed : Instr → Bool
  | .ping b | .renew b | .readParam b | .writeParam b | .stopFn b | .startFn b | .fetchHdr b | .fetchSeg b | .fetchMeas b
  | .fetchTile b | .uploadOverlay b | .ackAttn b | .consign b | .imageWrite b | .imageCommit b | .tollRead b | .logRead b
  | .resetRequest b => bodyOk b
  | .barterFrameReceived f | .arpRequest f | .icmpEcho f => frameOk f
  | .refAbsent (.overThreshold ms) _ => decide ms.Nodup
  | .calCheckEnd c => c.ok
  | .reliefSelfcalEnd c skews => c.ok && skews.all fun k => decide (k.natAbs ≤ 2000)
  | .auxCalComplete _ gain => decide (gain < 2 ^ 16)
  | .auxConversionEnd raw => fitsSigned 17 raw
  | .hallRequest _ _ _ work _ => !work.isEmpty
  | .hammerMitigation _ _ row => decide (row < 2 ^ 18)
  | .startup x _ t => x.all (·.ok) && t.ok
  | .wakeComplete t _ => t.ok
  | _ => true

end Sys2Proof
end

