-- ==== Sys2Proof/Tests/Slice0.lean ====
section
/-! SUPPORT. Small tests, one step each, and for every statement with hypotheses a concrete state and operands that meet them, for
each of its clauses. `witness_<Name>` belongs to `Obligations.<Name>`. -/

namespace Sys2Proof.Tests

open Sys2Proof Sys2Proof.Machine

set_option Elab.async false

/-- A command answers a next state of which `p` holds. -/
def gives (r : Result) (p : State → Bool) : Bool := match r with | .next t => p t | _ => false

/-- A parameter word is set, as written and in force. -/
def wd (s : State) (n w : Nat) : State :=
  { s with written := Sparse.set resetWord s.written n (BitVec.ofNat 32 w)
           force := Sparse.set resetWord s.force n (BitVec.ofNat 32 w) }

/-- A field is set, as written and in force. -/
def fl (s : State) (f : Fld) (v : Nat) (k n : Nat := 0) : State :=
  let m := f.put (2 ^ f.width - 1)
  (s.setWritten (f.num k n) (f.put v) m).setForce (f.num k n) (f.put v) m

/-- A device that has started up, its references and Mints locked, with nothing running. -/
def base : State := { State.reset with
  image := { State.reset.image with phase := .running }
  power := { State.reset.power with railsUp := true, resetN := false }
  mints := Vector.replicate 5 { mode := .locked, gatedPower := false }
  dram := { trained := true }
  barter := { up := true } }

/-- The same in tick 100, with its addresses on the field link. -/
def dev : State := { wd (wd base R.BTR_MAC_LO.base 0x020000A1) R.BTR_IP.base 0x0A000001 with chron := 3200 }

/-- Bytes from numbers. -/
def bytes (l : List Nat) : List Byte := l.map (BitVec.ofNat 8)

/-- The one's complement of the ones' complement sum. -/
def checksum (m : List Byte) : List Byte := beBytes 2 (0xFFFF - onesSum m)

/-- An Ethernet broadcast with an IPv4 packet for `dev` from 10.0.0.9. -/
def ipFrame (proto : Nat) (m : List Byte) : List Byte :=
  let h1 : List Byte := bytes [0x45, 0] ++ beBytes 2 (20 + m.length) ++ bytes [0, 0, 0, 0, 64, proto]
  let h2 : List Byte := bytes [10, 0, 0, 9, 10, 0, 0, 1]
  let f : List Byte := List.replicate 6 0xFF ++ bytes [2, 0, 0, 0, 0, 9, 8, 0] ++ h1 ++ checksum (h1 ++ h2) ++ h2 ++ m
  f ++ List.replicate (60 - f.length) 0

/-- The same with a UDP datagram for port 47742 from port 5000. -/
def udpFrame (p : List Byte) : List Byte :=
  ipFrame 17 (beBytes 2 5000 ++ beBytes 2 47742 ++ beBytes 2 (8 + p.length) ++ [0, 0] ++ p)

/-- A Barter payload: opcode, SEQ, nonce and body, sealed with the key of zeros. -/
def barterPayload (op seq nonce : Nat) (body : List Byte) : List Byte :=
  let p : List Byte := bytes [0x56, 0x72, 1, 0] ++ beBytes 4 seq ++ beBytes 2 op ++ beBytes 2 body.length ++ beBytes 4 nonce ++ body
  p ++ (hmacSha256 (List.replicate 32 0) p).take 8

/-! ## Barter -/

/-- FIPS 180-4: the digest of "abc". -/
theorem test_sha256_abc : sha256 (bytes [0x61, 0x62, 0x63]) = beBytes 32
    0xba7816bf8f01cfea414140de5dae2223b00361a396177a9cb410ff61f20015ad := by decide +kernel

theorem witness_PingAndRenewReply : dev.clerkFree := by decide +kernel

/-- Words of one region that a port may access are all within its reach. -/
theorem covered (s : State) (port d a n : Nat) (hd : d < 32) (k : (s.region d).kind ≠ 0) (m : s.portMay port d = true)
    (l : (s.region d).base ≤ a) (u : a + 16 * n ≤ (s.region d).base + (s.region d).size) :
    ∀ i < n, s.accessOk port (a + 16 * i) = true := by
  intro i hi
  unfold State.accessOk
  rw [List.any_eq_true]
  refine ⟨d, List.mem_range.2 hd, ?_⟩
  simp only [Region.holds, Bool.and_eq_true, bne_iff_ne, decide_eq_true_eq]
  exact ⟨⟨⟨k, by omega⟩, by omega⟩, m⟩

theorem test_ping : gives (exec (.ping []) dev) (fun t => t.barter.reply == bytes [0, 0, 0, 0, 0, 0, 0, 0, 12, 128, 0, 0]) = true := by
  decide +kernel

def ping1 : BarterRequest := { op := 1, seq := 5, flags := 0, trailer := [], body := [], mac := [], ip := [] }
def asked : State := { dev with barter := { dev.barter with queue := [ping1] } }
def sealed : List Byte := (barterPayload 1 5 0 []).drop 16
def resent : State := { dev with barter := { dev.barter with
  kept := [⟨5, sealed, bytes [0x56, 0x72, 1, 4, 0, 0]⟩] } }

theorem witness_RepliesAreKeptAndResent :
    (asked.image.phase = .running ∧ asked.barter.run = none ∧ asked.barter.work = none ∧ asked.ev.expired = none ∧
      asked.barter.queue = [ping1] ∧ ping1.op = 1 ∧ ping1.body = [] ∧ ping1.flags % 2 = 0 ∧
      asked.now ≤ ping1.at_ + 900 * 40000000) ∧
    (let f := udpFrame (barterPayload 1 5 0 [])
     resent.carries f ∧ resent.authentic ((udpOf f).drop 8) = true ∧ resent.barter.kept.find? (fun k => k.seq == beAt
       ((udpOf f).drop 8) 4 4 && k.trailer == (udpOf f).drop ((udpOf f).length - 8) &&
        k.payload != []) = resent.barter.kept.head? ∧ resent.barter.kept.all (fun k => 4 ≤ k.payload.length) = true) := by
  decide +kernel

theorem test_resent : gives (exec (.barterFrameReceived (udpFrame (barterPayload 1 5 0 []))) resent) (fun t =>
    t.tollDue == [] && match t.barter.sent with
      | some (.udp m i p b) => m == bytes [2, 0, 0, 0, 0, 9] && i == bytes [10, 0, 0, 9] && p == 5000 &&
          b.take 6 == bytes [0x56, 0x72, 1, 5, 0, 0] && b.length == 14
      | _ => false) = true := by decide +kernel

def replayed : State := { dev with barter := { dev.barter with hi := 5, seen := [5] } }

theorem witness_FramesAndTheLinkAreAnswered :
    (let f := udpFrame (barterPayload 1 5 0 [])
     dev.carries f ∧ replayed.carries f ∧ dev.authentic ((udpOf f).drop 8) = true ∧ dev.barter.kept = [] ∧
     beAt ((udpOf f).drop 8) 12 4 = dev.barter.nonce ∧ replayed.barter.accepts (beAt ((udpOf f).drop 8) 4 4) = false ∧
     dev.barter.accepts (beAt ((udpOf f).drop 8) 4 4) = true ∧ knownOpcode (beAt ((udpOf f).drop 8) 8 2) = true ∧
     dev.barter.queue.length < 8) ∧
    (let f := udpFrame (List.replicate 24 0)
     dev.carries f ∧ dev.authentic ((udpOf f).drop 8) = false) ∧
    (let f : List Byte := List.replicate 6 0xFF ++ bytes [2, 0, 0, 0, 0, 9, 8, 6, 0, 1, 8, 0, 6, 4, 0, 1] ++
       List.replicate 10 9 ++ List.replicate 6 0 ++ bytes [10, 0, 0, 1] ++ List.replicate 18 0
     dev.macAccepts f = true ∧ beAt f 12 2 = 0x0806 ∧ beAt f 14 8 = 0x0001080006040001 ∧ (f.drop 38).take 4 = dev.ip) ∧
    (let f := ipFrame 1 (bytes [8, 0, 0xF7, 0xFF, 0, 0, 0, 0])
     dev.macAccepts f = true ∧ beAt f 12 2 = 0x0800 ∧ dev.ipAccepts (f.drop 14) = true ∧ beAt f 23 1 = 1 ∧
     8 ≤ (udpOf f).length ∧ (udpOf f).take 2 = [8, 0] ∧
     onesSum (udpOf f) = 0xFFFF) ∧
    (let s := wd dev R.BTR_PLCA.base 1
     s.plcaEnabled = true ∧ s.barter.csma = false ∧ ({ s with barter := { s.barter with csma := true } }).barter.csma = true) := by
  decide +kernel

theorem test_barter_frame :
    gives (exec (.barterFrameReceived (udpFrame (barterPayload 1 5 0 []))) dev) (fun t =>
      t.barter.queue.map (·.seq) == [5] && t.barter.hi == 5 && t.barter.seen == [5] && t.tollDue == []) &&
    gives (exec (.barterFrameReceived (udpFrame (barterPayload 1 5 0 []))) replayed) (fun t => t.tollDue == [(242, 1)]) &&
    gives (exec (.barterFrameReceived (udpFrame (List.replicate 24 0))) dev) (fun t => t.tollDue == [(241, 1)]) = true := by
  decide +kernel

def segs0 : Nat := R.STL_SEGLEN.num 0 0
def on0 : State := { dev with run := [fnStall 0] }

theorem witness_WritesAreJudgedAndItemsTaken :
    (dev.clerkFree ∧ (dev.readValue segs0).isSome = true ∧ dev.running (fnStall 0) = false) ∧
    on0.running (fnStall 0) = true ∧ (2 : Word) ≠ on0.lastWritten segs0 ∧
    (Sparse.wf resetWord dev.written = true ∧ ∀ n ∈ [segs0, R.CRY_LEAD.base], (match locate n with
      | some (r, _, _) => r.plainWrite && r.mask (fun a => a == .lv || a == .sl) != 0 &&
          !r.outOfRange 128 (fun a => a == .lv || a == .sl) && !dev.spanNeedsTally r.base n 128 && r.base != R.CAL_FREEZE.base
      | none => false) = true ∧ dev.running (lockOf n) = false) ∧
    classMask R.CNV_OVR.base (· == .w1c) ≠ 0 := by decide +kernel

theorem test_items :
    gives (exec (.writeParam (bytes [0, 1] ++ beBytes 2 segs0 ++ beBytes 4 128)) dev) (fun t => t.code == .ok &&
      t.lastWritten segs0 == 128 &&
      t.barter.reply == bytes [0, 1, 0, 0] ++ beBytes 2 segs0 ++ bytes [0, 0]) &&
    gives (exec (.readParam (bytes [0, 2] ++ beBytes 2 segs0 ++ beBytes 2 segs0)) dev) (fun t =>
      t.barter.run.map (·.items) == some [(segs0, 0)]) = true := by decide +kernel

theorem test_write_judged :
    gives (exec (.paramWrite (BitVec.ofNat 16 segs0) 128) on0) (fun t => t == (on0.toll 243).answer .stopLocked) &&
    gives (exec (.paramWrite (BitVec.ofNat 16 segs0) 128) dev) (fun t => t.lastWritten segs0 == 128 && t.word segs0 == 64) &&
    gives (exec (.w1cClear (BitVec.ofNat 16 R.CNV_OVR.base) 3) { dev with
      sticky := [(R.CNV_OVR.base, 7)], ev := { sticky := [(R.CNV_OVR.base, 1)] } }) (fun t => t.sticky == [(R.CNV_OVR.base, 5)])
    = true := by decide +kernel

/-- IEEE 802.3: the CRC-32 of "123456789". -/
theorem test_crc32 : crc32 (bytes [49, 50, 51, 52, 53, 54, 55, 56, 57]) = 0xCBF43926 := by decide +kernel

def sieveOn : State := { dev with run := [fnSieve] }

theorem witness_FunctionsStartAndStop :
    (functionIds.contains 0x20 = true ∧ sieveOn.clerkFree ∧ sieveOn.ev.fnMoved = false ∧ dev.ev.fnMoved = false ∧
      sieveOn.running 0x20 = true ∧ dev.running 0x20 = false ∧
      functionIds.contains 0 = true ∧ dev.running 0 = false ∧
      (dev.forceLocked fnSieve).lockedOutOfRange fnSieve = false ∧ sieveOn.hasDependents fnSieve = false) ∧
    (let s : State := { wd dev (R.SIV_CH_CFG.num 0) 1 with run := [fnSieve, fnStall 0] }
     s.clerkFree ∧ s.running fnSieve = true ∧ s.hasDependents fnSieve = true) ∧
    (let s := wd dev (R.SIV_CH_CFG.num 0) 1
     let s1 := s.forceLocked (fnStall 0)
     let u := s1.trialSetup 0
     s.clerkFree ∧ s.running (fnStall 0) = false ∧ (s.stalls[0]).stopping = false ∧
       s1.stallBadParam 0 u (weighersFor ((s1.stalls[0]).chainCost u.rate u.stages)) = false ∧
       s1.depsRun (fnStall 0) = false) := by decide +kernel

/-- A ring of two slots at 0 whose header names segment 0. -/
def ringed : State :=
  let x : Stall := { dev.stalls[0] with
    setup := { ring := true, slotBytes := 256, slots := 2, fmt := 1, units := 64 }, lastSeg := 0 }
  { dev with stalls := dev.stalls.set 0 x, dram := { dev.dram with mem := memWrite [] 0 (bytes [0x53, 0x54]) } }

/-- The same whose last segment is another, with or without FILL. -/
def ringedTo (last : Nat) (fill : Bool) : State := { ringed with stalls := updAt ringed.stalls 0 fun x => { x with
  lastSeg := last, setup := { x.setup with fill := fill } } }

theorem witness_RecordsAndHallAreFetched :
    (ringed.clerkFree ∧ ringed.dram.bad = [] ∧ (ringed.stalls[0]).setup.ring = true ∧ (ringed.stalls[0]).lastSeg = 0) ∧
    (let u := (ringed.stalls[0]).setup
     let slot (q : Nat) : List Byte := memBytes ringed.dram.mem (u.slotAddr q) 64
     (ringed.stalls[0]).closed 0 = true ∧ leAt (slot 0) 0x1E 5 = 0 ∧ (ringed.stalls[0]).closed 1 = false ∧
       leAt (slot 1) 0x1E 5 ≠ 1 ∧ areaBytes u.fmt u.units = 128) ∧
    (let back (s : State) : Nat := ((s.stalls[0]).lastSeg + 1 + 2 ^ 40 - 0) % 2 ^ 40
     let s := ringedTo 1 true
     back ringed < 2 ∧ back (ringedTo 2 false) ≥ ((ringedTo 2 false).stalls[0]).setup.slots ∧
       ((ringedTo 2 false).stalls[0]).setup.fill = false ∧ back s = 2 ∧ (s.stalls[0]).setup.slots = 2 ∧
       (s.stalls[0]).setup.fill = true ∧ (s.stalls[0]).segs = [] ∧ (s.bell 0).bufFrom = none ∧
       leAt (memBytes s.dram.mem (((s.stalls[0]).setup).slotAddr 0) 64) 0x1E 5 = 0) := by decide +kernel

theorem test_fetch :
    gives (exec (.fetchHdr ([0, 2, 0, 0] ++ beBytes 8 0)) ringed) (fun t => (t.barter.reply.take 6) == bytes [1, 0, 0, 0, 0x53, 0x54] &&
      t.barter.reply.length == 68) &&
    gives (exec (.fetchSeg ([0, 0, 0, 0] ++ beBytes 8 0 ++ beBytes 4 127 ++ beBytes 2 9 ++ [0, 0])) (ringedTo 1 true)) (fun t =>
      t.barter.reply == bytes [0, 0, 0, 127, 0, 1, 0, 2, 0]) &&
    gives (exec (.fetchSeg ([0, 0, 0, 0] ++ beBytes 8 0 ++ beBytes 4 0 ++ beBytes 2 9 ++ [0, 0])) (ringedTo 2 false)) (fun t =>
      t.code == .noData) &&
    gives (exec (.fetchTile (bytes [7, 0, 0, 0, 0, 0, 0, 0])) dev) (fun t => t.code == .noData) = true := by decide +kernel

/-- A region of Hall in pages of 4,096 bytes. -/
def region (s : State) (d base size kind owner : Nat) : State :=
  wd (wd s (R.HAL_RGN_BASE.num d) base) (R.HAL_RGN_CFG.num d) (size + kind * 65536 + owner * 524288)

/-- Map 0 runs, 64 x 64 cells at 0; stall 0's ledger lies at 16384, and an overlay of 4,096 bytes at 81920. -/
def mapped : State :=
  let s := region (region (region dev 0 0 4 2 0) 1 4 16 4 0) 2 20 1 3 2
  { wd (wd s (R.STL_MEAS_CTRL.num 0 0) 1) (R.YRD_GEOM.num 0) (64 + 65536) with run := [fnYard 0] }

/-- Its ledger is read, and its map; its snapshot stands beside it. -/
def mapped2 : State := fl (fl (region mapped 3 40 4 2 0) F.YRD_REGION_SNAP_EN 1) F.YRD_REGION_SNAPR 3
/-- The Clerk's work on the last words of a tile of the live map; and on those of the snapshot, of which a new copy has begun. -/
def tileWork (n : Nat) (snap : Bool) : HallWork := {
  req := none, items := (mapped2.tileWords 0 (mapped2.mapBase 0) 3 3).drop (64 - n), out := List.replicate (16 * (64 - n)) 0
  snap := if snap then some 0 else none }
def tiled (n : Nat) : State := { mapped with barter := { mapped.barter with work := some (tileWork n false) } }
def recopied : State := { mapped2 with
  yards := updAt mapped2.yards 0 fun y => { y with copying := true }
  barter := { mapped2.barter with work := some (tileWork 8 true) } }
/-- The bank of the first word of the work has executed an access in the present tick. -/
def tileWaits : State := { tiled 8 with ev := { (tiled 8).ev with banks := [(hallBank (mapped.mapBase 0 + 4 * (62 * 64 + 48)), 17, 0)] } }

theorem witness_HallIsFetched :
    mapped.clerkFree ∧ mapped2.clerkFree ∧ mapped.yardRuns 0 = true ∧ mapped.yardRuns 1 = false ∧ mapped2.yardRuns 0 = true ∧
    mapped2.flag F.YRD_REGION_SNAP_EN 0 = true ∧ (mapped2.yards[(0 : Fin 8)]).copying = false ∧
    mapped.mapCols 0 = 64 ∧ mapped.mapRows 0 = 64 ∧ 16 * 3 < mapped2.mapCols 0 ∧ 16 * 3 < mapped2.mapRows 0 ∧
    (let s : State := { mapped2 with yards := updAt mapped2.yards 0 fun y => { y with copying := true } }
     s.clerkFree ∧ s.yardRuns 0 = true ∧ s.flag F.YRD_REGION_SNAP_EN 0 = true ∧ (s.yards[(0 : Fin 8)]).copying = true ∧
       16 * 3 < s.mapCols 0) := by decide +kernel

theorem witness_workOn :
    (∀ n ∈ [4, 5], (tiled n).barter.work = some (tileWork n false) ∧ (tileWork n false).items.length = n ∧
      (tileWork n false).req = none ∧ (tileWork n false).snap = none ∧ (tileWork n false).bad = false ∧ (tiled n).hallSound ∧
      (tiled n).clerkReaches ((tileWork n false).items.take 4)) ∧
    (recopied.barter.work = some (tileWork 8 true) ∧ (tileWork 8 true).snap = some 0 ∧ (recopied.yards[(0 : Fin 8)]).copying = true ∧
      (tileWork 8 true).req = none) ∧
    (let a := mapped.mapBase 0 + 4 * (62 * 64 + 48)
     (tileWork 8 false).items.head? = some (.read a) ∧ (tileWaits).barter.work = some (tileWork 8 false) ∧
       tileWaits.accessOk 21 a = true ∧ tileWaits.bankFree 21 a = false) := by decide +kernel

theorem witness_work_reads : ∀ x ∈ (tileWork 5 false).items.take 4, ∀ a v, x ≠ .write a v := by
  intro x h a v e
  have : (tileWork 5 false).items.all (fun x => match x with | .read _ => true | _ => false) = true := by decide +kernel
  subst e
  exact absurd (List.all_eq_true.mp this _ (List.mem_of_mem_take h)) (by simp)

theorem test_fetch_tile :
    gives (exec (.fetchTile (bytes [0, 1, 0, 3, 0, 3, 0, 0])) mapped2) (fun t =>
      t.barter.work.map (fun w => (w.items.length, w.out.length, w.snap)) == some (60, 64, some 0)) &&
    gives (exec (.fetchTile (bytes [0, 0, 0, 3, 0, 3, 0, 0])) mapped) (fun t => t.barter.work.map (·.items.length) == some 60) &&
    ((tiled 4).clerkWork.barter.work.isNone && (tiled 4).clerkWork.barter.reply.length == 1024) &&
    (recopied.clerkWork.code == .busyRetry && tileWaits.clerkWork.barter.work == some (tileWork 8 false)) &&
    gives (exec (.fetchTile (bytes [0, 0, 0, 4, 0, 0, 0, 0])) mapped) (fun t => t.code == .range) &&
    gives (exec (.fetchMeas (bytes [0, 0] ++ beBytes 2 4095 ++ bytes [0, 1, 0, 0])) mapped) (fun t => t.code == .ok &&
      t.barter.reply.length == 24) = true := by decide +kernel

theorem memoriesWf_dev : dev.memoriesWf := by decide +kernel

/-- The Clerk's work on `n` words of an overlay. -/
def overlaid (n : Nat) : List (Nat × BitVec 128) := (List.range n).map fun i => (81920 + 16 * i, 7)
def uploading (n : Nat) : State := { mapped with barter := { mapped.barter with
  work := some { req := none, items := (overlaid n).map fun x => .write x.1 x.2 } } }

theorem witness_OverlaysAreUploaded :
    mapped.clerkFree ∧ inOverlay ((List.range 32).map mapped.region) (81920 + 4080) 16 = true ∧
    inOverlay ((List.range 32).map mapped.region) (81920 + 4096) 16 = false ∧
    (∀ n ∈ [4, 5], (uploading n).memoriesWf ∧ overlaid n ≠ [] ∧ (∀ k : Fin 8, ((uploading n).yards[k]).copying = false) ∧
      (uploading n).barter.work = some { req := none, items := (overlaid n).map fun x => .write x.1 x.2 } ∧
      (uploading n).clerkReaches (((overlaid n).take 4).map fun x => .write x.1 x.2)) := by decide +kernel

theorem test_overlay :
    gives (exec (.uploadOverlay (beBytes 4 86000 ++ beBytes 2 16 ++ [0, 0] ++ List.replicate 16 7)) mapped) (fun t =>
      t.code == .ok && memByte t.hall.mem 86015 == 7 && memByte t.hall.mem 86016 == 0) &&
    gives (exec (.uploadOverlay (beBytes 4 81920 ++ beBytes 2 80 ++ [0, 0] ++ List.replicate 80 7)) mapped) (fun t =>
      t.barter.work.map (·.items.length) == some 1 && memByte t.hall.mem 81983 == 7 && memByte t.hall.mem 81984 == 0) = true := by
  decide +kernel

/-- An image of R360 and R361 with its KEYS and BOARD sections and one more, in slot A of a flash of 16 MiB. -/
def imageSection (type : Nat) (b : List Byte) : List Byte :=
  let h : List Byte := leBytes 2 type ++ leBytes 2 0 ++ leBytes 4 b.length ++ leBytes 4 0
  h ++ leBytes 4 (crc32 (h ++ b)) ++ b ++ List.replicate (pad8 b.length - b.length) 0
def image (type : Nat) (b : List Byte) : List Byte :=
  let l : List Byte := imageSection 3 (List.replicate 32 0x4B) ++ imageSection 2 (leBytes 4 0 ++ bytes [46, 44, 34, 32] ++ leBytes 8 0) ++
    imageSection type b
  let h : List Byte := bytes [0x54, 0x59, 0x56, 0x49, 1, 0, 0, 0] ++ leBytes 4 (64 + l.length) ++ leBytes 4 3 ++ List.replicate 44 0
  h ++ leBytes 4 (crc32 h) ++ l
def flashed (l : List Byte) : State := { dev with image := { dev.image with
  dens := 16777216, slot := 1, flash := (l.zipIdx.filter fun x => x.1 != 0xFF).map fun x => (0x10000 + x.2, x.1) } }
def flash1 : State := flashed (image 9 [])

theorem test_image : (match (flash1.checkSlot 0).1 with
    | .ok f => f.length == 64 + 48 + 32 + 16 && f.sections.map (·.type) == [3, 2, 9]
    | .error _ => false) = true := by decide +kernel

theorem test_image_faults :
    (match ((flashed (image 1 [0])).checkSlot 0).1 with | .error n => n | .ok _ => 0) = 7 ∧
    (match ((flashed (image 10 [])).checkSlot 0).1 with | .error n => n | .ok _ => 0) = 5 ∧
    (match ((flashed ((image 9 []).set 5 1)).checkSlot 0).1 with | .error n => n | .ok _ => 0) = 1 := by decide +kernel

theorem witness_FlashIsWritten :
    flash1.clerkFree ∧ flash1.memoriesWf ∧ 256 ≤ flash1.slotLen ∧ flash1.slotLen ≤ 2 ^ 31 ∧ flash1.image.op = none ∧
    flash1.runsFrom 1 = true ∧ flash1.runsFrom 0 = false ∧
    (let op : FlashOp := ⟨flash1.slotAddr 0 + (flash1.slotLen - 1280), List.replicate 1280 0, none⟩
     flash1.flashMites op ≤ mitesPerSec ∧ ({ flash1 with image := { flash1.image with op := some op } } : State).memoriesWf) ∧
    flash1.preferredSlot = 0 ∧ flash1.flashMites ⟨(flash1.commitRecord 1).1, (flash1.commitRecord 1).2, none⟩ ≤ mitesPerSec ∧
    (match flash1.checkSlot 0 with | (.ok _, s) => s == flash1 | _ => false) = true := by decide +kernel

theorem test_image_write :
    gives (exec (.imageWrite (bytes [1, 0, 0, 0] ++ beBytes 4 0 ++ beBytes 2 256 ++ [0, 0] ++ List.replicate 256 0x5A)) (flashed [])) (fun t =>
      t.code == .imageError && t.tollDue == [(251, 1)]) = true := by decide +kernel

theorem test_flash_done :
    let op : FlashOp := ⟨0x11000, [0x5A, 0x5B], none⟩
    gives (exec .flashOperationDone { flashed [] with image := { (flashed []).image with op := some op, flash := [(0x11001, 0)] } }) (fun t =>
      t.code == .ok && t.image.op == none && t.image.flash == [(0x11000, 0x5A), (0x11001, 0x5B)]) = true := by decide +kernel

theorem test_commit : gives (exec (.imageCommit [0, 0, 0, 0]) flash1) (fun t => t.code == .ok && t.image.op == none) = true := by
  decide +kernel

theorem witness_AttentionIsAcknowledged :
    let s : State := { dev with status := { aseq := 5, level := 2, attnNew := true, segReady := true }, ev := { items := [1] } }
    s.clerkFree ∧ s.status.aseq < 2 ^ 16 ∧ (5 : BitVec 16).toNat = s.status.aseq ∧ (6 : BitVec 16).toNat ≠ s.status.aseq ∧
    (0xF : BitVec 16).getLsbD 0 = true ∧ 0 ∉ s.ev.items ∧ 1 ∈ s.ev.items ∧
    gives (exec (.ackAttn (bytes [0, 5, 0, 15])) s) (fun t => t.code == .ok && t.status.level == 0 && !t.status.attnNew &&
      t.status.segReady && t.status.aseq == 5) = true ∧
    gives (exec (.ackAttn (bytes [0, 6, 0, 15])) s) (fun t => t.code == .range && t.status == s.status) = true := by decide +kernel

theorem witness_TollsAreRead : dev.clerkFree ∧ 255 + 1 ≤ 256 ∧
    gives (exec (.tollRead (bytes [0, 255, 0, 1])) { dev with tolls := [(255, 513)], tollDue := [(255, 9)] }) (fun t =>
      t.barter.reply == bytes [0, 255, 0, 1, 0, 0, 2, 1]) = true ∧
    ({ dev with tolls := [(255, 513)] } : State).readValue (0x2800 + 255) = some 513 ∧
    (∀ n : Fin 16, (dev.bell n).obs = []) ∧ dev.ev.past = [] := by decide +kernel

theorem witness_LogsAndDeadlines :
    let s : State := { dev with chron := 900 * 40000000, barter := { dev.barter with queue := [ping1] } }
    dev.clerkFree ∧ 255 < logSize 0 ∧ 63 < logSize 1 ∧ s.barter.queue = [ping1] ∧ s.now ≥ ping1.at_ + 900 * 40000000 ∧
    gives (exec .requestDeadline s) (fun t => t.code == .busyRetry && t.barter.queue == [] && t.tollDue == [(245, 1)]) = true ∧
    gives (exec (.logRead (bytes [0, 0, 0, 255, 0, 1, 0, 0])) dev) (fun t => t.barter.reply.length == 24) = true ∧
    gives (exec (.resetRequest (bytes [0x52, 0x53, 0, 0])) dev) (fun t => t.barter.resetAt == some (3200 + 40000000)) = true := by
  decide +kernel

/-- The Wharf runs with its link up and nothing to send. -/
def wharf0 : State := { dev with run := [fnWharf], wharf := { dev.wharf with link := true } }
def wharf1 : State := { wharf0 with wharf := { wharf0.wharf with
  current := some { cid := 9, kind := 3, port := 7, mac := bytes [1, 2, 3, 4, 5, 6], ip := bytes [10, 0, 0, 9], stop := 4, total := 4096, next := 2 } } }

def consignBody : List Byte := beBytes 4 9 ++ [3, 0] ++ beBytes 2 7 ++ List.replicate 6 1 ++ [0, 0] ++ List.replicate 4 1 ++ List.replicate 24 0

theorem witness_ConsignmentsAreSent :
    (consignBody.length = 44 ∧ (wharf0.consignOf consignBody).bad (beAt consignBody 21 1) = false ∧
      (wharf0.consignOf consignBody).beyond = false ∧ wharf0.ev.linkDown = none) ∧
    wharf0.clerkFree ∧ wharf0.running fnWharf = true ∧ wharf0.wharf.queued = none ∧ wharf0.wharf.link = true ∧
    wharf0.wharf.current = none ∧ ({ wharf0 with wharf := { wharf0.wharf with link := false } } : State).clerkFree ∧
    wharf1.wharf.link = true ∧ (wharf1.wharf.current.map fun c => (c.kind, c.total, c.stop, c.next)) = some (3, 4096, 4, 2) ∧
    wharf1.wharf.queued = none := by decide +kernel

theorem test_consign :
    gives (exec (.consign (beBytes 4 9 ++ [3, 0] ++ beBytes 2 7 ++ List.replicate 6 1 ++ [0, 0] ++ List.replicate 4 1 ++
      List.replicate 24 0)) wharf0) (fun t => t.code == .ok && t.wharf.cid == 9 && t.wharf.current.isSome) &&
    gives (exec .wharfChunk wharf1) (fun t => (t.wharf.current.map (·.next)) == some 3 && t.wharf.last.length == 1040) &&
    gives (exec .wharfLinkLoss wharf1) (fun t => t.wharf.current == none && t.tollDue == [(248, 1)]) = true := by decide +kernel

/-! ## The tally and the launch table -/

/-- Port 0 is a QUAD encoder of 1,000 lines with its filter off and Z in use, and the tally is STILL. -/
def tly0 : State :=
  let s := fl (fl (fl (fl dev F.TLY_TP_MODE_MODE 1) F.TLY_TP_MODE_FILT 0) F.TLY_TP_MODE_Z_EN 1) F.TLY_TP_COUNT_COUNT 4000
  { s with run := [fnTally], tally := { s.tally with mode := .still } }
def tly1 : State := tly0.modPort 0 fun p => { p with lastCount := some 2500 }

theorem witness_EdgesAreRegistered :
    tly0.power.regime ≠ .watch ∧ tly0.filterMites 0 = 0 ∧ tly0.portTracked 0 = true ∧ tly0.portMode 0 = 1 ∧
    (tly1.tally.ports[(0 : Fin 4)]).lastCount = some 2500 ∧ 3299 < 2500 + 800 ∧ 2500 + 800 ≤ 3300 ∧ tly1.portTracked 0 = true ∧
    tly1.portMode 0 = 1 ∧ tly1.filterMites 0 = 0 ∧
    (0 : Fin 4) = tly0.tally.active ∧ tly0.flag F.TLY_TP_MODE_Z_EN 0 = true ∧ (tly0.tally.ports[(0 : Fin 4)]).z = false := by
  decide +kernel

theorem test_edges :
    gives (exec (.tallyCountEdge 0 true false 3300) tly1) (fun t => t.tally.measQ.length == 1 && t.tollDue == [] &&
      ((t.tally.ports[(0 : Fin 4)]).count == 1 || (t.tally.ports[(0 : Fin 4)]).count == -1)) &&
    gives (exec (.tallyCountEdge 0 true false 3299) tly1) (fun t => t.tally.measQ == [] && t.tollDue == [(2, 1)]) &&
    gives (exec (.tallyCountEdge 0 true true 3300) tly1) (fun t => t.tally.measQ == [] && t.tollDue == [(1, 1)]) &&
    gives (exec (.tallyIndex 0 true 3210) tly0) (fun t => t.tally.index == some 3210) = true := by decide +kernel

/-- Port 0 is in UPSTREAM mode, and a measurement of it waits. -/
def meas0 (m : TallyMode) : State :=
  let s := fl dev F.TLY_TP_MODE_MODE 6
  { s with tally := { s.tally with mode := m, measQ := [⟨0, 65536, 3210⟩] } }

theorem witness_MeasurementsMoveTheTally : ∀ m ∈ [TallyMode.still, .tracking, .coasting, .lost, .reacquiring],
    (meas0 m).tally.measQ = [⟨0, 65536, 3210⟩] ∧ (0 : Fin 4) = (meas0 m).tally.active ∧ (meas0 m).portMode 0 = 6 ∧
    (meas0 m).tally.mode = m ∧ (fl (meas0 m) F.TLY_REJOIN_POLICY 1).flag F.TLY_REJOIN_POLICY = true ∧
    (fl (meas0 m) F.TLY_REJOIN_POLICY 0).flag F.TLY_REJOIN_POLICY = false ∧
    (fl (meas0 m) F.TLY_REJOIN_REACQ 4).tally.reacq + 1 < (fl (meas0 m) F.TLY_REJOIN_REACQ 4).val F.TLY_REJOIN_REACQ ∧
    (fl (meas0 m) F.TLY_TP_MODE_MODE 1).portMode 0 ≠ 6 := by decide +kernel

theorem test_measurement :
    gives (exec .tallyMeasurement (meas0 .still)) (fun t => t.tally.mode == .tracking && t.tally.loop == some ⟨0, 65536, 3210⟩) &&
    gives (exec .tallyMeasurement (meas0 .coasting)) (fun t => t.tally.mode == .tracking && t.tollDue == [(5, 1)]) &&
    gives (exec .tallyMeasurement (meas0 .lost)) (fun t => t.tally.mode == .reacquiring && t.tally.reacq == 1) = true := by
  decide +kernel

/-- The tally tracks port 0; its loss interval is over, or the longest coast, or the time after which it is still. -/
def lossy : State :=
  let s := fl (fl tly0 F.TLY_LOSS_FACTOR_FACTOR 16) F.TLY_STILL_TIME_STILL 1
  { s with chron := 4000000000, tally := { s.tally with mode := .tracking, expect := .fixed 100, lastStamp := 3200 } }
def lossyFb : State := (fl (fl (fl lossy F.TLY_SRC_FB_EN 1) F.TLY_SRC_FB_PORT 1) F.TLY_TP_MODE_MODE 1 1).modPort 1 fun p =>
  { p with lastMeas := some 3999999000, prevMeas := some 3999990000 }
def coastLong : State := { lossy with chron := 400000000000000, tally := { lossy.tally with mode := .coasting, coastAt := 3200 } }
def stopped1 : State := { lossy with tally := { lossy.tally with expect := .ramp 0 0 1 } }
def reacq1 : State := { lossy with tally := { lossy.tally with mode := .reacquiring, reacq := 1 } }
def edgy : State := { lossy with tally := { lossy.tally with measured := true } }

theorem witness_TimeoutsMoveTheTally :
    (lossy.tally.mode = .tracking ∧ lossy.tallyClock = false ∧ lossy.edgeInTick = false ∧ lossy.lossDue = true ∧
      lossy.fallbackPort = none) ∧
    (lossyFb.tally.mode = .tracking ∧ lossyFb.tallyClock = false ∧ lossyFb.edgeInTick = false ∧ lossyFb.lossDue = true ∧
      lossyFb.fallbackPort = some 1 ∧ lossyFb.tally.onFb = false ∧ lossyFb.portTracking 1 = true) ∧
    (coastLong.tally.mode = .coasting ∧ coastLong.edgeInTick = false ∧
      coastLong.reached (coastLong.tally.coastAt + tallyTimeMites (coastLong.val F.TLY_COAST_MAX_CMAX)) = true) ∧
    (stopped1.tally.mode = .tracking ∧ stopped1.edgeInTick = false ∧ stopped1.stillDue = true ∧ stopped1.tallyClock = false ∧
      stopped1.tally.expect.unbounded = true) ∧
    (reacq1.tally.mode = .reacquiring ∧ reacq1.edgeInTick = false ∧ reacq1.stillDue = true) ∧ edgy.edgeInTick = true ∧
    ({ lossy with ev := { timeout := some (edgy.tally, [3]) } } : State).ev.timeout.isSome = true := by
  decide +kernel

theorem test_timeouts :
    gives (exec .lossIntervalExpiry lossy) (fun t => t.tally.mode == .coasting && t.tollDue == [(3, 1)]) &&
    gives (exec .lossIntervalExpiry lossyFb) (fun t => t.tally.mode == .tracking && t.tally.active == 1 &&
      t.tollDue == [(5, 1), (7, 1)]) &&
    gives (exec .coastMaxExpiry coastLong) (fun t => t.tally.mode == .lost && t.tollDue == [(4, 1)]) &&
    gives (exec .stillTimeExpiry stopped1) (fun t => t.tally.mode == .still) &&
    gives (exec .stillTimeExpiry reacq1) (fun t => t.tally.mode == .lost && t.tollDue == [(4, 1)]) = true := by decide +kernel

theorem test_snapshots :
    gives (exec .tallySnapRead { dev with chron := 2 ^ 32 + 64, tally := { dev.tally with pos := 65536 * 2 ^ 33 } }) (fun t =>
      t.tally.snapPhi == 2 && t.tally.snapChi == 1 && t.tally.snapClo == 64) &&
    gives (exec .chronRead { dev with chron := 2 ^ 64 + 2 ^ 33 }) (fun t => t.refs.chronHi == 2 && t.refs.chronEra == 1) = true := by
  decide +kernel

/-- Slot 5 is armed for chronicle 3231, the last mite of the present tick; a TOUT pulse is due and another ends. -/
def slotted : State := { dev with
  slots := updAt dev.slots 5 fun x => { x with armed := true, latched := ⟨3231, 0, true⟩ }
  trigOut := updAt (updAt dev.trigOut 0 fun x => { x with rises := [3231] }) 1 fun x => { x with level := true, fall := some 3231 } }

/-- Slot 6 is armed for a position that the tally crosses in the tick. -/
def crossed : State := { dev with
  slots := updAt dev.slots 6 fun x => { x with armed := true, latched := ⟨3, 0, false⟩, prev := 0 }
  tally := { dev.tally with mode := .tracking, pos := 0, spd := 32 * 65536 } }

theorem witness_SlotsAreArmedAndFire :
    ((crossed.slots[(6 : Fin 64)]).armed = true ∧ (crossed.slots[(6 : Fin 64)]).test = false ∧
      (crossed.slots[(6 : Fin 64)]).latched.chron = false ∧ crossed.broadcast.fires = true ∧
      tallyCrossing crossed.broadcast crossed.tickLen (crossed.slots[(6 : Fin 64)]).latched
        (crossed.slots[(6 : Fin 64)]).prev = some ⟨3203, none⟩) ∧
    (({ dev with slots := updAt dev.slots 5 fun x => { x with arming := some ⟨9, 0, true⟩ } } : State).slots[(5 : Fin 64)]).arming =
      some ⟨9, 0, true⟩ ∧
    (let d (w : Word) := F.TLY_LS_CTRL_DIR.get w
     d (F.TLY_LS_CTRL_DIR.put 3) = 3 ∧ d (F.TLY_LS_CTRL_BASE.put 1) ≠ 3 ∧ F.TLY_LS_CTRL_BASE.get (F.TLY_LS_CTRL_BASE.put 1) = 1 ∧
     decide ((dev.val F.TLY_LATE_MITES_MSPAN : Int) < dev.targetAge (dev.slotTarget 5)) = false) ∧
    (let s := fl (wd { dev with chron := 2 ^ 40 } (R.TLY_LS_TLO.num 5) 1) F.TLY_LATE_MITES_MSPAN 64
     decide ((s.val F.TLY_LATE_MITES_MSPAN : Int) < s.targetAge (s.slotTarget 5)) = true) ∧
    ((slotted.slots[(5 : Fin 64)]).armed = true ∧ (slotted.slots[(5 : Fin 64)]).test = false ∧
      (slotted.slots[(5 : Fin 64)]).latched.chron = true ∧ 31 < slotted.tickLen ∧
      (slotted.slots[(5 : Fin 64)]).latched.target.toNat = (slotted.now + 31) % 2 ^ 64) ∧
    (slotted.slots[(4 : Fin 64)]).armed = false ∧ (slotted.trigOut[(0 : Fin 4)]).rises = [3231] ∧
    3231 < slotted.now + slotted.tickLen ∧ (slotted.trigOut[(1 : Fin 4)]).fall = some 3231 := by decide +kernel

theorem test_slots :
    gives (exec (.launchArm 5 (F.TLY_LS_CTRL_DIR.put 3)) dev) (fun t => t.code == .range && t.tollDue == [(243, 1)]) &&
    gives (exec (.launchArm 5 (F.TLY_LS_CTRL_BASE.put 1 ||| F.TLY_LS_CTRL_ARM.put 1)) dev) (fun t => t.code == .ok &&
      (t.slots[(5 : Fin 64)]).arming == some ⟨0, 0, true⟩) &&
    gives (exec (.launchSlotFire 5) slotted) (fun t => t.acts.map (fun a => (a.instant, a.due, a.late)) == [(3231, 3232, false)] &&
      (t.slots[(5 : Fin 64)]).fired) &&
    gives (exec (.toutPulseRise 0) slotted) (fun t => (t.trigOut[(0 : Fin 4)]).fall == some (3231 + 512)) = true := by decide +kernel

/-! ## Hall, the Steelyard, the Sieve and the Signboard -/

theorem witness_HallAccessesAndErrors :
    mapped.memoriesWf ∧ mapped.hallSound ∧ mapped.accessOk 16 16383 = true ∧ mapped.accessOk 16 16384 = false ∧
    mapped.bankFree 16 16383 = true ∧ (∀ k : Fin 8, (mapped.yards[k]).copying = false) ∧
    (mapped.takeBank 16 16383).accessOk 16 16383 = true ∧ (mapped.takeBank 16 16383).bankFree 16 16383 = false := by
  decide +kernel

theorem test_hall :
    gives (exec (.hallWrite 16 16 true false (2 ^ 64 + 0x0201)) mapped) (fun t => memBytes t.hall.mem 16 2 == [1, 2] &&
      memNat t.hall.mem 24 8 == 0 && t.hall.answer.due == 3200 + 192) &&
    gives (exec (.add32Saturating 16 16 5 (Vector.replicate 4 (2 ^ 32 - 1)) true .clean .clean) { mapped with hall := { mapped.hall with
      mem := [(16, 1)] } }) (fun t => memNat t.hall.mem 16 4 == 2 ^ 32 - 1 && memNat t.hall.mem 24 4 == 2 ^ 32 - 1 &&
      t.hall.answer.sat == 1 && t.hall.answer.word == 1) &&
    gives (exec (.hallRead 16 16384 .clean .clean) mapped) (fun t => t.hall.answer.error && t.tollDue == [(162, 1)] &&
      t.log.due.length == 1) = true := by decide +kernel

theorem test_atomics :
    gives (exec (.add32Wrapping 16 0 1 (Vector.replicate 4 (2 ^ 32 - 1)) false .clean .clean) { mapped with hall := { mapped.hall with
      mem := [(0, 2)] } }) (fun t => memNat t.hall.mem 0 4 == 1) &&
    gives (exec (.swap32 16 0 8 (Vector.replicate 4 9) .clean .clean) mapped) (fun t => memNat t.hall.mem 12 4 == 9) &&
    gives (exec (.swap64 16 0 false true (Vector.replicate 2 9) .clean .clean) mapped) (fun t => memNat t.hall.mem 8 8 == 9 &&
      memNat t.hall.mem 0 8 == 0) = true := by decide +kernel

def scrub (word start : Nat) (on late : Bool) : State := { dev with hall := { dev.hall with
  scrubWord := word, scrubStart := start, scrubOn := on, scrubLate := late, scrubPeriod := 0 } }

theorem witness_ScrubsFreezesAndRequests :
    ((scrub (2 ^ 23 - 2) 0 true false).hall.scrubOn = true ∧ (∀ w ∈ [2 ^ 23 - 2, 2 ^ 23 - 1], (scrub w 0 true false).hallSound) ∧
      (scrub (2 ^ 23 - 2) 0 true false).hall.scrubWord + 1 < 2 ^ 23 ∧ (scrub (2 ^ 23 - 1) 0 true false).hall.scrubWord + 1 = 2 ^ 23 ∧
      (scrub 5 3231 false false).now + 32 > 3231 ∧
      (∀ w ∈ [2 ^ 23 - 2, 2 ^ 23 - 1], (scrub w 0 true false).backgroundMay 24 (16 * w) = true)) ∧
    (on0.hallUsers = true ∧ dev.hallUsers = false ∧ (1 : Word) &&& ~~~(on0.lastWritten (R.HAL_FREEZE.num 7)) ≠ 0 ∧
      (0 : Word) &&& ~~~(on0.lastWritten (R.HAL_FREEZE.num 7)) = 0) ∧
    ((1 : Word) &&& 0xFF &&& ~~~(on0.lastWritten R.ARB_DFREEZE.base) ≠ 0 ∧
      (0x100 : Word) &&& 0xFF &&& ~~~(on0.lastWritten R.ARB_DFREEZE.base) = 0) ∧
    (on0.anyStall = true ∧ dev.anyStall = false) ∧
    (dev.ev.presented = [] ∧ 0 < portWidth 25 ∧ 0 < portWidth 0 ∧ ∀ b, (dev.dram.subs[subOf 263]).sr ≠ .entering b) := by
  decide +kernel

theorem test_requests :
    gives (exec (.scrubStep .clean .clean) (scrub (2 ^ 23 - 1) 0 true false)) (fun t => !t.hall.scrubOn && t.hall.scrubPasses == 1) &&
    gives (exec (.hallRequest 255 25 false [4080, 8176] false) dev) (fun t => (t.arb 255).live == [⟨25, false, 2, false, [4080, 8176]⟩]) &&
    gives (exec (.hallRequest 263 3 true [448] false) dev) (fun t => (t.arb 263).live == [⟨3, true, 1, false, [448]⟩]) &&
    gives (exec (.hallRequest 268 23 true [0] false) dev) (fun t => (t.arb 268).live == [⟨23, true, 1, false, [0]⟩]) &&
    gives (exec (.hallFreezeWrite 7 1) on0) (fun t => t.code == .stopLocked && t.tollDue == [(168, 1), (243, 1)]) = true := by
  decide +kernel

def yard0 (y : Yard) : State := { wd (fl mapped F.YRD_REGION_SNAP_EN 1) (R.YRD_DECAY.num 0) (3 + 65536) with
  yards := mapped.yards.set 0 y, hall := { mapped.hall with mem := [(0, 9), (4, 8), (16383, 1), (16384, 5)] } }

/-- The same with its snapshot beside it. -/
def yard1 (y : Yard) : State := { yard0 y with written := mapped2.written, force := mapped2.force }

theorem witness_quiet : (∀ i < (yard1 {}).mapWords 0, (yard1 {}).accessOk 16 ((yard1 {}).mapBase 0 + 16 * i) = true) ∧
    ∀ i < (yard1 {}).mapWords 0, (yard1 {}).accessOk 16 ((yard1 {}).snapBase 0 + 16 * i) = true :=
  ⟨covered _ 16 0 _ _ (by decide) (by decide +kernel) (by decide +kernel) (by decide +kernel) (by decide +kernel),
    covered _ 16 3 _ _ (by decide) (by decide +kernel) (by decide +kernel) (by decide +kernel) (by decide +kernel)⟩

theorem witness_MapsAreClearedAndSnapped :
    (∀ a ∈ [1023, 1024], let s := yard1 { clearing := true, clearAt := a }
     (s.yards[(0 : Fin 8)]).clearing = true ∧ s.mapWords 0 = 1024 ∧ s.memoriesWf ∧ s.hallSound ∧
       ∀ j : Fin 8, (s.yards[j]).copying = false) ∧
    (mapped.yardRuns 0 && mapped.flag F.YRD_REGION_SNAP_EN 0) = false ∧
    ((yard1 {}).yardRuns 0 = true ∧ (yard1 {}).flag F.YRD_REGION_SNAP_EN 0 = true) ∧
    (∀ a ∈ [1023, 1024], let s := yard1 { copying := true, copyAt := a }
     (s.yards[(0 : Fin 8)]).copying = true ∧ (s.yards[(0 : Fin 8)]).copyAt = a ∧ s.mapWords 0 = 1024 ∧ s.memoriesWf ∧ s.hallSound ∧
       1023 ∉ (s.yards[(0 : Fin 8)]).copied ∧ (s.yards[(0 : Fin 8)]).owed = []) ∧
    (∃ x ∈ ((yard1 { copying := true, copyAt := 1024, owed := [(3392, .store 163840 0)] }).yards[(0 : Fin 8)]).owed,
      x.2.isStore = true) := by decide +kernel

theorem test_clear :
    gives (exec (.clearDone 0) (yard0 { clearing := true, clearAt := 1024 })) (fun t => !(t.yards[(0 : Fin 8)]).clearing) &&
    ((yard0 { clearing := true }).visitClear 0 1023).hall.mem == [(0, 9), (4, 8), (16384, 5)] &&
    ((yard1 { copying := true }).visitCopy 0 0).yards[(0 : Fin 8)].owed == [(3200 + 192, .store 163840 (9 + 8 * 2 ^ 32))] &&
    memNat ((yard1 {}).makeOwed (.store 163840 (9 + 8 * 2 ^ 32))).hall.mem 163844 4 == 8 &&
    gives (exec (.yardSnap 0) (yard0 {})) (fun t => (t.yards[(0 : Fin 8)]).snapDue) &&
    gives (exec (.yardSnap 0) mapped) (fun t => t.tollDue == [(149, 1)]) = true := by decide +kernel

/-- A run of stall 0 for map 0 waits. -/
def adding : State := { yard0 {} with stalls := updAt dev.stalls 0 fun x => { x with
  runs := [⟨0, 0, [(16, 3), (32, 15), (48, 8), (64, 1), (80, 2)]⟩] } }

theorem witness_RunsAreAddedAndDecay :
    (let s := yard0 { periodAt := 3231 }
     s.yardRuns 0 = true ∧ s.reached (s.yards[(0 : Fin 8)]).periodAt = true ∧ s.wval F.YRD_DECAY_K 0 ≠ 0 ∧
       Sparse.wf resetWord s.force = true) ∧
    (∀ a ∈ [1023, 1024], let s := yard0 { sweeping := true, sweepK := 3, sweepAt := a }
     (s.yards[(0 : Fin 8)]).sweeping = true ∧ s.ev.yardSkip = [] ∧ s.mapWords 0 = 1024 ∧ (s.yards[(0 : Fin 8)]).owed = [] ∧ s.memoriesWf ∧
       s.hallSound ∧ ∀ j : Fin 8, (s.yards[j]).copying = false) ∧
    (∃ x ∈ ((yard0 { sweeping := true, sweepAt := 1024, owed := [(3392, .lower 0 [2, 1, 0, 0])] }).yards[(0 : Fin 8)]).owed,
      x.2.isStore = false) ∧
    (let now := [(16, 3), (32, 15), (48, 8), (64, 1)]
     (adding.stalls[(0 : Fin 16)]).runs.map (fun r => r.adds.take 4) = [now] ∧ adding.yardTooFast 0 = false ∧
       (adding.yards[(0 : Fin 8)]).adds = [] ∧ adding.memoriesWf ∧ adding.hallSound ∧ (∀ j : Fin 8, (adding.yards[j]).copying = false) ∧
       adding.ev.banks = [] ∧ (now.map fun p => hallBank p.1).Nodup ∧ Sparse.wf (fun _ => ({} : Arbiter)) adding.hall.arbs = true ∧
       ∀ p ∈ now, p.1 % 16 = 0 ∧ p.2 < 16 ∧ adding.accessOk 16 p.1 = true ∧ adding.bankFree 16 p.1 = true) := by decide +kernel

theorem witness_sweep : ∀ i < (yard0 {}).mapWords 0, (yard0 {}).accessOk 16 ((yard0 {}).mapBase 0 + 16 * i) = true :=
  covered _ 16 0 _ _ (by decide) (by decide +kernel) (by decide +kernel) (by decide +kernel) (by decide +kernel)

theorem test_decay :
    ((yard0 { sweeping := true, sweepK := 3 }).visitSweep 0 0).yards[(0 : Fin 8)].owed == [(3200 + 192, .lower 0 [2, 1, 0, 0])] &&
    ((yard0 {}).makeOwed (.lower 0 [2, 1, 0, 0])).hall.mem == [(0, 7), (4, 7), (16383, 1), (16384, 5)] &&
    gives (exec (.decaySweepDone 0) (yard0 { sweeping := true, sweepAt := 1024 })) (fun t => !(t.yards[(0 : Fin 8)]).sweeping) &&
    gives (exec (.yardRunAdd 0) adding) (fun t => memNat t.hall.mem 16 4 == 1 && memNat t.hall.mem 20 4 == 1 &&
      memNat t.hall.mem 24 4 == 0 && memNat t.hall.mem 84 4 == 0 && (t.stalls[(0 : Fin 16)]).runs == [] &&
      (t.yards[(0 : Fin 8)]).adds == [(80, 2)]) = true := by decide +kernel

/-- Channel 2 has one section with b0 = 1/2 and a1 = 1/4, and an input of 1,000. -/
def sieving : State :=
  let s := fl (fl (fl dev F.SIV_CH_CFG_K 1 2) F.SIV_CH_CFG_MEDIAN 0 2) F.SIV_CH_CFG_OSHIFT 0 2
  { s with sieve := { s.sieve with
      inputs := [(2, { lo := 1000, hi := 1000 }, 3168)]
      coefs := Sparse.set coefReset (Sparse.set coefReset s.sieve.coefs 512 (2 ^ 28)) 515 (2 ^ 27) } }
/-- Channel 2, whose stall's staging lies at 98304, has staged `n` outputs, and one more is due. -/
def outs (n : Nat) : State := { region dev 4 24 1 1 2 with sieve := { dev.sieve with
  outputs := [(3231, 2, { lo := 5 })], chans := updAt dev.sieve.chans 2 fun c => { c with staged := n } } }

theorem witness_SamplesAreFilteredAndReleased :
    (sieving.sieve.inputs = [(2, { lo := 1000, hi := 1000 }, 3168)] ∧ sieving.inputHeld 2 { lo := 1000, hi := 1000 } = false ∧
      sieving.beginsBy 2 { lo := 1000, hi := 1000 } = none ∧ sieving.flag F.SIV_CH_CFG_MEDIAN 2 = false ∧
        sieving.val F.SIV_CH_CFG_K 2 = 1 ∧
      (sieving.sieve.chans[(2 : Fin 16)]).resets = [] ∧ (sieving.sieve.chans[(2 : Fin 16)]).request = none ∧
      (sieving.sieve.chans[(2 : Fin 16)]).queued = none ∧ (sieving.sieve.chans[(2 : Fin 16)]).fade = none ∧
      (sieving.sieve.chans[(2 : Fin 16)]).force = false ∧ (fl sieving F.SIV_CH_CFG_K 16 2).val F.SIV_CH_CFG_K 2 = 16 ∧
      (fl sieving F.SIV_CH_CFG_K 16 2).inputHeld 2 { lo := 1000, hi := 1000 } = false ∧
      (fl sieving F.SIV_CH_CFG_K 16 2).beginsBy 2 { lo := 1000, hi := 1000 } = none) ∧
    (∀ n, (outs n).sieve.outputs = [(3231, 2, { lo := 5 })] ∧ ((outs n).sieve.chans[(2 : Fin 16)]).staged = n ∧
      3231 < (outs n).now + (outs n).tickLen ∧ (outs n).sieve.inputs = []) ∧
    ((List.range 32).find? fun r => ((outs 7).region r).kind == 1 && ((outs 7).region r).owner == (2 : Fin 16).val) = some 4 := by
  refine ⟨by decide +kernel, fun n => ⟨rfl, rfl, ?_, rfl⟩, by decide +kernel⟩
  change 3231 < (outs 0).now + (outs 0).tickLen
  decide +kernel

theorem test_sieve :
    gives (exec .sieveInput sieving) (fun t => t.sieve.inputs == [] && t.sieve.outputs.map (fun o => (o.2.1, o.2.2.lo)) == [(2, 500)] &&
      ((t.sieve.chans[(2 : Fin 16)]).bankA[(0 : Fin 16)]).1 == -32000) &&
    gives (exec .sieveOutputRelease (outs 6)) (fun t => t.sieve.outputs == [] && (t.stalls[(2 : Fin 16)]).kept.length == 1 &&
      t.hall == dev.hall) &&
    gives (exec .sieveOutputRelease (outs 7)) (fun t => (t.arb (hallBank 98304)).live == [⟨20, false, 1, false, [98304]⟩]) = true := by
  decide +kernel

def fading : State := { dev with sieve := { dev.sieve with chans := updAt dev.sieve.chans 3 fun c => { c with fade := some (64, 1) } } }
def queuing : State := { dev with sieve := { dev.sieve with chans := updAt dev.sieve.chans 3 fun c => { c with queued := some true } } }
def sieveUsed : State :=
  let s := fl (fl dev F.SIV_CH_CFG_K 1 0) F.SIV_WIN_ADDR_ADDR 0
  { s with run := [fnSieve, fnStall 0], stalls := updAt s.stalls 0 fun x => { x with
      mode := .running, setup := { x.setup with sieve := true } } }

theorem witness_BanksAndCoefficients :
    (dev.sieve.inputs = [] ∧ (fl dev F.SIV_CH_CFG_MEDIAN 1 3).flag F.SIV_CH_CFG_MEDIAN 3 = true ∧ dev.flag F.SIV_CH_CFG_MEDIAN 3 = false ∧
      (dev.sieve.chans[(3 : Fin 16)]).fade = none ∧ fading.sieve.inputs = [] ∧ fading.flag F.SIV_CH_CFG_MEDIAN 3 = false ∧
      (fading.sieve.chans[(3 : Fin 16)]).fade.isSome = true ∧
      (let c := (queuing.sieve.chans[(3 : Fin 16)])
       c.fade = none ∧ c.queued.isSome = true ∧ true ≠ c.force) ∧ (dev.sieve.chans[(3 : Fin 16)]).queued = none ∧
         queuing.sieve.inputs = []) ∧
    (sieveUsed.sieve.inputs = [] ∧ sieveUsed.bankInUse 0 false = true ∧ dev.bankInUse 15 true = false ∧ dev.swapsNow 15 true = false ∧
      (fl dev F.SIV_WIN_ADDR_ADDR 4092).val F.SIV_WIN_ADDR_ADDR % 8 ≤ 4 ∧
      (fl dev F.SIV_WIN_ADDR_ADDR 4092).bankInUse (Fin.ofNat 16 (4092 / 256)) (4092 / 128 % 2 == 1) = false ∧
      (fl dev F.SIV_WIN_ADDR_ADDR 4092).swapsNow (Fin.ofNat 16 (4092 / 256)) (4092 / 128 % 2 == 1) = false) := by decide +kernel

theorem test_bank :
    gives (exec (.bankRequest 3 1) dev) (fun t => (t.sieve.chans[(3 : Fin 16)]).request == some (true, 3200)) &&
    gives (exec (.bankRequest 3 1) fading) (fun t => (t.sieve.chans[(3 : Fin 16)]).queued == some true) &&
    gives (exec (.sieveWindowAccess (some 7)) (fl dev F.SIV_WIN_ADDR_ADDR 4092)) (fun t =>
      Sparse.get coefReset t.sieve.coefs 4092 == 7) &&
    gives (exec (.sieveWindowAccess (some 7)) sieveUsed) (fun t => t.code == .stopLocked &&
      t.tollDue == [(131, 1), (243, 1)]) = true := by
  decide +kernel

/-- The Signboard runs with the layer group pending. -/
def signing : State := { fl dev F.SGN_VACT_VACT 4 with
  run := [fnSignboard], sign := { dev.sign with pending := [4], pendWords := [(R.SGN_LAYERS.num, F.SGN_LAYERS_EN.put 2)] } }
def signing0 : State := { signing with sign := { signing.sign with pending := [], pendWords := [] } }
/-- A latch has been registered in the tick. -/
def latched1 : State := { dev with ev := { latched := true } }
/-- A pixel bit of panel line 3 on link 0, and the DE that goes with it. -/
def pixelFlip : PadFlip := ⟨0, 0, 0, 3⟩
def deFlip : PadFlip := ⟨2, 6, 0, 3⟩
def filling (slots : Nat) : State := { dev with
  sign := { dev.sign with fill := some { stall := 0, number := 0 } }
  stalls := updAt dev.stalls 0 fun x => { x with setup := { x.setup with slots := slots, units := 4 }, lastSeg := 0 } }

theorem witness_SignboardFlipsAndFills :
    (let gs (w : Word) : List (Fin 5) := (List.finRange 5).filter fun g => (F.SGN_COMMIT_GROUPS.get w).testBit g
     F.SGN_COMMIT_GROUPS.get 0 = 0 ∧ gs (F.SGN_COMMIT_GROUPS.put 16) = [4] ∧ dev.commitBad [4] = false ∧ 4 ∉ dev.sign.pending ∧
       4 ∈ signing.sign.pending ∧ gs (F.SGN_COMMIT_GROUPS.put 1) = [0] ∧ dev.commitBad [0] = true ∧ dev.ev.latched = false ∧
       latched1.ev.latched = true ∧ latched1.commitBad [4] = false) ∧
    (lvdsBit (signing.flag F.SGN_CTRL_MAP) pixelFlip.pair pixelFlip.slot = .colour 0 0 ∧
      pixelFlip.cycle.val < signing.val F.SGN_HACT_HACT ∧
      pixelFlip.line.val < signing.panelHeight) ∧
    dev.running fnSignboard = false ∧
    (∀ s ∈ [signing, signing0], s.running fnSignboard = true ∧ s.flag F.SGN_LAYERS_ECRC_EN = false ∧ s.sign.fill = none ∧
      s.sign.fetchErr = false ∧ s.panelHeight = 4 ∧
      ∀ y < s.panelHeight, s.errorWords (s.mapWordsOf y) = [] ∧ s.errorWords (s.plotWordsOf y) = [] ∧
        s.errorWords (s.overlayWordsOf y) = []) ∧
    (∀ n ∈ [1, 2], (filling n).sign.fill = some { stall := 0, number := 0 } ∧ (filling n).dram.bad = [] ∧ (filling n).memoriesWf ∧
      (filling n).ev.fillLost = none) ∧
    (filling 1).overwritten 0 0 = true ∧ (filling 2).overwritten 0 0 = false := by decide +kernel

theorem test_sign :
    gives (exec (.sgnCommit (F.SGN_COMMIT_GROUPS.put 16)) dev) (fun t => t.sign.pending == [4]) &&
    gives (exec (.sgnCommit (F.SGN_COMMIT_GROUPS.put 16)) signing) (fun t => t.tollDue == [(227, 1)]) &&
    gives (exec (.sgnCommit (F.SGN_COMMIT_GROUPS.put 1)) dev) (fun t => t.code == .badParam && t.sign == dev.sign) &&
    gives (exec (.sgnCommit (F.SGN_COMMIT_GROUPS.put 16)) latched1) (fun t => t.sign.pending == [] && t.sign.flipChron == 3200) &&
    gives (exec (.signboardLatch [] [] [pixelFlip] []) signing) (fun t => t.sign.pending == [] && t.sign.flipChron == 3200 &&
      t.word R.SGN_LAYERS.num == F.SGN_LAYERS_EN.put 2 && t.sign.frame == 1 && t.sign.flipFrame == 1 && t.tollDue == [(225, 1)]) &&
    signing.readBackDiffers [] [deFlip] &&
    gives (exec .l1FillDone (filling 1)) (fun t => t.sign.fill == none && t.tollDue == [(229, 1)]) = true := by decide +kernel

theorem test_palette :
    gives (exec (.paletteWindowAccess (some 0xFF112233)) (fl dev F.SGN_PAL_ADDR_ADDR 255)) (fun t =>
      Sparse.get (fun _ => 0) t.sign.palette 255 == 0x112233 && t.val F.SGN_PAL_ADDR_ADDR == 256) = true := by decide +kernel

/-! ## The Mints, the converters, their calibration and the auxiliary converter -/

def minted (m : Fin 5) (x : Mint) : State := { fl dev F.MNT_REF_AUTO 0 with
  mints := dev.mints.set m x, refs := { dev.refs with refPresent := true, refOk := true } }

/-- A Mint that has settled, 1,024 reference periods after zero. -/
def settled1 (m : Fin 5) (holding : Bool) (now : Nat) : State := { minted m { mode := .pulling, settled := true } with
  chron := BitVec.ofNat 80 now, refs := { holding := holding, holdStart := 5 } }

theorem witness_MintsAndReferences :
    (∀ m ∈ [(4 : Fin 5), 1], let s := minted m { mode := .stopped, ran := true, dco := ⟨7, 0⟩, gatedPower := false }
     (s.mints[m]).mode = .stopped ∧ s.mintAllowed m = true) ∧
    (minted 4 { mode := .locked } : State).mints[(4 : Fin 5)].mode ≠ .stopped ∧
    ((settled1 4 false 409568).now + (settled1 4 false 409568).tickLen ≤ ((settled1 4 false 409568).mints[(4 : Fin 5)]).zeroAt + 1024 * 400) ∧
    (∀ x ∈ [((4 : Fin 5), false), (4, true), (1, false), (1, true)], let s := settled1 x.1 x.2 409569
     (s.mints[x.1]).mode = .pulling ∧ (s.mints[x.1]).settled = true ∧ (s.mints[x.1]).zeroAt + 1024 * 400 < s.now + s.tickLen ∧
       s.refs.holding = x.2) ∧
    (minted 4 {} : State).mints[(4 : Fin 5)].settled = false ∧
    (let s : State := { dev with mints := Vector.replicate 5 { mode := .locked } }
     s.ev.refLost = none ∧ s.ev.refQualified = [] ∧ s.flag F.MNT_REF_SEL = false ∧ (fl s F.MNT_REF_AUTO 0).flag F.MNT_REF_SEL = false ∧
       (fl s F.MNT_REF_AUTO 0).flag F.MNT_REF_AUTO = false ∧ ∀ m : Fin 5, (s.mints[m]).mode = .locked) ∧
    (let mask := R.MNT_REF.mask (· == .lv)
     let s1 (s : State) (w : Word) : State := ((s.setWritten R.MNT_REF.base w mask).setForce R.MNT_REF.base w mask).answer .ok
     let other : State := { dev with refs := { dev.refs with cp0Present := true, cp0Ok := true } }
     (s1 dev 0).flag F.MNT_REF_AUTO = false ∧ (s1 dev 0).flag F.MNT_REF_SEL = dev.flag F.MNT_REF_SEL ∧
       (s1 other (F.MNT_REF_SEL.put 1)).flag F.MNT_REF_AUTO = false ∧
       (s1 other (F.MNT_REF_SEL.put 1)).flag F.MNT_REF_SEL ≠ other.flag F.MNT_REF_SEL ∧
       (s1 other (F.MNT_REF_SEL.put 1)).selectedOk = true ∧ (s1 dev (F.MNT_REF_SEL.put 1)).flag F.MNT_REF_AUTO = false ∧
       (s1 dev (F.MNT_REF_SEL.put 1)).flag F.MNT_REF_SEL ≠ dev.flag F.MNT_REF_SEL ∧
       (s1 dev (F.MNT_REF_SEL.put 1)).selectedOk = false) := by decide +kernel

def pulling (at_ : Nat) : State := minted 4 { mode := .pulling, pullAt := at_ }

theorem witness_pulling :
    (∀ at_ ∈ [3231, 3232], ((pulling at_).mints[(4 : Fin 5)]).mode = .pulling ∧ ((pulling at_).mints[(4 : Fin 5)]).settled = false) ∧
    ((pulling 3231).mints[(4 : Fin 5)]).pullAt + ((pulling 3231).mints[(4 : Fin 5)]).pullMites 4 {} <
      ((pulling 3231).now + (pulling 3231).tickLen : Nat) ∧
    ((pulling 3232).now + (pulling 3232).tickLen : Nat) ≤
      ((pulling 3232).mints[(4 : Fin 5)]).pullAt + ((pulling 3232).mints[(4 : Fin 5)]).pullMites 4 {} := by
  have e : ∀ at_ : Nat, ((pulling at_).mints[(4 : Fin 5)]) = { mode := .pulling, pullAt := at_ } := fun at_ => rfl
  have z : ∀ at_ : Nat, ({ mode := .pulling, pullAt := at_ } : Mint).pullMites 4 {} = 0 := fun at_ => by
    simp [Mint.pullMites, ratAbs, mintL]
  have n : ∀ at_ : Nat, (pulling at_).now + (pulling at_).tickLen = 3232 := fun at_ => by rfl
  refine ⟨fun _ _ => ⟨rfl, rfl⟩, ?_, ?_⟩
  · rw [e, n, z]; norm_num
  · rw [e, n, z]; norm_num

theorem test_mints :
    gives (exec (.mintStart 4) (minted 4 { ran := true, dco := ⟨7, 0⟩, gatedPower := false })) (fun t =>
      (t.mints[(4 : Fin 5)]).mode == .pulling && (t.mints[(4 : Fin 5)]).frozen == ⟨7, 0⟩) &&
    gives (exec (.mintLock 1) (settled1 1 true 409569)) (fun t => (t.mints[(1 : Fin 5)]).mode == .locked &&
      t.refs.holdLen == 409569 - 5 && !t.refs.holding) &&
    gives (exec (.mintLock 4) (settled1 4 false 409568)) (fun t => (t.mints[(4 : Fin 5)]).mode == .pulling) = true := by
  decide +kernel

theorem test_references :
    gives (exec (.refAbsent (.noEdges false) (Vector.replicate 5 ⟨3, 3⟩)) { minted 1 { mode := .locked } with
      mints := Vector.replicate 5 { mode := .locked } }) (fun t =>
      t.tollDue == [(10, 2), (11, 3), (12, 1)] && (t.mints[(0 : Fin 5)]).mode == .holdover && !t.refs.refOk) &&
    gives (exec (.refQualified false) { minted 1 { mode := .holdover } with refs := {} }) (fun t => t.refs.refOk &&
      (t.mints[(1 : Fin 5)]).mode == .pulling) &&
    gives (exec (.refQualified false) { minted 1 { mode := .locked, dco := ⟨7, 0⟩ } with refs := { relockDue := true } }) (fun t =>
      !t.refs.relockDue && t.mints[(1 : Fin 5)] == { mode := .pulling, pullAt := 3200, dco := ⟨7, 0⟩, frozen := ⟨7, 0⟩ }) = true := by
  decide +kernel

/-- The relief slice in a phase, with a full window of a mean of 1 above, or of exactly, the limit of 16. -/
def conv (p : ReliefPhase) (sum : Nat) (slice : Option (Fin 17) := none) : State := { dev with
  conv := { dev.conv with phase := p, target := 15, winLen := 4096, winLimit := 256, winCount := 4096, winSum := sum }
  cal := { dev.cal with slice := slice, first := false, mode := 1 } }

/-- Two windows of slice 15 have been suspect. -/
def suspect2 (s : State) : State := { s with conv := { s.conv with suspect := s.conv.suspect.set 15 2 } }

theorem witness_WindowsAndMovesEnd :
    (∀ sus ∈ [none, some (15 : Fin 16)], ∀ sum ∈ [65536, 65537], let s := conv (.window sus) sum
      s.conv.windowFull = true ∧ s.conv.windowSuspect = decide (sum = 65537) ∧ s.conv.phase = .window sus ∧ s.cal.request = false ∧
        s.conv.suspect[(15 : Fin 16)] < 2 ∧ s.conv.target = 15) ∧
    (let s := suspect2 (conv (.window none) 65537)
     s.conv.windowFull = true ∧ s.conv.windowSuspect = true ∧ 2 ≤ s.conv.suspect[s.conv.target]) ∧
    ∀ g ∈ [MoveFor.referee, .witness 3, .calibration, .retirement],
      (conv (.settling g 3231) 0).conv.phase = .settling g 3231 ∧ 3231 < (conv (.settling g 3231) 0).now + 32 ∧
      (conv (.settling g 3232) 0).now + (conv (.settling g 3232) 0).tickLen ≤ 3232 := by decide +kernel

/-- The position has been handed back in the present tick. -/
def backed (s : State) : State := { s with conv := { s.conv with handover := some none } }

theorem test_windows :
    gives (exec .refereeWindowEnd (conv (.window none) 65536)) (fun t => t.conv.target == 0 && t.tollDue == [] &&
      t.conv.phase == .settling .referee (3200 + 8192)) &&
    gives (exec .refereeWindowEnd (backed (conv (.window none) 65536))) (fun t => t.conv.phase == .settling .referee (3232 + 8192)) &&
    gives (exec .refereeWindowEnd (conv (.window none) 65537)) (fun t => t.conv.suspect[(15 : Fin 16)] == 1 && t.tollDue == [(17, 1)]) &&
    gives (exec .refereeWindowEnd (suspect2 (conv (.window none) 65537))) (fun t => t.conv.target == 0 &&
      t.conv.phase == .settling (.witness 15) (3200 + 8192)) &&
    gives (exec .witnessWindowEnd (conv (.window (some 3)) 65537)) (fun t => t.conv.retired == some 16 && t.tollDue == [(19, 1)]) &&
    gives (exec .witnessWindowEnd (conv (.window (some 3)) 65536)) (fun t => t.conv.target == 3 && t.tollDue == [(18, 1)] &&
      t.status.level == 2) = true := by decide +kernel

theorem test_moves :
    gives (exec .reliefSettled (conv (.settling .calibration 3231) 0)) (fun t => t.conv.phase == .shadow && t.conv.winCount == 0) &&
    gives (exec .reliefSettled (conv (.settling .retirement 3231) 0)) (fun t => t.conv.phase == .permanent &&
      t.conv.retired == some 15 && t.conv.handover == some (some 15)) &&
    gives (exec .reliefSettled (conv (.settling .referee 3232) 0)) (fun t => t.conv.phase == .settling .referee 3232) = true := by
  decide +kernel

theorem witness_CalibrationProceeds :
    (∀ p ∈ [ReliefPhase.shadow, .tone 3231, .dwell 8 3231, .dwell 9 3231, .check 3231, .returning 3231],
      (conv p 0 (some 15)).cal.slice = some 15 ∧ (conv p 0 (some 15)).conv.phase = p ∧ (conv p 0 (some 15)).conv.windowFull = true ∧
      ¬(conv p 0 (some 15)).now + (conv p 0 (some 15)).tickLen ≤ 3231) ∧
    (conv (.tone 3232) 0 (some 15)).now + (conv (.tone 3232) 0 (some 15)).tickLen ≤ 3232 ∧
    (conv .shadow 65537 (some 15)).conv.windowSuspect = true ∧
    ((conv (.check 3231) 0 (some 15)).val F.CAL_FREEZE_FRZ).testBit (15 : Fin 17).val = false := by decide +kernel

theorem test_calibration :
    gives (exec .calShadowEnd (conv .shadow 65536 (some 15))) (fun t => t.conv.phase == .tone (3200 + 257 * 32)) &&
    gives (exec .calShadowEnd (conv .shadow 65537 (some 15))) (fun t => t.cal.slice == none && t.tollDue == [(22, 1)]) &&
    gives (exec .calDwellEnd (conv (.dwell 9 3231) 0 (some 15))) (fun t => t.conv.phase == .check (3231 + 1024 * 32)) &&
    gives (exec (.calCheckEnd {}) (conv (.check 3231) 0 (some 15))) (fun t => t.cal.candidate == some {} && t.tollDue == []) &&
    gives (exec (.calCheckEnd { gain := 32767 }) (conv (.check 3231) 0 (some 15))) (fun t => t.cal.candidate == none &&
      t.tollDue == [(23, 1)]) = true := by decide +kernel

def verifying (sum : Nat) : State :=
  let s := conv .verify sum (some 15)
  { s with cal := { s.cal with candidate := some { ofs := 1 } } }

/-- The interval has passed in a phase, and `next` is the slice whose turn it is. -/
def asking (p : ReliefPhase) (next : Fin 17) : State :=
  let s := fl (conv p 0) F.CAL_INTERVAL_INT 1
  { s with chron := 40000000, cal := { s.cal with next := next } }

theorem witness_CalibrationEndsAndIsAskedFor :
    ((verifying 65536).cal.slice = some 15 ∧ (verifying 65536).cal.candidate = some { ofs := 1 } ∧
      (verifying 65536).conv.phase = .verify ∧ (verifying 65536).conv.windowFull = true ∧
      (verifying 65536).conv.windowSuspect = false ∧ (verifying 65537).conv.windowSuspect = true) ∧
    ((conv (.restoring 3231) 0).conv.phase = .restoring 3231 ∧ 3231 < (conv (.restoring 3231) 0).now + 32) ∧
    (let s := conv (.selfCal 3231) 0
     let s' := s.bringIntoForce limitWords
     s.conv.phase = .selfCal 3231 ∧ 3231 < s.now + s.tickLen ∧
      s'.acceptsBody (s'.measured { gain := 32767 }) (s.coefs)[(16 : Fin 17)] = false ∧
      s'.acceptsBody (s'.measured {}) (s.coefs)[(16 : Fin 17)] = true ∧
      ∀ p : Fin 16, s'.acceptsSkew (s'.referSkew 0) s.reliefSkews[p] = true) ∧
    (let s := fl (conv .idle 0) F.CAL_INTERVAL_INT 1
     let late (u : State) : State := { u with chron := 40000000 }
     s.calMode = 1 ∧ s.now + s.tickLen ≤ s.cal.startAt + s.val F.CAL_INTERVAL_INT * 40000000 ∧
     (late s).calMode = 1 ∧ (late s).cal.startAt + (late s).val F.CAL_INTERVAL_INT * 40000000 < (late s).now + (late s).tickLen ∧
     s.conv.degraded = false ∧ s.conv.phase = .idle ∧ (late { s with conv := { s.conv with degraded := true } }).conv.degraded = true) ∧
    (∀ p ∈ [ReliefPhase.verify, .window none], (asking p 0).conv.phase = p ∧ (asking p 0).calMode = 1 ∧
      (asking p 0).conv.degraded = false ∧ (asking p 0).selfCalNext = false) ∧
    (asking (.window none) 16).selfCalNext = true ∧ (asking (.window none) 16).conv.phase = .window none := by decide +kernel

theorem test_calibration_ends :
    gives (exec (.calVerifyEnd (2, 3)) (verifying 65536)) (fun t => t.cal.stepDue == some (false, 15, { ofs := 1 }) &&
      t.conv.handover == some none && t.cal.full == dev.cal.full) &&
    gives (exec (.calVerifyEnd (2, 3)) (verifying 65537)) (fun t => t.cal.candidate == none && t.tollDue == [(24, 1)] &&
      t.status.level == 1) &&
    gives (exec .calRestoreSettled (conv (.restoring 3231) 0 (some 15))) (fun t => t.cal.slice == none && t.conv.handover == some none) &&
    gives (exec (.reliefSelfcalEnd { gain := 32767 } (Vector.replicate 16 0)) (conv (.selfCal 3231) 0 (some 16))) (fun t =>
      t.tollDue == [(25, 1)] && t.cal.stepDue == none) &&
    gives (exec .calIntervalExpiry (asking (.window none) 3)) (fun t => t.cal.request && t.cal.slice == none) &&
    gives (exec .calIntervalExpiry (asking (.window none) 16)) (fun t => t.cal.slice == some 16 && t.cal.startAt == 40000000 &&
      match t.conv.phase with | .selfCal _ => true | _ => false) = true := by decide +kernel

def auxing (job : AuxJob) (chan start : Nat) : State := { dev with aux := { dev.aux with conv := some ⟨job, chan, start⟩, powered := true } }

theorem witness_AuxConversionsEnd :
    ((auxing (.injected 0) 34 0).aux.conv = some ⟨.injected 0, 34, 0⟩ ∧ (auxing (.injected 0) 34 0).now + 32 ≤ 0 + 625 * 32) ∧
    (let s : State := { auxing (.injected 0) 34 0 with chron := 20000 }
     s.aux.conv = some ⟨.injected 0, 34, 0⟩ ∧ 0 + 625 * 32 < s.now + s.tickLen ∧ s.aux.pending = [] ∧ s.aux.entry = none ∧
     s.aux.calActive = false ∧ (∀ k : Fin 8, s.flag F.AUX_WATCH_EN k = false) ∧ s.tally.mode = .stopped) := by decide +kernel

theorem witness_AuxConversionsEnd_fragment :
    (auxing .fragment 0 0).aux.conv = some ⟨.fragment, 0, 0⟩ ∧
    0 + 625 * 32 < ({ auxing .fragment 0 0 with chron := 20000 } : State).now + 32 ∧
    (auxing (.entry 0) 15 0).aux.conv = some ⟨.entry 0, 15, 0⟩ ∧ 15 < 0x10 := by decide +kernel

theorem test_aux_conversion :
    gives (exec (.auxConversionEnd 1000) { auxing (.injected 0) 34 0 with chron := 20000 }) (fun t => t.aux.conv == none &&
      (t.aux.results[34]).valid && (t.aux.results[34]).count == 1) &&
    gives (exec (.auxConversionEnd 1000) (auxing (.injected 0) 34 0)) (fun t => t.aux.conv.isSome) = true := by decide +kernel

def inj17 : State :=
  let s := fl (fl (auxing (.injected 0) 3 3000) F.AUX_INJ_EN 1 17) F.AUX_WATCH_PERIOD_WP 10
  { s with aux := { s.aux with timerAt := 3231, roundAt := 3231, asked := [17] } }
/-- The converter is powered and idle. -/
def resting : State := { inj17 with aux := { inj17.aux with conv := none } }
/-- Entry 1 of the sequence has begun in the present tick. -/
def begun : State := { inj17 with aux := { inj17.aux with conv := some ⟨.entry 1, 3, 3200⟩ } }
def warming : State := { dev with aux := { dev.aux with warmAt := some 3231, pending := [0] } }
def auxSeq (entry : Option Nat) (at_ down : Nat) (powered : Bool) : State :=
  let s := fl (fl dev F.AUX_SEQ_LEN_LEN 2) F.AUX_SEQ_PERIOD_PERIOD 100
  { s with run := [fnAux], aux := { s.aux with entry := entry, periodAt := at_, downAt := down, powered := powered } }
def auxCal (active : Bool) (at_ frag : Nat) : State :=
  let s := fl (auxing (.injected 0) 3 3000) F.CAL_AUX_PERIOD_PER 1
  { s with chron := BitVec.ofNat 80 at_, aux := { s.aux with calActive := active, calFrag := frag } }

theorem witness_busy : inj17.aux.conv.isSome = true ∧ ∀ c, inj17.aux.conv = some c → c.start ≠ inj17.now := by
  refine ⟨by decide +kernel, fun c h => ?_⟩
  have e : inj17.aux.conv = some ⟨.injected 0, 3, 3000⟩ := by decide +kernel
  rw [e] at h
  cases h
  decide +kernel

theorem witness_AuxRequestsAndPeriods_requests :
    ((17 : Fin 19).val < 18 ∧ (0 : Fin 19) ∉ inj17.aux.asked ∧ (17 : Fin 19) ∈ inj17.aux.asked ∧ inj17.flag F.AUX_INJ_EN 17 = true ∧
      (fl inj17 F.AUX_INJ_EN 0 17).flag F.AUX_INJ_EN 17 = false ∧ (17 : Fin 19) ∈ (fl inj17 F.AUX_INJ_EN 0 17).aux.asked ∧
      (17 : Fin 19) ∈ ({ inj17 with aux := { inj17.aux with pending := [17] } } : State).aux.pending ∧
      (17 : Fin 19) ∉ inj17.aux.pending) ∧
    (begun.aux.conv = some ⟨.entry 1, 3, 3200⟩ ∧ 3200 = begun.now ∧ begun.aux.pending = [] ∧ begun.aux.asked = [17]) := by decide +kernel

theorem witness_AuxRequestsAndPeriods_free :
    ((17 : Fin 19) ∈ resting.aux.asked ∧ resting.flag F.AUX_INJ_EN 17 = true ∧ resting.aux.pending = [] ∧ resting.aux.conv = none ∧
      resting.aux.warmAt = none ∧ (resting.aux.powered || resting.ev.auxDown) = true ∧ (17 : Fin 19) ∉ resting.ev.auxDropped ∧
      inj17.val F.AUX_WATCH_PERIOD_WP ≠ 0 ∧ inj17.aux.timerAt < inj17.now + inj17.tickLen ∧ (18 : Fin 19) ∉ inj17.aux.pending ∧
      inj17.aux.round = none ∧ inj17.aux.roundAt < inj17.now + inj17.tickLen ∧
      ({ inj17 with aux := { inj17.aux with roundAt := 3232 } } : State).now + 32 ≤ 3232) ∧
    (warming.aux.warmAt = some 3231 ∧ 3231 < warming.now + warming.tickLen ∧ warming.aux.pending = [0] ∧ warming.aux.conv = none ∧
      (0 : Fin 19) ∉ warming.ev.auxDropped) := by decide +kernel

theorem witness_AuxRequestsAndPeriods :
    ((∀ x ∈ [(3231, 0, true), (3231, 0, false), (3231, 3200, false), (3232, 0, true)], let s := auxSeq none x.1 x.2.1 x.2.2
        s.running fnAux = true ∧ s.val F.AUX_SEQ_LEN_LEN ≠ 0 ∧ s.val F.AUX_SEQ_PERIOD_PERIOD ≠ 0 ∧ s.aux.entry = none ∧
        s.aux.conv = none ∧ s.aux.pending = [] ∧ s.aux.calActive = false ∧ s.aux.powered = x.2.2) ∧
      (auxSeq none 3232 0 true).now + (auxSeq none 3232 0 true).tickLen ≤ (auxSeq none 3232 0 true).aux.periodAt ∧
      (auxSeq none 3231 0 true).aux.periodAt < (auxSeq none 3231 0 true).now + (auxSeq none 3231 0 true).tickLen ∧
      (auxSeq none 3231 3200 false).now < max (auxSeq none 3231 3200 false).aux.periodAt (3200 + 500 * 32) ∧
      (let s : State := { auxSeq none 19200 3200 false with chron := 19200 }
       max s.aux.periodAt (s.aux.downAt + 500 * 32) ≤ s.now) ∧
      (auxSeq (some 1) 3231 0 true).aux.entry.isSome = true ∧ (auxSeq (some 1) 3231 0 true).aux.conv = none) ∧
    ((auxCal false 40000000 0).val F.CAL_AUX_PERIOD_PER ≠ 0 ∧
      (auxCal false 40000000 0).aux.calStart + (auxCal false 40000000 0).val F.CAL_AUX_PERIOD_PER * 40000000 <
        (auxCal false 40000000 0).now + 32 ∧ (auxCal false 40000000 0).aux.conv.isSome = true ∧
      (auxCal true 40000000 0).aux.calLate = false ∧ (auxCal true 40000000 64).aux.calFrag = 64 ∧
      (auxCal true 40000000 64).ev.auxLate = false) := by decide +kernel

theorem test_aux_requests :
    gives (exec (.auxInjectRequest 17) inj17) (fun t => t.aux.pending == [17] && t.aux.asked == []) &&
    gives (exec (.auxInjectRequest 17) { inj17 with aux := { inj17.aux with pending := [17] } }) (fun t => t.tollDue == [(20, 1)]) &&
    gives (exec (.auxInjectRequest 17) resting) (fun t => t.aux.pending == [] && t.aux.conv == some ⟨.injected 17, 0, 3200⟩) &&
    gives (exec (.auxInjectRequest 17) begun) (fun t => t.aux.conv == some ⟨.injected 17, 0, 3200⟩) &&
    gives (exec .auxWatchTimer inj17) (fun t => t.aux.pending == [17]) &&
    gives (exec .pmMonitorRound inj17) (fun t => t.aux.round == some 0x10 && t.aux.pending == [18]) &&
    gives (exec .auxWarmupDone warming) (fun t => t.aux.powered && t.aux.conv.isSome) = true := by decide +kernel

theorem test_aux_periods :
    gives (exec .auxPeriodStart (auxSeq (some 1) 3231 0 true)) (fun t => t.tollDue == [(21, 1)]) &&
    gives (exec .auxPeriodStart (auxSeq none 3231 0 true)) (fun t => t.aux.entry == some 0 && t.aux.conv.isSome) &&
    gives (exec .auxPeriodStart (auxSeq none 3231 3200 false)) (fun t => t.aux.entry == some 0 && t.aux.warmAt == some 19200) &&
    gives (exec .calAuxPeriodExpiry (auxCal true 40000000 0)) (fun t => t.tollDue == [(27, 1)]) &&
    gives (exec (.auxCalComplete 16 32784) (auxCal true 3200 64)) (fun t => t.aux.ofs == 16 && t.aux.gain == 32784) &&
    gives (exec (.auxCalComplete 17 32784) (auxCal true 3200 64)) (fun t => t.aux.ofs == 0 && t.tollDue == [(28, 1)]) = true := by
  decide +kernel

/-! ## The weighers, the Bell and the records -/

/-- A pool in which weigher 67 has a role. -/
def pooled (x : Weigher) (p : Pool) : State := { fl dev F.WGH_TEST_PERIOD_PER 1 with
  pool := { p with weighers := p.weighers.set 67 x, next := 67 } }

theorem witness_WeighersAreTested :
    (let s := pooled {} { periodAt := 3231 }
     s.pool.periodAt < s.now + s.tickLen ∧ s.val F.WGH_TEST_PERIOD_PER ≠ 0 ∧ s.pool.selected = some 67 ∧ s.pool.outOfTurn = [] ∧
     s.pool.test = none ∧ s.pool.move = none ∧ (s.pool.weighers[(67 : Fin 68)]).role = .free) ∧
    (let s := pooled { role := .assigned } { periodAt := 3231 }
     s.pool.selected = some 67 ∧ s.pool.test = none ∧ s.pool.move = none ∧ (s.pool.weighers[(67 : Fin 68)]).role = .assigned ∧
     s.pool.freeList.head? = some 0) ∧
    (let s := pooled {} { periodAt := 3232 }
     s.now + s.tickLen ≤ s.pool.periodAt) ∧
    (let s := pooled {} { periodAt := 3231, test := some (3, 9) }
     s.pool.selected = some 67 ∧ s.pool.test.isSome = true) ∧
    (let s := pooled { role := .testing } { test := some (67, 3231) }
     s.pool.test = some (67, 3231) ∧ 3231 < s.now + s.tickLen) := by decide +kernel

theorem test_weighers :
    gives (exec .wghTestPeriodExpiry (pooled {} { periodAt := 3231 })) (fun t => t.pool.test == some (67, 3200 + 262144 * 32) &&
      t.pool.next == 0) &&
    gives (exec .wghTestPeriodExpiry (pooled {} { periodAt := 3231, test := some (3, 9) })) (fun t => t.tollDue == [(50, 1)]) &&
    gives (exec (.wghTestDone false) (pooled { role := .testing } { test := some (67, 3231) })) (fun t => t.tollDue == [(48, 1)] &&
      (t.pool.weighers[(67 : Fin 68)]).role == .retired && t.pool.tests == 1) = true := by decide +kernel

def moving (st : MoveStage) (due : Nat) : State := pooled { role := .assigned, stall := 2, share := 1 } { move := some ⟨67, 3, st, due⟩ }
def busy : State := { moving .copying 0 with
  pool := { (moving .copying 0).pool with move := none, weighers := Vector.replicate 68 { role := .assigned, stall := 2 } } }
def hung1 (samples : Nat) : State := { dev with
  pool := { dev.pool with hung := [⟨67, true, 2, 1, 3⟩] }, stalls := updAt dev.stalls 2 fun x => { x with samples := samples } }
/-- Weighers 67 and 3 are the source and the destination of a migration. -/
def pair1 : State := { busy with pool := { busy.pool with
  move := some ⟨67, 3, .waiting, 0⟩
  weighers := (busy.pool.weighers.set 67 { role := .source, stall := 2 }).set 3 { role := .destination, stall := 2 } } }

theorem witness_MigrationsAndHangs :
    ((moving .copying 3232).pool.move = some ⟨67, 3, .copying, 3232⟩ ∧ (moving .copying 3232).now + 32 ≤ 3232 ∧
      3231 < (moving .copying 3231).now + 32 ∧ (moving .transferring 3231).pool.move = some ⟨67, 3, .transferring, 3231⟩ ∧
      (moving .waiting 0).pool.move = some ⟨67, 3, .waiting, 0⟩ ∧ (67 : Fin 68) ≠ 3) ∧
    ((busy.pool.weighers[(67 : Fin 68)]).role = .assigned ∧ busy.pool.move = none ∧ busy.pool.freeList = [] ∧
      (let s : State := { busy with pool := { busy.pool with weighers := busy.pool.weighers.set 3 {} } }
       (s.pool.weighers[(67 : Fin 68)]).role = .assigned ∧ s.pool.move = none ∧ s.pool.freeList.head? = some 3 ∧
         (s.pool.weighers[(3 : Fin 68)]).role = .free) ∧
      pair1.pool.move = some ⟨67, 3, .waiting, 0⟩ ∧ (pair1.pool.weighers[(67 : Fin 68)]).role = .source ∧
      (pair1.pool.weighers[(3 : Fin 68)]).role = .destination) ∧
    (∀ n, (hung1 n).pool.hung.find? (·.weigher == 67) = some ⟨67, true, 2, 1, 3⟩) ∧
    ((hung1 1023).stalls[(2 : Fin 16)]).samples / 256 ≤ 3 ∧ 3 < ((hung1 1024).stalls[(2 : Fin 16)]).samples / 256 := by
  refine ⟨by decide +kernel, by decide +kernel, fun _ => rfl, by decide +kernel, by decide +kernel⟩

theorem test_migration :
    gives (exec .migrationCopyDone (moving .copying 3231)) (fun t => (t.pool.move.map (·.stage)) == some .waiting) &&
    (((moving .waiting 3231).blockBoundary 2).pool.move.map (·.due)) == some (3200 + 2048) &&
    gives (exec .migrationSwitch (moving .transferring 3231)) (fun t => t.pool.move == none &&
      (t.pool.weighers[(3 : Fin 68)]).role == .assigned &&
      (t.pool.weighers[(67 : Fin 68)]).role == .testing) = true := by decide +kernel

theorem test_hang :
    gives (exec (.wghHang 67) busy) (fun t => t.tollDue == [(49, 1)] && t.pool.hung == [⟨67, true, 2, 0, 0⟩] && t.log.due.length == 1) &&
    gives (exec (.wghHang 3) pair1) (fun t => t.tollDue == [(49, 1)] && t.pool.hung == [] && t.pool.move == none &&
      (t.pool.weighers[(67 : Fin 68)]).role == .assigned) &&
    gives (exec (.hungChainRestart 67) (hung1 1023)) (fun t => t == hung1 1023) &&
    gives (exec (.hungChainRestart 67) (hung1 1024)) (fun t => t.pool.hung == [] && t.tollDue == [(51, 1)]) = true := by decide +kernel

def sample1 : Val := { num := 9, chron := 3100, tick := 3072 }

/-- The Bell of stall 4 in a phase and in sequence state 2, with a sample that may be evaluated, POST 32. -/
def belled (p : Phase) (cond act : Word) (f : Bell → Bell := id) : State :=
  let s := wd (wd { dev with chron := 6400 } (R.STL_BEL_S_COND.num 2 4) cond.toNat) (R.STL_BEL_S_ACT.num 5 4) act.toNat
  { s with run := [fnStall 4], stalls := updAt s.stalls 4 fun x => { x with
      mode := .running, setup := { x.setup with post := 32 }
      bell := f { x.bell with phase := p, state := 2, obs := [sample1], prev := some { num := 8 }, bufFrom := some 0 } } }
def condAdv : Word := F.STL_BEL_S_COND_ADV.put 1 ||| F.STL_BEL_S_COND_NEXT.put 5
def condRst : Word := F.STL_BEL_S_COND_RST.put 1
/-- A span of `n` ticks that began at 0, in timer 1. -/
def timed (b : Bell) : Bell := { b with timers := b.timers.set 1 { run := true, start := 0, pos := 0 } }
def timed1 : State := fl (belled .armed 0 0 timed) F.STL_BEL_TMR_DUR_DUR 96 1 4

theorem witness_SequencesMove :
    (dev.bell 4).obs = [] ∧
    (∀ s ∈ [belled .armed condAdv 0, belled .armed condRst 0], (s.bell 4).phase = .armed ∧ (s.bell 4).beginAt = none ∧
      s.val F.STL_BEL_S_COND_QUAL (s.bell 4).state (4 : Fin 16) = 0 ∧
      s.flag F.STL_BEL_S_COND_QINV (s.bell 4).state (4 : Fin 16) = false ∧
      s.quietSample 4 sample1 false false ∧ s.word (R.STL_BEL_S_ACT.num 5 4) = 0 ∧ s.word (R.STL_BEL_S_ACT.num 0 4) = 0) ∧
    ((belled .armed condAdv 0).val F.STL_BEL_S_COND_ADV 2 4 = 1 ∧ (belled .armed condAdv 0).val F.STL_BEL_S_COND_ADV 0 4 ≤ 1 ∧
      (belled .armed condAdv 0).val F.STL_BEL_S_COND_NEXT 2 4 = 5) ∧
    ((belled .armed condRst 0).val F.STL_BEL_S_COND_ADV 2 4 = 0 ∧ (belled .armed condRst 0).val F.STL_BEL_S_COND_ADV 0 4 = 0 ∧
      (belled .armed condRst 0).val F.STL_BEL_S_COND_RST 2 4 = 1) ∧
    (timed1.quietSample 4 sample1 true false ∧ timed1.val F.STL_BEL_S_COND_RST 2 4 = 0 ∧ timed1.val F.STL_BEL_S_COND_ADV 2 4 = 0 ∧
      ((timed1.bell 4).timers[(1 : Fin 2)]).run = true ∧
      spanElapsed (timed1.val F.STL_BEL_TMR_DUR_DUR 1 4) 0 0 0 sample1 = true) := by decide +kernel

theorem test_sequence :
    gives (exec (.bellAdvance 4) (belled .armed condAdv 0)) (fun t => (t.bell 4).state == 5 && (t.bell 4).obs == []) &&
    gives (exec (.bellReset 4) (belled .armed condRst 0)) (fun t => (t.bell 4).state == 0) &&
    gives (exec (.bellTimerExpiry 4 1) timed1) (fun t => ((t.bell 4).timers[(1 : Fin 2)]).expired && (t.bell 4).state == 2) = true := by
  decide +kernel

def auto1 : State := fl (belled .armed 0 0) F.STL_BEL_AUTO_AUTO 96 0 4
def holding : State := belled .hold 0 0 fun b => { b with holdWord := 96 }
def rearming : State := belled .rearm 0 0 fun b => { b with beginAt := some 3100, holdWord := 100, bufFrom := none }

theorem witness_TriggersOpenSegments_advance :
    let s := belled .armed condAdv (F.STL_BEL_S_ACT_TRIGGER.put 1)
    (s.bell 4).phase = .armed ∧ (s.bell 4).beginAt = none ∧ 2 ≤ (s.stalls[(4 : Fin 16)]).setup.post ∧
     s.val F.STL_BEL_S_COND_ADV 2 4 = 1 ∧ s.val F.STL_BEL_S_COND_ADV 0 4 ≤ 1 ∧ s.val F.STL_BEL_S_COND_NEXT 2 4 = 5 ∧
     s.val F.STL_BEL_S_COND_QUAL 2 4 = 0 ∧ s.flag F.STL_BEL_S_COND_QINV 2 4 = false ∧
     s.quietSample 4 sample1 false false ∧ s.word (R.STL_BEL_S_ACT.num 5 4) = F.STL_BEL_S_ACT_TRIGGER.put 1 := by decide +kernel

theorem witness_TriggersOpenSegments_auto :
    auto1.quietSample 4 sample1 false true ∧ spanValue (auto1.val F.STL_BEL_AUTO_AUTO 0 4) ≠ 0 ∧
      spanElapsed (auto1.val F.STL_BEL_AUTO_AUTO 0 4) (auto1.bell 4).autoAt (auto1.bell 4).autoPos 0 sample1 = true := by decide +kernel

theorem witness_TriggersOpenSegments :
    ((holding.bell 4).phase = .hold ∧ (holding.bell 4).beginAt = none ∧ holding.quietSample 4 sample1 false false ∧
      (holding.bell 4).holdElapsed sample1 = true ∧ holding.flag F.STL_BEL_CTRL_PREFILL_WAIT 0 4 = false ∧
      holding.val F.STL_BEL_S_COND_ADV 0 4 = 0 ∧ holding.val F.STL_BEL_S_COND_RST 0 4 = 0 ∧
      holding.word (R.STL_BEL_S_ACT.num 0 4) = 0) ∧
    ((rearming.bell 4).phase = .rearm ∧ (rearming.bell 4).beginAt = some 3100 ∧ 3100 ≤ sample1.chron ∧
      rearming.quietSample 4 sample1 false false ∧ (rearming.bell 4).holdElapsed sample1 = false ∧
      spanUnit (rearming.bell 4).holdWord < 4) := by decide +kernel

theorem test_triggers :
    gives (exec (.bellAdvance 4) (belled .armed condAdv (F.STL_BEL_S_ACT_TRIGGER.put 1))) (fun t => (t.bell 4).phase == .post &&
      (t.stalls[(4 : Fin 16)]).segs.map (fun g => (g.trig.num, g.last, g.forced)) == [(9, 40, false)]) &&
    gives (exec (.autoTrigger 4) auto1) (fun t => (t.stalls[(4 : Fin 16)]).segs.map (fun g => (g.trig.num, g.forced)) == [(9, true)]) &&
    gives (exec (.holdoffElapsed 4) holding) (fun t => (t.bell 4).phase == .armed && (t.bell 4).state == 0) &&
    gives (exec (.rearmEnd 4) rearming) (fun t => (t.bell 4).phase == .hold && (t.bell 4).bufFrom == some 9) = true := by
  decide +kernel

def seg1 : Segment := { setup := { ring := true, fmt := 1, units := 64, slotBytes := 256, slots := 4, post := 32 }
                        trig := sample1, frac := 0, first := 0, dead := 0, last := 40 }
def deciding (due : Nat) : State := { dev with stalls := updAt dev.stalls 4 fun x => { x with
  segs := [seg1], bell := { x.bell with phase := .post, decisions := [(due, .trigger 0)] } } }

theorem witness_PinsAndDecisions :
    (dev.trigIn[(3 : Fin 4)] = false ∧ dev.ev.trigEdges = []) ∧
    ((deciding 3232).bell 4).decisions = [(3232, .trigger 0)] ∧ (deciding 3232).now + (deciding 3232).tickLen ≤ 3232 ∧
    3231 < (deciding 3231).now + (deciding 3231).tickLen ∧ (∀ m : Fin 16, ((deciding 3231).bell m).linked = false) ∧
    ((deciding 3231).stalls[(4 : Fin 16)]).segs = [seg1] ∧ seg1.decided = false := by decide +kernel

theorem test_pins :
    gives (exec (.trigInEdge 3 true 3210) (deciding 3231)) (fun t => t.trigIn[(3 : Fin 4)] &&
      (t.bell 4).outs == [⟨0x1B, 3210, true, true⟩] && (t.bell 5).outs == []) &&
    gives (exec (.bellDecision 4) (deciding 3231)) (fun t => (t.stalls[(4 : Fin 16)]).segs.map (·.decided) == [true]) = true := by
  decide +kernel

/-- A segment of two samples that may close, and one that waits for its header. -/
def closing (g : Segment) : State := { dev with stalls := updAt dev.stalls 4 fun x => { x with
  setup := seg1.setup, segs := [g], segNo := 5, samples := 10, kept := [(0, { num := 8, chron := 3084, lo := 3, hi := 3 }), (0, { num := 9, chron := 3100, lo := 2, hi := 2 })] } }
def short1 : Segment := { seg1 with last := 9, ended := true, decided := true, ordinal := 1 }
def headed : Segment := { short1 with number := some 5, closedAt := 3168 }
def merge1 : Merge := { addr := 320, bits := 32, count := 2, data := [3, 0, 2, 0] }
def merging : State := closing { headed with merge := some merge1 }
/-- Errors in the symbols of a codeword: one in symbol 9, and equal ones in symbols 0 and 1. -/
def oneSymbol : SymbolErrors := BitVec.ofNat 80 (0x5A * 256 ^ 9)
def twoSymbols : SymbolErrors := 0x0101

/-- MAINT work has taken the present cycle of a subchannel. -/
def taken1 (s : State) (c : Fin 8) : State := s.modSub c fun x => { x with taken := true }

theorem witness_SegmentsCloseAndComplete :
    (((closing seg1).stalls[(4 : Fin 16)]).segs = [seg1] ∧ seg1.number = none ∧ (closing seg1).closable 4 seg1 = false) ∧
    ((closing short1).closable 4 short1 = true ∧ (closing short1).memoriesWf ∧ short1.setup.stages = [] ∧ short1.marks = [] ∧
      short1.setup.sieve = false ∧ short1.setup.ring = true ∧ short1.setup.fmt = 1 ∧ 0 < short1.setup.units ∧
      (between short1.start short1.last (short1.keptAt (closing short1).stalls[(4 : Fin 16)] 0)).length ≤ short1.setup.units) ∧
    (headed.number = some 5 ∧ headed.merge = none ∧ headed.setup.ring = true ∧ headed.setup.fill = false ∧ headed.results = [] ∧
      headed.closedAt < (closing headed).now ∧ (closing headed).memoriesWf ∧
      (closing headed).now ≤ ({ headed with closedAt := 3200 } : Segment).closedAt) ∧
    ((merging.stalls[(4 : Fin 16)]).segs = [{ headed with merge := some merge1 }] ∧ merging.memoriesWf ∧ merging.dram.bad = [] ∧
      merging.dram.rewrites.length < 16 ∧ rsDecode twoSymbols = .uncorrectable ∧ merge1.bits ≤ 512 ∧ merge1.addr % 64 = 0) ∧
    (let c := (merging.dramPlace merge1.addr).sub
     merging.maintMay c = true ∧ (taken1 merging c).maintMay c = false ∧
       ((taken1 merging c).stalls[(4 : Fin 16)]).segs = [{ headed with merge := some merge1 }]) := by decide +kernel

theorem test_close :
    gives (exec (.segmentClose 4) (closing short1)) (fun t => (t.stalls[(4 : Fin 16)]).segNo == 6 &&
      (t.stalls[(4 : Fin 16)]).segs.map (·.number) == [some 5] && memBytes t.dram.mem (256 + 64) 4 == bytes [3, 0, 2, 0]) &&
    gives (exec (.headerWriteDone 4) (closing headed)) (fun t => (t.stalls[(4 : Fin 16)]).lastSeg == 5 && t.status.segReady &&
      memBytes t.dram.mem (256 + 0x1E) 5 == bytes [5, 0, 0, 0, 0]) &&
    gives (exec (.mergeReadDone 4 ((Vector.replicate 8 0).set 2 oneSymbol)) merging) (fun t => t.tollDue == [(192, 1)] &&
      (t.stalls[(4 : Fin 16)]).segs.map (·.merge) == [none] && memBytes t.dram.mem 320 4 == bytes [3, 0, 2, 0]) &&
    gives (exec (.mergeReadDone 4 ((Vector.replicate 8 0).set 2 twoSymbols)) merging) (fun t => t.tollDue == [(193, 1)] &&
      (t.stalls[(4 : Fin 16)]).segs.map (·.flags) == [512]) = true := by decide +kernel

theorem witness_StallWindows :
    on0.running (fnStall 0) = true ∧ dev.running (fnStall 0) = false ∧
    (let x := on0.stalls[(0 : Fin 16)]
     on0.val F.STL_WIN_ADDR_ADDR 0 0 = 0 ∧ (Sparse.get (fun _ => 0) x.window 0 ^^^ 7) &&& windowMask x.window 0 ≠ 0 ∧
       (Sparse.get (fun _ => 0) x.window 0 ^^^ 0x10) &&& windowMask x.window 0 = 0) ∧
    (∀ s ∈ [dev, on0], ∀ m ∈ [0, 1], (fl s F.STL_MS_ADDR_ADDR m).val F.STL_MS_ADDR_ADDR 0 0 = m ∧
      (fl s F.STL_MS_ADDR_ADDR m).running (fnStall 0) = s.running (fnStall 0)) ∧
    (let differs (m : Nat) (w : Word) : Prop := (Sparse.get msReset (on0.stalls[(0 : Fin 16)]).msWords m ^^^ w) &&&
       (if m % 4 = 0 then 0xFFFF else BitVec.allOnes 32) ≠ 0
     differs 1 5 ∧ differs 0 1 ∧ ¬differs 0 0xFFFF0000 ∧ msRefused 0 1 = false ∧ msRefused 0 0xFFFF0000 = false ∧ msRefused 1 5 = false) ∧
    (fl dev F.STL_MS_ADDR_ADDR 126).val F.STL_MS_ADDR_ADDR 0 0 = 126 ∧ msRefused 126 0x7FC00000 = true ∧
    msRefused 126 0x7F800000 = false ∧ (fl dev F.STL_MS_ADDR_ADDR 124).val F.STL_MS_ADDR_ADDR 0 0 = 124 ∧
    msRefused 124 (3 <<< 5) = true ∧ msRefused 124 (3 <<< 7) = true := by decide +kernel

theorem test_windows_of_stalls :
    gives (exec (.stallWindowAccess 0 (some 7)) dev) (fun t => Sparse.get (fun _ => 0) (t.stalls[(0 : Fin 16)]).window 0 == 7 &&
      t.val F.STL_WIN_ADDR_ADDR 0 0 == 1) &&
    gives (exec (.stallWindowAccess 0 (some 7)) on0) (fun t => t.code == .stopLocked && t.tollDue == [(243, 1)]) &&
    gives (exec (.stallWindowAccess 0 (some 0x10)) on0) (fun t => t.code == .ok) &&
    gives (exec (.measSlotWindowAccess 0 (some 0x7FC00000)) (fl dev F.STL_MS_ADDR_ADDR 126)) (fun t => t.code == .range &&
      t.tollDue == [(243, 1)]) &&
    gives (exec (.lastsegRead 0) dev) (fun t => (t.stalls[(0 : Fin 16)]).lastSegHi == 255) = true := by decide +kernel

/-! ## Record memory and the Crier -/

theorem witness_BurstsAreIssued :
    dev.memoriesWf ∧ dev.dram.bad = [] ∧ ((BitVec.ofNat 38 (dev.dramSize - 64)).toNat % 64 = 0) ∧ 64 ≤ dev.dramSize ∧
    (BitVec.ofNat 38 (dev.dramSize - 64)).toNat < dev.dramSize ∧ dev.dramSize ≤ (BitVec.ofNat 38 dev.dramSize).toNat ∧
    (BitVec.ofNat 38 dev.dramSize).toNat % 64 = 0 ∧
    (let p := dev.dramPlace (dev.dramSize - 64)
     let asleep : State := { dev with dram := { dev.dram with subs := dev.dram.subs.set p.sub.val { sr := .asleep } p.sub.isLt } }
     let b : Fin 4 × Nat := (3, dev.dramSize - 64)
     let behind : State := dev.modSub p.sub fun x => { x with queue := [(3, 128), b] }
     (dev.dram.subs[p.sub]).sr = .active ∧ (asleep.dram.subs[p.sub]).sr ≠ .active ∧ asleep.dramPlace (dev.dramSize - 64) = p ∧
       (dev.dram.subs[p.sub]).queue = [] ∧ dev.nextBurst p.sub ((dev.dram.subs[p.sub]).queue ++ [b]) = some b ∧
       behind.nextBurst p.sub (behind.dram.subs[p.sub]).queue = some (3, 128)) ∧
    (∃ i : Fin 10, ∃ e : BitVec 8, e ≠ 0 ∧ BitVec.ofNat 80 (e.toNat * 256 ^ i.val) = oneSymbol) ∧
    (∀ k : Fin 8, dev.ringAt (dev.dramSize - 64 + 8 * k.val) = none) ∧
    (rsDecode oneSymbol = .corrected 9 ∧ residualErrors oneSymbol = 0 ∧ rsDecode twoSymbols = .uncorrectable) ∧
    (let s := fl dev F.DRM_SCRUB_PERIOD 1
     s.scrubRuns = true ∧ s.maintWaits (s.dramPlace 0).sub = false ∧ s.retrainWaits (s.dramPlace 0).sub = false ∧
       s.scrubMay (s.dramPlace 0).sub = true ∧ (s.dram.subs[(s.dramPlace 0).sub]).scrubOn = true ∧
       (s.dram.subs[(s.dramPlace 0).sub]).scrubAt = (s.dramPlace 0).local_ / 64 ∧
       (s.dramPlace 0).local_ / 64 + 1 < s.scrubBursts ∧ s.memoriesWf ∧ 0 < s.dramSize) := by decide +kernel

theorem test_burst :
    let clean : Vector SymbolErrors 8 := Vector.replicate 8 0
    gives (exec (.dramBurst 3 128 (some (2 ^ 504 + 7)) false clean) dev) (fun t => memNat t.dram.mem 128 64 == 2 ^ 504 + 7 &&
      t.dram.mem.length == 2) &&
    gives (exec (.dramBurst 3 128 none false (clean.set 0 oneSymbol)) dev) (fun t => !t.dram.answer.error && t.dram.bad == [] &&
      t.tollDue == [(192, 1)]) &&
    gives (exec (.dramBurst 3 128 none false (clean.set 0 twoSymbols)) dev) (fun t => t.dram.answer.error && t.dram.bad == [16] &&
      t.tollDue == [(193, 1)] && t.dram.total == 1) = true := by decide +kernel

def sub7 (x : Subchannel) : State := { dev with dram := { dev.dram with subs := dev.dram.subs.set 7 x } }
def busy7 (x : Subchannel) : State := { sub7 x with hall := { dev.hall with arbs := [(263, { live := [⟨3, false, 1, false, [448]⟩] })] } }

/-- An ACQ burst to bank 0 of subchannel 7 waits. -/
def queued7 : State := sub7 { refreshAt := 3231, queue := [(0, 448)] }

theorem witness_SubchannelsSleepAndRefresh :
    (let x : Subchannel := { idle := 100, idleLimit := 100 }
     (sub7 x).subBusy 7 = false ∧ x.sr = .active ∧ x.idleLimit ≠ 0 ∧ x.idleLimit ≤ x.idle ∧ x.banks = []) ∧
    ((sub7 { refreshAt := 3231, refreshLeft := [] }).dram.subs[(7 : Fin 8)]).refreshLeft = [] ∧
    ((sub7 { refreshAt := 3231, refreshLeft := [2] }).dram.subs[(7 : Fin 8)]).refreshLeft ≠ [] ∧
    ((busy7 { sr := .asleep }).subBusy 7 = true ∧ (busy7 { sr := .asleep }).heldAsleep = false ∧
      (sub7 { sr := .asleep }).subBusy 7 = false ∧
      (let w : State := { busy7 { sr := .exiting } with power := { dev.power with regime := .watch } }
       w.heldAsleep = true ∧ (w.dram.subs[(7 : Fin 8)]).sr = .exiting ∧ w.power.regime = .watch)) ∧
    (let s : State := { queued7 with run := [fnStall 0] }
     s.anyStall = true ∧ (s.dram.subs[(7 : Fin 8)]).banks = [] ∧ (∃ j ∈ [0, 1, 2, 3], s.acqQueued 7 j = false) ∧ s.acqQueued 7 0 = true) ∧
    ((sub7 { refreshAt := 3232 }).now + 32 ≤ 3232 ∧ 3231 < (sub7 { refreshAt := 3231 }).now + 32 ∧
      (sub7 { refreshAt := 3231 }).anyStall = false ∧ ({ sub7 { refreshAt := 3231 } with run := [fnStall 0] } : State).anyStall = true) ∧
    dev.dram.mr4At < dev.now + dev.tickLen := by decide +kernel

theorem test_self_refresh :
    gives (exec (.srEntry 7) (sub7 { idle := 100, idleLimit := 100 })) (fun t => (t.dram.subs[(7 : Fin 8)]).sr == .entering false) &&
    gives (exec (.srExit 7) (busy7 { sr := .asleep })) (fun t => (t.dram.subs[(7 : Fin 8)]).sr == .exiting) &&
    gives (exec (.srExit 7) (sub7 { sr := .asleep })) (fun t => (t.dram.subs[(7 : Fin 8)]).sr == .asleep) = true := by decide +kernel

theorem test_refresh :
    gives (exec (.refreshDue 7) (sub7 { refreshAt := 3231 })) (fun t => (t.dram.subs[(7 : Fin 8)]).refreshAt == 3231 + 156000) &&
    gives (exec (.refreshDue 7) { sub7 { refreshAt := 3231, refreshLeft := [2] } with run := [fnStall 0] }) (fun t =>
      (t.dram.subs[(7 : Fin 8)]).refreshAt == 3231 + 39000) &&
    gives (exec (.srExitDone 7) (sub7 { sr := .exiting })) (fun t => (t.dram.subs[(7 : Fin 8)]).sr == .active &&
      (t.dram.subs[(7 : Fin 8)]).refreshAt == 3200 + 156000) &&
    gives (exec (.mr4Read 2) dev) (fun t => t.tollDue == [(204, 1)] && t.status.level == 3) = true := by decide +kernel

def hammered (n : Nat) : State := sub7 { banks := [(63, ⟨none, [(5, n)]⟩)] }
def rewriting : State := { ringed with dram := { ringed.dram with rewrites := [⟨0, 0, 8⟩] } }
/-- The same with a header whose CRC holds. -/
def standing : State := { rewriting with dram := { rewriting.dram with
  mem := memWrite [] 60 (leBytes 4 (crc32 (List.replicate 60 0))) } }

theorem witness_RowsScrubsAndRewrites :
    ((hammered 4096).dram.subs[(7 : Fin 8)]).banks = [((63 : Fin 64).val, ⟨none, [(5, 4096)]⟩)] ∧ (hammered 4096).dram.hammerTh = 4096 ∧
    ((hammered 4096).mergeWaits 7 = false ∧ (hammered 4096).maintMay 7 = true ∧ (hammered 4096).slotOwner (256 + 7) ∈ [1, 2, 7] ∧
      (taken1 (hammered 4096) 7).maintMay 7 = false ∧ (hammered 4096).dram.rfm = false ∧
      ({ hammered 4096 with dram := { (hammered 4096).dram with rfm := true } } : State).mergeWaits 7 = false ∧
      ({ hammered 4096 with stalls := merging.stalls } : State).mergeWaits ((hammered 4096).dramPlace merge1.addr).sub = true) ∧
    dev.now + dev.tickLen ≤ dev.dram.windowEnd ∧
    (let s : State := { dev with chron := 1280000000 }
     s.dram.windowEnd < s.now + s.tickLen ∧ ∀ c : Fin 8, (s.dram.subs[c]).banks = []) ∧
    (let s := fl (sub7 { scrubClock := 144000000000000 }) F.DRM_SCRUB_PERIOD 1
     s.val F.DRM_SCRUB_PERIOD ≠ 0 ∧ (s.dram.subs[(7 : Fin 8)]).scrubLate = false ∧
     s.val F.DRM_SCRUB_PERIOD * 144000000000000 ≤ (s.dram.subs[(7 : Fin 8)]).scrubClock) ∧
    (let u := (rewriting.stalls[(0 : Fin 16)]).setup
     let a := u.base + 0 * u.slotBytes
     a % 8 = 0 ∧ rewriting.mergeWaits (rewriting.dramPlace a).sub = false ∧ rewriting.maintMay (rewriting.dramPlace a).sub = true ∧
       standing.maintMay (standing.dramPlace a).sub = true ∧ rewriting.ringAt (a + 8) = some (0, 0) ∧
         standing.mergeWaits (standing.dramPlace a).sub = false ∧
       (let s : State := { merging with dram := { merging.dram with rewrites := [⟨4, 1, 8⟩] } }
        s.mergeWaits (s.dramPlace ((s.stalls[(4 : Fin 16)]).setup.base + 1 * (s.stalls[(4 : Fin 16)]).setup.slotBytes)).sub = true)) ∧
    (rewriting.dram.rewrites = [⟨0, 0, 8⟩] ∧ rewriting.dram.bad = [] ∧ rewriting.headerStands 0 0 = false ∧
      standing.headerStands 0 0 = true ∧ standing.memoriesWf ∧ (fl dev F.LOG_SEL_WORD 2).val F.LOG_SEL_WORD < 3 ∧
      (fl dev F.DRM_ELOG_SEL_WORD 2).val F.DRM_ELOG_SEL_WORD < 3) := by decide +kernel

theorem test_rows :
    gives (exec (.hammerMitigation 7 63 5) (hammered 4096)) (fun t => t.tollDue == [(196, 1)] && t.dram.mitigations == 1) &&
    gives (exec (.hammerMitigation 7 63 5) (hammered 4095)) (fun t => t.tollDue == []) &&
    gives (exec (.headerRewrite (Vector.replicate 8 0)) standing) (fun t => t.dram.rewrites == [] && memNat t.dram.mem 0x1A 2 == 8 &&
      crc32 (memBytes t.dram.mem 0 60) == memNat t.dram.mem 60 4) &&
    gives (exec (.headerRewrite (Vector.replicate 8 0)) rewriting) (fun t => t.tollDue == [(202, 1)]) = true := by decide +kernel

/-- Subchannel 2 is frozen; its retraining limit is 4. -/
def frozen2 : State := fl (fl (fl dev F.ARB_DFREEZE_FRZ 4) F.DRM_TR_DSEL_SUB 2) F.DRM_RETRAIN_DRIFT_LIM 4
def goWord : Word := F.DRM_TR_CTRL_GO.put 1 ||| F.DRM_TR_CTRL_SUB.put 2 ||| F.DRM_TR_CTRL_COUNT.put 5

/-- A sweep of four points is under way on subchannel 7; subchannel 7 refreshes, with a lane left to retrain. -/
def swept : State := sub7 { sweep := some ⟨1, 0, 3, 1, 5, 0⟩ }
def refreshing7 : State :=
  let s := fl (sub7 { refreshing := true, retrainLeft := 1 }) F.DRM_RETRAIN_DRIFT_LIM 4
  { s with dram := { s.dram with delays := (List.range 8).map fun i => (delayKey false 7 4 (32 + i), 512) } }
def laneAt (d : Nat) : Vector (BitVec 10) 8 := (Vector.replicate 8 512).set 7 (BitVec.ofNat 10 d)

theorem witness_DelaysAreTrained :
    (F.DRM_TR_CTRL_GO.get goWord = 1 ∧ F.DRM_TR_CTRL_COUNT.get goWord ≠ 0 ∧ F.DRM_TR_CTRL_COUNT.get (F.DRM_TR_CTRL_GO.put 1) = 0 ∧
      dev.subFrozen (F.DRM_TR_CTRL_SUB.get goWord) = false ∧ frozen2.subFrozen (F.DRM_TR_CTRL_SUB.get goWord) = true ∧
      F.DRM_TR_CTRL_GO.get (F.DRM_TR_CTRL_COUNT.put 5) = 0) ∧
    (frozen2.subFrozen (frozen2.val F.DRM_TR_DSEL_SUB) = true ∧ dev.subFrozen (dev.val F.DRM_TR_DSEL_SUB) = false ∧
      Sparse.wf frozen2.trainedDelay frozen2.dram.delays = true) ∧
    ((dev.dram.subs[(7 : Fin 8)]).sweep = none ∧ (swept.dram.subs[(7 : Fin 8)]).sweep = some ⟨1, 0, 3, 1, 5, 0⟩) ∧
    (refreshing7.dram.trained = true ∧ refreshing7.maintMay 7 = true ∧ refreshing7.maintWaits 7 = false ∧
      (refreshing7.dram.subs[(7 : Fin 8)]).refreshing = true ∧ (refreshing7.dram.subs[(7 : Fin 8)]).retrainLeft ≠ 0 ∧
      Sparse.wf refreshing7.trainedDelay refreshing7.dram.delays = true) ∧
    ((hammered 4096).maintWaits 7 = true ∧ (taken1 refreshing7 7).maintMay 7 = false ∧ (dev.dram.subs[(7 : Fin 8)]).refreshing = false ∧
      ({ dev with dram := { dev.dram with trained := false } } : State).dram.trained = false ∧
      ((sub7 { refreshing := true }).dram.subs[(7 : Fin 8)]).retrainLeft = 0) := by decide +kernel

theorem test_training :
    gives (exec (.trainingGo goWord) frozen2) (fun t => (t.dram.subs[(2 : Fin 8)]).sweep.isSome && !t.dram.sweepDone) &&
    gives (exec (.trainingGo goWord) dev) (fun t => t.code == .stopLocked && t.tollDue == [(203, 1), (243, 1)]) &&
    gives (exec (.trainingSweepDone 7 [] ((Vector.replicate 40 [0, 0, 0, 0]).set 39 [2, 0, 0, 5000])) swept) (fun t => t.dram.sweepDone &&
      t.dram.errors == BitVec.ofNat 40 (2 ^ 39) && t.dram.results[(39 : Fin 40)] == (1, 2, 4095)) &&
    gives (exec (.retrainStep 7 false 4 none) refreshing7) (fun t => t.tollDue == [(199, 1)]) = true := by decide +kernel

def cf (w : Quad) (arrival : Nat := 0) : CrierFrame := { w := w, crc := BitVec.ofNat 8 (frameCrc w), arrival := arrival }
def typed (t : Nat) (w : Quad := 0) : Quad := BitVec.ofNat 64 (t * 2 ^ 61) ||| w
def ported (p : Fin 4) (x : CrierPort) : State := { dev with crier := { dev.crier with ports := dev.crier.ports.set p x } }
def linked (p : Fin 4) (x : CrierPort) : State := { ported p x with crier := { (ported p x).crier with lastFrame := some 0 } }
def upIdle : CrierFrame := cf (typed 0 (BitVec.ofNat 64 (2 ^ 58)))

theorem witness_PortsAndTheirFrames_lines :
    ((ported 3 { state := .down }).crier.ports[(3 : Fin 4)]).state = .down ∧ (3 : Fin 4) ≠ 0 ∧
    ((ported 0 { state := .down }).crier.ports[(0 : Fin 4)]).state = .down ∧
    (let q := (ported 3 { state := .up }).crier.ports[(3 : Fin 4)]
     q.state = .up ∧ q.forwarded = [] ∧ q.launches = [] ∧ q.cries = [] ∧ q.state.synced = true) ∧
    (linked 0 { state := .ranging }).crier.lastFrame ≠ some (linked 0 { state := .ranging }).now ∧
    ((linked 0 { state := .ranging }).crier.ports[(0 : Fin 4)]).state.synced = true ∧
    ({ upIdle with violation := true } : CrierFrame).good = false ∧ ({ upIdle with crc := upIdle.crc ^^^ 1 } : CrierFrame).good = false ∧
    (cf (typed 7)).good = false := by decide +kernel

theorem test_ports :
    gives (exec (.crierPortSync 3) (ported 3 { state := .down })) (fun t => (t.crier.ports[(3 : Fin 4)]).state == .sync) &&
    gives (exec (.crierLinkLoss 3 false) (ported 3 { state := .up })) (fun t => t.tollDue == [(233, 1)]) &&
    gives (exec (.tallyFrame 3 (cf (typed 7))) (ported 3 { state := .sync })) (fun t => t.tollDue == [(232, 1)]) = true := by
  decide +kernel

def cryA : CrierFrame := cf (typed 2 (BitVec.ofNat 64 (9 * 2 ^ 56)))

/-- What the IDLE frame of a partner two devices from the root says: port 1 of a device at depth 2. -/
def placing : CrierFrame := cf (typed 0 (BitVec.ofNat 64 (2 ^ 58 + 2 ^ 59 + 5 * 2 ^ 40 + 2 * 2 ^ 24)))
def launchA : CrierFrame := cf (typed 4 (BitVec.ofNat 64 (2 ^ 60 + 7 * 2 ^ 36)))
def launchB : CrierFrame := cf (typed 5 0)

theorem witness_PortsAndTheirFrames :
    (placing.good = true ∧ frameType placing.w = frameIdle ∧ frameBits placing.w 59 2 = 1 ∧ frameBits placing.w 24 16 ≠ 65535) ∧
    ((ported 0 { state := .up }).ev.linkLost = none ∧ (ported 3 { state := .sync }).crier.ports[(3 : Fin 4)].miswire = false ∧
      (ported 3 { state := .sync }).crier.ports[(3 : Fin 4)].ring = false ∧
      (ported 3 { state := .sync }).crier.ports[(3 : Fin 4)].state.synced = true) ∧
    (launchA.good = true ∧ launchB.good = true ∧ (ported 3 { state := .up }).addressed launchA.w = true ∧
      (ported 3 { state := .up }).crier.freeEntry = some 0 ∧ frameBits launchA.w 59 1 = 0) ∧
    upIdle.good = true ∧ cryA.good = true ∧ (cf (typed 3)).good = true ∧ (cf (typed 4)).good = true ∧ (cf (typed 1)).good = true ∧
    frameType upIdle.w = frameIdle ∧ frameBits upIdle.w 59 2 = 0 ∧ frameBits upIdle.w 58 1 = 1 ∧
    frameType cryA.w = frameCryA ∧ frameType (typed 3) = frameCryB ∧ frameType (typed 4) = frameLaunchA ∧
    frameType (typed 5) = frameLaunchB ∧ frameType (typed 1) = frameTally ∧
    (let s := ported 3 { state := .up }
     (∀ r : Fin 4, r ≠ 3 → (s.crier.ports[r]).state = .off) ∧
     let t : State := { s with crier := { s.crier with ports := s.crier.ports.set 2 { state := .up } } }
     t.addressed (typed 4 (BitVec.ofNat 64 (5 * 2 ^ 40))) = false ∧ (t.crier.ports[(2 : Fin 4)]).state = .up) := by decide +kernel

theorem test_frames_of_port_0 :
    gives (exec (.idleFrame 0 placing) (ported 0 { state := .up })) (fun t => t.crier.depth == 3 && !t.crier.deep &&
      (t.crier.ports[(0 : Fin 4)]).prxok) &&
    gives (exec (.tallyFrame 0 (cf (typed 1 (BitVec.ofNat 64 (7 * 2 ^ 58 + 77))))) (fl (ported 0 { state := .up }) F.CRY_CTRL_PEN 15)) (fun t =>
      t.crier.lead == 77 && t.crier.lastFrame == some 3200) &&
    gives (exec (.launchPair 3 launchA launchB) (ported 3 { state := .up })) (fun t =>
      (t.crier.table[(0 : Fin 16)]).map (·.act) == some 7) = true := by decide +kernel

theorem test_frames :
    gives (exec (.idleFrame 3 upIdle) (ported 3 { state := .sync })) (fun t => (t.crier.ports[(3 : Fin 4)]).state == .up) &&
    gives (exec (.cryPair 3 cryA (cf (typed 3))) { ported 3 { state := .up } with
      stalls := updAt dev.stalls 4 fun x => { x with bell := { x.bell with phase := .armed } } }) (fun t =>
      (t.bell 4).outs.map (·.code) == [0x29]) = true := by decide +kernel

def ranging : State :=
  let s := fl (ported 0 { state := .ranging }) F.CRY_CTRL_ROOT 1
  { s with crier := { s.crier with asked := some (7, 16 * 3000) } }
def delayAnswer : CrierFrame := cf (typed 6 (BitVec.ofNat 64 (2 ^ 60 + 7 * 2 ^ 48 + 100 * 2 ^ 24 + 5))) (16 * 3200)

theorem witness_DelaysAreMeasured :
    (let f := cf (typed 6 (BitVec.ofNat 64 (255 * 2 ^ 48))) 99
     f.good = true ∧ frameType f.w = frameDelay ∧ frameBits f.w 60 1 = 0 ∧
       ((ported 3 { state := .up }).crier.ports[(3 : Fin 4)]).state = .up) ∧
    (let s := ported 0 { state := .ranging }
     s.crier.asked = none ∧ (s.crier.ports[(0 : Fin 4)]).request = none ∧ (s.crier.ports[(0 : Fin 4)]).state = .ranging) ∧
    (let s := ported 0 { state := .up }
     s.crier.asked = none ∧ (s.crier.ports[(0 : Fin 4)]).request = none ∧ (s.crier.ports[(0 : Fin 4)]).state = .up ∧
       s.crier.askAt < s.now + s.tickLen ∧ PortState.up.synced = true ∧ PortState.ranging.synced = true ∧ 0 < ranging.crier.lead) ∧
    (let s : State := { ranging with crier := { ranging.crier with asked := none }, ev := { unanswered := some (7, 16 * 3000) } }
     s.crier.asked = none ∧ s.ev.unanswered = some (7, 16 * 3000) ∧ s.isRoot = true ∧ s.crier.samples = [] ∧
       (s.crier.ports[(0 : Fin 4)]).state = .ranging ∧ 0 < s.crier.lead ∧ 4096 ≤ 32 * s.crier.lead ∧ s.crier.leadShort = false) ∧
    (ranging.crier.asked = some (7, 16 * 3000) ∧ ranging.now + ranging.tickLen ≤ 16 * 3000 / 16 + 16 * 2048 ∧
      ({ ranging with chron := 35760 } : State).now + 32 > 16 * 3000 / 16 + 16 * 2048 ∧
      delayAnswer.good = true ∧ frameType delayAnswer.w = frameDelay ∧ frameBits delayAnswer.w 60 1 = 1 ∧
      frameBits delayAnswer.w 48 8 = 7 ∧ (ranging.crier.ports[(0 : Fin 4)]).state = .ranging ∧ ranging.crier.samples = [] ∧
      ranging.isRoot = true ∧ 4096 ≤ 32 * ranging.crier.lead ∧ ranging.crier.leadShort = false) := by decide +kernel

theorem test_delays :
    gives (exec (.delayResponse 0 delayAnswer) ranging) (fun t => t.crier.samples == [1550] && t.crier.accumIn == 5 &&
      t.crier.asked == none) &&
    gives (exec .delayUnanswered { ranging with chron := 35760 }) (fun t => t.tollDue == [(239, 1)] && t.crier.asked == none) &&
    gives (exec (.delayResponse 0 delayAnswer) { ranging with
      tollDue := [(239, 1)], crier := { ranging.crier with asked := none }, ev := { unanswered := some (7, 16 * 3000) } }) (fun t =>
      t.tollDue == [] && t.crier.samples == [1550]) &&
    gives (exec .delayRequestDue (ported 0 { state := .ranging })) (fun t => (t.crier.ports[(0 : Fin 4)]).request == some 0 &&
      t.crier.seq == 1) = true := by decide +kernel

def entered : State := { dev with crier := { dev.crier with
  table := dev.crier.table.set 15 (some { slot := { armed := true, latched := ⟨3231, 0, true⟩ } }) } }
def leaving : State := { ported 0 { state := .up, forwarded := [(1, 2), (3, 4)] } with chron := 2048 }

theorem witness_EntriesFireAndCyclesLeave :
    (entered.crier.table[(15 : Fin 16)] = some { slot := { armed := true, latched := ⟨3231, 0, true⟩ } } ∧ 31 < entered.tickLen ∧
      (3231 : Quad).toNat = (entered.now + 31) % 2 ^ 64 ∧ entered.crier.table[(0 : Fin 16)] = none ∧
      ({ armed := true, latched := ⟨3231, 0, true⟩ } : Slot).test = false ∧
      entered.slotHit entered.tallyClose.tally { armed := true, latched := ⟨3231, 0, true⟩ } ≠ none ∧
      entered.slotHit entered.tallyClose.tally { armed := true, latched := ⟨3232, 0, true⟩ } = none) ∧
    (leaving.cycleStart = some 2048 ∧ (leaving.crier.ports[(0 : Fin 4)]).state = .up ∧
      (leaving.crier.ports[(0 : Fin 4)]).cycleAt ≠ some 2048 ∧
      (leaving.crier.ports[(0 : Fin 4)]).forwarded = [((1 : Quad), (2 : Quad)), (3, 4)]) ∧
    (let s : State := { dev with chron := 2048 }
     s.cycleStart = some 2048 ∧ (s.crier.ports[(0 : Fin 4)]).state = .off) ∧
    (let s : State := { ported 3 { state := .sync, cycleAt := some 2048 } with chron := 2048 }
     s.cycleStart = some 2048 ∧ (s.crier.ports[(3 : Fin 4)]).cycleAt = some 2048) ∧
    (let s : State := { ported 3 { state := .sync } with chron := 2048 }
     (s.crier.ports[(3 : Fin 4)]).state ≠ .off ∧ (s.crier.ports[(3 : Fin 4)]).cycleAt ≠ some 2048) := by decide +kernel

theorem test_entries :
    gives (exec (.crierEntryFire 15) entered) (fun t => t.crier.table[(15 : Fin 16)] == none &&
      t.acts.map (fun a => (a.instant, a.due, a.unit)) == [(3231, 3232, 79)]) &&
    gives (exec (.crierTransmitCycle 0) leaving) (fun t => (t.crier.ports[(0 : Fin 4)]).forwarded == [(3, 4)] &&
      (t.crier.ports[(0 : Fin 4)]).cycleAt == some 2048) = true := by decide +kernel

/-! ## Fuses, power, reset and start-up -/

def fused (w : Nat) (data : Word) : State := fl (wd dev R.IMG_OTP_DATA.base data.toNat) F.IMG_OTP_SEL_WORD w
def leveled (level : Nat) (sig : Bool) : State := { dev with image := { dev.image with level := level, sigchk := sig } }

theorem witness_FusesAreBlown :
    ({ dev with image := { dev.image with otpUntil := some 3232 } } : State).otpBusy = true ∧ (fused 20 5).otpBusy = false ∧
    (fused 20 5).otpRefused ((fused 20 5).val F.IMG_OTP_SEL_WORD) ((fused 20 5).word R.IMG_OTP_DATA.base) = false ∧
    (fused 31 5).otpRefused ((fused 31 5).val F.IMG_OTP_SEL_WORD) ((fused 31 5).word R.IMG_OTP_DATA.base) = true ∧
    (leveled 64 false).image.sigchk = false ∧
    ((leveled 64 true).image.phase = .running ∧ (leveled 64 true).image.source = 0 ∧ (leveled 64 true).image.sigchk = true ∧
      (leveled 64 true).image.level ≤ 64 ∧ arbCount (leveled 64 true).image.otp < 64 ∧
      (leveled 0 true).image.level ≤ arbCount (leveled 0 true).image.otp) := by decide +kernel

theorem test_fuses :
    gives (exec .otpProgram (fused 16 0xFF)) (fun t => t.image.otp[16] == 0xF && t.image.otpUntil == some (3200 + 80000000)) &&
    gives (exec .otpProgram (fused 31 5)) (fun t => t.code == .badParam && t.tollDue == [(243, 1)]) &&
    gives (exec .rollbackAdvance (leveled 33 true)) (fun t => t.image.otp[17] == 0xFFFFFFFF && t.image.otp[18] == 1) = true := by
  decide +kernel

/-- A stall whose ring ends at the end of record memory. -/
def stored : State := { on0 with stalls := updAt dev.stalls 0 fun x => { x with setup := { ring := true, base := dev.dramSize - 64, ringBytes := 64 } } }
def heavy : State := { on0 with stalls := updAt dev.stalls 0 fun x => { x with
  mode := .running, setup := { ring := true, rate := 1000, rateLean := 1000, slotBytes := 256, slots := 4 } } }
def changing (r : Regime) : State := { dev with power := { dev.power with change := some r } }

theorem witness_RegimesAreRequestedAndChange :
    dev.power.forced = false ∧ ({ dev with power := { dev.power with forced := true } } : State).power.forced = true ∧
    dev.recharge.leanFits = true ∧ heavy.recharge.leanFits = false ∧ ({ dev with dram := {} } : State).dram.trained = false ∧
    (dev.dram.subs[(7 : Fin 8)]).sr = .active ∧ (∀ n ∈ [Regime.lean, .full], dev.power.regime ≠ .watch ∧ n ≠ .watch) ∧
      dev.ringInStore = false ∧ dev.dram.trained = true ∧ stored.ringInStore = true ∧
    dev.power.change = none ∧ (changing .lean).power.change = some .lean ∧ (changing .lean).power.regime ≠ .watch ∧
    (changing .lean).power.regime ≠ .lean ∧ (changing .lean).cal.slice = none ∧
    (changing .full).power.change = some .full ∧ (changing .full).power.regime = .full ∧ Regime.full ≠ .watch := by decide +kernel

theorem test_regimes :
    gives (exec (.regimeRequestLean false false) heavy) (fun t => t.code == .range && t.tollDue == [(243, 1)] &&
      t.power == heavy.power) &&
    gives (exec (.regimeRequestLean false false) dev) (fun t => (t.dram.subs[(7 : Fin 8)]).sr == .entering false) &&
    gives (exec (.regimeRequestWatch false false) dev) (fun t => t.power.watchAt == some (3200 + 40000000)) &&
    gives (exec (.regimeRequestLean false false) dev) (fun t => t.power.change == some .lean) &&
    gives (exec .regimeChange (changing .lean)) (fun t => t.power.regime == .lean && t.cal.steps == 16 &&
      (t.dram.subs[(7 : Fin 8)]).sr == .exiting && (t.mints[(0 : Fin 5)]).gates.map (·.on) == [false, true]) = true := by decide +kernel

def watchDue (at_ : Nat) : State := { dev with
  power := { dev.power with watchAt := some at_ }, refs := { dev.refs with refPresent := true, refOk := true } }
def watching : State := { fl dev F.PWR_WAKE_EN_EN 16 with power := { dev.power with regime := .watch, railsUp := false } }
def store1 : WatchStore := { hall := [(5, 1)], bad := [], written := [], force := [], segNos := [], run := [] }
def wakingUp : State := { dev with
  power := { dev.power with regime := .watch, waking := true, store := some store1 }
  cal := { dev.cal with first := false, mode := 1 } }

theorem witness_WatchIsEnteredAndLeft :
    dev.power.watchAt = none ∧ (watchDue 3232).now + (watchDue 3232).tickLen ≤ 3232 ∧
    (3231 < (watchDue 3231).now + (watchDue 3231).tickLen ∧ (watchDue 3231).power.regime ≠ .watch ∧ (watchDue 3231).power.wakes = [] ∧
      (∀ k : Fin 8, ((watchDue 3231).yards[k]).adds = [] ∧ ((watchDue 3231).yards[k]).owed = []) ∧
      (∀ f ∈ (watchDue 3231).run, f = fnTally ∨ f = fnAux) ∧ (∀ n : Fin 16, (watchDue 3231).stalls[n] = {}) ∧
      (watchDue 3231).power.change = none) ∧
    (dev.wakeFires 0 = false ∧ watching.wakeFires 4 = true ∧ dev.wakeFires 4 = true ∧ dev.power.watchAt = none ∧
      (let s := fl (watchDue 5000) F.PWR_WAKE_EN_EN 16
       s.power.regime ≠ .watch ∧ s.power.watchAt.isSome = true ∧ (s.val F.PWR_WAKE_EN_EN).testBit 4 = true ∧ s.power.waking = false)) ∧
    ((let s : State := { watching with power := { watching.power with waking := true } }
      s.power.waking = true ∧ s.wakeFires 4 = true ∧ s.power.regime = .watch) ∧ dev.wakeFires 1 = false ∧
     ({ dev with ev := { trips := true } } : State).wakeFires 1 = true) ∧
    (wakingUp.mintsReady = true ∧ ({ wakingUp with mints := Vector.replicate 5 { mode := .pulling } } : State).mintsReady = false ∧
      wakingUp.retrainPasses {} (wakingUp.flag F.PWR_REGIME_WAKE_TO) = true ∧
      wakingUp.retrainPasses { eye := none } (wakingUp.flag F.PWR_REGIME_WAKE_TO) = false) ∧
    (wakingUp.storeBad = false ∧ wakingUp.conv.retired = none ∧ wakingUp.conv.degraded = false ∧ store1.run = [] ∧ store1.segNos = [] ∧
      ({ wakingUp with written := store1.written, force := store1.force } : State).flag F.MNT_REF_SEL = wakingUp.refs.active) ∧
    ((watching.val F.PWR_WAKE_EN_EN).testBit (4 : Fin 5).val = true ∧ (watching.val F.PWR_WAKE_EN_EN).testBit (2 : Fin 5).val = false ∧
      watching.power.regime = .watch ∧ watching.power.waking = false ∧ watching.power.forced = false ∧ dev.power.regime ≠ .watch) ∧
    (wakingUp.power.waking = true ∧ wakingUp.power.railsUp = true ∧ wakingUp.power.store = some store1 ∧
      wakingUp.cal.first = false ∧ wakingUp.cal.mode = 1 ∧ wakingUp.conv.retired = none) := by decide +kernel

theorem test_watch :
    gives (exec .watchEntry (watchDue 3231)) (fun t => t.power.regime == .watch && !t.power.railsUp && t.power.store.isSome &&
      (t.mints[(0 : Fin 5)]).mode == .stopped) &&
    gives (exec (.wakeEvent 4) watching) (fun t => t.power.waking && t.sticky.length == 1) &&
    gives (exec (.wakeComplete {} true) wakingUp) (fun t => t.power.regime == .full && t.hall.mem == [(5, 1)] && !t.power.waking) &&
    gives (exec (.wakeComplete { eye := none } true) wakingUp) (fun t => t.image.phase == .down && t.hall.mem == [] &&
      t.tollDue == [(200, 1)])
    = true := by
  decide +kernel

def railing (pen : Vector Bool 6) (t0 now : Nat) : State := { dev with
  chron := BitVec.ofNat 80 now, power := { dev.power with railsUp := false, pen := pen, waiting := some (1, t0) } }
/-- The monitors have been read at an instant; values that lie in their windows. -/
def monitored (s : State) (at_ : Nat) (v : Vector Nat 7) : State :=
  { s with power := { s.power with readings := v.map fun x => some (at_, x) } }
def inWindow : Vector Nat 7 := #v[17000, 20000, 36000, 22000, 18000, 36000, 36000]
/-- Every rail is on. -/
def powered1 : State := { dev with power := { dev.power with pen := Vector.replicate 6 true, waiting := none } }
def unwaited (at_ : Nat) (reset : Bool) : State := { dev with power := { dev.power with
  railsUp := false, waiting := none, retryAt := some at_, holdEnd := some at_, resetN := reset } }

theorem witness_RailsAndBrownOuts :
    (let s := railing #v[true, true, false, false, false, false] 0
     let u := monitored (s 39999969) 39999968
     (s 39999968).now + 32 ≤ 0 + 40000000 ∧ 0 + 40000000 < (s 39999969).now + 32 ∧ (s 39999969).ev.railOut = none ∧
      (s 39999969).power.waiting = some (1, 0) ∧ (u (Vector.replicate 7 0)).strays 1 = true ∧ (u inWindow).strays 1 = false ∧
      (u inWindow).regulated 2 = false ∧ (u inWindow).power.waiting = some (1, 0) ∧ (u inWindow).reachedWindow 1 0 = true) ∧
    (let u := monitored (railing (Vector.replicate 6 true) 0 40000000) 40000000 inWindow
     u.strays 1 = false ∧ ∀ i : Fin 6, u.regulated i = true) ∧
    (let s := railing (Vector.replicate 6 true) 0 800000000
     0 + 800000000 < s.now + 32 ∧ s.reachedWindow 1 0 = false ∧ s.power.retryAt = none ∧ s.tollDue = []) ∧
    (∀ x ∈ [(3231, false), (3232, false), (3231, true)], let s := unwaited x.1 x.2
     s.power.retryAt = some x.1 ∧ s.power.holdEnd = some x.1 ∧ s.power.resetN = x.2 ∧ s.regulated 0 = false) ∧
    3231 < (unwaited 3231 false).now + 32 ∧ (unwaited 3232 false).now + (unwaited 3232 false).tickLen ≤ 3232 ∧
    powered1.railsDue = true ∧ powered1.image.op = none ∧ dev.railsDue = false := by decide +kernel

theorem test_rails :
    gives (exec .railSettled (railing #v[true, true, false, false, false, false] 0 39999969)) (fun t =>
      t.power.pen == #v[true, true, true, false, false, false] && t.power.waiting == some (2, 39999969)) &&
    gives (exec .railTimeout (railing (Vector.replicate 6 true) 0 800000000)) (fun t => t.tollDue == [(252, 1)] &&
      t.power.pen == Vector.replicate 6 false) &&
    gives (exec .sequenceRetry (unwaited 3231 false)) (fun t => t.power.waiting == some (0, 3200) && t.power.retryAt == none) &&
    gives (exec .railSettled (monitored (railing (Vector.replicate 6 true) 0 40000000) 40000000 inWindow)) (fun t => t.power.railsUp) &&
    gives (exec .brownOutRestart (unwaited 3231 false)) (fun t =>
      t.power.waiting == some (0, 3200)) &&
    gives (exec .brownOut { powered1 with run := [fnSieve] }) (fun t => t.run == [] && t.tollDue == [(252, 1)] &&
      t.chron == 3200) = true := by
  decide +kernel

def regulated (k : Nat) : State := fl dev F.PWR_RG_CFG_ADDR 0x40 k

theorem witness_RegulatorsAreWatched :
    ((regulated 0).pmAddressed 0 = true ∧ (∀ k : Fin 6, k ≠ 0 → (regulated 0).pmAddressed k = false) ∧ 2 ≤ (2 : BitVec 16).toNat) ∧
    (∀ k : Fin 6, dev.pmAddressed k = false) ∧
    ((regulated 3).pmAddressed 3 = true ∧ ∀ k : Fin 6, k ≠ 3 → (regulated 3).pmAddressed k = false) ∧
    powered1.power.pen[(0 : Fin 6)] = true ∧ dev.power.pen[(0 : Fin 6)] = false ∧ min 900 (powered1.power.vcoreCmd + 5) = 855 ∧
    powered1.power.vcoreCmd = 850 ∧ powered1.vcoreHolds 855 = true ∧ powered1.val F.PWR_RG_CFG_ADDR 0 = 0 ∧
    (fl powered1 F.PWR_RG_CFG_ADDR 0x40 0).val F.PWR_RG_CFG_ADDR 0 ≠ 0 ∧
    ({ powered1 with power := { powered1.power with vcoreCmd := 900 } } : State).power.vcoreCmd = min 900 (900 + 5) ∧
    (monitored powered1 3200 (Vector.replicate 7 0)).vcoreHolds 855 = false ∧ powered1.power.mute.getLsbD 0 = false ∧
    ({ powered1 with power := { powered1.power with mute := 1 } } : State).power.mute.getLsbD 0 = true := by decide +kernel

theorem test_regulators :
    gives (exec (.pmAlert (Vector.replicate 6 (some 2))) (regulated 0)) (fun t => t.tollDue == [(252, 1)] && t.status.level == 3) &&
    gives (exec (.pmbusPoll (Vector.replicate 6 ⟨some 0, some 0, some 0⟩)) (regulated 3)) (fun t => t.tollDue == []) &&
    gives (exec (.pmbusPoll (Vector.replicate 6 ⟨some 0, none, none⟩)) (regulated 3)) (fun t => t.tollDue == [(252, 2)]) &&
    gives (exec (.vcoreAdapt (some true)) powered1) (fun t => t.power.vcoreCmd == 855) = true := by decide +kernel

def hot (th : Bool) : State := { fl dev F.PWR_THERM_TJ_WARN 115 with power := { dev.power with
  thermal := th, temps := (Vector.replicate 12 none).set 0 (some 77) } }
def cooling (now : Nat) : State := { dev with
  chron := BitVec.ofNat 80 now, power := { dev.power with regime := .lean, forced := true, coolSince := some 0 } }

theorem witness_TemperatureIsWatched :
    ((hot false).power.regime = .full ∧ (hot false).power.watchAt = none ∧ (hot false).power.forced = false ∧
      (hot false).power.change = none ∧ (hot false).val F.PWR_THERM_TJ_WARN = 115 ∧
      (BitVec.ofInt 16 (110 * 128 - 1)).toInt < (115 - 5) * 128 ∧ 115 * 128 ≤ (BitVec.ofInt 16 (115 * 128)).toInt ∧
      130 * 128 ≤ (BitVec.ofInt 16 (130 * 128)).toInt ∧ (hot true).power.thermal = true ∧ (hot true).recharge.leanFits = true ∧
      (hot true).power.watchForced = false ∧ (hot true).power.temps = (Vector.replicate 12 none).set 0 (some 77) ∧
      120 * 128 ≤ (BitVec.ofInt 16 (120 * 128)).toInt ∧ (BitVec.ofInt 16 (130 * 128 - 1)).toInt < 130 * 128) ∧
    ((cooling 399999999968).power.coolSince = some 0 ∧ (cooling 399999999968).now + (cooling 399999999968).tickLen ≤ 0 + 400000000000 ∧
      0 + 400000000000 < (cooling 399999999969).now + (cooling 399999999969).tickLen ∧ (cooling 399999999969).power.forced = true ∧
      (cooling 399999999969).power.regime = .lean ∧ (cooling 399999999969).power.watchAt = none ∧
      (cooling 399999999969).requested = .full ∧ ((hot true).dram.subs[7]).sr = .active ∧
      ((cooling 399999999969).dram.subs[0]).sr = .active ∧
        (fl (cooling 399999999969) F.PWR_REGIME_REQ 1).requested = .lean) := by decide +kernel

theorem test_temperature :
    gives (exec (.tempReading 11 (BitVec.ofInt 16 (115 * 128))) (hot false)) (fun t => t.power.thermal && t.status.level == 2 &&
      t.power.sensor == 11) &&
    gives (exec (.tempReading 11 (BitVec.ofInt 16 76)) (hot false)) (fun t => t.power.tj == 77 && t.power.sensor == 0) &&
    gives (exec (.tempReading 11 (BitVec.ofInt 16 (130 * 128))) (hot true)) (fun t => t.power.forced && t.tollDue == [(254, 1)] &&
      t.status.level == 3 && t.power.watchAt == some 3200) &&
    gives (exec (.tempReading 11 (BitVec.ofInt 16 (120 * 128))) (hot true)) (fun t => t.power.forced && t.tollDue == [(253, 1)] &&
      t.power.change == some .lean && (t.dram.subs[7]).sr == .entering false) &&
    gives (exec .thermalRecovery (cooling 399999999969)) (fun t => !t.power.forced && t.power.change == some .full &&
      (t.dram.subs[0]).sr == .entering false) = true := by
  decide +kernel

def unpowered : State := { dev with power := { dev.power with vaon := false } }
def held1 : State := { dev with power := { dev.power with resetN := true } }
def resetDue (at_ : Nat) : State := { dev with barter := { dev.barter with resetAt := some at_ }, run := [fnSieve] }

theorem witness_ResetsKeepWhatTheyKeep :
    unpowered.power.vaon = false ∧ dev.power.vaon = true ∧ dev.power.resetN = false ∧ dev.image.op = none ∧
      dev.flag F.MNT_REF_SEL = false ∧
    (held1.power.vaon = true ∧ held1.power.resetN = true ∧ held1.power.holdEnd = none ∧ held1.regulated 0 = false) ∧
    (∀ e ∈ [3231, 3232], ({ held1 with power := { held1.power with holdEnd := some e } } : State).power.holdEnd = some e ∧
      (e < held1.now + held1.tickLen ↔ e = 3231)) ∧
    (resetDue 3232).now + (resetDue 3232).tickLen ≤ 3232 ∧ 3231 < (resetDue 3231).now + (resetDue 3231).tickLen ∧
    (resetDue 3231).power.vaon = true := by decide +kernel

theorem test_resets :
    gives (exec .vaonPowerUp unpowered) (fun t => t.chron == 0 && t.power == { State.reset.power with releaseAt := some 40000000 }) &&
    gives (exec .vaonRemoval dev) (fun t => t.chron == 0 && !t.power.vaon) &&
    gives (exec .resetNAssert { dev with tolls := [(1, 1)], run := [fnSieve] }) (fun t => t.tolls == [] && t.run == [] &&
      t.chron == 3200) &&
    gives (exec .resetNRelease held1) (fun t => !t.power.resetN && t.power.waiting == some (0, 3200)) &&
    gives (exec .resetNRelease { held1 with power := { held1.power with holdEnd := some 3232 } }) (fun t => !t.power.resetN &&
      t.power.waiting == none && t.power.holdEnd == some 3232) &&
    gives (exec .resetNRelease { unpowered with power := { unpowered.power with resetN := true } }) (fun t => t == unpowered) &&
    gives (exec .internalReset (resetDue 3231)) (fun t => t.run == [] && t.image.released == 3200 && !t.power.resetN) = true := by
  decide +kernel

def booting (p : BootPhase) : State := { dev with image := { dev.image with phase := p }, conv := { dev.conv with retired := some 16 } }

theorem witness_StartupRuns :
    State.reset.power.resetN = true ∧ dev.power.resetN = false ∧ dev.power.railsUp = true ∧ (booting .down).image.phase = .down ∧
    (booting .applying).image.phase = .applying ∧ (booting .applying).image.starts = [] ∧
    (booting .applying).conv.retired = some 16 ∧ (booting .applying).trainingPasses {} (fun _ => true) = true := by decide +kernel

theorem test_startup :
    gives (exec (.startup none {} {}) (booting .down)) (fun t => t.image.phase == .safe && t.tollDue == [(250, 2)] &&
      t.status.level == 3) &&
    gives (exec (.startup none {} {}) (booting .applying)) (fun t => t.image.phase == .running && t.dram.mem == []) = true := by
  decide +kernel

/-! ## Well-formed commands, and the device as a whole -/

theorem test_wellFormed_body : WellFormed (.ping (List.replicate 1448 0)) = true ∧
  WellFormed (.ping (List.replicate 1449 0)) = false := by
  decide +kernel

theorem test_wellFormed_frame : WellFormed (.arpRequest (List.replicate 60 0)) = true ∧
    WellFormed (.arpRequest (List.replicate 59 0)) = false ∧ WellFormed (.icmpEcho (List.replicate 1515 0)) = false := by decide +kernel

theorem test_wellFormed_mints : WellFormed (.refAbsent (.overThreshold [0, 1]) (Vector.replicate 5 {})) = true ∧
    WellFormed (.refAbsent (.overThreshold [1, 1]) (Vector.replicate 5 {})) = false := by decide +kernel

theorem test_wellFormed_coefficients : WellFormed (.calCheckEnd {}) = true ∧ WellFormed (.calCheckEnd { ofs := 32768 }) = false ∧
    WellFormed (.calCheckEnd { inl := [(64, 0)] }) = false ∧ WellFormed (.reliefSelfcalEnd {} (Vector.replicate 16 2000)) = true ∧
    WellFormed (.reliefSelfcalEnd {} (Vector.replicate 16 2001)) = false := by decide +kernel

theorem test_wellFormed_numbers : WellFormed (.auxCalComplete 0 65535) = true ∧ WellFormed (.auxCalComplete 0 65536) = false ∧
    WellFormed (.auxConversionEnd 65535) = true ∧ WellFormed (.auxConversionEnd 65536) = false ∧
    WellFormed (.hallRequest 0 0 false [0] false) = true ∧ WellFormed (.hallRequest 0 0 false [] false) = false ∧
    WellFormed (.hammerMitigation 0 0 262143) = true ∧ WellFormed (.hammerMitigation 0 0 262144) = false ∧
    WellFormed (.startup (some ⟨16777216, true, false, 4096, 0, 0⟩) {} {}) = true ∧
    WellFormed (.startup (some ⟨16777216, true, false, 0, 0, 0⟩) {} {}) = false ∧
    WellFormed (.startup none {} { eye := some (5, 4) }) = false ∧
      WellFormed (.wakeComplete { bits := [(0, some (0, 1024))] } true) = false ∧
    WellFormed (.wakeComplete { bits := [(0, some (1023, 1023)), (1, none)] } true) = true := by decide +kernel

/-- The table gives no row bits, so no word spells a command. -/
theorem test_no_words : decodeTableWord 32 0 = none ∧ State.reset.withFetchWord 32 0 = State.reset := by decide +kernel

theorem test_step : (match step { powered1 with pending := [.vcoreAdapt (some false), .tick { volts := Vector.replicate 17 (Vector.replicate 2 0) }] } with
    | .next t => t.pending.length == 1 && t.power.vcoreCmd == 845 | _ => false) = true ∧
    (match step dev with | .next t => t == dev | _ => false) = true := by decide +kernel

theorem witness_StepRunsTheFront : ({ dev with pending := [.sequenceRetry] } : State).pending = [.sequenceRetry] ∧ dev.pending = [] := by
  decide +kernel

theorem witness_MemoriesStayCanonical : dev.memoriesWf ∧ (match step dev with | .next t => t == dev | _ => false) = true := by
  decide +kernel

def quiet : TickIn := { volts := Vector.replicate 17 (Vector.replicate 2 0) }
def watch1 : State := { watching with refs := { watching.refs with refOk := true } }

theorem witness_ChronicleCountsTicks :
    State.reset.power.vaon = true ∧ unpowered.power.vaon = false ∧ (Instr.paramWrite 0 0).movesChronicle = false ∧
    (watch1.power.regime = .watch ∧ watch1.power.watchOnRef = true) ∧
    gives (exec (.tick quiet) State.reset) (fun t => t.chron == 32) = true ∧
    gives (exec (.tick quiet) watch1) (fun t => t.chron == 3600) = true ∧
    gives (exec (.tick quiet) unpowered) (fun t => t == unpowered) = true := by decide +kernel

/-- A counter at its ceiling. -/
def saturated : State := { dev with tolls := [(255, tollMax)] }

theorem witness_TollsOnlyRise : saturated.tollsSaturate ∧ Instr.clearsTolls (.scrubStep .clean .clean) = false ∧
    gives (exec .resetNRelease { saturated with power := held1.power }) (fun t => t.tollValue 255 == tollMax) = true := by
  refine ⟨⟨by decide +kernel, fun i => ?_⟩, by decide +kernel, by decide +kernel⟩
  change (if i < 255 then 0 else if i = 255 then tollMax else 0) ≤ tollMax
  split
  · exact Nat.zero_le _
  · split
    · exact le_refl _
    · exact Nat.zero_le _

theorem test_tick_closes :
    gives (exec (.tick quiet) { State.reset with
      tolls := [(255, tollMax - 1)], tollDue := [(255, 3)], log := { State.reset.log with due := [⟨1, 2, 3, 4, 5⟩] } }) (fun t =>
        t.tollValue 255 == tollMax && t.tollDue == [] && t.log.due == [] && t.log.total == 1 && t.logEntry 0 == ⟨1, 2, 3, 4, 5⟩ &&
        t.ev == {} && t.run == []) = true := by decide +kernel

/-- A running device in its tick 100: nothing is due but what the tick itself does. -/
theorem test_tick_runs :
    gives (exec (.tick quiet) dev) (fun t => t.chron == 3232 && t.tolls == [] && t.pending == []) = true := by decide +kernel

end Sys2Proof.Tests
end

/-! ## Reset and the snapshots (02_tally R58; 03_mints R71) -/

section

open Sys2Proof Sys2Proof.Machine

namespace Sys2Proof.Machine

/-- A device-wide register without held fields reads as its own chapter has it (R346). -/
theorem State.readValue_own (s : State) (r : RegDef) (hl : locate r.base = some (r, 0, 0)) (hp : r.perStall = false)
    (hm : r.mask (fun a => a == .lv || a == .sl || a == .im) = 0) : s.readValue r.base = some (s.roBits r.base 0) := by
  simp [State.readValue, hl, hp, hm]

/-- Two words of a number, joined. -/
theorem ofNat_append_ofNat (n : Nat) : (BitVec.ofNat 32 (n / 2 ^ 32) ++ BitVec.ofNat 32 n : BitVec 64) = BitVec.ofNat 64 n := by
  apply BitVec.eq_of_toNat_eq
  simp only [BitVec.toNat_append, BitVec.toNat_ofNat]
  rw [← Nat.shiftLeft_add_eq_or_of_lt (Nat.mod_lt _ (by decide)), Nat.shiftLeft_eq]
  omega

/-- A word of at most 64 bits of a number depends on the number modulo 2^64 alone. -/
theorem ofInt_eq_ofNat_mod {w : Nat} (hw : w ≤ 64) (i : Int) :
    BitVec.ofInt w i = BitVec.ofNat w (i % (2 ^ 64 : Nat)).toNat := by
  have hd : ((2 ^ w : Nat) : Int) ∣ (2 ^ 64 : Nat) := by exact_mod_cast Nat.pow_dvd_pow 2 hw
  rw [← BitVec.ofInt_natCast, Int.toNat_of_nonneg (by omega)]
  apply BitVec.eq_of_toNat_eq
  rw [BitVec.toNat_ofInt, BitVec.toNat_ofInt, Int.emod_emod_of_dvd _ hd]

theorem satSigned_32_eq_max_min (i : Int) : satSigned 32 i = max (-2 ^ 31) (min (2 ^ 31 - 1) i) := by
  simp only [satSigned, clampInt]
  split_ifs <;> omega

/-- The broadcast of the present tick carries its chronicle (R43). -/
theorem State.broadcast_bchron (s : State) : s.broadcast.bchron = s.now := congrArg BitVec.toNat s.tallyClose_calm.chron

/-- The two words of the position in a snapshot (R5, R58). -/
theorem snapRead_position (s : State) :
    ((snapRead s).tally.snapPhi ++ s.snapPlo : BitVec 64) = BitVec.ofInt 64 (s.broadcast.bp / 65536) := by
  have hlow := ofInt_eq_ofNat_mod (w := 32) (by decide) (s.broadcast.bp / 65536)
  rw [ofInt_eq_ofNat_mod (le_refl 64), ← ofNat_append_ofNat, ← hlow]
  rfl

/-- The two words of the chronicle in a snapshot (R58). -/
theorem snapRead_chronicle (s : State) :
    ((snapRead s).tally.snapChi ++ (snapRead s).tally.snapClo : BitVec 64) = BitVec.ofNat 64 s.now := by
  rw [← s.broadcast_bchron]
  exact ofNat_append_ofNat _

/-- The speed in a snapshot, in grains per tick (R58). -/
theorem snapRead_speed (s : State) : (snapRead s).tally.snapSpd =
    BitVec.ofInt 32 (max (-2 ^ 31) (min (2 ^ 31 - 1) ((s.broadcast.bs : Rat) * 32 / s.tickLen).floor)) := by
  have perTick : (s.broadcast.bs : Rat) / s.tickStep = s.broadcast.bs * 32 / s.tickLen := div_div_eq_mul_div ..
  rw [← perTick, ← satSigned_32_eq_max_min]
  rfl

theorem wordAt_now_zero (s : State) : wordAt s.now 0 = s.chron.extractLsb' 0 32 := by
  apply BitVec.eq_of_toNat_eq
  simp [wordAt, State.now]

/-- What a read of MNT_CHRON_LO latches, as bits of the chronicle (R4, R71). -/
theorem chronLatch_eq (s : State) : chronLatch s = { s with refs := { s.refs with
    chronHi := s.chron.extractLsb' 32 32, chronEra := (s.chron.extractLsb' 64 16).zeroExtend 32 } } := by
  have hi : BitVec.ofNat 32 (s.now / 2 ^ 32) = s.chron.extractLsb' 32 32 := by
    apply BitVec.eq_of_toNat_eq
    simp [State.now, Nat.shiftRight_eq_div_pow]
  have era : BitVec.ofNat 32 (s.now / 2 ^ 64) = (s.chron.extractLsb' 64 16).zeroExtend 32 := by
    apply BitVec.eq_of_toNat_eq
    simp [State.now, Nat.shiftRight_eq_div_pow]
    omega
  simp only [chronLatch, hi, era]

theorem zeroExtend_and_0xFFFF (x : BitVec 16) : x.zeroExtend 32 &&& 0xFFFF = x.zeroExtend 32 := by
  apply BitVec.eq_of_toNat_eq
  have hx := x.isLt
  simp [Nat.and_two_pow_sub_one_eq_mod _ 16]
  omega

end Sys2Proof.Machine

/-- Settles O55: each part is read off the state after reset. -/
theorem resetLeaves : Obligations.ResetLeaves := by
  unfold Obligations.ResetLeaves
  refine ⟨rfl, rfl, rfl, ?mints, ?stalls, ?ports, fun _ => rfl, rfl, rfl, rfl, rfl⟩
  case mints => decide
  case stalls => decide
  case ports => decide

/-- Settles O16: the latched words are the two halves of the broadcast's position and chronicle, and its speed. -/
theorem snapshotsAreLatched : Obligations.SnapshotsAreLatched := by
  unfold Obligations.SnapshotsAreLatched
  intro s
  refine ⟨⟨(snapRead s).answer .ok, rfl, rfl, rfl, rfl, ?plo, snapRead_position s, snapRead_chronicle s, snapRead_speed s,
    ?phi, ?clo, ?chi, ?spd⟩, (chronLatch s).answer .ok, rfl, ?latched, ?lo, ?hi, ?era⟩
  case plo => exact s.readValue_own R.TLY_SNAP_PLO (by decide) rfl rfl
  case phi => exact State.readValue_own _ R.TLY_SNAP_PHI (by decide) rfl rfl
  case clo => exact State.readValue_own _ R.TLY_SNAP_CLO (by decide) rfl rfl
  case chi => exact State.readValue_own _ R.TLY_SNAP_CHI (by decide) rfl rfl
  case spd => exact State.readValue_own _ R.TLY_SNAP_SPD (by decide) rfl rfl
  case latched => rw [chronLatch_eq]; rfl
  case lo => exact (s.readValue_own R.MNT_CHRON_LO (by decide) rfl rfl).trans (congrArg some (wordAt_now_zero s))
  case hi => rw [chronLatch_eq]; exact State.readValue_own _ R.MNT_CHRON_HI (by decide) rfl rfl
  case era =>
    rw [chronLatch_eq]
    exact (State.readValue_own _ R.MNT_CHRON_ERA (by decide) rfl rfl).trans (congrArg some (zeroExtend_and_0xFFFF _))

end

/-! ## The windows of a stall (06_weighers R130; 10_measurements R225, R229) -/

section

open Sys2Proof Sys2Proof.Machine

namespace Sys2Proof.Machine

variable (s : State) (n : Fin 16) (w : Word)

/-- The value `w` at word `a` of the stall's window differs in a bit that is not reserved. -/
abbrev windowDiffers (x : Stall) (a : Nat) (w : Word) : Prop :=
  (Sparse.get (fun _ => 0) x.window a ^^^ w) &&& windowMask x.window a ≠ 0

/-- The value `w` at word `a` of the stall's measurement slots differs in a bit that is not reserved. -/
abbrev slotsDiffer (x : Stall) (a : Nat) (w : Word) : Prop := (Sparse.get msReset x.msWords a ^^^ w) &&& msMask a ≠ 0

/-- A word that a running stall locks is not written (R9, R130). -/
theorem stallWindow_locked (hrun : s.running (fnStall n) = true)
    (hdiff : windowDiffers s.stalls[n] (s.val F.STL_WIN_ADDR_ADDR 0 n) w) :
    stallWindow n (some w) s = (s.refuseWrite .stopLocked).stallAddrNext (R.STL_WIN_ADDR.num 0 n) 320 := by
  simp only [stallWindow, hrun, Bool.true_and, bne_iff_ne]
  exact if_pos hdiff

/-- A word of the window that is not locked is written (R130). -/
theorem stallWindow_unlocked
    (h : ¬s.running (fnStall n) = true ∨ ¬windowDiffers s.stalls[n] (s.val F.STL_WIN_ADDR_ADDR 0 n) w) :
    stallWindow n (some w) s =
      ((s.modStall n fun t => { t with window := Sparse.set (fun _ => 0) t.window (s.val F.STL_WIN_ADDR_ADDR 0 n) w }).stallAddrNext
        (R.STL_WIN_ADDR.num 0 n) 320).answer .ok := by
  simp only [stallWindow, Bool.and_eq_true, bne_iff_ne]
  exact if_neg fun hl => h.elim (· hl.1) (· hl.2)

/-- A reserved code or a NaN limit is refused (R225, R429). -/
theorem measWindow_refused (h : msRefused (s.val F.STL_MS_ADDR_ADDR 0 n) w = true) :
    measWindow n (some w) s = (s.refuseWrite .range).stallAddrNext (R.STL_MS_ADDR.num 0 n) 128 := if_pos h

/-- Words 0 and 1 of a slot are locked while the stall runs (R9, R229). -/
theorem measWindow_locked (h : msRefused (s.val F.STL_MS_ADDR_ADDR 0 n) w = false) (hword : s.val F.STL_MS_ADDR_ADDR 0 n % 4 < 2)
    (hrun : s.running (fnStall n) = true) (hdiff : slotsDiffer s.stalls[n] (s.val F.STL_MS_ADDR_ADDR 0 n) w) :
    measWindow n (some w) s = (s.refuseWrite .stopLocked).stallAddrNext (R.STL_MS_ADDR.num 0 n) 128 := by
  simp only [measWindow, h, hword, hrun, Bool.false_eq_true, if_false, decide_true, Bool.true_and, bne_iff_ne]
  exact if_pos hdiff

/-- A word of a measurement slot that is neither refused nor locked is written; a limit written is noted for the tick (R225). -/
theorem measWindow_unlocked (h : msRefused (s.val F.STL_MS_ADDR_ADDR 0 n) w = false)
    (hfree : 2 ≤ s.val F.STL_MS_ADDR_ADDR 0 n % 4 ∨ ¬s.running (fnStall n) = true ∨
      ¬slotsDiffer s.stalls[n] (s.val F.STL_MS_ADDR_ADDR 0 n) w) :
    ∃ ev : TickEvents, (s.val F.STL_MS_ADDR_ADDR 0 n % 4 < 2 → ev = s.ev) ∧ measWindow n (some w) s =
      ({ (s.modStall n fun t => { t with msWords := Sparse.set msReset t.msWords (s.val F.STL_MS_ADDR_ADDR 0 n) w }) with
        ev := ev }.stallAddrNext (R.STL_MS_ADDR.num 0 n) 128).answer .ok := by
  have unlocked : ¬((s.val F.STL_MS_ADDR_ADDR 0 n % 4 < 2 ∧ s.running (fnStall n) = true) ∧
      slotsDiffer s.stalls[n] (s.val F.STL_MS_ADDR_ADDR 0 n) w) := fun hl =>
    hfree.elim (fun h2 => absurd hl.1.1 (by omega)) fun h' => h'.elim (· hl.1.2) (· hl.2)
  simp only [measWindow, h, Bool.false_eq_true, if_false, Bool.and_eq_true, decide_eq_true_eq, bne_iff_ne, unlocked]
  split
  case isTrue hlimit => exact ⟨_, fun hword => absurd hlimit.1 (by omega), rfl⟩
  case isFalse => exact ⟨s.ev, fun _ => rfl, rfl⟩

end Sys2Proof.Machine

/-- Settles O37: the branches of the two windows. -/
theorem stallWindows : Obligations.StallWindows := by
  unfold Obligations.StallWindows
  intro s n
  refine ⟨rfl, rfl, rfl, fun w => ⟨?locked, ?written, ?refused, ?msLocked, ?msWritten, ?limit⟩⟩
  case locked => exact fun hrun hdiff => congrArg Host.Outcome.next (stallWindow_locked s n w hrun hdiff)
  case written => exact fun h => congrArg Host.Outcome.next (stallWindow_unlocked s n w h)
  case refused => exact fun h => congrArg Host.Outcome.next (measWindow_refused s n w h)
  case msLocked => exact fun h hword hrun hdiff => congrArg Host.Outcome.next (measWindow_locked s n w h hword hrun hdiff)
  case msWritten =>
    intro h hword hfree
    obtain ⟨ev, hev, heq⟩ := measWindow_unlocked s n w h (.inr hfree)
    cases hev hword
    exact congrArg Host.Outcome.next heq
  case limit =>
    intro h hlimit
    obtain ⟨ev, -, heq⟩ := measWindow_unlocked s n w h (.inl hlimit)
    exact ⟨_, congrArg Host.Outcome.next heq, rfl⟩

end

/-! ## Parameter writes (00_scope R8 to R11, R429) -/

section

open Sys2Proof Sys2Proof.Machine

namespace Sys2Proof.Machine

/-- The parameter words as written and the functions that run are as before. -/
structure SameWords (s t : State) : Prop where
  written : t.written = s.written
  run : t.run = s.run

theorem SameWords.refl (s : State) : SameWords s s := ⟨rfl, rfl⟩

theorem SameWords.trans {s t u : State} (h : SameWords s t) (k : SameWords t u) : SameWords s u :=
  ⟨k.written.trans h.written, k.run.trans h.run⟩

theorem SameWords.ite {s a b : State} {c : Prop} [Decidable c] (ha : SameWords s a) (hb : SameWords s b) :
    SameWords s (if c then a else b) := by
  split
  · exact ha
  · exact hb

theorem SameWords.foldl {α : Type} {f : State → α → State} {l : List α} {s a : State} (h : SameWords s a)
    (hf : ∀ t x, SameWords t (f t x)) : SameWords s (l.foldl f a) := by
  induction l generalizing a with
  | nil => exact h
  | cons x l ih => exact ih (h.trans (hf a x))

theorem State.undoWrites_sameWords (s : State) (n : Fin 16) (bank : Bool) (tick : Nat) :
    SameWords s (s.undoWrites n bank tick) := by
  unfold State.undoWrites
  refine SameWords.foldl ⟨rfl, rfl⟩ fun _ _ => ⟨rfl, rfl⟩

theorem State.clampAt_sameWords (s : State) (tick toll : Nat) : SameWords s (s.clampAt tick toll) :=
  SameWords.ite (.refl _) ⟨rfl, rfl⟩

/-- An input of the Sieve moves no parameter word and no function (R204). -/
theorem State.sieveTake_sameWords (s : State) (n : Fin 16) (v : Val) (tick : Nat) : SameWords s (s.sieveTake n v tick) := by
  unfold State.sieveTake
  extract_lets _ c0 c median s'
  have hs' : SameWords s s' := by
    unfold s'
    split
    · exact .ite (.refl _) (s.undoWrites_sameWords ..)
    · exact .refl _
  split
  extract_lets out s1 _ s2 s3
  have hs2 : SameWords s s2 := hs'.trans ⟨rfl, rfl⟩
  have hs3 : SameWords s s3 := hs2.trans (.foldl (.refl _) fun _ _ => State.clampAt_sameWords ..)
  exact .ite (hs3.trans (State.clampAt_sameWords ..)) hs3

theorem sieveInput_sameWords (s : State) : SameWords s (sieveInput s) := by
  unfold sieveInput
  split
  · refine SameWords.trans ?_ (State.sieveTake_sameWords ..)
    exact ⟨rfl, rfl⟩
  · exact .refl _

theorem State.sieveMany_sameWords (k : Nat) (s : State) : SameWords s (s.sieveMany k) := by
  induction k generalizing s with
  | zero => exact .refl _
  | succ k ih => exact (sieveInput_sameWords s).trans (ih _)

theorem State.sieveDrain_sameWords (s : State) : SameWords s s.sieveDrain := State.sieveMany_sameWords ..

theorem State.endRound_sameWords (s : State) : SameWords s s.endRound := ⟨rfl, rfl⟩

theorem State.bringIntoForce_sameWords (s : State) (ns : List Nat) : SameWords s (s.bringIntoForce ns) :=
  SameWords.foldl (.refl s) fun _ _ => ⟨rfl, rfl⟩

theorem State.beginCal_sameWords (s : State) : SameWords s s.beginCal := by
  unfold State.beginCal
  extract_lets _ s1 s2 _ s3
  have h1 : SameWords s s1 := ⟨rfl, rfl⟩
  have h2 : SameWords s s2 := .ite (h1.trans (State.endRound_sameWords _)) h1
  refine .ite h1 ?_
  split
  · exact h2.trans ⟨rfl, rfl⟩
  · have h3 : SameWords s s3 := h2.trans (s2.bringIntoForce_sameWords _)
    split
    · exact h3.trans ⟨rfl, rfl⟩
    · exact h3.trans ⟨rfl, rfl⟩

theorem State.askCal_sameWords (s : State) : SameWords s s.askCal := by
  unfold State.askCal
  refine .ite (.refl _) ?_
  split
  · exact .refl _
  · exact .ite s.beginCal_sameWords ⟨rfl, rfl⟩
  · exact ⟨rfl, rfl⟩

/-- What a write brings with it moves no parameter word as written (R115). -/
theorem State.writeEffect_sameWords (s : State) (base : Nat) : SameWords s (s.writeEffect base) := by
  unfold State.writeEffect State.applyCalMode
  refine .ite (.ite (.refl _) (.ite (.trans ?_ (State.askCal_sameWords _)) ⟨rfl, rfl⟩)) (.refl _)
  exact ⟨rfl, rfl⟩

/-- The bits of a register of two access classes. -/
theorem RegDef.mask_or (r : RegDef) (p q : Acc → Bool) : (r.mask fun a => p a || q a) = r.mask p ||| r.mask q := by
  have hfold (l : List FieldDef) (a b : Word) :
      l.foldl (fun w f => if p f.acc || q f.acc then w ||| BitVec.ofNat 32 ((2 ^ f.width - 1) <<< f.lo) else w) (a ||| b) =
      l.foldl (fun w f => if p f.acc then w ||| BitVec.ofNat 32 ((2 ^ f.width - 1) <<< f.lo) else w) a |||
      l.foldl (fun w f => if q f.acc then w ||| BitVec.ofNat 32 ((2 ^ f.width - 1) <<< f.lo) else w) b := by
    induction l generalizing a b with
    | nil => rfl
    | cons f l ih =>
      simp only [List.foldl_cons]
      rw [← ih]
      congr 1
      generalize BitVec.ofNat 32 ((2 ^ f.width - 1) <<< f.lo) = m
      cases p f.acc <;> cases q f.acc
      · rfl
      · exact BitVec.or_assoc ..
      · simp only [Bool.true_or, if_true, Bool.false_eq_true, if_false]; ac_rfl
      · simp only [Bool.true_or, if_true]; ext i hi; simp; grind
  exact hfold r.fields 0 0

/-- The LV fields that are written stand as written, whenever they come into force (R8). -/
theorem State.writeLive_written (s : State) (base n : Nat) (w m : Word) :
    (s.writeLive base n w m).written = (s.setWritten n w m).written := by
  unfold State.writeLive
  cases boundaryOf base
  all_goals rfl

theorem State.lastWritten_congr {s t : State} (h : t.written = s.written) (n : Nat) : t.lastWritten n = s.lastWritten n :=
  congrArg (Sparse.get resetWord · n) h

/-- A parameter whose write is an action of no chapter is written field by field (R9). -/
theorem State.writeParam_plain (s : State) {n k st : Nat} {r : RegDef} (w : Word) (hl : locate n = some (r, k, st))
    (hp : r.plainWrite = true) : s.writeParam n w = s.writeFields r n w := by
  simp only [State.writeParam, hl]
  split
  iterate 17 next hbase => exact absurd hp (by simp [RegDef.plainWrite, hbase])
  rfl

/-- Bits written over others of the same word. -/
theorem write_write_or (x w a b : Word) :
    ((x &&& ~~~a ||| w &&& a) &&& ~~~b ||| w &&& b) = (x &&& ~~~(a ||| b) ||| w &&& (a ||| b)) := by
  ext i hi
  simp only [BitVec.getElem_or, BitVec.getElem_and, BitVec.getElem_not]
  cases x[i] <;> cases w[i] <;> cases a[i] <;> cases b[i] <;> rfl

/-- A write of no bits (R379). -/
theorem State.setWritten_none {s : State} (hwf : Sparse.wf resetWord s.written = true) (n : Nat) (w : Word) :
    (s.setWritten n w 0).written = s.written := by
  have hbits : (s.lastWritten n &&& ~~~0 ||| w &&& 0) = s.lastWritten n := by
    ext i hi
    simp only [BitVec.getElem_or, BitVec.getElem_and, BitVec.getElem_not]
    simp
  simp only [State.setWritten, hbits]
  exact Sparse.set_get hwf n

/-- A word judged field by field that is in range and not stop-locked: OK, and its LV and SL fields are written (R9). -/
theorem State.writeFields_accepted (s : State) (r : RegDef) (n : Nat) (w : Word) (hwf : Sparse.wf resetWord s.written = true)
    (hheld : r.mask (fun a => a == .lv || a == .sl) ≠ 0) (hrange : r.outOfRange w (fun a => a == .lv || a == .sl) = false)
    (hspan : s.spanNeedsTally r.base n w = false) (hcal : r.base = R.CAL_FREEZE.base → s.calHidden = false)
    (hlock : s.running (lockOf n) = true → (w ^^^ s.lastWritten n) &&& r.mask (· == .sl) = 0) :
    (s.writeFields r n w).code = .ok ∧ ∀ j, (s.writeFields r n w).lastWritten j =
      if j = n then (s.lastWritten n &&& ~~~r.mask fun a => a == .lv || a == .sl) |||
        (w &&& r.mask fun a => a == .lv || a == .sl)
      else s.lastWritten j := by
  rw [RegDef.mask_or] at hheld ⊢
  unfold State.writeFields
  extract_lets lv sl w1c s0 differs locked s1 s2 s3
  have hmask : lv ||| sl ||| w1c ≠ 0 := fun h => hheld (BitVec.or_eq_zero_iff.1 h).1
  have hfreeze : (decide (r.base = R.CAL_FREEZE.base) && s.calHidden) = false := by
    simpa using hcal
  have h0 : SameWords s s0 := .ite s.sieveDrain_sameWords (.refl _)
  have hunlocked : locked = false := by
    have hrun : s0.running (lockOf n) = s.running (lockOf n) := congrArg (List.contains · _) h0.run
    simpa [locked, differs, hrun, s.lastWritten_congr h0.written] using hlock
  have h1 : s1 = s0.setWritten n w sl := by simp [s1, hunlocked]
  have hwf0 : Sparse.wf resetWord s0.written = true := h0.written ▸ hwf
  have hwf1 : Sparse.wf resetWord s1.written = true := h1 ▸ Sparse.wf_set hwf0 _ _
  have h2 : s2.written = (s1.setWritten n w lv).written := by
    unfold s2
    split
    case isTrue hlv => rw [hlv, State.setWritten_none hwf1]
    case isFalse => exact (State.writeEffect_sameWords _ _).written.trans (State.writeLive_written ..)
  have h3 : s3.written = s2.written := by
    unfold s3
    split <;> rfl
  simp only [hmask, hrange, hspan, hfreeze, hunlocked, if_false, Bool.false_eq_true]
  refine ⟨rfl, fun j => ?_⟩
  have hlast : (s3.answer .ok).lastWritten j = (s1.setWritten n w lv).lastWritten j := State.lastWritten_congr (h3.trans h2) j
  rw [hlast, State.lastWritten_setWritten hwf1, h1, State.lastWritten_setWritten hwf0, State.lastWritten_setWritten hwf0,
    s.lastWritten_congr h0.written, s.lastWritten_congr h0.written]
  split
  · rw [if_pos rfl, write_write_or, BitVec.or_comm sl lv]
  · rfl

/-- A word in range of a register that only has stop-locked fields (R9). -/
theorem State.writeFields_stopLocked (s : State) (r : RegDef) (n : Nat) (w : Word) (hlv : r.mask (· == .lv) = 0)
    (hw1c : r.mask (· == .w1c) = 0) (hsl : r.mask (· == .sl) ≠ 0)
    (hrange : r.outOfRange w (fun a => a == .lv || a == .sl) = false) (hspan : s.spanNeedsTally r.base n w = false)
    (hcal : r.base ≠ R.CAL_FREEZE.base) (hfade : r.base ≠ R.SIV_FADE_LEN.base) (hsettle : r.base ≠ R.SIV_SETTLE.base) :
    s.writeFields r n w = if s.running (lockOf n) = true ∧ (w ^^^ s.lastWritten n) &&& r.mask (· == .sl) ≠ 0
      then s.refuseWrite .stopLocked else (s.setWritten n w (r.mask (· == .sl))).answer .ok := by
  have hmask : (0 ||| r.mask (· == .sl) ||| 0 : Word) ≠ 0 := by simpa using hsl
  simp only [State.writeFields, hlv, hw1c, hrange, hspan, hcal, hfade, hsettle, hmask, decide_false, Bool.false_and, Bool.or_false,
    Bool.false_eq_true, if_false, if_true, Bool.and_eq_true, bne_iff_ne]
  by_cases hlocked : s.running (lockOf n) = true ∧ (w ^^^ s.lastWritten n) &&& r.mask (· == .sl) ≠ 0
  · simp only [if_pos hlocked]
  · simp only [if_neg hlocked]

/-- The place of a stall's SEGLEN. -/
theorem locate_STL_SEGLEN (n : Fin 16) : locate (R.STL_SEGLEN.num 0 n) = some (R.STL_SEGLEN, 0, n.val) := by
  revert n
  decide

/-- A stall locks its SEGLEN (R378). -/
theorem lockOf_STL_SEGLEN (n : Fin 16) : lockOf (R.STL_SEGLEN.num 0 n) = fnStall n := by
  revert n
  decide

theorem outOfRange_STL_SEGLEN {w : Word} (hw : 2 ≤ w.toNat) :
    R.STL_SEGLEN.outOfRange w (fun a => a == .lv || a == .sl) = false := by
  have hlt := w.isLt
  have hbits : bitsOf w 0 32 = w.toNat := Nat.mod_eq_of_lt hlt
  have hle : w.toNat ≤ 4294967295 := by omega
  simp [RegDef.outOfRange, R.STL_SEGLEN, Range.admits, hbits, hw, hle]

/-- A write of a stall's SEGLEN, in range, while the stall runs and where it would change the value, and otherwise (R9, R178). -/
theorem State.writeParam_STL_SEGLEN (s : State) (n : Fin 16) (w : Word) (hw : 2 ≤ w.toNat) :
    s.writeParam (R.STL_SEGLEN.num 0 n) w =
      if s.running (fnStall n) = true ∧ w ≠ s.lastWritten (R.STL_SEGLEN.num 0 n) then s.refuseWrite .stopLocked
      else { s with code := .ok, written := Sparse.set resetWord s.written (R.STL_SEGLEN.num 0 n) w } := by
  have hsl : R.STL_SEGLEN.mask (· == .sl) = BitVec.allOnes 32 := rfl
  rw [s.writeParam_plain w (locate_STL_SEGLEN n) rfl, s.writeFields_stopLocked R.STL_SEGLEN _ w rfl rfl (by decide)
    (outOfRange_STL_SEGLEN hw) rfl (by decide) (by decide) (by decide), lockOf_STL_SEGLEN, hsl, BitVec.and_allOnes]
  have hbits : (s.lastWritten (R.STL_SEGLEN.num 0 n) &&& ~~~BitVec.allOnes 32) ||| (w &&& BitVec.allOnes 32) = w := by
    rw [BitVec.not_allOnes, BitVec.and_zero, BitVec.zero_or, BitVec.and_allOnes]
  have hdiff : w ^^^ s.lastWritten (R.STL_SEGLEN.num 0 n) ≠ 0 ↔ w ≠ s.lastWritten (R.STL_SEGLEN.num 0 n) :=
    not_congr BitVec.xor_eq_zero_iff
  simp only [hdiff, State.setWritten, State.answer, hbits]

/-- Ones written to the W1C bits of a word (R8, R10). -/
theorem w1cClear_eq {n : Nat} (w : Word) (s : State) (h : classMask n (· == .w1c) ≠ 0) :
    w1cClear n w s = (s.clearSticky n (w &&& classMask n (· == .w1c))).answer .ok := if_neg h

end Sys2Proof.Machine

end

/-! ## The items of a request (16_barter R346) -/

section

open Sys2Proof Sys2Proof.Machine

namespace Sys2Proof.Machine

/-- A request named by a command is taken up at once by a Clerk that is free (R31, R336). -/
theorem State.clerk_free {s : State} (h : s.clerkFree) (op : Nat) (body : List Byte) (act : Option BarterRequest → State → State) :
    s.clerk op body act = act none s := by
  obtain ⟨hphase, hrun, hwork, hqueue, hexpired⟩ := h
  simp [State.clerk, State.unexpire, State.turnedAway, hphase, hrun, hwork, hqueue, hexpired]

@[simp] theorem beBytes_length (n v : Nat) : (beBytes n v).length = n := by simp [beBytes]

theorem beBytes_succ (n v : Nat) : beBytes (n + 1) v = beBytes n (v / 256) ++ [BitVec.ofNat 8 v] := by
  simp only [beBytes, List.range_succ, List.map_append, List.map_singleton, Nat.add_sub_cancel, Nat.sub_self, Nat.pow_zero,
    Nat.div_one]
  congr 1
  refine List.map_congr_left fun i hi => ?_
  have hi' := List.mem_range.1 hi
  rw [Nat.div_div_eq_div_mul, ← Nat.pow_succ']
  congr 3
  omega

/-- A number's big-endian bytes give it back. -/
theorem ofBeBytes_beBytes {n v : Nat} (h : v < 256 ^ n) : ofBeBytes (beBytes n v) = v := by
  induction n generalizing v with
  | zero =>
    have : v = 0 := by simpa using h
    subst this
    rfl
  | succ n ih =>
    have hdiv : v / 256 < 256 ^ n := Nat.div_lt_of_lt_mul (by rwa [Nat.pow_succ'] at h)
    rw [beBytes_succ, ofBeBytes, List.foldl_append]
    change ofBeBytes (beBytes n (v / 256)) * 256 + (BitVec.ofNat 8 v).toNat = v
    rw [ih hdiv, BitVec.toNat_ofNat]
    omega

/-- A number at the head of a body. -/
theorem beAt_beBytes_append {n v : Nat} (h : v < 256 ^ n) (l : List Byte) : beAt (beBytes n v ++ l) 0 n = v := by
  rw [beAt, List.drop_zero, List.take_left' (beBytes_length n v), ofBeBytes_beBytes h]

/-- Items of `k` bytes each, cut out of the body again. -/
theorem pieces_flatMap {α β : Type} (f : α → List β) (k : Nat) (l : List α) (h : ∀ x, (f x).length = k) :
    pieces l.length k (l.flatMap f) = l.map f := by
  induction l with
  | nil => rfl
  | cons x l ih =>
    simp only [List.length_cons, pieces, List.flatMap_cons, List.map_cons]
    rw [List.take_left' (h x), List.drop_left' (h x), ih]

theorem length_flatMap_const {α β : Type} (f : α → List β) (k : Nat) (l : List α) (h : ∀ x, (f x).length = k) :
    (l.flatMap f).length = k * l.length := by
  simp [List.length_flatMap, h, Nat.mul_comm]

/-- A request's items begin with the first (R346): `f` gives the bytes of an item, `g` what they mean. -/
theorem beginItems_eq {α : Type} (write : Bool) (k : Nat) (f : α → List Byte) (g : α → Nat × Nat) (l : List α) (s : State)
    (hl : l ≠ []) (hn : l.length ≤ 64) (hk : ∀ x, (f x).length = k)
    (hg : ∀ x ∈ l, (beAt (f x) 0 2, beAt (f x) 2 (k - 2)) = g x) :
    beginItems write k (beBytes 2 l.length ++ l.flatMap f) none s =
      (s.modBarter fun b => { b with
        run := some { req := none, write := write, count := l.length, items := l.map g } }).runItem := by
  have hcount : beAt (beBytes 2 l.length ++ l.flatMap f) 0 2 = l.length := beAt_beBytes_append (by omega) _
  have hpos : l.length ≠ 0 := by simpa using hl
  have hbody : (beBytes 2 l.length ++ l.flatMap f).length = 2 + k * l.length := by
    rw [List.length_append, beBytes_length, length_flatMap_const f k l hk]
  have hok : ¬(l.length = 0 ∨ 64 < l.length ∨ (beBytes 2 l.length ++ l.flatMap f).length ≠ 2 + k * l.length) := by
    rw [hbody]
    omega
  have hitems : (l.map f).map (fun e => (beAt e 0 2, beAt e 2 (k - 2))) = l.map g := by
    rw [List.map_map]
    exact List.map_congr_left hg
  simp only [beginItems, hcount, if_neg hok, List.drop_left' (beBytes_length 2 l.length), pieces_flatMap f k l hk, hitems]

/-- An item of WRITE_PARAM is a write of its parameter (R346). -/
theorem State.doItem_write (s : State) (a : Nat) (w : Word) :
    s.doItem true a w.toNat =
      (beBytes 2 a ++ [BitVec.ofNat 8 (s.writeParam a w).code.num, 0], (s.writeParam a w).code, s.writeParam a w) := by
  simp [State.doItem]

/-- An item of READ_PARAM that has a value reads it (R346). -/
theorem State.doItem_read {s : State} {a : Nat} {v : Word} (x : Nat) (h : s.readValue a = some v) :
    ∃ t, s.doItem false a x = (beBytes 2 a ++ [0, 0] ++ beBytes 4 v.toNat, .ok, t) := by
  cases hl : locate a with
  | none => simp [State.readValue, hl] at h
  | some r => exact ⟨_, by simp only [State.doItem, State.readParam, hl, h]; rfl⟩

/-- A request on one item is answered with it (R346). -/
theorem State.runItem_last {s t : State} {p : ParamRun} {a x : Nat} {bs : List Byte} {c : Code} (hrun : s.barter.run = some p)
    (hitems : p.items = [(a, x)]) (hreq : p.req = none) (hcode : p.code = .ok) (hitem : s.doItem p.write a x = (bs, c, t)) :
    s.runItem = { t with
      code := c, barter := { t.barter with run := none, reply := beBytes 2 p.count ++ [0, 0] ++ (p.out ++ bs) } } := by
  simp only [State.runItem, hrun, hitems, hitem, hcode, hreq, State.finish, State.reply]
  rfl

/-- A request on several items goes on after its first (R346). -/
theorem State.runItem_more {s t : State} {p : ParamRun} {a x : Nat} {y : Nat × Nat} {rest : List (Nat × Nat)} {bs : List Byte}
    {c : Code} (hrun : s.barter.run = some p) (hitems : p.items = (a, x) :: y :: rest) (hcode : p.code = .ok)
    (hitem : s.doItem p.write a x = (bs, c, t)) :
    s.runItem = { t with
      barter := { t.barter with run := some { p with items := y :: rest, out := p.out ++ bs, code := c } } } := by
  simp only [State.runItem, hrun, hitems, hitem, hcode]
  rfl

end Sys2Proof.Machine

end

/-! ## What reading a parameter does not look at (log entry 23) -/

section

open Sys2Proof Sys2Proof.Machine

namespace Sys2Proof.Machine

/-- The device without what Barter holds. -/
def State.sansBarter (s : State) : State := { s with barter := {} }

/-- What comes beside a state without what Barter holds. -/
def State.sansBarterSnd {α : Type} (p : α × State) : α × State := (p.1, p.2.sansBarter)

/-- A choice between two images under a map. -/
theorem ite_eq_map {α β : Type} (h : α → β) {c : Prop} [Decidable c] {a b : β} {a' b' : α} (ha : a = h a')
    (hb : b = h b') : (if c then a else b) = h (if c then a' else b') := by
  split
  · exact ha
  · exact hb

/-- Folds along a list that a map takes to each other, step by step. -/
theorem foldl_eq_map {α β γ : Type} (h : α → β) {f : β → γ → β} {g : α → γ → α}
    (hf : ∀ a x, f (h a) x = h (g a x)) (l : List γ) {b : β} {a : α} (hb : b = h a) : l.foldl f b = h (l.foldl g a) := hb ▸ List.foldl_hom h hf

/-- The parts of two pairs of which one is the other without what Barter holds. -/
theorem State.sansBarterSnd_parts {α : Type} {p' p : α × State} (h : p' = State.sansBarterSnd p) {x' x : α} {s' s : State}
    (hp' : p' = (x', s')) (hp : p = (x, s)) : x' = x ∧ s' = s.sansBarter := by
  subst hp' hp
  exact Prod.mk.inj h

section Bell

variable (s : State) (n : Fin 16) (c : Conds) (v : Val)

theorem State.sansBarter_bell : s.sansBarter.bell n = s.bell n := rfl

theorem State.sansBarter_modBell (f : Bell → Bell) : s.sansBarter.modBell n f = (s.modBell n f).sansBarter := rfl

theorem State.sansBarter_happen (h : Happening) : s.sansBarter.happen n h = (s.happen n h).sansBarter := rfl

theorem State.sansBarter_relink : s.sansBarter.relink n = (s.relink n).sansBarter := rfl

theorem State.sansBarter_endSegment : s.sansBarter.endSegment n c v = (s.endSegment n c v).sansBarter := rfl

theorem State.sansBarter_formOutside (i : Nat) :
    s.sansBarter.formOutside n i v = State.sansBarterSnd (s.formOutside n i v) := rfl

theorem State.sansBarter_bringIntoForce (ns : List Nat) : s.sansBarter.bringIntoForce ns = (s.bringIntoForce ns).sansBarter :=
  foldl_eq_map State.sansBarter (fun _ _ => rfl) ns rfl

theorem State.sansBarter_ignoreTrigger : s.sansBarter.ignoreTrigger n = (s.ignoreTrigger n).sansBarter :=
  ite_eq_map State.sansBarter rfl rfl

theorem State.sansBarter_ignoreTriggers {α : Type} (l : List α) :
    l.foldl (fun s _ => s.ignoreTrigger n) s.sansBarter = (l.foldl (fun s _ => s.ignoreTrigger n) s).sansBarter :=
  foldl_eq_map State.sansBarter (fun s _ => s.sansBarter_ignoreTrigger n) l rfl

theorem State.sansBarter_accept (f : Nat) (forced late : Bool) (i : Rat) :
    s.sansBarter.accept n c v f forced late i = (s.accept n c v f forced late i).sansBarter :=
  ite_eq_map State.sansBarter rfl rfl

theorem State.sansBarter_acceptForced (f : Forced) :
    s.sansBarter.acceptForced n c v f = (s.acceptForced n c v f).sansBarter := State.sansBarter_accept ..

theorem State.sansBarter_enter (k f : Nat) (trig : Bool) :
    s.sansBarter.enter n c v k f trig = State.sansBarterSnd (s.enter n c v k f trig) := by
  unfold State.enter
  extract_lets s1 s2 s3 s4 t1 t2 t3 t4
  have h2 : s2 = t2.sansBarter := ite_eq_map State.sansBarter rfl rfl
  have h3 : s3 = t3.sansBarter := ite_eq_map State.sansBarter (by rw [h2]; rfl) h2
  have h4 : s4 = t4.sansBarter := ite_eq_map State.sansBarter (by rw [h3]; rfl) h3
  have h5 : (if s.sansBarter.flag F.STL_BEL_S_ACT_COUNT k n then
        s4.countUp n c (Fin.ofNat 4 (s.sansBarter.val F.STL_BEL_S_ACT_COUNTER k n)) f
      else (c, s4)) = State.sansBarterSnd (if s.flag F.STL_BEL_S_ACT_COUNT k n then
        t4.countUp n c (Fin.ofNat 4 (s.val F.STL_BEL_S_ACT_COUNTER k n)) f
      else (c, t4)) := ite_eq_map State.sansBarterSnd (by rw [h4]; rfl) (by rw [h4]; rfl)
  rw [h5]
  exact Prod.ext rfl (ite_eq_map State.sansBarter (State.sansBarter_accept ..) rfl)

theorem State.sansBarter_settle (f : Option Nat) : s.sansBarter.settle f = State.sansBarterSnd (s.settle f) := by
  cases f <;> rfl

theorem State.sansBarter_formComps : s.sansBarter.formComps n v = State.sansBarterSnd (s.formComps n v) := by
  unfold State.formComps
  refine ite_eq_map State.sansBarterSnd rfl ?_
  refine foldl_eq_map State.sansBarterSnd (fun p x => ?_) _ rfl
  have hx : (if (s.sansBarter.stalls[n]).setup.pair then (0, p.2.sansBarter) else p.2.sansBarter.settle x.2) =
      State.sansBarterSnd (if (s.stalls[n]).setup.pair then (0, p.2) else p.2.settle x.2) :=
    ite_eq_map State.sansBarterSnd rfl (State.sansBarter_settle ..)
  dsimp only [State.sansBarterSnd] at hx ⊢
  rw [hx]

theorem State.sansBarter_formConds : s.sansBarter.formConds n v = State.sansBarterSnd (s.formConds n v) := by
  generalize hr : s.formConds n v = r
  unfold State.formConds at hr ⊢
  extract_lets b interval at hr
  extract_lets b' interval'
  split at hr
  next e1 s1 hcomps =>
  split
  next e1' s1' hcomps' =>
  obtain ⟨rfl, rfl⟩ := State.sansBarterSnd_parts (State.sansBarter_formComps ..) hcomps' hcomps
  split at hr
  next e2 s2 houtside =>
  split
  next e2' s2' houtside' =>
  obtain ⟨rfl, rfl⟩ := State.sansBarterSnd_parts (State.sansBarter_formOutside ..) houtside' houtside
  rw [← hr]
  rfl

theorem State.sansBarter_countRound (l : List (Fin 4)) : s.sansBarter.countRound n c l =
    ((s.countRound n c l).1, (s.countRound n c l).2.1.sansBarter, (s.countRound n c l).2.2) := by
  refine foldl_eq_map (fun p : Conds × State × List (Fin 4) => (p.1, p.2.1.sansBarter, p.2.2)) (fun p k => ?_) l rfl
  exact ite_eq_map (fun p : Conds × State × List (Fin 4) => (p.1, p.2.1.sansBarter, p.2.2)) rfl rfl

theorem State.sansBarter_countAll : s.sansBarter.countAll n c = State.sansBarterSnd (s.countAll n c) := by
  simp only [State.countAll, State.sansBarter_countRound, State.sansBarterSnd]

theorem State.sansBarter_sequenceMove : s.sansBarter.sequenceMove n c = State.sansBarterSnd (s.sequenceMove n c) :=
  ite_eq_map State.sansBarterSnd rfl (ite_eq_map State.sansBarterSnd (ite_eq_map State.sansBarterSnd rfl rfl) rfl)

theorem State.sansBarter_autoStep (last : Bool) : s.sansBarter.autoStep n c v last = (s.autoStep n c v last).sansBarter :=
  ite_eq_map State.sansBarter rfl (ite_eq_map State.sansBarter
    (congrArg (State.happen · n .auto) (State.sansBarter_accept ..)) (ite_eq_map State.sansBarter rfl rfl))

theorem State.sansBarter_syncBuffer : s.sansBarter.syncBuffer n v = (s.syncBuffer n v).sansBarter :=
  ite_eq_map State.sansBarter rfl rfl

theorem State.sansBarter_beginBuffer : s.sansBarter.beginBuffer n v = (s.beginBuffer n v).sansBarter := by
  unfold State.beginBuffer
  dsimp only
  rw [State.sansBarter_bell]
  split
  · refine ite_eq_map State.sansBarter ?_ rfl
    rw [State.sansBarter_modBell, State.sansBarter_syncBuffer, State.sansBarter_happen]
  · rfl

theorem State.sansBarter_latchHold : s.sansBarter.latchHold n v = (s.latchHold n v).sansBarter :=
  ite_eq_map State.sansBarter rfl rfl

theorem State.sansBarter_armIfReady : s.sansBarter.armIfReady n v = (s.armIfReady n v).sansBarter := by
  refine ite_eq_map State.sansBarter ?_ rfl
  rw [State.sansBarter_bringIntoForce, State.sansBarter_relink, State.sansBarter_modBell, State.sansBarter_happen]

theorem State.sansBarter_countHold : s.sansBarter.countHold n c v = (s.countHold n c v).sansBarter :=
  ite_eq_map State.sansBarter rfl rfl

theorem State.sansBarter_notePast (t : State) (i : Nat) :
    s.sansBarter.notePast t.sansBarter i = (s.notePast t i).sansBarter := ite_eq_map State.sansBarter rfl rfl

theorem State.sansBarter_armedSample (forced : List Forced) (last : Bool) :
    s.sansBarter.armedSample n c v forced last = State.sansBarterSnd (s.armedSample n c v forced last) := by
  generalize hr : s.armedSample n c v forced last = r
  unfold State.armedSample at hr ⊢
  extract_lets s0 c0 st at hr
  extract_lets s0' st'
  have h0 : s0' = s0.sansBarter := foldl_eq_map State.sansBarter (fun _ _ => rfl) _ rfl
  have hst : st' = st := by
    unfold st'
    rw [h0]
    rfl
  clear_value s0' st'
  subst h0 hst
  split at hr
  next c1 s1 hcount =>
  split at hr
  next move s2 hmove =>
  extract_lets first taken overlap s3 seqTrig forcedFirst at hr
  split at hr
  next c4 s4 henter =>
  extract_lets s5 s6 at hr
  split at hr
  next c7 s7 hheld =>
  split
  next c1' s1' hcount' =>
  obtain ⟨rfl, rfl⟩ := State.sansBarterSnd_parts (State.sansBarter_countAll ..) hcount' hcount
  split
  next move' s2' hmove' =>
  obtain ⟨rfl, rfl⟩ := State.sansBarterSnd_parts (State.sansBarter_sequenceMove ..) hmove' hmove
  extract_lets first' taken' overlap' s3' seqTrig' forcedFirst'
  have h3 : s3' = s3.sansBarter := ite_eq_map State.sansBarter rfl rfl
  have htrig : seqTrig' = seqTrig := by
    unfold seqTrig'
    rw [h3]
    rfl
  have hfirst : forcedFirst' = forcedFirst := by
    unfold forcedFirst'
    rw [htrig]
  clear_value forcedFirst' seqTrig' s3'
  subst h3 htrig hfirst
  split
  next c4' s4' henter' =>
  obtain ⟨rfl, rfl⟩ : c4' = c4 ∧ s4' = s4.sansBarter := by
    refine State.sansBarterSnd_parts ?_ henter' henter
    rcases move' with _ | ⟨k, f, adv⟩
    · rfl
    · dsimp only
      rw [State.sansBarter_modBell, State.sansBarter_happen, State.sansBarter_enter]
  extract_lets s5' s6'
  have h5 : s5' = s5.sansBarter := ite_eq_map State.sansBarter (State.sansBarter_ignoreTrigger ..) rfl
  have h6 : s6' = s6.sansBarter := by
    rcases forced with _ | ⟨f, fs⟩
    · rfl
    · refine ite_eq_map State.sansBarter ?_ (State.sansBarter_ignoreTriggers ..)
      rw [h5, State.sansBarter_acceptForced]
      exact State.sansBarter_ignoreTriggers ..
  split
  next c7' s7' hheld' =>
  obtain ⟨rfl, rfl⟩ : c7' = c7 ∧ s7' = s7.sansBarter := by
    refine State.sansBarterSnd_parts ?_ hheld' hheld
    rw [h6]
    refine ite_eq_map State.sansBarterSnd ?_ rfl
    rw [State.sansBarter_modBell, State.sansBarter_happen, State.sansBarter_enter]
  rw [← hr, State.sansBarter_autoStep]
  rfl

theorem State.sansBarter_bellSample (last : Bool) : s.sansBarter.bellSample n v last = (s.bellSample n v last).sansBarter := by
  generalize hr : s.bellSample n v last = r
  unfold State.bellSample at hr ⊢
  extract_lets s1 post s2 armedNow at hr
  extract_lets s1' post' s2' armedNow'
  have h1 : s1' = s1.sansBarter := rfl
  have h2 : s2' = s2.sansBarter := by
    unfold s2'
    rw [h1, State.sansBarter_latchHold, State.sansBarter_beginBuffer, State.sansBarter_armIfReady]
  have hpost : post' = post := rfl
  have harmed : armedNow' = armedNow := by
    unfold armedNow'
    rw [h2, State.sansBarter_bell]
  clear_value armedNow' s2' post' s1'
  subst h1 h2 hpost harmed
  rw [State.sansBarter_bell]
  split at hr
  next hstopped => rw [if_pos hstopped, hr]
  next hruns =>
  rw [if_neg hruns]
  split at hr
  next c1 s3 hform =>
  split
  next c1' s3' hform' =>
  obtain ⟨rfl, rfl⟩ := State.sansBarterSnd_parts (State.sansBarter_formConds ..) hform' hform
  extract_lets forced s4 trig short s4h at hr
  extract_lets forced' s4' trig' short' s4h'
  have hforced : forced' = forced := rfl
  have h4 : s4' = s4.sansBarter := rfl
  have htrig : trig' = trig := rfl
  have hshort : short' = short := rfl
  have h4h : s4h' = s4h.sansBarter := ite_eq_map State.sansBarter (s4.sansBarter_ignoreTrigger n) rfl
  clear_value s4h s4h' short short' trig trig' s4 s4' forced forced'
  subst hforced h4 htrig hshort h4h
  split at hr
  next c5 s5 hphase =>
  split
  next c5' s5' hphase' =>
  obtain ⟨rfl, rfl⟩ : c5' = c5 ∧ s5' = s5.sansBarter := by
    refine State.sansBarterSnd_parts ?_ hphase' hphase
    rw [State.sansBarter_bell]
    clear hphase hphase'
    generalize (s4.bell n).phase = phase
    cases phase
    case armed =>
      have henter : (if armedNow = true then s4.sansBarter.enter n c1' v 0 0 true else (c1', s4.sansBarter)) =
          State.sansBarterSnd (if armedNow = true then s4.enter n c1' v 0 0 true else (c1', s4)) :=
        ite_eq_map State.sansBarterSnd (State.sansBarter_enter ..) rfl
      dsimp only
      rw [henter]
      generalize (if armedNow = true then s4.enter n c1' v 0 0 true else (c1', s4)) = entered
      exact entered.2.sansBarter_armedSample n entered.1 v forced' last
    case hold =>
      rcases forced' with _ | ⟨f, fs⟩
      · exact rfl
      · refine Prod.ext rfl (ite_eq_map State.sansBarter (State.sansBarter_ignoreTriggers ..) ?_)
        rw [State.sansBarter_acceptForced, State.sansBarter_ignoreTriggers]
    all_goals
      refine Prod.ext rfl ?_
      refine foldl_eq_map State.sansBarter (fun s _ => s.sansBarter_ignoreTrigger n) forced' ?_
      exact ite_eq_map State.sansBarter (State.sansBarter_ignoreTrigger ..) rfl
  extract_lets s6 ends s7 at hr
  extract_lets s6' ends' s7'
  have h6 : s6' = s6.sansBarter := State.sansBarter_countHold ..
  have h7 : s7' = s7.sansBarter := by
    unfold s7' ends'
    rw [h6]
    exact ite_eq_map State.sansBarter (State.sansBarter_endSegment ..) rfl
  rw [← hr, h7, State.sansBarter_modBell]

theorem State.sansBarter_evalNext : s.sansBarter.evalNext n = (s.evalNext n).sansBarter := by
  unfold State.evalNext
  rw [State.sansBarter_bell]
  rcases (s.bell n).obs with _ | ⟨v, vs⟩
  · rfl
  · dsimp only
    rw [State.sansBarter_modBell, State.sansBarter_bellSample, State.sansBarter_notePast, State.sansBarter_notePast]
    exact ite_eq_map State.sansBarter rfl rfl

theorem State.sansBarter_evalMany (k : Nat) : s.sansBarter.evalMany n k = (s.evalMany n k).sansBarter := by
  induction k generalizing s with
  | zero => rfl
  | succ k ih =>
    unfold State.evalMany
    rw [State.sansBarter_evalNext]
    exact ite_eq_map State.sansBarter rfl (ih _)

theorem State.sansBarter_evalDue : s.sansBarter.evalDue = s.evalDue.sansBarter :=
  foldl_eq_map State.sansBarter (fun s n => s.sansBarter_evalMany n (s.dueSamples n)) _ rfl

end Bell

end Sys2Proof.Machine

end

/-! ## The broadcast of a tick does not look at what Barter holds -/

section

open Sys2Proof Sys2Proof.Machine

namespace Sys2Proof.Machine

section Tally

variable (s : State) (p : Fin 4) (m : Meas)

theorem State.sansBarter_tally : s.sansBarter.tally = s.tally := rfl

theorem State.sansBarter_fallbackPort : s.sansBarter.fallbackPort = s.fallbackPort := rfl

theorem State.sansBarter_portMode : s.sansBarter.portMode p = s.portMode p := rfl

theorem State.sansBarter_modPort (f : TallyPort → TallyPort) : s.sansBarter.modPort p f = (s.modPort p f).sansBarter := rfl

theorem State.sansBarter_withTally (t : Tally) : { s.sansBarter with tally := t } = ({ s with tally := t }).sansBarter := rfl

theorem State.sansBarter_untollAll (l : List Nat) : s.sansBarter.untollAll l = (s.untollAll l).sansBarter :=
  foldl_eq_map State.sansBarter (fun _ _ => rfl) l rfl

theorem State.sansBarter_edgeWins : s.sansBarter.edgeWins p = (s.edgeWins p).sansBarter := by
  unfold State.edgeWins
  rw [show s.sansBarter.ev = s.ev from rfl]
  rcases s.ev.timeout with _ | ⟨before, tolls⟩
  · rfl
  · dsimp only
    rw [State.sansBarter_untollAll]
    exact ite_eq_map State.sansBarter rfl rfl

theorem State.sansBarter_pushAt (pos stamp : Rat) : s.sansBarter.pushAt p pos stamp = (s.pushAt p pos stamp).sansBarter := by
  unfold State.pushAt
  rw [State.sansBarter_edgeWins]
  rfl

theorem State.sansBarter_pushMeas (stamp : Rat) : s.sansBarter.pushMeas p stamp = (s.pushMeas p stamp).sansBarter :=
  State.sansBarter_pushAt ..

theorem State.sansBarter_registerCount (rev : Bool) (stamp : Nat) :
    s.sansBarter.registerCount p rev stamp = (s.registerCount p rev stamp).sansBarter :=
  ite_eq_map State.sansBarter rfl (State.sansBarter_pushMeas (s.modPort p _) p stamp)

theorem State.sansBarter_registerAB (a b : Bool) (stamp : Nat) :
    s.sansBarter.registerAB p a b stamp = (s.registerAB p a b stamp).sansBarter := by
  refine ite_eq_map State.sansBarter rfl ?_
  rw [State.sansBarter_portMode, State.sansBarter_modPort, State.sansBarter_tally]
  split
  · refine ite_eq_map State.sansBarter rfl ?_
    split
    · exact State.sansBarter_registerCount ..
    · rfl
  · exact ite_eq_map State.sansBarter (State.sansBarter_registerCount (s.modPort p _) p _ stamp) rfl
  · rfl

theorem State.sansBarter_registerZ (level : Bool) (stamp : Nat) :
    s.sansBarter.registerZ p level stamp = (s.registerZ p level stamp).sansBarter := ite_eq_map State.sansBarter rfl rfl

theorem State.sansBarter_releaseHeld : s.sansBarter.releaseHeld p = (s.releaseHeld p).sansBarter := by
  refine foldl_eq_map State.sansBarter (fun s h => ?_) _ rfl
  refine ite_eq_map State.sansBarter rfl ?_
  rw [State.sansBarter_tally]
  cases h.pin
  case z => exact State.sansBarter_registerZ (s.modPort p _) p h.level h.stamp
  all_goals
    refine ite_eq_map State.sansBarter ?_ ?_
    · exact State.sansBarter_registerAB (s.modPort p _) p _ _ h.stamp
    · exact State.sansBarter_registerAB (s.modPort p _) p _ _ h.stamp

theorem State.sansBarter_releaseAll : s.sansBarter.releaseAll = s.releaseAll.sansBarter :=
  foldl_eq_map State.sansBarter (fun s p => s.sansBarter_releaseHeld p) _ rfl

theorem State.sansBarter_rejoin (j : Rat) : s.sansBarter.rejoin j = (s.rejoin j).sansBarter := rfl

theorem State.sansBarter_afterMeas : s.sansBarter.afterMeas m = (s.afterMeas m).sansBarter := rfl

theorem State.sansBarter_forLoop : s.sansBarter.forLoop m = (s.forLoop m).sansBarter := rfl

theorem State.sansBarter_switchPort (fb : Bool) : s.sansBarter.switchPort p fb = (s.switchPort p fb).sansBarter := rfl

theorem State.sansBarter_assign : s.sansBarter.assign m =
    ((s.assign m).1.sansBarter, (s.assign m).2) :=
  ite_eq_map (fun q : State × Rat => (q.1.sansBarter, q.2)) rfl rfl

theorem State.sansBarter_measureOffset : s.sansBarter.measureOffset m = (s.measureOffset m).sansBarter := by
  unfold State.measureOffset
  rw [State.sansBarter_fallbackPort]
  cases s.fallbackPort
  · rfl
  next q =>
    refine ite_eq_map State.sansBarter ?_ rfl
    rw [show s.sansBarter.fallbackAt q m.stamp = s.fallbackAt q m.stamp from rfl]
    cases s.fallbackAt q m.stamp <;> rfl

theorem State.sansBarter_rejoinAt : s.sansBarter.rejoinAt m = (s.rejoinAt m).sansBarter := by
  generalize hr : s.rejoinAt m = r
  unfold State.rejoinAt at hr ⊢
  extract_lets x at hr
  split at hr
  next s1 pos hassign =>
  extract_lets x'
  split
  next s1' pos' hassign' =>
  rw [State.sansBarter_assign, hassign] at hassign'
  obtain ⟨rfl, rfl⟩ := Prod.mk.inj hassign'
  extract_lets s2 at hr
  extract_lets s2'
  have h2 : s2' = s2.sansBarter := State.sansBarter_rejoin ..
  clear_value s2' s2
  subst h2
  rw [State.sansBarter_withTally, State.sansBarter_afterMeas, State.sansBarter_measureOffset, ← hr]
  rfl

theorem State.sansBarter_activeMeas : s.sansBarter.activeMeas m = (s.activeMeas m).sansBarter := by
  generalize hr : s.activeMeas m = r
  unfold State.activeMeas at hr ⊢
  rw [State.sansBarter_tally]
  extract_lets t k u jump dt s1 u1 at hr
  extract_lets u' s1' u1'
  split at hr
  next => rw [hr]
  next =>
    rw [State.sansBarter_withTally, State.sansBarter_forLoop, hr]
  next => rw [State.sansBarter_forLoop, hr]
  next => rw [State.sansBarter_rejoinAt, hr]
  next =>
    split at hr
    next s2 pos hassign =>
    split
    next s2' pos' hassign' =>
    rw [State.sansBarter_assign, hassign] at hassign'
    obtain ⟨rfl, rfl⟩ := Prod.mk.inj hassign'
    rw [← hr]
    rfl
  next =>
    rw [← hr]
    refine ite_eq_map State.sansBarter rfl ?_
    have h1 : s1' = s1.sansBarter := State.sansBarter_rejoin ..
    unfold u1'
    clear_value s1' s1
    subst h1
    rw [State.sansBarter_withTally, State.sansBarter_afterMeas, State.sansBarter_measureOffset]
    rfl

theorem State.sansBarter_takeMeas : s.sansBarter.takeMeas m = (s.takeMeas m).sansBarter := by
  refine ite_eq_map State.sansBarter ?_ (ite_eq_map State.sansBarter (ite_eq_map State.sansBarter ?_ rfl) rfl)
  · rw [State.sansBarter_measureOffset, State.sansBarter_activeMeas]
  · rw [State.sansBarter_switchPort, State.sansBarter_rejoinAt]

theorem State.sansBarter_loopStep : s.sansBarter.loopStep = s.loopStep.sansBarter := by
  generalize hr : s.loopStep = r
  unfold State.loopStep at hr ⊢
  rw [State.sansBarter_tally, show s.sansBarter.advanced = s.advanced from rfl]
  extract_lets t at hr
  extract_lets t
  split at hr
  split at hr
  · rw [← hr]
    rfl
  · rw [← hr]
    rfl

theorem State.sansBarter_slewStep : s.sansBarter.slewStep = s.slewStep.sansBarter := ite_eq_map State.sansBarter rfl rfl

theorem State.sansBarter_indexStep (pos0 : Rat) : s.sansBarter.indexStep pos0 = (s.indexStep pos0).sansBarter := by
  generalize hr : s.indexStep pos0 = r
  unfold State.indexStep at hr ⊢
  rw [State.sansBarter_tally]
  split at hr
  · rw [hr]
  next stamp hindex =>
  extract_lets t0 s1 t c sa ta s2 t2 g slews at hr
  extract_lets s1' t' c' sa' ta' s2' t2' g' slews'
  have h1 : s1' = s1.sansBarter := rfl
  have ht : t' = t := rfl
  have hc : c' = c := rfl
  have h2 : s2' = s2.sansBarter := rfl
  have ht2 : t2' = t2 := rfl
  have hg : g' = g := rfl
  have hslews : slews' = slews := rfl
  clear_value slews slews' g g' t2 t2' s2 s2' ta ta' sa sa' c c' t t' s1 s1'
  subst h1 ht hc h2 ht2 hg hslews
  split at hr
  next => rw [hr]
  next => rw [hr]
  next =>
  rw [← hr]
  refine ite_eq_map State.sansBarter rfl (ite_eq_map State.sansBarter rfl ?_)
  cases t'.rejoined <;> rfl

theorem State.sansBarter_clockFallback : s.sansBarter.clockFallback = s.clockFallback.sansBarter := by
  unfold State.clockFallback
  rw [State.sansBarter_fallbackPort]
  cases s.fallbackPort
  · rfl
  · exact ite_eq_map State.sansBarter rfl rfl

theorem State.sansBarter_tallyClose : s.sansBarter.tallyClose = s.tallyClose.sansBarter := by
  generalize hr : s.tallyClose = r
  unfold State.tallyClose at hr ⊢
  extract_lets s1 t1 s2 pos0 coast slewing s3 t stays at hr
  extract_lets s1' t1' s2' pos0' coast' slewing' s3' t' stays'
  have h1 : s1' = s1.sansBarter := State.sansBarter_releaseAll ..
  have ht1 : t1' = t1 := by
    unfold t1'
    rw [h1, State.sansBarter_tally]
  have h2 : s2' = s2.sansBarter := by
    unfold s2' s2
    rw [ht1, h1, State.sansBarter_tally]
    refine foldl_eq_map State.sansBarter (fun s m => s.sansBarter_takeMeas m) _ ?_
    rfl
  have hpos0 : pos0' = pos0 := by
    unfold pos0'
    rw [h2, State.sansBarter_tally]
  have hcoast : coast' = coast := by
    unfold coast'
    rw [h2, State.sansBarter_tally]
  have hslewing : slewing' = slewing := by
    unfold slewing'
    rw [h2, State.sansBarter_tally]
  have h3 : s3' = s3.sansBarter := by
    unfold s3'
    rw [hpos0, h2, State.sansBarter_loopStep, State.sansBarter_slewStep, State.sansBarter_indexStep,
      State.sansBarter_clockFallback]
  have ht : t' = t := by
    unfold t'
    rw [h3, State.sansBarter_tally]
  unfold stays'
  rw [← hr, ht, h3, hpos0, hcoast, hslewing]
  rfl

end Tally

end Sys2Proof.Machine

end

/-! ## A parameter's value does not look at the requests that run -/

section

open Sys2Proof Sys2Proof.Machine

namespace Sys2Proof.Machine

section Sieve

variable (s : State) (n : Fin 16) (v : Val) (tick : Nat)

theorem State.sansBarter_undoWrites (bank : Bool) :
    s.sansBarter.undoWrites n bank tick = (s.undoWrites n bank tick).sansBarter :=
  foldl_eq_map State.sansBarter (fun _ _ => rfl) _ rfl

theorem State.sansBarter_clampAt (toll : Nat) : s.sansBarter.clampAt tick toll = (s.clampAt tick toll).sansBarter :=
  ite_eq_map State.sansBarter rfl rfl

theorem State.sansBarter_sieveTake : s.sansBarter.sieveTake n v tick = (s.sieveTake n v tick).sansBarter := by
  generalize hr : s.sieveTake n v tick = r
  unfold State.sieveTake at hr ⊢
  extract_lets x0 c0 c median s1 at hr
  extract_lets x0' c0' c' median' s1'
  have hc : c' = c := rfl
  have hmedian : median' = median := rfl
  have h1 : s1' = s1.sansBarter := by
    unfold s1' s1
    rw [hc, hmedian]
    cases c.taking tick
    · rfl
    · exact ite_eq_map State.sansBarter rfl (State.sansBarter_undoWrites ..)
  clear_value s1' s1 median' median c' c c0' c0 x0' x0
  subst hc hmedian h1
  split at hr
  next c1 y cl co hfilter =>
  split
  next c1' y' cl' co' hfilter' =>
  have hsame : (c1, y, cl, co) = (c1', y', cl', co') := hfilter.symm.trans hfilter'
  simp only [Prod.mk.injEq] at hsame
  obtain ⟨rfl, rfl, rfl, rfl⟩ := hsame
  extract_lets out s2 s2s s3 s4 at hr
  extract_lets s2' s2s' s3' s4'
  have h3 : s3' = s3.sansBarter := rfl
  have h4 : s4' = s4.sansBarter := foldl_eq_map State.sansBarter (fun s j => s.sansBarter_clampAt _ 128) cl h3
  rw [← hr]
  refine ite_eq_map State.sansBarter ?_ h4
  rw [h4, State.sansBarter_clampAt]
  rfl

theorem State.sansBarter_sieveInput : sieveInput s.sansBarter = (sieveInput s).sansBarter := by
  unfold sieveInput
  rw [show (s.sansBarter.sieve.inputs.find? fun x => !s.sansBarter.inputHeld x.1 x.2.1) =
    s.sieve.inputs.find? fun x => !s.inputHeld x.1 x.2.1 from rfl]
  split
  · rw [← State.sansBarter_sieveTake]
    rfl
  · rfl

theorem State.sansBarter_sieveMany (k : Nat) : s.sansBarter.sieveMany k = (s.sieveMany k).sansBarter := by
  induction k generalizing s with
  | zero => rfl
  | succ k ih =>
    unfold State.sieveMany
    rw [State.sansBarter_sieveInput, ih]

theorem State.sansBarter_sieveDrain : s.sansBarter.sieveDrain = s.sieveDrain.sansBarter := State.sansBarter_sieveMany ..

end Sieve

theorem State.chanStatWord_sansBarter (s : State) (n : Fin 16) : s.sansBarter.chanStatWord n = s.chanStatWord n := by
  unfold State.chanStatWord
  rw [State.sansBarter_sieveDrain]
  generalize s.sieveDrain = t
  rfl

theorem State.statusWord_sansBarter (s : State) (code : Code) : s.sansBarter.statusWord code = s.statusWord code := by
  unfold State.statusWord
  rw [State.sansBarter_evalDue]
  generalize s.evalDue = t
  rfl

theorem State.tollShown_sansBarter (s : State) (i : Nat) : s.sansBarter.tollShown i = s.tollShown i := by
  unfold State.tollShown
  rw [State.sansBarter_evalDue]
  generalize s.evalDue = t
  rfl

theorem State.stallBits_sansBarter (s : State) (base k : Nat) (n : Fin 16) :
    s.sansBarter.stallBits base k n = s.stallBits base k n := by
  unfold State.stallBits
  rw [State.sansBarter_evalDue]
  generalize s.evalDue = t
  rfl

theorem State.snapPlo_sansBarter (s : State) : s.sansBarter.snapPlo = s.snapPlo := by
  unfold State.snapPlo State.broadcast
  rw [State.sansBarter_tallyClose, State.sansBarter_tally]

/-- The device with other requests on parameters that run. -/
def State.withRun (s : State) (r : Option ParamRun) : State := s.modBarter fun b => { b with run := r }

section

variable (s : State) (r : Option ParamRun)

theorem State.statusWord_withRun (code : Code) : (s.withRun r).statusWord code = s.statusWord code := by
  rw [← State.statusWord_sansBarter, ← s.statusWord_sansBarter]
  rfl

theorem State.tollShown_withRun (i : Nat) : (s.withRun r).tollShown i = s.tollShown i := by
  rw [← State.tollShown_sansBarter, ← s.tollShown_sansBarter]
  rfl

theorem State.chanStatWord_withRun (n : Fin 16) : (s.withRun r).chanStatWord n = s.chanStatWord n := by
  rw [← State.chanStatWord_sansBarter, ← s.chanStatWord_sansBarter]
  rfl

theorem State.snapPlo_withRun : (s.withRun r).snapPlo = s.snapPlo := by
  rw [← State.snapPlo_sansBarter, ← s.snapPlo_sansBarter]
  rfl

theorem State.stallBits_withRun (base k : Nat) (n : Fin 16) : (s.withRun r).stallBits base k n = s.stallBits base k n := by
  rw [← State.stallBits_sansBarter, ← s.stallBits_sansBarter]
  rfl

theorem State.roBits_withRun (base k : Nat) : (s.withRun r).roBits base k = s.roBits base k := by
  unfold State.roBits
  rw [State.snapPlo_withRun, State.tollShown_withRun, State.statusWord_withRun, State.chanStatWord_withRun]
  rfl

theorem State.readValue_withRun (n : Nat) : (s.withRun r).readValue n = s.readValue n := by
  unfold State.readValue
  simp only [State.stallBits_withRun, State.roBits_withRun]
  rfl

end

end Sys2Proof.Machine

end

/-! ## Requests on parameters, item by item (16_barter R346) -/

section

open Sys2Proof Sys2Proof.Machine

namespace Sys2Proof.Machine

/-- A READ_PARAM of the parameters `ns`, before its first item. -/
def ParamRun.reading (ns : List Nat) : ParamRun :=
  { req := none, write := false, count := ns.length, items := ns.map fun n => (n, 0) }

/-- A WRITE_PARAM of the values `xs`, before its first item. -/
def ParamRun.writing (xs : List (Nat × Word)) : ParamRun :=
  { req := none, write := true, count := xs.length, items := xs.map fun x => (x.1, x.2.toNat) }

/-- A READ_PARAM named by a command completes its first item (R346, log entry 32). -/
theorem exec_readParam_eq {s : State} (h : s.clerkFree) {a : Nat} {rest : List Nat} (hlen : rest.length < 64)
    (hnum : ∀ n ∈ a :: rest, n < 2 ^ 16) :
    exec (.readParam (beBytes 2 (rest.length + 1) ++ (a :: rest).flatMap (beBytes 2))) s =
      .next (s.withRun (some (.reading (a :: rest)))).runItem := by
  have hitem : ∀ n ∈ a :: rest, (beAt (beBytes 2 n) 0 2, beAt (beBytes 2 n) 2 (2 - 2)) = (n, 0) := by
    intro n hn
    have hvalue : beAt (beBytes 2 n) 0 2 = n := by simpa using beAt_beBytes_append (n := 2) (hnum n hn) []
    rw [hvalue]
    rfl
  have hbegin := beginItems_eq false 2 (beBytes 2) (fun n => (n, 0)) (a :: rest) s (List.cons_ne_nil _ _) hlen
    (beBytes_length 2) hitem
  exact congrArg Host.Outcome.next ((s.clerk_free h 2 _ _).trans hbegin)

/-- A WRITE_PARAM named by a command completes its first item (R346, log entry 32). -/
theorem exec_writeParam_eq {s : State} (h : s.clerkFree) {a : Nat} {w : Word} {rest : List (Nat × Word)}
    (hlen : rest.length < 64) (hnum : ∀ x ∈ (a, w) :: rest, x.1 < 2 ^ 16) :
    exec (.writeParam (beBytes 2 (rest.length + 1) ++ ((a, w) :: rest).flatMap fun x => beBytes 2 x.1 ++ beBytes 4 x.2.toNat)) s =
      .next (s.withRun (some (.writing ((a, w) :: rest)))).runItem := by
  have hitem : ∀ x ∈ (a, w) :: rest, (beAt (beBytes 2 x.1 ++ beBytes 4 x.2.toNat) 0 2,
      beAt (beBytes 2 x.1 ++ beBytes 4 x.2.toNat) 2 (6 - 2)) = (x.1, x.2.toNat) := by
    intro x hx
    have hvalue : beAt (beBytes 2 x.1 ++ beBytes 4 x.2.toNat) 2 4 = x.2.toNat := by
      rw [beAt, List.drop_left' (beBytes_length 2 _), List.take_of_length_le (beBytes_length 4 _).le,
        ofBeBytes_beBytes x.2.isLt]
    exact Prod.ext (beAt_beBytes_append (hnum x hx) _) hvalue
  have hbegin := beginItems_eq true 6 (fun x : Nat × Word => beBytes 2 x.1 ++ beBytes 4 x.2.toNat)
    (fun x => (x.1, x.2.toNat)) ((a, w) :: rest) s (List.cons_ne_nil _ _) hlen (fun x => by simp) hitem
  exact congrArg Host.Outcome.next ((s.clerk_free h 3 _ _).trans hbegin)

/-- The reply to a request on one item: the count, two reserved bytes, and the item (R346). -/
theorem reply_of_one_item (item : List Byte) : beBytes 2 1 ++ [0, 0] ++ ([] ++ item) = [0, 1, 0, 0] ++ item := by
  have hone : beBytes 2 1 = [0, 1] := by decide
  rw [hone]
  rfl

/-- A command that writes a stall's SEGLEN, in range (R9, R178). -/
theorem exec_paramWrite_STL_SEGLEN (s : State) (n : Fin 16) (w : Word) (hw : 2 ≤ w.toNat) :
    exec (.paramWrite (BitVec.ofNat 16 (R.STL_SEGLEN.num 0 n)) w) s = .next
      (if s.running (fnStall n) = true ∧ w ≠ s.lastWritten (R.STL_SEGLEN.num 0 n) then s.refuseWrite .stopLocked
      else { s with code := .ok, written := Sparse.set resetWord s.written (R.STL_SEGLEN.num 0 n) w }) := by
  have hnum : (BitVec.ofNat 16 (R.STL_SEGLEN.num 0 n)).toNat = R.STL_SEGLEN.num 0 n := by
    revert n
    decide
  rw [← s.writeParam_STL_SEGLEN n w hw]
  exact congrArg (fun k => Host.Outcome.next (s.writeParam k w)) hnum

/-- Ones written to the overload bits (R8, R10). -/
theorem exec_w1cClear_CNV_OVR (s : State) (w : Word) :
    exec (.w1cClear (BitVec.ofNat 16 R.CNV_OVR.base) w) s =
      .next ((s.clearSticky R.CNV_OVR.base (w &&& 0xFFFF)).answer .ok) := rfl

end Sys2Proof.Machine

/-- Settles O4: a request goes item by item, a word is judged field by field, a running function locks its words, and a clear
spares what the present tick sets. -/
theorem writesAreJudgedAndItemsTaken : Obligations.WritesAreJudgedAndItemsTaken := by
  unfold Obligations.WritesAreJudgedAndItemsTaken
  refine ⟨?_, ?_, ?_, ?_, ?_⟩
  case refine_1 =>
    intro s a rest v hfree hlen hnum hvalue
    obtain ⟨t, hitem⟩ := State.doItem_read 0 ((s.readValue_withRun (some (.reading (a :: rest))) a).trans hvalue)
    refine ⟨_, exec_readParam_eq hfree hlen hnum, ?_, ?_⟩
    · rintro rfl
      rw [State.runItem_last rfl rfl rfl rfl hitem]
      refine ⟨rfl, rfl, ?_⟩
      refine (reply_of_one_item _).trans ?_
      simp only [List.append_assoc]
    · intro hne
      obtain ⟨b, bs, rfl⟩ := List.exists_cons_of_ne_nil hne
      rw [State.runItem_more rfl rfl rfl hitem]
      exact ⟨_, rfl, rfl, rfl⟩
  case refine_2 =>
    intro s a w rest hfree hlen ha hrest items s1
    have hnum : ∀ x ∈ (a, w) :: rest, x.1 < 2 ^ 16 := List.forall_mem_cons.2 ⟨ha, hrest⟩
    have hwrite : exec (.paramWrite (BitVec.ofNat 16 a) w) s1 = .next (s1.writeParam a w) :=
      congrArg (fun n => Host.Outcome.next (s1.writeParam n w)) (Nat.mod_eq_of_lt ha)
    refine ⟨_, _, hwrite, exec_writeParam_eq hfree hlen hnum, ?_⟩
    have hitem := s1.doItem_write a w
    rcases rest with _ | ⟨b, bs⟩
    · rw [State.runItem_last rfl rfl rfl rfl hitem]
      refine ⟨rfl, rfl, fun _ => ⟨rfl, ?_⟩, fun h => absurd rfl h⟩
      refine (reply_of_one_item _).trans ?_
      simp only [List.append_assoc]
    · rw [State.runItem_more rfl rfl rfl hitem]
      exact ⟨rfl, rfl, fun h => absurd h (List.cons_ne_nil _ _), fun _ => ⟨_, rfl, rfl, rfl⟩⟩
  case refine_3 =>
    intro s n w r k st hwf hl hplain hheld hrange hspan hcal hlock m
    obtain ⟨hcode, hwritten⟩ := s.writeFields_accepted r n.toNat w hwf hheld hrange hspan hcal hlock
    refine ⟨s.writeFields r n.toNat w, congrArg Host.Outcome.next (s.writeParam_plain w hl hplain), hcode, ?_, ?_⟩
    · rw [hwritten, if_pos rfl]
    · intro j hj
      rw [hwritten, if_neg hj]
  case refine_4 => exact fun s n w h => congrArg Host.Outcome.next (w1cClear_eq w s h)
  case refine_5 =>
    intro s n w hw
    refine ⟨?_, ?_, ?_⟩
    · intro hrun hdiff
      rw [exec_paramWrite_STL_SEGLEN s n w hw, if_pos ⟨hrun, hdiff⟩]
      rfl
    · intro hstopped
      rw [exec_paramWrite_STL_SEGLEN s n w hw, if_neg (by simp [hstopped])]
    · exact ⟨_, exec_w1cClear_CNV_OVR s w, rfl, rfl, rfl⟩

end

/-! ## What every command keeps (01_architecture R20, R31, R32) -/

section

open Sys2Proof Sys2Proof.Machine

namespace Sys2Proof.Machine

/-- A command answered with a calm change completes calmly. -/
theorem Calm.next {s t : State} (h : Calm s t) : ∃ u, (Host.Outcome.next t : Result) = .next u ∧ Calm s u := ⟨t, rfl, h⟩

/-- Every command but TICK and those that reset the device through VAON or RESET_N completes with a calm change. -/
theorem exec_calm (c : Instr) (s : State) (hclear : c.clearsTolls = false) (htick : ∀ v, c ≠ .tick v) :
    ∃ t, exec c s = .next t ∧ Calm s t := by
  cases c with
  | ping body => exact (State.clerk_calm _ _ _ _ _ fun _ _ => Calm.ite (State.finish_calm ..) (State.finish_calm ..)).next
  | renew body => exact (State.clerk_calm _ _ _ _ _ fun _ _ => Calm.ite (renew_calm ..) (State.finish_calm ..)).next
  | readParam body => exact (State.clerk_calm _ _ _ _ _ (beginItems_calm false 2 body)).next
  | writeParam body => exact (State.clerk_calm _ _ _ _ _ (beginItems_calm true 6 body)).next
  | paramWrite n w => exact (State.writeParam_calm ..).next
  | stopFn body => exact (State.clerkFn_calm _ _ _ _ (stopRequest_calm body)).next
  | startFn body => exact (State.clerkFn_calm _ _ _ _ (startRequest_calm body)).next
  | fetchHdr body => exact (State.clerk_calm _ _ _ _ _ (fetchHdr_calm body)).next
  | fetchSeg body => exact (State.clerk_calm _ _ _ _ _ (fetchSeg_calm body)).next
  | fetchMeas body => exact (State.clerk_calm _ _ _ _ _ (fetchMeas_calm body)).next
  | fetchTile body => exact (State.clerk_calm _ _ _ _ _ (fetchTile_calm body)).next
  | uploadOverlay body => exact (State.clerk_calm _ _ _ _ _ (uploadOverlay_calm body)).next
  | ackAttn body => exact (State.clerk_calm _ _ _ _ _ (ackAttn_calm body)).next
  | consign body => exact (State.clerk_calm _ _ _ _ _ (consign_calm body)).next
  | imageWrite body => exact (State.clerk_calm _ _ _ _ _ (imageWriteRequest_calm body)).next
  | imageCommit body => exact (Calm.ite (.refl _) (State.clerk_calm _ _ _ _ _ (imageCommit_calm body))).next
  | tollRead body => exact (State.clerk_calm _ _ _ _ _ (tollRead_calm body)).next
  | logRead body => exact (State.clerk_calm _ _ _ _ _ (logRead_calm body)).next
  | resetRequest body => exact (State.clerk_calm _ _ _ _ _ (resetRequest_calm body)).next
  | barterFrameReceived frame => exact (State.receive_calm ..).next
  | arpRequest frame => exact (Calm.ite (State.receive_calm ..) (.refl _)).next
  | icmpEcho frame => exact (Calm.ite (State.receive_calm ..) (.refl _)).next
  | requestDeadline => exact (requestDeadline_calm ..).next
  | plcaFallback => exact (plcaFallback_calm ..).next
  | plcaRestore => exact (plcaRestore_calm ..).next
  | frameAbandoned => exact (frameAbandoned_calm ..).next
  | wharfLinkUp => exact (wharfLinkUp_calm ..).next
  | wharfLinkLoss => exact (wharfLinkLoss_calm ..).next
  | wharfChunk => exact (wharfChunk_calm ..).next
  | launchArm k ctrl => exact (launchArmWrite_calm ..).next
  | launchDisarm k ctrl => exact (launchDisarmWrite_calm ..).next
  | launchSlotFire k => exact (launchFire_calm ..).next
  | toutPulseRise pin => exact (State.modTout_calm ..).next
  | toutPulseFall pin => exact (State.modTout_calm ..).next
  | tallySnapRead => exact ((snapRead_calm s).trans (State.answer_calm ..)).next
  | chronRead => exact ((chronLatch_calm s).trans (State.answer_calm ..)).next
  | lastsegRead n => exact (lastsegRead_calm ..).next
  | yardSnapRead k => exact (yardSnapRead_calm ..).next
  | flipRead => exact (flipRead_calm ..).next
  | cryOfsRead => exact ((cryOfsRead_calm s).trans (State.answer_calm ..)).next
  | w1cClear n w => exact (w1cClear_calm ..).next
  | stallWindowAccess n write => exact (stallWindow_calm ..).next
  | sieveWindowAccess write => exact (sieveWindow_calm ..).next
  | measSlotWindowAccess n write => exact (measWindow_calm ..).next
  | paletteWindowAccess write => exact (paletteWindow_calm ..).next
  | elogDataRead => exact (elogDataRead_calm ..).next
  | logDataRead => exact (logDataRead_calm ..).next
  | bankRequest n w => exact (bankRequest_calm ..).next
  | sivSync w => exact (sivSync_calm ..).next
  | yardClear k => exact (yardClear_calm ..).next
  | yardSnap k => exact (yardSnap_calm ..).next
  | sgnCommit w => exact (sgnCommit_calm ..).next
  | trainingGo w => exact (trainingGo_calm ..).next
  | trainingDelayWrite w => exact (trainingDelay_calm ..).next
  | trainingSweepDone c reads counts => exact (trainingSweepDone_calm ..).next
  | otpProgram => exact (otpProgram_calm ..).next
  | otpProgramDone => exact (State.modImage_calm s (fun x => { x with otpUntil := none }) fun _ h => h).next
  | rollbackAdvance => exact (rollbackAdvance_calm ..).next
  | regimeRequestFull admitLean wakeTo => exact (regimeFull_calm ..).next
  | regimeRequestLean admitLean wakeTo => exact (regimeLean_calm ..).next
  | regimeRequestWatch admitLean wakeTo => exact (regimeWatch_calm ..).next
  | regimeChange => exact (regimeChange_calm ..).next
  | hallFreezeWrite j w => exact (hallFreezeWrite_calm ..).next
  | dramFreezeWrite w => exact (dramFreezeWrite_calm ..).next
  | refSelectWrite w => exact (refSelect_calm ..).next
  | tallyCountEdge port a b stamp => exact (countEdge_calm ..).next
  | tallyMeasurement => exact (takeMeasurement_calm ..).next
  | tallyIndex port level stamp => exact (indexEdge_calm ..).next
  | lossIntervalExpiry => exact (lossExpiry_calm ..).next
  | stillTimeExpiry => exact (stillExpiry_calm ..).next
  | coastMaxExpiry => exact (coastExpiry_calm ..).next
  | vaonPowerUp => cases hclear
  | resetNAssert => cases hclear
  | resetNRelease => exact (resetRelease_calm ..).next
  | internalReset => cases hclear
  | mintStart m => exact (mintStarts_calm ..).next
  | refAbsent loss words => exact (refLoss_calm ..).next
  | refQualified cp0 => exact (refQualify_calm ..).next
  | pullingFreqSettled m word => exact (pullSettle_calm ..).next
  | mintLock m => exact (mintLocks_calm ..).next
  | reliefSettled => exact (reliefSettles_calm ..).next
  | refereeWindowEnd => exact (refereeEnd_calm ..).next
  | witnessWindowEnd => exact (witnessEnd_calm ..).next
  | calShadowEnd => exact (calShadowEnd_calm ..).next
  | calSubstepEnd => exact (calSubstepEnd_calm ..).next
  | calDwellEnd => exact (calDwellEnd_calm ..).next
  | calCheckEnd candidate => exact (calCheckEnd_calm ..).next
  | calReturnSettled => exact (calReturnSettled_calm ..).next
  | calVerifyEnd residuals => exact (calVerifyEnd_calm ..).next
  | calRestoreSettled => exact (calRestoreSettled_calm ..).next
  | reliefSelfcalEnd candidate skews => exact (reliefSelfCalEnd_calm ..).next
  | calIntervalExpiry => exact (calIntervalExpiry_calm ..).next
  | calAuxPeriodExpiry => exact (calAuxPeriod_calm ..).next
  | auxCalComplete ofs gain => exact (auxCalComplete_calm ..).next
  | auxPeriodStart => exact (auxPeriodStart_calm ..).next
  | auxConversionEnd raw => exact (auxConversionEnd_calm ..).next
  | auxWarmupDone => exact (auxWarmupDone_calm ..).next
  | auxInjectRequest source => exact (auxInject_calm ..).next
  | auxWatchTimer => exact (auxWatchTimer_calm ..).next
  | pmMonitorRound => exact (pmRound_calm ..).next
  | wghTestPeriodExpiry => exact (testPeriod_calm ..).next
  | migrationCopyDone => exact (migrationCopied_calm ..).next
  | migrationSwitch => exact (migrationSwitch_calm ..).next
  | wghTestDone pass => exact (testDone_calm ..).next
  | wghHang w => exact (weigherHang_calm ..).next
  | hungChainRestart w => exact (hungRestart_calm ..).next
  | trigInEdge pin level stamp => exact (trigInEdge_calm ..).next
  | bellAdvance n => exact (State.reportBell_calm ..).next
  | bellReset n => exact (State.reportBell_calm ..).next
  | bellTimerExpiry n k => exact (State.reportBell_calm ..).next
  | autoTrigger n => exact (State.reportBell_calm ..).next
  | holdoffElapsed n => exact (State.reportBell_calm ..).next
  | rearmEnd n => exact (Calm.ite (State.reportBell_calm ..) (.refl _)).next
  | bellDecision n => exact (State.nextDecision_calm ..).next
  | segmentClose n => exact (segmentClose_calm ..).next
  | mergeReadDone n found => exact (mergeReadDone_calm ..).next
  | headerWriteDone n => exact (headerWriteDone_calm ..).next
  | sieveInput => exact (sieveInput_calm ..).next
  | sieveOutputRelease => exact (sieveRelease_calm ..).next
  | yardRunAdd n => exact (yardRunAdd_calm ..).next
  | decayPeriodStart k => exact (decayPeriod_calm ..).next
  | decaySweepDone k => exact (sweepDone_calm ..).next
  | snapCopyDone k => exact (snapCopyDone_calm ..).next
  | clearDone k => exact (clearDone_calm ..).next
  | hallRead port addr e0 e1 => exact (State.onBank_calm _ _ _ _ (hallRead_calm port addr e0 e1)).next
  | hallWrite port addr h0 h1 w => exact (State.onBank_calm _ _ _ _ (hallWrite_calm port addr h0 h1 w)).next
  | add32Wrapping port addr mask adds ret e0 e1 => exact (State.onBank_calm _ _ _ _ fun _ => State.portAtomic_calm ..).next
  | add32Saturating port addr mask adds ret e0 e1 => exact (State.onBank_calm _ _ _ _ fun _ => State.portAtomic_calm ..).next
  | swap32 port addr mask vals e0 e1 => exact (State.onBank_calm _ _ _ _ fun _ => State.portAtomic_calm ..).next
  | swap64 port addr h0 h1 vals e0 e1 => exact (State.onBank_calm _ _ _ _ fun _ => State.portAtomic_calm ..).next
  | scrubStep e0 e1 => exact (scrubStep_calm ..).next
  | hallScrubPeriod => exact (scrubPeriod_calm ..).next
  | hallRequest arb port held work background => exact (hallRequest_calm ..).next
  | dramBurst owner addr write scrub found => exact (dramBurst_calm ..).next
  | srEntry c => exact (srEntry_calm ..).next
  | srExit c => exact (srExit_calm ..).next
  | srExitDone c => exact (srExitDone_calm ..).next
  | refreshDue c => exact (refreshDue_calm ..).next
  | mr4Read code => exact (mr4Read_calm ..).next
  | hammerMitigation c bank row => exact (hammerMitigation_calm ..).next
  | hammerWindowEnd => exact (hammerWindowEnd_calm ..).next
  | retrainStep c dqs lane delays => exact (retrainStep_calm ..).next
  | dramScrubPeriod c => exact (dramScrubPeriod_calm ..).next
  | headerRewrite found => exact (headerRewrite_calm ..).next
  | signboardLatch even0 odd0 even1 odd1 => exact (signboardLatch_calm ..).next
  | l1FillDone => exact (l1FillDone_calm ..).next
  | crierPortSync p => exact (portSync_calm ..).next
  | idleFrame p f => exact (idleFrame_calm ..).next
  | tallyFrame p f => exact (tallyFrame_calm ..).next
  | cryPair p a b => exact (cryPair_calm ..).next
  | launchPair p a b => exact (launchPair_calm ..).next
  | delayRequest p f => exact (delayRequest_calm ..).next
  | delayResponse p f => exact (delayResponse_calm ..).next
  | delayRequestDue => exact (delayDue_calm ..).next
  | delayUnanswered => exact (delayUnanswered_calm ..).next
  | crierLinkLoss p commas => exact (linkLoss_calm ..).next
  | crierEntryFire e => exact (entryFire_calm ..).next
  | railSettled => exact (railSettled_calm ..).next
  | railTimeout => exact (railTimeout_calm ..).next
  | sequenceRetry => exact (sequenceRetry_calm ..).next
  | brownOut => exact (brownOut_calm ..).next
  | brownOutRestart => exact (brownOutRestart_calm ..).next
  | pmAlert words => exact (pmAlert_calm ..).next
  | pmbusPoll words => exact (pmbusPoll_calm ..).next
  | vcoreAdapt up => exact (vcoreAdapt_calm ..).next
  | tempReading sensor tj => exact (tempReading_calm ..).next
  | thermalRecovery => exact (thermalRecovery_calm ..).next
  | watchEntry => exact (watchEntry_calm ..).next
  | wakeEvent source => exact (Calm.ite (State.wakeEvent_calm ..) (.refl _)).next
  | wakeComplete training intact => exact (wakeComplete_calm ..).next
  | startup sfdp reread training => exact (startup_calm ..).next
  | flashOperationDone => exact (flashOperationDone_calm ..).next
  | tick pins => exact absurd rfl (htick _)
  | calToneSettled => exact (calToneSettled_calm ..).next
  | srEntryDone c => exact (srEntryDone_calm ..).next
  | crierTransmitCycle p => exact (transmitCycle_calm ..).next
  | vaonRemoval => cases hclear

/-- Every command completes, and the commands that wait stay as they are. -/
theorem exec_completes (c : Instr) (s : State) : ∃ t, exec c s = .next t ∧ t.pending = s.pending := by
  by_cases hcalm : c.clearsTolls = false ∧ ∀ v, c ≠ .tick v
  · obtain ⟨t, ht, h⟩ := exec_calm c s hcalm.1 hcalm.2
    exact ⟨t, ht, h.pending⟩
  · cases c with
    | tick v => exact ⟨_, rfl, (tick_keeps v s).1⟩
    | vaonPowerUp => exact ⟨_, rfl, (vaonPowerUp_keeps s).1⟩
    | vaonRemoval => exact ⟨_, rfl, (vaonRemoval_keeps s).1⟩
    | resetNAssert => exact ⟨_, rfl, (resetAssert_tame s).pending⟩
    | internalReset => exact ⟨_, rfl, (internalReset_tame s).pending⟩
    | _ => exact absurd ⟨rfl, fun _ => Instr.noConfusion⟩ hcalm

/-- Only TICK and the coming and going of VAON move the chronicle (R20, R70). -/
theorem exec_chron_of_not_movesChronicle {c : Instr} {s t : State} (hc : c.movesChronicle = false) (h : exec c s = .next t) :
    t.chron = s.chron := by
  by_cases hclear : c.clearsTolls = false
  · obtain ⟨u, hu, hcalm⟩ := exec_calm c s hclear (by rintro v rfl; cases hc)
    cases hu.symm.trans h
    exact hcalm.chron
  · cases c with
    | resetNAssert => cases h; exact (resetAssert_tame s).chron
    | internalReset => cases h; exact (internalReset_tame s).chron
    | vaonPowerUp | vaonRemoval => cases hc
    | _ => exact absurd rfl hclear

/-- Without VAON a TICK leaves the device as it is (log entry 63). -/
theorem tick_of_not_vaon (v : TickIn) {s : State} (h : s.power.vaon = false) : tick v s = s := by
  simp [tick, h]

/-- With VAON a TICK moves the chronicle by its own length, whatever the tick does besides (R20, log entry 46). -/
theorem tick_chron_of_vaon (v : TickIn) {s : State} (h : s.power.vaon = true) :
    (tick v s).chron = s.chron + BitVec.ofNat 80 s.tickLen := by
  have hpins : Calm s (((s.regulatorsAnswer v.mute).scanPins v).hallFlips v.flips) :=
    ((State.regulatorsAnswer_calm ..).trans (State.scanPins_calm ..)).trans (State.hallFlips_calm ..)
  have hclose := hpins.tame.trans (State.closeTick_tame _ v.volts)
  obtain ⟨-, hopen, -⟩ :=
    State.openTick_keeps ((((s.regulatorsAnswer v.mute).scanPins v).hallFlips v.flips).closeTick v.volts) s.tickLen
  rw [tick, if_pos h, hopen, hclose.chron]

/-- The length of a tick in mites (R20). -/
theorem State.tickLen_eq (s : State) :
    s.tickLen = if s.power.regime = .watch ∧ s.power.watchOnRef = true then 400 else 32 := rfl

/-- VAON's coming sets the chronicle to zero (R70). -/
theorem vaonPowerUp_chron {s : State} (h : s.power.vaon = false) : (vaonPowerUp s).chron = 0 := by
  simp [vaonPowerUp, h]

end Sys2Proof.Machine

/-- Settles O53, by the definition's two cases. -/
theorem stepRunsTheFront : Obligations.StepRunsTheFront := by
  unfold Obligations.StepRunsTheFront
  refine ⟨fun s c rest h => ?_, fun s h => ?_⟩
  · simp [step, h]
  · simp [step, h]

/-- Settles O54: every command's meaning is total, and none touches the queue. -/
theorem nothingStops : Obligations.NothingStops := exec_completes

/-- Settles O58: TICK is the one command that moves the chronicle of a device that is switched on. -/
theorem chronicleCountsTicks : Obligations.ChronicleCountsTicks := by
  unfold Obligations.ChronicleCountsTicks
  intro s t
  refine ⟨?_, ?_, ?_, fun c => exec_chron_of_not_movesChronicle⟩
  · intro v h hvaon
    cases h
    rw [tick_chron_of_vaon v hvaon, State.tickLen_eq]
  · intro v h hvaon
    cases h
    exact tick_of_not_vaon v hvaon
  · intro h hvaon
    cases h
    exact vaonPowerUp_chron hvaon

end

/-! ## START and STOP of functions (01_architecture R24 to R31; 16_barter R341, R347) -/

section

open Sys2Proof Sys2Proof.Machine

namespace Sys2Proof.Machine

/-- The outcome `t` of a START_FN or STOP_FN in state `s`: one that has moved a function is noted for the tick (R31). -/
def State.noteMove (s t : State) : State :=
  if t.run == s.run then t else { t with ev := { t.ev with fnMoved := true } }

theorem State.noteMove_of_eq {s t : State} (h : t.run = s.run) : s.noteMove t = t := by simp [State.noteMove, h]

theorem State.noteMove_of_ne {s t : State} (h : t.run ≠ s.run) :
    s.noteMove t = { t with ev := { t.ev with fnMoved := true } } := by simp [State.noteMove, h]

/-- The one byte of a body that names a function. -/
theorem beAt_fn (fn : Byte) : beAt [fn, 0] 0 1 = fn.toNat := by simp [beAt, ofBeBytes]

/-- A STOP_FN or START_FN named by a command is carried out by a Clerk that is free (R31, log entry 32). -/
theorem State.clerkFn_free {s : State} (h : s.clerkFree) (hmove : s.ev.fnMoved = false) (op : Nat) (body : List Byte)
    (act : Option BarterRequest → State → State) : s.clerkFn op body act = s.noteMove (act none s) := by
  simp [State.clerkFn, hmove, s.clerk_free h, State.noteMove]

/-- START_FN named by a command answers with the code and the admission word of the START (R345, R347). -/
theorem exec_startFn_eq {s : State} (h : s.clerkFree) (hmove : s.ev.fnMoved = false) (fn : Byte) {w : Word} {t : State}
    (hstart : s.startFn fn.toNat = (w, t)) :
    exec (.startFn [fn, 0]) s = .next (s.noteMove (t.replied t.code (beBytes 4 w.toNat))) := by
  have hreq : startRequest [fn, 0] none s = t.replied t.code (beBytes 4 w.toNat) := by
    simp only [startRequest, beAt_fn, hstart]
    rfl
  exact congrArg Host.Outcome.next ((s.clerkFn_free h hmove 5 _ _).trans (congrArg s.noteMove hreq))

/-- STOP_FN named by a command answers with the code of the STOP (R347). -/
theorem exec_stopFn_eq {s : State} (h : s.clerkFree) (hmove : s.ev.fnMoved = false) (fn : Byte) {t : State}
    (hstop : s.stopFn fn.toNat = t) : exec (.stopFn [fn, 0]) s = .next (s.noteMove (t.replied t.code [])) := by
  have hreq : stopRequest [fn, 0] none s = t.replied t.code [] := by
    simp only [stopRequest, beAt_fn, hstop]
    rfl
  exact congrArg Host.Outcome.next ((s.clerkFn_free h hmove 4 _ _).trans (congrArg s.noteMove hreq))

/-- START of a running function does nothing (R347). -/
theorem State.startFn_of_running {s : State} {fn : Nat} (hid : functionIds.contains fn = true) (hrun : s.running fn = true) :
    s.startFn fn = (0, s.answer .ok) := by simp only [State.startFn, hid, hrun]; rfl

/-- STOP of a stopped function does nothing (R347). -/
theorem State.stopFn_of_stopped {s : State} {fn : Nat} (hid : functionIds.contains fn = true) (hrun : s.running fn = false) :
    s.stopFn fn = s.answer .ok := by simp only [State.stopFn, hid, hrun]; rfl

/-- STOP of a function on which a running one depends is refused (R28). -/
theorem State.stopFn_of_hasDependents {s : State} {fn : Nat} (hid : functionIds.contains fn = true)
    (hrun : s.running fn = true) (hdep : s.hasDependents fn = true) :
    s.stopFn fn = (s.toll 244).answer .dependentRunning := by
  simp only [State.stopFn, hid, hrun, hdep]; rfl

/-- A START's locked values change nothing but the values in force (R379). -/
theorem State.forceLocked_eq (s : State) (fn : Nat) : s.forceLocked fn = { s with force := (s.forceLocked fn).force } := by
  unfold State.forceLocked
  generalize lockedWords fn = ns
  induction ns generalizing s with
  | nil => rfl
  | cons n ns ih => exact ih (s.setForce n (s.lastWritten n) (classMask n (· == .sl)))

/-- START of the Sieve, its locked values in range (R24, R379). -/
theorem State.startFn_sieve {s : State} (hrun : s.running fnSieve = false)
    (hrange : (s.forceLocked fnSieve).lockedOutOfRange fnSieve = false) :
    s.startFn fnSieve = (0, ((s.forceLocked fnSieve).joinRun fnSieve).answer .ok) := by
  have hbad : (s.forceLocked fnSieve).fnBadParam fnSieve = false := by
    simp only [State.fnBadParam, hrange]
    rfl
  have hother : s.startFn fnSieve = s.startOther fnSieve := by
    simp only [State.startFn, hrun]
    rfl
  simp only [hother, State.startOther, hbad]
  rfl

/-- STOP of the Sieve, which nothing uses (R28, R30). -/
theorem State.stopFn_sieve {s : State} (hrun : s.running fnSieve = true) (hdep : s.hasDependents fnSieve = false) :
    s.stopFn fnSieve = { s with run := s.run.erase fnSieve }.answer .ok := by
  simp only [State.stopFn, hrun, hdep]
  rfl

/-- A START of stall `n` is refused for its dependencies: toll 244, and DEP beside the weighers it needs (R25, R29). -/
def State.refuseForDeps (s : State) (n : Fin 16) (need : Nat) : State :=
  (s.toll 244).modStall n fun t => { t with admitWord := F.STL_ADMIT_NEED.put need ||| F.STL_ADMIT_DEP.put 1 }

/-- Beside its admission word the stall is as it was. -/
@[simp] theorem State.refuseForDeps_stall (s : State) (n : Fin 16) (need : Nat) : (s.refuseForDeps n need).stalls[n.val] =
    { s.stalls[n.val] with admitWord := F.STL_ADMIT_NEED.put need ||| F.STL_ADMIT_DEP.put 1 } := by
  simp [State.refuseForDeps]

/-- The judgement of a stall whose configuration is good and whose dependencies do not all run (R25, R29). -/
theorem State.startStall_of_not_depsRun {s0 s : State} {n : Fin 16}
    (hbad : s.stallBadParam n (s.trialSetup n)
      (weighersFor ((s.stalls[n]).chainCost (s.trialSetup n).rate (s.trialSetup n).stages)) = false)
    (hdeps : s.depsRun (fnStall n) = false) : ∃ need, s0.startStall s n = (.notAdmitted, s0.refuseForDeps n need) := by
  simp only [State.startStall, hbad, hdeps]
  exact ⟨_, rfl⟩

/-- A field takes its value modulo its width. -/
theorem Fld.put_mod (f : Fld) (v : Nat) : f.put (v % 2 ^ f.width) = f.put v := by simp [Fld.put]

/-- An admission word with DEP beside any need of weighers shows DEP alone (R341, R345). -/
theorem admitWord_dep (need : Nat) :
    let w := F.STL_ADMIT_NEED.put need ||| F.STL_ADMIT_DEP.put 1
    F.STL_ADMIT_LANE.get w = 0 ∧ F.STL_ADMIT_DRAM.get w = 0 ∧ F.STL_ADMIT_HALL.get w = 0 ∧ F.STL_ADMIT_SIEVE.get w = 0 ∧
      F.STL_ADMIT_DEP.get w = 1 := by
  rw [← Fld.put_mod]
  have hneed : need % 2 ^ F.STL_ADMIT_NEED.width < 128 := Nat.mod_lt _ (by decide)
  generalize need % 2 ^ F.STL_ADMIT_NEED.width = k at hneed
  revert k
  decide

/-- The admission word that START_FN answers with when a stall lacks its dependencies (R345). -/
theorem State.stallAdmission_refuseForDeps (s : State) (n : Fin 16) (need : Nat) :
    (s.refuseForDeps n need).stallAdmission n = admission false false false false true := by
  obtain ⟨hlane, hdram, hhall, hsieve, hdep⟩ := admitWord_dep need
  simp [State.stallAdmission, hlane, hdram, hhall, hsieve, hdep]

/-- The reply's bytes of an admission word with DEP alone (R345). -/
theorem admission_dep_bytes : beBytes 4 (admission false false false false true).toNat = [0, 0, 0, 16] := by decide

/-- The function IDs of the stalls (R378). -/
theorem fnStall_id (n : Fin 16) : functionIds.contains (fnStall n) = true ∧ fnStall n / 16 = 1 ∧
    Fin.ofNat 16 (fnStall n) = n ∧ (BitVec.ofNat 8 (fnStall n)).toNat = fnStall n := by
  revert n
  decide

/-- START of a stopped stall, of which no STOP waits, comes to its judgement (R24). -/
theorem State.startFn_stall {s : State} {n : Fin 16} (hrun : s.running (fnStall n) = false)
    (hstop : (s.stalls[n]).stopping = false) : s.startFn (fnStall n) = s.startAStall n := by
  obtain ⟨hid, hdiv, hstall, -⟩ := fnStall_id n
  have hsettle : s.settleStop (fnStall n) = s := by
    simp only [State.settleStop, hstall, hstop, Bool.false_eq_true, and_false, if_false]
  simp only [State.startFn, hid, hrun, hsettle, hdiv, hstall]
  rfl

/-- A stall whose judgement answers NOT_ADMITTED is answered with its admission word (R345). -/
theorem State.startAStall_of_notAdmitted {s s1 t : State} {n : Fin 16} (hs1 : s.forceLocked (fnStall n) = s1)
    (h : s.startStall s1 n = (.notAdmitted, t)) : s.startAStall n = (t.stallAdmission n, t.answer .notAdmitted) := by
  unfold State.startAStall
  rw [hs1, h]

/-- START of a stall whose dependencies do not all run is refused (R25, R29, R341). -/
theorem State.startFn_stall_of_not_depsRun {s s1 : State} {n : Fin 16} (hs1 : s.forceLocked (fnStall n) = s1)
    (hrun : s.running (fnStall n) = false) (hstop : (s.stalls[n]).stopping = false)
    (hbad : s1.stallBadParam n (s1.trialSetup n)
      (weighersFor ((s1.stalls[n]).chainCost (s1.trialSetup n).rate (s1.trialSetup n).stages)) = false)
    (hdeps : s1.depsRun (fnStall n) = false) : ∃ need,
    s.startFn (fnStall n) = (admission false false false false true, (s.refuseForDeps n need).answer .notAdmitted) := by
  obtain ⟨need, hrefused⟩ := State.startStall_of_not_depsRun (s0 := s) hbad hdeps
  refine ⟨need, ?_⟩
  rw [State.startFn_stall hrun hstop, State.startAStall_of_notAdmitted hs1 hrefused, State.stallAdmission_refuseForDeps]

end Sys2Proof.Machine

/-- Settles O5: each request comes to the START or the STOP of its function, whose outcome is a case of its own. -/
theorem functionsStartAndStop : Obligations.FunctionsStartAndStop := by
  unfold Obligations.FunctionsStartAndStop
  refine ⟨fun s hfree hmove => ⟨fun fn hid => ⟨?_, ?_, ?_⟩, ?_, ?_⟩, ?_⟩
  case refine_1 =>
    intro hrun
    refine (exec_startFn_eq hfree hmove fn (State.startFn_of_running hid hrun)).trans ?_
    exact congrArg _ (State.noteMove_of_eq rfl)
  case refine_2 =>
    intro hrun
    refine (exec_stopFn_eq hfree hmove fn (State.stopFn_of_stopped hid hrun)).trans ?_
    exact congrArg _ (State.noteMove_of_eq rfl)
  case refine_3 =>
    intro hrun hdep
    refine (exec_stopFn_eq hfree hmove fn (State.stopFn_of_hasDependents hid hrun hdep)).trans ?_
    exact congrArg _ (State.noteMove_of_eq rfl)
  case refine_4 =>
    intro hrun hrange
    refine (exec_startFn_eq hfree hmove 0x20 (State.startFn_sieve hrun hrange)).trans ?_
    rw [State.forceLocked_eq]
    exact congrArg _ (State.noteMove_of_ne (by simp [State.replied, State.joinRun]))
  case refine_5 =>
    intro hrun hdep
    have hmem : fnSieve ∈ s.run := by simpa [State.running] using hrun
    have hmoved : s.run.erase fnSieve ≠ s.run := fun h => by
      have hlen := List.length_erase_add_one hmem
      rw [h] at hlen
      omega
    refine (exec_stopFn_eq hfree hmove 0x20 (State.stopFn_sieve hrun hdep)).trans ?_
    exact congrArg _ (State.noteMove_of_ne hmoved)
  case refine_6 =>
    intro s n hfree hmove hrun hstop s1 u hbad hdeps
    obtain ⟨need, hstart⟩ := State.startFn_stall_of_not_depsRun rfl hrun hstop hbad hdeps
    obtain ⟨-, -, -, hid⟩ := fnStall_id n
    rw [← hid] at hstart
    have hexec := (exec_startFn_eq hfree hmove _ hstart).trans (congrArg _ (State.noteMove_of_eq rfl))
    refine ⟨_, hexec, rfl, admission_dep_bytes, rfl, rfl, rfl, ?_, ?_⟩
    · obtain ⟨-, -, -, -, hdep⟩ := admitWord_dep need
      simpa [State.replied] using hdep
    · simp [State.replied]

end

/-! ## The edges on the tally's ports (02_tally R33, R34, R41, R43, R49) -/

section

open Sys2Proof Sys2Proof.Machine

namespace Sys2Proof.Machine

/-- A change of one element depends on what it gives for that element alone. -/
theorem updAt_congr {α : Type} {n : Nat} {v : Vector α n} {i : Fin n} {f g : α → α} (h : f v[i] = g v[i]) :
    updAt v i f = updAt v i g := by
  unfold updAt
  rw [h]

/-- Two changes of one element are one. -/
theorem updAt_updAt {α : Type} {n : Nat} (v : Vector α n) (i : Fin n) (f g : α → α) :
    updAt (updAt v i f) i g = updAt v i fun x => g (f x) := by
  simp [updAt, Vector.set_set]

/-- A change of a port depends on what it makes of that port alone. -/
theorem State.modPort_congr {s : State} {p : Fin 4} {f g : TallyPort → TallyPort}
    (h : f s.tally.ports[p] = g s.tally.ports[p]) : s.modPort p f = s.modPort p g := by
  unfold State.modPort
  rw [updAt_congr h]

/-- Two changes of one port are one. -/
theorem State.modPort_modPort (s : State) (p : Fin 4) (f g : TallyPort → TallyPort) :
    (s.modPort p f).modPort p g = s.modPort p fun q => g (f q) := by
  unfold State.modPort
  rw [updAt_updAt]

/-- The counts of a turn are those of the port's setting (R33). -/
theorem State.countsPerTurn_modPort (s : State) (p q : Fin 4) (f : TallyPort → TallyPort) :
    (s.modPort p f).countsPerTurn q = s.countsPerTurn q := rfl

/-- Without a timeout in the present tick an edge takes nothing back. -/
theorem State.edgeWins_of_none {s : State} (h : s.ev.timeout = none) (p : Fin 4) : s.edgeWins p = s := by
  simp [State.edgeWins, h]

/-- Port `t` with count `k` registered at `stamp`, where `n` counts make a turn (R34, R41). -/
def TallyPort.counted (t : TallyPort) (n : Nat) (k : Int) (stamp : Nat) : TallyPort :=
  { t with
    count := k, reverse := decide (k < t.count), lastCount := some stamp, lastMeas := some stamp, prevMeas := t.lastMeas
    lastPos := t.posOf n k }

/-- Port `p` becomes `t`, and its position is registered as a measurement (R43). -/
def State.withMeas (s : State) (p : Fin 4) (t : TallyPort) (stamp : Rat) : State :=
  { s with tally := { s.tally with
    ports := updAt s.tally.ports p fun _ => t, measQ := s.tally.measQ ++ [⟨p, t.lastPos, stamp⟩] } }

/-- What the port was before does not matter. -/
theorem State.withMeas_modPort (s : State) (p : Fin 4) (f : TallyPort → TallyPort) (t : TallyPort) (stamp : Rat) :
    (s.modPort p f).withMeas p t stamp = s.withMeas p t stamp := by
  simp only [State.withMeas, State.modPort, updAt_updAt]

section Edges

variable {s : State} {p : Fin 4} {stamp : Nat}

/-- Outside WATCH a stamp stands to the mite (R21). -/
theorem State.edgeStamp_of_not_watch (hw : s.power.regime ≠ .watch) : s.edgeStamp stamp = stamp :=
  if_neg fun h => hw h.1

/-- An edge of A or B on a tracked port that counts them, without a filter, is registered at once (R34). -/
theorem exec_countEdge_unfiltered (hw : s.power.regime ≠ .watch) (hf : s.filterMites p = 0) (ht : s.portTracked p = true)
    (hm : modeHasCounts (s.portMode p) = true) (a b : Bool) :
    exec (.tallyCountEdge p a b stamp) s = .next (s.registerAB p a b stamp) := by
  refine congrArg Host.Outcome.next ?_
  simp [countEdge, State.edgeStamp_of_not_watch hw, hf, ht, hm]

/-- An edge of Z on a tracked port that has it, without a filter, is registered at once (R34). -/
theorem exec_indexEdge_unfiltered (hw : s.power.regime ≠ .watch) (hf : s.filterMites p = 0) (ht : s.portTracked p = true)
    (hm : modeHasIndex (s.portMode p) = true) (level : Bool) :
    exec (.tallyIndex p level stamp) s = .next (s.registerZ p level stamp) := by
  refine congrArg Host.Outcome.next ?_
  simp [indexEdge, State.edgeStamp_of_not_watch hw, hf, ht, hm]

/-- A change of A alone is one step of the quadrature phase, in one of the two directions. -/
theorem quadReverse_flip_a (a b : Bool) : ∃ rev, quadReverse (quadPhase a b) (quadPhase (!a) b) = some rev := by
  cases a <;> cases b <;> exact ⟨_, rfl⟩

/-- Both of A and B changed: the levels are taken and toll 1 counts (R34). -/
theorem State.registerAB_both (ht : s.portTracked p = true) (hm : s.portMode p = 1) :
    s.registerAB p (!(s.tally.ports[p]).a) (!(s.tally.ports[p]).b) stamp =
      (s.modPort p fun q => { q with a := !(s.tally.ports[p]).a, b := !(s.tally.ports[p]).b }).toll 1 := by
  simp [State.registerAB, ht, hm]

/-- A alone changed: the level is taken, and there is one count (R34). -/
theorem State.registerAB_one (ht : s.portTracked p = true) (hm : s.portMode p = 1) : ∃ rev,
    s.registerAB p (!(s.tally.ports[p]).a) (s.tally.ports[p]).b stamp =
      (s.modPort p fun q => { q with a := !(s.tally.ports[p]).a }).registerCount p rev stamp := by
  obtain ⟨rev, hrev⟩ := quadReverse_flip_a (s.tally.ports[p]).a (s.tally.ports[p]).b
  have hlevels : (s.modPort p fun q => { q with a := !(s.tally.ports[p]).a, b := (s.tally.ports[p]).b }) =
      s.modPort p fun q => { q with a := !(s.tally.ports[p]).a } := State.modPort_congr rfl
  refine ⟨rev != s.dirInverted p, ?_⟩
  simp only [State.registerAB, ht, hm, hlevels, hrev]
  simp

/-- A count within 20 ns of the last is lost (R34). -/
theorem State.registerCount_overrun {c : Nat} (hc : (s.tally.ports[p]).lastCount = some c) (hs : stamp < c + 800)
    (rev : Bool) : s.registerCount p rev stamp = s.toll 2 := by
  refine if_pos ?_
  rw [hc]
  exact decide_eq_true hs

/-- With no timeout to take back, the measurement of a port is that of its count (R43). -/
theorem State.pushMeas_modPort (hev : s.ev.timeout = none) (t : TallyPort) (st : Rat) :
    (s.modPort p fun _ => t).pushMeas p st =
      s.withMeas p { t with lastPos := t.posOf (s.countsPerTurn p) t.count } st := by
  have hport : (s.modPort p fun _ => t).tally.ports[p] = t := updAt_same ..
  rw [State.pushMeas, hport, State.pushAt, State.edgeWins_of_none (by exact hev), State.modPort_modPort]
  rfl

/-- A count that is not lost is the next or the one before, and is registered as a measurement (R34, R41, R43). -/
theorem State.registerCount_counted (hev : s.ev.timeout = none)
    (hs : ∀ c, (s.tally.ports[p]).lastCount = some c → c + 800 ≤ stamp) (rev : Bool) :
    ∃ k, (k = (s.tally.ports[p]).count + 1 ∨ k = (s.tally.ports[p]).count - 1) ∧
      s.registerCount p rev stamp = s.withMeas p ((s.tally.ports[p]).counted (s.countsPerTurn p) k stamp) stamp := by
  let k := if rev then (s.tally.ports[p]).count - 1 else (s.tally.ports[p]).count + 1
  have hrev : rev = decide (k < (s.tally.ports[p]).count) := by cases rev <;> simp [k]
  let t : TallyPort := { (s.tally.ports[p]).counted (s.countsPerTurn p) k stamp with lastPos := (s.tally.ports[p]).lastPos }
  refine ⟨k, by cases rev <;> simp [k], (if_neg ?kept).trans (.trans ?_ (State.pushMeas_modPort hev t stamp))⟩
  case kept =>
    cases hc : (s.tally.ports[p]).lastCount with
    | none => exact Bool.false_ne_true
    | some c => exact Bool.eq_false_iff.mp (decide_eq_false (Nat.not_lt.mpr (hs c hc)))
  exact congrArg (fun u : State => u.pushMeas p stamp) (State.modPort_congr (congrArg (fun r => { t with reverse := r }) hrev))

/-- A rising Z of the active port, where its mode has one and it is enabled, is the index (R33, R49). -/
theorem State.registerZ_index (ht : s.portTracked p = true) (ha : p = s.tally.active)
    (hm : modeHasIndex (s.portMode p) = true) (hz : s.flag F.TLY_TP_MODE_Z_EN p = true) (hlow : (s.tally.ports[p]).z = false) :
    s.registerZ p true stamp = { s.modPort p fun q => { q with z := true } with tally :=
      { (s.modPort p fun q => { q with z := true }).tally with index := some stamp } } := by
  refine if_pos ?_
  rw [hlow, ht, hm, hz, ha]
  simp

end Edges

end Sys2Proof.Machine

/-- Settles O13: an edge is registered at once, and what it gives is read off `registerAB`, `registerCount` and `registerZ`. -/
theorem edgesAreRegistered : Obligations.EdgesAreRegistered := by
  unfold Obligations.EdgesAreRegistered
  intro s p stamp hw hf ht P
  refine ⟨fun hm hev => ?counts, fun ha hm hz hlow => ?index⟩
  case counts =>
    have hedge := exec_countEdge_unfiltered (stamp := stamp) hw hf ht (by rw [hm]; rfl)
    obtain ⟨rev, hone⟩ := State.registerAB_one (stamp := stamp) ht hm
    have hport : (s.modPort p fun q => { q with a := !P.a }).tally.ports[p] = { P with a := !P.a } := updAt_same ..
    refine ⟨?both, fun c hc hs => ?overrun, fun hs => ?counted⟩
    case both => rw [hedge, State.registerAB_both ht hm]
    case overrun => rw [hedge, hone, State.registerCount_overrun (by rw [hport]; exact hc) hs]
    case counted =>
      have hcount := State.registerCount_counted (s := s.modPort p fun q => { q with a := !P.a }) hev
        (by rw [hport]; exact hs) rev
      rw [hport, State.countsPerTurn_modPort] at hcount
      obtain ⟨k, hk, hcount⟩ := hcount
      rw [State.withMeas_modPort] at hcount
      exact ⟨_, k, (hedge ..).trans (congrArg _ (hone.trans hcount)), hk, rfl, rfl, rfl, updAt_same ..,
        fun q hq => updAt_other _ hq.symm _⟩
  case index =>
    exact ⟨_, (exec_indexEdge_unfiltered hw hf ht hm true).trans (congrArg _ (State.registerZ_index ht ha hm hz hlow)),
      rfl, rfl, rfl, updAt_same .., fun q hq => updAt_other _ hq.symm _⟩

end

/-! ## The measurements of the active port (02_tally R43, R45, R47, R48) -/

section

open Sys2Proof Sys2Proof.Machine

namespace Sys2Proof.Machine

/-- The measurements that wait are `q`. -/
def State.withQueue (s : State) (q : List Meas) : State := { s with tally := { s.tally with measQ := q } }

/-- The position of a measurement: that of the count it is assigned to, or its own in CRIER mode (R47). -/
def State.measuredPos (s : State) (m : Meas) : Rat :=
  if s.portMode m.port = 6 then m.pos else (s.tally.ports[m.port]).posOf (s.countsPerTurn m.port) (s.assignCount m)

/-- `ports` are the ports with measurement `m` placed on its count: no other value of a port has changed (R47). -/
def State.Placed (s : State) (m : Meas) (ports : Vector TallyPort 4) : Prop :=
  { ports[m.port] with count := (s.tally.ports[m.port]).count } = s.tally.ports[m.port] ∧
  (s.portMode m.port ≠ 6 → (ports[m.port]).count = s.assignCount m) ∧
  (¬s.portMode m.port ≠ 6 → ports[m.port] = s.tally.ports[m.port]) ∧
  ∀ p : Fin 4, p ≠ m.port → ports[p] = s.tally.ports[p]

/-- A rejoin counts toll 5 and notes its jump, which is made good in one step or becomes the residue of a slew (R48). -/
theorem State.rejoin_eq (s : State) (j : Rat) : ∃ residue jump stepped,
    s.rejoin j = { s.toll 5 with tally := { s.tally with
      residue := residue, jump := jump, stepped := stepped, lastJump := grainWord j, rejoined := some j } } ∧
    (s.flag F.TLY_REJOIN_POLICY = false → residue = 0 ∧ jump = s.tally.jump + j ∧ stepped = true) ∧
    (s.flag F.TLY_REJOIN_POLICY = true → residue = j ∧ jump = s.tally.jump ∧ stepped = s.tally.stepped) := by
  cases hpolicy : s.flag F.TLY_REJOIN_POLICY with
  | true =>
    refine ⟨j, s.tally.jump, s.tally.stepped, ?_, nofun, fun _ => ⟨rfl, rfl, rfl⟩⟩
    rw [State.rejoin, if_pos hpolicy]
    rfl
  | false =>
    refine ⟨0, s.tally.jump + j, true, ?_, fun _ => ⟨rfl, rfl, rfl⟩, nofun⟩
    rw [State.rejoin, if_neg (by simp [hpolicy])]
    rfl

section Measurements

variable {s : State} {m : Meas}

/-- A measurement is placed on its count; in CRIER mode it is taken as it is (R47). -/
theorem State.assign_eq (s : State) (m : Meas) : ∃ ports, s.Placed m ports ∧
    s.assign m = ({ s with tally := { s.tally with ports := ports } }, s.measuredPos m) := by
  by_cases hmode : s.portMode m.port = 6
  · refine ⟨s.tally.ports, ⟨rfl, fun h => absurd hmode h, fun _ => rfl, fun _ _ => rfl⟩, ?_⟩
    simp [State.assign, State.measuredPos, hmode]
  · refine ⟨updAt s.tally.ports m.port fun t => { t with count := s.assignCount m }, ⟨?_, fun _ => ?_, absurd hmode,
      fun p hp => updAt_other _ hp.symm _⟩, ?_⟩
    · simp
    · simp
    · simp [State.assign, State.measuredPos, hmode, State.modPort]

/-- The offset of the fallback port is all that its measurement changes (R50). -/
theorem State.measureOffset_eq (s : State) (m : Meas) :
    s.measureOffset m = { s with tally := { s.tally with fbOffset := (s.measureOffset m).tally.fbOffset } } := by
  unfold State.measureOffset
  split
  · split
    · split <;> rfl
    · rfl
  · rfl

/-- The offset is measured in TRACKING alone (R50). -/
theorem State.measureOffset_of_not_tracking (h : s.tally.mode ≠ .tracking) : s.measureOffset m = s := by
  unfold State.measureOffset
  split
  · rw [if_neg (by simp [h])]
  · rfl

/-- The measurements that wait say nothing of the offset. -/
theorem State.measureOffset_withQueue (q : List Meas) :
    (s.withQueue q).measureOffset m = (s.measureOffset m).withQueue q := by
  unfold State.measureOffset
  rw [show (s.withQueue q).fallbackPort = s.fallbackPort from rfl]
  cases s.fallbackPort with
  | none => rfl
  | some p =>
    refine ite_eq_map (State.withQueue · q) ?_ rfl
    rw [show (s.withQueue q).fallbackAt p m.stamp = s.fallbackAt p m.stamp from rfl]
    cases s.fallbackAt p m.stamp <;> rfl

/-- In STILL and in TRACKING a measurement is the loop's (R43, R45). -/
theorem State.activeMeas_follows (h : s.tally.mode = .still ∨ s.tally.mode = .tracking) :
    s.activeMeas m = { s with tally := { s.tally with mode := .tracking, loop := some m, measured := true } } := by
  rcases h with h | h <;> simp only [State.activeMeas, h, State.forLoop]

/-- In COASTING a measurement rejoins (R45, R47). -/
theorem State.activeMeas_rejoins (h : s.tally.mode = .coasting) : s.activeMeas m = s.rejoinAt m := by
  simp only [State.activeMeas, h]

/-- In LOST a measurement, placed on its count, begins to reacquire (R45, R47). -/
theorem State.activeMeas_begins (h : s.tally.mode = .lost) : ∃ ports, s.Placed m ports ∧
    s.activeMeas m = { s with tally := { s.tally with
      ports := ports, mode := .reacquiring, reacq := 1, measured := true, lastStamp := m.stamp, lastPos := s.measuredPos m
      lastTick := s.now, gain := s.measGain, lastDt := s.measDt, expect := .none } } := by
  obtain ⟨ports, hplaced, hassign⟩ := s.assign_eq m
  refine ⟨ports, hplaced, ?_⟩
  simp only [State.activeMeas, h, hassign]
  rfl

/-- In REACQUIRING a measurement that is not yet the last one needed is counted (R45). -/
theorem State.activeMeas_counts (h : s.tally.mode = .reacquiring) (hr : s.tally.reacq + 1 < s.val F.TLY_REJOIN_REACQ) :
    s.activeMeas m = { s with tally := { s.tally with
      reacq := s.tally.reacq + 1, measured := true, lastStamp := m.stamp, lastPos := m.pos, lastTick := s.now
      gain := s.measGain, lastDt := s.measDt, expect := .none } } := by
  simp only [State.activeMeas, h, if_pos hr, State.afterMeas]

/-- A rejoin (R45, R47, R48, R50): the measurement is placed, and the tally tracks with the jump made good or set as a residue. -/
theorem State.rejoinAt_eq (s : State) (m : Meas) :
    let j := s.measuredPos m - s.extrapolated m.stamp
    ∃ ports residue jump stepped leaving expect off, s.Placed m ports ∧
      (s.flag F.TLY_REJOIN_POLICY = false → residue = 0 ∧ jump = s.tally.jump + j ∧ stepped = true) ∧
      (s.flag F.TLY_REJOIN_POLICY = true → residue = j ∧ jump = s.tally.jump ∧ stepped = s.tally.stepped) ∧
      s.rejoinAt m = { s.toll 5 with tally := { s.tally with
        ports := ports, residue := residue, jump := jump, stepped := stepped, lastJump := grainWord j, rejoined := some j
        mode := .tracking, loop := none, leaving := leaving, measured := true, lastStamp := m.stamp
        lastPos := s.measuredPos m, lastTick := s.now, gain := s.measGain, lastDt := s.measDt, expect := expect
        fbOffset := off } } := by
  intro j
  obtain ⟨ports, hplaced, hassign⟩ := s.assign_eq m
  obtain ⟨residue, jump, stepped, hrejoin, hstep, hslew⟩ :=
    State.rejoin_eq { s with tally := { s.tally with ports := ports } } (s.measuredPos m - s.extrapolated m.stamp)
  rw [State.rejoinAt, hassign]
  dsimp only
  rw [hrejoin, State.measureOffset_eq]
  exact ⟨ports, residue, jump, stepped, _, _, _, hplaced, hstep, hslew, rfl⟩

end Measurements

/-- A measurement of the active port is judged by the mode, whatever waits behind it (R45). -/
theorem exec_tallyMeasurement_active {s : State} {m : Meas} {q : List Meas} (hq : s.tally.measQ = m :: q)
    (hp : m.port = s.tally.active) : exec .tallyMeasurement s = .next (((s.measureOffset m).withQueue q).activeMeas m) := by
  refine congrArg Host.Outcome.next ?_
  unfold takeMeasurement
  rw [hq]
  exact (if_pos hp).trans (congrArg (State.activeMeas · m) (State.measureOffset_withQueue q))

end Sys2Proof.Machine

/-- Settles O14: a measurement of the active port, mode by mode. -/
theorem measurementsMoveTheTally : Obligations.MeasurementsMoveTheTally := by
  unfold Obligations.MeasurementsMoveTheTally
  intro s m q hq hp P counted pos placed
  have hexec := exec_tallyMeasurement_active hq hp
  have hkeeps (h : s.tally.mode ≠ .tracking) : (s.measureOffset m).withQueue q = s.withQueue q := by
    rw [State.measureOffset_of_not_tracking h]
  refine ⟨fun h => ?follows, fun h => ?rejoins, fun h => ?begins, fun h hr => ?counts⟩
  case follows =>
    rw [hexec, State.activeMeas_follows, State.measureOffset_eq]
    · rfl
    · rw [State.measureOffset_eq]
      exact h
  case rejoins =>
    rw [hkeeps (by simp [h]), State.activeMeas_rejoins (by exact h)] at hexec
    intro j
    obtain ⟨ports, residue, jump, stepped, leaving, expect, off, hplaced, hstep, hslew, hrejoin⟩ :=
      (s.withQueue q).rejoinAt_eq m
    rw [hrejoin] at hexec
    exact ⟨_, hexec, rfl, rfl, rfl, rfl, rfl, hplaced, rfl, rfl, rfl, rfl, rfl, rfl, hstep, hslew⟩
  case begins =>
    rw [hkeeps (by simp [h])] at hexec
    obtain ⟨ports, hplaced, hbegins⟩ := State.activeMeas_begins (s := s.withQueue q) (m := m) h
    rw [hbegins] at hexec
    exact ⟨_, hexec, rfl, hplaced, rfl⟩
  case counts =>
    rw [hexec, hkeeps (by simp [h]), State.activeMeas_counts (by exact h) (by exact hr)]
    rfl

end

/-! ## The timeouts of the tally (02_tally R45, R50, R59) -/

section

open Sys2Proof Sys2Proof.Machine

namespace Sys2Proof.Machine

/-- An edge of the active port takes a timeout of its tick back: the tally's mode, and the tolls (R59). -/
theorem State.edgeWins_of_some {s : State} {before : Tally} {tolls : List Nat} (h : s.ev.timeout = some (before, tolls)) :
    s.edgeWins before.active = { s.untollAll tolls with
      tally := s.tally.takeBack before, ev := { s.ev with timeout := none } } := by
  simp [State.edgeWins, h]

section Timeouts

variable {s : State}

/-- An edge of the active port in the present tick prevents every timeout (R59). -/
theorem lossExpiry_of_edge (h : s.edgeInTick = true) : lossExpiry s = s := by simp [lossExpiry, h]

theorem stillExpiry_of_edge (h : s.edgeInTick = true) : stillExpiry s = s := by simp [stillExpiry, h]

theorem coastExpiry_of_edge (h : s.edgeInTick = true) : coastExpiry s = s := by simp [coastExpiry, h]

/-- Without a fallback port that tracks, a loss interval without an edge begins a coast (R45). -/
theorem lossExpiry_coasts (hm : s.tally.mode = .tracking) (hc : s.tallyClock = false) (he : s.edgeInTick = false)
    (hd : s.lossDue = true) (hfb : ∀ p, s.fallbackPort = some p → s.tally.onFb = true ∨ s.portTracking p = false) :
    lossExpiry s = s.timedOut [3] s.beginCoast := by
  cases hp : s.fallbackPort with
  | none => simp [lossExpiry, hm, hc, he, hd, hp]
  | some p =>
    have hstays : (!s.tally.onFb && s.portTracking p) = false := by
      rcases hfb p hp with h | h <;> simp [h]
    simp [lossExpiry, hm, hc, he, hd, hp, hstays]

/-- A fallback port that tracks takes over: the tally goes on tracking on it (R50). -/
theorem lossExpiry_switches {p : Fin 4} (hm : s.tally.mode = .tracking) (hc : s.tallyClock = false) (he : s.edgeInTick = false)
    (hd : s.lossDue = true) (hp : s.fallbackPort = some p) (hon : s.tally.onFb = false) (ht : s.portTracking p = true) :
    ∃ t : Tally, lossExpiry s = s.timedOut [7, 5] { (s.toll 7).toll 5 with tally := t } ∧
      t.mode = .tracking ∧ t.active = p ∧ t.onFb = true := by
  unfold lossExpiry
  rw [if_neg (by simp [hm, hc, he, hd]), hp]
  dsimp only
  rw [if_pos (by simp [hon, ht])]
  obtain ⟨residue, jump, stepped, hrejoin, -, -⟩ := State.rejoin_eq _ _
  rw [hrejoin]
  exact ⟨_, rfl, hm, rfl, rfl⟩

/-- The longest coast ends in LOST (R45). -/
theorem coastExpiry_loses (hm : s.tally.mode = .coasting) (he : s.edgeInTick = false)
    (hd : s.reached (s.tally.coastAt + tallyTimeMites (s.val F.TLY_COAST_MAX_CMAX)) = true) :
    coastExpiry s = s.timedOut [4] ({ s with tally := { s.tally with
      mode := .lost, leaving := true, indexed := false, residue := 0 } }.toll 4) := by
  simp [coastExpiry, hm, he, hd]

/-- A motion that has stopped is STILL after TLY_STILL_TIME (R45). -/
theorem stillExpiry_stills (hm : s.tally.mode = .tracking) (he : s.edgeInTick = false) (hd : s.stillDue = true)
    (hc : s.tallyClock = false) (hu : s.tally.expect.unbounded = true) :
    stillExpiry s = s.timedOut [] { s with tally := { s.tally with mode := .still, spd := 0, acc := 0 } } := by
  simp [stillExpiry, hm, he, hd, hc, hu]

/-- A reacquisition that stops before it has its edges is LOST again (R45). -/
theorem stillExpiry_loses (hm : s.tally.mode = .reacquiring) (he : s.edgeInTick = false) (hd : s.stillDue = true) :
    stillExpiry s = s.timedOut [4] ({ s with tally := { s.tally with
      mode := .lost, reacq := 0, indexed := false, residue := 0 } }.toll 4) := by
  simp [stillExpiry, hm, he, hd]

end Timeouts

end Sys2Proof.Machine

/-- Settles O15: each timeout by its situation, and the edge that beats it. -/
theorem timeoutsMoveTheTally : Obligations.TimeoutsMoveTheTally := by
  unfold Obligations.TimeoutsMoveTheTally
  intro s keeps after
  refine ⟨fun hm hc he hd => ⟨fun hfb => ?coast, fun p hp hon ht => ?switch⟩, fun hm he hd => ?lost,
    fun hm he hd hc hu => ?still, fun hm he hd => ?lostAgain, fun he => ⟨?_, ?_, ?_⟩, fun before tolls h => ?takenBack⟩
  case coast => exact congrArg Host.Outcome.next (lossExpiry_coasts hm hc he hd hfb)
  case switch =>
    obtain ⟨t, hswitch, hmode, hactive, honFb⟩ := lossExpiry_switches hm hc he hd hp hon ht
    exact ⟨_, congrArg Host.Outcome.next hswitch, rfl, hmode, hactive, honFb⟩
  case lost => exact congrArg Host.Outcome.next (coastExpiry_loses hm he hd)
  case still => exact congrArg Host.Outcome.next (stillExpiry_stills hm he hd hc hu)
  case lostAgain => exact congrArg Host.Outcome.next (stillExpiry_loses hm he hd)
  case refine_1 => exact congrArg Host.Outcome.next (lossExpiry_of_edge he)
  case refine_2 => exact congrArg Host.Outcome.next (stillExpiry_of_edge he)
  case refine_3 => exact congrArg Host.Outcome.next (coastExpiry_of_edge he)
  case takenBack => rw [State.edgeWins_of_some h]; exact ⟨rfl, rfl, rfl⟩

end

/-! ## The launch slots and the TRIG_OUT pins (02_tally R52 to R56) -/

section

open Sys2Proof Sys2Proof.Machine

namespace Sys2Proof.Machine

section Arming

variable {s : State} {k : Fin 64} {ctrl : Word}

/-- The reserved code of DIR refuses an arming and a disarm alike (R55, R429). -/
theorem launchArmWrite_reserved (h : F.TLY_LS_CTRL_DIR.get ctrl = 3) : launchArmWrite k ctrl s = s.refuseWrite .range := by
  simp [launchArmWrite, launchDirReserved, h]

theorem launchDisarmWrite_reserved (h : F.TLY_LS_CTRL_DIR.get ctrl = 3) :
    launchDisarmWrite k ctrl s = s.refuseWrite .range := by
  simp [launchDisarmWrite, launchDirReserved, h]

/-- A chronicle target older than TLY_LATE_MITES is refused and counted (R55). -/
theorem launchArmWrite_old (h : F.TLY_LS_CTRL_DIR.get ctrl ≠ 3) (hold : ((F.TLY_LS_CTRL_BASE.get ctrl == 1) &&
      decide ((s.val F.TLY_LATE_MITES_MSPAN : Int) < s.targetAge (s.slotTarget k))) = true) :
    launchArmWrite k ctrl s = (s.toll 8).refuseWrite .range := by
  simp only [launchArmWrite, launchDirReserved, State.armSlot, beq_eq_false_iff_ne.mpr h, if_pos hold]
  rfl

/-- Any other arming is registered with the target and the direction of the write (R55). -/
theorem launchArmWrite_arms (h : F.TLY_LS_CTRL_DIR.get ctrl ≠ 3) (hnew : ((F.TLY_LS_CTRL_BASE.get ctrl == 1) &&
      decide ((s.val F.TLY_LATE_MITES_MSPAN : Int) < s.targetAge (s.slotTarget k))) = false) :
    launchArmWrite k ctrl s = ({ s with slots := updAt s.slots k fun sl => { sl with
      arming := some ⟨s.slotTarget k, F.TLY_LS_CTRL_DIR.get ctrl, F.TLY_LS_CTRL_BASE.get ctrl == 1⟩
      disarm := false } }.writeLaunchCtrl k ctrl).answer .ok := by
  simp only [launchArmWrite, launchDirReserved, State.armSlot, beq_eq_false_iff_ne.mpr h, if_neg (Bool.eq_false_iff.mp hnew)]
  rfl

/-- A disarm is registered (R55). -/
theorem launchDisarmWrite_disarms (h : F.TLY_LS_CTRL_DIR.get ctrl ≠ 3) :
    launchDisarmWrite k ctrl s = ({ s with slots := updAt s.slots k fun sl => { sl with
      arming := none, disarm := true } }.writeLaunchCtrl k ctrl).answer .ok := by
  simp only [launchDisarmWrite, launchDirReserved, beq_eq_false_iff_ne.mpr h]
  rfl

/-- At mite 0 of the next tick the arming is in force, with FIRED and LATE clear (R39, R55). -/
theorem State.slotOpen_of_arming (s : State) {sl : Slot} {a : Arming} (h : sl.arming = some a) :
    ∃ test prev, (s.slotOpen sl).1 = { sl with
      armed := true, fired := false, late := false, latched := a, arming := none, test := test, prev := prev } := by
  unfold State.slotOpen
  rw [h]
  dsimp only
  rw [if_neg (by simp)]
  split
  · exact ⟨_, _, rfl⟩
  · split <;> exact ⟨_, _, rfl⟩

end Arming

section Firing

variable {s : State} {k : Fin 64} {instant : Nat}

/-- The mite of a tick at which a chronicle target falls is its crossing (R52). -/
theorem chronCrossing_eq {now len : Nat} {target : Quad} (hlen : len ≤ 2 ^ 64) (h0 : now ≤ instant) (h1 : instant < now + len)
    (ht : target.toNat = instant % 2 ^ 64) : chronCrossing now len target = some ⟨instant, none⟩ := by
  have hoff : (target.toNat + 2 ^ 64 - now % 2 ^ 64) % 2 ^ 64 = instant - now := by omega
  have hin : instant - now < len := by omega
  simp only [chronCrossing, hoff, if_pos hin, Nat.add_sub_cancel' h0]

/-- A tick is far shorter than the chronicle's range. -/
theorem State.tickLen_le (s : State) : s.tickLen ≤ 2 ^ 64 := by
  rw [State.tickLen_eq]
  split <;> decide

/-- A slot that is not armed fires at nothing (R54). -/
theorem launchFire_of_not_armed (h : (s.slots[k]).armed = false) : launchFire k s = s := by
  have hnone : s.slotCrossing s.tallyClose.tally k = none := if_pos (by rw [h]; rfl)
  simp only [launchFire, State.fireIfCrossed, hnone]

/-- An armed slot whose chronicle target falls in the present tick (R52). -/
theorem State.slotCrossing_chron (t : Tally) (ha : (s.slots[k]).armed = true) (ht : (s.slots[k]).test = false)
    (hc : (s.slots[k]).latched.chron = true) (h0 : s.now ≤ instant) (h1 : instant < s.now + s.tickLen)
    (hi : (s.slots[k]).latched.target.toNat = instant % 2 ^ 64) : s.slotCrossing t k = some ⟨instant, none⟩ := by
  simp only [State.slotCrossing, State.slotHit, ha, ht, hc, chronCrossing_eq s.tickLen_le h0 h1 hi]
  rfl

/-- An armed slot whose target the tally crosses in the present tick (R52). -/
theorem State.slotCrossing_tally {t : Tally} (ha : (s.slots[k]).armed = true) (ht : (s.slots[k]).test = false)
    (hc : (s.slots[k]).latched.chron = false) (hf : t.fires = true) :
    s.slotCrossing t k = tallyCrossing t s.tickLen (s.slots[k]).latched (s.slots[k]).prev := by
  simp only [State.slotCrossing, State.slotHit, ha, ht, hc, hf]
  rfl

/-- A slot that fires in time is done with its arming; its actions are due in the next tick, and the injection that names it is
asked for (R54, R56, R96). -/
theorem State.fireSlot_in_time (ht : (s.slots[k]).test = false) (instant : Nat) :
    s.fireSlot k ⟨instant, none⟩ = { s with
      slots := s.slots.set k.val { s.slots[k] with armed := false, fired := true, late := false } k.isLt
      acts := s.acts ++ [s.slotAction k ⟨instant, none⟩]
      aux := if s.val F.AUX_INJ16_SLOT = k.val then { s.aux with asked := s.aux.asked ++ [16] } else s.aux } := by
  have hslot : ({ s.slots[k] with armed := false, test := false, fired := true, late := false } : Slot) =
      { s.slots[k] with armed := false, fired := true, late := false } :=
    congrArg (fun b => ({ s.slots[k] with armed := false, test := b, fired := true, late := false } : Slot)) ht.symm
  rw [← hslot]
  unfold State.fireSlot
  split <;> rfl

/-- A slot whose target is crossed in the present tick fires (R54). -/
theorem launchFire_of_crossing {c : Crossed} (h : s.slotCrossing s.broadcast k = some c) :
    launchFire k s = s.fireSlot k c := by
  have hclose : s.slotCrossing s.tallyClose.tally k = some c := h
  simp only [launchFire, State.fireIfCrossed, hclose]

/-- A change of a TRIG_OUT pin depends on what it makes of that pin alone. -/
theorem State.modTout_congr {p : Fin 4} {f g : TrigOut → TrigOut} (h : f s.trigOut[p] = g s.trigOut[p]) :
    s.modTout p f = s.modTout p g := by
  unfold State.modTout
  rw [updAt_congr h]

end Firing

end Sys2Proof.Machine

/-- Settles O17: the writes of a slot's control word, then the slot's crossing in the tick and the edges of a pulse. -/
theorem slotsAreArmedAndFire : Obligations.SlotsAreArmedAndFire := by
  unfold Obligations.SlotsAreArmedAndFire
  refine ⟨?writes, fun s => ⟨?fires, fun k ha => ?unarmed, fun pin r rs hr hdue => ?rise, fun pin f hf hdue => ?fall⟩⟩
  case writes =>
    intro s k ctrl sl d chron old put
    refine ⟨fun hd => ⟨?_, ?_⟩, fun hd hold => ?old, fun hd hnew => ?new, fun a ha => ?inForce, fun hd => ?disarmed⟩
    · exact congrArg Host.Outcome.next (launchArmWrite_reserved hd)
    · exact congrArg Host.Outcome.next (launchDisarmWrite_reserved hd)
    case old => exact congrArg Host.Outcome.next (launchArmWrite_old hd hold)
    case new => exact congrArg Host.Outcome.next (launchArmWrite_arms hd hnew)
    case inForce =>
      intro o
      obtain ⟨test, prev, ho⟩ := s.slotOpen_of_arming ha
      have ho : o = _ := ho
      rw [ho]
      exact ⟨rfl, rfl, rfl, rfl, rfl⟩
    case disarmed => exact congrArg Host.Outcome.next (launchDisarmWrite_disarms hd)
  case fires =>
    intro k instant ha ht hcross
    have hat : s.slotCrossing s.broadcast k = some ⟨instant, none⟩ := by
      rcases hcross with ⟨hc, h0, h1, hi⟩ | ⟨hc, hf, hi⟩
      · exact State.slotCrossing_chron _ ha ht hc h0 h1 hi
      · exact (State.slotCrossing_tally ha ht hc hf).trans hi
    exact ⟨_, s.slotAction k ⟨instant, none⟩,
      congrArg Host.Outcome.next ((launchFire_of_crossing hat).trans (State.fireSlot_in_time ht instant)),
      rfl, rfl, rfl, rfl, rfl, rfl, rfl⟩
  case unarmed => exact congrArg Host.Outcome.next (launchFire_of_not_armed ha)
  case rise =>
    refine congrArg Host.Outcome.next (State.modTout_congr ?_)
    simp only [TrigOut.rise, hr, if_pos hdue]
    rfl
  case fall =>
    refine congrArg Host.Outcome.next (State.modTout_congr ?_)
    simp only [TrigOut.drop, hf, if_pos hdue]

end

/-! ## The Mints and their references (03_mints R60, R61, R65, R66, R68, R430) -/

section

open Sys2Proof Sys2Proof.Machine

namespace Sys2Proof.Machine

section Elements

variable {α : Type} {n : Nat}

/-- A change that an element does not see is none. -/
theorem updAt_eq_self {v : Vector α n} {i : Fin n} {f : α → α} (h : f v[i] = v[i]) : updAt v i f = v := by
  rw [updAt, h]
  exact Vector.set_getElem_self i.isLt

/-- Where elements are changed one after another, each is changed as often as the list names it. -/
theorem foldl_updAt_get (g : Fin n → α → α) (l : List (Fin n)) (v : Vector α n) (i : Fin n) :
    (l.foldl (fun v j => updAt v j (g j)) v)[i] = (g i)^[l.count i] v[i] := by
  induction l generalizing v with
  | nil => rfl
  | cons j l ih =>
    rw [List.foldl_cons, ih, updAt_get, List.count_cons]
    by_cases h : j = i
    · simp [h]
    · simp [h]

/-- A change of every element in turn. -/
theorem foldl_finRange_updAt (g : Fin n → α → α) (v : Vector α n) :
    (List.finRange n).foldl (fun v j => updAt v j (g j)) v = Vector.ofFn fun i => g i v[i] := by
  ext i hi
  have hget := foldl_updAt_get g (List.finRange n) v ⟨i, hi⟩
  rw [List.count_eq_one_of_mem (List.nodup_finRange n) (List.mem_finRange _)] at hget
  simpa using hget

/-- A change that is the same done twice is made where the list names the element, however often. -/
theorem foldl_updAt_get_of_idem {g : Fin n → α → α} {i : Fin n} (hg : ∀ x, g i (g i x) = g i x) (l : List (Fin n))
    (v : Vector α n) : (l.foldl (fun v j => updAt v j (g j)) v)[i] = if i ∈ l then g i v[i] else v[i] := by
  rw [foldl_updAt_get]
  split
  case isTrue hi =>
    obtain ⟨k, hk⟩ := Nat.exists_eq_succ_of_ne_zero (List.count_pos_iff.mpr hi).ne'
    rw [hk, Function.iterate_succ_apply, Function.iterate_fixed (hg _)]
  case isFalse hi => rw [List.count_eq_zero_of_not_mem hi]; rfl

end Elements

/-- The DCO words of Mint `m` at a chronicle, by the Mint alone. -/
def Mint.dcoAt (x : Mint) (now : Nat) (m : Fin 5) : Dco :=
  let go (i : Fin 2) (w : Word) := pulledWord (Config.dcoStep m i) (Config.pullsDown m x.pullAt) w (now - x.pullAt)
  if x.mode == .pulling && !x.settled then ⟨go 0 x.dco.main, go 1 x.dco.wharf⟩ else x.dco

/-- Mint `m` pulling from its present word, where it runs (R66). -/
def Mint.pulled (now : Nat) (m : Fin 5) (x : Mint) : Mint :=
  if x.mode = .stopped then x else { x with mode := .pulling, settled := false, dco := x.dcoAt now m, pullAt := now }

/-- The same with the word kept to which a Mint that was LOCKED falls back (log entry 86). -/
def Mint.repulled (now : Nat) (m : Fin 5) (x : Mint) : Mint :=
  (if x.mode = .locked then { x with frozen := x.dco } else x).pulled now m

/-- Mint `m` after a relock, `ok` telling whether the new reference is qualified (R61, R66). -/
def Mint.relocked (ok : Bool) (now : Nat) (m : Fin 5) (x : Mint) : Mint :=
  if x.mode = .pulling then x.pulled now m else if ok then x.repulled now m else x

/-- Mint `m` after the qualification of its reference, `due` telling whether a relock has waited for it (R61, R66). -/
def Mint.requalified (due : Bool) (now : Nat) (m : Fin 5) (x : Mint) : Mint :=
  if x.mode = .holdover ∨ (due ∧ x.mode = .locked) then x.repulled now m else x

/-- A LOCKED Mint in HOLDOVER, its word frozen at `word` (R65). -/
def Mint.held (word : Dco) (x : Mint) : Mint :=
  if x.mode = .locked then { x with mode := .holdover, settled := false, frozen := word, dco := word } else x

theorem Mint.held_held (word : Dco) (x : Mint) : (x.held word).held word = x.held word := by
  by_cases h : x.mode = .locked <;> simp [Mint.held, h]

theorem Mint.pulled_mode (now : Nat) (m : Fin 5) (x : Mint) :
    (x.pulled now m).mode = if x.mode = .stopped then .stopped else .pulling := by
  unfold Mint.pulled
  split
  case isTrue h => exact h
  case isFalse => rfl

theorem Mint.repulled_mode (now : Nat) (m : Fin 5) (x : Mint) :
    (x.repulled now m).mode = if x.mode = .stopped then .stopped else .pulling := by
  rw [Mint.repulled, Mint.pulled_mode]
  split <;> rfl

/-- A relock to a reference that is qualified: every running Mint is pulling. -/
theorem Mint.relocked_mode_of_ok (now : Nat) (m : Fin 5) (x : Mint) :
    (x.relocked true now m).mode = if x.mode = .stopped then .stopped else .pulling := by
  unfold Mint.relocked
  split
  · exact x.pulled_mode now m
  · exact x.repulled_mode now m

/-- A relock to a reference that is not qualified leaves every mode as it is. -/
theorem Mint.relocked_mode_of_not_ok (now : Nat) (m : Fin 5) (x : Mint) : (x.relocked false now m).mode = x.mode := by
  unfold Mint.relocked
  split
  case isTrue h => rw [Mint.pulled_mode, h]; rfl
  case isFalse => rfl

/-- A held or a LOCKED Mint pulls from its own word. -/
theorem Mint.repulled_of_not_pulling {x : Mint} (hstop : x.mode ≠ .stopped) (hpull : x.mode ≠ .pulling) (now : Nat)
    (m : Fin 5) : x.repulled now m = { x with
      mode := .pulling, settled := false, pullAt := now, frozen := if x.mode = .locked then x.dco else x.frozen } := by
  unfold Mint.repulled
  split
  case isTrue h => simp [Mint.pulled, Mint.dcoAt, h]
  case isFalse h => simp [Mint.pulled, Mint.dcoAt, hstop, hpull]

/-- A Mint that the qualification of its reference sets pulling pulls from its own word. -/
theorem Mint.requalified_eq (due : Bool) (now : Nat) (m : Fin 5) (x : Mint) :
    x.requalified due now m = if x.mode = .holdover ∨ due = true ∧ x.mode = .locked then { x with
      mode := .pulling, settled := false, pullAt := now, frozen := if x.mode = .locked then x.dco else x.frozen } else x := by
  unfold Mint.requalified
  split
  case isTrue h =>
    have hmode : x.mode = .holdover ∨ x.mode = .locked := h.imp_right And.right
    exact Mint.repulled_of_not_pulling (fun he => by simp [he] at hmode) (fun he => by simp [he] at hmode) now m
  case isFalse => rfl

section Mints

variable (s : State) (m : Fin 5)

/-- A change of a Mint depends on what it makes of that Mint alone. -/
theorem State.modMint_congr {s : State} {m : Fin 5} {f g : Mint → Mint} (h : f s.mints[m] = g s.mints[m]) :
    s.modMint m f = s.modMint m g := by
  unfold State.modMint
  rw [updAt_congr h]

/-- A change that a Mint does not see is none. -/
theorem State.modMint_eq_self {s : State} {m : Fin 5} {f : Mint → Mint} (h : f s.mints[m] = s.mints[m]) :
    s.modMint m f = s := by
  unfold State.modMint
  rw [updAt_eq_self h]

theorem State.mintPull_eq : s.mintPull m = s.modMint m (Mint.pulled s.now m) := State.modMint_congr rfl

theorem State.repull_eq : s.repull m = s.modMint m (Mint.repulled s.now m) := by
  rw [State.repull, State.mintPull_eq]
  simp only [State.modMint, updAt_updAt]
  rfl

/-- What a relock does to one Mint. -/
theorem State.relockMint_eq :
    (if (s.mints[m]).mode = .pulling then s.mintPull m else if s.selectedOk then s.repull m else s) =
      s.modMint m (Mint.relocked s.selectedOk s.now m) := by
  split
  case isTrue h => exact (s.mintPull_eq m).trans (State.modMint_congr (if_pos h).symm)
  case isFalse h =>
    split
    case isTrue hok => exact (s.repull_eq m).trans (State.modMint_congr ((if_neg h).trans (if_pos hok)).symm)
    case isFalse hok =>
      have hkept : (s.mints[m]).relocked s.selectedOk s.now m = s.mints[m] := (if_neg h).trans (if_neg hok)
      exact (State.modMint_eq_self hkept).symm

/-- What the qualification of the selected reference does to one Mint, `due` telling whether a relock has waited for it. -/
theorem State.requalifyMint_eq (due : Bool) :
    (if (s.mints[m]).mode = .holdover ∨ (due ∧ (s.mints[m]).mode = .locked) then s.repull m else s) =
      s.modMint m (Mint.requalified due s.now m) := by
  split
  case isTrue h => exact (s.repull_eq m).trans (State.modMint_congr (if_pos h).symm)
  case isFalse h => exact (State.modMint_eq_self (if_neg h)).symm

/-- Steps that each change their own Mint, made for every Mint. -/
theorem State.foldl_mints_eq {f : State → Fin 5 → State} {g : Fin 5 → Mint → Mint}
    (hf : ∀ v m, f { s with mints := v } m = { s with mints := updAt v m (g m) }) :
    (List.finRange 5).foldl f s = { s with mints := Vector.ofFn fun m => g m s.mints[m] } := by
  rw [← foldl_finRange_updAt]
  exact foldl_eq_map (fun v : Vector Mint 5 => { s with mints := v }) hf _ rfl

/-- A relock changes the Mints and the references alone (R61, R66). -/
theorem State.relock_eq : s.relock = { s with
    refs := { s.refs with active := s.flag F.MNT_REF_SEL, relockDue := !s.selectedOk }
    mints := Vector.ofFn fun m => (s.mints[m]).relocked s.selectedOk s.now m } := by
  unfold State.relock
  exact State.foldl_mints_eq _ fun v m => State.relockMint_eq _ m

/-- The selected reference being qualified, the held Mints begin pulling, and the LOCKED ones that a relock has left waiting
(R61, R66). -/
theorem State.allPull_eq : s.allPull = { s with
    refs := { s.refs with relockDue := false }
    mints := Vector.ofFn fun m => (s.mints[m]).requalified s.refs.relockDue s.now m } := by
  unfold State.allPull
  exact State.foldl_mints_eq _ fun v m => State.requalifyMint_eq _ m s.refs.relockDue

end Mints

/-- A Mint that starts, `ok` telling whether its reference is qualified (R430). -/
def Mint.started (ok : Bool) (now : Nat) (m : Fin 5) (x : Mint) : Mint :=
  let word : Dco := if x.ran then x.dco else ⟨Config.factoryDco m 0, Config.factoryDco m 1⟩
  { x with
    mode := if ok then .pulling else .holdover, settled := false, pullAt := now, ran := true, dco := word, frozen := word
    gatedPower := false }

section OneMint

variable {s : State} {m : Fin 5}

theorem mintStarts_eq_self (h : (s.mints[m]).mode ≠ .stopped ∨ s.mintAllowed m = false) : mintStarts m s = s := by
  unfold mintStarts
  split
  case isTrue hallow =>
    have hmode : (s.mints[m]).mode ≠ .stopped := h.resolve_right (by simp [hallow])
    exact if_pos (bne_iff_ne.mpr hmode)
  case isFalse => rfl

/-- A Mint other than Mint C starts (R430). -/
theorem mintStarts_of_ne_mintC (h : (s.mints[m]).mode = .stopped) (hallow : s.mintAllowed m = true) (hm : m ≠ mintC) :
    mintStarts m s = s.modMint m (Mint.started s.selectedOk s.now m) := by
  rw [mintStarts, if_pos hallow]
  simp only [State.startMint, h, State.beginHold, if_neg hm, ite_self]
  rfl

/-- Mint C starts: in WATCH the time is then its own, and a start into HOLDOVER begins the holdover's length (R68, R430). -/
theorem mintStarts_mintC (h : (s.mints[mintC]).mode = .stopped) (hallow : s.mintAllowed mintC = true) :
    mintStarts mintC s = { s.modMint mintC (Mint.started s.selectedOk s.now mintC) with
      power := { s.power with watchOnRef := false }
      refs := if s.selectedOk then s.refs else { s.refs with holding := true, holdStart := s.now, holdLen := 0 } } := by
  rw [mintStarts, if_pos hallow]
  simp only [State.startMint, h]
  cases s.selectedOk <;> rfl

theorem pullSettle_of_reached {w : Dco} (hmode : (s.mints[m]).mode = .pulling) (hset : (s.mints[m]).settled = false)
    (hdue : (s.mints[m]).pullAt + (s.mints[m]).pullMites m w < (s.now + s.tickLen : Nat)) :
    pullSettle m w s = s.modMint m fun x => { x with settled := true, dco := w, zeroAt := s.now } :=
  if_pos ⟨hmode, by rw [hset]; rfl, hdue⟩

theorem pullSettle_of_not_reached {w : Dco}
    (hdue : (s.now + s.tickLen : Nat) ≤ (s.mints[m]).pullAt + (s.mints[m]).pullMites m w) : pullSettle m w s = s :=
  if_neg fun h => absurd h.2.2 (not_lt.mpr hdue)

theorem mintLocks_of_not_reached (h : s.now + s.tickLen ≤ (s.mints[m]).zeroAt + lockMites) : mintLocks m s = s :=
  if_neg fun hl => absurd (of_decide_eq_true hl.2.2) (not_lt.mpr h)

theorem mintLocks_of_not_settled (h : (s.mints[m]).settled = false) : mintLocks m s = s :=
  if_neg fun hl => Bool.false_ne_true (h.symm.trans hl.2.1)

/-- A Mint locks at the end of its 1,024 reference periods (R66), and Mint C's lock ends its holdover length (R68). -/
theorem mintLocks_of_reached (hmode : (s.mints[m]).mode = .pulling) (hset : (s.mints[m]).settled = true)
    (hdue : (s.mints[m]).zeroAt + lockMites < s.now + s.tickLen) :
    mintLocks m s = (s.modMint m fun x => { x with mode := .locked, settled := false }).endHold m :=
  if_pos ⟨hmode, hset, decide_eq_true hdue⟩

theorem State.endHold_eq_self (h : m ≠ mintC ∨ s.refs.holding = false) : s.endHold m = s :=
  if_neg fun hc => h.elim (· hc.1) fun hhold => Bool.false_ne_true (hhold.symm.trans hc.2)

theorem State.endHold_of_holding (h : s.refs.holding = true) :
    s.endHold mintC = { s with refs := { s.refs with holding := false, holdLen := s.now - s.refs.holdStart } } :=
  if_pos ⟨rfl, h⟩

end OneMint

/-- What the loss of a reference changes: the Mints, the references and the tolls due. -/
def State.withLoss (s : State) (mints : Vector Mint 5) (refs : Refs) (due : List (Nat × Nat)) : State :=
  { s with mints := mints, refs := refs, tollDue := due }

/-- The references with the length of Mint C's holdover begun, where Mint `m` is Mint C (R68). -/
def Refs.held (now : Nat) (r : Refs) (m : Fin 5) : Refs :=
  if m = mintC then { r with holding := true, holdStart := now, holdLen := 0 } else r

theorem Refs.held_refOk (now : Nat) (r : Refs) (m : Fin 5) : (r.held now m).refOk = r.refOk := by
  unfold Refs.held
  split <;> rfl

theorem Refs.held_cp0Ok (now : Nat) (r : Refs) (m : Fin 5) : (r.held now m).cp0Ok = r.cp0Ok := by
  unfold Refs.held
  split <;> rfl

/-- The tolls due with one count more of the toll of Mint `m`'s holdover (R65, R72). -/
def holdoverTolled (due : List (Nat × Nat)) (m : Fin 5) : List (Nat × Nat) :=
  Sparse.set (fun _ => 0) due (holdoverToll m) (Sparse.get (fun _ => 0) due (holdoverToll m) + 1)

section Losses

variable {s : State} (ws : Vector Dco 5)

/-- The loss of a LOCKED Mint's reference (R65, R68). -/
theorem State.mintLoss_of_locked {m : Fin 5} (h : (s.mints[m]).mode = .locked) (w : Dco) :
    s.mintLoss m w =
      s.withLoss (updAt s.mints m (Mint.held w)) (s.refs.held s.now m) (holdoverTolled s.tollDue m) := by
  have hheld : updAt s.mints m (Mint.held w) =
      updAt s.mints m fun x => { x with mode := .holdover, settled := false, frozen := w, dco := w } :=
    updAt_congr (if_pos h)
  rw [hheld]
  simp only [State.mintLoss, h, State.beginHold, Refs.held]
  split <;> rfl

/-- LOCKED Mints lose their reference one after another (R65). -/
theorem State.foldl_mintLoss_of_locked {l : List (Fin 5)} (hl : l.Nodup) :
    ∀ {s : State}, (∀ m ∈ l, (s.mints[m]).mode = .locked) → l.foldl (fun s m => s.mintLoss m ws[m]) s =
      s.withLoss (l.foldl (fun v m => updAt v m (Mint.held ws[m])) s.mints) (l.foldl (Refs.held s.now) s.refs)
        (l.foldl holdoverTolled s.tollDue) := by
  induction l with
  | nil => exact fun _ => rfl
  | cons m l ih =>
    intro s h
    obtain ⟨hm, hl⟩ := List.nodup_cons.mp hl
    rw [List.foldl_cons, State.mintLoss_of_locked (h m List.mem_cons_self)]
    refine ih hl fun i hi => ?_
    have hne : m ≠ i := fun he => hm (he ▸ hi)
    exact (congrArg Mint.mode (updAt_other s.mints hne _)).trans (h i (List.mem_cons_of_mem m hi))

/-- Every Mint, LOCKED, loses its reference (R65, R68, R72). -/
theorem State.allLoss_of_locked (h : ∀ m : Fin 5, (s.mints[m]).mode = .locked) :
    s.allLoss ws = s.withLoss (Vector.ofFn fun m => (s.mints[m]).held ws[m])
      { s.refs with holding := true, holdStart := s.now, holdLen := 0 }
      ((List.finRange 5).foldl holdoverTolled s.tollDue) := by
  rw [State.allLoss, State.foldl_mintLoss_of_locked ws (List.nodup_finRange 5) fun m _ => h m,
    foldl_finRange_updAt fun m => Mint.held ws[m]]
  rfl

/-- Mint `m` loses its reference where it is LOCKED: a step of a loss by threshold (R65). -/
def State.lockedLoss (s : State) (m : Fin 5) : State :=
  if (s.mints[m]).mode = .locked then s.mintLoss m ws[m] else s

/-- A loss by threshold holds each Mint that it names and that is LOCKED (R65). -/
theorem State.foldl_lockedLoss_mints (ms : List (Fin 5)) (s : State) :
    (ms.foldl (State.lockedLoss ws) s).mints = ms.foldl (fun v m => updAt v m (Mint.held ws[m])) s.mints := by
  refine (List.foldl_hom State.mints fun t m => ?_).symm
  unfold State.lockedLoss
  split
  case isTrue h => rw [State.mintLoss_of_locked h]; rfl
  case isFalse h => exact updAt_eq_self (if_neg h)

/-- What no holdover changes of the references is kept by a loss by threshold. -/
theorem State.foldl_lockedLoss_refs {α : Type} {p : Refs → α} (hp : ∀ now r m, p (Refs.held now r m) = p r)
    (ms : List (Fin 5)) (s : State) : p (ms.foldl (State.lockedLoss ws) s).refs = p s.refs := by
  rw [← List.foldl_hom (fun t : State => p t.refs) (g₂ := fun a _ => a) fun t m => ?_, List.foldl_fixed]
  unfold State.lockedLoss
  split
  case isTrue h => rw [State.mintLoss_of_locked h]; exact (hp ..).symm
  case isFalse h => rfl

end Losses

section Commands

variable {s : State} (ws : Vector Dco 5)

/-- Without AUTO no loss switches the reference (R61). -/
theorem State.autoSwitch_eq_self (h : s.flag F.MNT_REF_AUTO = false) : s.autoSwitch = s := by
  simp [State.autoSwitch, h]

/-- Without a loss in the present tick an arrival takes nothing back (lock coincidences). -/
theorem State.arrivalWins_eq_self (h : s.ev.refLost = none) (cp0 : Bool) : s.arrivalWins cp0 = s := by
  simp [State.arrivalWins, h]

/-- Where nothing has been qualified in the present tick, no reference has arrived in it. -/
theorem State.arrivedNow_of_nil (h : s.ev.refQualified = []) (cp0 : Bool) : s.arrivedNow cp0 = false := by
  simp [State.arrivedNow, h]

/-- REFCLK, in use, is without edges (R60, R65): it counts a toll, and every Mint loses it. -/
theorem refLoss_noEdges_refclk (hsel : s.flag F.MNT_REF_SEL = false) (hauto : s.flag F.MNT_REF_AUTO = false)
    (hq : s.ev.refQualified = []) (h : ∀ m : Fin 5, (s.mints[m]).mode = .locked) :
    ∃ ev, refLoss (.noEdges false) ws s = { s with
      mints := Vector.ofFn fun m => (s.mints[m]).held ws[m]
      refs := { s.refs with refPresent := false, refOk := false, holding := true, holdStart := s.now, holdLen := 0 }
      tollDue := (List.finRange 5).foldl holdoverTolled (s.toll 12).tollDue, ev := ev } := by
  have hloss := State.allLoss_of_locked (s := (s.setRef false false false).toll 12) ws h
  have hkept : ∀ v r d, (((s.setRef false false false).toll 12).withLoss v r d).flag F.MNT_REF_AUTO = false :=
    fun _ _ _ => hauto
  simp only [refLoss, hsel, State.arrivedNow_of_nil hq, Bool.false_eq_true, if_false, bne_self_eq_false]
  rw [hloss, State.autoSwitch_eq_self (hkept ..)]
  exact ⟨_, rfl⟩

/-- A loss by threshold of a reference that has not arrived in the tick (R65). -/
theorem refLoss_overThreshold (hq : s.ev.refQualified = []) (ms : List (Fin 5)) :
    refLoss (.overThreshold ms) ws s = s.lostRef (ms.foldl (State.lockedLoss ws)
      (s.setRef (s.flag F.MNT_REF_SEL) (if s.flag F.MNT_REF_SEL then s.refs.cp0Present else s.refs.refPresent) false)) := by
  simp only [refLoss, State.arrivedNow_of_nil hq, Bool.false_eq_true, if_false]
  rfl

/-- After a loss by threshold the reference in use is to be qualified again (R65, log entry 21). -/
theorem refLoss_overThreshold_not_ok (hq : s.ev.refQualified = []) (ms : List (Fin 5)) :
    (if s.flag F.MNT_REF_SEL then (refLoss (.overThreshold ms) ws s).refs.cp0Ok
      else (refLoss (.overThreshold ms) ws s).refs.refOk) = false := by
  rw [refLoss_overThreshold ws hq]
  cases s.flag F.MNT_REF_SEL with
  | true => exact State.foldl_lockedLoss_refs (p := Refs.cp0Ok) ws Refs.held_cp0Ok ms _
  | false => exact State.foldl_lockedLoss_refs (p := Refs.refOk) ws Refs.held_refOk ms _

/-- A loss by threshold holds the LOCKED Mints that it names and no other (R65). -/
theorem refLoss_overThreshold_mint (hq : s.ev.refQualified = []) (ms : List (Fin 5)) (m : Fin 5) :
    (refLoss (.overThreshold ms) ws s).mints[m] = if m ∈ ms then (s.mints[m]).held ws[m] else s.mints[m] := by
  have hmints : (refLoss (.overThreshold ms) ws s).mints = ms.foldl (fun v m => updAt v m (Mint.held ws[m])) s.mints := by
    rw [refLoss_overThreshold ws hq]
    exact State.foldl_lockedLoss_mints ..
  rw [hmints]
  exact foldl_updAt_get_of_idem (g := fun m => Mint.held ws[m]) (Mint.held_held ws[m]) ms s.mints

/-- MNT_REF written, before SEL and AUTO act (R61). -/
def State.refWritten (s : State) (w : Word) : State :=
  let mask := R.MNT_REF.mask (· == .lv)
  ((s.setWritten R.MNT_REF.base w mask).setForce R.MNT_REF.base w mask).answer .ok

/-- Without AUTO a write of MNT_REF is a relock where SEL changes, and no more (R61). -/
theorem refSelect_of_no_auto {w : Word} (h : (s.refWritten w).flag F.MNT_REF_AUTO = false) :
    refSelect w s = if s.flag F.MNT_REF_SEL != (s.refWritten w).flag F.MNT_REF_SEL then (s.refWritten w).relock
      else s.refWritten w := by
  have hrelock : (s.refWritten w).relock.flag F.MNT_REF_AUTO = false := by rw [State.relock_eq]; exact h
  have hauto : ∀ c : Bool, (if c then (s.refWritten w).relock else s.refWritten w).flag F.MNT_REF_AUTO = false := by
    rintro (_ | _)
    · exact h
    · exact hrelock
  exact (congrArg (ite _ _) (State.autoSwitch_eq_self (hauto _))).trans (ite_self _)

/-- A write that changes SEL is a relock, `ok` telling whether the new reference is qualified (R61, R66). -/
theorem refSelect_of_sel_changed {w : Word} (hauto : (s.refWritten w).flag F.MNT_REF_AUTO = false)
    (hsel : (s.refWritten w).flag F.MNT_REF_SEL ≠ s.flag F.MNT_REF_SEL) {ok : Bool} (hok : (s.refWritten w).selectedOk = ok) :
    refSelect w s = { s.refWritten w with
      refs := { s.refs with active := (s.refWritten w).flag F.MNT_REF_SEL, relockDue := !ok }
      mints := Vector.ofFn fun m => (s.mints[m]).relocked ok s.now m } := by
  rw [refSelect_of_no_auto hauto, if_pos (bne_iff_ne.mpr hsel.symm), State.relock_eq, hok]
  rfl

/-- The qualification of the reference in use, where no loss of the tick stands against it (R60, R66). -/
theorem refQualify_of_selected (h : s.ev.refLost = none) :
    refQualify (s.flag F.MNT_REF_SEL) s = { s with
      refs := { (s.setRef (s.flag F.MNT_REF_SEL) true true).refs with relockDue := false }
      ev := { s.ev with refQualified := s.flag F.MNT_REF_SEL :: s.ev.refQualified }
      mints := Vector.ofFn fun m => (s.mints[m]).requalified s.refs.relockDue s.now m } := by
  have hdue : ∀ c, (s.setRef c true true).refs.relockDue = s.refs.relockDue := by rintro (_ | _) <;> rfl
  rw [refQualify, State.arrivalWins_eq_self h]
  refine (if_pos (beq_self_eq_true _)).trans ((State.allPull_eq _).trans ?_)
  simp only [hdue]
  rfl

/-- The qualification of a reference that is not in use (R60). -/
theorem refQualify_of_not_selected (h : s.ev.refLost = none) {cp0 : Bool} (hsel : s.flag F.MNT_REF_SEL ≠ cp0) :
    refQualify cp0 s = { s with
      refs := (s.setRef cp0 true true).refs, ev := { s.ev with refQualified := cp0 :: s.ev.refQualified } } := by
  rw [refQualify, State.arrivalWins_eq_self h]
  exact if_neg fun he => hsel (beq_iff_eq.mp he)

end Commands

end Sys2Proof.Machine

/-- Settles O25: the Mints one by one, then the arrival, the losses and the selection of a reference. -/
theorem mintsAndReferences : Obligations.MintsAndReferences := by
  unfold Obligations.MintsAndReferences
  refine ⟨fun s m => ⟨fun hmode hallow => ⟨?start, ?startC⟩, ?noStart, fun w hmode hset => ⟨?settle, ?noSettle⟩, ?early,
    ?lock, ?lockHeld, ?unsettled⟩, fun s => ⟨fun cp0 hlost => ?qualified, fun ws hsel hauto hq hlocked => ?noEdges,
    fun ws ms hq => ?threshold, fun w hauto => ⟨fun hsel => ?same, fun hsel hok => ?relocks, fun hsel hok => ?waits⟩⟩⟩
  case start => exact fun hm => congrArg Host.Outcome.next (mintStarts_of_ne_mintC hmode hallow hm)
  case startC => rintro rfl; exact congrArg Host.Outcome.next (mintStarts_mintC hmode hallow)
  case noStart => exact fun h => congrArg Host.Outcome.next (mintStarts_eq_self h)
  case settle => exact fun hdue => congrArg Host.Outcome.next (pullSettle_of_reached hmode hset hdue)
  case noSettle => exact fun hdue => congrArg Host.Outcome.next (pullSettle_of_not_reached hdue)
  case early => exact fun h => congrArg Host.Outcome.next (mintLocks_of_not_reached h)
  case lock =>
    intro hmode hset hdue hhold
    exact congrArg Host.Outcome.next ((mintLocks_of_reached hmode hset hdue).trans (State.endHold_eq_self hhold))
  case lockHeld =>
    rintro hmode hset hdue rfl hhold
    exact congrArg Host.Outcome.next ((mintLocks_of_reached hmode hset hdue).trans (State.endHold_of_holding hhold))
  case unsettled => exact fun h => congrArg Host.Outcome.next (mintLocks_of_not_settled h)
  case qualified =>
    by_cases hsel : s.flag F.MNT_REF_SEL = cp0
    · subst hsel
      refine ⟨_, congrArg Host.Outcome.next (refQualify_of_selected hlost), rfl, ?_, fun m => ?_⟩
      · cases s.flag F.MNT_REF_SEL <;> simp [State.setRef]
      · simpa using (s.mints[m]).requalified_eq s.refs.relockDue s.now m
    · refine ⟨_, congrArg Host.Outcome.next (refQualify_of_not_selected hlost hsel), rfl, ?_, fun m => ?_⟩
      · cases cp0 <;> simp [State.setRef, hsel]
      · simp [hsel]
  case noEdges =>
    obtain ⟨ev, hloss⟩ := refLoss_noEdges_refclk ws hsel hauto hq hlocked
    refine ⟨_, congrArg Host.Outcome.next hloss, rfl, rfl, fun m => ?_, rfl⟩
    have hheld : (s.mints[m]).held ws[m] = _ := if_pos (hlocked m)
    simpa using hheld
  case threshold =>
    refine ⟨_, rfl, refLoss_overThreshold_not_ok ws hq ms, fun m => ?_⟩
    rw [refLoss_overThreshold_mint ws hq, Mint.held, ← ite_and]
  case same =>
    refine congrArg Host.Outcome.next ((refSelect_of_no_auto hauto).trans (if_neg ?_))
    exact fun hne => bne_iff_ne.mp hne hsel.symm
  case relocks =>
    refine ⟨_, congrArg Host.Outcome.next (refSelect_of_sel_changed hauto hsel hok), rfl, rfl, fun m => ?_⟩
    simpa using (s.mints[m]).relocked_mode_of_ok s.now m
  case waits =>
    refine ⟨_, congrArg Host.Outcome.next (refSelect_of_sel_changed hauto hsel hok), rfl, rfl, fun m => ?_⟩
    simpa using (s.mints[m]).relocked_mode_of_not_ok s.now m

end

/-! ## VAON and RESET_N (03_mints R70; 17_image R371; 18_power R383, R384; 19_tolls R396, R401) -/

section

open Sys2Proof Sys2Proof.Machine

namespace Sys2Proof.Machine

variable {s : State}

/-- A reset that interrupts a flash operation leaves the fuses alone (R377). -/
theorem State.interruptFlash_otp (s : State) : s.interruptFlash.image.otp = s.image.otp := by
  unfold State.interruptFlash
  split
  · rfl
  · split <;> rfl

/-- Without an operation under way there is none to interrupt. -/
theorem State.interruptFlash_eq_self (h : s.image.op = none) : s.interruptFlash = s := by
  simp [State.interruptFlash, h]

/-- RESET_N with REFCLK selected leaves what outlives it (R371, R396, R430). -/
theorem State.resetAll_of_refclk (h : s.flag F.MNT_REF_SEL = false) : s.resetAll = s.outlives := by
  simp [State.resetAll, h]

/-- Whichever reference is selected, RESET_N leaves what outlives it but for the Mints and the references (R396, R430). -/
theorem State.resetAll_eq_outlives (s : State) :
    ∃ mints refs, s.resetAll = { s.outlives with mints := mints, refs := refs } := by
  unfold State.resetAll
  dsimp only
  split
  · rw [State.relock_eq]
    exact ⟨_, _, rfl⟩
  · exact ⟨_, _, rfl⟩

/-- Of the weighers a reset keeps the retirements (R141). -/
theorem Pool.outlives_role (p : Pool) (now : Nat) (w : Fin 68) :
    ((p.outlives now).weighers[w]).role = if (p.weighers[w]).role = .retired then .retired else .free := by
  simp only [Pool.outlives, Fin.getElem_fin, Vector.getElem_map]
  split <;> rfl

/-- RESET_N asserted with VAON applied (R371, R383). -/
theorem resetAssert_of_vaon (h : s.power.vaon = true) :
    resetAssert s = { s.resetAll.modPower fun p => { p with resetN := true } with ev := { reset := true } } := if_pos h

/-- RESET_N asserted with VAON applied stops every function and clears the tolls, and the chronicle goes on (R70, R371,
R396). -/
theorem resetAssert_leaves (h : s.power.vaon = true) :
    (resetAssert s).power.vaon = true ∧ (resetAssert s).power.resetN = true ∧ (resetAssert s).run = [] ∧
      (resetAssert s).tolls = [] ∧ (resetAssert s).chron = s.chron := by
  obtain ⟨mints, refs, hall⟩ := s.resetAll_eq_outlives
  rw [resetAssert_of_vaon h, hall]
  exact ⟨h, rfl, rfl, rfl, rfl⟩

/-- RESET_N asserted without VAON is its level alone (log entry 63). -/
theorem resetAssert_of_not_vaon (h : s.power.vaon = false) : resetAssert s = s.modPower fun p => { p with resetN := true } :=
  if_neg (Bool.eq_false_iff.mp h)

/-- Regulation is a matter of the enables, the core voltage asked for and the monitors' readings (R382). -/
theorem State.regulated_congr {t : State} (hpen : t.power.pen = s.power.pen) (hv : t.power.vcoreCmd = s.power.vcoreCmd)
    (hr : t.power.readings = s.power.readings) (k : Fin 6) : t.regulated k = s.regulated k := by
  have hw : t.railWindow k = s.railWindow k := by simp only [State.railWindow, hv]
  simp only [State.regulated, State.readAt, State.monitorIn, hw, hpen, hr]

/-- The first rail that is not in regulation is enabled and waited for (R383). -/
theorem State.raiseFrom_zero_of_first {j : Fin 6} (hlow : ∀ i < j, s.regulated i = true) (hj : s.regulated j = false) :
    s.raiseFrom 0 = s.modPower fun p => { p with pen := p.pen.set j.val true j.isLt, waiting := some (j, s.now) } := by
  have hfind : ((List.finRange 6).find? fun k => decide (0 ≤ k.val) && !s.regulated k) = some j := by
    refine List.find?_eq_some_iff_getElem.mpr ⟨by simp [hj], j.val, by simp, by simp, fun k hk => ?_⟩
    simpa using hlow ⟨k, hk.trans j.isLt⟩ hk
  rw [State.raiseFrom, hfind]
  rfl

/-- A sequence begins with the first rail that is not in regulation (R383). -/
theorem State.beginSequence_of_first {j : Fin 6} (hlow : ∀ i < j, s.regulated i = true) (hj : s.regulated j = false) :
    s.beginSequence = s.modPower fun p => { p with
      retryAt := none, holdEnd := none, railsUp := false, pen := p.pen.set j.val true j.isLt, waiting := some (j, s.now) } := by
  have hreg : ∀ k, (s.modPower fun p => { p with retryAt := none, holdEnd := none, railsUp := false }).regulated k =
      s.regulated k := State.regulated_congr rfl rfl rfl
  exact State.raiseFrom_zero_of_first (fun i hi => (hreg i).trans (hlow i hi)) ((hreg j).trans hj)

/-- Whatever rail it begins with, a sequence changes the power manager alone, and not RESET_N (R383). -/
theorem State.beginSequence_eq (s : State) : ∃ power : Power, s.beginSequence = { s with power := power } ∧
    power.resetN = s.power.resetN := by
  unfold State.beginSequence State.raiseFrom
  split <;> exact ⟨_, rfl, rfl⟩

section Release

/-- A release that finds VAON away, or RESET_N not asserted, is the pin's level alone (R383, log entry 63). -/
theorem resetRelease_level (h : s.power.vaon = false ∨ s.power.resetN = false) :
    resetRelease s = s.modPower fun p => { p with resetN := false } := by
  refine if_neg ?_
  rcases h with h | h <;> simp [h]

/-- The device released, its rails as they were. -/
def State.released (s : State) : State :=
  { s with image := { s.image with released := s.now }, power := { s.power with resetN := false, releaseAt := none } }

/-- While a brown-out holds the enables low, the release leaves them low (R384). -/
theorem resetRelease_held {e : Nat} (hvaon : s.power.vaon = true) (hreset : s.power.resetN = true)
    (hhold : s.power.holdEnd = some e) (he : s.now + s.tickLen ≤ e) : resetRelease s = s.released := by
  have hnot : s.reached e = false := decide_eq_false (not_lt.mpr he)
  simp only [resetRelease, hvaon, hreset, hhold, hnot]
  rfl

/-- Otherwise the release begins the rail sequence (R383). -/
theorem resetRelease_begins (hvaon : s.power.vaon = true) (hreset : s.power.resetN = true)
    (hhold : ∀ e, s.power.holdEnd = some e → e < s.now + s.tickLen) : resetRelease s = s.released.beginSequence := by
  have hdue : ∀ e, s.power.holdEnd = some e → s.reached e = true := fun e h => decide_eq_true (hhold e h)
  simp only [resetRelease, hvaon, hreset]
  cases h : s.power.holdEnd with
  | none => rfl
  | some e => simp only [hdue e h]; rfl

/-- A release of a device with VAON changes the image's times and the power manager alone (R383). -/
theorem resetRelease_eq (hvaon : s.power.vaon = true) (hreset : s.power.resetN = true) :
    ∃ power : Power, resetRelease s = { s.released with power := power } ∧ power.resetN = false := by
  by_cases h : ∃ e, s.power.holdEnd = some e ∧ s.now + s.tickLen ≤ e
  · obtain ⟨e, hhold, he⟩ := h
    exact ⟨_, resetRelease_held hvaon hreset hhold he, rfl⟩
  · obtain ⟨power, heq, hpower⟩ := s.released.beginSequence_eq
    refine ⟨power, (resetRelease_begins hvaon hreset fun e he => ?_).trans heq, hpower⟩
    exact not_le.mp fun hle => h ⟨e, he, hle⟩

end Release

/-- A reset of the device's own is one of RESET_N, asserted and released (R350). -/
theorem internalReset_of_reached {t : Nat} (h : s.barter.resetAt = some t) (hdue : t < s.now + s.tickLen) :
    internalReset s = resetRelease (resetAssert s) := by
  have hreached : s.reached t = true := decide_eq_true hdue
  simp only [internalReset, h, if_pos hreached]

theorem internalReset_of_not_reached {t : Nat} (h : s.barter.resetAt = some t) (hdue : s.now + s.tickLen ≤ t) :
    internalReset s = s := by
  have hreached : s.reached t = false := decide_eq_false (not_lt.mpr hdue)
  simp [internalReset, h, hreached]

end Sys2Proof.Machine

/-- Settles O51: the coming and going of VAON, RESET_N asserted and released, and the device's own reset. -/
theorem resetsKeepWhatTheyKeep : Obligations.ResetsKeepWhatTheyKeep := by
  unfold Obligations.ResetsKeepWhatTheyKeep
  intro s
  refine ⟨fun hvaon => ?powerUp, fun hvaon => ?powered, ?removal, fun hvaon hsel => ?assert, fun hvaon => ?assertUnpowered,
    fun h => ?level, fun e hvaon hreset hhold he => ?held, fun j hvaon hreset hhold hlow hj => ?begins,
    fun at_ hat => ⟨fun hdue => ?early, fun hdue hvaon => ?internal⟩⟩
  case powerUp =>
    exact ⟨_, congrArg Host.Outcome.next (if_neg (Bool.eq_false_iff.mp hvaon)), rfl, rfl, rfl, rfl, rfl, rfl, rfl⟩
  case powered => exact congrArg Host.Outcome.next (if_pos hvaon)
  case removal =>
    refine ⟨vaonRemoval s, rfl, rfl, rfl, rfl, s.interruptFlash_otp, fun hop => ?_, rfl⟩
    have hflash : s.interruptFlash.image.flash = s.image.flash := by rw [State.interruptFlash_eq_self hop]
    exact hflash
  case assert =>
    have hassert := resetAssert_of_vaon hvaon
    rw [State.resetAll_of_refclk hsel] at hassert
    refine ⟨_, congrArg Host.Outcome.next hassert, rfl, rfl, rfl, rfl, rfl, rfl, rfl, rfl, rfl, rfl, rfl, rfl,
      s.pool.outlives_role s.now, rfl, rfl, rfl, rfl⟩
  case assertUnpowered => exact congrArg Host.Outcome.next (resetAssert_of_not_vaon hvaon)
  case level => exact congrArg Host.Outcome.next (resetRelease_level h)
  case held => exact congrArg Host.Outcome.next (resetRelease_held hvaon hreset hhold he)
  case begins =>
    have hreg : ∀ k, s.released.regulated k = s.regulated k := State.regulated_congr rfl rfl rfl
    refine congrArg Host.Outcome.next ((resetRelease_begins hvaon hreset hhold).trans ?_)
    exact State.beginSequence_of_first (fun i hi => (hreg i).trans (hlow i hi)) ((hreg j).trans hj)
  case early => exact congrArg Host.Outcome.next (internalReset_of_not_reached hat hdue)
  case internal =>
    obtain ⟨hpowered, hreset, hrun, htolls, hchron⟩ := resetAssert_leaves hvaon
    obtain ⟨power, hrelease, hpower⟩ := resetRelease_eq hpowered hreset
    exact ⟨_, congrArg Host.Outcome.next ((internalReset_of_reached hat hdue).trans hrelease), hpower,
      congrArg BitVec.toNat hchron, hrun, htolls, hchron⟩

end

/-! ## The ends of the referee's windows and of the relief slice's moves (04_converters R78, R81 to R88; 05_calibration R106) -/

section

open Sys2Proof Sys2Proof.Machine

namespace Sys2Proof.Machine

variable {s : State}

theorem State.reached_iff {due : Nat} : s.reached due = true ↔ due < s.now + s.tickLen := decide_eq_true_iff

theorem State.not_reached_iff {due : Nat} : s.reached due = false ↔ s.now + s.tickLen ≤ due :=
  decide_eq_false_iff_not.trans not_lt

/-- Attention sees and changes the status items and the events of the tick alone (R343). -/
theorem State.attention_eq {s t : State} (hstatus : t.status = s.status) (hev : t.ev = s.ev) (level : Nat) :
    t.attention level = { t with status := (s.attention level).status, ev := (s.attention level).ev } := by
  simp only [State.attention, State.unack, hev]
  split <;> simp only [hstatus, hev]

/-- The instant at which a move that begins now has settled (R78, R81). -/
def State.settledAt (s : State) : Nat := (if s.conv.handover = some none then s.now + s.tickLen else s.now) + 256 * 32

/-- With no calibration asked for, a referee window follows (R84). -/
theorem State.reliefNext_of_not_asked (h : s.cal.request = false) (k : Fin 16) :
    s.reliefNext k = { s with conv := { s.conv with refNext := k, target := k, phase := .settling .referee s.settledAt } } :=
  if_neg (Bool.eq_false_iff.mp h)

/-- The relief slice is out of service (R87). -/
def State.reliefRetired (s : State) : State := { s with conv := { s.conv with phase := .off, retired := some 16 } }

/-- What a settled move was made for begins (R78, R83, R86, R106). -/
def State.settledFor (s : State) : MoveFor → State
  | .referee => s.beginReferee none
  | .witness k => s.beginReferee (some k)
  | .calibration => { s with conv := { s.conv.beginWindow (s.val F.CAL_HANDOVER_HLOG) (s.val F.CAL_PLAUS_LIMIT_LIMIT) with
      phase := .shadow } }
  | .retirement => { s with conv := { s.conv with
      phase := .permanent, handover := some (some s.conv.target), retired := some s.conv.target.castSucc } }

/-- What a bad referee window leaves, before what follows it (R85). -/
def State.suspected (s : State) : State :=
  let k := s.conv.target
  ({ s with conv := { s.conv.recordWindow false with
    suspect := s.conv.suspect.set k.val (s.conv.suspect[k] + 1) k.isLt } }.toll 17).attention 1

theorem State.suspected_eq (s : State) : s.suspected = { s with
    conv := { s.conv.recordWindow false with
      suspect := s.conv.suspect.set s.conv.target.val (s.conv.suspect[s.conv.target] + 1) s.conv.target.isLt }
    tollDue := (s.toll 17).tollDue, status := (s.attention 1).status, ev := (s.attention 1).ev } :=
  State.attention_eq (by rfl) (by rfl) 1

section RefereeWindow

variable (hphase : s.conv.phase = .window none) (hfull : s.conv.windowFull = true)

include hphase hfull

/-- A good referee window clears the slice's count, and the next position follows (R84). -/
theorem refereeEnd_good (hgood : s.conv.windowSuspect = false) (hask : s.cal.request = false) :
    refereeEnd s = { s with conv := { s.conv.recordWindow false with
      suspect := s.conv.suspect.set s.conv.target.val 0 s.conv.target.isLt
      refNext := nextLive s.conv.target, target := nextLive s.conv.target
      phase := .settling .referee s.settledAt } } := by
  simp only [refereeEnd, hphase, hfull, hgood, Bool.not_true, Bool.not_false, Bool.false_eq_true, if_false, if_true]
  exact State.reliefNext_of_not_asked (by exact hask) _

/-- A bad window is the third in a row, or another follows: of the same slice where no calibration is asked for (R84, R85). -/
theorem refereeEnd_bad (hbad : s.conv.windowSuspect = true) : refereeEnd s =
    if 3 ≤ s.conv.suspect[s.conv.target] + 1 then s.suspected.moveRelief (nextLive s.conv.target) (.witness s.conv.target)
    else if s.suspected.cal.request then s.suspected.reliefNext s.conv.target
    else s.suspected.beginReferee none := by
  simp only [refereeEnd, hphase, hfull, hbad, Bool.not_true, Bool.false_eq_true, if_false]
  rfl

/-- The third bad window in a row: the relief slice moves to the next position as witness (R85). -/
theorem refereeEnd_third (hbad : s.conv.windowSuspect = true) (hthird : 2 ≤ s.conv.suspect[s.conv.target]) :
    refereeEnd s = s.suspected.moveRelief (nextLive s.conv.target) (.witness s.conv.target) := by
  rw [refereeEnd_bad hphase hfull hbad, if_pos (Nat.succ_le_succ hthird)]

/-- After a first or second bad window another one of the same slice begins (R85). -/
theorem refereeEnd_again (hbad : s.conv.windowSuspect = true) (hfew : s.conv.suspect[s.conv.target] < 2)
    (hask : s.cal.request = false) : refereeEnd s = s.suspected.beginReferee none := by
  have hrequest : s.suspected.cal.request ≠ true := by rw [State.suspected_eq]; exact Bool.eq_false_iff.mp hask
  rw [refereeEnd_bad hphase hfull hbad, if_neg (by omega), if_neg hrequest]

end RefereeWindow

/-- Toll, attention and log entry of a retirement (R86, R87, R402). -/
theorem State.retireTolls_eq (s : State) (c : Conv) (slice : Fin 17) {toll : Nat}
    (htoll : (if slice.val = 16 then 19 else 18) = toll) :
    { s with conv := c }.retireTolls slice = { s with
      conv := { c with degraded := true }, cal := { s.cal with request := false }, tollDue := (s.toll toll).tollDue
      status := (s.attention 2).status, ev := (s.attention 2).ev
      log := { s.log with due := s.log.due ++ [⟨s.now % 2 ^ 64, 6, slice, toll, 0⟩] } } := by
  subst htoll
  exact congrArg (State.logEvent · 0x06 slice.val _ 0) (State.attention_eq (s := s) (by rfl) (by rfl) 2)

section WitnessWindow

variable {j : Fin 16} (hphase : s.conv.phase = .window (some j)) (hfull : s.conv.windowFull = true)

include hphase hfull

/-- A bad witness window retires the relief slice (R87). -/
theorem witnessEnd_bad (hbad : s.conv.windowSuspect = true) :
    witnessEnd s = ({ s with conv := s.conv.recordWindow true }.retireTolls 16).reliefRetired := by
  simp only [witnessEnd, hphase, hfull, hbad, Bool.not_true, Bool.false_eq_true, if_false, if_true]
  rfl

/-- A good witness window retires the suspect (R86). -/
theorem witnessEnd_good (hgood : s.conv.windowSuspect = false) :
    witnessEnd s = ({ s with conv := s.conv.recordWindow true }.retireTolls ⟨j.val, by omega⟩).moveRelief j .retirement := by
  simp only [witnessEnd, hphase, hfull, hgood, Bool.not_true, Bool.false_eq_true, if_false]

end WitnessWindow

section Settling

variable {goal : MoveFor} {due : Nat} (hphase : s.conv.phase = .settling goal due)

include hphase

/-- A move that has not settled goes on (R78). -/
theorem reliefSettles_of_not_reached (h : s.now + s.tickLen ≤ due) : reliefSettles s = s := by
  have hdue : s.reliefDue due = false := State.not_reached_iff.mpr h
  simp [reliefSettles, hphase, hdue]

/-- A move that has settled begins what it was made for (R78, R83, R86, R106). -/
theorem reliefSettles_of_reached (h : due < s.now + s.tickLen) : reliefSettles s = s.settledFor goal := by
  have hdue : s.reliefDue due = true := State.reached_iff.mpr h
  simp only [reliefSettles, hphase, hdue, Bool.not_true, Bool.false_eq_true, if_false]
  cases goal <;> rfl

end Settling

end Sys2Proof.Machine

/-- Settles O26: the ends of the two kinds of windows, then the end of a move by what it was made for. -/
theorem windowsAndMovesEnd : Obligations.WindowsAndMovesEnd := by
  unfold Obligations.WindowsAndMovesEnd
  refine ⟨fun s hfull => ⟨fun hphase hgood hask => ?good, fun hphase hbad hthird => ?third,
    fun hphase hbad hfew hask => ?again, fun j hphase => ⟨fun hbad => ?relief, fun hgood => ?suspect⟩⟩,
    fun s goal due hphase => ⟨fun h => ?early, fun h => ?settled⟩⟩
  case good =>
    exact ⟨_, congrArg Host.Outcome.next (refereeEnd_good hphase hfull hgood hask), rfl, rfl, rfl, rfl, rfl, hgood, rfl⟩
  case third =>
    have hend := refereeEnd_third hphase hfull hbad hthird
    rw [State.suspected_eq] at hend
    exact ⟨_, congrArg Host.Outcome.next hend, rfl, rfl, rfl⟩
  case again =>
    have hend := refereeEnd_again hphase hfull hbad hfew hask
    rw [State.suspected_eq] at hend
    exact ⟨_, congrArg Host.Outcome.next hend, rfl, rfl, rfl, rfl, rfl, rfl, rfl⟩
  case relief =>
    have htolls := s.retireTolls_eq (s.conv.recordWindow true) 16 rfl
    have hend := witnessEnd_bad hphase hfull hbad
    rw [htolls] at hend
    exact ⟨_, congrArg Host.Outcome.next hend, ⟨rfl, rfl, rfl, rfl⟩, rfl, rfl⟩
  case suspect =>
    have htolls := s.retireTolls_eq (s.conv.recordWindow true) ⟨j.val, by omega⟩ (if_neg j.isLt.ne)
    have hend := witnessEnd_good hphase hfull hgood
    rw [htolls] at hend
    exact ⟨_, congrArg Host.Outcome.next hend, ⟨rfl, rfl, rfl, rfl⟩, rfl, rfl⟩
  case early => exact congrArg Host.Outcome.next (reliefSettles_of_not_reached hphase h)
  case settled =>
    have hend := reliefSettles_of_reached hphase h
    cases goal with
    | referee => exact congrArg Host.Outcome.next hend
    | witness k => exact congrArg Host.Outcome.next hend
    | calibration => exact congrArg Host.Outcome.next hend
    | retirement => exact ⟨_, congrArg Host.Outcome.next hend, rfl, rfl, rfl, rfl⟩

end

/-! ## The end of a calibration, and the request for the next one (04_converters R88, R90; 05_calibration R108 to R113) -/

section

open Sys2Proof Sys2Proof.Machine

namespace Sys2Proof.Machine

variable {s : State}

/-- Words that come into force change the words in force alone (R379). -/
theorem State.bringIntoForce_eq (s : State) (ns : List Nat) :
    s.bringIntoForce ns = { s with force := (s.bringIntoForce ns).force } := by
  induction ns generalizing s with
  | nil => rfl
  | cons n ns ih => exact ih (s.setForce n (s.lastWritten n) (BitVec.allOnes 32))

/-- What the end of a calibration leaves of it (R108, R109): no coefficient in force changes, and a step that is due stays due. -/
structure Cal.EndedAs (c d : Cal) : Prop where
  full : d.full = c.full
  lean : d.lean = c.lean
  slice : d.slice = none
  stepDue : d.stepDue = c.stepDue
  residuals : d.residuals = c.residuals

/-- A calibration ends: one referee window follows (R113). -/
theorem State.endCal_eq (s : State) : ∃ cal, s.endCal = { s with cal := cal, conv := { s.conv with
    target := s.conv.refNext, phase := .settling .referee s.settledAt } } ∧ s.cal.EndedAs cal := by
  unfold State.endCal
  dsimp only
  split_ifs <;> exact ⟨_, rfl, rfl, rfl, rfl, rfl, rfl⟩

/-- CAL_QUALITY at a handback changes its own words, and may use a free value (R118). -/
theorem State.renewQuality_eq (s : State) : ∃ spur skewRms free,
    s.renewQuality = { s with cal := { s.cal with spur := spur, skewRms := skewRms }, free := free } := by
  unfold State.renewQuality
  dsimp only
  split
  · exact ⟨_, _, _, rfl⟩
  · split <;> exact ⟨_, _, _, rfl⟩

/-- The relief slice hands back (R108, R109). -/
theorem State.handBack_renewQuality (s : State) : ∃ cal conv free,
    s.renewQuality.handBack = { s with cal := cal, conv := conv, free := free } ∧ s.cal.EndedAs cal ∧
      conv.handover = some none := by
  obtain ⟨spur, skewRms, free, hquality⟩ := s.renewQuality_eq
  rw [hquality]
  obtain ⟨cal, hend, hfull, hlean, hslice, hstep, hres⟩ := State.endCal_eq { s with
    cal := { s.cal with spur := spur, skewRms := skewRms }, free := free, conv := { s.conv with handover := some none } }
  exact ⟨cal, _, free, hend, ⟨hfull, hlean, hslice, hstep, hres⟩, rfl⟩

section Verification

variable {k : Fin 17} {c : Coef} (hslice : s.cal.slice = some k) (hcand : s.cal.candidate = some c)
  (hphase : s.conv.phase = .verify) (hfull : s.conv.windowFull = true) (r : Rat × Rat)

/-- The verification's residuals are the target's (R118). -/
def State.verified (s : State) (r : Rat × Rat) : Cal :=
  let o : Rat := (s.conv.winDiff : Rat) / (s.conv.winLen : Rat)
  { s.cal with residuals := s.cal.residuals.set s.conv.target.val (o, r.1, r.2) s.conv.target.isLt }

include hslice hcand hphase hfull

/-- A good verification makes the step due, and the relief slice hands back (R108). -/
theorem calVerifyEnd_good (hgood : s.conv.windowSuspect = false) : calVerifyEnd r s =
    ({ s with cal := { s.verified r with
      stepDue := some (s.power.regime == .lean, k, c) } } : State).renewQuality.handBack := by
  rw [calVerifyEnd, hphase, hslice]
  refine (if_neg (by simp [hfull])).trans ?_
  rw [hcand]
  exact if_neg (by simp [hgood])

/-- A bad verification discards the candidate, with toll 24 and attention, and the old coefficients settle (R109). -/
theorem calVerifyEnd_bad (hbad : s.conv.windowSuspect = true) : calVerifyEnd r s = { s with
    cal := { s.verified r with candidate := none }
    conv := { s.conv with phase := .restoring (s.now + 256 * 32), refNext := s.conv.target }
    tollDue := (s.toll 24).tollDue, status := (s.attention 1).status, ev := (s.attention 1).ev } := by
  rw [calVerifyEnd, hphase, hslice]
  refine (if_neg (by simp [hfull])).trans ?_
  rw [hcand]
  exact (if_pos hbad).trans (congrArg (fun u : State => { u with
    cal := { u.cal with candidate := none }
    conv := { u.conv with phase := .restoring (u.now + settleMites), refNext := s.conv.target } })
    (State.attention_eq (s := s) (t := { s with cal := s.verified r }.toll 24) rfl rfl 1))

end Verification

/-- The relief slice hands back when the old coefficients have settled (R109). -/
theorem calRestoreSettled_of_reached {due : Nat} (hphase : s.conv.phase = .restoring due) (h : due < s.now + s.tickLen) :
    calRestoreSettled s = s.renewQuality.handBack := by
  simp only [calRestoreSettled, hphase, State.reached_iff.mpr h, if_true]

section SelfCalibration

variable {due : Nat} {s1 : State} (hphase : s.conv.phase = .selfCal due) (h : due < s.now + s.tickLen)
  (hs1 : s.bringIntoForce limitWords = s1) (cand : Coef) (v : Vector Int 16)

include hphase h hs1

/-- The relief slice's own candidate is rejected, with toll 25 (R112). -/
theorem reliefSelfCalEnd_rejected (hbad : s1.acceptsBody (s1.measured cand) (s1.coefs)[16] = false) :
    reliefSelfCalEnd cand v s = ((s1.toll 25).attention 1).endCal := by
  simp only [reliefSelfCalEnd, hphase, State.reached_iff.mpr h, hs1, Bool.not_true, Bool.false_eq_true, if_false]
  exact if_neg (by simp [hbad])

/-- The relief slice's own candidate is accepted, and its step is due (R112). -/
theorem reliefSelfCalEnd_accepted (hbody : s1.acceptsBody (s1.measured cand) (s1.coefs)[16] = true)
    (hskew : ∀ p : Fin 16, s1.acceptsSkew (s1.referSkew v[p]) s1.reliefSkews[p] = true) :
    ∃ skews, reliefSelfCalEnd cand v s = ({ s1 with cal := { s1.cal with
      stepDue := some (s1.power.regime == .lean, 16, s1.measured cand), reliefDue := some skews } } : State).endCal := by
  simp only [reliefSelfCalEnd, hphase, State.reached_iff.mpr h, hs1, Bool.not_true, Bool.false_eq_true, if_false]
  exact ⟨_, if_pos (by simp [hbody]; intro p; exact .inr (hskew p))⟩

end SelfCalibration

theorem calIntervalExpiry_of_not_reached
    (h : s.now + s.tickLen ≤ s.cal.startAt + s.val F.CAL_INTERVAL_INT * msMites) : calIntervalExpiry s = s :=
  if_pos (by simp [State.not_reached_iff.mpr h])

theorem calIntervalExpiry_of_reached (hmode : s.calMode = 1)
    (h : s.cal.startAt + s.val F.CAL_INTERVAL_INT * msMites < s.now + s.tickLen) : calIntervalExpiry s = s.askCal :=
  if_neg (by simp [State.reached_iff.mpr h, hmode])

/-- The relief slice's own calibration begins at once (R90, R112). -/
theorem State.beginCal_selfCal (hdeg : s.conv.degraded = false) (hnext : s.selfCalNext = true) :
    ∃ cal force due, s.beginCal = { s with
      cal := cal, force := force, conv := { s.conv with phase := .selfCal due } } ∧
        cal.slice = some 16 ∧ cal.startAt = s.now ∧ cal.request = false := by
  let u : State := { s with cal := { s.cal with request := false } }
  have hpick : u.calPick u.cal.next.val = some 16 := beq_iff_eq.mp hnext
  have hsome : (u.calPick u.cal.next.val).isNone ≠ true := by rw [hpick]; decide
  let w : State := u.bringIntoForce [R.CAL_DWELL.base]
  have hbegin : s.beginCal = { w with
      cal := { w.cal with
        slice := some 16, next := 16, startAt := w.now, candidate := none, zeroSum := 0, zeroCount := 0 }
      conv := { w.conv with phase := .selfCal (w.now + w.selfCalMites) } } := by
    refine (if_neg (Bool.eq_false_iff.mp hdeg)).trans ?_
    rw [if_neg hsome, hpick]
    rfl
  exact ⟨_, _, _, hbegin, rfl, rfl, rfl⟩

theorem State.askCal_eq_self (h : s.conv.degraded = true ∨ s.conv.phase = .idle) : s.askCal = s := by
  cases hdeg : s.conv.degraded
  case true => exact if_pos hdeg
  case false =>
    have hphase : s.conv.phase = .idle := h.resolve_left (by simp [hdeg])
    simp [State.askCal, hdeg, hphase]

/-- The limits come into force with a check; what the relief slice's own calibration is judged against is as it was. -/
theorem State.bringIntoForce_limits {s1 : State} (hs1 : s.bringIntoForce limitWords = s1) : s1.coefs = s.coefs ∧
    s1.reliefSkews = s.reliefSkews ∧ s1.cal = s.cal ∧ s1.power = s.power ∧ s1.tollDue = s.tollDue := by
  rw [← hs1, State.bringIntoForce_eq]
  exact ⟨rfl, rfl, rfl, rfl, rfl⟩

end Sys2Proof.Machine

/-- Settles O28: the two outcomes of a verification, the return of the old coefficients, the two outcomes of the relief slice's
own calibration; then what the interval's end asks for, by what the relief slice does. -/
theorem calibrationEndsAndIsAskedFor : Obligations.CalibrationEndsAndIsAskedFor := by
  unfold Obligations.CalibrationEndsAndIsAskedFor
  refine ⟨fun s => ⟨fun k c r hslice hcand hphase hfull => ⟨fun hgood => ?verified, fun hbad => ?discarded⟩,
    fun due hphase h => ?restored, fun due cand v hphase h => ⟨fun hbad => ?rejected, fun hbody hskew => ?accepted⟩⟩,
    fun s hmode => ⟨fun h => ?early, fun h => ⟨fun hdeg => ?degraded, fun hdeg hphase => ?verifying, fun hdeg hphase => ?idle,
      fun hdeg hphase hnext => ?waits, fun hdeg hphase hnext => ?begins⟩⟩⟩
  case verified =>
    have hend := calVerifyEnd_good hslice hcand hphase hfull r hgood
    obtain ⟨cal, conv, free, hback, hended, hhandover⟩ := State.handBack_renewQuality { s with
      cal := { s.verified r with stepDue := some (s.power.regime == .lean, k, c) } }
    rw [hback] at hend
    have hres : cal.residuals[s.conv.target] = ((s.conv.winDiff : Rat) / (s.conv.winLen : Rat), r.1, r.2) := by
      rw [hended.residuals]
      exact Vector.getElem_set_self _
    exact ⟨_, congrArg Host.Outcome.next hend, ⟨hended.full, hended.lean, hended.slice⟩, hended.stepDue, hhandover, rfl,
      hres⟩
  case discarded =>
    have hend := calVerifyEnd_bad hslice hcand hphase hfull r hbad
    exact ⟨_, congrArg Host.Outcome.next hend, rfl, rfl, rfl, rfl, rfl, rfl, rfl⟩
  case restored =>
    have hend := calRestoreSettled_of_reached hphase h
    obtain ⟨cal, conv, free, hback, hended, hhandover⟩ := s.handBack_renewQuality
    rw [hback] at hend
    exact ⟨_, congrArg Host.Outcome.next hend, ⟨hended.full, hended.lean, hended.slice⟩, hended.stepDue, hhandover, rfl⟩
  case rejected =>
    obtain ⟨hcoefs, -, hcal, -, htolls⟩ := s.bringIntoForce_limits rfl
    have hend := reliefSelfCalEnd_rejected hphase h rfl cand v (by rw [hcoefs]; exact hbad)
    obtain ⟨cal, hcalEnd, hended⟩ := State.endCal_eq (((s.bringIntoForce limitWords).toll 25).attention 1)
    rw [State.attention_cal, State.toll_cal, hcal] at hended
    refine ⟨_, congrArg Host.Outcome.next (hend.trans hcalEnd), ⟨hended.full, hended.lean, hended.slice⟩,
      hended.stepDue, ?_⟩
    rw [State.attention_tollDue, State.toll_tollDue, htolls]
    rfl
  case accepted =>
    obtain ⟨hcoefs, hskews, hcal, hpower, htolls⟩ := s.bringIntoForce_limits rfl
    obtain ⟨skews, hend⟩ := reliefSelfCalEnd_accepted hphase h rfl cand v (by rw [hcoefs]; exact hbody)
      (by rw [hskews]; exact hskew)
    rw [hcal, hpower] at hend
    obtain ⟨cal, hcalEnd, hended⟩ := State.endCal_eq { s.bringIntoForce limitWords with cal := { s.cal with
      stepDue := some (s.power.regime == .lean, 16, (s.bringIntoForce limitWords).measured cand), reliefDue := some skews } }
    exact ⟨_, congrArg Host.Outcome.next (hend.trans hcalEnd), ⟨hended.full, hended.lean, hended.slice⟩,
      hended.stepDue, htolls⟩
  case early => exact congrArg Host.Outcome.next (calIntervalExpiry_of_not_reached h)
  case degraded =>
    exact congrArg Host.Outcome.next ((calIntervalExpiry_of_reached hmode h).trans (State.askCal_eq_self (.inl hdeg)))
  case idle =>
    exact congrArg Host.Outcome.next ((calIntervalExpiry_of_reached hmode h).trans (State.askCal_eq_self (.inr hphase)))
  case verifying =>
    refine congrArg Host.Outcome.next ((calIntervalExpiry_of_reached hmode h).trans ?_)
    rw [State.askCal, if_neg (Bool.eq_false_iff.mp hdeg), hphase]
  case waits =>
    refine congrArg Host.Outcome.next ((calIntervalExpiry_of_reached hmode h).trans ?_)
    rw [State.askCal, if_neg (Bool.eq_false_iff.mp hdeg), hphase]
    exact if_neg (Bool.eq_false_iff.mp hnext)
  case begins =>
    obtain ⟨cal, force, due, hbegin, hslice, hstart, hrequest⟩ := State.beginCal_selfCal hdeg hnext
    have hask : s.askCal = s.beginCal := by
      rw [State.askCal, if_neg (Bool.eq_false_iff.mp hdeg), hphase]
      exact if_pos hnext
    exact ⟨_, due, congrArg Host.Outcome.next ((calIntervalExpiry_of_reached hmode h).trans (hask.trans hbegin)), rfl,
      hslice, hstart, hrequest, rfl, rfl⟩

end

/-! ## The ends of the auxiliary converter's conversions (04_converters R91 to R99; 05_calibration R119) -/

section

open Sys2Proof Sys2Proof.Machine

namespace Sys2Proof.Machine

variable {s : State}

/-! A result that reaches the tally leaves the auxiliary converter alone (R35, R36). -/

@[simp] theorem State.untollAll_aux (s : State) (l : List Nat) : (s.untollAll l).aux = s.aux := by
  induction l generalizing s with
  | nil => rfl
  | cons i l ih => exact ih (s.untoll i)

@[simp] theorem State.edgeWins_aux (s : State) (p : Fin 4) : (s.edgeWins p).aux = s.aux := by
  unfold State.edgeWins
  split
  · split
    · exact s.untollAll_aux _
    · rfl
  · rfl

@[simp] theorem State.pushMeas_aux (s : State) (p : Fin 4) (stamp : Rat) : (s.pushMeas p stamp).aux = s.aux :=
  s.edgeWins_aux p

@[simp] theorem State.tollIf_aux (s : State) (c : Bool) (i : Nat) : (s.tollIf c i).aux = s.aux := by
  cases c <;> rfl

@[simp] theorem State.mainsSample_aux (s : State) (p : Fin 4) (v : Int) (stamp : Nat) :
    (s.mainsSample p v stamp).aux = s.aux := by
  simp [State.mainsSample, apply_ite State.aux]

@[simp] theorem State.sincosPair_aux (s : State) (p : Fin 4) (sine cosine : Int) (stamp : Nat) :
    (s.sincosPair p sine cosine stamp).aux = s.aux := by
  cases h : (s.tally.ports[p.val]).phase <;> simp [State.sincosPair, h]

@[simp] theorem State.sincosSample_aux (s : State) (p : Fin 4) (i chan : Nat) (v : Int) (stamp : Nat) :
    (s.sincosSample p i chan v stamp).aux = s.aux := by
  unfold State.sincosSample
  split
  · simp [apply_ite State.aux]
  · simp

/-- Steps that keep a part of the state keep it along a list. -/
theorem foldl_keeps {α β γ : Type} (g : β → γ) {f : β → α → β} (hf : ∀ t x, g (f t x) = g t) (l : List α) (t : β) :
    g (l.foldl f t) = g t :=
  (List.foldl_hom g (g₂ := fun c _ => c) fun t x => (hf t x).symm).symm.trans (List.foldl_fixed l)

@[simp] theorem State.tallyAuxSample_aux (s : State) (entry : Option Nat) (chan : Nat) (v : Int) (stamp : Nat) :
    (s.tallyAuxSample entry chan v stamp).aux = s.aux := by
  refine foldl_keeps State.aux (fun t p => ?_) _ _
  split
  · rfl
  · split
    · split <;> simp
    · split
      · split <;> simp
      · rfl
    · rfl

/-- While the tally is stopped, no result reaches it. -/
theorem State.tallyAuxSample_of_stopped (h : s.tally.mode = .stopped) (entry : Option Nat) (chan : Nat) (v : Int) (stamp : Nat) :
    s.tallyAuxSample entry chan v stamp = s := by
  have htracked (p : Fin 4) : s.portTracked p = false := by simp [State.portTracked, h]
  unfold State.tallyAuxSample
  refine List.foldl_fixed' (fun p => ?_) _
  rw [htracked p]
  rfl

/-! The comparators (R99). -/

@[simp] theorem State.watchResult_results (s : State) (k : Fin 8) (chan : Nat) (v : Int) :
    (s.watchResult k chan v).aux.results = s.aux.results := by
  simp [State.watchResult, apply_ite State.aux, apply_ite Auxiliary.results]

theorem State.watchResult_of_disabled {k : Fin 8} (h : s.flag F.AUX_WATCH_EN k = false) (chan : Nat) (v : Int) :
    s.watchResult k chan v = s := if_pos (by simp [h])

/-- The results with that of channel `chan` replaced and counted (R98). -/
def State.replaced (s : State) (chan : Nat) (raw : Int) : Vector AuxResult 35 :=
  if h : chan < 35 then s.aux.results.set chan
    ⟨(s.auxCorrect chan raw % 65536).toNat, (s.aux.results[chan].count + 1) % 256, true⟩ h else s.aux.results

/-- A result replaces its channel's and is counted, whatever it brings about (R98). -/
theorem State.auxResult_results (s : State) (entry : Option Nat) (chan : Nat) (raw : Int) (stamp : Nat) :
    (s.auxResult entry chan raw stamp).aux.results = s.replaced chan raw := by
  unfold State.auxResult
  rw [State.tallyAuxSample_aux]
  exact foldl_keeps (fun t : State => t.aux.results) (fun t k => t.watchResult_results k _ _) _ _

/-- With no comparator enabled and the tally stopped, a result reaches the power manager alone (R92, R96, R98). -/
theorem State.auxResult_eq (hwatch : ∀ k : Fin 8, s.flag F.AUX_WATCH_EN k = false) (htally : s.tally.mode = .stopped)
    (entry : Option Nat) (chan : Nat) (raw : Int) (stamp : Nat) : s.auxResult entry chan raw stamp = { s with
      aux := { s.aux with results := s.replaced chan raw }
      power := s.power.reads s.now chan (s.auxCorrect chan raw) } := by
  let t : State := { s with
    aux := { s.aux with results := s.replaced chan raw }
    power := s.power.reads s.now chan (s.auxCorrect chan raw) }
  have hfold : (List.finRange 8).foldl (fun u k => u.watchResult k chan (s.auxCorrect chan raw)) t = t :=
    List.foldl_fixed' (fun k => State.watchResult_of_disabled (s := t) (hwatch k) chan _) _
  have hresult : s.auxResult entry chan raw stamp = t.tallyAuxSample entry chan _ stamp :=
    congrArg (fun u : State => u.tallyAuxSample entry chan
      (if u.auxSigned chan then s.auxCorrect chan raw else s.auxCorrect chan raw - 32768) stamp) hfold
  exact hresult.trans (State.tallyAuxSample_of_stopped (s := t) htally ..)

/-! What the power manager reads (R92). -/

section Reads

variable (p : Power) (now chan : Nat) (v : Int)

theorem Power.reads_external (h : chan < 0x10) : p.reads now chan v = p := by
  rw [Power.reads, dif_neg (by omega), dif_neg (by omega)]

theorem Power.reads_else :
    { p.reads now chan v with temps := p.temps, readings := p.readings } = p := by
  unfold Power.reads
  split_ifs <;> rfl

theorem Power.reads_temps (j : Fin 12) :
    (p.reads now chan v).temps[j] = if chan = 0x10 + j then some v else p.temps[j] := by
  by_cases hs : 0x10 ≤ chan ∧ chan < 0x1C
  · rw [Power.reads, dif_pos hs, Fin.getElem_fin, Vector.getElem_set]
    exact if_congr (by omega) rfl rfl
  · have htemps : (p.reads now chan v).temps = p.temps := by
      rw [Power.reads, dif_neg hs]
      split_ifs <;> rfl
    rw [htemps, if_neg (by omega)]

theorem Power.reads_readings (j : Fin 7) :
    (p.reads now chan v).readings[j] = if chan = 0x1C + j then some (now, v.toNat) else p.readings[j] := by
  by_cases hm : 0x1C ≤ chan ∧ chan < 0x23
  · rw [Power.reads, dif_neg (by omega), dif_pos hm, Fin.getElem_fin, Vector.getElem_set]
    exact if_congr (by omega) rfl rfl
  · have hreadings : (p.reads now chan v).readings = p.readings := by
      unfold Power.reads
      split_ifs <;> rfl
    rw [hreadings, if_neg (by omega)]

end Reads

/-! The choice of the next conversion (R94 to R96, R119, R120). -/

/-- The results and the fragments that are done are no part of what the next conversion is. -/
structure State.SameResults (s t : State) : Prop where
  results : t.aux.results = s.aux.results
  calFrag : t.aux.calFrag = s.aux.calFrag

theorem State.beginConv_sameResults (s : State) (job : AuxJob) (chan : Nat) : s.SameResults (s.beginConv job chan) := by
  unfold State.beginConv
  dsimp only
  split
  · split <;> exact ⟨rfl, rfl⟩
  · exact ⟨rfl, rfl⟩

theorem State.warmUp_sameResults (s : State) : s.SameResults s.warmUp := by
  unfold State.warmUp
  split <;> exact ⟨rfl, rfl⟩

theorem State.chooseConv_sameResults (s : State) : s.SameResults s.chooseConv := by
  unfold State.chooseConv
  split
  · split
    · exact s.beginConv_sameResults _ _
    · exact s.warmUp_sameResults
  · split
    · split
      · obtain ⟨hresults, hfrag⟩ := s.beginConv_sameResults .fragment 0
        exact ⟨hresults, hfrag⟩
      · exact s.beginConv_sameResults _ _
    · split
      · split
        · exact s.beginConv_sameResults _ _
        · exact s.warmUp_sameResults
      · dsimp only
        split <;> split <;> exact ⟨rfl, rfl⟩

theorem Auxiliary.firstPending_of_nil {a : Auxiliary} (h : a.pending = []) : a.firstPending = none := by
  simp [Auxiliary.firstPending, h]

/-- With nothing to convert, the converter keeps warm or powers down (R95). -/
theorem State.chooseConv_idle (hpending : s.aux.pending = []) (hentry : s.aux.entry = none) (hcal : s.aux.calActive = false) :
    ∃ powered downAt ev, s.chooseConv = { s with aux := { s.aux with powered := powered, downAt := downAt }, ev := ev } := by
  have hfits : s.fragmentFits ≠ true := by simp [State.fragmentFits, hcal]
  rw [State.chooseConv, Auxiliary.firstPending_of_nil hpending, hentry]
  simp only [if_neg hfits]
  split <;> split <;> exact ⟨_, _, _, rfl⟩

/-! The end of a conversion (R91, R98). -/

/-- A conversion has ended. -/
def State.convEnded (s : State) : State := s.modAux fun a => { a with conv := none, sinceFrag := a.sinceFrag + 1 }

theorem State.convEnded_replaced (s : State) (chan : Nat) (raw : Int) : s.convEnded.replaced chan raw = s.replaced chan raw := rfl

section Conversion

variable {c : AuxConv} (hconv : s.aux.conv = some c) (raw : Int)

include hconv

theorem auxConversionEnd_of_not_reached (h : s.now + s.tickLen ≤ c.start + auxConvMites) : auxConversionEnd raw s = s := by
  rw [auxConversionEnd, hconv]
  exact if_pos (by simp [State.not_reached_iff.mpr h])

variable (h : c.start + auxConvMites < s.now + s.tickLen)

include h

/-- A fragment of the converter's own calibration has ended (R119). -/
theorem auxConversionEnd_fragment (hjob : c.job = .fragment) : auxConversionEnd raw s =
    (s.convEnded.modAux fun a => { a with calFrag := a.calFrag + 1, sinceFrag := 0 }).chooseConv := by
  rw [auxConversionEnd, hconv]
  refine (if_neg (by simp [State.reached_iff.mpr h])).trans ?_
  rw [hjob]
  rfl

/-- Any other conversion gives its channel a result. -/
theorem auxConversionEnd_results (hjob : c.job ≠ .fragment) : (auxConversionEnd raw s).aux.results = s.replaced c.chan raw := by
  rw [auxConversionEnd, hconv]
  dsimp only
  rw [if_neg (by simp [State.reached_iff.mpr h]), (State.chooseConv_sameResults _).results]
  have hended : s.modAux (fun a => { a with conv := none, sinceFrag := a.sinceFrag + 1 }) = s.convEnded := rfl
  rw [← s.convEnded_replaced, hended]
  split
  case h_1 hf => exact absurd hf hjob
  case h_2 => exact State.auxResult_results ..
  case h_3 => exact State.auxResult_results ..
  case h_4 i _ =>
    have hresults := s.convEnded.auxResult_results none c.chan raw (c.start + auxAcqMites)
    split
    · split
      · split <;> simpa only [State.modAux_aux] using hresults
      · exact hresults
    · exact hresults

/-- An injected conversion of a trigger or a firing has ended (R96, R98). -/
theorem auxConversionEnd_injected {i : Fin 19} (hjob : c.job = .injected i) (hi : i.val < 18) : auxConversionEnd raw s =
    (s.convEnded.auxResult none c.chan raw (c.start + auxAcqMites)).chooseConv := by
  rw [auxConversionEnd, hconv]
  refine (if_neg (by simp [State.reached_iff.mpr h])).trans ?_
  rw [hjob]
  exact congrArg State.chooseConv (if_neg hi.ne)

end Conversion

end Sys2Proof.Machine

/-- Settles O29: a conversion that has not ended, a fragment, and a result by what it is of. -/
theorem auxConversionsEnd : Obligations.AuxConversionsEnd := by
  unfold Obligations.AuxConversionsEnd
  refine fun s c raw hconv => ⟨fun h => ?early, fun h hjob => ?fragment, fun hchan h hjob => ⟨?result,
    fun i hinj hi hpending hentry hcal hwatch htally => ?injected⟩⟩
  case early => exact congrArg Host.Outcome.next (auxConversionEnd_of_not_reached hconv raw h)
  case fragment =>
    have hsame := State.chooseConv_sameResults (s.convEnded.modAux fun a => { a with calFrag := a.calFrag + 1, sinceFrag := 0 })
    exact ⟨_, congrArg Host.Outcome.next (auxConversionEnd_fragment hconv raw h hjob), hsame.results, hsame.calFrag⟩
  case result =>
    exact ⟨_, rfl, (auxConversionEnd_results hconv raw h hjob).trans (dif_pos hchan), (auxConversionEnd_calm raw s).chron⟩
  case injected =>
    have hend := auxConversionEnd_injected hconv raw h hinj hi
    rw [State.auxResult_eq (s := s.convEnded) hwatch htally] at hend
    obtain ⟨powered, downAt, ev, hidle⟩ := State.chooseConv_idle (s := { s.convEnded with
      aux := { s.convEnded.aux with results := s.replaced c.chan raw }
      power := s.power.reads s.now c.chan (s.auxCorrect c.chan raw) }) hpending hentry hcal
    exact ⟨_, congrArg Host.Outcome.next (hend.trans hidle), rfl, rfl, dif_pos hchan, s.power.reads_else ..,
      s.power.reads_external s.now c.chan _, s.power.reads_temps s.now c.chan _, s.power.reads_readings s.now c.chan _⟩

end

/-! ## What asks the auxiliary converter for conversions (04_converters R94 to R96; 05_calibration R120, R122) -/

section

open Sys2Proof Sys2Proof.Machine

namespace Sys2Proof.Machine

variable {s : State}

/-! Conversions that begin (R91, R94, R96). -/

theorem Auxiliary.firstPending_of_singleton {a : Auxiliary} {i : Fin 19} (h : a.pending = [i]) : a.firstPending = some i := by
  have honly : ∀ i : Fin 19, (List.finRange 19).find? (fun j => [i].contains j) = some i := by decide
  rw [Auxiliary.firstPending, h]
  exact honly i

/-- An injected conversion begins, and its request waits no longer (R96). -/
theorem State.beginConv_injected {i : Fin 19} (hpending : s.aux.pending = [i]) (hdropped : i ∉ s.ev.auxDropped) (chan : Nat) :
    s.beginConv (.injected i) chan = { s with aux := { s.aux with
      conv := some ⟨.injected i, chan, s.now⟩, warmAt := none, powered := true, pending := [] } } := by
  have herase : s.aux.pending.erase i = [] := by simp [hpending]
  rw [← herase]
  exact if_neg (by simpa using hdropped)

/-- The one request that waits begins its conversion where the converter is powered (R96). -/
theorem State.chooseConv_injected {i : Fin 19} (hi : i.val < 18) (hpending : s.aux.pending = [i])
    (hpowered : s.aux.powered = true) (hdropped : i ∉ s.ev.auxDropped) : s.chooseConv = { s with aux := { s.aux with
      conv := some ⟨.injected i, s.val F.AUX_INJ_CHAN i.val, s.now⟩, warmAt := none, powered := true, pending := [] } } := by
  have hchan : s.injectChan i = s.val F.AUX_INJ_CHAN i.val := if_pos hi
  rw [State.chooseConv, Auxiliary.firstPending_of_singleton hpending, ← hchan, ← State.beginConv_injected hpending hdropped]
  exact if_pos hpowered

/-- With nothing else asked for, the next entry of the regular sequence begins (R94). -/
theorem State.chooseConv_entry {e : Nat} (hpending : s.aux.pending = []) (hentry : s.aux.entry = some e)
    (hcal : s.aux.calActive = false) : s.chooseConv = { s with aux := { s.aux with
      conv := some ⟨.entry e, s.val F.AUX_SEQ_CHAN e, s.now⟩, warmAt := none, powered := true } } := by
  rw [State.chooseConv, Auxiliary.firstPending_of_nil hpending, hentry]
  exact if_neg (by simp [State.fragmentInserts, hcal])

/-! Requests (R96). -/

section Requests

variable {i : Fin 19}

/-- A conversion that began before the present tick does not give way. -/
theorem State.yieldConv_eq_self (h : ∀ c, s.aux.conv = some c → c.start ≠ s.now) : s.yieldConv i = s := by
  unfold State.yieldConv
  split
  case h_1 c hconv => exact if_pos (bne_iff_ne.mpr (h c hconv))
  case h_2 => rfl

/-- A regular conversion that began in the present tick gives way to a request (R96). -/
theorem State.yieldConv_entry {c : AuxConv} {e : Nat} (hconv : s.aux.conv = some c) (hstart : c.start = s.now)
    (hjob : c.job = .entry e) : s.yieldConv i = { s with aux := { s.aux with conv := none } } := by
  rw [State.yieldConv, hconv]
  refine (if_neg (by simp [hstart])).trans ?_
  rw [hjob]
  rfl

/-- The request of a source that waits already is dropped, with toll 20. -/
theorem State.injectRequest_dropped (h : i ∈ s.aux.pending) : s.injectRequest i =
    { s.toll 20 with ev := { s.ev with auxDropped := i :: s.ev.auxDropped } } := if_pos (by simpa using h)

/-- A request as it is registered: it waits, and it beats the power-down of its tick. -/
def State.withRequest (s : State) (i : Fin 19) : State := s.modAux fun a => { a with
  pending := a.pending ++ [i], powered := a.powered || s.ev.auxDown }

theorem State.injectRequest_of_not_pending (h : i ∉ s.aux.pending) : s.injectRequest i =
    if ((s.withRequest i).yieldConv i).aux.conv.isSome || ((s.withRequest i).yieldConv i).aux.warmAt.isSome
    then (s.withRequest i).yieldConv i else ((s.withRequest i).yieldConv i).chooseConv := if_neg (by simpa using h)

/-- A request waits while a conversion runs. -/
theorem State.injectRequest_busy (h : i ∉ s.aux.pending) (hconv : s.aux.conv.isSome = true)
    (hbefore : ∀ c, s.aux.conv = some c → c.start ≠ s.now) : s.injectRequest i = s.withRequest i := by
  have hyield : (s.withRequest i).yieldConv i = s.withRequest i := State.yieldConv_eq_self hbefore
  rw [State.injectRequest_of_not_pending h, hyield]
  exact if_pos (Bool.or_eq_true_iff.mpr (.inl hconv))

/-- A request's conversion begins at once where the converter is idle, or the regular conversion of the tick gives way. -/
theorem State.injectRequest_free (hi : i.val < 18) (hpending : s.aux.pending = [])
    (hfree : s.aux.conv = none ∨ ∃ c e, s.aux.conv = some c ∧ c.start = s.now ∧ c.job = .entry e)
    (hwarm : s.aux.warmAt = none) (hpowered : (s.aux.powered || s.ev.auxDown) = true) (hdropped : i ∉ s.ev.auxDropped) :
    s.injectRequest i = { s with aux := { s.aux with
      conv := some ⟨.injected i, s.val F.AUX_INJ_CHAN i.val, s.now⟩, powered := true } } := by
  let t : State := { s.withRequest i with aux := { (s.withRequest i).aux with conv := none } }
  have hyield : (s.withRequest i).yieldConv i = t := by
    obtain hnone | ⟨c, e, hconv, hstart, hjob⟩ := hfree
    · have hkept : (s.withRequest i).yieldConv i = s.withRequest i :=
        State.yieldConv_eq_self fun c hc => absurd (hnone.symm.trans hc) nofun
      have hidle : (s.withRequest i).aux.conv = none := hnone
      simp only [t, hkept, ← hidle]
    · exact State.yieldConv_entry hconv hstart hjob
  have hstill : (t.aux.conv.isSome || t.aux.warmAt.isSome) ≠ true := by simp [t, State.withRequest, hwarm]
  have hchoose : t.chooseConv = _ := State.chooseConv_injected hi (by simp [t, State.withRequest, hpending]) hpowered hdropped
  rw [State.injectRequest_of_not_pending (by simp [hpending]), hyield, if_neg hstill, hchoose]
  simp only [← hpending, ← hwarm]
  rfl

theorem State.requestIfEnabled_of_enabled (h : s.flag F.AUX_INJ_EN i.val = true) : s.requestIfEnabled i = s.injectRequest i :=
  if_neg (by simp [h])

theorem State.requestIfEnabled_of_disabled (hi : i.val < 18) (h : s.flag F.AUX_INJ_EN i.val = false) : s.requestIfEnabled i = s :=
  if_pos (by simp [h, hi])

theorem auxInject_of_not_asked (h : i ∉ s.aux.asked) : auxInject i s = s := if_neg (by simpa using h)

/-- The request that a trigger or a firing owes is made. -/
def State.askTaken (s : State) (i : Fin 19) : State := s.modAux fun a => { a with asked := a.asked.erase i }

theorem auxInject_of_asked (h : i ∈ s.aux.asked) : auxInject i s = (s.askTaken i).requestIfEnabled i :=
  if_pos (by simpa using h)

end Requests

/-- The Watch timer is set again. -/
def State.timerSet (s : State) : State := s.modAux fun a => { a with
  timerAt := max a.timerAt s.now + s.auxMites (s.val F.AUX_WATCH_PERIOD_WP) }

/-- The Watch timer's request (R96). -/
theorem auxWatchTimer_of_reached (hper : s.val F.AUX_WATCH_PERIOD_WP ≠ 0) (h : s.aux.timerAt < s.now + s.tickLen) :
    auxWatchTimer s = s.timerSet.requestIfEnabled 17 :=
  if_neg (by simp [hper, State.reached_iff.mpr h])

theorem pmRound_eq_self (h : s.aux.round.isSome = true ∨ s.now + s.tickLen ≤ s.aux.roundAt) : pmRound s = s :=
  if_pos (by simpa [State.not_reached_iff] using h)

/-- The power manager's next round is set up. -/
def State.roundBegun (s : State) : State := s.modAux fun a => { a with
  round := some 0x10, roundAt := max a.roundAt s.now + msMites }

/-- The power manager's round begins (R96). -/
theorem pmRound_of_reached (hround : s.aux.round = none) (h : s.aux.roundAt < s.now + s.tickLen) :
    pmRound s = s.roundBegun.injectRequest 18 :=
  if_neg (by simp [hround, State.reached_iff.mpr h])

/-- The converter has woken. -/
def State.warmedUp (s : State) : State := s.modAux fun a => { a with powered := true, warmAt := none }

/-- The start-up delay ends (R95). -/
theorem auxWarmupDone_of_reached {at_ : Nat} (hwarm : s.aux.warmAt = some at_) (h : at_ < s.now + s.tickLen) :
    auxWarmupDone s = s.warmedUp.chooseConv := by
  rw [auxWarmupDone, hwarm]
  exact if_pos (State.reached_iff.mpr h)

/-! The regular sequence (R94, R95). -/

section Sequence

theorem auxPeriodStart_of_not_reached (h : s.now + s.tickLen ≤ s.aux.periodAt) : auxPeriodStart s = s :=
  if_pos (by simp [State.not_reached_iff.mpr h])

/-- The next period start is set. -/
def State.periodSet (s : State) : State := s.modAux fun a => { a with
  periodAt := s.aux.periodAt + s.auxMites (s.val F.AUX_SEQ_PERIOD_PERIOD) }

/-- A period start that comes while no conversion runs (R94). -/
theorem auxPeriodStart_of_idle (hrun : s.running fnAux = true) (hlen : s.val F.AUX_SEQ_LEN_LEN ≠ 0)
    (hper : s.val F.AUX_SEQ_PERIOD_PERIOD ≠ 0) (h : s.aux.periodAt < s.now + s.tickLen) (hconv : s.aux.conv = none) :
    auxPeriodStart s = if s.aux.entry.isSome then s.periodSet.toll 21 else s.periodSet.startSequence s.aux.periodAt := by
  refine (if_neg (by simp [hrun, hlen, hper, State.reached_iff.mpr h])).trans ?_
  simp [State.periodSet, State.modAux, hconv]

variable (hconv : s.aux.conv = none) (due : Nat)

include hconv

/-- The sequence starts at once where the converter is powered or has woken before (R94, R95). -/
theorem State.startSequence_awake (hpending : s.aux.pending = []) (hcal : s.aux.calActive = false)
    (hawake : s.aux.powered = true ∨ max due (s.aux.downAt + auxWarmMites) ≤ s.now) :
    s.startSequence due = { s with aux := { s.aux with
      entry := some 0, powered := true, warmAt := none, conv := some ⟨.entry 0, s.val F.AUX_SEQ_CHAN 0, s.now⟩ } } := by
  refine (if_neg (by simp [State.modAux, hconv])).trans ?_
  by_cases hpowered : s.aux.powered = true
  · exact (if_pos hpowered).trans (State.chooseConv_entry hpending rfl hcal)
  · refine (if_neg hpowered).trans ((if_pos (hawake.resolve_left hpowered)).trans ?_)
    exact State.chooseConv_entry hpending rfl hcal

/-- The sequence waits for a converter that has still to wake (R95). -/
theorem State.startSequence_asleep (hpowered : s.aux.powered = false)
    (hasleep : s.now < max due (s.aux.downAt + auxWarmMites)) :
    s.startSequence due = { s with aux := { s.aux with
      entry := some 0
      warmAt := some (match s.aux.warmAt with
        | some t => min t (max due (s.aux.downAt + auxWarmMites))
        | none => max due (s.aux.downAt + auxWarmMites)) } } := by
  refine (if_neg (by simp [State.modAux, hconv])).trans ((if_neg (Bool.eq_false_iff.mp hpowered)).trans ?_)
  exact if_neg (not_le.mpr hasleep)

end Sequence

/-! The converter's own calibration (05_calibration R120, R122). -/

section Calibration

variable (hper : s.val F.CAL_AUX_PERIOD_PER ≠ 0)
  (h : s.aux.calStart + s.val F.CAL_AUX_PERIOD_PER * msMites < s.now + s.tickLen)

include hper h

/-- A full calibration begins, to take its fragments once the conversion that runs has ended (R120). -/
theorem calAuxPeriod_begins (hidle : s.aux.calActive = false) (hconv : s.aux.conv.isSome = true) :
    calAuxPeriod s = s.modAux fun a =>
      { a with calActive := true, calFrag := 0, calStart := s.now, calLate := false, sinceFrag := 0 } := by
  refine (if_neg (by simp [hper, State.reached_iff.mpr h])).trans ((if_neg (Bool.eq_false_iff.mp hidle)).trans (if_neg ?_))
  obtain ⟨c, hc⟩ := Option.isSome_iff_exists.mp hconv
  simp [State.modAux, hc]

/-- A calibration that is due while the last one runs is late, with toll 27 (R120). -/
theorem calAuxPeriod_late (hactive : s.aux.calActive = true) (hlate : s.aux.calLate = false) :
    calAuxPeriod s = { (s.modAux fun a => { a with calLate := true }).toll 27 with ev := { s.ev with auxLate := true } } :=
  (if_neg (by simp [hper, State.reached_iff.mpr h])).trans ((if_pos hactive).trans (if_neg (Bool.eq_false_iff.mp hlate)))

end Calibration

/-- The offset and the gain that a full calibration has measured lie within their limits (R122). -/
abbrev Auxiliary.accepts (a : Auxiliary) (o : Int) (g : Nat) : Prop :=
  o.natAbs ≤ 512 ∧ (o - a.ofs).natAbs ≤ 16 ∧ 99 * 32768 ≤ g * 100 ∧ g * 100 ≤ 101 * 32768 ∧ ((g : Int) - a.gain).natAbs ≤ 16

/-- A full calibration has ended. -/
def Auxiliary.calibrated (a : Auxiliary) : Auxiliary :=
  { a with calActive := false, calFrag := 0, calRounds := (a.calRounds + 1) % 65536, calLate := false }

/-- The offset and the gain are taken together, or neither (R122). -/
theorem auxCalComplete_eq (hactive : s.aux.calActive = true) (hfrag : s.aux.calFrag = 64) (hlate : s.ev.auxLate = false)
    (o : Int) (g : Nat) : auxCalComplete o g s =
      if s.aux.accepts o g then { s with aux := { s.aux.calibrated with ofs := o, gain := g } }
      else { s with aux := s.aux.calibrated }.toll 28 := by
  refine (if_neg (by simp [hactive, hfrag])).trans ?_
  simp only [hlate, Bool.false_eq_true, if_false]
  refine (if_congr ?_ rfl rfl)
  simp only [Bool.and_eq_true, decide_eq_true_eq, and_assoc]

end Sys2Proof.Machine

/-- Settles O30: the requests of triggers and firings by what the converter does, those of the Watch timer and the power manager,
the start-up delay; then the starts of the sequence and the converter's own calibration. -/
theorem auxRequestsAndPeriods : Obligations.AuxRequestsAndPeriods := by
  unfold Obligations.AuxRequestsAndPeriods
  refine ⟨fun s => ⟨fun i hi => ⟨fun hasked => ?notAsked, fun hasked => ⟨fun hen => ?disabled, fun hen =>
      ⟨fun hwaits => ?dropped, fun hnew ⟨hconv, hbefore⟩ => ?waits, fun hpending hfree hwarm hpowered hdropped => ?atOnce⟩⟩⟩,
    fun ⟨hconv, hbefore⟩ hnew hen hper h => ?timer, fun ⟨hconv, hbefore⟩ hnew hround h => ?round, fun h => ?noRound,
    fun at_ i hwarm h hi hpending hconv hdropped => ?warm⟩, fun s => ⟨fun hrun hlen hper => ⟨fun h => ?early, fun h =>
      ⟨fun hentry hconv => ?missed, fun hentry hconv hpending hcal => ⟨fun hawake => ?starts, fun hpowered hasleep => ?wakes⟩⟩⟩,
    fun hper h => ⟨fun hidle hconv => ?calBegins, fun hactive hlate => ?calLate⟩, fun o g hactive hfrag hlate => ?calEnds⟩⟩
  case notAsked => exact congrArg Host.Outcome.next (auxInject_of_not_asked hasked)
  case disabled =>
    have hskip := State.requestIfEnabled_of_disabled (s := s.askTaken i) hi hen
    exact congrArg Host.Outcome.next ((auxInject_of_asked hasked).trans hskip)
  case dropped =>
    have hrequest := State.requestIfEnabled_of_enabled (s := s.askTaken i) hen
    have hdrop := State.injectRequest_dropped (s := s.askTaken i) hwaits
    exact congrArg Host.Outcome.next ((auxInject_of_asked hasked).trans (hrequest.trans hdrop))
  case waits =>
    have hrequest := State.requestIfEnabled_of_enabled (s := s.askTaken i) hen
    have hwait := State.injectRequest_busy (s := s.askTaken i) hnew hconv hbefore
    exact congrArg Host.Outcome.next ((auxInject_of_asked hasked).trans (hrequest.trans hwait))
  case atOnce =>
    have hrequest := State.requestIfEnabled_of_enabled (s := s.askTaken i) hen
    have hbegin := State.injectRequest_free (s := s.askTaken i) hi hpending hfree hwarm hpowered hdropped
    exact congrArg Host.Outcome.next ((auxInject_of_asked hasked).trans (hrequest.trans hbegin))
  case timer =>
    have hrequest := State.requestIfEnabled_of_enabled (s := s.timerSet) (i := 17) hen
    have hwait := State.injectRequest_busy (s := s.timerSet) hnew hconv hbefore
    exact congrArg Host.Outcome.next ((auxWatchTimer_of_reached hper h).trans (hrequest.trans hwait))
  case round =>
    have hwait := State.injectRequest_busy (s := s.roundBegun) hnew hconv hbefore
    exact congrArg Host.Outcome.next ((pmRound_of_reached hround h).trans hwait)
  case noRound => exact congrArg Host.Outcome.next (pmRound_eq_self h)
  case warm =>
    have hbegin := State.chooseConv_injected (s := s.warmedUp) hi hpending rfl hdropped
    exact congrArg Host.Outcome.next ((auxWarmupDone_of_reached hwarm h).trans hbegin)
  case early => exact congrArg Host.Outcome.next (auxPeriodStart_of_not_reached h)
  case missed =>
    exact congrArg Host.Outcome.next ((auxPeriodStart_of_idle hrun hlen hper h hconv).trans (if_pos hentry))
  case starts =>
    have hstart := auxPeriodStart_of_idle hrun hlen hper h hconv
    rw [if_neg (by simp [hentry])] at hstart
    have hbegin := State.startSequence_awake (s := s.periodSet) hconv s.aux.periodAt hpending hcal hawake
    exact congrArg Host.Outcome.next (hstart.trans hbegin)
  case wakes =>
    have hstart := auxPeriodStart_of_idle hrun hlen hper h hconv
    rw [if_neg (by simp [hentry])] at hstart
    have hwait := State.startSequence_asleep (s := s.periodSet) hconv s.aux.periodAt hpowered hasleep
    exact congrArg Host.Outcome.next (hstart.trans hwait)
  case calBegins => exact congrArg Host.Outcome.next (calAuxPeriod_begins hper h hidle hconv)
  case calLate => exact congrArg Host.Outcome.next (calAuxPeriod_late hper h hactive hlate)
  case calEnds =>
    have hend := auxCalComplete_eq hactive hfrag hlate o g
    exact ⟨fun hok => congrArg Host.Outcome.next (hend.trans (if_pos hok)),
      fun hbad => congrArg Host.Outcome.next (hend.trans (if_neg hbad))⟩

end

/-! ## A Bell armed over words in force that are out of order (07_bell R162, R163, R173) -/

section

open Sys2Proof Sys2Proof.Machine

namespace Sys2Proof.Machine

/-- Stall 0 in HOLD, its holdoff elapsed, one sample waiting. The words in force are not canonical (their keys fall): the
condition word of state 0, which advances at every sample to state 5, stands behind TPOS_LO and reads as its reset value. -/
def hiddenAdvance : State := {
  chron := 6400
  force := [(R.STL_BEL_TPOS_LO.num, 1),
    (R.STL_BEL_S_COND.num, F.STL_BEL_S_COND_ADV.put 1 ||| F.STL_BEL_S_COND_NEXT.put 5)]
  stalls := (Vector.replicate 16 {}).set 0 { bell := { phase := .hold, prev := some {}, obs := [{ num := 1 }] } } }

/-- What HOLDOFF_ELAPSED asks of a Bell in HOLD holds of `hiddenAdvance`. -/
theorem hiddenAdvance_holds : (hiddenAdvance.bell 0).phase = .hold ∧ (hiddenAdvance.bell 0).beginAt = none ∧
    hiddenAdvance.quietSample 0 { num := 1 } false false ∧ (hiddenAdvance.bell 0).holdElapsed { num := 1 } = true ∧
    hiddenAdvance.flag F.STL_BEL_CTRL_PREFILL_WAIT 0 (0 : Fin 16) = false ∧
    hiddenAdvance.val F.STL_BEL_S_COND_ADV 0 (0 : Fin 16) = 0 ∧ hiddenAdvance.val F.STL_BEL_S_COND_RST 0 (0 : Fin 16) = 0 ∧
    hiddenAdvance.word (R.STL_BEL_S_ACT.num 0 (0 : Fin 16)) = 0 := by decide +kernel

/-- TPOS_LO comes into force with its reset value, its entry goes, and the condition behind it is read: the sequence
advances. -/
theorem hiddenAdvance_advances : ((hiddenAdvance.reportBell 0 .armed).bell 0).state = 5 := by decide +kernel

end Sys2Proof.Machine

/-- Refutes O34: the statement asks nothing of the words in force. Where they are not in canonical form (`Sparse.wf`),
bringing the Bell's live words into force at the arming (R173) uncovers a condition word that was not read before, and the
sequence leaves state 0 at the very sample that arms it. -/
theorem not_triggersOpenSegments : ¬ Obligations.TriggersOpenSegments := by
  unfold Obligations.TriggersOpenSegments
  intro h
  obtain ⟨hphase, hbegin, hquiet, helapsed, hprefill, hadv, hrst, hact⟩ := hiddenAdvance_holds
  obtain ⟨-, hhold, -⟩ := h hiddenAdvance 0 { num := 1 } 0
  obtain ⟨t, hexec, -, -, -, -, hstate⟩ := hhold hphase hbegin hquiet helapsed hprefill hadv hrst hact
  have ht : hiddenAdvance.reportBell 0 .armed = t := Host.Outcome.next.inj hexec
  rw [← ht, hiddenAdvance_advances] at hstate
  exact absurd hstate (by decide)

end

/-! ## The steps of a calibration (05_calibration R105 to R108) -/

section

open Sys2Proof Sys2Proof.Machine

namespace Sys2Proof.Machine

variable {s : State} {k : Fin 17} {due : Nat}

section Shadow

variable (hslice : s.cal.slice = some k) (hphase : s.conv.phase = .shadow) (hfull : s.conv.windowFull = true)

include hslice hphase hfull

/-- After a good shadow the relief slice takes the position over, and the slice goes to the tone (R106). -/
theorem calShadowEnd_good (hgood : s.conv.windowSuspect = false) : calShadowEnd s = { s with conv := { s.conv with
    handover := some (some s.conv.target), phase := .tone (s.now + 257 * 32) } } := by
  simp only [calShadowEnd, hphase, hslice, hfull, hgood, Bool.not_true, Bool.false_eq_true, if_false]
  rfl

/-- After a bad shadow the slice is skipped, with toll 22, and its calibration ends (R107). -/
theorem calShadowEnd_bad (hbad : s.conv.windowSuspect = true) : calShadowEnd s =
    (({ s with cal := { s.cal with skipped := s.cal.skipped ++ [k] } } : State).toll 22).endCal := by
  simp only [calShadowEnd, hphase, hslice, hfull, hbad, Bool.not_true, Bool.false_eq_true, if_false, if_true]

end Shadow

/-- A tone that has not settled goes on (R106). -/
theorem calToneSettled_of_not_reached (hphase : s.conv.phase = .tone due) (h : s.now + s.tickLen ≤ due) :
    calToneSettled s = s := by
  simp [calToneSettled, hphase, State.not_reached_iff.mpr h]

/-- The tone has settled: the zero sub-step begins (R106). -/
theorem calToneSettled_of_reached (hphase : s.conv.phase = .tone due) (h : due < s.now + s.tickLen) :
    calToneSettled s = { s with conv := { s.conv with phase := .dwell 0 (due + s.substepMites 0) } } := by
  simp only [calToneSettled, hphase, State.reached_iff.mpr h, if_true]

/-- A sub-step that is not the last ends, and the next one begins (R105). -/
theorem calSubstepEnd_of_reached {i : Nat} (hphase : s.conv.phase = .dwell i due) (h : due < s.now + s.tickLen) (hi : i < 9) :
    calSubstepEnd s = { s with conv := { s.conv with phase := .dwell (i + 1) (due + s.substepMites (i + 1)) } } := by
  rw [calSubstepEnd, hphase]
  exact if_pos ⟨State.reached_iff.mpr h, hi⟩

/-- The last sub-step ends, and the check begins with the limits as written (R106). -/
theorem calDwellEnd_of_reached (hphase : s.conv.phase = .dwell 9 due) (h : due < s.now + s.tickLen) :
    calDwellEnd s = { s with
      conv := { s.conv with phase := .check (due + 1024 * 32) }, force := (s.bringIntoForce limitWords).force } := by
  simp only [calDwellEnd, hphase, State.reached_iff.mpr h, if_true]
  rw [State.bringIntoForce_eq]
  rfl

/-- The check of a slice that is not frozen: its candidate is accepted, or discarded with toll 23 (R108). -/
theorem calCheckEnd_of_reached (hslice : s.cal.slice = some k) (hphase : s.conv.phase = .check due)
    (h : due < s.now + s.tickLen) (hfrozen : (s.val F.CAL_FREEZE_FRZ).testBit k.val = false) {cand c : Coef} {ok : Bool}
    (hc : s.measured cand = c) (hok : (s.acceptsBody c (s.coefs)[k] && s.acceptsSkew c.skew ((s.coefs)[k]).skew) = ok) :
    calCheckEnd cand s = ({ s with
      cal := { s.cal with candidate := if ok then some c else none }
      conv := { s.conv with phase := .returning (due + 256 * 32) } } : State).tollIf (!ok) 23 := by
  simp only [calCheckEnd, hphase, hslice, State.reached_iff.mpr h, hc, hok, hfrozen, Bool.not_true, Bool.not_false,
    Bool.and_true, Bool.false_eq_true, if_false]
  rfl

/-- The slice has settled at its input again: the verification's window begins (R106). -/
theorem calReturnSettled_of_reached (hphase : s.conv.phase = .returning due) (h : due < s.now + s.tickLen) :
    calReturnSettled s = { s with
      conv := { s.conv.beginWindow (s.val F.CAL_VERIFY_VLOG) (s.val F.CAL_PLAUS_LIMIT_LIMIT) with phase := .verify } } := by
  simp only [calReturnSettled, hphase, State.reached_iff.mpr h, if_true]

end Sys2Proof.Machine

/-- Settles O27: the steps of a calibration by the phase that ends. -/
theorem calibrationProceeds : Obligations.CalibrationProceeds := by
  unfold Obligations.CalibrationProceeds
  refine fun s k hslice => ⟨fun hphase hfull => ⟨fun hgood => ?handover, fun hbad => ?skipped⟩,
    fun due hphase => ⟨fun h => ?sounding, fun h => ?zero⟩, fun i due hphase h => ⟨fun hi => ?next, fun hi => ?check⟩,
    fun due cand hphase h hfrozen => ?returns, fun due hphase h => ?verify⟩
  case handover => exact congrArg Host.Outcome.next (calShadowEnd_good hslice hphase hfull hgood)
  case skipped =>
    have hend := calShadowEnd_bad hslice hphase hfull hbad
    obtain ⟨cal, hcalEnd, hended⟩ := State.endCal_eq
      (({ s with cal := { s.cal with skipped := s.cal.skipped ++ [k] } } : State).toll 22)
    exact ⟨_, congrArg Host.Outcome.next (hend.trans hcalEnd), rfl, hended.slice, rfl, hended.full, hended.lean⟩
  case sounding => exact congrArg Host.Outcome.next (calToneSettled_of_not_reached hphase h)
  case zero => exact congrArg Host.Outcome.next (calToneSettled_of_reached hphase (not_le.mp h))
  case next => exact congrArg Host.Outcome.next (calSubstepEnd_of_reached hphase (not_le.mp h) hi)
  case check =>
    subst hi
    exact congrArg Host.Outcome.next (calDwellEnd_of_reached hphase (not_le.mp h))
  case returns =>
    exact congrArg Host.Outcome.next (calCheckEnd_of_reached hslice hphase (not_le.mp h) hfrozen rfl rfl)
  case verify => exact congrArg Host.Outcome.next (calReturnSettled_of_reached hphase (not_le.mp h))

end

/-! ## The regimes (05_calibration R111; 13_dram R270; 18_power R388 to R391) -/

section

open Sys2Proof Sys2Proof.Machine

namespace Sys2Proof.Machine

variable {s : State}

/-- A change of every subchannel in turn. -/
theorem State.foldl_modSub (s : State) (g : Subchannel → Subchannel) : (List.finRange 8).foldl (fun s c => s.modSub c g) s =
    { s with dram := { s.dram with subs := s.dram.subs.map g } } := by
  have hmap : (List.finRange 8).foldl (fun v c => updAt v c g) s.dram.subs = s.dram.subs.map g := by
    rw [foldl_finRange_updAt fun _ => g]
    ext i hi
    simp
  rw [← hmap]
  exact foldl_eq_map (f := fun s c => State.modSub s c g) (fun v => { s with dram := { s.dram with subs := v } })
    (fun _ _ => rfl) _ rfl

/-! The requests of a regime. -/

/-- What a change of regime makes of a subchannel as it is asked for: one that is awake enters self-refresh (R270). -/
def Subchannel.sentToSleep (x : Subchannel) : Subchannel :=
  if x.sr = .active then { x.closeRows (fun _ => true) with sr := .entering false } else x

/-- The subchannels after a request of FULL or LEAN (R270). -/
def State.subsAsked (s : State) (r : Regime) : Vector Subchannel 8 :=
  if s.power.regime = r ∨ s.power.regime = .watch then s.dram.subs else s.dram.subs.map Subchannel.sentToSleep

theorem State.subsAsked_get (s : State) (r : Regime) (c : Fin 8) : (s.subsAsked r)[c] =
    if s.power.regime ≠ r ∧ s.power.regime ≠ .watch ∧ (s.dram.subs[c]).sr = .active
    then { (s.dram.subs[c]).closeRows (fun _ => true) with sr := .entering false } else s.dram.subs[c] := by
  unfold State.subsAsked
  split
  case isTrue hnone => exact (if_neg fun ⟨hr, hw, _⟩ => hnone.elim hr hw).symm
  case isFalse hchange =>
    obtain ⟨hr, hw⟩ := not_or.mp hchange
    simp [hr, hw, Subchannel.sentToSleep]

/-- A request of FULL or LEAN makes the change due where another regime is in force, and moves the subchannels alone besides
(R270, R388). -/
theorem State.beginChange_eq (s : State) (r : Regime) : s.beginChange r = { s with
    power := { s.power with change := if s.power.regime = r then none else some r }
    dram := { s.dram with subs := s.subsAsked r } } := by
  unfold State.beginChange State.subsAsked
  dsimp only
  split
  · rfl
  · exact State.foldl_modSub ..

@[simp] theorem State.setRegimeWord_power (s : State) (q : Nat) (lean wake : Bool) :
    (s.setRegimeWord q lean wake).power = s.power := rfl

@[simp] theorem State.setRegimeWord_dram (s : State) (q : Nat) (lean wake : Bool) :
    (s.setRegimeWord q lean wake).dram = s.dram := rfl

/-- What a request leaves that temperature does not override, `u` being `s` with the words of the request written (R388,
R394). -/
theorem State.askRegime_granted {u : State} (hpower : u.power = s.power) (hdram : u.dram = s.dram)
    (hforced : s.power.forced = false) (r : Regime) :
    (∀ c : Fin 8, (u.askRegime r).dram.subs[c] =
      if s.power.regime ≠ r ∧ s.power.regime ≠ .watch ∧ (s.dram.subs[c]).sr = .active
      then { (s.dram.subs[c]).closeRows (fun _ => true) with sr := .entering false } else s.dram.subs[c]) ∧
    { u.askRegime r with dram := { (u.askRegime r).dram with subs := s.dram.subs } } = { u with
      power := { s.power with change := if s.power.regime = r then none else some r } } := by
  have hask : u.askRegime r = u.beginChange r := if_neg (by rw [hpower, hforced]; decide)
  have hsubs : u.subsAsked r = s.subsAsked r := by rw [State.subsAsked, State.subsAsked, hpower, hdram]
  rw [hask, State.beginChange_eq, hsubs, hpower]
  refine ⟨s.subsAsked_get r, ?_⟩
  rw [← hdram]

/-- While temperature overrides REQ, a request waits (R394). -/
theorem State.askRegime_of_forced (hforced : s.power.forced = true) (r : Regime) : s.askRegime r = s := if_pos hforced

/-- The charges of stalls are computed anew: nothing but their setups changes (R389). -/
structure State.Recharged (s t : State) : Prop where
  frame : { t with stalls := s.stalls } = s
  setups : ∀ n : Fin 16, { t.stalls[n] with setup := (s.stalls[n]).setup } = s.stalls[n]

theorem State.Recharged.trans {s t u : State} (h : s.Recharged t) (k : t.Recharged u) : s.Recharged u where
  frame := (congrArg (fun x : State => { x with stalls := s.stalls }) k.frame).trans h.frame
  setups n := (congrArg (fun x : Stall => { x with setup := (s.stalls[n]).setup }) (k.setups n)).trans (h.setups n)

theorem State.Recharged.power {s t : State} (h : s.Recharged t) : t.power = s.power := (congrArg State.power h.frame :)

theorem State.Recharged.dram {s t : State} (h : s.Recharged t) : t.dram = s.dram := (congrArg State.dram h.frame :)

theorem State.modStall_setup_recharged (s : State) (n : Fin 16) (f : Setup → Setup) :
    s.Recharged (s.modStall n fun t => { t with setup := f t.setup }) where
  frame := rfl
  setups m := by
    rw [State.modStall_stalls, updAt_get]
    split <;> rfl

theorem State.recharge_recharged (s : State) : s.Recharged s.recharge := by
  refine List.foldlRecOn (motive := s.Recharged) _ _ ⟨rfl, fun _ => rfl⟩ fun t ht n _ => ht.trans ?_
  split
  · exact t.modStall_setup_recharged n fun u => { u with bitsLean := (t.chargedSetup n u).bitsLean }
  · exact ⟨rfl, fun _ => rfl⟩

/-- LEAN is refused where the charges do not fit it (R389). -/
theorem regimeLean_of_not_fits (h : s.recharge.leanFits = false) (lean wake : Bool) :
    regimeLean lean wake s = s.refuseWrite .range := if_neg (Bool.eq_false_iff.mp h)

theorem regimeLean_of_fits (h : s.recharge.leanFits = true) (lean wake : Bool) :
    regimeLean lean wake s = (s.recharge.setRegimeWord 1 lean wake).askRegime .lean := if_pos h

/-- WATCH is refused where a ring lies in its store, or record memory is not trained (R391). -/
theorem regimeWatch_of_refused (h : s.ringInStore = true ∨ s.dram.trained = false) (lean wake : Bool) :
    regimeWatch lean wake s = s.refuseWrite .range := if_pos (by simpa using h)

/-- WATCH is due 1 ms after its request (R390). -/
theorem regimeWatch_of_granted (hring : s.ringInStore = false) (htrained : s.dram.trained = true) (lean wake : Bool) :
    regimeWatch lean wake s = { s.setRegimeWord 2 lean wake with
      power := { s.power with watchAt := some (s.now + 40000000) } } := by
  rw [regimeWatch, hring, htrained]
  rfl

/-! The gates of the Mints' outputs (R69). -/

/-- A Mint to whose gate changes those to the levels `l` have been added. -/
structure Mint.Gated (x y : Mint) (l : List Bool) : Prop where
  frame : { y with gates := x.gates } = x
  levels : y.gates.map (·.on) = x.gates.map (·.on) ++ l

theorem Mint.Gated.trans {x y z : Mint} {l m : List Bool} (h : x.Gated y l) (k : y.Gated z m) : x.Gated z (l ++ m) where
  frame := (congrArg (fun y : Mint => { y with gates := x.gates }) k.frame).trans h.frame
  levels := by rw [k.levels, h.levels, List.append_assoc]

/-- An edge asked of one Mint's gate is added to that gate, and changes nothing else (R69). -/
theorem State.gateEdge_eq (s : State) (j : Fin 5) (on : Bool) : ∃ mints, s.gateEdge j on = { s with mints := mints } ∧
    ∀ m : Fin 5, (s.mints[m]).Gated mints[m] (if m = j then [on] else []) := by
  unfold State.gateEdge
  refine ⟨_, rfl, fun m => ?_⟩
  rw [updAt_get]
  by_cases hm : j = m
  · rw [if_pos hm, if_pos hm.symm]
    exact ⟨rfl, List.map_append⟩
  · rw [if_neg hm, if_neg (Ne.symm hm)]
    exact ⟨rfl, (List.append_nil _).symm⟩

/-- The outputs of Mints S and M are gated for a change of regime, which falls between their off and their on (R63, R69). -/
def State.regated (s : State) (r : Regime) : State :=
  ((((s.gateEdge mintS false).gateEdge mintM false).modPower fun p => { p with regime := r, change := none }).gateEdge
    mintS true).gateEdge mintM true

theorem State.regated_eq (s : State) (r : Regime) : ∃ mints, s.regated r = { s with
    power := { s.power with regime := r, change := none }, mints := mints } ∧
      ∀ m : Fin 5, (s.mints[m]).Gated mints[m] (if m = 0 ∨ m = 2 then [false, true] else []) := by
  obtain ⟨v1, hS, h1⟩ := s.gateEdge_eq mintS false
  obtain ⟨v2, hM, h2⟩ := State.gateEdge_eq { s with mints := v1 } mintM false
  let changed : State := { s with mints := v2, power := { s.power with regime := r, change := none } }
  obtain ⟨v3, hS', h3⟩ := changed.gateEdge_eq mintS true
  obtain ⟨v4, hM', h4⟩ := State.gateEdge_eq { changed with mints := v3 } mintM true
  have hlevels : ∀ m : Fin 5, ((if m = mintS then [false] else []) ++ if m = mintM then [false] else []) ++
      ((if m = mintS then [true] else []) ++ if m = mintM then [true] else []) =
        if m = 0 ∨ m = 2 then [false, true] else [] := by decide
  refine ⟨v4, ?_, fun m => hlevels m ▸ ((h1 m).trans (h2 m)).trans ((h3 m).trans (h4 m))⟩
  rw [State.regated, hS, hM]
  exact (congrArg (State.gateEdge · mintM true) hS').trans hM'

/-! The step of every position (05_calibration R111). -/

/-- Nothing but the relief slice, the calibration, the words in force and the free values' counter differs. -/
structure State.CalFrame (s t : State) : Prop where
  frame : { t with conv := s.conv, cal := s.cal, force := s.force, free := s.free } = s

theorem State.CalFrame.refl (s : State) : s.CalFrame s := ⟨rfl⟩

theorem State.CalFrame.trans {s t u : State} (h : s.CalFrame t) (k : t.CalFrame u) : s.CalFrame u :=
  ⟨(congrArg (fun x : State => { x with conv := s.conv, cal := s.cal, force := s.force, free := s.free }) k.frame).trans
    h.frame⟩

theorem State.CalFrame.ite {s a b : State} {c : Prop} [Decidable c] (ha : s.CalFrame a) (hb : s.CalFrame b) :
    s.CalFrame (if c then a else b) := by
  split
  · exact ha
  · exact hb

theorem State.CalFrame.power {s t : State} (h : s.CalFrame t) : t.power = s.power := (congrArg State.power h.frame :)

theorem State.CalFrame.dram {s t : State} (h : s.CalFrame t) : t.dram = s.dram := (congrArg State.dram h.frame :)

theorem State.CalFrame.run {s t : State} (h : s.CalFrame t) : t.run = s.run := (congrArg State.run h.frame :)

theorem State.bringIntoForce_calFrame (s : State) (ns : List Nat) : s.CalFrame (s.bringIntoForce ns) := by
  rw [State.bringIntoForce_eq]
  exact ⟨rfl⟩

theorem State.moveRelief_calFrame (s : State) (k : Fin 16) (goal : MoveFor) : s.CalFrame (s.moveRelief k goal) := ⟨rfl⟩

theorem State.beginCal_calFrame (s : State) : s.CalFrame s.beginCal := by
  unfold State.beginCal
  extract_lets _ asked round _ forced
  have hasked : s.CalFrame asked := ⟨rfl⟩
  have hround : s.CalFrame round := hasked.trans (.ite ⟨rfl⟩ (.refl _))
  refine .ite hasked ?_
  split
  · exact hround.trans ⟨rfl⟩
  · have hforced : s.CalFrame forced := hround.trans (round.bringIntoForce_calFrame _)
    split
    · exact hforced.trans ⟨rfl⟩
    · exact hforced.trans ⟨rfl⟩

theorem State.beginCalOr_calFrame (s : State) (k : Fin 16) : s.CalFrame (s.beginCalOr k) :=
  .ite s.beginCal_calFrame (s.beginCal_calFrame.trans (State.moveRelief_calFrame ..))

theorem State.resumeRotation_calFrame (s : State) : s.CalFrame s.resumeRotation :=
  .ite (.refl s) (.ite (s.beginCalOr_calFrame _) (s.moveRelief_calFrame ..))

theorem State.abandonCal_calFrame (s : State) : s.CalFrame s.abandonCal := ⟨rfl⟩

theorem State.renewQuality_calFrame (s : State) : s.CalFrame s.renewQuality := by
  obtain ⟨spur, skewRms, free, hquality⟩ := s.renewQuality_eq
  rw [hquality]
  exact ⟨rfl⟩

/-- A window that begins anew is the relief slice's alone (R90). -/
theorem State.restartWindow_eq (s : State) : ∃ conv, s.restartWindow = { s with conv := conv } := by
  unfold State.restartWindow
  split <;> exact ⟨_, rfl⟩

/-- A change of regime abandons the calibration in progress and steps every position; the rest of the device stands (R111). -/
theorem State.regimeStep_calFrame (s : State) : s.CalFrame s.regimeStep := by
  have hquality : s.CalFrame (if s.conv.substitute.isSome then s.renewQuality else s) :=
    .ite s.renewQuality_calFrame (.refl s)
  have habandon := (hquality.trans (State.abandonCal_calFrame _)).trans (State.resumeRotation_calFrame _)
  have hwindow : s.CalFrame s.restartWindow := by
    obtain ⟨conv, hconv⟩ := s.restartWindow_eq
    rw [hconv]
    exact ⟨rfl⟩
  exact (State.CalFrame.ite habandon hwindow).trans ⟨rfl⟩

theorem State.regimeStep_stepped (s : State) : s.regimeStep.cal.stepped = List.finRange 16 := rfl

/-- The step of every position, of a relief slice that does not calibrate: a window of the referee begins anew (R111). -/
theorem State.regimeStep_of_no_calibration (h : s.cal.slice = none) : ∃ conv, s.regimeStep = { s with
    conv := conv
    cal := { s.cal with
      stepped := List.finRange 16, lastSlice := 15, lastStep := s.now % 2 ^ 64, steps := (s.cal.steps + 16) % 65536 } } := by
  obtain ⟨conv, hconv⟩ := s.restartWindow_eq
  have hcal : s.calRunning ≠ true := by simp [State.calRunning, h]
  rw [State.regimeStep, if_neg hcal, hconv]
  exact ⟨_, rfl⟩

/-! The change of regime (R388). -/

/-- A change that is due for the regime in force is over (R388). -/
theorem State.enterRegime_of_same {r : Regime} (h : s.power.regime = r) :
    s.enterRegime r = { s with power := { s.power with change := none } } := if_pos h

/-- A subchannel that begins to leave self-refresh (R270, R280). -/
def Subchannel.woken (x : Subchannel) : Subchannel := { x.closeRows (fun _ => true) with sr := .exiting }

/-- A change of regime: the gates, the regime and the step of every position, then the subchannels, which leave self-refresh
(R111, R270, R388). -/
theorem State.enterRegime_of_other {r : Regime} (h : s.power.regime ≠ r) : s.enterRegime r =
    { (s.regated r).regimeStep with dram := { s.dram with subs := s.dram.subs.map Subchannel.woken } } := by
  obtain ⟨mints, hgates, -⟩ := s.regated_eq r
  have hdram : (s.regated r).regimeStep.dram = s.dram := by rw [(State.regimeStep_calFrame _).dram, hgates]
  rw [← hdram]
  exact (if_neg h).trans (State.foldl_modSub _ Subchannel.woken)

theorem regimeChange_of_due {r : Regime} (hdue : s.power.change = some r) (hwatch : s.power.regime ≠ .watch) :
    regimeChange s = s.enterRegime r := by
  simp only [regimeChange, hdue, if_neg hwatch]

theorem regimeChange_of_none (h : s.power.change = none) : regimeChange s = s := by
  simp only [regimeChange, h]

end Sys2Proof.Machine

/-- Settles O46: the requests of the three regimes, then the change that is due by whether it changes the regime in force. -/
theorem regimesAreRequestedAndChange : Obligations.RegimesAreRequestedAndChange := by
  unfold Obligations.RegimesAreRequestedAndChange
  refine ⟨fun s lean wake => ⟨fun hforced => ?full, fun hforced => ?waits, fun hfits hforced => ?lean, fun hfits => ?unfit,
    ⟨s.recharge_recharged.frame, s.recharge_recharged.setups⟩, fun hring htrained => ?watch, fun h => ?untaken⟩,
    fun s => ⟨fun h => ?none, fun r hdue hsame hr => ?same, fun r hdue hwatch hother => ?changed,
      fun r hdue hwatch hother hslice => ?stepped⟩⟩
  case full =>
    exact ⟨_, rfl, State.askRegime_granted (s.setRegimeWord_power ..) (s.setRegimeWord_dram ..) hforced .full⟩
  case waits => exact congrArg Host.Outcome.next (State.askRegime_of_forced (s := s.setRegimeWord 0 lean wake) hforced .full)
  case lean =>
    have hpower := (s.recharge.setRegimeWord_power 1 lean wake).trans s.recharge_recharged.power
    have hdram := (s.recharge.setRegimeWord_dram 1 lean wake).trans s.recharge_recharged.dram
    exact ⟨_, congrArg Host.Outcome.next (regimeLean_of_fits hfits lean wake),
      State.askRegime_granted hpower hdram hforced .lean⟩
  case unfit => exact congrArg Host.Outcome.next (regimeLean_of_not_fits hfits lean wake)
  case watch => exact congrArg Host.Outcome.next (regimeWatch_of_granted hring htrained lean wake)
  case untaken => exact congrArg Host.Outcome.next (regimeWatch_of_refused h lean wake)
  case none => exact congrArg Host.Outcome.next (regimeChange_of_none h)
  case same =>
    have hwatch : s.power.regime ≠ .watch := by rw [hsame]; exact hr
    exact congrArg Host.Outcome.next ((regimeChange_of_due hdue hwatch).trans (State.enterRegime_of_same hsame))
  case changed =>
    have hchange := (regimeChange_of_due hdue hwatch).trans (State.enterRegime_of_other hother)
    obtain ⟨mints, hgates, -⟩ := s.regated_eq r
    rw [hgates] at hchange
    have hstep := State.regimeStep_calFrame { s with
      power := { s.power with regime := r, change := none }, mints := mints }
    exact ⟨_, congrArg Host.Outcome.next hchange, hstep.power, State.regimeStep_stepped _, rfl, hstep.run⟩
  case stepped =>
    have hchange := (regimeChange_of_due hdue hwatch).trans (State.enterRegime_of_other hother)
    obtain ⟨mints, hgates, hgated⟩ := s.regated_eq r
    obtain ⟨conv, hstep⟩ := State.regimeStep_of_no_calibration (s := { s with
      power := { s.power with regime := r, change := none }, mints := mints }) hslice
    rw [hgates, hstep] at hchange
    exact ⟨_, congrArg Host.Outcome.next hchange, rfl, rfl, rfl, rfl, fun m => ⟨(hgated m).frame, (hgated m).levels⟩,
      fun c => Vector.getElem_map ..⟩

end

/-! ## The self-test of the weighers (06_weighers R138 to R141) -/

section

open Sys2Proof Sys2Proof.Machine

namespace Sys2Proof.Machine

variable {s : State} {w : Fin 68}

/-- The lowest-numbered free weigher is free. -/
theorem Pool.role_of_head_freeList {p : Pool} {d : Fin 68} (h : p.freeList.head? = some d) : (p.weighers[d]).role = .free :=
  eq_of_beq (List.mem_filter.mp (List.mem_of_head? h)).2

/-- A weigher with another role is not the lowest-numbered free one. -/
theorem Pool.ne_of_head_freeList {p : Pool} {d : Fin 68} (h : p.freeList.head? = some d)
    (hrole : (p.weighers[w]).role ≠ .free) : d ≠ w :=
  fun hd => hrole (hd ▸ Pool.role_of_head_freeList h)

/-- Taking up a weigher moves the round's place, or the list of those to be tested out of turn, alone (R140, R142). -/
theorem Pool.tookUp_eq (p : Pool) (w : Fin 68) :
    ∃ outOfTurn next, p.tookUp w = { p with outOfTurn := outOfTurn, next := next } := by
  unfold Pool.tookUp
  split
  · exact ⟨_, p.next, rfl⟩
  · exact ⟨p.outOfTurn, _, rfl⟩

/-- With nothing to be tested out of turn, the round goes on after the weigher (R140). -/
theorem Pool.tookUp_of_no_outOfTurn {p : Pool} (h : p.outOfTurn = []) (w : Fin 68) :
    p.tookUp w = { p with next := Fin.ofNat 68 (w.val + 1) } := by
  simp [Pool.tookUp, h]

/-- The instant at which the next period of the round expires, the period taken as written (R140). -/
def State.nextExpiry (s : State) : Nat := s.pool.periodAt + max 1 (s.wval F.WGH_TEST_PERIOD_PER) * 40000000000

/-- A period of the round has expired, and the period as written comes into force (R140). -/
def State.nextPeriod (s : State) : State :=
  { s with pool := { s.pool with periodAt := s.nextExpiry } }.bringIntoForce [F.WGH_TEST_PERIOD_PER.num]

theorem State.nextPeriod_eq (s : State) :
    s.nextPeriod = { s with pool := { s.pool with periodAt := s.nextExpiry }, force := s.nextPeriod.force } :=
  State.bringIntoForce_eq ..

theorem testPeriod_of_not_reached (h : s.now + s.tickLen ≤ s.pool.periodAt) : testPeriod s = s :=
  if_pos (by simp [State.not_reached_iff.mpr h])

section Expiry

variable (hdue : s.pool.periodAt < s.now + s.tickLen) (hper : s.val F.WGH_TEST_PERIOD_PER ≠ 0)
  (hselected : s.pool.selected = some w)

include hdue hper hselected

/-- While a test runs, the one that is due is postponed (R140). -/
theorem testPeriod_of_testing (htest : s.pool.test.isSome = true) : testPeriod s = s.nextPeriod.toll 50 := by
  simp only [testPeriod, State.reached_iff.mpr hdue, hper, hselected, htest, Bool.not_true, Bool.true_or, Bool.false_eq_true,
    if_false, if_true]
  rfl

variable (htest : s.pool.test = none) (hmove : s.pool.move = none)

include htest hmove

/-- With no test and no migration the selected weigher is taken up (R139, R140). -/
theorem testPeriod_of_idle : testPeriod s =
    match (s.pool.weighers[w]).role, s.pool.freeList.head? with
    | .free, _ => { s.nextPeriod with pool := s.nextPeriod.pool.tookUp w }.beginTest w
    | _, some d => { s.nextPeriod with pool := { s.nextPeriod.pool.tookUp w with
        weighers := updAt (updAt (s.nextPeriod.pool.tookUp w).weighers w fun y => { y with role := .source }) d fun _ =>
          { s.pool.weighers[w] with role := .destination }
        move := some ⟨w, d, .copying, s.now + 4096 * 32⟩ } }
    | _, none => s.nextPeriod.toll 50 := by
  have hidle : ¬(s.pool.test.isSome || s.pool.move.isSome) = true := by simp [htest, hmove]
  simp only [testPeriod, State.reached_iff.mpr hdue, hper, hselected, Bool.not_true, Bool.false_eq_true, if_false]
  rw [if_neg hidle]
  rfl

/-- A free weigher is tested in place (R140). -/
theorem testPeriod_of_free (hrole : (s.pool.weighers[w]).role = .free) :
    testPeriod s = { s.nextPeriod with pool := s.nextPeriod.pool.tookUp w }.beginTest w := by
  rw [testPeriod_of_idle hdue hper hselected htest hmove, hrole]

/-- The chain of an assigned weigher is migrated first (R139, R140). -/
theorem testPeriod_of_assigned {d : Fin 68} (hrole : (s.pool.weighers[w]).role = .assigned)
    (hfree : s.pool.freeList.head? = some d) :
    testPeriod s = { s.nextPeriod with pool := { s.nextPeriod.pool.tookUp w with
      weighers := updAt (updAt (s.nextPeriod.pool.tookUp w).weighers w fun y => { y with role := .source }) d fun _ =>
        { s.pool.weighers[w] with role := .destination }
      move := some ⟨w, d, .copying, s.now + 4096 * 32⟩ } } := by
  rw [testPeriod_of_idle hdue hper hselected htest hmove, hrole, hfree]

end Expiry

section TestDone

/-- The state in which a self-test of weigher `w` has ended (R140, R141). -/
def State.tested (s : State) (w : Fin 68) (pass : Bool) : State := { s with pool := { s.pool with
  weighers := s.pool.weighers.set w.val { role := if pass then .free else .retired } w.isLt
  test := none, last := w, failed := !pass, tests := (s.pool.tests + 1) % 65536 } }

variable {due : Nat} (htest : s.pool.test = some (w, due)) (hdue : due < s.now + s.tickLen)

include htest hdue

theorem testDone_of_pass : testDone true s = s.tested w true := by
  simp only [testDone, htest, State.reached_iff.mpr hdue, if_true]
  rfl

theorem testDone_of_fail : testDone false s = (((s.tested w false).toll 48).attention 2).spareCheck s.pool := by
  simp only [testDone, htest, State.reached_iff.mpr hdue, if_true, Bool.false_eq_true, if_false]
  rfl

end TestDone

/-- A check of SPARE_LOW that follows an attention raises none, or one more (R138). -/
theorem State.spareCheck_attention_eq {t : State} (hstatus : t.status = s.status) (hev : t.ev = s.ev) (p : Pool) :
    ∃ status ev, (t.attention 2).spareCheck p = { t with status := status, ev := ev } ∧
      (status = (s.attention 2).status ∨ status = ((s.attention 2).attention 2).status) := by
  have honce := State.attention_eq hstatus hev 2
  rw [State.spareCheck]
  split
  · have htwice := State.attention_eq (s := s.attention 2) (t := t.attention 2) (by rw [honce]) (by rw [honce]) 2
    exact ⟨_, _, by rw [htwice, honce], .inr rfl⟩
  · exact ⟨_, _, honce, .inl rfl⟩

end Sys2Proof.Machine

/-- Settles O31: the expiry of a period by what the selected weigher does, then the end of a test by its verdict. -/
theorem weighersAreTested : Obligations.WeighersAreTested := by
  unfold Obligations.WeighersAreTested
  refine fun s => ⟨fun h => ?early, fun hdue hper => ⟨fun w hselected htest => ?postponed,
    fun w hselected hround htest hmove hrole => ?tested, fun w d hselected htest hmove hrole hfree => ?migrated⟩,
    fun w due htest hdue => ⟨?passed, ?failed⟩⟩
  case early => exact congrArg Host.Outcome.next (testPeriod_of_not_reached h)
  case postponed =>
    have hnext := testPeriod_of_testing hdue hper hselected htest
    rw [s.nextPeriod_eq] at hnext
    exact ⟨_, congrArg Host.Outcome.next hnext, rfl, rfl, rfl⟩
  case tested =>
    have hnext := testPeriod_of_free hdue hper hselected htest hmove hrole
    rw [s.nextPeriod_eq] at hnext
    have htook := Pool.tookUp_of_no_outOfTurn (p := { s.pool with periodAt := s.nextExpiry }) hround w
    rw [htook] at hnext
    exact ⟨_, congrArg Host.Outcome.next hnext, rfl, rfl⟩
  case migrated =>
    have hnext := testPeriod_of_assigned hdue hper hselected htest hmove hrole hfree
    have hd : d ≠ w := Pool.ne_of_head_freeList hfree (by rw [hrole]; decide)
    rw [s.nextPeriod_eq] at hnext
    obtain ⟨outOfTurn, next, htook⟩ := Pool.tookUp_eq { s.pool with periodAt := s.nextExpiry } w
    rw [htook] at hnext
    refine ⟨_, congrArg Host.Outcome.next hnext, rfl, rfl, ?source, ?destination, htest⟩
    case source => exact (updAt_other _ hd _).trans (updAt_same ..)
    case destination => exact updAt_same ..
  case passed => exact congrArg Host.Outcome.next (testDone_of_pass htest hdue)
  case failed =>
    obtain ⟨status, ev, hcheck, hstatus⟩ :=
      State.spareCheck_attention_eq (s := s) (t := (s.tested w false).toll 48) rfl rfl s.pool
    exact ⟨_, congrArg Host.Outcome.next ((testDone_of_fail htest hdue).trans hcheck), rfl, rfl, hstatus⟩

end

/-! ## Migrations and hangs of the weighers (06_weighers R139, R140, R142, R143; 12_hall R264) -/

section

open Sys2Proof Sys2Proof.Machine

namespace Sys2Proof.Machine

variable {s : State} {w : Fin 68}

section Migrations

variable {m : Migration} (hmove : s.pool.move = some m)

include hmove

theorem migrationCopied_of_not_reached (h : s.now + s.tickLen ≤ m.due) : migrationCopied s = s := by
  simp [migrationCopied, hmove, State.not_reached_iff.mpr h]

theorem migrationSwitch_of_not_reached (h : s.now + s.tickLen ≤ m.due) : migrationSwitch s = s := by
  simp [migrationSwitch, hmove, State.not_reached_iff.mpr h]

theorem migrationCopied_of_reached (hstage : m.stage = .copying) (h : m.due < s.now + s.tickLen) : migrationCopied s =
    { s with pool := { s.pool with move := some { m with stage := .waiting } } } := by
  rw [migrationCopied, hmove]
  exact if_pos ⟨hstage, State.reached_iff.mpr h⟩

/-- At the block boundary that a migration waits for, the transfer begins (R139). -/
theorem State.blockBoundary_of_waiting (hstage : m.stage = .waiting) : s.blockBoundary (s.pool.weighers[m.src]).stall =
    { s with pool := { s.pool with move := some { m with stage := .transferring, due := s.now + 64 * 32 } } } := by
  rw [State.blockBoundary, hmove]
  exact if_pos ⟨hstage, rfl⟩

/-- After the transfer the destination takes the source's place, and the source is tested (R139, R140). -/
theorem migrationSwitch_of_reached (hstage : m.stage = .transferring) (h : m.due < s.now + s.tickLen) : migrationSwitch s =
    { s with pool := { s.pool with
      weighers := updAt (updAt s.pool.weighers m.dst fun y => { y with role := .assigned }) m.src fun _ => { role := .testing }
      move := none, test := some (m.src, s.now + 262144 * 32) } } := by
  rw [migrationSwitch, hmove]
  exact if_pos ⟨hstage, State.reached_iff.mpr h⟩

end Migrations

/-! What the watchdog's reset touches (R142, R143, R264). -/

/-- Nothing but the arbiters and the tolls differs. -/
structure State.HallFrame (s t : State) : Prop where
  frame : { t with hall := s.hall, tollDue := s.tollDue } = s

theorem State.HallFrame.trans {s t u : State} (h : s.HallFrame t) (k : t.HallFrame u) : s.HallFrame u :=
  ⟨(congrArg (fun x : State => { x with hall := s.hall, tollDue := s.tollDue }) k.frame).trans h.frame⟩

theorem State.tollIf_hallFrame (s : State) (c : Bool) (i : Nat) : s.HallFrame (s.tollIf c i) := by
  obtain ⟨-, h⟩ | ⟨-, h⟩ := s.tollIf_eq c i <;> rw [h] <;> exact ⟨rfl⟩

theorem State.setArb_hallFrame (s : State) (i : Nat) (a : Arbiter) : s.HallFrame (s.setArb i a) := ⟨rfl⟩

/-- A port's requests go low at the arbiters, which may count a toll (R264). -/
theorem State.resetPort_hallFrame (s : State) (dram : Bool) (port : Nat) : s.HallFrame (s.resetPort dram port) :=
  List.foldlRecOn (motive := s.HallFrame) _ _ ⟨rfl⟩ fun t ht _ _ =>
    ht.trans ((t.setArb_hallFrame ..).trans (State.tollIf_hallFrame ..))

theorem State.resetWeigher_hallFrame (s : State) (n : Fin 16) (moves : Bool) : s.HallFrame (s.resetWeigher n moves) := by
  have hstall := s.resetPort_hallFrame false n
  cases moves
  · exact hstall
  · exact hstall.trans (State.resetPort_hallFrame ..)

/-- The reset of a weigher of stall `n` leaves this of the device (R142, R143). -/
structure State.WeigherReset (s : State) (n : Fin 16) (moves : Bool) (t : State) : Prop where
  pool : t.pool = s.pool
  log : t.log = s.log
  hall : t.hall = (s.resetWeigher n moves).hall
  tollDue : t.tollDue = (s.resetWeigher n moves).tollDue
  blockOf : t.blockOf n = s.blockOf n
  stalls : ∀ m : Fin 16, m ≠ n → t.stalls[m] = s.stalls[m]

theorem State.resetWeigher_reset (s : State) (n : Fin 16) (moves : Bool) :
    s.WeigherReset n moves (s.resetWeigher n moves) := by
  have hframe := (s.resetWeigher_hallFrame n moves).frame
  have hstalls : (s.resetWeigher n moves).stalls = s.stalls := (congrArg State.stalls hframe :)
  exact ⟨(congrArg State.pool hframe :), (congrArg State.log hframe :), rfl, rfl, by rw [State.blockOf, hstalls]; rfl,
    fun _ _ => by rw [hstalls]⟩

/-- The containers that a hung weigher has lost are taken from its stall and from the Sieve alone, and the stall's samples
stay counted (R143). -/
theorem State.WeigherReset.loseContainers {n : Fin 16} {moves : Bool} {t : State} (h : s.WeigherReset n moves t)
    (share since : Nat) : s.WeigherReset n moves (t.loseContainers n share since) := by
  have hblock : (t.loseContainers n share since).blockOf n = t.blockOf n := by
    simp only [State.blockOf, State.loseContainers, State.modStall_stalls, Fin.getElem_fin, updAt_same]
  exact ⟨h.pool, h.log, h.hall, h.tollDue, hblock.trans h.blockOf,
    fun m hm => (updAt_other t.stalls (Ne.symm hm) _).trans (h.stalls m hm)⟩

/-- A weigher takes part in the migration under way. -/
def Pool.migrates (p : Pool) (w : Fin 68) : Bool :=
  match p.move with
  | some m => m.src == w || m.dst == w
  | none => false

/-- The weigher with which `w` takes part in the migration under way. -/
def Pool.partner (p : Pool) (w : Fin 68) : Option (Fin 68) :=
  match p.move with
  | some m => if m.src = w then some m.dst else if m.dst = w then some m.src else none
  | none => none

section Partner

variable {p : Pool}

theorem Pool.migrates_of_none (h : p.move = none) (w : Fin 68) : p.migrates w = false := by rw [Pool.migrates, h]

theorem Pool.partner_of_none (h : p.move = none) (w : Fin 68) : p.partner w = none := by rw [Pool.partner, h]

variable {m : Migration} (h : p.move = some m) (hw : w = m.src ∨ w = m.dst)

include h hw

theorem Pool.migrates_of_end : p.migrates w = true := by
  rw [Pool.migrates, h]
  rcases hw with hw | hw <;> simp [hw]

theorem Pool.partner_of_end : p.partner w = some (if w = m.src then m.dst else m.src) := by
  rw [Pool.partner, h]
  by_cases hsrc : w = m.src
  · simp only [hsrc, if_true]
  · simp only [if_neg hsrc, if_neg (Ne.symm hsrc), if_pos (hw.resolve_left hsrc).symm]

end Partner

/-- The state in which the watchdog has reset weigher `w`, and the containers that it lost are gone (R142, R143). -/
def State.watchdogReset (s : State) (w : Fin 68) : State :=
  let x := s.pool.weighers[w]
  let t := s.resetWeigher x.stall (s.pool.migrates w)
  if x.role == .destination then t
  else t.loseContainers x.stall x.share (t.now - s.val F.WGH_HANG_LIMIT_LIM * mitesPerTick)

theorem State.watchdogReset_reset (s : State) (w : Fin 68) :
    s.WeigherReset (s.pool.weighers[w]).stall (s.pool.migrates w) (s.watchdogReset w) := by
  have hreset := s.resetWeigher_reset (s.pool.weighers[w]).stall (s.pool.migrates w)
  unfold State.watchdogReset
  dsimp only
  split
  · exact hreset
  · exact hreset.loseContainers ..

/-- A hang of weigher `w`, which serves stall `n`, is counted and logged, and the pool becomes `p` (R142, R143). -/
def State.reportHang (s : State) (w : Fin 68) (n : Fin 16) (inPlace : Bool) (p : Pool) : State :=
  ({ s with pool := p }.toll 49).logEvent 0x05 w 49 (n.val + (if inPlace then 16 else 0))

/-- What every hang of a weigher leaves: its stall's requests are low, the hang is counted and logged, and the weigher is to be
tested out of turn (R142, R143, R264). -/
theorem State.WeigherReset.reportHang {n : Fin 16} {moves : Bool} {t : State} (h : s.WeigherReset n moves t) (inPlace : Bool)
    {p : Pool} (hp : p.outOfTurn = s.pool.outOfTurn ++ [w]) :
    let u := t.reportHang w n inPlace p
    u.tollDue = ((s.resetWeigher n moves).toll 49).tollDue ∧ u.pool.outOfTurn = s.pool.outOfTurn ++ [w] ∧
      u.hall = (s.resetWeigher n moves).hall ∧ u.log.due.length = s.log.due.length + 1 ∧
      ∀ m : Fin 16, m ≠ n → u.stalls[m] = s.stalls[m] := by
  refine ⟨?tolls, hp, h.hall, ?log, h.stalls⟩
  case tolls => simp only [State.reportHang, State.logEvent_tollDue, State.toll_tollDue, h.tollDue]
  case log => simp [State.reportHang, State.logEvent, h.log]

/-- The pool after a hang of weigher `w` that ends its migration: the chain goes on in weigher `o` (R142). -/
def Pool.handedOver (p : Pool) (w o : Fin 68) : Pool := { p with
  weighers := updAt (updAt p.weighers w fun _ => {}) o fun y => { y with role := .assigned }
  move := none, outOfTurn := p.outOfTurn ++ [w] }

/-- The pool after a hang of weigher `w` whose chain is to restart as `h` says, with the weighers `v` (R142). -/
def Pool.restarting (p : Pool) (w : Fin 68) (h : Hung) (v : Vector Weigher 68) : Pool :=
  { p with weighers := v, outOfTurn := p.outOfTurn ++ [w], hung := p.hung ++ [h] }

/-- The weighers where weigher `d` takes the place of weigher `w` (R142). -/
def Pool.replaced (p : Pool) (w d : Fin 68) (x : Weigher) : Vector Weigher 68 :=
  updAt (updAt p.weighers w fun _ => {}) d fun _ => x

/-- A weigher that serves no stall does not hang (R142). -/
theorem weigherHang_of_idle (hrole : (s.pool.weighers[w]).role = .free ∨ (s.pool.weighers[w]).role = .testing ∨
    (s.pool.weighers[w]).role = .retired) : weigherHang w s = s := by
  refine if_pos ?_
  rcases hrole with h | h | h <;> rw [h] <;> rfl

/-- A hang of a weigher that serves a stall: the migration that it takes part in is abandoned, or else its chain is to restart on
the lowest-numbered free weigher, or in place (R142, R143). -/
theorem weigherHang_of_serving (hrole : (s.pool.weighers[w]).role = .assigned ∨ (s.pool.weighers[w]).role = .source ∨
    (s.pool.weighers[w]).role = .destination) :
    let x := s.pool.weighers[w]
    let t := s.watchdogReset w
    weigherHang w s =
      match s.pool.partner w, s.pool.freeList.head? with
      | some o, _ => t.reportHang w x.stall false (s.pool.handedOver w o)
      | none, some d => t.reportHang w x.stall false
        (s.pool.restarting w ⟨d, false, x.stall, x.share, s.blockOf x.stall⟩ (s.pool.replaced w d x))
      | none, none => t.reportHang w x.stall true
        (s.pool.restarting w ⟨w, true, x.stall, x.share, s.blockOf x.stall⟩ s.pool.weighers) := by
  have hserves : ¬(!((s.pool.weighers[w]).role == .assigned || (s.pool.weighers[w]).role == .source ||
      (s.pool.weighers[w]).role == .destination)) = true := by
    rcases hrole with h | h | h <;> rw [h] <;> decide
  intro x t
  have hreset : s.WeigherReset x.stall _ t := s.watchdogReset_reset w
  unfold weigherHang
  extract_lets p y lim r u other detail hung src
  rw [if_neg hserves]
  have hu : u = t := rfl
  have hother : other = s.pool.partner w := rfl
  clear_value u other t
  subst hu
  rw [hother]
  cases s.pool.partner w with
  | some o => exact congrArg (fun p : Pool => u.reportHang w x.stall false (p.handedOver w o)) hreset.pool
  | none =>
    cases hfree : s.pool.freeList.head? with
    | some d =>
      exact congrArg₂ (fun (p : Pool) block => u.reportHang w x.stall false
        (p.restarting w ⟨d, false, x.stall, x.share, block⟩ (p.replaced w d x))) hreset.pool hreset.blockOf
    | none =>
      exact congrArg₂ (fun (p : Pool) block => u.reportHang w x.stall true
        (p.restarting w ⟨w, true, x.stall, x.share, block⟩ p.weighers)) hreset.pool hreset.blockOf

/-- A chain restarts at a block boundary after the hang alone (R142). -/
theorem hungRestart_of_not_after {h : Hung} (hfind : s.pool.hung.find? (·.weigher == w) = some h)
    (hblock : s.blockOf h.stall ≤ h.block) : hungRestart w s = s := by
  rw [hungRestart, hfind]
  exact if_neg (not_lt.mpr hblock)

/-- A chain restarts with its stage state cleared, in place with toll 51 (R142). -/
theorem hungRestart_of_after {h : Hung} (hfind : s.pool.hung.find? (·.weigher == w) = some h)
    (hblock : h.block < s.blockOf h.stall) : hungRestart w s =
    ({ s with
      pool := { s.pool with hung := s.pool.hung.erase h }
      stalls := updAt s.stalls h.stall fun t => { t with
        stageStates := t.stageStates.map fun _ => {}
        gaps := { t.gaps with restarts := (t.samples, t.gaps.counted t.setup.dtot t.samples) :: t.gaps.restarts } } } : State).tollIf
      h.inPlace 51 := by
  rw [hungRestart, hfind]
  exact if_pos hblock

end Sys2Proof.Machine

/-- Settles O32: a migration by its stage, then a hang by what becomes of the chain, then the chain's restart. -/
theorem migrationsAndHangs : Obligations.MigrationsAndHangs := by
  unfold Obligations.MigrationsAndHangs
  refine ⟨fun s m hmove => ⟨fun h => ?early, fun hstage => ?boundary, fun hdue => ⟨fun hstage => ?copied,
      fun hstage hends => ?switched⟩⟩,
    fun s w => ⟨fun hrole => ?idle, fun hrole hmove => ⟨fun d hfree => ?moved, fun hfree => ?inPlace⟩,
      fun m hmove hne hends => ?abandoned, fun h hfind => ⟨fun hblock => ?waits, fun hblock => ?restarts⟩⟩⟩
  case early =>
    exact ⟨congrArg Host.Outcome.next (migrationCopied_of_not_reached hmove h),
      congrArg Host.Outcome.next (migrationSwitch_of_not_reached hmove h)⟩
  case boundary => exact State.blockBoundary_of_waiting hmove hstage
  case copied => exact congrArg Host.Outcome.next (migrationCopied_of_reached hmove hstage hdue)
  case switched =>
    refine ⟨_, congrArg Host.Outcome.next (migrationSwitch_of_reached hmove hstage hdue), rfl, rfl, rfl, rfl, ?source,
      ?destination, fun k hsrc hdst => ?other⟩
    case source => exact updAt_same ..
    case destination => exact (updAt_other _ hends _).trans (updAt_same ..)
    case other => exact (updAt_other _ hsrc.symm _).trans (updAt_other _ hdst.symm _)
  case idle => exact congrArg Host.Outcome.next (weigherHang_of_idle hrole)
  case moved =>
    have hd : d ≠ w := Pool.ne_of_head_freeList hfree (by rw [hrole]; decide)
    have hreset := s.watchdogReset_reset w
    have hhang := weigherHang_of_serving (.inl hrole)
    rw [Pool.migrates_of_none hmove] at hreset
    simp only [Pool.partner_of_none hmove, hfree] at hhang
    refine ⟨_, congrArg Host.Outcome.next hhang, ⟨hreset.reportHang false rfl, ?chain, rfl⟩, ?hung⟩
    case chain => exact updAt_same ..
    case hung => exact (updAt_other _ hd _).trans (updAt_same ..)
  case inPlace =>
    have hreset := s.watchdogReset_reset w
    have hhang := weigherHang_of_serving (.inl hrole)
    rw [Pool.migrates_of_none hmove] at hreset
    simp only [Pool.partner_of_none hmove, hfree, List.head?_nil] at hhang
    exact ⟨_, congrArg Host.Outcome.next hhang, hreset.reportHang true rfl, rfl, rfl⟩
  case abandoned =>
    have hw : w = m.src ∨ w = m.dst := hends.imp And.right And.right
    have hother : (if w = m.src then m.dst else m.src) ≠ w := by
      split
      case isTrue hsrc => exact fun hdst => hne (hsrc ▸ hdst.symm)
      case isFalse hsrc => exact Ne.symm hsrc
    have hreset := s.watchdogReset_reset w
    have hhang := weigherHang_of_serving (.inr (hends.imp And.left And.left))
    rw [Pool.migrates_of_end hmove hw] at hreset
    simp only [Pool.partner_of_end hmove hw] at hhang
    refine ⟨_, congrArg Host.Outcome.next hhang, hreset.reportHang false rfl, rfl, rfl, ?left, ?goesOn⟩
    case left => exact (updAt_other _ hother _).trans (updAt_same ..)
    case goesOn => exact congrArg Weigher.role (updAt_same ..)
  case waits => exact congrArg Host.Outcome.next (hungRestart_of_not_after hfind hblock)
  case restarts => exact congrArg Host.Outcome.next (hungRestart_of_after hfind hblock)

end

/-! ## The sequence at a quiet sample (07_bell R149 to R160, R167) -/

section

open Sys2Proof Sys2Proof.Machine

namespace Sys2Proof.Machine

/-! A change of one stall, and of one Bell: what it gives, and that two are one. -/

section ModStall

variable {s : State} {n : Fin 16} {f g : Stall → Stall}

/-- A change of a stall depends on what it makes of that stall alone. -/
theorem State.modStall_congr (h : f s.stalls[n] = g s.stalls[n]) : s.modStall n f = s.modStall n g := by
  rw [State.modStall, State.modStall, updAt_congr h]

/-- A change that the stall does not see is none. -/
theorem State.modStall_eq_self (h : f s.stalls[n] = s.stalls[n]) : s.modStall n f = s := by
  rw [State.modStall, updAt_eq_self h]

theorem State.modStall_modStall (s : State) (n : Fin 16) (f g : Stall → Stall) :
    (s.modStall n f).modStall n g = s.modStall n fun t => g (f t) := by
  rw [State.modStall, State.modStall, State.modStall, updAt_updAt]

/-- A change of a stall that leaves its Bell as linked as it is leaves all so. -/
theorem State.linked_modStall (h : (f s.stalls[n]).bell.linked = (s.bell n).linked) (m : Fin 16) :
    ((s.modStall n f).bell m).linked = (s.bell m).linked := by
  have hget := updAt_get s.stalls n m f
  unfold State.bell
  rw [State.modStall_stalls, hget]
  split
  · next hm => exact hm ▸ h
  · rfl

end ModStall

section ModBell

variable (s : State) (n : Fin 16) (f g : Bell → Bell)

theorem State.bell_modBell_same : (s.modBell n f).bell n = f (s.bell n) :=
  congrArg Stall.bell (updAt_same ..)

theorem State.modBell_modBell : (s.modBell n f).modBell n g = s.modBell n fun b => g (f b) :=
  State.modStall_modStall ..

variable {s n f g}

/-- A change of a Bell depends on what it makes of that Bell alone. -/
theorem State.modBell_congr (h : f (s.bell n) = g (s.bell n)) : s.modBell n f = s.modBell n g := by
  have hbell : f (s.stalls[n]).bell = g (s.stalls[n]).bell := h
  exact State.modStall_congr (by rw [hbell])

/-- A change that the Bell does not see is none. -/
theorem State.modBell_eq_self (h : f (s.bell n) = s.bell n) : s.modBell n f = s := by
  have hbell : f (s.stalls[n]).bell = (s.stalls[n]).bell := h
  exact State.modStall_eq_self (by rw [hbell])

end ModBell

/-- The words in force set up no comparator, no counter, no timer start and no auto mode for the Bell of stall `n`. -/
structure State.SequenceOnly (s : State) (n : Fin 16) : Prop where
  comps : ∀ k : Fin 4, s.val F.STL_BEL_CMP_CFG_TYPE k n = 0
  counts : ∀ k : Fin 4, s.val F.STL_BEL_CNT_CFG_RUNMASK k n = 0
  clears : ∀ k : Fin 4, s.val F.STL_BEL_CNT_CFG_CLRMASK k n = 0
  starts : ∀ k : Fin 2, s.val F.STL_BEL_TMR_CFG_STARTMASK k n = 0
  auto : s.val F.STL_BEL_AUTO_AUTO 0 n = 0

section Steps

variable {s : State} {n : Fin 16} {v : Val} {c : Conds}

theorem State.SequenceOnly.modBell (h : s.SequenceOnly n) (f : Bell → Bell) : (s.modBell n f).SequenceOnly n :=
  ⟨h.comps, h.counts, h.clears, h.starts, h.auto⟩

/-! The conditions at a sample (R150 to R153). -/

theorem compsStep_of_none {ws : Nat → CompSet} (h : ∀ k : Fin 4, (ws k).type = 0) (cs : Vector Comp 4) (x : Int) :
    (compsStep ws cs x).2 = [] := by
  simp [compsStep, Comp.step, h]

/-- Comparators that are set to NONE remember the values and give no event. -/
theorem State.formComps_of_none (h : s.SequenceOnly n) :
    ∃ cs, s.formComps n v = ([], s.modBell n fun b => { b with comps := cs }) := by
  unfold State.formComps
  extract_lets pair b
  split
  next cs es hfold =>
  have hes : [] = es := by
    refine (List.foldl_fixed _).symm.trans ((List.foldl_hom Prod.snd fun x y => ?_).trans (congrArg Prod.snd hfold))
    dsimp only
    rw [compsStep_of_none h.comps, List.append_nil]
  subst hes
  exact ⟨cs, ite_self _⟩

theorem State.formOutside_of_none (h : (s.bell n).outs = []) (interval : Nat) :
    s.formOutside n interval v = ([], s) := by
  have hlevels : (s.bell n).outs.filter (fun o => decide (o.instant ≤ (v.chron : Rat))) = [] := by rw [h]; rfl
  have hwait : (s.bell n).outs.filter (fun o => !decide (o.instant ≤ (v.chron : Rat))) = (s.bell n).outs := by rw [h]; rfl
  unfold State.formOutside
  dsimp only
  rw [hlevels]
  refine congrArg (Prod.mk []) (State.modBell_eq_self ?_)
  rw [hwait]
  rfl

theorem tallyCompare_of_stopped (h : v.mode = .stopped) (dir : Nat) (perturn : Bool) (target : Int) (a : Val) :
    tallyCompare dir perturn target a v = none := by
  simp [tallyCompare, h, tallyPositioned]

/-- The timers of stall `n` whose span elapses at sample `v` (R159). -/
def State.expiring (s : State) (n : Fin 16) (v : Val) : List (Fin 2) :=
  (List.finRange 2).filter fun k => (((s.bell n).timers[k]).run &&
    spanElapsed (s.val F.STL_BEL_TMR_DUR_DUR k n) ((s.bell n).timers[k]).start ((s.bell n).timers[k]).pos 0 v)

/-- The timers after the expiry of those listed (R159). -/
def expire (l : List (Fin 2)) (timers : Vector BellTimer 2) : Vector BellTimer 2 :=
  l.foldl (fun t k => updAt t k fun x => { x with run := false, expired := true }) timers

/-- With nothing set up and nothing from outside, the conditions at a sample are the expiries of its timers. -/
theorem State.formConds_of_none (h : s.SequenceOnly n) (houts : (s.bell n).outs = []) (hmode : v.mode = .stopped) :
    ∃ c cs, s.formConds n v = (c, s.modBell n fun b => { b with comps := cs, timers := expire (s.expiring n v) b.timers }) ∧
      c.events = [] ∧ c.expired = s.expiring n v := by
  obtain ⟨cs, hcomps⟩ := State.formComps_of_none (v := v) h
  have houtside := State.formOutside_of_none (s := s.modBell n fun b => { b with comps := cs }) (n := n) (v := v)
    (by rw [State.bell_modBell_same]; exact houts)
  unfold State.formConds
  rw [hcomps]
  dsimp only
  rw [houtside]
  dsimp only
  rw [State.modBell_modBell]
  refine ⟨_, cs, rfl, ?_, rfl⟩
  dsimp only
  cases (s.bell n).prev with
  | none => rfl
  | some p =>
    dsimp only
    rw [tallyCompare_of_stopped hmode]
    rfl

/-! The steps of a sample before the sequence's. -/

theorem State.latchHold_eq : ∃ w, s.latchHold n v = s.modBell n fun b => { b with holdWord := w } := by
  unfold State.latchHold
  split
  · exact ⟨0, rfl⟩
  · exact ⟨(s.bell n).holdWord, (State.modBell_eq_self rfl).symm⟩

theorem State.beginBuffer_of_none (h : (s.bell n).beginAt = none) : s.beginBuffer n v = s := by
  simp [State.beginBuffer, h]

theorem State.armIfReady_of_armed (h : (s.bell n).phase = .armed) : s.armIfReady n v = s := by
  simp [State.armIfReady, h]

/-! The sequence (R157, R158, R160). -/

theorem State.countRound_of_none (h : s.SequenceOnly n) (l : List (Fin 4)) : s.countRound n c l = (c, s, l) := by
  refine (List.foldl_hom (fun rest => (c, s, rest)) (g₁ := fun rest k => rest ++ [k]) fun rest k => ?_).trans ?_
  · simp [h.counts]
  · simp [← List.flatMap_def]

theorem State.countAll_of_none (h : s.SequenceOnly n) : s.countAll n c = (c, s) := by
  simp [State.countAll, State.countRound_of_none h]

theorem State.occurs_always : s.occurs n c 1 = true := by
  simp [State.occurs]

/-- Code 0 is no condition (R148). -/
theorem State.occurs_never (h : ∀ e ∈ c.events, e.1 ≠ 0) : s.occurs n c 0 = false := by
  have hevents : c.events.any (·.1 == 0) = false := by simpa using h
  simp [State.occurs, hevents]

theorem State.autoStep_of_off (h : s.SequenceOnly n) (last : Bool) : s.autoStep n c v last = s := by
  simp [State.autoStep, h.auto, spanValue]

theorem State.flag_of_word_zero {s : State} {f : Fld} {k n : Nat} (h : s.word (f.num k n) = 0) : s.flag f k n = false := by
  simp [State.flag, State.val, h, Fld.get, bitsOf]

/-- A state is entered that has no action (R160). -/
theorem State.enter_of_no_action (h : s.SequenceOnly n) {k : Nat} (hact : s.word (R.STL_BEL_S_ACT.num k n) = 0) (f : Nat)
    (trig : Bool) : s.enter n c v k f trig = (c, s.modBell n fun b => { b with state := k }) := by
  have hmark : s.flag F.STL_BEL_S_ACT_MARK k n = false := State.flag_of_word_zero hact
  have hcry : s.flag F.STL_BEL_S_ACT_CRY k n = false := State.flag_of_word_zero hact
  have hlaunch : s.flag F.STL_BEL_S_ACT_LAUNCH k n = false := State.flag_of_word_zero hact
  have hcount : s.flag F.STL_BEL_S_ACT_COUNT k n = false := State.flag_of_word_zero hact
  have htrigger : s.flag F.STL_BEL_S_ACT_TRIGGER k n = false := State.flag_of_word_zero hact
  simp [State.enter, hmark, hcry, hlaunch, hcount, htrigger, h.clears, h.starts]

/-- Where the sequence goes at a sample with no event but expiries: by ADV ANY with no qualification to NEXT, by RST ANY to
state 0, both states without an action, or nowhere. The advance of state 0 occurs only where the sequence takes it, so that no
overlap is counted (R157, R158, R171). -/
inductive State.Moves (s : State) (n : Fin 16) : Option (Nat × Bool) → Prop
  | advance (hqual : s.val F.STL_BEL_S_COND_QUAL (s.bell n).state n = 0)
      (hinv : s.flag F.STL_BEL_S_COND_QINV (s.bell n).state n = false)
      (hadv : s.val F.STL_BEL_S_COND_ADV (s.bell n).state n = 1) (hfirst : s.val F.STL_BEL_S_COND_ADV 0 n ≤ 1)
      (hact : s.word (R.STL_BEL_S_ACT.num (s.val F.STL_BEL_S_COND_NEXT (s.bell n).state n) n) = 0) :
      s.Moves n (some (s.val F.STL_BEL_S_COND_NEXT (s.bell n).state n, true))
  | reset (hadv : s.val F.STL_BEL_S_COND_ADV (s.bell n).state n = 0) (hfirst : s.val F.STL_BEL_S_COND_ADV 0 n = 0)
      (hrst : s.val F.STL_BEL_S_COND_RST (s.bell n).state n = 1) (hact : s.word (R.STL_BEL_S_ACT.num 0 n) = 0) :
      s.Moves n (some (0, false))
  | stay (hadv : s.val F.STL_BEL_S_COND_ADV (s.bell n).state n = 0) (hfirst : s.val F.STL_BEL_S_COND_ADV 0 n = 0)
      (hrst : s.val F.STL_BEL_S_COND_RST (s.bell n).state n = 0) : s.Moves n none

theorem State.Moves.modBell {move : Option (Nat × Bool)} (h : s.Moves n move) {f : Bell → Bell}
    (hstate : (f (s.bell n)).state = (s.bell n).state) : (s.modBell n f).Moves n move := by
  have hst : ((s.modBell n f).bell n).state = (s.bell n).state := by rw [State.bell_modBell_same, hstate]
  cases h with
  | advance hqual hinv hadv hfirst hact =>
    have hmoves := State.Moves.advance (s := s.modBell n f) (n := n)
    rw [hst] at hmoves
    exact hmoves hqual hinv hadv hfirst hact
  | reset hadv hfirst hrst hact => exact .reset (by rw [hst]; exact hadv) hfirst (by rw [hst]; exact hrst) hact
  | stay hadv hfirst hrst => exact .stay (by rw [hst]; exact hadv) hfirst (by rw [hst]; exact hrst)

theorem State.Moves.sequenceMove {move : Option (Nat × Bool)} (h : s.Moves n move) (hevents : ∀ e ∈ c.events, e.1 ≠ 0) :
    s.sequenceMove n c = (move.map fun m => (m.1, c.frac 1, m.2), s) := by
  cases h with
  | advance hqual hinv hadv => simp [State.sequenceMove, hadv, State.occurs_always, State.qualHolds, hqual, hinv]
  | reset hadv _ hrst => simp [State.sequenceMove, hadv, hrst, State.occurs_never hevents, State.occurs_always]
  | stay hadv _ hrst => simp [State.sequenceMove, hadv, hrst, State.occurs_never hevents]

/-- Where the advance of state 0 occurs, the sequence takes it. -/
theorem State.Moves.takes_first {move : Option (Nat × Bool)} (h : s.Moves n move) (hevents : ∀ e ∈ c.events, e.1 ≠ 0)
    (hoccurs : s.occurs n c (s.val F.STL_BEL_S_COND_ADV 0 n) = true) :
    s.val F.STL_BEL_S_COND_ADV (s.bell n).state n = s.val F.STL_BEL_S_COND_ADV 0 n ∧ ∃ k, move = some (k, true) := by
  have hfirst : s.val F.STL_BEL_S_COND_ADV 0 n ≠ 0 := fun hzero => by
    rw [hzero, State.occurs_never hevents] at hoccurs
    exact Bool.false_ne_true hoccurs
  cases h with
  | advance _ _ hadv hle => exact ⟨by omega, _, rfl⟩
  | reset _ hzero => exact absurd hzero hfirst
  | stay _ hzero => exact absurd hzero hfirst

theorem State.Moves.no_action {k : Nat} {adv : Bool} (h : s.Moves n (some (k, adv))) :
    s.word (R.STL_BEL_S_ACT.num k n) = 0 := by
  cases h with
  | advance _ _ _ _ hact => exact hact
  | reset _ _ _ hact => exact hact

/-- The conditions of an armed sample with the expiries at it among the events (R159). -/
def Conds.withExpiries (c : Conds) : Conds :=
  { c with events := c.expired.foldl (fun l k => addEvent l (0x0C + k.val) 0) c.events }

theorem addEvent_code_ne_zero {l : List (Nat × Nat)} (hl : ∀ e ∈ l, e.1 ≠ 0) {code : Nat} (hcode : code ≠ 0) (f : Nat) :
    ∀ e ∈ addEvent l code f, e.1 ≠ 0 := by
  unfold addEvent
  split
  · exact hl
  · simpa [or_imp, forall_and, hcode] using hl

/-- An expiry is an event of its own, never that of code 0. -/
theorem Conds.withExpiries_code_ne_zero (h : c.events = []) : ∀ e ∈ c.withExpiries.events, e.1 ≠ 0 := by
  refine List.foldlRecOn (motive := fun l : List (Nat × Nat) => ∀ e ∈ l, e.1 ≠ 0) c.expired _ ?_ fun l hl k _ =>
    addEvent_code_ne_zero hl (Nat.ne_of_gt (Nat.add_pos_left (by decide) _)) 0
  simp [h]

/-- The state with the expiries at a sample among what happened at it. -/
def State.withExpiries (s : State) (n : Fin 16) (c : Conds) : State :=
  s.modBell n fun b => { b with seen := b.seen ++ c.expired.map Happening.expired }

theorem State.foldl_happen (s : State) (n : Fin 16) (c : Conds) :
    c.expired.foldl (fun s k => s.happen n (.expired k)) s = s.withExpiries n c := by
  unfold State.withExpiries
  induction c.expired generalizing s with
  | nil => exact (State.modBell_eq_self (by simp)).symm
  | cons k l ih =>
    rw [List.foldl_cons, ih, State.happen, State.modBell_modBell]
    simp

/-- What a move of the sequence is reported as. -/
def moveHappening : Option (Nat × Bool) → List Happening
  | some (_, adv) => [if adv then .advanced else .reset]
  | none => []

/-- What a move of the sequence to a state without an action makes of the Bell; with no move the Bell stays. -/
def Bell.movedBy (b : Bell) : Option (Nat × Bool) → Bell
  | some (k, adv) => { b with rstHeld := false, seen := b.seen ++ moveHappening (some (k, adv)), state := k }
  | none => b

section MovedBy

variable (b : Bell) (move : Option (Nat × Bool))

@[simp] theorem Bell.movedBy_obs : (b.movedBy move).obs = b.obs := by cases move <;> rfl
@[simp] theorem Bell.movedBy_phase : (b.movedBy move).phase = b.phase := by cases move <;> rfl
@[simp] theorem Bell.movedBy_timers : (b.movedBy move).timers = b.timers := by cases move <;> rfl
@[simp] theorem Bell.movedBy_state : (b.movedBy move).state = (move.map Prod.fst).getD b.state := by cases move <;> rfl

@[simp] theorem Bell.movedBy_seen : (b.movedBy move).seen = b.seen ++ moveHappening move := by
  cases move with
  | none => exact (List.append_nil _).symm
  | some m => rfl

/-- After a move no reset is held (R157). -/
theorem Bell.movedBy_rstHeld (h : b.rstHeld = false) : (b.movedBy move).rstHeld = false := by
  cases move with
  | none => exact h
  | some m => rfl

end MovedBy

/-- An armed sample at which nothing but the sequence acts: the expiries, then the move. -/
theorem State.armedSample_of_moves {move : Option (Nat × Bool)} (h : s.SequenceOnly n) (hmoves : s.Moves n move)
    (hheld : (s.bell n).rstHeld = false) (hevents : c.events = []) (last : Bool) :
    (s.armedSample n c v [] last).2 = (s.withExpiries n c).modBell n fun b => b.movedBy move := by
  have hcodes := Conds.withExpiries_code_ne_zero hevents
  have hset : (s.withExpiries n c).SequenceOnly n := h.modBell _
  have hmoves' : (s.withExpiries n c).Moves n move := hmoves.modBell rfl
  have hrst : ((s.withExpiries n c).bell n).rstHeld = false := by
    rw [State.withExpiries, State.bell_modBell_same]
    exact hheld
  unfold State.armedSample
  rw [State.foldl_happen]
  generalize s.withExpiries n c = t at *
  extract_lets s1 c1 st
  split
  next c2 s2 hcount =>
  obtain ⟨rfl, rfl⟩ := Prod.mk.inj ((State.countAll_of_none hset).symm.trans hcount)
  split
  next taken s3 hmove =>
  obtain ⟨rfl, rfl⟩ := Prod.mk.inj ((hmoves'.sequenceMove hcodes).symm.trans hmove)
  extract_lets first taken overlap s4 seqTrig forcedFirst
  have hoverlap : overlap = false := by
    cases hoccurs : t.occurs n c1 first with
    | false => simp [overlap, hoccurs]
    | true =>
      obtain ⟨hadv, k, rfl⟩ := hmoves'.takes_first hcodes hoccurs
      simp [overlap, taken, first, st, s1, hadv]
  have hs4 : s4 = t := if_neg (by simp [hoverlap])
  clear_value s4
  subst hs4
  split
  next c5 s5 hmoved =>
  have hs5 : s5 = s4.modBell n fun b => b.movedBy move := by
    refine (congrArg Prod.snd hmoved).symm.trans ?_
    rcases move with _ | ⟨k, adv⟩
    · exact (State.modBell_eq_self rfl).symm
    · dsimp only [Option.map_some]
      rw [State.happen, State.enter_of_no_action ((hset.modBell _).modBell _) hmoves'.no_action]
      dsimp only
      rw [State.modBell_modBell, State.modBell_modBell]
      rfl
  have hrst5 : (s5.bell n).rstHeld = false := by
    rw [hs5, State.bell_modBell_same]
    exact Bell.movedBy_rstHeld _ _ hrst
  dsimp only
  rw [if_neg (by simp [hrst5]), hs5]
  exact State.autoStep_of_off (hset.modBell _) last

/-- Counting towards an events holdoff changes that count alone (R162). -/
theorem State.countHold_eq : ∃ k, s.countHold n c v = s.modBell n fun b => { b with holdCount := k } := by
  unfold State.countHold
  dsimp only
  split
  · exact ⟨(s.bell n).holdCount + 1, State.modBell_congr rfl⟩
  · exact ⟨(s.bell n).holdCount, (State.modBell_eq_self rfl).symm⟩

theorem State.expiring_modBell {f : Bell → Bell} (h : (f (s.bell n)).timers = (s.bell n).timers) :
    (s.modBell n f).expiring n v = s.expiring n v := by
  simp only [State.expiring, State.bell_modBell_same, h]
  rfl

/-- The steps before the conditions are formed can but end the holdoff of a Bell that is armed (R162). -/
theorem State.beforeConds_of_armed (hphase : (s.bell n).phase = .armed) (hbegin : (s.bell n).beginAt = none) :
    ∃ w, (((s.modBell n fun b => { b with seen := [] }).latchHold n v).beginBuffer n v).armIfReady n v =
      s.modBell n fun b => { b with seen := [], holdWord := w } := by
  obtain ⟨w, hlatch⟩ := State.latchHold_eq (s := s.modBell n fun b => { b with seen := [] }) (n := n) (v := v)
  refine ⟨w, ?_⟩
  rw [hlatch, State.modBell_modBell, State.beginBuffer_of_none (by rw [State.bell_modBell_same]; exact hbegin),
    State.armIfReady_of_armed (by rw [State.bell_modBell_same]; exact hphase)]

/-- The Bell of an armed sample as it comes to the sequence: nothing has happened yet, `w` is what is left of the holdoff, the
comparators have examined the sample and the timers of `l` have expired. -/
def Bell.beforeSequence (b : Bell) (w : Nat) (cs : Vector Comp 4) (l : List (Fin 2)) : Bell :=
  { b with seen := [], holdWord := w, comps := cs, timers := expire l b.timers }

/-- What an armed sample sets up for the sequence, with no comparator set up and nothing from outside. -/
theorem State.beforeSequence_of_armed (h : s.SequenceOnly n) (hphase : (s.bell n).phase = .armed)
    (hbegin : (s.bell n).beginAt = none) (houts : (s.bell n).outs = []) (hmode : v.mode = .stopped) :
    ∃ (t : State) (c : Conds) (w : Nat) (cs : Vector Comp 4),
      (((s.modBell n fun b => { b with seen := [] }).latchHold n v).beginBuffer n v).armIfReady n v = t ∧
      (t.bell n).seen = [] ∧ t.formConds n v = (c, s.modBell n fun b => b.beforeSequence w cs (s.expiring n v)) ∧
      c.events = [] ∧ c.expired = s.expiring n v := by
  obtain ⟨w, hbefore⟩ := State.beforeConds_of_armed (v := v) hphase hbegin
  obtain ⟨c, cs, hform, hevents, hexpired⟩ := State.formConds_of_none (v := v)
    (h.modBell fun b => { b with seen := [], holdWord := w }) (by rw [State.bell_modBell_same]; exact houts) hmode
  rw [State.expiring_modBell rfl] at hform hexpired
  refine ⟨_, c, w, cs, hbefore, ?_, hform.trans ?_, hevents, hexpired⟩
  · rw [State.bell_modBell_same]
  · rw [State.modBell_modBell]
    rfl

/-- An armed sample with nothing set up and nothing from outside: the sequence's part, between what comes before and after. -/
theorem State.bellSample_of_armed (h : s.SequenceOnly n) (hphase : (s.bell n).phase = .armed)
    (hbegin : (s.bell n).beginAt = none) (houts : (s.bell n).outs = []) (hforces : (s.bell n).forces = [])
    (hmode : v.mode = .stopped) (last : Bool) :
    ∃ (c : Conds) (w : Nat) (cs : Vector Comp 4), c.events = [] ∧ c.expired = s.expiring n v ∧
      ∃ k, s.bellSample n v last =
        ((s.modBell n fun b => b.beforeSequence w cs (s.expiring n v)).armedSample n c v [] last).2.modBell n
          fun b => { b with holdCount := k, prev := some v } := by
  obtain ⟨t, c, w, cs, hbefore, hseen, hform, hevents, hexpired⟩ :=
    State.beforeSequence_of_armed (v := v) h hphase hbegin houts hmode
  refine ⟨c, w, cs, hevents, hexpired, ?_⟩
  have hbell := State.bell_modBell_same s n fun b => b.beforeSequence w cs (s.expiring n v)
  generalize (s.modBell n fun b => b.beforeSequence w cs (s.expiring n v)) = u at *
  obtain ⟨k, hcount⟩ := State.countHold_eq (s := (u.armedSample n c v [] last).2) (n := n)
    (c := (u.armedSample n c v [] last).1) (v := v)
  refine ⟨k, ?_⟩
  have hforced : (u.bell n).forces = [] := by rw [hbell]; exact hforces
  have hwait : (u.bell n).forces.filter (fun f => !decide (f.instant ≤ v.chron)) = (u.bell n).forces := by rw [hforced]; rfl
  have hfiltered : (u.modBell n fun b => { b with forces := b.forces.filter fun f => !decide (f.instant ≤ v.chron) }) = u :=
    State.modBell_eq_self (by rw [hwait])
  unfold State.bellSample
  extract_lets s1 post s2 armedNow
  have hphase1 : (s1.bell n).phase = .armed := (congrArg Bell.phase (State.bell_modBell_same ..)).trans hphase
  have hpost : post = false := by simp [post, State.inPhase, hphase1]
  have hs2 : s2 = t := hbefore
  have harmed : armedNow = false := by simp [armedNow, hs2, hseen]
  clear_value armedNow s2 post s1
  subst harmed hs2 hpost
  rw [if_neg (by simp [hphase1]), hform]
  dsimp only
  rw [hfiltered, hforced, show (u.bell n).phase = .armed by rw [hbell]; exact hphase]
  simp only [Bool.false_eq_true, if_false, Bool.false_and]
  rw [List.filter_nil, List.insertionSort_nil, hcount, State.modBell_modBell]

/-! The one sample that waits (R157). -/

theorem State.notePast_of_same_tolls {t : State} (h : t.tollDue = s.tollDue) (i : Nat) : s.notePast t i = t := by
  simp [State.notePast, State.tollCounted, h]

theorem State.evalNext_of_one {t : State} (hobs : (s.bell n).obs = [v])
    (ht : (s.modBell n fun b => { b with obs := [] }).bellSample n v true = t) (htolls : t.tollDue = s.tollDue) :
    s.evalNext n = t := by
  unfold State.evalNext
  rw [hobs]
  dsimp only
  rw [ht, State.notePast_of_same_tolls htolls, State.notePast_of_same_tolls htolls, ite_self]

theorem State.reportBell_of_no_sample (h : (s.bell n).obs = []) (e : Happening) : s.reportBell n e = s := by
  have hdue : s.dueSamples n = 0 := by
    have hstall : (s.stalls[n]).bell.obs = [] := h
    simp only [State.dueSamples, hstall, List.takeWhile_nil, List.length_nil]
  rw [State.reportBell, hdue]
  rfl

theorem State.reportBell_of_one {e : Happening} (hobs : (s.bell n).obs = [v])
    (hdue : v.tick + mitesPerTick * (s.stalls[n]).evalLag < s.now) (hseen : ((s.evalNext n).bell n).seen.contains e = true) :
    s.reportBell n e = s.evalNext n := by
  have hone : s.dueSamples n = 1 := by
    have hstall : (s.stalls[n]).bell.obs = [v] := hobs
    simp only [State.dueSamples, hstall, hdue, decide_true, List.takeWhile_cons_of_pos, List.takeWhile_nil,
      List.length_singleton]
  simp only [State.reportBell, hone, State.scanFor, hseen, if_true, Option.getD_some]

theorem State.sequenceOnly_of_quiet {timers : Bool} (h : s.quietSample n v timers false) : s.SequenceOnly n := by
  obtain ⟨-, -, -, -, -, -, -, -, hwords, hstarts, hauto⟩ := h
  simp only [forall_and] at hwords hstarts
  obtain ⟨hcomps, -, hcounts, hclears⟩ := hwords
  exact ⟨hcomps, hcounts, hclears, hstarts.left, (hauto rfl).left⟩

/-- A Bell that is armed, at the one quiet sample that waits: it goes where its sequence goes, the timers whose span elapses
expire, and nothing outside its stall changes. -/
theorem State.reportBell_of_moves {timers : Bool} {move : Option (Nat × Bool)} {e : Happening}
    (hquiet : s.quietSample n v timers false) (hphase : (s.bell n).phase = .armed) (hbegin : (s.bell n).beginAt = none)
    (hmoves : s.Moves n move) (he : e ∈ (s.expiring n v).map Happening.expired ++ moveHappening move) :
    ∃ t, s.reportBell n e = t ∧ { t with stalls := s.stalls } = s ∧ (∀ m : Fin 16, m ≠ n → t.stalls[m] = s.stalls[m]) ∧
      (t.bell n).obs = [] ∧ (t.bell n).prev = some v ∧ (t.bell n).phase = .armed ∧
      (t.bell n).state = (move.map Prod.fst).getD (s.bell n).state ∧
      (t.bell n).timers = expire (s.expiring n v) (s.bell n).timers := by
  have hset := State.sequenceOnly_of_quiet hquiet
  obtain ⟨hobs, hdue, hmode, houts, hforces, -, hheld, -⟩ := hquiet
  have hbell := State.bell_modBell_same s n fun b => { b with obs := [] }
  obtain ⟨c, w, cs, hevents, hexpired, k, hsample⟩ := State.bellSample_of_armed (v := v)
    (hset.modBell fun b => { b with obs := [] })
    (by rw [hbell]; exact hphase) (by rw [hbell]; exact hbegin) (by rw [hbell]; exact houts)
    (by rw [hbell]; exact hforces) hmode true
  rw [State.expiring_modBell rfl] at hexpired hsample
  rw [State.modBell_modBell, State.armedSample_of_moves (hset.modBell _) (hmoves.modBell rfl)
    (by rw [State.bell_modBell_same]; exact hheld) hevents, State.withExpiries, State.modBell_modBell, State.modBell_modBell,
    State.modBell_modBell, hexpired] at hsample
  have hnext := State.evalNext_of_one hobs hsample rfl
  have hseen : ((s.evalNext n).bell n).seen.contains e = true := by
    rw [hnext, State.bell_modBell_same]
    simpa [Bell.beforeSequence] using he
  refine ⟨_, (State.reportBell_of_one hobs hdue hseen).trans hnext, rfl, fun m hm => updAt_other _ hm.symm _, ?_⟩
  rw [State.bell_modBell_same]
  exact ⟨Bell.movedBy_obs .., rfl, (Bell.movedBy_phase ..).trans hphase, Bell.movedBy_state .., Bell.movedBy_timers ..⟩

theorem State.mem_expiring {j : Fin 2} : j ∈ s.expiring n v ↔ (((s.bell n).timers[j]).run &&
    spanElapsed (s.val F.STL_BEL_TMR_DUR_DUR j n) ((s.bell n).timers[j]).start ((s.bell n).timers[j]).pos 0 v) = true := by
  simp [State.expiring]

theorem expire_get {l : List (Fin 2)} {j : Fin 2} (h : j ∈ l) (timers : Vector BellTimer 2) :
    (expire l timers)[j] = { timers[j] with run := false, expired := true } :=
  (foldl_updAt_get_of_idem (g := fun _ (x : BellTimer) => { x with run := false, expired := true }) (fun _ => rfl) l
    timers).trans (if_pos h)

end Steps

end Sys2Proof.Machine

/-- Settles O33: with no sample that waits there is no event; else the sample is evaluated up to what the command reports. -/
theorem sequencesMove : Obligations.SequencesMove := by
  unfold Obligations.SequencesMove
  refine fun s n v k => ⟨fun hobs => ?none, fun hphase hbegin hqual hinv => ⟨fun hquiet hadv hfirst hnext hact => ?advance,
    fun hquiet hadv hfirst hrst hact => ?reset, fun j hquiet hadv hfirst hrst hrun hspan => ?expiry⟩⟩
  case none =>
    have hsame (e : Happening) : (Host.Outcome.next (s.reportBell n e) : Result) = .next s :=
      congrArg Host.Outcome.next (State.reportBell_of_no_sample hobs e)
    have hrearm : (if s.inPhase n .rearm then s.reportBell n .begun else s) = s := by
      rw [State.reportBell_of_no_sample hobs, ite_self]
    exact ⟨hsame _, hsame _, hsame _, hsame _, hsame _, congrArg Host.Outcome.next hrearm⟩
  case advance =>
    have hmoves : s.Moves n (some (k, true)) := by
      subst hnext
      exact .advance hqual hinv hadv hfirst hact
    obtain ⟨t, hreport, hframe, hothers, hobs, hprev, harmed, hstate, -⟩ :=
      State.reportBell_of_moves hquiet hphase hbegin hmoves (e := .advanced) (by simp [moveHappening])
    exact ⟨t, congrArg Host.Outcome.next hreport, hframe, hothers, hobs, hprev, harmed, hstate⟩
  case reset =>
    obtain ⟨t, hreport, hframe, hothers, hobs, hprev, harmed, hstate, -⟩ :=
      State.reportBell_of_moves hquiet hphase hbegin (.reset hadv hfirst hrst hact) (e := .reset) (by simp [moveHappening])
    exact ⟨t, congrArg Host.Outcome.next hreport, hframe, hothers, hobs, hprev, harmed, hstate⟩
  case expiry =>
    have hj : j ∈ s.expiring n v := State.mem_expiring.mpr (by rw [hrun, hspan]; rfl)
    obtain ⟨t, hreport, hframe, hothers, hobs, hprev, harmed, hstate, htimers⟩ :=
      State.reportBell_of_moves hquiet hphase hbegin (.stay hadv hfirst hrst)
        (List.mem_append_left _ (List.mem_map_of_mem hj))
    refine ⟨t, congrArg Host.Outcome.next hreport, hframe, hothers, hobs, hprev, harmed, ?_⟩
    have htimer : (t.bell n).timers[j] = { (s.bell n).timers[j] with run := false, expired := true } := by
      rw [htimers]
      exact expire_get hj _
    exact ⟨congrArg BellTimer.run htimer, congrArg BellTimer.expired htimer, hstate⟩

end

/-! ## The TRIG_IN pins and the decisions of the Bells (07_bell R149, R153, R165; 20_package R411) -/

section

open Sys2Proof Sys2Proof.Machine

namespace Sys2Proof.Machine

variable {s : State}

/-- What a stall keeps of what comes from outside: all of it, where its Bell runs (R149). -/
def Stall.keeping (o : Outside) (t : Stall) : Stall :=
  if t.bell.phase = .stopped then t else { t with bell := { t.bell with outs := t.bell.outs ++ [o] } }

theorem State.offerOutside_eq (s : State) (n : Fin 16) (o : Outside) : s.offerOutside n o = s.modStall n (Stall.keeping o) := by
  unfold State.offerOutside
  by_cases hphase : (s.stalls[n]).bell.phase = .stopped
  · rw [if_pos (by simpa [State.bell] using hphase)]
    exact (State.modStall_eq_self (f := Stall.keeping o) (if_pos hphase)).symm
  · rw [if_neg (by simpa [State.bell] using hphase)]
    exact State.modStall_congr (if_neg hphase).symm

theorem State.foldl_offerOutside (s : State) (o : Outside) (l : List (Fin 16)) : l.foldl (fun s n => s.offerOutside n o) s =
    { s with stalls := l.foldl (fun v n => updAt v n (Stall.keeping o)) s.stalls } := by
  induction l generalizing s with
  | nil => rfl
  | cons n l ih =>
    rw [List.foldl_cons, ih, State.offerOutside_eq]
    rfl

/-- Every stall keeps what it keeps of what is offered to all, and nothing else changes. -/
theorem State.offerAll_eq (s : State) (o : Outside) :
    s.offerAll o = { s with stalls := Vector.ofFn fun n => (s.stalls[n]).keeping o } := by
  rw [State.offerAll, State.foldl_offerOutside, foldl_finRange_updAt fun _ => Stall.keeping o]

theorem trigInEdge_of_no_edge {pin : Fin 4} {level : Bool} (h : s.trigIn[pin] = level ∨ s.power.regime = .watch)
    (stamp : Nat) : trigInEdge pin level stamp s = s := by
  unfold trigInEdge
  rcases h with hlevel | hwatch
  · simp [hlevel]
  · exact if_pos hwatch

/-- The first edge of a tick is registered and offered to every Bell (R153). -/
theorem trigInEdge_of_first_edge {pin : Fin 4} {level : Bool} (hlevel : s.trigIn[pin] ≠ level)
    (hwatch : s.power.regime ≠ .watch) (hfirst : s.ev.trigEdges = []) (stamp : Nat) : trigInEdge pin level stamp s =
      { s with trigIn := s.trigIn.set pin level, ev := { s.ev with trigEdges := [(pin, level)] } }.offerAll
        ⟨0x18 + pin.val, stamp, level, true⟩ := by
  have hfresh : (!s.ev.trigEdges.contains (pin, level) && s.trigIn[pin] != level) = true := by
    rw [hfirst, bne_iff_ne.mpr hlevel]
    rfl
  unfold trigInEdge
  rw [if_neg hwatch]
  dsimp only
  rw [hfresh, hfirst, if_neg (by simpa using hlevel)]
  rfl

section Decision

variable {n : Fin 16} {due : Nat} {d : Decision} {ds : List (Nat × Decision)} (h : (s.bell n).decisions = (due, d) :: ds)

include h

theorem State.nextDecision_of_not_reached (hdue : s.now + s.tickLen ≤ due) : s.nextDecision n = s := by
  simp [State.nextDecision, h, State.not_reached_iff.mpr hdue]

theorem State.nextDecision_of_reached (hdue : due < s.now + s.tickLen) :
    s.nextDecision n = (s.modBell n fun b => { b with decisions := ds }).settleDecision n d := by
  simp only [State.nextDecision, h, State.reached_iff.mpr hdue, if_true]

end Decision

/-- A trigger's decision decides the oldest segment, and where no Bell is linked nothing else (R165). -/
theorem State.applyDecision_trigger {n : Fin 16} {g : Segment} {gs : List Segment} (hlinked : ∀ m, (s.bell m).linked = false)
    (hsegs : (s.stalls[n]).segs = g :: gs) (hg : g.decided = false) (i : Rat) :
    s.applyDecision n (.trigger i) = s.modStall n fun t => { t with segs := { g with decided := true } :: gs } := by
  unfold State.applyDecision
  refine (List.foldlRecOn (motive := fun t => t = _) _ _ rfl fun t ht m _ => ?_).trans (State.modStall_congr ?_)
  · rw [ht, State.linked_modStall rfl, hlinked m]
    rfl
  · rw [hsegs, List.takeWhile_cons_of_neg (by simp [hg]), List.dropWhile_cons_of_neg (by simp [hg])]
    rfl

end Sys2Proof.Machine

/-- Settles O35: the pins by whether the level changes, then the decision by its tick. -/
theorem pinsAndDecisions : Obligations.PinsAndDecisions := by
  unfold Obligations.PinsAndDecisions
  refine fun s => ⟨fun pin level stamp => ⟨fun h => ?noEdge, fun hlevel hwatch hfirst => ?edge⟩,
    fun n due i ds h => ⟨fun hdue => ?early, fun g gs hdue hlinked hsegs hg => ?decides⟩⟩
  case noEdge => exact congrArg Host.Outcome.next (trigInEdge_of_no_edge h stamp)
  case edge =>
    have hedge := (trigInEdge_of_first_edge hlevel hwatch hfirst stamp).trans (State.offerAll_eq ..)
    exact ⟨_, congrArg Host.Outcome.next hedge, rfl, rfl, rfl, fun n => Vector.getElem_ofFn ..⟩
  case early => exact congrArg Host.Outcome.next (State.nextDecision_of_not_reached h hdue)
  case decides =>
    refine congrArg Host.Outcome.next ((State.nextDecision_of_reached h hdue).trans ?_)
    have hlinked' (m : Fin 16) : ((s.modBell n fun b => { b with decisions := ds }).bell m).linked = false :=
      (State.linked_modStall rfl m).trans (hlinked m)
    have hsegs' : ((s.modBell n fun b => { b with decisions := ds }).stalls[n]).segs = g :: gs :=
      (congrArg Stall.segs (updAt_same ..)).trans hsegs
    exact (State.applyDecision_trigger hlinked' hsegs' hg i).trans (State.modStall_modStall ..)

end

/-! ## The Clerk's reads of Hall, where the arbiters are out of order (12_hall R247, R258) -/

section

open Sys2Proof Sys2Proof.Machine

namespace Sys2Proof.Machine

/-- What the Clerk has still to read for a request: a word at bank 1, then one at bank 0. -/
def twoReads : HallWork := { req := none, items := [.read 16, .read 0] }

/-- The Clerk reads two words of a region of 4,096 bytes. The arbiters are not canonical (their keys fall): that of bank 0, which
another port holds, stands behind that of bank 1 and reads as a fresh one. -/
def hiddenHolder : State := {
  force := [(R.HAL_RGN_CFG.num, F.HAL_RGN_CFG_SIZE.put 1 ||| F.HAL_RGN_CFG_KIND.put 7)]
  barter := { work := some twoReads }
  hall := { arbs := [(1, { claims := [21] }), (0, { holder := some { req := { port := 0, left := 2 }, burst := 2 } })] } }

/-- Both words lie in a region that port 21 may access, at banks of their own that let it in. -/
theorem hiddenHolder_clerkReaches : hiddenHolder.clerkReaches (twoReads.items.take 4) := by decide +kernel

/-- The grant at bank 1 leaves its arbiter as a fresh one, its entry goes, and the holder of bank 0 behind it is read: the second
word waits. -/
theorem hiddenHolder_waits : (hiddenHolder.workOn 4).barter.work.isSome = true := by decide +kernel

end Sys2Proof.Machine

/-- Refutes O6: the statement asks nothing of the arbiters' map. Where it is not in canonical form (`Sparse.wf`), an access at one
bank uncovers an arbiter that was not read before, and a word whose bank let the Clerk in at the beginning of the tick (R247)
waits. -/
theorem not_recordsAndHallAreFetched : ¬ Obligations.RecordsAndHallAreFetched := by
  unfold Obligations.RecordsAndHallAreFetched
  intro h
  obtain ⟨-, -, hwork⟩ := h
  obtain ⟨-, -, -, hreads⟩ := hwork hiddenHolder twoReads rfl
  have hread : ∀ x ∈ twoReads.items.take 4, ∀ a v, x ≠ .write a v := by simp [twoReads]
  obtain ⟨-, -, hdone⟩ := hreads (by simp [twoReads]) rfl ⟨rfl, rfl⟩ hiddenHolder_clerkReaches hread
  obtain ⟨hnone, -⟩ := hdone (by simp [twoReads]) rfl
  have hwaits := hiddenHolder_waits
  rw [hnone] at hwaits
  exact absurd hwaits (by decide)

end

/-! ## Consignments (16_barter R351 to R354) -/

section

open Sys2Proof Sys2Proof.Machine

namespace Sys2Proof.Machine

/-! What is read for a chunk leaves the Wharf alone. -/

section Reads

variable (s : State)

@[simp] theorem State.markStaging_wharf (a flags : Nat) : (s.markStaging a flags).wharf = s.wharf := by
  unfold State.markStaging
  split <;> rfl

@[simp] theorem State.eccFound_wharf (port half : Nat) (e : Ecc) : (s.eccFound port half e).wharf = s.wharf := by
  unfold State.eccFound
  extract_lets worst half' s1
  split
  · rw [State.logEvent_wharf, State.toll_wharf]
    exact s1.markStaging_wharf (half * 8) (2 ^ 9)
  · split
    · rw [State.toll_wharf]
      exact s1.markStaging_wharf (half * 8) (2 ^ 8)
    · rfl

@[simp] theorem State.eccWord_wharf (port a : Nat) (t0 t1 : Bool) (e0 e1 : Ecc) :
    (s.eccWord port a t0 t1 e0 e1).wharf = s.wharf := by
  cases t0 <;> cases t1 <;> simp [State.eccWord]

@[simp] theorem hallRead_wharf (port : Fin 26) (a : BitVec 27) (e0 e1 : Ecc) : (hallRead port a e0 e1 s).wharf = s.wharf := by
  unfold hallRead
  extract_lets a
  split
  · rfl
  · exact s.eccWord_wharf ..

@[simp] theorem State.clerkWords_wharf (n a : Nat) : (s.clerkWords n a).2.2.wharf = s.wharf := by
  induction n generalizing s a with
  | zero => rfl
  | succ n ih => exact (ih _ _).trans (hallRead_wharf ..)

@[simp] theorem State.askRewrite_wharf (n : Fin 16) (slot flags : Nat) : (s.askRewrite n slot flags).wharf = s.wharf := by
  unfold State.askRewrite
  extract_lets
  split_ifs <;> rfl

@[simp] theorem State.markSlot_wharf (a flags : Nat) : (s.markSlot a flags).wharf = s.wharf := by
  unfold State.markSlot
  split
  · rfl
  · extract_lets
    split_ifs
    · rfl
    · rfl
    · exact s.askRewrite_wharf ..

@[simp] theorem State.leaveErrors_wharf (cw : Nat) (e : SymbolErrors) : (s.leaveErrors cw e).wharf = s.wharf := by
  unfold State.leaveErrors
  extract_lets
  split_ifs <;> rfl

@[simp] theorem State.codewordFound_wharf (owner cw : Nat) (e : SymbolErrors) : (s.codewordFound owner cw e).wharf = s.wharf := by
  unfold State.codewordFound
  split
  · exact State.markSlot_wharf ..
  · extract_lets t
    have ht : t.wharf = s.wharf := s.leaveErrors_wharf ..
    split
    · refine (State.markSlot_wharf ..).trans ?_
      split <;> exact ht
    · exact ht

@[simp] theorem State.readRecord_wharf (a n : Nat) : (s.readRecord a n).2.2.wharf = s.wharf :=
  foldl_keeps State.wharf (fun t cw => t.codewordFound_wharf 1 cw 0) _ s

@[simp] theorem State.readSlots_wharf (u : Setup) (seg fuel i n : Nat) : (s.readSlots u seg fuel i n).2.2.wharf = s.wharf := by
  induction fuel generalizing s i n with
  | zero => rfl
  | succ fuel ih =>
    unfold State.readSlots
    split
    · rfl
    · exact (ih _ _ _).trans (s.readRecord_wharf ..)

theorem State.readStream_wharf (c : Consign) (i n : Nat) : (s.readStream c i n).2.2.wharf = s.wharf := by
  unfold State.readStream
  split
  · exact s.readSlots_wharf ..
  · exact s.clerkWords_wharf ..
  · exact s.clerkWords_wharf ..
  · rfl

end Reads

/-! The Wharf's queue (R354, R432). -/

section Queue

variable (w : Wharf) (c : Consign)

theorem Wharf.advance_current : (w.advance c).current =
    if c.next + 1 < c.stop then some { c with next := c.next + 1 } else w.queued.filter fun q => q.total != 0 := by
  unfold Wharf.advance
  split
  · rfl
  · cases w.queued with
    | none => rfl
    | some q => by_cases hq : q.total = 0 <;> simp [hq, Option.filter]

theorem Wharf.advance_queued : (w.advance c).queued = if c.next + 1 < c.stop then w.queued else none := by
  unfold Wharf.advance
  split
  · rfl
  · cases hq : w.queued with
    | none => simp only
    | some q => rfl

theorem Wharf.advance_link : (w.advance c).link = w.link := by
  unfold Wharf.advance
  split
  · rfl
  · cases w.queued <;> rfl

end Queue

/-- A consignment that the Wharf takes (R354, R432). -/
theorem State.takeConsign_eq (s : State) (c : Consign) : s.takeConsign c = { s with wharf := match s.wharf.current with
    | none => { s.wharf with current := if c.total = 0 then none else some c, cid := c.cid }
    | some _ => { s.wharf with queued := some c } } := by
  unfold State.takeConsign
  cases s.wharf.current <;> rfl

variable {s : State}

section Request

variable {body : List Byte} (hrun : s.running fnWharf = true) (hlen : body.length = 44)
  (hbad : (s.consignOf body).bad (beAt body 21 1) = false) (hbeyond : (s.consignOf body).beyond = false)

include hrun hlen hbad hbeyond

/-- While the link is down a consignment is refused, and noted for a link that comes up in the same tick (R351). -/
theorem consign_of_link_down (hlink : s.wharf.link = false) : consign body none s =
    { (s.toll 249).replied .busyRetry [] with ev := { s.ev with linkDown := some (none, s.consignOf body) } } := by
  simp only [consign, hlen, hbad, hrun, hbeyond, hlink]
  rfl

/-- A consignment is accepted where the queue has room and its snapshot is not being copied (R352, R354). -/
theorem consign_of_link_up (hlink : s.wharf.link = true) (hqueue : s.wharf.queued = none)
    (hcopy : (s.consignOf body).kind = 1 → (s.consignOf body).snap = true →
      (s.yards[Fin.ofNat 8 (s.consignOf body).unit]).copying = false) :
    consign body none s = s.acceptConsign none (s.consignOf body) := by
  have hready : ¬((s.consignOf body).kind = 1 ∧ (s.consignOf body).snap = true ∧
      (s.yards[Fin.ofNat 8 (s.consignOf body).unit]).copying = true) := fun ⟨hkind, hsnap, hbusy⟩ =>
    Bool.false_ne_true ((hcopy hkind hsnap).symm.trans hbusy)
  simp only [consign, hlen, hbad, hrun, hbeyond, hlink, hqueue, if_neg hready]
  rfl

end Request

/-- A number that stands in a body of known pieces, `i` bytes from its beginning. -/
theorem beAt_of_eq {body pre rest : List Byte} {i n v : Nat} (hbody : body = pre ++ (beBytes n v ++ rest)) (hi : pre.length = i)
    (h : v < 256 ^ n) : beAt body i n = v := by
  subst hbody hi
  rw [beAt, List.drop_left, List.take_left' (beBytes_length n v), ofBeBytes_beBytes h]

/-- Bytes that stand in a body of known pieces, `i` bytes from its beginning. -/
theorem take_drop_of_eq {α : Type} {body pre xs rest : List α} {i n : Nat} (hbody : body = pre ++ (xs ++ rest))
    (hi : pre.length = i) (hn : xs.length = n) : (body.drop i).take n = xs := by
  subst hbody hi hn
  rw [List.drop_left, List.take_left]

theorem ofBeBytes_replicate_zero (n : Nat) : ofBeBytes (List.replicate n 0) = 0 := by
  induction n with
  | zero => rfl
  | succ n ih => exact ih

/-- A number among the zeros at the end of a body. -/
theorem beAt_of_zeros {body pre : List Byte} {k : Nat} (hbody : body = pre ++ List.replicate k 0) {i n : Nat}
    (hi : pre.length ≤ i) : beAt body i n = 0 := by
  subst hbody
  rw [beAt, List.drop_append, List.drop_of_length_le hi, List.nil_append, List.drop_replicate, List.take_replicate,
    ofBeBytes_replicate_zero]

/-- A CONSIGN body that asks for the whole error log (R351). -/
theorem State.consignOf_errorLog (s : State) {cid port : Nat} {mac ip : List Byte} (hcid : cid < 2 ^ 32) (hport : port < 2 ^ 16)
    (hmac : mac.length = 6) (hip : ip.length = 4) :
    s.consignOf (beBytes 4 cid ++ [3, 0] ++ beBytes 2 port ++ mac ++ [0, 0] ++ ip ++ List.replicate 24 0) =
      { cid := cid, kind := 3, port := port, mac := mac, ip := ip, stop := 4, total := 4096 } := by
  generalize hbody : beBytes 4 cid ++ [3, 0] ++ beBytes 2 port ++ mac ++ [0, 0] ++ ip ++ List.replicate 24 0 = body
  have hzero (i n : Nat) (hi : 20 ≤ i) : beAt body i n = 0 := beAt_of_zeros hbody.symm (by simpa [hmac, hip] using hi)
  simp only [List.append_assoc] at hbody
  have hcidAt : beAt body 0 4 = cid := beAt_of_eq (pre := []) hbody.symm rfl hcid
  have hkind : beAt body 4 1 = 3 := beAt_of_eq (pre := beBytes 4 cid) hbody.symm (by simp) (by decide)
  have hportAt : beAt body 6 2 = port :=
    beAt_of_eq (pre := beBytes 4 cid ++ [3, 0]) (by simpa only [List.append_assoc] using hbody.symm) (by simp) hport
  have hmacAt : (body.drop 8).take 6 = mac :=
    take_drop_of_eq (pre := beBytes 4 cid ++ [3, 0] ++ beBytes 2 port) (by simpa only [List.append_assoc] using hbody.symm)
      (by simp) hmac
  have hipAt : (body.drop 16).take 4 = ip :=
    take_drop_of_eq (pre := beBytes 4 cid ++ [3, 0] ++ beBytes 2 port ++ mac ++ [0, 0])
      (by simpa only [List.append_assoc] using hbody.symm) (by simp [hmac]) hip
  simp [State.consignOf, hcidAt, hkind, hportAt, hmacAt, hipAt, hzero, State.streamBytes, logSize, chunkBytes]

section Chunk

variable {c : Consign} (hlink : s.wharf.link = true) (hcur : s.wharf.current = some c)

include hlink hcur

/-- The next chunk of the consignment in progress leaves through the BARTER region (R352, R353). -/
theorem wharfChunk_of_current {stream : List Byte} {bad : Bool} {s1 : State}
    (hread : s.readStream c (c.next * chunkBytes) (min chunkBytes (c.total - c.next * chunkBytes)) = (stream, bad, s1)) :
    ∃ sender, wharfChunk s = (s1.passRegion c.next stream).2.modWharf fun w => { w.advance c with
      sent := (w.sent + 1) % 2 ^ 32, last := chunkPayload c bad (s1.passRegion c.next stream).1
      lastTo := (c.mac, c.ip, c.port), lastFrom := sender } := by
  simp only [wharfChunk, hcur, hlink, hread]
  exact ⟨_, rfl⟩

/-- What a chunk leaves at the Wharf (R352 to R354). -/
theorem wharfChunk_wharf : ∃ last sender, (wharfChunk s).wharf = { s.wharf.advance c with
    sent := (s.wharf.sent + 1) % 2 ^ 32, last := last, lastTo := (c.mac, c.ip, c.port), lastFrom := sender } := by
  generalize hread : s.readStream c (c.next * chunkBytes) (min chunkBytes (c.total - c.next * chunkBytes)) = r
  obtain ⟨stream, bad, s1⟩ := r
  have hkept : s1.wharf = s.wharf := by
    have := s.readStream_wharf c (c.next * chunkBytes) (min chunkBytes (c.total - c.next * chunkBytes))
    rwa [hread] at this
  obtain ⟨sender, hchunk⟩ := wharfChunk_of_current hlink hcur hread
  rw [hchunk, ← hkept]
  exact ⟨_, _, rfl⟩

end Chunk

/-- Entries of the error log, as a chunk of it carries them (R352, R402). -/
def State.logChunk (s : State) (i : Nat) : List Byte := (List.range 64).flatMap fun j => (s.logEntry ((64 * i + j) % 256)).bytes

theorem LogEntry.bytes_length (e : LogEntry) : e.bytes.length = 16 := by simp [LogEntry.bytes]

theorem State.logChunk_length (s : State) (i : Nat) : (s.logChunk i).length = 1024 := by
  rw [State.logChunk, length_flatMap_const _ 16 _ fun j => LogEntry.bytes_length _]
  rfl

/-- A chunk of the error log (R352). -/
theorem State.readStream_errorLog (s : State) {c : Consign} (hkind : c.kind = 3) (htotal : c.total = 4096) (hnext : c.next < 4) :
    s.readStream c (c.next * chunkBytes) (min chunkBytes (c.total - c.next * chunkBytes)) = (s.logChunk c.next, false, s) := by
  have hlen : min chunkBytes (c.total - c.next * chunkBytes) / 16 = 64 := by
    simp only [chunkBytes, htotal]
    omega
  have hfirst : c.next * chunkBytes / 16 = 64 * c.next := by
    simp only [chunkBytes]
    omega
  simp only [State.readStream, hkind, hlen, hfirst]
  rfl

/-- Data of whole words pass through the BARTER region (R352). -/
theorem State.passRegion_eq (s : State) {i : Nat} {data : List Byte} (hlen : data.length % 16 = 0)
    (hwf : Memory.wf s.hall.mem = true) : s.passRegion i data = (data, s.hallWrite ((s.region (s.val F.WHF_CTRL_REGION)).base + i % 64 * chunkBytes) data) := by
  have hpad : (16 - data.length % 16) % 16 = 0 := by rw [hlen]
  simp only [State.passRegion, hpad, List.replicate_zero, List.append_nil]
  exact Prod.ext (memBytes_memWrite hwf _ _) rfl

/-- The next chunk of the error log leaves through its place in the BARTER region (R352). -/
theorem wharfChunk_of_errorLog {c : Consign} (hlink : s.wharf.link = true) (hcur : s.wharf.current = some c) (hkind : c.kind = 3)
    (htotal : c.total = 4096) (hnext : c.next < 4) (hwf : Memory.wf s.hall.mem = true) :
    ∃ w, wharfChunk s = { s.hallWrite ((s.region (s.val F.WHF_CTRL_REGION)).base + 1024 * c.next) (s.logChunk c.next) with
      wharf := w } ∧ w.last = chunkPayload c false (s.logChunk c.next) := by
  obtain ⟨sender, hexec⟩ := wharfChunk_of_current hlink hcur (s.readStream_errorLog hkind htotal hnext)
  rw [s.passRegion_eq (by rw [s.logChunk_length]) hwf, Nat.mod_eq_of_lt (by omega : c.next < 64), Nat.mul_comm c.next] at hexec
  exact ⟨_, hexec, rfl⟩

/-- A chunk's payload: the magic number and the version, the numbers of the consignment and of the chunk, and the data (R353). -/
theorem chunkPayload_parts (c : Consign) (bad : Bool) (data : List Byte) :
    (chunkPayload c bad data).take 3 = [0x57, 0x68, 1] ∧
    ((chunkPayload c bad data).drop 4).take 8 = beBytes 4 c.cid ++ beBytes 4 c.next ∧ (chunkPayload c bad data).drop 16 = data := by
  refine ⟨rfl, ?_, ?_⟩
  · simp only [chunkPayload, List.append_assoc, List.cons_append, List.nil_append, List.drop_succ_cons, List.drop_zero]
    rw [← List.append_assoc (beBytes 4 c.cid)]
    exact List.take_left' (by simp)
  · exact List.drop_left' (by simp)

/-- A chunk of 1,024 bytes that has passed through the BARTER region at `a`, and left (R352, R353). -/
theorem State.passedChunk {t : State} {w : Wharf} {c : Consign} {bad : Bool} {a : Nat} {data : List Byte}
    (hwf : Memory.wf s.hall.mem = true) (hlen : data.length = 1024) (hlast : w.last = chunkPayload c bad data)
    (ht : t = { s.hallWrite a data with wharf := w }) :
    { t with wharf := s.wharf, hall := s.hall } = s ∧ memBytes t.hall.mem a 1024 = t.wharf.last.drop 16 ∧
    (∀ x, x < a ∨ a + 1024 ≤ x → memByte t.hall.mem x = memByte s.hall.mem x) ∧ t.wharf.last.take 3 = [0x57, 0x68, 1] ∧
    (t.wharf.last.drop 4).take 8 = beBytes 4 c.cid ++ beBytes 4 c.next ∧ t.wharf.last.drop 16 = data := by
  obtain ⟨hmagic, hnumbers, hdata⟩ := chunkPayload_parts c bad data
  subst ht
  rw [hlast, ← hlen]
  exact ⟨rfl, (memBytes_memWrite hwf a data).trans hdata.symm, fun x => memByte_memWrite_outside hwf, hmagic, hnumbers, hdata⟩

end Sys2Proof.Machine

/-- Settles O12: the branches of CONSIGN; what a chunk leaves at the Wharf and, of the error log, in the BARTER region; and the
branches of the link's coming and going. -/
theorem consignmentsAreSent : Obligations.ConsignmentsAreSent := by
  unfold Obligations.ConsignmentsAreSent
  intro s
  refine ⟨fun body hfree hrun hqueue hlen => ?consigned, fun cid port mac ip hcid hport hmac hip => ?errorLog,
    fun c hlink hcur => ⟨?chunk, fun hkind htotal hnext hwf => ?logChunk⟩, fun hdown => ?linkUp, fun hlink => ?linkLoss⟩
  case consigned =>
    intro c hbad hbeyond
    refine ⟨fun hlink => ?_, fun hlink hcopy => ?_⟩
    · exact congrArg Host.Outcome.next ((State.clerk_free hfree ..).trans (consign_of_link_down hrun hlen hbad hbeyond hlink))
    · refine congrArg Host.Outcome.next ((State.clerk_free hfree ..).trans
        ((consign_of_link_up hrun hlen hbad hbeyond hlink hqueue hcopy).trans ?_))
      rw [State.acceptConsign, State.takeConsign_eq]
      rfl
  case errorLog => exact s.consignOf_errorLog hcid hport hmac hip
  case chunk =>
    obtain ⟨last, sender, hwharf⟩ := wharfChunk_wharf hlink hcur
    refine ⟨wharfChunk s, rfl, ?_⟩
    rw [hwharf]
    exact ⟨rfl, rfl, (s.wharf.advance_link c).trans hlink, s.wharf.advance_current c, s.wharf.advance_queued c⟩
  case logChunk =>
    obtain ⟨hhall, -⟩ := hwf
    obtain ⟨w, hexec, hlast⟩ := wharfChunk_of_errorLog hlink hcur hkind htotal hnext hhall
    exact ⟨wharfChunk s, rfl, State.passedChunk hhall (s.logChunk_length _) hlast hexec⟩
  case linkUp =>
    refine congrArg Host.Outcome.next ?_
    simp only [wharfLinkUp, hdown]
    rfl
  case linkLoss =>
    exact congrArg Host.Outcome.next (if_pos hlink)

end

/-! ## Hammer tables, pass clocks, header rewrites and the logs' selectors (13_dram R273, R282, R287 to R291; 19_tolls R401) -/

section

open Sys2Proof Sys2Proof.Machine

namespace Sys2Proof.Machine

variable {s : State}

/-- A cycle taken for MAINT work (R273). -/
theorem State.takeCycle_eq (s : State) (c : Fin 8) : s.takeCycle c = { s with
    hall := { s.hall with arbs := (s.takeCycle c).hall.arbs }
    dram := { s.dram with subs := updAt s.dram.subs c fun x => { x with taken := true } } } := rfl

/-! Hammer tables (R282). -/

/-- The one entry of a map, changed. -/
theorem Sparse.set_singleton {α : Type} [DecidableEq α] {d : Nat → α} (k : Nat) (v w : α) :
    Sparse.set d [(k, v)] k w = Sparse.cell d k w := by
  simp [Sparse.set]

/-- The one entry of a map, read. -/
theorem Sparse.get_cell_same {α : Type} [DecidableEq α] {d : Nat → α} (k : Nat) (v : α) :
    Sparse.get d (Sparse.cell d k v) k = v := by
  simpa using Sparse.get_cell (d := d) (k := k) (j := k) (v := v) (m := []) (by simp)

theorem Subchannel.bank_of_one {x : Subchannel} {i : Nat} {b : Bank} (h : x.banks = [(i, b)]) : x.bank i = b := by
  simp [Subchannel.bank, h, Sparse.get]

theorem Subchannel.bank_mapBanks_of_one {x : Subchannel} {i : Nat} {b : Bank} (h : x.banks = [(i, b)])
    (f : Nat → Bank → Bank) : (x.mapBanks f).bank i = f i b := by
  simp only [Subchannel.mapBanks, h, List.map_cons, List.map_nil]
  exact (congrArg (Sparse.get _ · i) (Sparse.set_singleton ..)).trans (Sparse.get_cell_same ..)

theorem Subchannel.mapBanks_of_none {x : Subchannel} (h : x.banks = []) (f : Nat → Bank → Bank) : x.mapBanks f = x := by
  rw [Subchannel.mapBanks, h]
  exact congrArg (fun l => { x with banks := l }) h.symm

/-- Whether the row of a bank with one row is mitigated (R273, R282). -/
theorem hammerMitigation_of_one {c : Fin 8} {b : Fin 64} {row n : Nat}
    (hbanks : (s.dram.subs[c]).banks = [(b.val, ⟨none, [(row, n)]⟩)]) : hammerMitigation c b row s =
    if s.mergeWaits c = false ∧ s.maintMay c = true ∧ s.slotOwner (256 + c) ∈ [1, 2, 7] ∧ s.dram.hammerTh ≤ n then
      (s.takeCycle c).mitigate c b row
    else s := by
  simp only [hammerMitigation, Subchannel.bank_of_one hbanks]
  simp [State.hammerCycle, and_assoc]

/-- A bank in which a row is mitigated (R282): the row's entry is cleared; without RFM its neighbours are activated. -/
def State.mitigatedBank (s : State) (row : Nat) (b : Bank) : Bank :=
  let h := b.hammer.filter fun e => e.1 != row
  if s.dram.rfm then { b with hammer := h } else { openRow := none, hammer := (s.neighbours row).foldl hammerAct h }

/-- The subchannel in whose bank a row is mitigated, in a cycle that is taken for it (R273, R282). -/
def State.mitigatedSub (s : State) (bank row : Nat) (x : Subchannel) : Subchannel :=
  ({ x with taken := true } : Subchannel).mapBanks fun i b => if i = bank then s.mitigatedBank row b else b

/-- What a mitigation moves (R273, R282). -/
theorem State.mitigate_takeCycle (s : State) (c : Fin 8) (bank row : Nat) : (s.takeCycle c).mitigate c bank row =
    ({ s with
      hall := (s.takeCycle c).hall
      dram := { s.dram with
        mitigations := (s.dram.mitigations + 1) % 2 ^ 32
        subs := updAt s.dram.subs c (s.mitigatedSub bank row) } } : State).toll 196 := by
  have hsubs : updAt (updAt s.dram.subs c fun x => { x with taken := true }) c
      (fun x => x.mapBanks fun i b => if i = bank then (s.takeCycle c).mitigatedBank row b else b) =
      updAt s.dram.subs c (s.mitigatedSub bank row) := updAt_updAt ..
  rw [← hsubs]
  rfl

/-- What a mitigation leaves in the table of a bank with one row (R282). -/
theorem State.mitigatedSub_bank {bank row n : Nat} {x : Subchannel} (h : x.banks = [(bank, ⟨none, [(row, n)]⟩)]) :
    (s.mitigatedSub bank row x).bank bank =
      if s.dram.rfm then ⟨none, []⟩ else ⟨none, (s.neighbours row).foldl hammerAct []⟩ := by
  have htaken : ({ x with taken := true } : Subchannel).banks = [(bank, ⟨none, [(row, n)]⟩)] := h
  rw [State.mitigatedSub, Subchannel.bank_mapBanks_of_one htaken, if_pos rfl]
  simp [State.mitigatedBank]

theorem hammerWindowEnd_of_not_reached (h : s.now + s.tickLen ≤ s.dram.windowEnd) : hammerWindowEnd s = s := by
  simp [hammerWindowEnd, State.not_reached_iff.mpr h]

/-- The window ends over tables that are empty (R282). -/
theorem hammerWindowEnd_of_reached (h : s.dram.windowEnd < s.now + s.tickLen)
    (hbanks : ∀ c : Fin 8, (s.dram.subs[c]).banks = []) : hammerWindowEnd s = { s with dram := { s.dram with
      hammerTh := s.val F.DRM_HAMMER_TH_TH, windowEnd := s.dram.windowEnd + 1280000000 } } := by
  have hsubs (f : Nat → Bank → Bank) : s.dram.subs.map (fun x => x.mapBanks f) = s.dram.subs := by
    refine Vector.ext fun i hi => ?_
    rw [Vector.getElem_map]
    exact Subchannel.mapBanks_of_none (hbanks ⟨i, hi⟩) f
  have hdue (g : Fin 8 → Nat × Bank → List (Fin 8 × Nat × Nat)) :
      ((List.finRange 8).flatMap fun c => (s.dram.subs[c]).banks.flatMap (g c)) = [] := by
    simp only [hbanks, List.flatMap_nil]
    simp
  simp only [hammerWindowEnd, State.reached_iff.mpr h, hdue, List.foldl_nil, State.modDram, hsubs]
  rfl

/-! The scrub's period (R289). -/

/-- A pass that begins where none is late (R289). -/
theorem Subchannel.beginScrub_of_not_late {x : Subchannel} (h : x.scrubLate = false) :
    x.beginScrub = { x with scrubAt := 0, scrubClock := 0, scrubOn := true } := by
  rw [Subchannel.beginScrub, ← h]

/-- A period that ends: a pass that still runs is late, otherwise the next begins (R289). -/
theorem dramScrubPeriod_of_due {c : Fin 8} (hper : s.val F.DRM_SCRUB_PERIOD ≠ 0) (hlate : (s.dram.subs[c]).scrubLate = false)
    (hdue : s.val F.DRM_SCRUB_PERIOD * 144000000000000 ≤ (s.dram.subs[c]).scrubClock) : dramScrubPeriod c s =
    if (s.dram.subs[c]).scrubOn then (s.modSub c fun x => { x with scrubLate := true }).toll 195
    else s.modSub c Subchannel.beginScrub := by
  have hbegun : ¬(s.val F.DRM_SCRUB_PERIOD = 0 ∨ (s.dram.subs[c]).scrubLate = true ∨
      (s.dram.subs[c]).scrubClock < s.val F.DRM_SCRUB_PERIOD * 144000000000000) := by
    rw [hlate]
    rintro (h | h | h)
    · exact hper h
    · exact absurd h (by decide)
    · omega
  exact if_neg hbegun

/-! The logs' selectors (R291, R401). -/

theorem State.setForce_whole (s : State) (n : Nat) (w : Word) :
    s.setForce n w (BitVec.allOnes 32) = { s with force := Sparse.set resetWord s.force n w } := by
  simp only [State.setForce, BitVec.not_allOnes, BitVec.and_zero, BitVec.and_allOnes, BitVec.zero_or]

theorem State.val_lt (s : State) (f : Fld) (k n : Nat) : s.val f k n < 2 ^ f.width := Nat.mod_lt _ (Nat.two_pow_pos _)

/-- A selector whose word is not the last of its entry (R291, R401). -/
theorem State.selNext_of_word_lt (s : State) (n : Nat) {e w bits : Nat} (he : e < 2 ^ bits) (hw : w < 3)
    (place : Nat → Nat → Word) : (s.selNext n e w bits place).force = Sparse.set resetWord s.force n (place e (w + 1)) := by
  have hword : (e * 4 + w + 1) % (2 ^ bits * 4) = e * 4 + (w + 1) := Nat.mod_eq_of_lt (by omega)
  simp only [State.selNext, State.setForce_whole, hword]
  rw [show (e * 4 + (w + 1)) / 4 = e by omega, show (e * 4 + (w + 1)) % 4 = w + 1 by omega]
  rfl

theorem elogDataRead_of_word_lt (hw : s.val F.DRM_ELOG_SEL_WORD < 3) : (elogDataRead s).force =
    Sparse.set resetWord s.force R.DRM_ELOG_SEL.base
      (F.DRM_ELOG_SEL_ENTRY.put (s.val F.DRM_ELOG_SEL_ENTRY) ||| F.DRM_ELOG_SEL_WORD.put (s.val F.DRM_ELOG_SEL_WORD + 1)) := by
  have he : s.val F.DRM_ELOG_SEL_ENTRY < 2 ^ 6 := s.val_lt ..
  rw [elogDataRead, State.answer_force, s.selNext_of_word_lt _ he hw]

theorem logDataRead_of_word_lt (hw : s.val F.LOG_SEL_WORD < 3) : (logDataRead s).force =
    Sparse.set resetWord s.force R.LOG_SEL.base
      (F.LOG_SEL_ENTRY.put (s.val F.LOG_SEL_ENTRY) ||| F.LOG_SEL_WORD.put (s.val F.LOG_SEL_WORD + 1)) := by
  have he : s.val F.LOG_SEL_ENTRY < 2 ^ 8 := s.val_lt ..
  rw [logDataRead, State.answer_force, s.selNext_of_word_lt _ he hw]

/-! What a burst finds in its codewords (R287, R288, R290). -/

/-- A fold over a list of which no element moves the value. -/
theorem foldl_eq_self {α β : Type} {f : β → α → β} {b : β} {l : List α} (h : ∀ x ∈ l, f b x = b) : l.foldl f b = b :=
  List.foldlRecOn (motive := fun t => t = b) l f rfl fun t ht x hx => by rw [ht, h x hx]

/-- A fold over a list of which one element moves the value, once. -/
theorem foldl_of_one {α β : Type} {f : β → α → β} {b b' : β} {k : α} {l : List α} (hl : l.Nodup) (hk : k ∈ l)
    (hmove : f b k = b') (hbefore : ∀ j, j ≠ k → f b j = b) (hafter : ∀ j, j ≠ k → f b' j = b') : l.foldl f b = b' := by
  induction l with
  | nil => cases hk
  | cons x xs ih =>
    obtain ⟨hx, hxs⟩ := List.nodup_cons.mp hl
    by_cases hxk : x = k
    · subst hxk
      rw [List.foldl_cons, hmove]
      exact foldl_eq_self fun j hj => hafter j fun h => hx (h ▸ hj)
    · rw [List.foldl_cons, hbefore x hxk]
      exact ih hxs ((List.mem_cons.mp hk).resolve_left (Ne.symm hxk))

theorem rsDecode_zero : rsDecode 0 = .clean := by decide

theorem residualErrors_zero : residualErrors 0 = 0 := by decide

theorem State.leaveErrors_zero (s : State) (cw : Nat) : s.leaveErrors cw 0 = s := by
  have hzero : (dataErrors 0).all (· == 0) = true := by decide
  simp only [State.leaveErrors, hzero, if_true]

/-- A codeword without an error (R287). -/
theorem State.codewordFound_clean {cw : Nat} (h : s.dram.bad.contains cw = false) (owner : Nat) :
    s.codewordFound owner cw 0 = s := by
  unfold State.codewordFound
  rw [h, rsDecode_zero, residualErrors_zero, State.leaveErrors_zero]
  rfl

/-- A flag that a header is asked to carry, where there is room for a rewrite (R290). -/
theorem State.askRewrite_eq {n : Fin 16} {slot : Nat} (flags : Nat) (hroom : s.dram.rewrites.length < 16) :
    ∃ l, s.askRewrite n slot flags = { s with dram := { s.dram with rewrites := l } } ∧
      ∀ r ∈ s.dram.rewrites, (n, slot) = (r.stall, r.slot) → l.length = s.dram.rewrites.length := by
  unfold State.askRewrite
  extract_lets l
  split
  · exact ⟨_, rfl, fun _ _ _ => List.length_map _⟩
  next hnone =>
  refine ⟨_, rfl, fun r hr heq => absurd ?_ hnone⟩
  obtain ⟨rfl, rfl⟩ := Prod.mk.inj heq
  exact List.any_eq_true.mpr ⟨r, hr, by simp⟩

/-- A flag marked in the header of the slot that holds an address (R197, R290). -/
theorem State.markSlot_eq (a flags : Nat) (hroom : s.dram.rewrites.length < 16) :
    ∃ stalls l, s.markSlot a flags = { s with stalls := stalls, dram := { s.dram with rewrites := l } } ∧
      ∀ r ∈ s.dram.rewrites, s.ringAt a = some (r.stall, r.slot) → l.length = s.dram.rewrites.length := by
  unfold State.markSlot
  split
  next => exact ⟨_, _, rfl, fun _ _ _ => rfl⟩
  next n slot hring =>
  extract_lets
  split
  · exact ⟨_, _, rfl, fun _ _ _ => rfl⟩
  · split
    · exact ⟨_, _, rfl, fun _ _ _ => rfl⟩
    · obtain ⟨l, hask, hlen⟩ := s.askRewrite_eq (n := n) (slot := slot) flags hroom
      exact ⟨_, l, hask, fun r hr heq => hlen r hr (Option.some.inj (hring.symm.trans heq))⟩

/-- An uncorrectable codeword among sound ones (R287, R288, R290, R291). -/
theorem State.codewordFound_uncorrectable {cw : Nat} {e : SymbolErrors} (owner : Nat) (hbad : s.dram.bad = [])
    (he : rsDecode e = .uncorrectable) (hroom : s.dram.rewrites.length < 16) :
    ∃ stalls dram, s.codewordFound owner cw e = { s.toll 193 with stalls := stalls, dram := dram } ∧ dram.mem = s.dram.mem ∧
      dram.bad = [cw] ∧
      ∀ r ∈ s.dram.rewrites, s.ringAt (cw * 8) = some (r.stall, r.slot) → dram.rewrites.length = s.dram.rewrites.length := by
  have hfound : s.codewordFound owner cw e =
      (((s.modDram fun d => { d with bad := [cw] }).toll 193).dramLog (cw * 8) 0xF owner true).markSlot (cw * 8) (2 ^ 9) := by
    simp [State.codewordFound, hbad, he, State.modDram]
  obtain ⟨stalls, l, hmark, hlen⟩ := State.markSlot_eq
    (s := ((s.modDram fun d => { d with bad := [cw] }).toll 193).dramLog (cw * 8) 0xF owner true) (cw * 8) (2 ^ 9) hroom
  exact ⟨stalls, _, hfound.trans hmark, rfl, rfl, hlen⟩

/-- A burst of which no codeword is corrected (R288). -/
theorem State.burstFound_of_not_corrected {owner cw : Nat} {found : Vector SymbolErrors 8}
    (h : ∀ (k : Fin 8) (i : Fin 10), rsDecode found[k] ≠ .corrected i) : s.burstFound owner cw found =
      (List.finRange 8).foldl (fun s k => s.codewordFound owner (cw + k.val) found[k]) s := by
  have hcorrects : s.corrects cw found = false := by
    refine List.any_eq_false.mpr fun k _ => ?_
    cases hk : rsDecode found[k] with
    | corrected i => exact absurd hk (h k i)
    | clean => simp
    | uncorrectable => simp
  simp only [State.burstFound, hcorrects]
  rfl

/-- A burst without an error, over sound record memory (R288). -/
theorem State.burstFound_clean (hbad : s.dram.bad = []) (owner cw : Nat) : s.burstFound owner cw (Vector.replicate 8 0) = s := by
  have hzero (k : Fin 8) : (Vector.replicate 8 (0 : SymbolErrors))[k] = 0 := Vector.getElem_replicate ..
  rw [State.burstFound_of_not_corrected fun k i => by rw [hzero, rsDecode_zero]; exact Codeword.noConfusion]
  refine foldl_eq_self fun k _ => ?_
  rw [hzero]
  exact State.codewordFound_clean (by rw [hbad]; rfl) owner

/-- A burst with one codeword that is uncorrectable, over sound record memory (R288). -/
theorem State.burstFound_uncorrectable {owner cw : Nat} {k : Fin 8} {e : SymbolErrors} {t : State} (hbad : s.dram.bad = [])
    (he : rsDecode e = .uncorrectable) (ht : s.codewordFound owner (cw + k.val) e = t) (hmarked : t.dram.bad = [cw + k.val]) :
    s.burstFound owner cw ((Vector.replicate 8 0).set k.val e k.isLt) = t := by
  have hsame : ((Vector.replicate 8 (0 : SymbolErrors)).set k.val e k.isLt)[k] = e := Vector.getElem_set_self ..
  have hother (j : Fin 8) (hj : j ≠ k) : ((Vector.replicate 8 (0 : SymbolErrors)).set k.val e k.isLt)[j] = 0 :=
    (Vector.getElem_set_ne _ _ fun h => hj (Fin.ext h.symm)).trans (Vector.getElem_replicate ..)
  have hnone (j : Fin 8) (i : Fin 10) : rsDecode ((Vector.replicate 8 (0 : SymbolErrors)).set k.val e k.isLt)[j] ≠ .corrected i := by
    by_cases hj : j = k
    · rw [hj, hsame, he]
      exact Codeword.noConfusion
    · rw [hother j hj, rsDecode_zero]
      exact Codeword.noConfusion
  rw [State.burstFound_of_not_corrected hnone]
  refine foldl_of_one (List.nodup_finRange 8) (List.mem_finRange k) (by rw [hsame, ht]) (fun j hj => ?_) fun j hj => ?_
  · rw [hother j hj]
    exact State.codewordFound_clean (by rw [hbad]; rfl) owner
  · rw [hother j hj]
    refine State.codewordFound_clean ?_ owner
    rw [hmarked]
    have : j.val ≠ k.val := fun h => hj (Fin.ext h)
    simpa using this

/-! The header that a rewrite leaves (R198, R290). -/

section Header

variable (m : List Host.Cell) (a flags : Nat)

/-- The bytes of a header before its CRC, with other flags. -/
def headerBody : List Byte := memBytes m a 0x1A ++ leBytes 2 flags ++ memBytes m (a + 0x1C) 32

/-- A header with other flags and its CRC renewed. -/
def flaggedHeader : List Byte := headerBody m a flags ++ leBytes 4 (crc32 (headerBody m a flags))

theorem headerBody_length : (headerBody m a flags).length = 60 := by simp [headerBody]

theorem flaggedHeader_length : (flaggedHeader m a flags).length = 64 := by simp [flaggedHeader, headerBody_length]

variable {m a}

/-- Bytes of what was written. -/
theorem memBytes_memWrite_inside (h : Memory.wf m = true) {bs : List Byte} {i n : Nat} (hi : i + n ≤ bs.length) :
    memBytes (memWrite m a bs) (a + i) n = (bs.drop i).take n := by
  conv_rhs => rw [← memBytes_memWrite h a bs]
  refine List.ext_getElem (by simp; omega) fun j hj _ => ?_
  simp [memBytes, Nat.add_assoc]

/-- Stretches of two memories that are the same. -/
theorem memByte_of_memBytes_eq {m' : List Host.Cell} {n x : Nat} (h : memBytes m a n = memBytes m' a n) (hlow : a ≤ x)
    (hhigh : x < a + n) : memByte m x = memByte m' x := by
  have hx := List.map_inj_left.mp h (x - a) (List.mem_range.mpr (by omega))
  rwa [Nat.add_sub_cancel' hlow] at hx

variable (h : Memory.wf m = true)

include h

theorem memNat_flaggedHeader_flags : memNat (memWrite m a (flaggedHeader m a flags)) (a + 0x1A) 2 = flags % 65536 := by
  rw [memNat, memBytes_memWrite_inside h (by simp [flaggedHeader_length])]
  have hflags : ((flaggedHeader m a flags).drop 0x1A).take 2 = leBytes 2 flags := by
    simp only [flaggedHeader, headerBody, List.append_assoc]
    rw [List.drop_left' (by simp), List.take_left' (by simp)]
  rw [hflags]
  exact ofLeBytes_leBytes 2 flags

theorem memNat_flaggedHeader_crc : memNat (memWrite m a (flaggedHeader m a flags)) (a + 60) 4 =
    crc32 (memBytes (memWrite m a (flaggedHeader m a flags)) a 60) % 2 ^ 32 := by
  have hbody : memBytes (memWrite m a (flaggedHeader m a flags)) a 60 = headerBody m a flags := by
    refine (memBytes_memWrite_inside (i := 0) h (by simp [flaggedHeader_length])).trans ?_
    exact List.take_left' (headerBody_length ..)
  rw [hbody, memNat, memBytes_memWrite_inside h (by simp [flaggedHeader_length]), flaggedHeader,
    List.drop_left' (headerBody_length ..), List.take_of_length_le (by simp)]
  exact ofLeBytes_leBytes 4 _

theorem memByte_flaggedHeader {x : Nat} (hx : x < a + 0x1A ∨ (a + 0x1C ≤ x ∧ x < a + 60) ∨ a + 64 ≤ x) :
    memByte (memWrite m a (flaggedHeader m a flags)) x = memByte m x := by
  have hlen : (flaggedHeader m a flags).length = 64 := flaggedHeader_length ..
  have hhead : memBytes (memWrite m a (flaggedHeader m a flags)) a 0x1A = memBytes m a 0x1A := by
    refine (memBytes_memWrite_inside (i := 0) h (by simp [hlen])).trans ?_
    simp only [flaggedHeader, headerBody, List.append_assoc, List.drop_zero]
    exact List.take_left' (by simp)
  have htail : memBytes (memWrite m a (flaggedHeader m a flags)) (a + 0x1C) 32 = memBytes m (a + 0x1C) 32 := by
    refine (memBytes_memWrite_inside h (by simp [hlen])).trans ?_
    rw [flaggedHeader, headerBody, List.append_assoc, List.drop_left' (by simp), List.take_left' (by simp)]
  by_cases hout : x < a ∨ a + 64 ≤ x
  · exact memByte_memWrite_outside h (by rwa [hlen])
  · rcases hx with hx | hx | hx
    · exact memByte_of_memBytes_eq hhead (by omega) hx
    · exact memByte_of_memBytes_eq htail hx.1 (by omega)
    · exact absurd (.inr hx) hout

end Header

/-! A header rewrite (R200, R273, R290). -/

section Rewrite

/-- The subchannel that holds the header of a rewrite. -/
def State.rewriteSub (s : State) (r : Rewrite) : Fin 8 := (s.dramPlace (s.headerAddr r.stall r.slot)).sub

theorem headerRewrite_of_none (h : s.dram.rewrites = []) (found : Vector SymbolErrors 8) : headerRewrite found s = s := by
  simp only [headerRewrite, h]

theorem State.burstBad_of_nil (h : s.dram.bad = []) (cw : Nat) : s.burstBad cw = false := by simp [State.burstBad, h]

theorem State.burstBad_of_one {cw : Nat} {k : Fin 8} (h : s.dram.bad = [cw + k.val]) : s.burstBad cw = true :=
  List.any_eq_true.mpr ⟨k.val, List.mem_range.mpr k.isLt, by simp [h]⟩

variable {r : Rewrite} {rs : List Rewrite} (hrewrites : s.dram.rewrites = r :: rs)

include hrewrites

theorem headerRewrite_of_not_may (h : s.mergeWaits (s.rewriteSub r) = true ∨ s.maintMay (s.rewriteSub r) = false)
    (found : Vector SymbolErrors 8) : headerRewrite found s = s := by
  have hsub : (s.dramPlace (s.headerAddr r.stall r.slot)).sub = s.rewriteSub r := rfl
  simp only [headerRewrite, hrewrites, hsub]
  exact if_pos (by simpa using h)

variable (hmerge : s.mergeWaits (s.rewriteSub r) = false) (hmay : s.maintMay (s.rewriteSub r) = true)

include hmerge hmay

section Burst

variable {found : Vector SymbolErrors 8} {t : State}
  (ht : (s.takeCycle (s.rewriteSub r)).burstFound 2 (s.headerAddr r.stall r.slot / 8) found = t)

include ht

/-- A header that cannot be read or trusted (R200, R290). -/
theorem headerRewrite_of_untrusted
    (h : t.burstBad (s.headerAddr r.stall r.slot / 8) = true ∨ t.headerStands r.stall r.slot = false) :
    headerRewrite found s = (t.modDram fun d => { d with rewrites := d.rewrites.tail }).toll 202 := by
  have hsub : (s.dramPlace (s.headerAddr r.stall r.slot)).sub = s.rewriteSub r := rfl
  simp only [headerRewrite, hrewrites, hsub, ht, hmerge, hmay]
  exact (if_neg (by decide)).trans (if_pos (by simpa using h))

/-- A header that stands takes the flags (R290). -/
theorem headerRewrite_of_trusted (hread : t.burstBad (s.headerAddr r.stall r.slot / 8) = false)
    (hstands : t.headerStands r.stall r.slot = true) : headerRewrite found s =
      (t.modDram fun d => { d with rewrites := d.rewrites.tail }).dramWrite (s.headerAddr r.stall r.slot)
        (flaggedHeader t.dram.mem (s.headerAddr r.stall r.slot)
          (memNat t.dram.mem (s.headerAddr r.stall r.slot + 0x1A) 2 ||| (t.dram.rewrites.headD r).flags)) := by
  have hsub : (s.dramPlace (s.headerAddr r.stall r.slot)).sub = s.rewriteSub r := rfl
  simp only [headerRewrite, hrewrites, hsub, ht, hmerge, hmay, hread, hstands]
  rfl

end Burst

variable (hbad : s.dram.bad = [])

include hbad

/-- A header that stands in sound record memory takes the flags and a new CRC, and nothing else changes (R290). -/
theorem headerRewrite_flags (hstands : s.headerStands r.stall r.slot = true) :
    ∃ t, headerRewrite (Vector.replicate 8 0) s = t ∧ { t with dram := s.dram, hall := s.hall } = s ∧ t.hall.mem = s.hall.mem ∧
      t.dram.rewrites = rs ∧ t.dram.mem = memWrite s.dram.mem (s.headerAddr r.stall r.slot)
        (flaggedHeader s.dram.mem (s.headerAddr r.stall r.slot)
          (memNat s.dram.mem (s.headerAddr r.stall r.slot + 0x1A) 2 ||| r.flags)) := by
  have hclean := State.burstFound_clean (s := s.takeCycle (s.rewriteSub r)) hbad 2 (s.headerAddr r.stall r.slot / 8)
  have hexec := headerRewrite_of_trusted hrewrites hmerge hmay hclean (State.burstBad_of_nil hbad _) hstands
  have hown : (s.takeCycle (s.rewriteSub r)).dram.rewrites.headD r = r := congrArg (List.headD · r) hrewrites
  have hmem : (s.takeCycle (s.rewriteSub r)).dram.mem = s.dram.mem := rfl
  rw [hown, hmem, State.takeCycle_eq] at hexec
  generalize flaggedHeader s.dram.mem (s.headerAddr r.stall r.slot)
    (memNat s.dram.mem (s.headerAddr r.stall r.slot + 0x1A) 2 ||| r.flags) = bytes at hexec ⊢
  exact ⟨_, hexec, rfl, rfl, congrArg List.tail hrewrites, rfl⟩

/-- A header that does not stand keeps its bytes (R200, R290). -/
theorem headerRewrite_drops (hstands : s.headerStands r.stall r.slot = false) :
    ∃ t, headerRewrite (Vector.replicate 8 0) s = t ∧ { t with dram := s.dram, hall := s.hall, tollDue := s.tollDue } = s ∧
      t.hall.mem = s.hall.mem ∧ { t.dram with subs := s.dram.subs, rewrites := s.dram.rewrites } = s.dram ∧
      t.dram.rewrites = rs ∧ t.tollDue = (s.toll 202).tollDue := by
  have hclean := State.burstFound_clean (s := s.takeCycle (s.rewriteSub r)) hbad 2 (s.headerAddr r.stall r.slot / 8)
  have hexec := headerRewrite_of_untrusted hrewrites hmerge hmay hclean (.inr hstands)
  rw [State.takeCycle_eq] at hexec
  exact ⟨_, hexec, rfl, rfl, rfl, congrArg List.tail hrewrites, rfl⟩

/-- A header with an uncorrectable codeword keeps its bytes (R200, R288, R290). -/
theorem headerRewrite_unreadable {k : Fin 8} {e : SymbolErrors} (hroom : rs.length < 15) (he : rsDecode e = .uncorrectable) :
    ∃ t, headerRewrite ((Vector.replicate 8 0).set k.val e k.isLt) s = t ∧ t.tollDue = ((s.toll 193).toll 202).tollDue ∧
      t.dram.mem = s.dram.mem ∧ (s.ringAt ((s.headerAddr r.stall r.slot / 8 + k.val) * 8) = some (r.stall, r.slot) →
        t.dram.rewrites.length = rs.length) := by
  have hlen : (s.takeCycle (s.rewriteSub r)).dram.rewrites.length < 16 := by
    change s.dram.rewrites.length < 16
    rw [hrewrites, List.length_cons]
    omega
  obtain ⟨stalls, dram, hfound, hmem, hmarked, hkept⟩ := State.codewordFound_uncorrectable (s := s.takeCycle (s.rewriteSub r))
    (cw := s.headerAddr r.stall r.slot / 8 + k.val) 2 hbad he hlen
  have hburst := State.burstFound_uncorrectable (s := s.takeCycle (s.rewriteSub r)) hbad he hfound hmarked
  have hexec := headerRewrite_of_untrusted hrewrites hmerge hmay hburst (.inl (State.burstBad_of_one hmarked))
  refine ⟨_, hexec, rfl, hmem, fun hring => ?_⟩
  have hr : r ∈ s.dram.rewrites := by rw [hrewrites]; exact List.mem_cons_self
  have hsame : dram.rewrites.length = s.dram.rewrites.length := hkept r hr hring
  change dram.rewrites.tail.length = rs.length
  rw [List.length_tail, hsame, hrewrites]
  rfl

end Rewrite

end Sys2Proof.Machine

/-- Settles O40: the branches of the hammer tables' and the scrub's events; a header rewrite by what its burst finds; and the step of
the two selectors. -/
theorem rowsScrubsAndRewrites : Obligations.RowsScrubsAndRewrites := by
  unfold Obligations.RowsScrubsAndRewrites
  refine ⟨fun s => ⟨fun c b row n hbanks => ⟨fun h => ?idle, fun hth hmerge hmay hslot => ?mitigated⟩, fun hearly => ?early,
    fun hdue hbanks => ?ends, fun c => ?scrub⟩,
    fun s => ⟨fun hnone found => ?noRewrite, fun r rs hrewrites => ?rewrite, ?elog, ?log⟩⟩
  case idle =>
    refine congrArg Host.Outcome.next ((hammerMitigation_of_one hbanks).trans (if_neg ?_))
    rintro ⟨hmerge, hmay, hslot, hth⟩
    rcases h with h | h | h | h
    · omega
    · exact Bool.false_ne_true (hmerge.symm.trans h)
    · exact Bool.false_ne_true (h.symm.trans hmay)
    · exact h hslot
  case mitigated =>
    have hexec := (hammerMitigation_of_one hbanks).trans (if_pos ⟨hmerge, hmay, hslot, hth⟩)
    rw [State.mitigate_takeCycle] at hexec
    refine ⟨_, congrArg Host.Outcome.next hexec, rfl, rfl, rfl, rfl, rfl, fun d hd => updAt_other _ hd.symm _, ?_⟩
    exact (congrArg (Subchannel.bank · b.val) (updAt_same s.dram.subs c _)).trans (State.mitigatedSub_bank hbanks)
  case early => exact congrArg Host.Outcome.next (hammerWindowEnd_of_not_reached hearly)
  case ends => exact congrArg Host.Outcome.next (hammerWindowEnd_of_reached hdue hbanks)
  case scrub =>
    intro x put hper hlate hdue
    have hexec := dramScrubPeriod_of_due hper hlate hdue
    refine ⟨fun hon => congrArg Host.Outcome.next (hexec.trans (if_pos hon)), fun hon => congrArg Host.Outcome.next ?_⟩
    rw [hexec, if_neg (by rw [hon]; decide)]
    exact congrArg put (Subchannel.beginScrub_of_not_late hlate)
  case noRewrite => exact congrArg Host.Outcome.next (headerRewrite_of_none hnone found)
  case rewrite =>
    intro u a c
    refine ⟨fun h found => congrArg Host.Outcome.next (headerRewrite_of_not_may hrewrites h found),
      fun hmerge hmay hbad => ⟨fun hstands => ?dropped, fun k e ha hroom he => ?unreadable, fun hstands hwf => ?flagged⟩⟩
    case dropped =>
      obtain ⟨t, hexec, hkept⟩ := headerRewrite_drops hrewrites hmerge hmay hbad hstands
      exact ⟨t, congrArg Host.Outcome.next hexec, hkept⟩
    case unreadable =>
      obtain ⟨t, hexec, htolls, hmem, hlen⟩ := headerRewrite_unreadable (k := k) hrewrites hmerge hmay hbad hroom he
      have hword : (s.headerAddr r.stall r.slot / 8 + k.val) * 8 = a + 8 * k.val := by
        change (a / 8 + k.val) * 8 = a + 8 * k.val
        omega
      rw [hword] at hlen
      exact ⟨t, congrArg Host.Outcome.next hexec, htolls, hmem, hlen⟩
    case flagged =>
      obtain ⟨-, hdram, -⟩ := hwf
      obtain ⟨t, hexec, hframe, hhall, hleft, hmem⟩ := headerRewrite_flags hrewrites hmerge hmay hbad hstands
      refine ⟨t, congrArg Host.Outcome.next hexec, hframe, hhall, hleft, ?_, ?_, fun x hx => ?_⟩
      · rw [hmem]
        exact memNat_flaggedHeader_flags _ hdram
      · rw [hmem]
        exact memNat_flaggedHeader_crc _ hdram
      · rw [hmem]
        exact memByte_flaggedHeader _ hdram hx
  case elog =>
    refine ⟨elogDataRead s, rfl, rfl, rfl, fun hw => ?_⟩
    exact elogDataRead_of_word_lt hw
  case log =>
    refine ⟨logDataRead s, rfl, rfl, rfl, fun hw => ?_⟩
    exact logDataRead_of_word_lt hw

end

/-! ## The Sieve: inputs, outputs and synchronising resets (09_sieve R203, R204, R208, R213; 12_hall R253, R258) -/

section

open Sys2Proof Sys2Proof.Machine

namespace Sys2Proof.Machine

variable {s : State} {n : Fin 16} {v : Val}

/-! A change of one channel. -/

section ModChan

variable {f g : SieveChan → SieveChan}

/-- A change of a channel depends on what it makes of that channel alone. -/
theorem State.modChan_congr (h : f s.sieve.chans[n] = g s.sieve.chans[n]) : s.modChan n f = s.modChan n g := by
  rw [State.modChan, State.modChan, updAt_congr h]

/-- A change that the channel does not see is none. -/
theorem State.modChan_eq_self (h : f s.sieve.chans[n] = s.sieve.chans[n]) : s.modChan n f = s := by
  rw [State.modChan, updAt_eq_self h]

end ModChan

/-! One section, and the cascade of one (R204). -/

/-- The first section's output, state words and clamps are those of the cascade of one. -/
theorem Sieve.cascade_one (a : Sieve) (n : Fin 16) (bank : Bool) (x : Int) (st : SectionStates) :
    a.cascade n bank 1 x st =
      let b (i : Nat) : Int := a.coef n bank 0 i
      let y := satSigned 40 (rnd29 (b 0 * x) + (st[(0 : Fin 16)]).1)
      (y, st.set 0 (satSigned 40 (rnd29 (b 1 * x - b 3 * y) + (st[(0 : Fin 16)]).2), satSigned 40 (rnd29 (b 2 * x - b 4 * y))),
        if (sectionStep (b 0) (b 1) (b 2) (b 3) (b 4) x (st[(0 : Fin 16)]).1 (st[(0 : Fin 16)]).2).2.2 then [0] else []) := by
  rw [Sieve.cascade, List.finRange_succ, List.foldl_cons]
  refine (foldl_eq_self fun j hj => ?_).trans rfl
  obtain ⟨i, -, rfl⟩ := List.mem_map.mp hj
  exact if_pos (Nat.succ_pos i.val)

/-! The channel's two banks. -/

section Banks

variable (c : SieveChan) (b : Bool) (st : SectionStates)

@[simp] theorem SieveChan.setBank_settle : (c.setBank b st).settle = c.settle := by cases b <;> rfl

theorem SieveChan.setBank_of_false {b : Bool} (h : b = false) : c.setBank b st = { c with bankA := st } := by
  rw [h]
  rfl

@[simp] theorem SieveChan.bank_setBank_same : (c.setBank b st).bank b = st := by cases b <;> rfl

end Banks

/-! A channel that does nothing but filter (R204, R208). -/

/-- No reset, no request and no fade waits at the channel. -/
structure SieveChan.Quiet (c : SieveChan) : Prop where
  resets : c.resets = []
  request : c.request = none
  queued : c.queued = none
  fade : c.fade = none

/-- The old bank of a fade that was complete is in use no longer (R211). -/
def SieveChan.retired (c : SieveChan) : SieveChan := { c with retiring := none }

section Quiet

variable {c : SieveChan} (h : c.Quiet)

include h

theorem SieveChan.Quiet.resetNow (settle : Nat) (v : Val) : c.resetNow settle v = c := by
  simp [SieveChan.resetNow, h.resets]

theorem SieveChan.Quiet.due (tick : Nat) : c.due tick = none := by
  simp [SieveChan.due, h.request, h.queued]

theorem SieveChan.Quiet.taking (tick : Nat) : c.taking tick = none := by
  simp [SieveChan.taking, h.due]

theorem SieveChan.Quiet.retired : c.retired.Quiet := ⟨h.resets, h.request, h.queued, h.fade⟩

theorem SieveChan.Quiet.takeRequest (fadeEn : Bool) (len tick : Nat) : c.takeRequest fadeEn len tick = c.retired := by
  refine (if_neg (by simp [h.fade])).trans ?_
  rw [show ({ c with retiring := none } : SieveChan).due tick = none from h.retired.due tick]
  rfl

end Quiet

/-- What filtering does without a fade (R204): the bank in force alone is evaluated. -/
theorem Sieve.filter_of_no_fade (a : Sieve) (n : Fin 16) {c : SieveChan} (h : c.fade = none) (k : Nat) (oshift x : Int) :
    a.filter n c k oshift x =
      let r := a.cascade n c.force k (x * 256) (c.bank c.force)
      let z := shiftRound r.1 (8 + oshift)
      (c.setBank c.force r.2.1, satSigned 16 z, r.2.2, satSigned 16 z != z) := by
  rw [Sieve.filter, h]

/-! The ticks in which values clamp (R204). -/

/-- The ticks noted, and one more where it is not among them. -/
def addClamp (l : List (Nat × Nat)) (x : Nat × Nat) : List (Nat × Nat) := if l.contains x then l else l ++ [x]

/-- The Sieve with other ticks noted. -/
def State.withClamps (s : State) (l : List (Nat × Nat)) : State := { s with sieve := { s.sieve with clamps := l } }

theorem State.clampAt_eq (s : State) (tick toll : Nat) :
    s.clampAt tick toll = s.withClamps (addClamp s.sieve.clamps (tick, toll)) := by
  unfold State.clampAt addClamp
  split <;> rfl

theorem State.foldl_clampAt (s : State) (n : Fin 16) (tick : Nat) (cl : List Nat) :
    cl.foldl (fun s j => s.clampAt (s.sectionTick n tick j) 128) s =
      s.withClamps ((cl.map fun j => (s.sectionTick n tick j, 128)).foldl addClamp s.sieve.clamps) := by
  induction cl generalizing s with
  | nil => rfl
  | cons j cl ih =>
    rw [List.foldl_cons, ih, State.clampAt_eq]
    rfl

/-- The clamps of an input's sections and of its output, noted. -/
theorem State.clampAts_eq (s : State) (n : Fin 16) (tick due : Nat) (cl : List Nat) (co : Bool) :
    (if co then (cl.foldl (fun s j => s.clampAt (s.sectionTick n tick j) 128) s).clampAt due 129
      else cl.foldl (fun s j => s.clampAt (s.sectionTick n tick j) 128) s) =
    s.withClamps (((cl.map fun j => (s.sectionTick n tick j, 128)) ++ if co then [(due, 129)] else []).foldl addClamp
      s.sieve.clamps) := by
  rw [State.foldl_clampAt, List.foldl_append]
  cases co
  · rfl
  · exact State.clampAt_eq ..

theorem mem_addClamp {l : List (Nat × Nat)} {x y : Nat × Nat} : x ∈ addClamp l y ↔ x ∈ l ∨ x = y := by
  unfold addClamp
  split
  case isTrue h =>
    have hy : y ∈ l := by simpa using h
    exact ⟨.inl, fun hx => hx.elim id fun hxy => hxy ▸ hy⟩
  case isFalse => simp

theorem mem_foldl_addClamp {l new : List (Nat × Nat)} {x : Nat × Nat} : x ∈ new.foldl addClamp l ↔ x ∈ l ∨ x ∈ new := by
  induction new generalizing l with
  | nil => simp
  | cons y new ih => rw [List.foldl_cons, ih, mem_addClamp, List.mem_cons, or_assoc]

/-! An input (R204, R208). -/

/-- What the sections in force make of an input: the value, their state words, and the sections that clamp. -/
def State.cascaded (s : State) (n : Fin 16) (v : Val) : Int × SectionStates × List Nat :=
  let c := s.sieve.chans[n]
  s.sieve.cascade n c.force (s.val F.SIV_CH_CFG_K n) (v.lo * 256) (c.bank c.force)

/-- The output before it is saturated to 16 bits. -/
def State.scaled (s : State) (n : Fin 16) (v : Val) : Int :=
  shiftRound (s.cascaded n v).1 (8 + signed 8 (s.val F.SIV_CH_CFG_OSHIFT n))

/-- The ticks in which an input's values clamp: those of its sections, and that of its output. -/
def State.clampsOf (s : State) (n : Fin 16) (v : Val) (tick : Nat) : List (Nat × Nat) :=
  ((s.cascaded n v).2.2.map fun j => (s.sectionTick n tick j, 128)) ++
    if satSigned 16 (s.scaled n v) != s.scaled n v then [(tick + mitesPerTick * s.sieveLatency n, 129)] else []

theorem State.mem_clampsOf {tick d toll : Nat} : (d, toll) ∈ s.clampsOf n v tick ↔
    toll = 128 ∧ (∃ j ∈ (s.cascaded n v).2.2, d = s.sectionTick n tick j) ∨
      toll = 129 ∧ satSigned 16 (s.scaled n v) ≠ s.scaled n v ∧ d = tick + mitesPerTick * s.sieveLatency n := by
  rw [State.clampsOf, List.mem_append]
  refine or_congr ?sections ?output
  case sections =>
    simp only [List.mem_map, Prod.mk.injEq]
    constructor
    · rintro ⟨j, hj, rfl, rfl⟩
      exact ⟨rfl, j, hj, rfl⟩
    · rintro ⟨rfl, j, hj, rfl⟩
      exact ⟨j, hj, rfl, rfl⟩
  case output =>
    by_cases h : satSigned 16 (s.scaled n v) = s.scaled n v
    · simp [h]
    · simp [h, and_comm]

/-- The state in which a quiet channel has filtered an input. -/
def State.filtered (s : State) (n : Fin 16) (v : Val) (tick : Nat) : State :=
  let c := s.sieve.chans[n]
  let z := satSigned 16 (s.scaled n v)
  { s with sieve := { s.sieve with
      chans := updAt s.sieve.chans n fun _ =>
        { c.retired.setBank c.force (s.cascaded n v).2.1 with settle := c.settle - 1 }
      outputs := s.sieve.outputs ++
        [(tick + mitesPerTick * s.sieveLatency n, n, { v with lo := z, hi := z, settling := c.settle != 0 })]
      clamps := (s.clampsOf n v tick).foldl addClamp s.sieve.clamps } }

theorem State.sieveTake_of_quiet {tick : Nat} (hbegins : s.beginsBy n v = none)
    (hmedian : s.flag F.SIV_CH_CFG_MEDIAN n = false) (hquiet : (s.sieve.chans[n]).Quiet) :
    s.sieveTake n v tick = s.filtered n v tick := by
  simp only [State.sieveTake, hbegins, hmedian, hquiet.resetNow, hquiet.taking, hquiet.takeRequest,
    Sieve.filter_of_no_fade _ _ hquiet.retired.fade, SieveChan.setBank_settle, State.clampAts_eq, Bool.false_eq_true, if_false]
  rfl

/-- The input at the head of the queue, not held back, is taken (R204). -/
theorem sieveInput_of_head {tick : Nat} {q : List (Fin 16 × Val × Nat)} (hq : s.sieve.inputs = (n, v, tick) :: q)
    (hheld : s.inputHeld n v = false) :
    sieveInput s = ({ s with sieve := { s.sieve with inputs := q } } : State).sieveTake n v tick := by
  simp only [sieveInput, hq, List.find?_cons, hheld, Bool.not_false, List.erase_cons_head]

/-- The Sieve with other inputs waiting. -/
def State.withInputs (s : State) (q : List (Fin 16 × Val × Nat)) : State := { s with sieve := { s.sieve with inputs := q } }

/-- The input at the head of the queue is filtered by a channel that does nothing else (R204, R208). -/
theorem sieveInput_of_quiet {tick : Nat} {q : List (Fin 16 × Val × Nat)} (hq : s.sieve.inputs = (n, v, tick) :: q)
    (hheld : s.inputHeld n v = false) (hbegins : s.beginsBy n v = none) (hmedian : s.flag F.SIV_CH_CFG_MEDIAN n = false)
    (hquiet : (s.sieve.chans[n]).Quiet) : sieveInput s = (s.filtered n v tick).withInputs q :=
  (sieveInput_of_head hq hheld).trans (State.sieveTake_of_quiet hbegins hmedian hquiet)

/-- What one section makes of an input, bank A in force. -/
theorem State.cascaded_of_one (hone : s.val F.SIV_CH_CFG_K n = 1) (hforce : (s.sieve.chans[n]).force = false) :
    s.cascaded n v = s.sieve.cascade n false 1 (v.lo * 256) (s.sieve.chans[n]).bankA := by
  rw [State.cascaded, hone, hforce]
  rfl

/-! An output (R203, R208). -/

/-- The Sieve with other outputs to be released. -/
def State.withOutputs (s : State) (os : List (Nat × Fin 16 × Val)) : State := { s with sieve := { s.sieve with outputs := os } }

/-- What is written is read, in whatever order the keys stand, where it is not what an unlisted key reads as. -/
theorem Sparse.get_set_same_of_ne {α : Type} [DecidableEq α] {d : Nat → α} {k : Nat} {w : α} (h : w ≠ d k)
    (m : List (Nat × α)) : Sparse.get d (Sparse.set d m k w) k = w := by
  have hcell : Sparse.cell d k w = [(k, w)] := if_neg h
  induction m with
  | nil => simp [Sparse.set, hcell, Sparse.get]
  | cons c m ih =>
    obtain ⟨j, u⟩ := c
    unfold Sparse.set
    split
    case isTrue => simp [hcell, Sparse.get]
    case isFalse hlt =>
      split
      case isTrue => simp [hcell, Sparse.get]
      case isFalse hne => simpa only [Sparse.get, if_neg hlt, if_neg hne] using ih

/-- A request that is presented without a held grant changes the arbiters, and what is known of the present tick (R258). -/
theorem State.present_frame (s : State) (i port : Nat) (work : List Nat) (background : Bool) :
    { s.present i port false work background with hall := s.hall, ev := s.ev } = s := rfl

theorem State.present_mem (s : State) (i port : Nat) (work : List Nat) (background : Bool) :
    (s.present i port false work background).hall.mem = s.hall.mem := rfl

/-- A request that is presented without a held grant stands last among the arbiter's requests (R258). -/
theorem State.arb_present (s : State) (i port : Nat) (work : List Nat) (background : Bool) :
    (s.present i port false work background).arb i =
      { s.arb i with live := (s.arb i).live ++ [⟨port, false, max 1 work.length, background, work⟩] } := by
  refine Sparse.get_set_same_of_ne (fun h => ?_) s.hall.arbs
  have hlive := congrArg Arbiter.live h
  simp at hlive

/-- The state in which an output stands in its stall's staging (R203). -/
def State.staged (s : State) (n : Fin 16) (v : Val) : State :=
  (s.modStall n fun t => { t with kept := t.kept ++ [(t.setup.stages.length, v)] }).modChan n fun c =>
    { c with staged := (s.sieve.chans[n]).staged + 1 }

/-- The byte address of the word of stall `n`'s staging region `r` that its channel's `k`-th word takes (log entry 88). -/
def State.stagingAddr (s : State) (r k : Nat) : Nat := (s.region r).base + 16 * (k % ((s.region r).size / 16))

theorem State.stageOutput_of_not_eighth (h : ((s.sieve.chans[n]).staged + 1) % 8 ≠ 0) : s.stageOutput n v = s.staged n v :=
  if_pos (by simpa using h)

theorem State.stageOutput_of_eighth (h : ((s.sieve.chans[n]).staged + 1) % 8 = 0) {r : Nat}
    (hr : ((List.range 32).find? fun r => (s.region r).kind == 1 && (s.region r).owner == n.val) = some r) :
    s.stageOutput n v =
      let a := s.stagingAddr r (((s.sieve.chans[n]).staged + 1) / 8 - 1)
      (s.staged n v).present (hallBank a) 20 false [a] false := by
  have hfind : ((List.range 32).find? fun r => ((s.staged n v).region r).kind == 1 &&
      ((s.staged n v).region r).owner == n.val) = some r := hr
  refine (if_neg (by simpa using h)).trans ?_
  unfold State.staged at hfind
  rw [hfind]
  rfl

/-- The output at the head of those that wait is released, its tick come (R208). -/
theorem sieveRelease_of_head {d : Nat} {os : List (Nat × Fin 16 × Val)} (hos : s.sieve.outputs = (d, n, v) :: os)
    (hd : d < s.now + s.tickLen) :
    sieveRelease s = (s.withOutputs os).stageOutput n v := by
  simp only [sieveRelease, hos, List.find?_cons, State.reached_iff.mpr hd, List.erase_cons_head]
  rfl

/-! Synchronising resets (R213). -/

theorem State.sieveDrain_of_none (h : s.sieve.inputs = []) : s.sieveDrain = s := by
  rw [State.sieveDrain, h]
  rfl

/-- A channel for which a write of SIV_SYNC registers a reset from `tick` on, where the word names it. -/
def SieveChan.syncedBy (w : Word) (tick : Nat) (n : Fin 16) (c : SieveChan) : SieveChan :=
  if w.getLsbD n then { c with resets := c.resets ++ [.tick tick] } else c

/-- The Sieve with other channels. -/
def State.withChans (s : State) (l : Vector SieveChan 16) : State := { s with sieve := { s.sieve with chans := l } }

/-- The step of a write of SIV_SYNC at one channel. -/
theorem State.modChan_syncedBy (s : State) (w : Word) (n : Fin 16) :
    (if w.toNat.testBit n then s.modChan n fun c => { c with resets := c.resets ++ [.tick (s.now + s.tickLen)] } else s) =
      s.modChan n (SieveChan.syncedBy w (s.now + s.tickLen) n) := by
  rw [BitVec.testBit_toNat]
  split
  case isTrue h => exact State.modChan_congr (if_pos h).symm
  case isFalse h => exact (State.modChan_eq_self (if_neg h)).symm

theorem State.foldl_syncedBy (s : State) (w : Word) (l : List (Fin 16)) :
    l.foldl (fun s (n : Fin 16) => if w.toNat.testBit n
      then s.modChan n fun c => { c with resets := c.resets ++ [.tick (s.now + s.tickLen)] } else s) s =
    s.withChans (l.foldl (fun x n => updAt x n (SieveChan.syncedBy w (s.now + s.tickLen) n)) s.sieve.chans) := by
  induction l generalizing s with
  | nil => rfl
  | cons n l ih =>
    rw [List.foldl_cons, List.foldl_cons, State.modChan_syncedBy, ih]
    rfl

/-- A write of SIV_SYNC (R213). -/
theorem sivSync_eq (w : Word) (h : s.sieve.inputs = []) : sivSync w s =
    (s.withChans (Vector.ofFn fun n => s.sieve.chans[n].syncedBy w (s.now + s.tickLen) n)).answer .ok := by
  rw [sivSync, State.sieveDrain_of_none h, State.foldl_syncedBy, foldl_finRange_updAt]

/-- Other channels, and a reply code: nothing else of the device differs. -/
theorem State.withChans_answer_frame (s : State) (l : Vector SieveChan 16) (c : Code) :
    { (s.withChans l).answer c with sieve := s.sieve, code := s.code } = s := rfl

theorem State.withChans_answer_sieve (s : State) (l : Vector SieveChan 16) (c : Code) :
    { ((s.withChans l).answer c).sieve with chans := s.sieve.chans } = s.sieve := rfl

end Sys2Proof.Machine

/-- Settles O22: the state that a quiet channel's input leaves; the staging of an output whose tick has come, and the request of
port 20 at every eighth; the resets that a word names. -/
theorem samplesAreFilteredAndReleased : Obligations.SamplesAreFilteredAndReleased := by
  unfold Obligations.SamplesAreFilteredAndReleased
  refine ⟨fun s n v tick q hq => ?one, fun s n v tick q hq => ?many,
    fun s => ⟨fun d n v os hos => ?release, fun w hnone => ?sync⟩⟩
  case one =>
    intro c hheld hbegins hmedian hone hresets hrequest hqueued hfade hforce b x rnd y z
    have hexec := sieveInput_of_quiet hq hheld hbegins hmedian ⟨hresets, hrequest, hqueued, hfade⟩
    have hcascaded := (s.cascaded_of_one (v := v) hone hforce).trans (s.sieve.cascade_one ..)
    have hy : (s.cascaded n v).1 = y := congrArg Prod.fst hcascaded
    have hstates := congrArg (fun r : Int × SectionStates × List Nat => r.2.1) hcascaded
    have hz : satSigned 16 (s.scaled n v) = z := by rw [State.scaled, hy]
    refine ⟨_, congrArg Host.Outcome.next hexec, rfl, rfl, rfl, ?_, ?_⟩
    · rw [← hz]
      rfl
    · change updAt s.sieve.chans n (fun _ => { c.retired.setBank c.force (s.cascaded n v).2.1 with settle := c.settle - 1 }) = _
      rw [SieveChan.setBank_of_false _ _ hforce, hstates]
      rfl
  case many =>
    intro c hheld hbegins hmedian hresets hrequest hqueued hfade
    have hexec := sieveInput_of_quiet hq hheld hbegins hmedian ⟨hresets, hrequest, hqueued, hfade⟩
    rcases hcascaded : s.cascaded n v with ⟨y, st, clamps⟩
    have hz : s.scaled n v = shiftRound y (8 + signed 8 (s.val F.SIV_CH_CFG_OSHIFT n)) := by rw [State.scaled, hcascaded]
    refine ⟨_, y, st, clamps, congrArg Host.Outcome.next hexec, rfl, hcascaded, rfl, ?_,
      fun m hm => updAt_other s.sieve.chans hm.symm _, ?_, fun d toll => ?_⟩
    · exact (congrArg (fun x : SieveChan => x.bank c.force) (updAt_same s.sieve.chans n _)).trans
        ((SieveChan.bank_setBank_same ..).trans (congrArg (fun r => r.2.1) hcascaded))
    · rw [← hz]
      rfl
    · have hclamps : (d, toll) ∈ (s.clampsOf n v tick).foldl addClamp s.sieve.clamps ↔ _ :=
        mem_foldl_addClamp.trans (or_congr_right State.mem_clampsOf)
      rw [hcascaded, hz] at hclamps
      exact hclamps
  case release =>
    intro count u hd
    have hexec := sieveRelease_of_head hos hd
    have hu : (s.withOutputs os).staged n v = u := rfl
    refine ⟨fun h => congrArg Host.Outcome.next (hexec.trans (State.stageOutput_of_not_eighth h)), fun h r hr => ?_⟩
    have heighth := hexec.trans ((s.withOutputs os).stageOutput_of_eighth h hr)
    rw [hu] at heighth
    exact ⟨_, congrArg Host.Outcome.next heighth, u.present_frame .., u.present_mem .., u.arb_present ..⟩
  case sync =>
    refine ⟨_, congrArg Host.Outcome.next (sivSync_eq w hnone), s.withChans_answer_frame .., rfl,
      s.withChans_answer_sieve .., fun n => ?_⟩
    exact Vector.getElem_ofFn _

end

/-! ## The Sieve's banks and its coefficient window (09_sieve R206, R207, R210, R212, R215) -/

section

open Sys2Proof Sys2Proof.Machine

namespace Sys2Proof.Machine

section Requests

variable {s : State} {n : Fin 16} {w : Word} (hnone : s.sieve.inputs = [])

/-- The request of a written SIV_CHn_BANK is its bit 0 (R210). -/
theorem bankReq_eq (w : Word) : (F.SIV_CH_BANK_REQ.get w == 1) = w.getLsbD 0 := by
  change (w.toNat % 2 == 1) = w.toNat.testBit 0
  rw [Nat.testBit_zero]
  rfl

/-- Whether a request queues: behind a fade, or in place of a queued one (R212). -/
theorem SieveChan.queues_iff {c : SieveChan} {b : Bool} : (c.fade.isSome || (c.queued.isSome && b != c.force)) = true ↔
    c.fade.isSome = true ∨ c.queued.isSome = true ∧ b ≠ c.force := by simp

/-- The state in which a bank request is accepted, and its channel has become `c` (R210). -/
def State.bankWritten (s : State) (n : Fin 16) (w : Word) (c : SieveChan) : State :=
  (((s.setWritten (R.SIV_CH_BANK.num n) w (F.SIV_CH_BANK_REQ.put 1)).setForce (R.SIV_CH_BANK.num n) w
    (F.SIV_CH_BANK_REQ.put 1)).answer .ok).modChan n fun _ => c

/-- A bank request that is accepted changes its channel, its word, the reply and nothing else. -/
theorem State.bankWritten_frame (s : State) (n : Fin 16) (w : Word) (c : SieveChan) :
    { s.bankWritten n w c with
      sieve := s.sieve, written := s.written, force := s.force, code := s.code, tollDue := s.tollDue } = s := rfl

@[simp] theorem State.bankWritten_tollDue (s : State) (n : Fin 16) (w : Word) (c : SieveChan) :
    (s.bankWritten n w c).tollDue = s.tollDue := rfl

/-- The same where a queued request is lost (R212). -/
theorem State.bankWritten_tollIf_frame (s : State) (n : Fin 16) (w : Word) (c : SieveChan) (q : Bool) (i : Nat) :
    { (s.bankWritten n w c).tollIf q i with
      sieve := s.sieve, written := s.written, force := s.force, code := s.code, tollDue := s.tollDue } = s := by
  cases q <;> rfl

@[simp] theorem State.tollIf_sieve (s : State) (q : Bool) (i : Nat) : (s.tollIf q i).sieve = s.sieve := by cases q <;> rfl

@[simp] theorem State.tollIf_code (s : State) (q : Bool) (i : Nat) : (s.tollIf q i).code = s.code := by cases q <;> rfl

/-- What a count on a condition makes of the tolls depends on them alone. -/
theorem State.tollIf_tollDue_congr {s t : State} (h : s.tollDue = t.tollDue) (q : Bool) (i : Nat) :
    (s.tollIf q i).tollDue = (t.tollIf q i).tollDue := by
  cases q
  · exact h
  · rw [State.tollIf, State.tollIf, if_pos rfl, if_pos rfl, State.toll, State.toll, h]

include hnone

/-- Median mode: refused (R215). -/
theorem bankRequest_of_median (h : s.flag F.SIV_CH_CFG_MEDIAN n = true) :
    bankRequest n w s = (s.toll 132).refuseWrite .badParam := by
  rw [bankRequest, State.sieveDrain_of_none hnone]
  exact if_pos h

variable (hmedian : s.flag F.SIV_CH_CFG_MEDIAN n = false)

include hmedian

/-- Behind a fade, or in place of a queued request (R212). -/
theorem bankRequest_of_queues (h : (s.sieve.chans[n]).fade.isSome = true ∨
      (s.sieve.chans[n]).queued.isSome = true ∧ w.getLsbD 0 ≠ (s.sieve.chans[n]).force) :
    bankRequest n w s = (s.bankWritten n w { s.sieve.chans[n] with queued := some (w.getLsbD 0) }).tollIf
      (s.sieve.chans[n]).queued.isSome 130 := by
  rw [bankRequest, State.sieveDrain_of_none hnone, bankReq_eq]
  exact (if_neg (by simp [hmedian])).trans ((if_pos (SieveChan.queues_iff.mpr h)).trans rfl)

/-- Neither (R210). -/
theorem bankRequest_of_waits (hfade : (s.sieve.chans[n]).fade = none)
    (h : (s.sieve.chans[n]).queued = none ∨ w.getLsbD 0 = (s.sieve.chans[n]).force) :
    bankRequest n w s = s.bankWritten n w { s.sieve.chans[n] with
      request := if w.getLsbD 0 = (s.sieve.chans[n]).force then (s.sieve.chans[n]).request.filter (fun r => r.2 != s.now)
        else some (w.getLsbD 0, s.now) } := by
  rw [bankRequest, State.sieveDrain_of_none hnone, bankReq_eq]
  refine (if_neg (by simp [hmedian])).trans ((if_neg ?_).trans ?_)
  · rw [SieveChan.queues_iff, hfade]
    rintro (hfading | ⟨hqueued, hb⟩)
    · cases hfading
    · exact h.elim (fun hq => by rw [hq] at hqueued; cases hqueued) hb
  · by_cases hb : w.getLsbD 0 = (s.sieve.chans[n]).force
    · rw [if_pos hb]
      exact (if_neg (by simpa using hb)).trans rfl
    · rw [if_neg hb]
      exact (if_pos (by simpa using hb)).trans rfl

end Requests

section Window

variable {s : State} (w : Word) (hnone : s.sieve.inputs = [])

/-- The bank that the window's address names may not be written: it is in use, or comes into use in the present tick (R207). -/
def State.windowLocked (s : State) : Bool :=
  let a := s.val F.SIV_WIN_ADDR_ADDR
  s.bankInUse (Fin.ofNat 16 (a / 256)) (a / 128 % 2 == 1) || s.swapsNow (Fin.ofNat 16 (a / 256)) (a / 128 % 2 == 1)

/-- The Sieve with coefficient word `a` written, and what stood there kept for the tick (R206, R207). -/
def State.coefWritten (s : State) (a : Nat) (w : Word) : State := { s with sieve := { s.sieve with
  coefs := Sparse.set coefReset s.sieve.coefs a w
  recent := (s.sieve.recent.filter fun r => r.2.2 == s.now && r.1 != a) ++
    [(s.sieve.recent.find? fun r => r.2.2 == s.now && r.1 == a).getD (a, Sparse.get coefReset s.sieve.coefs a, s.now)] } }

include hnone

/-- A bank in use: refused, and the address advances all the same (R207). -/
theorem sieveWindow_of_locked (h : s.windowLocked = true) :
    sieveWindow (some w) s = ((s.toll 131).refuseWrite .stopLocked).sieveAddrNext := by
  dsimp only [sieveWindow]
  rw [State.sieveDrain_of_none hnone]
  exact if_pos h

/-- Codes 5 to 7 hold no word (R206). -/
theorem sieveWindow_of_no_word (h : s.windowLocked = false) (hcode : 4 < s.val F.SIV_WIN_ADDR_ADDR % 8) :
    sieveWindow (some w) s = s.sieveAddrNext.answer .ok := by
  dsimp only [sieveWindow]
  rw [State.sieveDrain_of_none hnone]
  exact (if_neg (Bool.eq_false_iff.mp h)).trans (if_neg (by omega))

/-- A coefficient is written (R206, R207). -/
theorem sieveWindow_of_free (h : s.windowLocked = false) (hcode : s.val F.SIV_WIN_ADDR_ADDR % 8 ≤ 4) :
    sieveWindow (some w) s = (s.coefWritten (s.val F.SIV_WIN_ADDR_ADDR) w).sieveAddrNext.answer .ok := by
  dsimp only [sieveWindow]
  rw [State.sieveDrain_of_none hnone]
  exact (if_neg (Bool.eq_false_iff.mp h)).trans (if_pos hcode)

end Window

end Sys2Proof.Machine

/-- Settles O23: a bank request by what waits at its channel, and a write of the window by the use of the bank that its address
names. -/
theorem banksAndCoefficients : Obligations.BanksAndCoefficients := by
  unfold Obligations.BanksAndCoefficients
  refine fun s hnone => ⟨fun n w => ⟨fun hmedian => ?median, fun hmedian hfade h => ?waits, fun hmedian h => ?queues⟩,
    rfl, fun w => ⟨fun h => ?locked, fun h hcode => ?noWord, fun h hcode => ?free⟩⟩
  case median => exact congrArg Host.Outcome.next (bankRequest_of_median hnone hmedian)
  case waits =>
    exact ⟨_, congrArg Host.Outcome.next (bankRequest_of_waits hnone hmedian hfade h), rfl,
      State.bankWritten_frame .., rfl, rfl, rfl⟩
  case queues =>
    refine ⟨_, congrArg Host.Outcome.next (bankRequest_of_queues hnone hmedian h),
      State.tollIf_tollDue_congr (s.bankWritten_tollDue ..) .., State.bankWritten_tollIf_frame .., ?_,
      congrArg Sieve.chans (State.tollIf_sieve ..), State.tollIf_code ..⟩
    rw [State.tollIf_sieve]
    rfl
  case locked => exact congrArg Host.Outcome.next (sieveWindow_of_locked w hnone h)
  case noWord => exact congrArg Host.Outcome.next (sieveWindow_of_no_word w hnone h hcode)
  case free => exact ⟨_, congrArg Host.Outcome.next (sieveWindow_of_free w hnone h hcode), rfl, rfl, rfl, rfl, rfl, rfl⟩

end

/-! ## Accesses to Hall (12_hall R246 to R250, R253, R258) -/

section

open Sys2Proof Sys2Proof.Machine

namespace Sys2Proof.Machine

/-! Numbers in a memory, and lanes of a word. -/

section Words

variable {m : List Host.Cell} {a : Nat}

theorem ofLeBytes_append (xs ys : List Byte) : ofLeBytes (xs ++ ys) = ofLeBytes xs + 256 ^ xs.length * ofLeBytes ys := by
  induction xs with
  | nil => simp [ofLeBytes]
  | cons b xs ih =>
    rw [List.cons_append, ofLeBytes, ih, ofLeBytes, List.length_cons]
    ring

/-- A number in memory is its low bytes and its high bytes. -/
theorem memNat_add (m : List Host.Cell) (a i k : Nat) :
    memNat m a (i + k) = memNat m a i + 256 ^ i * memNat m (a + i) k := by
  have hbytes : memBytes m a (i + k) = memBytes m a i ++ memBytes m (a + i) k := by
    simp [memBytes, List.range_add, Function.comp_def, Nat.add_assoc]
  rw [memNat, hbytes, ofLeBytes_append, memBytes_length, memNat, memNat]

theorem memNat_lt (m : List Host.Cell) (a n : Nat) : memNat m a n < 256 ^ n := by
  have hlt (l : List Byte) : ofLeBytes l < 256 ^ l.length := by
    induction l with
    | nil => simp [ofLeBytes]
    | cons b l ih =>
      have hb := b.isLt
      rw [ofLeBytes, List.length_cons, Nat.pow_succ]
      omega
  have h := hlt (memBytes m a n)
  rwa [memBytes_length] at h

/-- Bytes within a number in memory. -/
theorem memNat_div_mod (m : List Host.Cell) (a : Nat) {i k n : Nat} (h : i + k ≤ n) :
    memNat m a n / 256 ^ i % 256 ^ k = memNat m (a + i) k := by
  obtain ⟨r, rfl⟩ := Nat.exists_eq_add_of_le h
  rw [Nat.add_assoc, memNat_add, Nat.add_mul_div_left _ _ (Nat.pow_pos (by decide)),
    Nat.div_eq_of_lt (memNat_lt ..), Nat.zero_add, memNat_add, Nat.add_mul_mod_self_left, Nat.mod_eq_of_lt (memNat_lt ..)]

theorem memNat_congr {m' : List Host.Cell} {n : Nat} (h : ∀ i < n, memByte m (a + i) = memByte m' (a + i)) :
    memNat m a n = memNat m' a n :=
  congrArg ofLeBytes (List.map_congr_left fun i hi => h i (List.mem_range.mp hi))

theorem leBytes_getD {n i : Nat} (h : i < n) (v : Nat) : (leBytes n v).getD i 0 = BitVec.ofNat 8 (v / 256 ^ i) := by
  simp [leBytes, h]

/-- A lane of the word at an address (R248). -/
theorem Hall.lane_word (h : Hall) (a : Nat) {i : Nat} (hi : i < 4) :
    lane (h.word a) i = memNat h.mem (wordAddr a + 4 * i) 4 := by
  have hword : (h.word a).toNat = memNat h.mem (wordAddr a) 16 := by
    rw [Hall.word, BitVec.toNat_ofNat]
    exact Nat.mod_eq_of_lt (memNat_lt ..)
  have hpow : 2 ^ (32 * i) = 256 ^ (4 * i) := by
    rw [show 32 * i = 8 * (4 * i) by omega]
    exact Nat.pow_mul 2 8 (4 * i)
  have hlane := memNat_div_mod h.mem (wordAddr a) (i := 4 * i) (k := 4) (n := 16) (by omega)
  rw [lane, hword, hpow]
  exact hlane

theorem wordAddr_of_aligned (h : a % 16 = 0) : wordAddr a = a := by
  rw [wordAddr]
  omega

/-- Memory in which the lanes below `n` of the word at `a` that `mask` selects hold new values (R248). -/
def lanesWritten (m : List Host.Cell) (a : Nat) (mask : BitVec 4) (v : Nat → Nat) : Nat → List Host.Cell
  | 0 => m
  | n + 1 =>
    if mask.getLsbD n then memWrite (lanesWritten m a mask v n) (a + 4 * n) (leBytes 4 (v n)) else lanesWritten m a mask v n

/-- Hall with other bytes. -/
def State.withMem (s : State) (m : List Host.Cell) : State := { s with hall := { s.hall with mem := m } }

theorem State.putLanes_eq (s : State) (a : Nat) (mask : BitVec 4) (v : Nat → Nat) :
    s.putLanes a mask v = s.withMem (lanesWritten s.hall.mem (wordAddr a) mask v 4) := by
  have hlanes (n : Nat) : (List.range n).foldl (fun (t : State) i => if mask.toNat.testBit i then
      t.withMem (memWrite t.hall.mem (wordAddr a + 4 * i) (leBytes 4 (v i))) else t) s =
      s.withMem (lanesWritten s.hall.mem (wordAddr a) mask v n) := by
    induction n with
    | zero => rfl
    | succ n ih =>
      rw [List.range_succ, List.foldl_append, ih, List.foldl_cons, List.foldl_nil, lanesWritten, BitVec.testBit_toNat]
      split <;> rfl
  exact hlanes 4

variable (hwf : Memory.wf m = true) (mask : BitVec 4) (v : Nat → Nat)

include hwf

theorem lanesWritten_wf (n : Nat) : Memory.wf (lanesWritten m a mask v n) = true := by
  induction n with
  | zero => exact hwf
  | succ n ih =>
    rw [lanesWritten]
    split
    · exact memWrite_wf ih _ _
    · exact ih

/-- A byte of a lane that was written is the lane's byte; every other byte is as before (R248). -/
theorem memByte_lanesWritten (n x : Nat) : memByte (lanesWritten m a mask v n) x =
    if a ≤ x ∧ x < a + 4 * n ∧ mask.getLsbD ((x - a) / 4) = true then
      BitVec.ofNat 8 (v ((x - a) / 4) / 256 ^ ((x - a) % 4))
    else memByte m x := by
  induction n with
  | zero => exact (if_neg (by omega)).symm
  | succ n ih =>
    by_cases hlane : a + 4 * n ≤ x ∧ x < a + 4 * n + 4
    · have hq : (x - a) / 4 = n := by omega
      have hr : (x - a) % 4 = x - (a + 4 * n) := by omega
      rw [lanesWritten]
      split
      case isTrue hsel =>
        rw [memByte_memWrite (lanesWritten_wf hwf mask v n), leBytes_length, if_pos hlane, leBytes_getD (by omega), hq, hr,
          if_pos ⟨by omega, by omega, hsel⟩]
      case isFalse hsel => rw [ih, if_neg (by omega), if_neg (by rw [hq]; exact fun h => hsel h.2.2)]
    · have hrest : memByte (lanesWritten m a mask v (n + 1)) x = memByte (lanesWritten m a mask v n) x := by
        rw [lanesWritten]
        split
        · exact memByte_memWrite_outside (lanesWritten_wf hwf mask v n) (by rw [leBytes_length]; omega)
        · rfl
      rw [hrest, ih]
      refine if_congr (and_congr_right fun _ => ⟨fun h => ⟨by omega, h.2⟩, fun h => ⟨by omega, h.2⟩⟩) rfl rfl

/-- A word's lane after the lanes that `mask` selects were written (R248). -/
theorem memNat_lanesWritten {i : Nat} (hi : i < 4) : memNat (lanesWritten m a mask v 4) (a + 4 * i) 4 =
    if mask.getLsbD i then v i % 2 ^ 32 else memNat m (a + 4 * i) 4 := by
  have hbyte (j : Nat) (hj : j < 4) : memByte (lanesWritten m a mask v 4) (a + 4 * i + j) =
      if mask.getLsbD i then BitVec.ofNat 8 (v i / 256 ^ j) else memByte m (a + 4 * i + j) := by
    have hq : (a + 4 * i + j - a) / 4 = i := by omega
    have hr : (a + 4 * i + j - a) % 4 = j := by omega
    rw [memByte_lanesWritten hwf, hq, hr]
    exact if_congr ⟨fun h => h.2.2, fun h => ⟨by omega, by omega, h⟩⟩ rfl rfl
  split
  case isTrue hsel =>
    have hbytes : memBytes (lanesWritten m a mask v 4) (a + 4 * i) 4 = leBytes 4 (v i) :=
      List.map_congr_left fun j hj => (hbyte j (List.mem_range.mp hj)).trans (if_pos hsel)
    rw [memNat, hbytes]
    exact ofLeBytes_leBytes 4 _
  case isFalse hsel => exact memNat_congr fun j hj => (hbyte j hj).trans (if_neg hsel)

/-- Outside its word a write of lanes changes nothing. -/
theorem memByte_lanesWritten_outside {x : Nat} (hx : x < a ∨ a + 16 ≤ x) :
    memByte (lanesWritten m a mask v 4) x = memByte m x := by
  rw [memByte_lanesWritten hwf, if_neg (by omega)]

end Words

/-! A sound word (R250), and a map that is not being copied where it is written (R242). -/

section Sound

variable {s : State}

theorem State.withoutLatent_eq (h : s.hall.latent = []) : { s with hall := { s.hall with latent := [] } } = s := by
  rw [← h]

/-- What an access finds in a half in which no error has arisen since an access met it (R250). -/
theorem State.eccFound_of_latent_nil (h : s.hall.latent = []) (port half : Nat) (e : Ecc) : s.eccFound port half e =
    if s.hall.bad.contains half || e == .uncorrectable then
      (({ s.markStaging (half * 8) (2 ^ 9) with hall := { s.hall with
          bad := if s.hall.bad.contains half then s.hall.bad else s.hall.bad ++ [half] } }.eccRecord half true).toll
        161).logEvent 0x03 port 161 (signed 32 (half * 8))
    else if e == .corrected then ((s.markStaging (half * 8) (2 ^ 8)).eccRecord half false).toll 160
    else s := by
  have hworse : e.worse (s.hall.arisen half) = e := by
    rw [Hall.arisen, h]
    cases e <;> rfl
  have hlatent : { s with hall := { s.hall with latent := s.hall.latent.filter (·.1 != half) } } = s := by
    rw [h]
    exact State.withoutLatent_eq h
  rw [State.eccFound, hworse, hlatent]

theorem State.eccFound_clean (hlatent : s.hall.latent = []) {half : Nat} (hbad : s.hall.bad.contains half = false)
    (port : Nat) : s.eccFound port half .clean = s := by
  rw [State.eccFound_of_latent_nil hlatent, hbad]
  rfl

variable (hsound : s.hallSound)

include hsound

theorem State.bad_contains_of_sound (half : Nat) : s.hall.bad.contains half = false := by rw [hsound.1]; rfl

theorem State.eccWord_of_sound (port a : Nat) (t0 t1 : Bool) : s.eccWord port a t0 t1 .clean .clean = s := by
  have hfound (half : Nat) := State.eccFound_clean hsound.2 (State.bad_contains_of_sound hsound half) port
  cases t0 <;> cases t1 <;> simp [State.eccWord, hfound]

theorem State.halfBad_of_sound (a : Nat) (t0 t1 : Bool) : s.halfBad a t0 t1 = false := by
  simp [State.halfBad, hsound.1]

end Sound

section Uncopied

variable {s : State}

/-- No snapshot copy is under way at a map that holds the word at `a` (R242). -/
def State.uncopied (s : State) (a : Nat) : Prop :=
  ∀ k : Fin 8, (s.yards[k]).copying = true → a < s.mapBase k ∨ s.mapBase k + s.mapBytes k ≤ a

theorem State.uncopied_of_idle (h : ∀ k : Fin 8, (s.yards[k]).copying = false) (a : Nat) : s.uncopied a :=
  fun k hk => absurd ((h k).symm.trans hk) Bool.false_ne_true

/-- A map begins and ends between words of Hall (R231, R232). -/
theorem State.mapBase_mapBytes_aligned (s : State) (k : Fin 8) : s.mapBase k % 16 = 0 ∧ s.mapBytes k % 16 = 0 := by
  have hbytes : s.mapBytes k = 16 * (16 * (s.mapCols k * s.val F.YRD_GEOM_RSEL k)) := by
    rw [State.mapBytes, State.mapRows]
    ring
  refine ⟨?_, ?_⟩
  · change s.val F.HAL_RGN_BASE_BASE (s.val F.YRD_REGION_MAP k) * 4096 % 16 = 0
    omega
  · rw [hbytes]
    exact Nat.mul_mod_right ..

theorem State.uncopied_wordAddr_iff {a : Nat} : s.uncopied (wordAddr a) ↔ s.uncopied a := by
  refine forall_congr' fun k => imp_congr_right fun _ => ?_
  obtain ⟨hbase, hbytes⟩ := s.mapBase_mapBytes_aligned k
  rw [wordAddr]
  omega

theorem State.copyFirst_of_uncopied {a : Nat} (h : s.uncopied a) : s.copyFirst a = s := by
  refine foldl_eq_self fun k _ => if_neg ?_
  simp only [Bool.and_eq_true, decide_eq_true_eq]
  rintro ⟨⟨hcopying, hlow⟩, hhigh⟩
  rcases h k hcopying with h | h <;> omega

end Uncopied

/-! Atomics (R248). -/

section Atomics

variable {s : State} (port a : Nat) (mask : BitVec 4) (ret : Bool) (f : Nat → Nat → Nat × Bool)

/-- An access that is executed leaves these bytes, and answers (R247). -/
def State.accessed (s : State) (port : Nat) (m : List Host.Cell) (w : BitVec 128) (sat : BitVec 4) : State :=
  { s with hall := { s.hall with mem := m, answer := ⟨port, w, false, sat, s.now + 192⟩ } }

theorem State.withMem_hallAnswer (s : State) (port : Nat) (m : List Host.Cell) (w : BitVec 128) (sat : BitVec 4) :
    (s.withMem m).hallAnswer port w false sat = s.accessed port m w sat := by
  have hdue : 6 * mitesPerTick = 192 := rfl
  rw [State.hallAnswer, hdue]
  rfl

/-- The lanes below `n` that `mask` selects and that an atomic of the word `old` saturates (R248). -/
def lanesSaturated (mask : BitVec 4) (old : BitVec 128) (f : Nat → Nat → Nat × Bool) (n : Nat) : BitVec 4 :=
  (List.range n).foldl (fun m i =>
    if mask.toNat.testBit i && (f i (lane old i)).2 then m ||| BitVec.ofNat 4 (2 ^ i) else m) 0

theorem getLsbD_lanesSaturated (old : BitVec 128) (n : Nat) {i : Nat} (hi : i < 4) :
    (lanesSaturated mask old f n).getLsbD i = (decide (i < n) && (mask.getLsbD i && (f i (lane old i)).2)) := by
  induction n with
  | zero => simp [lanesSaturated]
  | succ n ih =>
    rw [lanesSaturated, List.range_succ, List.foldl_append, List.foldl_cons, List.foldl_nil, ← lanesSaturated,
      BitVec.testBit_toNat]
    have hbit : (BitVec.ofNat 4 (2 ^ n)).getLsbD i = decide (n = i) := by
      rw [BitVec.getLsbD_ofNat, Nat.testBit_two_pow, decide_eq_true hi, Bool.true_and]
    by_cases hn : n = i
    · subst hn
      rw [decide_eq_true (Nat.lt_succ_self n), Bool.true_and]
      split
      case isTrue h => rw [BitVec.getLsbD_or, hbit, decide_eq_true rfl, Bool.or_true, h]
      case isFalse h => rw [ih, decide_eq_false (Nat.lt_irrefl n), Bool.false_and, Bool.eq_false_iff.mpr h]
    · have hlt : decide (i < n + 1) = decide (i < n) := decide_eq_decide.mpr (by omega)
      rw [hlt, ← ih]
      split
      · rw [BitVec.getLsbD_or, hbit, decide_eq_false hn, Bool.or_false]
      · rfl

theorem lanesSaturated_of_none (old : BitVec 128) (h : ∀ i c, (f i c).2 = false) : lanesSaturated mask old f 4 = 0 := by
  refine BitVec.eq_of_getLsbD_eq fun i hi => ?_
  rw [getLsbD_lanesSaturated _ _ _ _ hi, h, Bool.and_false, Bool.and_false]
  exact BitVec.getLsbD_zero.symm

/-- An atomic of a sound word that no copy has still to pass (R248). -/
theorem State.portLanes_of_sound (hsound : s.hallSound) (hok : s.accessOk port a = true) (hcopy : s.uncopied a) :
    s.portLanes port a mask ret .clean .clean f =
      (s.accessed port (lanesWritten s.hall.mem (wordAddr a) mask (fun i => (f i (lane (s.hall.word a) i)).1) 4)
        (if ret then s.hall.word a else 0) (lanesSaturated mask (s.hall.word a) f 4),
      lanesSaturated mask (s.hall.word a) f 4) := by
  rw [State.portLanes, hok, State.copyFirst_of_uncopied hcopy]
  simp only [State.laneAtomic, State.eccWord_of_sound hsound, State.halfBad_of_sound hsound, State.putLanes_eq,
    State.withMem_hallAnswer]
  rfl

theorem State.portLanes_of_outside (hok : s.accessOk port a = false) (e0 e1 : Ecc) :
    s.portLanes port a mask ret e0 e1 f = (s.accessRefused port a, 0) := by
  rw [State.portLanes, hok]
  rfl

end Atomics

/-! Whole halves (R247, R250). -/

section Halves

variable {s : State} {m : List Host.Cell} {a : Nat}

/-- A write that meets no error changes the bytes alone (R250). -/
theorem State.hallWrite_of_sound (hsound : s.hallSound) (a : Nat) (bs : List Byte) :
    s.hallWrite a bs = s.withMem (memWrite s.hall.mem a bs) := by
  obtain ⟨hbad, hlatent⟩ := hsound
  have hwrite : s.hall.write a bs = { s.hall with mem := memWrite s.hall.mem a bs } := by
    simp [Hall.write, hbad, hlatent]
  rw [State.hallWrite, hwrite, State.withMem]

/-- Memory in which halves of the word at `a` hold those of `w` (R247). -/
def halvesWritten (m : List Host.Cell) (a : Nat) (h0 h1 : Bool) (w : BitVec 128) : List Host.Cell :=
  let m0 := if h0 then memWrite m a (halfBytes w 0) else m
  if h1 then memWrite m0 (a + 8) (halfBytes w 1) else m0

theorem halfBytes_length (w : BitVec 128) (k : Nat) : (halfBytes w k).length = 8 := leBytes_length ..

theorem halfBytes_getD (w : BitVec 128) (k : Nat) {i : Nat} (hi : i < 8) :
    (halfBytes w k).getD i 0 = BitVec.ofNat 8 (w.toNat / 256 ^ (8 * k + i)) := by
  have hpow : 2 ^ (64 * k) = 256 ^ (8 * k) := by
    rw [show 64 * k = 8 * (8 * k) by omega]
    exact Nat.pow_mul 2 8 (8 * k)
  rw [halfBytes, leBytes_getD hi, hpow, Nat.div_div_eq_div_mul, ← Nat.pow_add]

/-- A byte of a half that was written is the half's byte; every other byte is as before (R247). -/
theorem memByte_halvesWritten (hwf : Memory.wf m = true) (h0 h1 : Bool) (w : BitVec 128) (x : Nat) :
    memByte (halvesWritten m a h0 h1 w) x =
      if a ≤ x ∧ x < a + 16 ∧ (if x - a < 8 then h0 else h1) = true then BitVec.ofNat 8 (w.toNat / 256 ^ (x - a))
      else memByte m x := by
  have hwrite {m : List Host.Cell} (hwf : Memory.wf m = true) (c : Bool) (k : Nat) :
      memByte (if c then memWrite m (a + 8 * k) (halfBytes w k) else m) x =
        if a + 8 * k ≤ x ∧ x < a + 8 * k + 8 ∧ c = true then BitVec.ofNat 8 (w.toNat / 256 ^ (x - a)) else memByte m x := by
    cases c
    · exact (if_neg (by simp)).symm
    · rw [if_pos rfl, memByte_memWrite hwf, halfBytes_length]
      by_cases hx : a + 8 * k ≤ x ∧ x < a + 8 * k + 8
      · rw [if_pos hx, if_pos ⟨hx.1, hx.2, rfl⟩, halfBytes_getD w k (by omega), show 8 * k + (x - (a + 8 * k)) = x - a by omega]
      · rw [if_neg hx, if_neg fun h => hx ⟨h.1, h.2.1⟩]
  have hwf0 : Memory.wf (if h0 then memWrite m a (halfBytes w 0) else m) = true := by
    split
    · exact memWrite_wf hwf _ _
    · exact hwf
  have hlow : memByte (if h0 then memWrite m a (halfBytes w 0) else m) x = _ := hwrite hwf h0 0
  refine (hwrite hwf0 h1 1).trans ?_
  rw [hlow]
  by_cases hx : x - a < 8
  · rw [if_neg (by omega), if_pos hx]
    exact if_congr ⟨fun h => ⟨h.1, by omega, h.2.2⟩, fun h => ⟨h.1, by omega, h.2.2⟩⟩ rfl rfl
  · rw [if_neg hx]
    by_cases hhigh : a + 8 * 1 ≤ x ∧ x < a + 8 * 1 + 8 ∧ h1 = true
    · rw [if_pos hhigh, if_pos ⟨by omega, by omega, hhigh.2.2⟩]
    · rw [if_neg hhigh, if_neg (by omega), if_neg fun h => hhigh ⟨by omega, by omega, h.2.2⟩]

end Halves

/-! Accesses as commands (R247 to R250, R253, R258). -/

section Commands

variable {s : State} {port : Fin 26} {addr : BitVec 27}

theorem State.onBank_of_outside {a : Nat} (hok : s.accessOk port a = false) (f : State → State) :
    s.onBank port a f = f s := by
  rw [State.onBank, hok]
  rfl

theorem State.onBank_of_busy {a : Nat} (hok : s.accessOk port a = true) (hfree : s.bankFree port a = false) (f : State → State) :
    s.onBank port a f = s := by
  rw [State.onBank, hok, hfree]
  rfl

theorem State.onBank_of_free {a : Nat} (hok : s.accessOk port a = true) (hfree : s.bankFree port a = true) (f : State → State) :
    s.onBank port a f = f (s.takeBank port a) := by
  rw [State.onBank, hok, hfree]
  rfl

/-- A read of a sound word (R247). -/
theorem hallRead_of_sound (hok : s.accessOk port addr.toNat = true) (hsound : s.hallSound) :
    hallRead port addr .clean .clean s = s.accessed port s.hall.mem (s.hall.word addr.toNat) 0 := by
  simp only [hallRead, hok, State.eccWord_of_sound hsound, State.halfBad_of_sound hsound]
  exact s.withMem_hallAnswer port s.hall.mem _ 0

/-- A write of halves where nothing has to be copied first (R247). -/
theorem hallWrite_of_sound (hok : s.accessOk port addr.toNat = true) (hsound : s.hallSound)
    (hcopy : s.uncopied (wordAddr addr.toNat)) (h0 h1 : Bool) (w : BitVec 128) :
    hallWrite port addr h0 h1 w s = s.accessed port (halvesWritten s.hall.mem (wordAddr addr.toNat) h0 h1 w) 0 0 := by
  have hhalf {t : State} (ht : t.hallSound) (c : Bool) (a k : Nat) : (if c then t.hallWrite a (halfBytes w k) else t) =
      t.withMem (if c then memWrite t.hall.mem a (halfBytes w k) else t.hall.mem) := by
    cases c
    · rfl
    · exact State.hallWrite_of_sound ht a _
  simp only [hallWrite, hok, State.copyFirst_of_uncopied hcopy, hhalf hsound]
  refine (congrArg (State.hallAnswer · port 0 false 0) (hhalf ?_ h1 _ 1)).trans (s.withMem_hallAnswer port _ 0 0)
  exact hsound

/-- An access of `port` to the word at `a` is executed: of the byte that `put` names it leaves the new value, every other byte is as
before, it answers in six ticks, and it takes its bank (R247, R248, R258). -/
def State.AccessDone (s : State) (port : Fin 26) (addr : BitVec 27) (put : Nat → Option Byte) (w : BitVec 128) (sat : BitVec 4)
    (r : Result) : Prop :=
  ∃ t, r = .next t ∧ { t with hall := s.hall, ev := s.ev } = s ∧ t.ev = (s.takeBank port addr.toNat).ev ∧
    { t.hall with mem := s.hall.mem, answer := s.hall.answer } = (s.takeBank port addr.toNat).hall ∧
    t.hall.answer = ⟨port, w, false, sat, s.now + 192⟩ ∧
    (∀ i < 16, memByte t.hall.mem (wordAddr addr.toNat + i) = (put i).getD (memByte s.hall.mem (wordAddr addr.toNat + i))) ∧
    (∀ x, (x < wordAddr addr.toNat ∨ wordAddr addr.toNat + 16 ≤ x) → memByte t.hall.mem x = memByte s.hall.mem x)

/-- An access that takes its bank moves the bank's arbiter, and the banks that the tick has used (R247, R258). -/
theorem State.takeBank_eq (s : State) (port a : Nat) : s.takeBank port a = { s with
    hall := { s.hall with arbs := (s.takeBank port a).hall.arbs }, ev := (s.takeBank port a).ev } := rfl

theorem State.accessed_takeBank (s : State) (port a : Nat) (m : List Host.Cell) (w : BitVec 128) (sat : BitVec 4) :
    (s.takeBank port a).accessed port m w sat = { s with
      hall := { s.hall with mem := m, answer := ⟨port, w, false, sat, s.now + 192⟩, arbs := (s.takeBank port a).hall.arbs }
      ev := (s.takeBank port a).ev } :=
  congrArg (State.accessed · port m w sat) (s.takeBank_eq port a)

theorem State.accessDone_of {put : Nat → Option Byte} {w : BitVec 128} {sat : BitVec 4} {r : Result} {m : List Host.Cell}
    (hr : r = .next ((s.takeBank port addr.toNat).accessed port m w sat))
    (hin : ∀ i < 16, memByte m (wordAddr addr.toNat + i) = (put i).getD (memByte s.hall.mem (wordAddr addr.toNat + i)))
    (hout : ∀ x, (x < wordAddr addr.toNat ∨ wordAddr addr.toNat + 16 ≤ x) → memByte m x = memByte s.hall.mem x) :
    s.AccessDone port addr put w sat r := by
  rw [State.accessed_takeBank] at hr
  exact ⟨_, hr, rfl, rfl, rfl, rfl, hin, hout⟩

theorem State.AccessDone.congr {put put' : Nat → Option Byte} {w : BitVec 128} {sat : BitVec 4} {r : Result}
    (h : s.AccessDone port addr put w sat r) (hput : ∀ i < 16, put i = put' i) : s.AccessDone port addr put' w sat r := by
  obtain ⟨t, hr, hframe, hev, hhall, hanswer, hin, hout⟩ := h
  exact ⟨t, hr, hframe, hev, hhall, hanswer, fun i hi => by rw [← hput i hi]; exact hin i hi, hout⟩

section Granted

variable (hok : s.accessOk port addr.toNat = true) (hfree : s.bankFree port addr.toNat = true) (hsound : s.hallSound)

include hok hfree hsound

theorem accessDone_hallRead : s.AccessDone port addr (fun _ => none) (s.hall.word addr.toNat) 0
    (exec (.hallRead port addr .clean .clean) s) := by
  refine State.accessDone_of (congrArg Host.Outcome.next ?_) (fun i _ => rfl) (fun x _ => rfl)
  exact (State.onBank_of_free hok hfree _).trans (hallRead_of_sound (s := s.takeBank port addr.toNat) hok hsound)

variable (hcopy : s.uncopied (wordAddr addr.toNat)) (hwf : Memory.wf s.hall.mem = true)

include hcopy hwf

theorem accessDone_hallWrite (h0 h1 : Bool) (w : BitVec 128) : s.AccessDone port addr
    (fun i => if (if i < 8 then h0 else h1) then some (BitVec.ofNat 8 (w.toNat / 256 ^ i)) else none) 0 0
    (exec (.hallWrite port addr h0 h1 w) s) := by
  refine State.accessDone_of (congrArg Host.Outcome.next ((State.onBank_of_free hok hfree _).trans
    (hallWrite_of_sound (s := s.takeBank port addr.toNat) hok hsound hcopy ..))) (fun i hi => ?_) fun x hx => ?_
  · refine (memByte_halvesWritten hwf ..).trans ?_
    rw [Nat.add_sub_cancel_left]
    by_cases hsel : (if i < 8 then h0 else h1) = true
    · rw [if_pos ⟨by omega, by omega, hsel⟩, if_pos hsel, Option.getD_some]
    · rw [if_neg fun h => hsel h.2.2, if_neg hsel, Option.getD_none]
  · exact (memByte_halvesWritten hwf ..).trans (if_neg (by omega))

/-- An atomic leaves its new value in the lanes that its mask selects (R248). -/
theorem State.accessDone_portAtomic (mask : BitVec 4) (ret : Bool) (f : Nat → Nat → Nat × Bool) : s.AccessDone port addr
    (fun i => if mask.getLsbD (i / 4) then some (BitVec.ofNat 8
      ((f (i / 4) (memNat s.hall.mem (wordAddr addr.toNat + 4 * (i / 4)) 4)).1 / 256 ^ (i % 4))) else none)
    (if ret then s.hall.word addr.toNat else 0) (lanesSaturated mask (s.hall.word addr.toNat) f 4)
    (.next (s.onBank port addr.toNat fun s => s.portAtomic port addr mask ret .clean .clean f)) := by
  have hexec := congrArg Prod.fst (State.portLanes_of_sound (s := s.takeBank port addr.toNat) port addr.toNat mask ret f hsound hok
    (State.uncopied_wordAddr_iff.mp hcopy))
  refine State.accessDone_of (congrArg Host.Outcome.next ((State.onBank_of_free hok hfree _).trans hexec)) (fun i hi => ?_)
    fun x hx => ?_
  · refine (memByte_lanesWritten hwf ..).trans ?_
    rw [Nat.add_sub_cancel_left]
    by_cases hsel : mask.getLsbD (i / 4) = true
    · rw [if_pos ⟨by omega, by omega, hsel⟩, if_pos hsel, Option.getD_some]
      exact congrArg (fun c => BitVec.ofNat 8 ((f (i / 4) c).1 / 256 ^ (i % 4))) (Hall.lane_word _ _ (by omega))
    · rw [if_neg fun h => hsel h.2.2, if_neg hsel, Option.getD_none]
  · exact memByte_lanesWritten_outside hwf _ _ hx

theorem State.accessDone_portAtomic_of_none (mask : BitVec 4) (ret : Bool) (f : Nat → Nat → Nat × Bool)
    (hf : ∀ i c, (f i c).2 = false) : s.AccessDone port addr
    (fun i => if mask.getLsbD (i / 4) then some (BitVec.ofNat 8
      ((f (i / 4) (memNat s.hall.mem (wordAddr addr.toNat + 4 * (i / 4)) 4)).1 / 256 ^ (i % 4))) else none)
    (if ret then s.hall.word addr.toNat else 0) 0
    (.next (s.onBank port addr.toNat fun s => s.portAtomic port addr mask ret .clean .clean f)) := by
  have hdone := State.accessDone_portAtomic hok hfree hsound hcopy hwf mask ret f
  rwa [lanesSaturated_of_none mask f _ hf] at hdone

end Granted

/-- A byte of the low lane's number is a byte of the number itself. -/
theorem ofNat_mod_div (v : Nat) {i : Nat} (hi : i < 4) :
    BitVec.ofNat 8 (v % 2 ^ 32 / 256 ^ i) = BitVec.ofNat 8 (v / 256 ^ i) := by
  obtain ⟨k, hk⟩ := Nat.exists_eq_add_of_le (show i + 1 ≤ 4 by omega)
  have hpow : (2 : Nat) ^ 32 = 256 ^ i * (256 * 256 ^ k) := by
    rw [← Nat.pow_succ', ← Nat.pow_add, show i + (k + 1) = 4 by omega]
    rfl
  apply BitVec.eq_of_toNat_eq
  rw [BitVec.toNat_ofNat, BitVec.toNat_ofNat, hpow, Nat.mod_mul_right_div_self]
  exact Nat.mod_mul_right_mod ..

/-- The lanes of the halves that a SWAP64 selects (R248). -/
theorem getLsbD_halvesMask (h0 h1 : Bool) {i : Nat} (hi : i < 16) :
    (BitVec.ofNat 4 ((if h0 then 3 else 0) + (if h1 then 12 else 0))).getLsbD (i / 4) = if i < 8 then h0 else h1 := by
  have hall : ∀ i < 16, (BitVec.ofNat 4 ((if h0 then 3 else 0) + (if h1 then 12 else 0))).getLsbD (i / 4) =
      if i < 8 then h0 else h1 := by
    cases h0 <;> cases h1 <;> decide
  exact hall i hi

/-- A byte of a half that a SWAP64 writes, by the lane in which it stands (R248). -/
theorem swap64_byte (v : Vector Quad 2) (i : Nat) :
    BitVec.ofNat 8 ((v[Fin.ofNat 2 (i / 4 / 2)]).toNat / 2 ^ (32 * (i / 4 % 2)) % 2 ^ 32 / 256 ^ (i % 4)) =
      BitVec.ofNat 8 ((v[Fin.ofNat 2 (i / 8)]).toNat / 256 ^ (i % 8)) := by
  have hpow : 2 ^ (32 * (i / 4 % 2)) = 256 ^ (4 * (i / 4 % 2)) := by
    rw [show 32 * (i / 4 % 2) = 8 * (4 * (i / 4 % 2)) by omega]
    exact Nat.pow_mul 2 8 _
  have hhalf : v[Fin.ofNat 2 (i / 4 / 2)] = v[Fin.ofNat 2 (i / 8)] :=
    congrArg (fun j => v[Fin.ofNat 2 j]) (Nat.div_div_eq_div_mul i 4 2)
  rw [ofNat_mod_div _ (by omega), hpow, Nat.div_div_eq_div_mul, ← Nat.pow_add, show 4 * (i / 4 % 2) + i % 4 = i % 8 by omega,
    hhalf]

/-! Accesses outside the regions of a port (R253). -/

/-- The commands that access a word on behalf of a port, with operands. -/
def portAccesses (port : Fin 26) (addr : BitVec 27) : List Instr :=
  [.hallRead port addr .clean .clean, .hallWrite port addr true true 0,
    .add32Wrapping port addr 15 (Vector.replicate 4 1) true .clean .clean,
    .add32Saturating port addr 15 (Vector.replicate 4 1) true .clean .clean,
    .swap32 port addr 15 (Vector.replicate 4 1) .clean .clean, .swap64 port addr true true (Vector.replicate 2 1) .clean .clean]

/-- An access outside the regions of its port is not executed (R253). -/
theorem exec_of_outside (hok : s.accessOk port addr.toNat = false) {c : Instr} (hc : c ∈ portAccesses port addr) :
    exec c s = .next (s.accessRefused port addr.toNat) := by
  have hatomic (mask : BitVec 4) (ret : Bool) (f : Nat → Nat → Nat × Bool) :
      (s.onBank port addr.toNat fun s => s.portAtomic port addr mask ret .clean .clean f) = s.accessRefused port addr.toNat :=
    (State.onBank_of_outside hok _).trans (congrArg Prod.fst (State.portLanes_of_outside port _ mask ret f hok ..))
  simp only [portAccesses, List.mem_cons, List.not_mem_nil, or_false] at hc
  obtain (rfl | rfl) | hc := or_assoc.mpr hc
  case inl.inl | inl.inr =>
    exact congrArg Host.Outcome.next ((State.onBank_of_outside hok _).trans (if_pos (by rw [hok]; rfl)))
  case inr =>
    rcases hc with rfl | rfl | rfl | rfl
    all_goals exact congrArg Host.Outcome.next (hatomic ..)

/-- An access that is not executed answers with an error, counts and logs (R253). -/
theorem State.accessRefused_eq (s : State) (port : Nat) (addr : BitVec 27) : s.accessRefused port addr.toNat = { s with
    hall := { s.hall with answer := (s.hallAnswer port 0 true 0).hall.answer }
    tollDue := (s.toll 162).tollDue
    log := { s.log with due := s.log.due ++ [⟨s.now % 2 ^ 64, 4, port, 162, addr.zeroExtend 32⟩] } } := by
  have hdetail : wordOfInt (signed 32 addr.toNat) = addr.zeroExtend 32 := by
    have haddr := addr.isLt
    rw [signed, if_pos (by omega), Nat.mod_eq_of_lt (by omega), wordOfInt, BitVec.ofInt_natCast]
    exact BitVec.eq_of_toNat_eq (by simp)
  rw [← hdetail]
  rfl

/-! Errors found (R250). -/

theorem State.markStaging_eq (s : State) (a flags : Nat) :
    s.markStaging a flags = { s with stalls := (s.markStaging a flags).stalls } := by
  unfold State.markStaging
  split <;> rfl

/-- A mark in a segment of staging depends on neither Hall nor the events of the tick (R250). -/
theorem State.markStaging_of_hall (s : State) (h : Hall) (e : TickEvents) (a flags : Nat) :
    (({ s with hall := h, ev := e } : State).markStaging a flags).stalls = (s.markStaging a flags).stalls := by
  have hfind : ((List.range 32).find? fun d => (({ s with hall := h, ev := e } : State).region d).kind == 1 &&
      (({ s with hall := h, ev := e } : State).region d).holds a) =
      (List.range 32).find? fun d => (s.region d).kind == 1 && (s.region d).holds a := rfl
  unfold State.markStaging
  rw [hfind]
  cases (List.range 32).find? fun d => (s.region d).kind == 1 && (s.region d).holds a <;> rfl

/-- A single-bit error in a half is corrected: it is recorded, marked in staging, and counted (R197, R250). -/
def State.errorCorrected (s : State) (half : Nat) : State := { s with
  stalls := (s.markStaging (half * 8) 0x100).stalls
  hall := { s.hall with eccAddr := half * 8, eccUncorr := false }
  tollDue := (s.toll 160).tollDue }

/-- An uncorrectable error in a half of sound Hall stays: it is recorded, marked in staging, counted and logged (R197, R250). -/
def State.errorStays (s : State) (port half : Nat) : State := { s with
  stalls := (s.markStaging (half * 8) 0x200).stalls
  hall := { s.hall with bad := [half], eccAddr := half * 8, eccUncorr := true }
  tollDue := (s.toll 161).tollDue
  log := (s.logEvent 3 port 161 (signed 32 (half * 8))).log }

section Errors

variable (hok : s.accessOk port addr.toNat = true)

include hok in
/-- A read that finds an error in the first half of its word alone (R247, R250). -/
theorem hallRead_of_found {e : Ecc} {t : State} (hfirst : s.eccFound port (wordAddr addr.toNat / 8) e = t)
    (hsecond : t.eccFound port (wordAddr addr.toNat / 8 + 1) .clean = t) : hallRead port addr e .clean s =
      t.hallAnswer port (if t.halfBad addr.toNat true true then 0 else t.hall.word addr.toNat) (t.halfBad addr.toNat true true) 0 := by
  have hword : s.eccWord port addr.toNat true true e .clean = t := by
    rw [State.eccWord, if_pos rfl, if_pos rfl, hfirst]
    exact hsecond
  simp only [hallRead, hok, hword]
  rfl

variable (hsound : s.hallSound)

include hsound

theorem State.eccFound_corrected (port half : Nat) : s.eccFound port half .corrected = s.errorCorrected half := by
  rw [State.eccFound_of_latent_nil hsound.2, State.bad_contains_of_sound hsound]
  refine (if_neg (by decide)).trans ((if_pos rfl).trans ?_)
  rw [State.markStaging_eq]
  rfl

theorem State.eccFound_uncorrectable (port half : Nat) : s.eccFound port half .uncorrectable = s.errorStays port half := by
  rw [State.eccFound_of_latent_nil hsound.2, State.bad_contains_of_sound hsound, hsound.1]
  refine (if_pos rfl).trans ?_
  rw [State.markStaging_eq]
  rfl

include hok in
/-- A corrected error leaves the word's data, which the read answers (R250). -/
theorem hallRead_of_corrected : hallRead port addr .corrected .clean s =
    (s.errorCorrected (wordAddr addr.toNat / 8)).hallAnswer port (s.hall.word addr.toNat) false 0 := by
  have hsound' : (s.errorCorrected (wordAddr addr.toNat / 8)).hallSound := hsound
  rw [hallRead_of_found hok (State.eccFound_corrected hsound port _)
    (State.eccFound_clean hsound'.2 (State.bad_contains_of_sound hsound' _) port), State.halfBad_of_sound hsound']
  rfl

include hok in
/-- An uncorrectable error is answered with an error (R250). -/
theorem hallRead_of_uncorrectable : hallRead port addr .uncorrectable .clean s =
    (s.errorStays port (wordAddr addr.toNat / 8)).hallAnswer port 0 true 0 := by
  have hbad : (s.errorStays port (wordAddr addr.toNat / 8)).halfBad addr.toNat true true = true := by
    simp [State.halfBad, State.errorStays]
  have hother : (s.errorStays port (wordAddr addr.toNat / 8)).hall.bad.contains (wordAddr addr.toNat / 8 + 1) = false := by
    simp [State.errorStays]
  have hlatent : (s.errorStays port (wordAddr addr.toNat / 8)).hall.latent = [] := hsound.2
  rw [hallRead_of_found hok (State.eccFound_uncorrectable hsound port _) (State.eccFound_clean hlatent hother port), hbad]
  rfl

end Errors

/-- The first half of a word, as its byte address. -/
theorem wordAddr_half (a : Nat) : wordAddr a / 8 * 8 = wordAddr a := by
  rw [wordAddr]
  omega

end Commands

end Sys2Proof.Machine

/-- Settles O18: the four kinds of accesses, then those that are refused, that wait for their bank, and that find an error. -/
theorem hallAccessesAndErrors : Obligations.HallAccessesAndErrors := by
  unfold Obligations.HallAccessesAndErrors
  refine ⟨fun s port addr hmems hsound hok hfree => ?done,
    fun s port addr => ⟨fun hok c hc => ?refused, fun hok hfree e0 e1 => ?busy,
      fun hok hfree hsound => ⟨?corrected, ?stays⟩⟩⟩
  case done =>
    intro a hcopy done byteOf old sel ans
    have hatomic (mask : BitVec 4) := State.accessDone_portAtomic hok hfree hsound hcopy hmems.1 mask
    have hunsaturated (mask : BitVec 4) := State.accessDone_portAtomic_of_none hok hfree hsound hcopy hmems.1 mask
    refine ⟨accessDone_hallRead hok hfree hsound, accessDone_hallWrite hok hfree hsound hcopy hmems.1,
      fun mask v ret =>
        ⟨hunsaturated _ _ _ fun _ _ => rfl, ⟨_, fun i hi => ?_, hatomic mask ret _⟩, hunsaturated _ _ _ fun _ _ => rfl⟩,
      fun h0 h1 v => ?_⟩
    · rw [getLsbD_lanesSaturated _ _ _ _ hi, Hall.lane_word _ _ hi, decide_eq_true hi, Bool.true_and]
      rfl
    · refine State.AccessDone.congr (hunsaturated _ _ _ fun _ _ => rfl) fun i hi => ?_
      rw [getLsbD_halvesMask h0 h1 hi]
      exact if_congr Iff.rfl (congrArg some (swap64_byte ..)) rfl
  case refused =>
    have hexec := exec_of_outside hok hc
    rw [State.accessRefused_eq] at hexec
    exact ⟨_, hexec, rfl, rfl, rfl, rfl, rfl⟩
  case busy => exact congrArg Host.Outcome.next (State.onBank_of_busy hok hfree _)
  case corrected =>
    have hexec := (State.onBank_of_free hok hfree _).trans
      (hallRead_of_corrected (s := s.takeBank port addr.toNat) hok hsound)
    rw [s.takeBank_eq port addr.toNat] at hexec
    refine ⟨_, congrArg Host.Outcome.next hexec, rfl, rfl, ?_, rfl, rfl, wordAddr_half _, rfl⟩
    exact (s.markStaging_of_hall ..).trans (by rw [wordAddr_half])
  case stays =>
    have hexec := (State.onBank_of_free hok hfree _).trans
      (hallRead_of_uncorrectable (s := s.takeBank port addr.toNat) hok hsound)
    rw [s.takeBank_eq port addr.toNat] at hexec
    refine ⟨_, congrArg Host.Outcome.next hexec, rfl, rfl, ?_, rfl, rfl, rfl, ?_⟩
    · exact (s.markStaging_of_hall ..).trans (by rw [wordAddr_half])
    · exact List.length_append

end

/-! ## Maps are cleared and copied (11_steelyard R242, R243) -/

section

open Sys2Proof Sys2Proof.Machine

namespace Sys2Proof.Machine

section Maps

variable {s : State} {k : Fin 8}

/-- The maps with map `k` another. -/
def State.withYard (s : State) (k : Fin 8) (y : Yard) : State := { s with yards := s.yards.set k.val y k.isLt }

/-- A change of a map twice over. -/
theorem State.withYard_modYard (s : State) (k : Fin 8) (y : Yard) (f : Yard → Yard) :
    (s.withYard k y).modYard k f = s.withYard k (f y) := by
  simp [State.modYard, State.withYard, updAt]

/-- A word of a map begins at an address of a word of Hall. -/
theorem State.mapWord_aligned (s : State) (k : Fin 8) (i : Nat) : (s.mapBase k + 16 * i) % 16 = 0 := by
  obtain ⟨hbase, -⟩ := s.mapBase_mapBytes_aligned k
  omega

/-- An access, and a change of a map. -/
theorem State.accessed_modYard (s : State) (port : Nat) (m : List Host.Cell) (w : BitVec 128) (sat : BitVec 4) (k : Fin 8)
    (f : Yard → Yard) : (s.accessed port m w sat).modYard k f = { s with
      hall := { s.hall with mem := m, answer := ⟨port, w, false, sat, s.now + 192⟩ }
      yards := s.yards.set k.val (f s.yards[k]) k.isLt } := rfl

/-! Clears (R243). -/

theorem clearDone_of_passed (hon : (s.yards[k]).clearing = true) (h : s.mapWords k ≤ (s.yards[k]).clearAt) :
    clearDone k s = s.withYard k { s.yards[k] with clearing := false } :=
  if_pos (by rw [hon, decide_eq_true h]; rfl)

theorem clearDone_of_not_passed (h : (s.yards[k]).clearAt < s.mapWords k) : clearDone k s = s :=
  if_neg (by rw [decide_eq_false (by omega), Bool.and_false]; decide)

theorem memByte_zeroLanes {m : List Host.Cell} (hwf : Memory.wf m = true) (a x : Nat) :
    memByte (lanesWritten m a 15 (fun _ => 0) 4) x = if a ≤ x ∧ x < a + 16 then 0 else memByte m x := by
  have hall : ∀ i < 4, (15 : BitVec 4).getLsbD i = true := by decide
  rw [memByte_lanesWritten hwf]
  exact if_congr ⟨fun h => ⟨h.1, h.2.1⟩, fun h => ⟨h.1, h.2, hall _ (by omega)⟩⟩ (by rw [Nat.zero_div]; rfl) rfl

/-- A clear passes a word of sound Hall: its bytes are zero, and no other changes (R243). -/
theorem State.visitClear_of_sound {i : Nat} (hwf : Memory.wf s.hall.mem = true) (hsound : s.hallSound)
    (hok : s.accessOk 16 (s.mapBase k + 16 * i) = true) (hidle : ∀ j : Fin 8, (s.yards[j]).copying = false) :
    ∃ m ans, s.visitClear k i = { s with
      hall := { s.hall with mem := m, answer := ans }
      yards := s.yards.set k.val { s.yards[k] with clearAt := i + 1 } k.isLt } ∧
    ∀ x, memByte m x =
      if s.mapBase k + 16 * i ≤ x ∧ x < s.mapBase k + 16 * i + 16 then 0 else memByte s.hall.mem x := by
  have hword := congrArg Prod.fst (State.portLanes_of_sound 16 (s.mapBase k + 16 * i) 15 true (fun _ _ => (0, false)) hsound hok
    (State.uncopied_of_idle hidle _))
  rw [wordAddr_of_aligned (s.mapWord_aligned k i)] at hword
  rw [State.visitClear, State.clearWord, hword]
  exact ⟨_, _, s.accessed_modYard .., memByte_zeroLanes hwf (s.mapBase k + 16 * i)⟩

/-! Snapshots (R242). -/

theorem yardSnap_of_disabled (h : (s.yardRuns k && s.flag F.YRD_REGION_SNAP_EN k) = false) :
    yardSnap k s = (s.toll 149).answer .ok := by
  have hrefused : s.snapRefused k = some 149 := if_pos (by rw [← Bool.not_and, h]; rfl)
  rw [yardSnap, hrefused]

section Enabled

variable (hrun : s.yardRuns k = true) (hon : s.flag F.YRD_REGION_SNAP_EN k = true)

include hrun hon

theorem State.snapRefused_of_enabled : s.snapRefused k = if (s.yards[k]).copying then some 146 else none :=
  if_neg (by rw [hrun, hon]; decide)

theorem yardSnap_of_copying (h : (s.yards[k]).copying = true) : yardSnap k s = (s.toll 146).answer .ok := by
  rw [yardSnap, State.snapRefused_of_enabled hrun hon, h]
  rfl

theorem yardSnap_of_idle (h : (s.yards[k]).copying = false) :
    yardSnap k s = (s.withYard k { s.yards[k] with snapDue := true }).answer .ok := by
  rw [yardSnap, State.snapRefused_of_enabled hrun hon, h]
  rfl

end Enabled

theorem snapCopyDone_of_written (hon : (s.yards[k]).copying = true) (h : s.mapWords k ≤ (s.yards[k]).copyAt)
    (howed : ∀ x ∈ (s.yards[k]).owed, x.2.isStore = false) :
    snapCopyDone k s = s.withYard k { s.yards[k] with copying := false, copied := [] } := by
  have hnone : (s.yards[k]).owed.any (·.2.isStore) = false := List.any_eq_false.mpr fun x hx => by rw [howed x hx]; decide
  exact if_pos (by rw [hon, decide_eq_true h, hnone]; rfl)

theorem snapCopyDone_of_unwritten (h : (s.yards[k]).copyAt < s.mapWords k ∨ ∃ x ∈ (s.yards[k]).owed, x.2.isStore = true) :
    snapCopyDone k s = s := by
  refine if_neg ?_
  rcases h with h | h
  · rw [decide_eq_false (by omega), Bool.and_false, Bool.false_and]
    decide
  · rw [List.any_eq_true.mpr h, Bool.not_true, Bool.and_false]
    decide

/-- A copy reads a word of sound Hall, and owes its write (R242). -/
theorem State.copyWord_of_sound {i : Nat} (hsound : s.hallSound) (hok : s.accessOk 16 (s.mapBase k + 16 * i) = true) :
    s.copyWord k i = s.withYard k { s.yards[k] with owed := (s.yards[k]).owed ++
      [(s.now + 6 * 32, .store (s.snapBase k + 16 * i) (memNat s.hall.mem (s.mapBase k + 16 * i) 16))] } := by
  simp only [State.copyWord, hok, State.eccWord_of_sound hsound, State.halfBad_of_sound hsound]
  rfl

/-- A copy passes a word that it has not copied ahead (R242). -/
theorem State.visitCopy_of_sound {i : Nat} (hsound : s.hallSound) (hok : s.accessOk 16 (s.mapBase k + 16 * i) = true)
    (hon : (s.yards[k]).copying = true) (hat : (s.yards[k]).copyAt ≤ i) (hnew : i ∉ (s.yards[k]).copied) :
    s.visitCopy k i = s.withYard k { s.yards[k] with
      copyAt := i + 1
      owed := (s.yards[k]).owed ++
        [(s.now + 6 * 32, .store (s.snapBase k + 16 * i) (memNat s.hall.mem (s.mapBase k + 16 * i) 16))] } := by
  have hearly : s.copyEarly k i = (s.copyWord k i).modYard k fun y => { y with copied := i :: y.copied } :=
    if_pos (by rw [hon, decide_eq_true hat, List.contains_eq_mem, decide_eq_false hnew]; rfl)
  rw [State.visitCopy, hearly, State.copyWord_of_sound hsound hok, State.withYard_modYard, State.withYard_modYard]
  exact congrArg (s.withYard k) (by rw [List.erase_cons_head])

/-- A word that a copy owes is written, and no other byte changes (R242). -/
theorem State.makeOwed_store_of_sound {a : Nat} (hwf : Memory.wf s.hall.mem = true) (hsound : s.hallSound)
    (hok : s.accessOk 16 a = true) (w : Nat) : ∃ m, s.makeOwed (.store a w) = s.withMem m ∧ memNat m a 16 = w % 2 ^ 128 ∧
      ∀ x, x < a ∨ a + 16 ≤ x → memByte m x = memByte s.hall.mem x := by
  have hpow : (2 : Nat) ^ 128 = 256 ^ 16 := by norm_num
  refine ⟨_, (if_pos hok).trans (State.hallWrite_of_sound hsound a (leBytes 16 w)), ?_, fun x hx => ?_⟩
  · rw [hpow]
    exact memNat_memWrite hwf a 16 w
  · exact memByte_memWrite_outside hwf (by rwa [leBytes_length])

/-- Reading SNAP_CLO latches the other words of the snapshot's instant (R242). -/
theorem yardSnapRead_eq : yardSnapRead k s = (s.withYard k { s.yards[k] with
    latchChi := (s.yards[k]).snapChron.extractLsb' 32 32, latchPlo := (s.yards[k]).snapPos.extractLsb' 0 32
    latchPhi := (s.yards[k]).snapPos.extractLsb' 32 32 }).answer .ok := by
  have hhigh (q : Quad) : q.extractLsb' 32 32 = BitVec.ofNat 32 (q.toNat / 2 ^ 32) := by
    rw [← Nat.shiftRight_eq_div_pow]
    rfl
  have hlow (q : Quad) : q.extractLsb' 0 32 = BitVec.ofNat 32 q.toNat := rfl
  rw [hhigh, hhigh, hlow]
  rfl

end Maps

end Sys2Proof.Machine

/-- Settles O20: a clear and its words; a request of a snapshot by what the map does, a copy and its words, and the writes that it
owes; the latched instant. -/
theorem mapsAreClearedAndSnapped : Obligations.MapsAreClearedAndSnapped := by
  unfold Obligations.MapsAreClearedAndSnapped
  intro s k y yard word
  refine ⟨rfl, fun hon => ⟨fun h => ?cleared, fun h => ?clearing⟩, fun i hword hidle => ?clears, fun h => ?disabled,
    fun hrun hen => ⟨fun hon => ?refused, fun hon => ?taken⟩, fun hon => ⟨fun h howed => ?copied, fun h => ?copying⟩,
    fun i hword hon hat hnew => ?copies, fun i w hword => ?writes, ?latched⟩
  case cleared => exact congrArg Host.Outcome.next (clearDone_of_passed hon h)
  case clearing => exact congrArg Host.Outcome.next (clearDone_of_not_passed h)
  case clears =>
    obtain ⟨⟨hmem, -⟩, hsound, hok⟩ := hword
    obtain ⟨m, ans, hvisit, hbytes⟩ := State.visitClear_of_sound hmem hsound hok hidle
    rw [hvisit]
    exact ⟨rfl, rfl, hbytes⟩
  case disabled => exact congrArg Host.Outcome.next (yardSnap_of_disabled h)
  case refused => exact congrArg Host.Outcome.next (yardSnap_of_copying hrun hen hon)
  case taken => exact congrArg Host.Outcome.next (yardSnap_of_idle hrun hen hon)
  case copied => exact congrArg Host.Outcome.next (snapCopyDone_of_written hon h howed)
  case copying => exact congrArg Host.Outcome.next (snapCopyDone_of_unwritten h)
  case copies =>
    obtain ⟨-, hsound, hok⟩ := hword
    exact State.visitCopy_of_sound hsound hok hon hat hnew
  case writes =>
    obtain ⟨⟨hmem, -⟩, hsound, hok⟩ := hword
    obtain ⟨m, howed, hword, hout⟩ := State.makeOwed_store_of_sound hmem hsound hok w
    rw [howed]
    exact ⟨rfl, hword, hout⟩
  case latched => exact congrArg Host.Outcome.next yardSnapRead_eq

end

/-! ## Runs and decay (11_steelyard R237, R238, R241; 12_hall R247) -/

section

open Sys2Proof Sys2Proof.Machine

namespace Sys2Proof.Machine

variable {s : State}

/-! Periods and sweeps (R241). -/

/-- A word that is brought into force is in force as it was last written (R379). -/
theorem State.val_bringIntoForce (hwf : Sparse.wf resetWord s.force = true) (f : Fld) (k n : Nat) :
    (s.bringIntoForce [f.num k n]).val f k n = s.wval f k n := by
  have hword : (s.bringIntoForce [f.num k n]).word (f.num k n) = s.lastWritten (f.num k n) := by
    refine (congrArg (State.word · (f.num k n)) (s.setForce_whole ..)).trans ?_
    exact (Sparse.get_set hwf ..).trans (if_pos rfl)
  rw [State.val, hword, State.wval]

section Sweeps

variable {k : Fin 8}

/-- K and PERIOD of map `k` in force as last written, and the map another (R241). -/
def State.decayForced (s : State) (k : Fin 8) (y : Yard) : State :=
  ({ s with force := (s.bringIntoForce [F.YRD_DECAY_K.num k]).force } : State).withYard k y

/-- Where the period after the one that begins at map `k` begins (R241). -/
def State.decayNext (s : State) (k : Fin 8) : Nat := (s.yards[k]).periodAt + max 1 (s.wval F.YRD_DECAY_PERIOD k) * 40000000

section Period

variable (hrun : s.yardRuns k = true) (hdue : s.reached (s.yards[k]).periodAt = true)
  (hwf : Sparse.wf resetWord s.force = true)

include hrun hdue hwf

/-- A period begins with K and PERIOD as last written: it begins a sweep, or meets one (R241). -/
theorem decayPeriod_of_due : decayPeriod k s =
    if (s.yards[k]).sweeping && s.wval F.YRD_DECAY_K k != 0 then
      { s.decayForced k { s.yards[k] with periodAt := s.decayNext k } with ev := { s.ev with yardSkip := k :: s.ev.yardSkip } }
    else (s.decayForced k { s.yards[k] with periodAt := s.decayNext k }).beginSweep k := by
  have hperiod : (s.bringIntoForce [F.YRD_DECAY_K.num k]).val F.YRD_DECAY_PERIOD k = s.wval F.YRD_DECAY_PERIOD k :=
    State.val_bringIntoForce hwf F.YRD_DECAY_PERIOD k 0
  have hshare : (s.bringIntoForce [F.YRD_DECAY_K.num k]).val F.YRD_DECAY_K k = s.wval F.YRD_DECAY_K k :=
    State.val_bringIntoForce hwf F.YRD_DECAY_K k 0
  have hmilli : milliMites = 40000000 := rfl
  rw [decayPeriod, if_neg (by rw [hrun, hdue]; decide)]
  simp only [hperiod, hshare, hmilli]
  rfl

/-- A sweep begins where K is not zero (R241). -/
theorem decayPeriod_of_idle (hshare : s.wval F.YRD_DECAY_K k ≠ 0) (hoff : (s.yards[k]).sweeping = false) : decayPeriod k s =
    s.decayForced k { s.yards[k] with
      periodAt := s.decayNext k, sweeping := true, sweepK := s.wval F.YRD_DECAY_K k, sweepAt := 0 } := by
  have hval : (s.decayForced k { s.yards[k] with periodAt := s.decayNext k }).val F.YRD_DECAY_K k =
      s.wval F.YRD_DECAY_K k :=
    State.val_bringIntoForce hwf F.YRD_DECAY_K k 0
  rw [decayPeriod_of_due hrun hdue hwf, if_neg (by rw [hoff]; exact Bool.false_ne_true), State.beginSweep, hval, if_neg hshare]
  exact State.withYard_modYard ..

/-- A period that meets a sweep is skipped (R241). -/
theorem decayPeriod_of_sweeping (hshare : s.wval F.YRD_DECAY_K k ≠ 0) (hon : (s.yards[k]).sweeping = true) : decayPeriod k s =
    { s.decayForced k { s.yards[k] with periodAt := s.decayNext k } with ev := { s.ev with yardSkip := k :: s.ev.yardSkip } } :=
  (decayPeriod_of_due hrun hdue hwf).trans (if_pos (by rw [hon, bne_iff_ne.mpr hshare]; rfl))

end Period

theorem sweepDone_of_finished (hon : (s.yards[k]).sweeping = true) (hskip : s.ev.yardSkip = [])
    (h : s.mapWords k ≤ (s.yards[k]).sweepAt) (howed : ∀ x ∈ (s.yards[k]).owed, x.2.isStore = true) :
    sweepDone k s = s.withYard k { s.yards[k] with sweeping := false } := by
  have hnone : (s.yards[k]).owed.any (!·.2.isStore) = false := List.any_eq_false.mpr fun x hx => by rw [howed x hx]; decide
  refine (if_neg (by rw [hon, decide_eq_false (by omega), hnone]; decide)).trans (if_neg ?_)
  rw [hskip]
  exact Bool.false_ne_true

theorem sweepDone_of_unfinished
    (h : (s.yards[k]).sweepAt < s.mapWords k ∨ ∃ x ∈ (s.yards[k]).owed, x.2.isStore = false) : sweepDone k s = s := by
  refine if_pos ?_
  rcases h with h | ⟨x, hx, hstore⟩
  · rw [decide_eq_true h, Bool.or_true, Bool.true_or]
  · rw [List.any_eq_true.mpr ⟨x, hx, by rw [hstore]; rfl⟩, Bool.or_true]

/-- A sweep visits a word of sound Hall: the shares of its cells are owed (R241). -/
theorem State.visitSweep_of_sound {i : Nat} (hsound : s.hallSound) (hok : s.accessOk 16 (s.mapBase k + 16 * i) = true) :
    s.visitSweep k i = s.withYard k { s.yards[k] with
      sweepAt := i + 1
      owed := (s.yards[k]).owed ++ [(s.now + 6 * 32, .lower (s.mapBase k + 16 * i) ((List.range 4).map fun j =>
        decayOf (s.yards[k]).sweepK (memNat s.hall.mem (s.mapBase k + 16 * i + 4 * j) 4)))] } := by
  have hcells : ((List.range 4).map fun j => decayOf (s.yards[k]).sweepK (lane (s.hall.word (s.mapBase k + 16 * i)) j)) =
      (List.range 4).map fun j => decayOf (s.yards[k]).sweepK (memNat s.hall.mem (s.mapBase k + 16 * i + 4 * j) 4) := by
    refine List.map_congr_left fun j hj => ?_
    rw [Hall.lane_word _ _ (List.mem_range.mp hj), wordAddr_of_aligned (s.mapWord_aligned k i)]
  rw [← hcells, State.visitSweep]
  simp only [State.decayWord, hok, State.eccWord_of_sound hsound, State.halfBad_of_sound hsound]
  exact State.withYard_modYard ..

end Sweeps

/-! Atomics that a map makes by port 16 (R238, R241). -/

/-- The word at `a` becomes in memory what `new` makes of its lanes, and no other byte changes. -/
structure LanesMoved (m m' : List Host.Cell) (a : Nat) (new : Nat → Nat → Nat) : Prop where
  wf : Memory.wf m' = true
  lanes : ∀ i < 4, memNat m' (a + 4 * i) 4 = new i (memNat m (a + 4 * i) 4)
  outside : ∀ x, x < a ∨ a + 16 ≤ x → memByte m' x = memByte m x

theorem lanesMoved_lanesWritten {m : List Host.Cell} (hwf : Memory.wf m = true) (a : Nat) (mask : BitVec 4) {v : Nat → Nat}
    {new : Nat → Nat → Nat}
    (hv : ∀ i < 4, (if mask.getLsbD i then v i % 2 ^ 32 else memNat m (a + 4 * i) 4) = new i (memNat m (a + 4 * i) 4)) :
    LanesMoved m (lanesWritten m a mask v 4) a new :=
  ⟨lanesWritten_wf hwf mask v 4, fun i hi => (memNat_lanesWritten hwf mask v hi).trans (hv i hi),
    fun _ hx => memByte_lanesWritten_outside hwf mask v hx⟩

/-- Lanes of another word are as before. -/
theorem LanesMoved.memNat_other {m m' : List Host.Cell} {a b : Nat} {new : Nat → Nat → Nat} (h : LanesMoved m m' a new)
    (ha : a % 16 = 0) (hb : b % 16 = 0) (hne : a ≠ b) {i : Nat} (hi : i < 4) :
    memNat m' (b + 4 * i) 4 = memNat m (b + 4 * i) 4 :=
  memNat_congr fun j hj => h.outside _ (by omega)

/-- A sweep's share is taken from the cells of a word (R241). -/
theorem State.makeOwed_lower_of_sound {a : Nat} {subs : List Nat} (ha : a % 16 = 0) (hwf : Memory.wf s.hall.mem = true)
    (hsound : s.hallSound) (hok : s.accessOk 16 a = true) (hidle : ∀ j : Fin 8, (s.yards[j]).copying = false) :
    ∃ m w, s.makeOwed (.lower a subs) = s.accessed 16 m w 0 ∧
      LanesMoved s.hall.mem m a fun i c => (c + 2 ^ 32 - subs.getD i 0) % 2 ^ 32 := by
  have hall : ∀ i < 4, (15 : BitVec 4).getLsbD i = true := by decide
  have hlower := congrArg Prod.fst (State.portLanes_of_sound 16 a 15 false
    (fun i c => ((c + 2 ^ 32 - subs.getD i 0) % 2 ^ 32, false)) hsound hok (State.uncopied_of_idle hidle _))
  rw [wordAddr_of_aligned ha, lanesSaturated_of_none _ _ _ fun _ _ => rfl] at hlower
  refine ⟨_, _, hlower, lanesMoved_lanesWritten hwf a 15 fun i hi => ?_⟩
  rw [hall i hi, if_pos rfl, Nat.mod_mod, Hall.lane_word _ _ hi, wordAddr_of_aligned ha]

/-! The adds of a run (R238, R247). -/

section Adds

/-- An add increments, saturating, the lanes that a mask selects (R238). -/
def incremented (mask i c : Nat) : Nat := if mask.testBit i then min (c + 1) (2 ^ 32 - 1) else c

/-- An add saturates a lane of its word (R238). -/
def addSaturates (m : List Host.Cell) (p : Nat × Nat) : Bool :=
  (List.range 4).any fun i => p.2.testBit i && memNat m (p.1 + 4 * i) 4 == 2 ^ 32 - 1

theorem ofNat_4_getLsbD (mask : Nat) {i : Nat} (hi : i < 4) : (BitVec.ofNat 4 mask).getLsbD i = mask.testBit i := by
  rw [BitVec.getLsbD_ofNat, decide_eq_true hi, Bool.true_and]

/-- The number of the lanes that an add of one saturates is not zero exactly where the add saturates a lane. -/
theorem lanesSaturated_ne_zero (h : Hall) {p : Nat × Nat} (hp : p.1 % 16 = 0) :
    (lanesSaturated (BitVec.ofNat 4 p.2) (h.word p.1) (fun _ old => addLane true old 1) 4 != 0) = addSaturates h.mem p := by
  have hlane (i : Nat) (hi : i < 4) : (lanesSaturated (BitVec.ofNat 4 p.2) (h.word p.1) (fun _ old =>
      addLane true old 1) 4).getLsbD i = (p.2.testBit i && memNat h.mem (p.1 + 4 * i) 4 == 2 ^ 32 - 1) := by
    have hlt := memNat_lt h.mem (p.1 + 4 * i) 4
    rw [getLsbD_lanesSaturated _ _ _ _ hi, decide_eq_true hi, Bool.true_and, ofNat_4_getLsbD _ hi, Hall.lane_word _ _ hi,
      wordAddr_of_aligned hp]
    refine congrArg (p.2.testBit i && ·) (Bool.eq_iff_iff.mpr (decide_eq_true_iff.trans (Iff.trans ?_ beq_iff_eq.symm)))
    omega
  rw [Bool.eq_iff_iff, bne_iff_ne, addSaturates, List.any_eq_true]
  constructor
  · intro hne
    by_contra hnone
    refine hne (BitVec.eq_of_getLsbD_eq fun i hi => ?_)
    rw [hlane i hi, Bool.eq_false_iff.mpr fun hsat => hnone ⟨i, List.mem_range.mpr hi, hsat⟩]
    exact BitVec.getLsbD_zero.symm
  · rintro ⟨i, hi, hsat⟩ hzero
    have hlow := hlane i (List.mem_range.mp hi)
    rw [hzero, hsat, BitVec.ofNat_eq_ofNat, BitVec.getLsbD_zero] at hlow
    exact Bool.false_ne_true hlow

variable {k : Fin 8}

/-- The maps of which an add has saturated in the present tick, `k` among them where `sat` (R238). -/
def State.saturated (s : State) (k : Fin 8) (sat : Bool) : List (Fin 8) :=
  if sat && !s.ev.yardSat.contains k then k :: s.ev.yardSat else s.ev.yardSat

/-- The state in which the word at `a` has taken its bank for an add to map `k`, and `rest` waits (R238, R247). -/
def State.banked (s : State) (k : Fin 8) (a : Nat) (rest : List (Nat × Nat)) : State := { s with
  hall := { s.hall with arbs := (s.takeBank 16 a).hall.arbs }
  yards := s.yards.set k.val { s.yards[k] with adds := rest } k.isLt
  ev := { s.ev with banks := (hallBank a, 16, s.portGroup 16 a) :: s.ev.banks } }

/-- The state in which an add to map `k` has been made: a saturation is counted where it is the tick's first for the map (R238). -/
def State.added (s : State) (k : Fin 8) (m : List Host.Cell) (ans : HallAnswer) (sat : Bool) : State := { s with
  hall := { s.hall with mem := m, answer := ans }
  ev := { s.ev with yardSat := s.saturated k sat }
  tollDue := (s.tollIf (sat && !s.ev.yardSat.contains k) 144).tollDue }

/-- An add to a word of sound Hall that no copy has still to pass (R238). -/
theorem State.yardAdd_of_sound {p : Nat × Nat} (hp : p.1 % 16 = 0) (hwf : Memory.wf s.hall.mem = true) (hsound : s.hallSound)
    (hok : s.accessOk 16 p.1 = true) (hidle : ∀ j : Fin 8, (s.yards[j]).copying = false) :
    ∃ m w sat, s.yardAdd p.1 p.2 = (s.accessed 16 m w sat, addSaturates s.hall.mem p) ∧
      LanesMoved s.hall.mem m p.1 (incremented p.2) := by
  have hadd := State.portLanes_of_sound 16 p.1 (BitVec.ofNat 4 p.2) false (fun _ old => addLane true old 1) hsound hok
    (State.uncopied_of_idle hidle _)
  have hyard : s.yardAdd p.1 p.2 = (_, _) := congrArg (fun r : State × BitVec 4 => (r.1, r.2 != 0)) hadd
  rw [wordAddr_of_aligned hp, lanesSaturated_ne_zero _ hp] at hyard
  refine ⟨_, _, _, hyard, lanesMoved_lanesWritten hwf p.1 (BitVec.ofNat 4 p.2) fun i hi => ?_⟩
  have hlt : min (lane (s.hall.word p.1) i + 1) (2 ^ 32 - 1) < 2 ^ 32 := by omega
  rw [ofNat_4_getLsbD _ hi]
  refine if_congr Iff.rfl ((Nat.mod_eq_of_lt hlt).trans ?_) rfl
  rw [Hall.lane_word _ _ hi, wordAddr_of_aligned hp]

theorem State.mapAdd_of_sound {p : Nat × Nat} (hp : p.1 % 16 = 0) (hwf : Memory.wf s.hall.mem = true) (hsound : s.hallSound)
    (hok : s.accessOk 16 p.1 = true) (hidle : ∀ j : Fin 8, (s.yards[j]).copying = false) :
    ∃ m ans, s.mapAdd k p.1 p.2 = s.added k m ans (addSaturates s.hall.mem p) ∧
      LanesMoved s.hall.mem m p.1 (incremented p.2) := by
  obtain ⟨m, w, sat, hadd, hmoved⟩ := State.yardAdd_of_sound hp hwf hsound hok hidle
  refine ⟨m, ⟨16, w, false, sat, s.now + 192⟩, ?_, hmoved⟩
  rw [State.mapAdd, hadd]
  have hev : (s.accessed 16 m w sat).ev = s.ev := rfl
  simp only [hev, State.added, State.saturated]
  cases addSaturates s.hall.mem p && !s.ev.yardSat.contains k <;> rfl

theorem State.takeBank_modYard (s : State) (k : Fin 8) (a : Nat) (rest : List (Nat × Nat)) :
    (s.takeBank 16 a).modYard k (fun y => { y with adds := rest }) = s.banked k a rest := rfl

/-- A change of the adds that wait at a map leaves its copy as it is. -/
theorem copying_set_adds {yards : Vector Yard 8} (hidle : ∀ j : Fin 8, (yards[j]).copying = false) (k : Fin 8)
    (rest : List (Nat × Nat)) (j : Fin 8) : ((yards.set k.val { yards[k] with adds := rest } k.isLt)[j]).copying = false := by
  refine (congrArg Yard.copying (updAt_get yards k j fun y => { y with adds := rest })).trans ?_
  split <;> exact hidle j

/-- The first of the adds that wait is made where its bank lets port 16 in (R238, R247). -/
theorem State.issueAdds_succ {p : Nat × Nat} {rest : List (Nat × Nat)} (hadds : (s.yards[k]).adds = p :: rest) (hp : p.1 % 16 = 0)
    (hwf : Memory.wf s.hall.mem = true) (hsound : s.hallSound) (hok : s.accessOk 16 p.1 = true)
    (hfree : s.bankFree 16 p.1 = true) (hidle : ∀ j : Fin 8, (s.yards[j]).copying = false) (n : Nat) :
    ∃ m ans, s.issueAdds k (n + 1) = ((s.banked k p.1 rest).added k m ans (addSaturates s.hall.mem p)).issueAdds k n ∧
      LanesMoved s.hall.mem m p.1 (incremented p.2) := by
  obtain ⟨m, ans, hmade, hmoved⟩ := State.mapAdd_of_sound (k := k) (s := s.banked k p.1 rest) hp hwf hsound hok
    (copying_set_adds hidle k rest)
  refine ⟨m, ans, ?_, hmoved⟩
  have hsat : addSaturates (s.banked k p.1 rest).hall.mem p = addSaturates s.hall.mem p := rfl
  rw [hsat] at hmade
  rw [State.issueAdds, hadds]
  simp only [hok, hfree]
  rw [if_neg (by decide), if_pos trivial, State.takeBank_modYard, hmade]

/-- The adds `l` can be made in order in the present tick: their words are of one region that port 16 may access, at banks that let it
in and of which no two are one, and no snapshot is being copied (R242, R247). -/
structure State.AddsReady (s : State) (l : List (Nat × Nat)) : Prop where
  wf : Memory.wf s.hall.mem = true
  sound : s.hallSound
  idle : ∀ j : Fin 8, (s.yards[j]).copying = false
  arbs : Sparse.wf (fun _ => ({} : Arbiter)) s.hall.arbs = true
  nodup : (l.map fun p => hallBank p.1).Nodup
  words : ∀ p ∈ l, p.1 % 16 = 0 ∧ s.accessOk 16 p.1 = true
  granted : ∀ p ∈ l, ((s.decidedFor (hallBank p.1) 16).holder.map (·.req.port)) = some 16
  fresh : ∀ p ∈ l, ∀ x ∈ s.ev.banks, x.1 ≠ hallBank p.1
  room : s.ev.banks.length + l.length ≤ 4

section Ready

variable {p : Nat × Nat} {l : List (Nat × Nat)}

theorem State.AddsReady.bankFree (h : s.AddsReady (p :: l)) : s.bankFree 16 p.1 = true := by
  have hfresh : (s.ev.banks.any fun x => x.1 == hallBank p.1) = false :=
    List.any_eq_false.mpr fun x hx => by simpa using h.fresh p List.mem_cons_self x hx
  have hroom : (s.ev.banks.filter fun x => x.2 == (16, s.portGroup 16 p.1)).length < 4 := by
    have hle := List.length_filter_le (fun x : Nat × Nat × Nat => x.2 == (16, s.portGroup 16 p.1)) s.ev.banks
    have hall := h.room
    rw [List.length_cons] at hall
    omega
  rw [State.bankFree, hfresh, decide_eq_true hroom, h.granted p List.mem_cons_self]
  rfl

/-- What an arbiter decides is as before where another bank's has been used (R258). -/
theorem State.decidedFor_added (harbs : Sparse.wf (fun _ => ({} : Arbiter)) s.hall.arbs = true) {b : Nat} (hb : b ≠ hallBank p.1)
    (rest : List (Nat × Nat)) (m : List Host.Cell) (ans : HallAnswer) (sat : Bool) :
    ((s.banked k p.1 rest).added k m ans sat).decidedFor b 16 = s.decidedFor b 16 := by
  have harb : ((s.banked k p.1 rest).added k m ans sat).arb b = s.arb b := (Sparse.get_set harbs ..).trans (if_neg hb)
  rw [State.decidedFor, harb]
  rfl

theorem State.AddsReady.added (h : s.AddsReady (p :: l)) {m : List Host.Cell} (hm : Memory.wf m = true) (rest : List (Nat × Nat))
    (ans : HallAnswer) (sat : Bool) : ((s.banked k p.1 rest).added k m ans sat).AddsReady l := by
  have hnodup := h.nodup
  rw [List.map_cons, List.nodup_cons] at hnodup
  obtain ⟨hother, hrest⟩ := hnodup
  have hne (q : Nat × Nat) (hq : q ∈ l) : hallBank q.1 ≠ hallBank p.1 := fun heq =>
    hother (heq ▸ List.mem_map_of_mem hq)
  refine ⟨hm, h.sound, copying_set_adds h.idle k rest, Sparse.wf_set h.arbs .., hrest,
    fun q hq => h.words q (List.mem_cons_of_mem _ hq), fun q hq => ?_, fun q hq x hx => ?_, ?_⟩
  · rw [State.decidedFor_added h.arbs (hne q hq)]
    exact h.granted q (List.mem_cons_of_mem _ hq)
  · rcases List.mem_cons.mp hx with rfl | hx
    · exact (hne q hq).symm
    · exact h.fresh q (List.mem_cons_of_mem _ hq) x hx
  · have hroom := h.room
    rw [List.length_cons] at hroom
    change (s.ev.banks.length + 1) + l.length ≤ 4
    omega

end Ready

theorem any_congr_of_mem {α : Type} {l : List α} {f g : α → Bool} (h : ∀ x ∈ l, f x = g x) : l.any f = l.any g := by
  rw [Bool.eq_iff_iff, List.any_eq_true, List.any_eq_true]
  exact exists_congr fun x => and_congr_right fun hx => by rw [h x hx]

/-- The adds that wait at a map, changed twice. -/
theorem set_adds_set_adds (yards : Vector Yard 8) (k : Fin 8) (a b : List (Nat × Nat)) :
    (yards.set k.val { yards[k] with adds := a } k.isLt).set k.val
      { (yards.set k.val { yards[k] with adds := a } k.isLt)[k] with adds := b } k.isLt =
    yards.set k.val { yards[k] with adds := b } k.isLt :=
  updAt_updAt yards k (fun y => { y with adds := a }) fun y => { y with adds := b }

/-- The adds `l` have been made to map `k`, and `rest` waits (R238): each increments the lanes of its word, no other byte of Hall
changes, and a saturation is counted where it is the tick's first for the map. -/
structure State.AddsMade (s : State) (k : Fin 8) (l rest : List (Nat × Nat)) (t : State) : Prop where
  frame : { t with hall := s.hall, yards := s.yards, ev := s.ev, tollDue := s.tollDue } = s
  yards : t.yards = s.yards.set k.val { s.yards[k] with adds := rest } k.isLt
  lanes : ∀ p ∈ l, ∀ i < 4, memNat t.hall.mem (p.1 + 4 * i) 4 = incremented p.2 i (memNat s.hall.mem (p.1 + 4 * i) 4)
  outside : ∀ x, (∀ p ∈ l, x < p.1 ∨ p.1 + 16 ≤ x) → memByte t.hall.mem x = memByte s.hall.mem x
  tollDue : t.tollDue = (s.tollIf (l.any (addSaturates s.hall.mem) && !s.ev.yardSat.contains k) 144).tollDue

theorem State.addsMade_nil {rest : List (Nat × Nat)} (h : (s.yards[k]).adds = rest) : s.AddsMade k [] rest s where
  frame := rfl
  yards := by
    subst h
    exact (Vector.set_getElem_self _).symm
  lanes := fun _ hp => absurd hp List.not_mem_nil
  outside := fun _ _ => rfl
  tollDue := rfl

/-- A saturation is counted once, whether at the first add or at a later one (R238). -/
theorem State.tollIf_added (s : State) (k : Fin 8) (a : Nat) (rest : List (Nat × Nat)) (m : List Host.Cell) (ans : HallAnswer)
    (sat later : Bool) :
    (((s.banked k a rest).added k m ans sat).tollIf
      (later && !((s.banked k a rest).added k m ans sat).ev.yardSat.contains k) 144).tollDue =
      (s.tollIf ((sat || later) && !s.ev.yardSat.contains k) 144).tollDue := by
  have hsat : ((s.banked k a rest).added k m ans sat).ev.yardSat = s.saturated k sat := rfl
  have htoll : ((s.banked k a rest).added k m ans sat).tollDue = (s.tollIf (sat && !s.ev.yardSat.contains k) 144).tollDue :=
    State.tollIf_tollDue_congr (s := s.banked k a rest) (t := s) rfl _ 144
  rw [hsat, State.saturated]
  cases hfirst : sat && !s.ev.yardSat.contains k
  case true =>
    obtain ⟨rfl, hnew⟩ := (Bool.and_eq_true ..).mp hfirst
    have hnoted : (k :: s.ev.yardSat).contains k = true := by simp
    rw [if_pos rfl, hnoted, Bool.not_true, Bool.and_false]
    rw [hnew] at htoll ⊢
    exact htoll
  case false =>
    have hlater : ((sat || later) && !s.ev.yardSat.contains k) = (later && !s.ev.yardSat.contains k) := by
      rw [Bool.and_or_distrib_right, hfirst, Bool.false_or]
    rw [if_neg Bool.false_ne_true, hlater]
    rw [hfirst] at htoll
    exact State.tollIf_tollDue_congr htoll _ 144

/-- An add, and the adds after it (R238). -/
theorem State.AddsMade.cons {p : Nat × Nat} {l rest : List (Nat × Nat)} {m : List Host.Cell} {ans : HallAnswer} {t : State}
    (hafter : ((s.banked k p.1 (l ++ rest)).added k m ans (addSaturates s.hall.mem p)).AddsMade k l rest t)
    (hmoved : LanesMoved s.hall.mem m p.1 (incremented p.2))
    (hword : ∀ q ∈ l, ∀ i < 4, memNat m (q.1 + 4 * i) 4 = memNat s.hall.mem (q.1 + 4 * i) 4)
    (hapart : ∀ q ∈ l, p.1 + 16 ≤ q.1 ∨ q.1 + 16 ≤ p.1) : s.AddsMade k (p :: l) rest t where
  frame := (congrArg (fun u : State => { u with hall := s.hall, yards := s.yards, ev := s.ev, tollDue := s.tollDue })
    hafter.frame).trans rfl
  yards := by
    have hown : ((s.banked k p.1 (l ++ rest)).added k m ans (addSaturates s.hall.mem p)).yards =
        s.yards.set k.val { s.yards[k] with adds := l ++ rest } k.isLt := rfl
    rw [hafter.yards, hown]
    exact set_adds_set_adds ..
  lanes := fun q hq i hi => by
    rcases List.mem_cons.mp hq with rfl | hq
    · refine (memNat_congr fun j hj => hafter.outside _ fun r hr => ?_).trans (hmoved.lanes i hi)
      have := hapart r hr
      omega
    · exact (hafter.lanes q hq i hi).trans (congrArg (incremented q.2 i) (hword q hq i hi))
  outside := fun x hx =>
    (hafter.outside x fun q hq => hx q (List.mem_cons_of_mem _ hq)).trans (hmoved.outside x (hx p List.mem_cons_self))
  tollDue := by
    have hsame : l.any (addSaturates m) = l.any (addSaturates s.hall.mem) := by
      refine any_congr_of_mem fun q hq => any_congr_of_mem fun i hi => ?_
      rw [hword q hq i (List.mem_range.mp hi)]
    refine hafter.tollDue.trans ?_
    rw [List.any_cons, ← hsame]
    exact s.tollIf_added ..

/-- Adds that are ready are made in order (R238, R247). -/
theorem State.addsMade_issueAdds {l rest : List (Nat × Nat)} {n : Nat} (hadds : (s.yards[k]).adds = l ++ rest)
    (hready : s.AddsReady l) (hn : l.length = n ∨ l.length < n ∧ rest = []) : s.AddsMade k l rest (s.issueAdds k n) := by
  induction l generalizing s n with
  | nil =>
    have hstays : s.issueAdds k n = s := by
      cases n with
      | zero => rfl
      | succ n =>
        have hrest : rest = [] := hn.elim (fun h => absurd h (by simp)) And.right
        rw [State.issueAdds, hadds, hrest]
        rfl
    rw [hstays]
    exact State.addsMade_nil hadds
  | cons p l ih =>
    obtain ⟨n, rfl⟩ : ∃ j, n = j + 1 := Nat.exists_eq_succ_of_ne_zero (by rw [List.length_cons] at hn; omega)
    obtain ⟨hp, hok⟩ := hready.words p List.mem_cons_self
    obtain ⟨m, ans, hmade, hmoved⟩ := State.issueAdds_succ hadds hp hready.wf hready.sound hok hready.bankFree hready.idle n
    have hother (q : Nat × Nat) (hq : q ∈ l) : p.1 ≠ q.1 := fun heq => by
      have hnodup := hready.nodup
      rw [List.map_cons, List.nodup_cons] at hnodup
      exact hnodup.1 (heq ▸ List.mem_map_of_mem hq)
    have hword (q : Nat × Nat) (hq : q ∈ l) (i : Nat) (hi : i < 4) :
        memNat m (q.1 + 4 * i) 4 = memNat s.hall.mem (q.1 + 4 * i) 4 :=
      hmoved.memNat_other hp (hready.words q (List.mem_cons_of_mem _ hq)).1 (hother q hq) hi
    have hafter := ih (s := (s.banked k p.1 (l ++ rest)).added k m ans (addSaturates s.hall.mem p)) (n := n)
      (congrArg Yard.adds (updAt_same s.yards k fun y => { y with adds := l ++ rest })) (hready.added hmoved.wf ..)
      (hn.imp Nat.succ.inj (And.imp_left Nat.lt_of_succ_lt_succ))
    rw [hmade]
    generalize State.issueAdds _ k n = t at hafter
    refine hafter.cons hmoved hword fun q hq => ?_
    obtain ⟨hq16, -⟩ := hready.words q (List.mem_cons_of_mem _ hq)
    have hne := hother q hq
    omega

/-- The oldest run of stall `n` waits no longer, and `adds` wait at map `k` (R238). -/
def State.runTaken (s : State) (n : Fin 16) (rs : List YardRun) (k : Fin 8) (adds : List (Nat × Nat)) : State := { s with
  stalls := s.stalls.set n.val { s.stalls[n] with runs := rs } n.isLt
  yards := s.yards.set k.val { s.yards[k] with adds := adds } k.isLt }

section Run

variable {n : Fin 16} {r : YardRun} {rs : List YardRun} (hruns : (s.stalls[n]).runs = r :: rs)

include hruns

theorem yardRunAdd_of_runs (hslow : s.yardTooFast r.map = false) (hnone : (s.yards[r.map]).adds = []) :
    yardRunAdd n s = (s.runTaken n rs r.map r.adds).issueAdds r.map 4 := by
  have hfind : (s.stalls[n]).runs.find? (fun r => !s.yardTooFast r.map) = some r := by
    rw [hruns]
    exact List.find?_cons_of_pos (by rw [hslow]; rfl)
  have hstall : (s.stalls[n]).runs.erase r = rs := by rw [hruns, List.erase_cons_head]
  have htaken : ((s.modStall n fun t => { t with runs := t.runs.erase r }).modYard r.map fun y =>
      { y with adds := y.adds ++ r.adds }) = s.runTaken n rs r.map r.adds := by
    have hyards : updAt s.yards r.map (fun y => { y with adds := y.adds ++ r.adds }) =
        updAt s.yards r.map fun y => { y with adds := r.adds } :=
      updAt_congr (congrArg (fun a => { s.yards[r.map] with adds := a ++ r.adds }) hnone)
    have hstalls : updAt s.stalls n (fun t => { t with runs := t.runs.erase r }) =
        updAt s.stalls n fun t => { t with runs := rs } :=
      updAt_congr (congrArg (fun l => { s.stalls[n] with runs := l }) hstall)
    rw [State.modStall, State.modYard, hstalls]
    exact congrArg (fun v => ({ s with stalls := _, yards := v } : State)) hyards
  rw [yardRunAdd, hfind]
  exact congrArg (State.issueAdds · r.map 4) htaken

end Run

end Adds

end Sys2Proof.Machine

/-- Settles O21: a period by whether a sweep runs, the end of a sweep and its words; the subtraction that a sweep owes; and the adds of
a run, which are made one after another. -/
theorem runsAreAddedAndDecay : Obligations.RunsAreAddedAndDecay := by
  unfold Obligations.RunsAreAddedAndDecay
  refine ⟨fun s k => ?decay, fun s a subs ha hmems hsound hok hidle => ?lower, fun s n r rs => ?run⟩
  case decay =>
    intro y yard force e next
    refine ⟨fun hrun hdue hshare hwf => ⟨fun hoff => ?begins, fun hon => ?skipped⟩,
      fun hon hskip => ⟨fun h howed => ?ended, fun h => ?sweeping⟩, fun i hsound hok => ?visited⟩
    case begins => exact congrArg Host.Outcome.next (decayPeriod_of_idle hrun hdue hwf hshare hoff)
    case skipped => exact congrArg Host.Outcome.next (decayPeriod_of_sweeping hrun hdue hwf hshare hon)
    case ended => exact congrArg Host.Outcome.next (sweepDone_of_finished hon hskip h howed)
    case sweeping => exact congrArg Host.Outcome.next (sweepDone_of_unfinished h)
    case visited => exact State.visitSweep_of_sound hsound hok
  case lower =>
    obtain ⟨m, w, howed, hmoved⟩ := State.makeOwed_lower_of_sound ha hmems.1 hsound hok hidle
    rw [howed]
    refine ⟨rfl, fun j hj hsub => ?_, hmoved.outside⟩
    have hlane : memNat m (a + 4 * j) 4 = _ := hmoved.lanes j hj
    change (memNat m (a + 4 * j) 4 : Int) = _
    rw [hlane]
    omega
  case run =>
    intro now hruns hslow hnone hmems hsound hidle hbanks hnodup harbs hwords old sat
    have hready : (s.runTaken n rs r.map r.adds).AddsReady now := by
      refine ⟨hmems.1, hsound, copying_set_adds hidle r.map r.adds, harbs, hnodup,
        fun p hp => ⟨(hwords p hp).1, (hwords p hp).2.2.1⟩, fun p hp => ?_, fun p _ x hx => ?_, ?_⟩
      · obtain ⟨-, -, -, hfree⟩ := hwords p hp
        exact beq_iff_eq.mp ((Bool.and_eq_true ..).mp hfree).2
      · exact absurd (hbanks ▸ hx : x ∈ []) List.not_mem_nil
      · change s.ev.banks.length + (r.adds.take 4).length ≤ 4
        rw [hbanks, List.length_nil, List.length_take]
        omega
    have hadds : ((s.runTaken n rs r.map r.adds).yards[r.map]).adds = now ++ r.adds.drop 4 :=
      (congrArg Yard.adds (updAt_same s.yards r.map fun y => { y with adds := r.adds })).trans
        (List.take_append_drop 4 r.adds).symm
    have hcount : now.length = 4 ∨ now.length < 4 ∧ r.adds.drop 4 = [] := by
      rw [List.length_take, List.drop_eq_nil_iff]
      omega
    have hmade := State.addsMade_issueAdds hadds hready hcount
    refine ⟨_, congrArg Host.Outcome.next (yardRunAdd_of_runs hruns hslow hnone), ?_, congrArg State.stalls hmade.frame,
      hmade.yards.trans (set_adds_set_adds ..), hmade.lanes, hmade.outside, hmade.tollDue.trans
        (State.tollIf_tollDue_congr (s := s.runTaken n rs r.map r.adds) (t := s) rfl _ 144)⟩
    exact (congrArg (fun u : State => { u with
      hall := s.hall, stalls := s.stalls, yards := s.yards, ev := s.ev, tollDue := s.tollDue }) hmade.frame).trans rfl

end

/-! ## What every step keeps: canonical memories and toll counters (12_hall R246; 18_power R391; 19_tolls R396, R397) -/

section

open Sys2Proof Sys2Proof.Machine

namespace Sys2Proof.Machine

/-- Every command keeps the memories canonical. -/
theorem exec_memoriesWf {c : Instr} {s t : State} (h : exec c s = .next t) (hs : s.memoriesWf) : t.memoriesWf := by
  by_cases hcalm : c.clearsTolls = false ∧ ∀ v, c ≠ .tick v
  · obtain ⟨u, hu, hcalm⟩ := exec_calm c s hcalm.1 hcalm.2
    cases hu.symm.trans h
    exact hcalm.mems hs
  · cases c with
    | tick v => cases h; exact (tick_keeps v s).2 hs
    | vaonPowerUp => cases h; exact (vaonPowerUp_keeps s).2 hs
    | vaonRemoval => cases h; exact (vaonRemoval_keeps s).2 hs
    | resetNAssert => cases h; exact (resetAssert_tame s).mems hs
    | internalReset => cases h; exact (internalReset_tame s).mems hs
    | _ => exact absurd ⟨rfl, fun _ => Instr.noConfusion⟩ hcalm

/-- Cleared counters saturate. -/
theorem State.tollsSaturate_of_nil {s : State} (h : s.tolls = []) : s.tollsSaturate := by
  refine ⟨by rw [h]; rfl, fun i => ?_⟩
  rw [State.tollValue, h]
  exact Nat.zero_le _

/-- Whether the counters saturate depends on the counters alone. -/
theorem State.tollsSaturate_congr {s t : State} (h : t.tolls = s.tolls) (hs : s.tollsSaturate) : t.tollsSaturate := by
  simpa only [State.tollsSaturate, State.tollValue, h] using hs

/-- The counters after one of them has taken its counts (R396). -/
theorem State.mergeToll_tolls (s : State) (c : Nat × Nat) :
    (s.mergeToll c).tolls = Sparse.set (fun _ => 0) s.tolls c.1 (min tollMax (s.tollValue c.1 + c.2)) := by
  unfold State.mergeToll
  extract_lets old new s1
  split <;> rfl

/-- The values of saturating counters after one of them has taken its counts: that one has risen up to its ceiling. -/
theorem State.mergeToll_tollValue {s : State} (h : s.tollsSaturate) (c : Nat × Nat) (i : Nat) :
    (s.mergeToll c).tollValue i = if i = c.1 then min tollMax (s.tollValue c.1 + c.2) else s.tollValue i := by
  rw [State.tollValue, State.mergeToll_tolls, Sparse.get_set h.1]
  rfl

/-- The counters of `t` saturate, and none is below what it is in `s`. -/
structure TollsRise (s t : State) : Prop where
  saturate : t.tollsSaturate
  rise : ∀ i, s.tollValue i ≤ t.tollValue i

/-- A counter that takes its counts rises (R396). -/
theorem State.mergeToll_rises {s : State} (h : s.tollsSaturate) (c : Nat × Nat) : TollsRise s (s.mergeToll c) := by
  refine ⟨⟨?canonical, fun i => ?ceiling⟩, fun i => ?rise⟩
  case canonical => rw [State.mergeToll_tolls]; exact Sparse.wf_set h.1 ..
  case ceiling =>
    rw [State.mergeToll_tollValue h]
    split
    · exact min_le_left _ _
    · exact h.2 i
  case rise =>
    rw [State.mergeToll_tollValue h]
    split
    case isTrue hi => subst hi; exact le_min (h.2 _) (Nat.le_add_right _ _)
    case isFalse => exact le_refl _

/-- Counters that take their counts one after another rise. -/
theorem State.foldl_mergeToll_rises (l : List (Nat × Nat)) {s : State} (h : s.tollsSaturate) :
    TollsRise s (l.foldl State.mergeToll s) := by
  induction l generalizing s with
  | nil => exact ⟨h, fun _ => le_refl _⟩
  | cons c l ih =>
    have first := State.mergeToll_rises h c
    have rest := ih first.saturate
    exact ⟨rest.saturate, fun i => (first.rise i).trans (rest.rise i)⟩

/-- The counters rise where a tick's counts join them, and what else calmly follows leaves them there (R396, R397). -/
theorem TollsRise.of_merge {s u t : State} (hs : s.tollsSaturate) (hu : u.tolls = s.tolls)
    (ht : t.tolls = u.mergeTolls.tolls) : TollsRise s t := by
  have merged := State.foldl_mergeToll_rises u.tollDue (State.tollsSaturate_congr hu hs)
  refine ⟨State.tollsSaturate_congr ht merged.saturate, fun i => ?_⟩
  have hrise := merged.rise i
  rw [State.tollValue, hu] at hrise
  rw [State.tollValue, State.tollValue, ht]
  exact hrise

/-- The close of a tick touches the counters in their merge alone. -/
theorem State.closeTick_tolls (s : State) (volts : Vector (Vector Int 2) 17) :
    ∃ u : State, u.tolls = s.tolls ∧ (s.closeTick volts).tolls = u.mergeTolls.tolls := by
  unfold State.closeTick
  extract_lets s1 s2 s3
  have h1 : Calm s s1 := ((State.evalDue_calm ..).trans (State.settleDecisions_calm ..)).trans (State.sieveDrain_calm ..)
  have h2 : Calm s s2 := (((h1.trans (State.tallyClose_calm ..)).trans (State.closeSlots_calm ..)).trans
    (State.closeEntries_calm ..)).trans (State.closeTout_calm ..)
  have h3 : Calm s s3 := Calm.ite h2 (h2.trans (State.closeRecords_calm ..))
  have h4 : Calm s s3.takeInjections.addJump.judgeAck.coolDown.keepWakes :=
    ((((h3.trans (State.takeInjections_calm ..)).trans (State.addJump_calm ..)).trans (State.judgeAck_calm ..)).trans
      (State.coolDown_calm ..)).trans (State.keepWakes_calm ..)
  have h5 := (h4.trans (State.gateMints_calm ..)).trans (State.dropDue_calm ..)
  exact ⟨_, h5.tolls, (State.flushLog_calm _).tolls⟩

/-- The counters rise at a TICK (R396). -/
theorem tick_tollsRise (v : TickIn) {s : State} (h : s.tollsSaturate) : TollsRise s (tick v s) := by
  unfold tick
  split
  case isFalse => exact ⟨h, fun _ => le_refl _⟩
  case isTrue =>
    have hpins : Calm s (((s.regulatorsAnswer v.mute).scanPins v).hallFlips v.flips) :=
      ((State.regulatorsAnswer_calm ..).trans (State.scanPins_calm ..)).trans (State.hallFlips_calm ..)
    obtain ⟨u, hu, hclose⟩ := State.closeTick_tolls (((s.regulatorsAnswer v.mute).scanPins v).hallFlips v.flips) v.volts
    obtain ⟨-, -, hopen, -⟩ := State.openTick_keeps
      ((((s.regulatorsAnswer v.mute).scanPins v).hallFlips v.flips).closeTick v.volts) s.tickLen
    exact TollsRise.of_merge h (hu.trans hpins.tolls) (hopen.trans hclose)

/-- A reset through RESET_N clears the counters (R396). -/
theorem State.resetAll_tolls (s : State) : s.resetAll.tolls = [] := by
  obtain ⟨mints, refs, h⟩ := s.resetAll_eq_outlives
  rw [h]
  rfl

/-- RESET_N's assertion leaves the counters of a device without VAON, and clears them otherwise. -/
theorem resetAssert_tolls (s : State) : (resetAssert s).tolls = s.tolls ∨ (resetAssert s).tolls = [] := by
  unfold resetAssert
  split
  · exact .inr s.resetAll_tolls
  · exact .inl rfl

theorem internalReset_tolls (s : State) : (internalReset s).tolls = s.tolls ∨ (internalReset s).tolls = [] := by
  unfold internalReset
  split
  · split
    · rw [(resetRelease_calm _).tolls]; exact resetAssert_tolls s
    · exact .inl rfl
  · exact .inl rfl

/-- A command that may clear the tolls leaves them as they are or clears them all (R396). -/
theorem exec_tolls_of_clearsTolls {c : Instr} {s t : State} (hc : c.clearsTolls = true) (h : exec c s = .next t) :
    t.tolls = s.tolls ∨ t.tolls = [] := by
  cases c with
  | vaonPowerUp =>
    cases h
    unfold vaonPowerUp
    split
    · exact .inl rfl
    · exact .inr rfl
  | vaonRemoval => cases h; exact .inr rfl
  | resetNAssert => cases h; exact resetAssert_tolls s
  | internalReset => cases h; exact internalReset_tolls s
  | _ => cases hc

end Sys2Proof.Machine

/-- Settles O56: at reset nothing is listed, and no toll has counted. -/
theorem invariantsHoldAtReset : Obligations.InvariantsHoldAtReset := by
  unfold Obligations.InvariantsHoldAtReset
  exact ⟨⟨rfl, rfl, rfl, rfl⟩, State.tollsSaturate_of_nil rfl⟩

/-- Settles O57: a step is a command of the queue, and every command keeps the memories canonical. -/
theorem memoriesStayCanonical : Obligations.MemoriesStayCanonical := by
  unfold Obligations.MemoriesStayCanonical
  intro s t hs h
  rcases hq : s.pending with _ | ⟨c, rest⟩
  · rw [stepRunsTheFront.2 s hq] at h
    cases h
    exact hs
  · rw [stepRunsTheFront.1 s c rest hq] at h
    exact exec_memoriesWf h hs

/-- Settles O59: the counters are moved by the merge at the end of a tick and by the resets alone. -/
theorem tollsOnlyRise : Obligations.TollsOnlyRise := by
  unfold Obligations.TollsOnlyRise
  intro c s t hs h
  by_cases hclear : c.clearsTolls = true
  · refine ⟨?_, fun hc => by simp [hclear] at hc, fun hc => by simp [hclear] at hc⟩
    rcases exec_tolls_of_clearsTolls hclear h with ht | ht
    · exact State.tollsSaturate_congr ht hs
    · exact State.tollsSaturate_of_nil ht
  · by_cases htick : ∃ v, c = .tick v
    · obtain ⟨v, rfl⟩ := htick
      cases h
      have hrise := tick_tollsRise v hs
      exact ⟨hrise.saturate, fun _ => hrise.rise, fun _ hne => absurd rfl (hne v)⟩
    · have hne : ∀ v, c ≠ .tick v := fun v hv => htick ⟨v, hv⟩
      obtain ⟨u, hu, hcalm⟩ := exec_calm c s (by simpa using hclear) hne
      cases hu.symm.trans h
      refine ⟨State.tollsSaturate_congr hcalm.tolls hs, fun _ i => ?_, fun _ _ => hcalm.tolls⟩
      rw [State.tollValue, State.tollValue, hcalm.tolls]

end

/-! ## Requests and replies (16_barter R337 to R340, R344, R345, R350) -/

section

open Sys2Proof Sys2Proof.Machine

namespace Sys2Proof.Machine

variable {s : State}

/-- A request named by a command is taken up at once by a Clerk that is free, whatever its flags (R31, R336). -/
theorem State.clerk_free_flags (h : s.clerkFree) (op : Nat) (body : List Byte) (act : Option BarterRequest → State → State)
    (flags : Nat) : s.clerk op body act flags = act none s := by
  obtain ⟨hphase, hrun, hwork, hqueue, hexpired⟩ := h
  simp [State.clerk, State.unexpire, State.turnedAway, hphase, hrun, hwork, hqueue, hexpired]

/-- The oldest request that waits is taken up by a Clerk that is free, where it is the one named and not too late (R31, R340). -/
theorem State.clerk_queued {q : BarterRequest} {rest : List BarterRequest} (hphase : s.image.phase = .running)
    (hrun : s.barter.run = none) (hwork : s.barter.work = none) (hexpired : s.ev.expired = none)
    (hqueue : s.barter.queue = q :: rest) {op : Nat} {body : List Byte} {flags : Nat} (hnames : q.names op flags body = true)
    (hlate : s.tooLate q = false) (act : Option BarterRequest → State → State) :
    s.clerk op body act flags = act (some q) (s.modBarter fun b => { b with queue := rest }) := by
  simp [State.clerk, State.unexpire, State.turnedAway, hphase, hrun, hwork, hqueue, hexpired, hnames, hlate]

/-- A new nonce: one that is not zero, with an empty window, drawn as a free value (R338). -/
theorem State.newNonce_spec (s : State) :
    ∃ n, n ≠ 0 ∧ n < 2 ^ 32 ∧ s.newNonce = { s with
      free := s.free + 1, barter := { s.barter with nonce := n, hi := 0, seen := [] } } := by
  have hlt := Nat.mod_lt (Config.freeValue s.free) (show 2 ^ 32 - 1 > 0 by decide)
  exact ⟨1 + Config.freeValue s.free % (2 ^ 32 - 1), by omega, by omega, rfl⟩

/-- What is read elsewhere does not see a write of something that is no default, in whatever order the keys stand. -/
theorem Sparse.get_set_other_of_ne {α : Type} [DecidableEq α] {d : Nat → α} {k j : Nat} {w : α} (h : w ≠ d k) (hj : j ≠ k)
    (m : List (Nat × α)) : Sparse.get d (Sparse.set d m k w) j = Sparse.get d m j := by
  have hcell : Sparse.cell d k w = [(k, w)] := if_neg h
  induction m with
  | nil => simp [Sparse.set, hcell, Sparse.get, hj]
  | cons c m ih =>
    obtain ⟨i, u⟩ := c
    unfold Sparse.set
    split
    case isTrue hlt =>
      simp only [hcell, List.cons_append, List.nil_append, Sparse.get, if_neg hj]
      by_cases hjk : j < k
      · rw [if_pos hjk, if_pos (hjk.trans hlt)]
      · rw [if_neg hjk]
    case isFalse hlt =>
      split
      case isTrue hki =>
        subst hki
        simp only [hcell, List.cons_append, List.nil_append, Sparse.get, if_neg hj]
      case isFalse => simp only [Sparse.get, ih]

/-- A count leaves what the tick has counted in the other tolls. -/
theorem State.toll_tollDue_other (s : State) {i k : Nat} (hk : k ≠ i) :
    Sparse.get (fun _ => 0) (s.toll i).tollDue k = Sparse.get (fun _ => 0) s.tollDue k :=
  Sparse.get_set_other_of_ne (Nat.succ_ne_zero _) hk _

/-- What the requests of a port that go low leave of the device: all but the arbiters and toll 167 (R264). -/
structure State.PortsReset (s t : State) : Prop where
  frame : s.HallFrame t
  arbs : { t.hall with arbs := s.hall.arbs } = s.hall
  tolls : ∀ i, i ≠ 167 → Sparse.get (fun _ => 0) t.tollDue i = Sparse.get (fun _ => 0) s.tollDue i

theorem State.PortsReset.refl (s : State) : s.PortsReset s := ⟨⟨rfl⟩, rfl, fun _ _ => rfl⟩

theorem State.PortsReset.trans {s t u : State} (h : s.PortsReset t) (k : t.PortsReset u) : s.PortsReset u :=
  ⟨h.frame.trans k.frame, (congrArg (fun x : Hall => { x with arbs := s.hall.arbs }) k.arbs).trans h.arbs,
    fun i hi => (k.tolls i hi).trans (h.tolls i hi)⟩

theorem State.tollIf_portsReset (s : State) (c : Bool) : s.PortsReset (s.tollIf c 167) := by
  obtain ⟨-, h⟩ | ⟨-, h⟩ := s.tollIf_eq c 167 <;> rw [h]
  · exact .refl s
  · exact ⟨⟨rfl⟩, rfl, fun i hi => s.toll_tollDue_other hi⟩

theorem State.setArb_portsReset (s : State) (i : Nat) (a : Arbiter) : s.PortsReset (s.setArb i a) :=
  ⟨⟨rfl⟩, rfl, fun _ _ => rfl⟩

theorem State.resetPort_portsReset (s : State) (dram : Bool) (port : Nat) : s.PortsReset (s.resetPort dram port) :=
  List.foldlRecOn (motive := s.PortsReset) _ _ (.refl s) fun t ht _ _ =>
    ht.trans ((t.setArb_portsReset ..).trans (State.tollIf_portsReset ..))

/-- A frame's request that is finished leaves what its reply leaves, but for the arbiters and toll 167 (R264). -/
theorem State.finish_portsReset (s : State) (q : BarterRequest) (c : Code) (body : List Byte) (flags : Nat) :
    (s.reply (some q) c body flags).PortsReset (s.finish (some q) c body flags) :=
  (State.resetPort_portsReset ..).trans (State.resetPort_portsReset ..)

/-- PING is what a request without RENEW and without a body names. -/
theorem BarterRequest.names_ping {q : BarterRequest} (hop : q.op = 1) (hbody : q.body = []) (hflags : q.flags % 2 = 0) :
    q.names 0x0001 0 [] = true := by
  simp [BarterRequest.names, hop, hbody, hflags]

/-- A request that came in a frame is answered with a reply that is sealed, sent and kept (R337, R339). -/
theorem State.reply_framed (s : State) (q : BarterRequest) (c : Code) (body : List Byte) :
    ∃ p, p ≠ [] ∧ s.reply (some q) c body = { s with
      code := c
      barter := { s.barter with
        reply := body
        kept := s.barter.kept.map fun k => if k.seq = q.seq ∧ k.trailer = q.trailer then ⟨k.seq, k.trailer, p⟩ else k
        sent := some (.udp q.mac q.ip q.port (p ++ (hmacSha256 s.barter.key p).take 8)) } } := by
  refine ⟨((s.answer c).modBarter fun b => { b with reply := body }).replyPayload q 0 c body,
    by simp [State.replyPayload], ?_⟩
  simp only [State.reply, Kept.of, Bool.and_eq_true, beq_iff_eq]
  rfl

/-! A frame with a Barter payload (R334 to R339). -/

/-- A frame that passes the MAC filter comes in on a link that is up, outside WATCH (R334, R392). -/
theorem State.receive_awake {f : List Byte} (hup : s.barter.up = true) (hwatch : s.power.regime ≠ .watch)
    (hmac : s.macAccepts f = true) : s.receive f = s.takeFrame f := by
  simp [State.receive, hup, hwatch, hmac]

theorem State.takeFrame_of_arp {f : List Byte} (htype : beAt f 12 2 = 0x0806) : s.takeFrame f = s.arpFrame f := by
  simp only [State.takeFrame, htype]

/-- An IPv4 frame comes to its protocol with its payload, from its source (R334). -/
theorem State.takeFrame_of_ip {f : List Byte} (htype : beAt f 12 2 = 0x0800) (hip : s.ipAccepts (f.drop 14) = true) :
    (beAt f 23 1 = 1 → s.takeFrame f = s.icmpPacket ⟨(f.drop 6).take 6, (f.drop 26).take 4, 0⟩ (udpOf f)) ∧
    (beAt f 23 1 = 17 → s.takeFrame f = s.udpPacket ⟨(f.drop 6).take 6, (f.drop 26).take 4, 0⟩ (udpOf f)) := by
  have hproto : beAt (f.drop 14) 9 1 = beAt f 23 1 := by rw [beAt, beAt, List.drop_drop]
  have hm : ((f.drop 14).take (beAt (f.drop 14) 2 2)).drop 20 = udpOf f := by rw [udpOf, beAt, beAt, List.drop_drop]
  have hsrc : ((f.drop 14).drop 12).take 4 = (f.drop 26).take 4 := by rw [List.drop_drop]
  refine ⟨fun h => ?_, fun h => ?_⟩ <;>
    simp only [State.takeFrame, htype, State.ipFrame, hip, hproto, h, hm, hsrc, Bool.not_true, Bool.false_eq_true, if_false]

/-- A frame that carries a Barter payload comes to its payload, from the source of its datagram (R334). -/
theorem State.receive_of_carries {f : List Byte} (h : s.carries f) :
    s.receive f = s.barterPayload ((udpOf f).drop 8) (Machine.sourceOf f) := by
  obtain ⟨hup, hwatch, hmac, htype, hip, hproto, hlen, hport, hudp⟩ := h
  have hlong : ¬((udpOf f).length < 8 ∨ beAt (udpOf f) 2 2 ≠ 47742) := by simp [hlen, hport]
  rw [State.receive_awake hup hwatch hmac, (State.takeFrame_of_ip htype hip).2 hproto, State.udpPacket, if_neg hlong,
    if_neg (not_not_intro hudp)]
  rfl

/-- An authentic payload is at least 24 bytes long (R336). -/
theorem State.length_of_authentic {p : List Byte} (h : s.authentic p = true) : 24 ≤ p.length := by
  simp only [State.authentic, Bool.and_eq_true, decide_eq_true_eq] at h
  omega

/-- The trailer of a payload ends its datagram. -/
theorem trailer_eq {u : List Byte} (h : 24 ≤ (u.drop 8).length) :
    (u.drop 8).drop ((u.drop 8).length - 8) = u.drop (u.length - 8) := by
  rw [List.length_drop] at h ⊢
  rw [List.drop_drop]
  congr 1
  omega

/-- A payload with RESENT set: the other bytes stand (R339). -/
theorem resent_spec {l : List Byte} (h : 4 ≤ l.length) :
    let q := l.take 3 ++ [BitVec.ofNat 8 (beAt l 3 1 ||| 1)] ++ l.drop 4
    q.take 3 = l.take 3 ∧ beAt q 3 1 = beAt l 3 1 ||| 1 ∧ q.drop 4 = l.drop 4 := by
  intro q
  have h3 : (l.take 3).length = 3 := by simp; omega
  have h4 : (l.take 3 ++ [BitVec.ofNat 8 (beAt l 3 1 ||| 1)]).length = 4 := by simp [h3]
  refine ⟨?_, ?_, List.drop_left' h4⟩
  · simp only [q, List.append_assoc]
    exact List.take_left' h3
  · obtain ⟨b, hb⟩ : ∃ b : Byte, beAt l 3 1 = b.toNat := by
      obtain ⟨b, rest, hdrop⟩ := List.exists_cons_of_ne_nil (List.ne_nil_of_length_pos (l := l.drop 3) (by simp; omega))
      exact ⟨b, by simp [beAt, hdrop, ofBeBytes]⟩
    have hlt : b.toNat ||| 1 < 2 ^ 8 := Nat.or_lt_two_pow b.isLt (by decide)
    simp only [q, List.append_assoc, beAt]
    rw [List.drop_left' h3]
    simp only [List.singleton_append, List.take_succ_cons, List.take_zero, ofBeBytes, List.foldl_cons, List.foldl_nil,
      Nat.zero_mul, Nat.zero_add, BitVec.toNat_ofNat]
    change (beAt l 3 1 ||| 1) % 2 ^ 8 = beAt l 3 1 ||| 1
    rw [hb, Nat.mod_eq_of_lt hlt]

/-- A payload whose reply is kept is answered with it again (R339). -/
theorem State.barterPayload_of_kept {p : List Byte} {src : FrameSource} {k : Kept} (ha : s.authentic p = true)
    (hk : s.barter.kept.find? (fun k => k.seq == beAt p 4 4 && k.trailer == p.drop (p.length - 8) && k.payload != []) = some k) :
    s.barterPayload p src = s.resend k (requestOf p src s.now) := by
  have hfind : s.barter.kept.find? (fun k => k.of (requestOf p src s.now) && !k.payload.isEmpty) = some k := by
    rw [← hk]
    congr 1
    funext k
    cases k.payload <;> rfl
  simp only [State.barterPayload, ha, hfind, Bool.not_true, Bool.false_eq_true, if_false]

/-- A payload that no kept reply answers, under the nonce in force, is judged by the window (R338). -/
theorem State.barterPayload_of_fresh {p : List Byte} {src : FrameSource} (ha : s.authentic p = true)
    (hkept : ∀ k ∈ s.barter.kept, k.payload = [] ∨ k.seq ≠ beAt p 4 4) (hnonce : beAt p 12 4 = s.barter.nonce) :
    s.barterPayload p src =
      if s.barter.accepts (beAt p 4 4) then s.register (requestOf p src s.now) else s.stranger 242 := by
  have hfind : s.barter.kept.find? (fun k => k.of (requestOf p src s.now) && !k.payload.isEmpty) = none := by
    refine List.find?_eq_none.2 fun k hk => ?_
    rcases hkept k hk with h | h
    · simp [h]
    · simp [Kept.of, requestOf, h]
  simp only [State.barterPayload, ha, hfind, hnonce, Bool.not_true, Bool.false_eq_true, if_false, ne_eq, not_true_eq_false]
  rfl

/-- An accepted request with a known opcode waits where the queue has room, and its reply has a place (R338 to R340). -/
theorem State.register_of_room {r : BarterRequest} (hop : knownOpcode r.op = true) (hroom : s.barter.queue.length < 8) :
    s.register r = s.modBarter fun b => { b.accept r.seq with
      kept := (⟨r.seq, r.trailer, []⟩ :: b.kept).take 8, queue := b.queue ++ [r] } := by
  simp only [State.register, hop, Bool.not_true, Bool.false_eq_true, if_false]
  exact if_neg (Nat.not_le.2 hroom)

/-- A number that has been accepted is not accepted again (R338). -/
theorem Barter.accept_not_accepts (b : Barter) (n : Nat) : (b.accept n).accepts n = false := by
  have habove : ¬max b.hi n < n := by omega
  by_cases hw : max b.hi n < n + 64
  · simp [Barter.accepts, Barter.accept, hw]
    omega
  · simp only [Barter.accepts, Barter.accept, hw, habove, decide_false, Bool.false_and, Bool.or_false]

/-- A change from PLCA to CSMA/CD counts toll 246 (R333). -/
theorem plcaFallback_of_plca (hplca : s.plcaEnabled = true) (hup : s.barter.up = true) (hcsma : s.barter.csma = false) :
    plcaFallback s = ({ s with barter := { s.barter with plcaOk := false, csma := true } } : State).toll 246 :=
  (if_pos (by simp [hplca, hup, hcsma])).trans
    (congrArg (fun c => ({ s with barter := { s.barter with plcaOk := false, csma := c } } : State).toll 246) hup)

/-! Numbers in a frame. -/

theorem ofBeBytes_concat (l : List Byte) (b : Byte) : ofBeBytes (l ++ [b]) = ofBeBytes l * 256 + b.toNat := by
  simp [ofBeBytes]

theorem ofBeBytes_lt (l : List Byte) : ofBeBytes l < 256 ^ l.length := by
  induction l using List.reverseRecOn with
  | nil => decide
  | append_singleton l b ih =>
    have hb := b.isLt
    rw [ofBeBytes_concat, List.length_append, List.length_singleton, Nat.pow_succ]
    omega

theorem ofBeBytes_append (k l : List Byte) : ofBeBytes (k ++ l) = ofBeBytes k * 256 ^ l.length + ofBeBytes l := by
  induction l using List.reverseRecOn with
  | nil => simp [ofBeBytes]
  | append_singleton l b ih =>
    rw [← List.append_assoc, ofBeBytes_concat, ofBeBytes_concat, ih, List.length_append, List.length_singleton, Nat.pow_succ]
    ring

theorem beAt_lt (f : List Byte) (i n : Nat) : beAt f i n < 256 ^ n :=
  (ofBeBytes_lt _).trans_le (Nat.pow_le_pow_right (by decide) (by simp))

/-- A number of bytes in a row, cut in two. -/
theorem beAt_add {f : List Byte} {i m n : Nat} (h : i + m + n ≤ f.length) :
    beAt f i (m + n) = beAt f i m * 256 ^ n + beAt f (i + m) n := by
  have hlen : ((f.drop (i + m)).take n).length = n := by
    rw [List.length_take, List.length_drop]
    omega
  rw [beAt, beAt, beAt, List.take_add, List.drop_drop, ofBeBytes_append, hlen]

/-- The fixed fields of an ARP request for an IPv4 address over Ethernet (R334). -/
theorem arpFields {f : List Byte} (hlen : 60 ≤ f.length) (h : beAt f 14 8 = 0x0001080006040001) :
    beAt f 14 2 = 1 ∧ beAt f 16 2 = 0x0800 ∧ beAt f 18 1 = 6 ∧ beAt f 19 1 = 4 ∧ beAt f 20 2 = 1 := by
  have h1 := beAt_add (f := f) (i := 14) (m := 2) (n := 6) (by omega)
  have h2 := beAt_add (f := f) (i := 16) (m := 2) (n := 4) (by omega)
  have h3 := beAt_add (f := f) (i := 18) (m := 1) (n := 3) (by omega)
  have h4 := beAt_add (f := f) (i := 19) (m := 1) (n := 2) (by omega)
  have b1 := beAt_lt f 16 6
  have b2 := beAt_lt f 18 4
  have b3 := beAt_lt f 19 3
  have b4 := beAt_lt f 20 2
  norm_num at h1 h2 h3 h4 b1 b2 b3 b4
  omega

end Sys2Proof.Machine

end

section

open Sys2Proof Sys2Proof.Machine

/-- Settles O1: a free Clerk takes the request up at once, and RENEW's only other effect is the nonce drawn. -/
theorem pingAndRenewReply : Obligations.PingAndRenewReply := by
  unfold Obligations.PingAndRenewReply
  intro s hfree
  refine ⟨congrArg Host.Outcome.next (State.clerk_free hfree ..), ?_⟩
  obtain ⟨n, hne, hlt, hnonce⟩ := s.newNonce_spec
  have hrenew : exec (.renew []) s = .next (renew none s) := congrArg Host.Outcome.next (State.clerk_free_flags hfree ..)
  refine ⟨_, hrenew, ?_⟩
  simp only [renew, hnonce]
  exact ⟨rfl, rfl, hne, hlt, rfl, rfl, rfl⟩

/-- Settles O2: the reply of a framed PING, and a kept reply sent again. -/
theorem repliesAreKeptAndResent : Obligations.RepliesAreKeptAndResent := by
  unfold Obligations.RepliesAreKeptAndResent
  refine ⟨?framed, ?resent⟩
  case framed =>
    intro s q rest hphase hrun hwork hexpired hqueue hop hbody hflags hnow
    have hlate : s.tooLate q = false := decide_eq_false (Nat.not_lt.2 hnow)
    have hnames := BarterRequest.names_ping hop hbody hflags
    have hexec : exec (.ping []) s = .next ((s.modBarter fun b => { b with queue := rest }).finish (some q) .ok (pingBody s)) :=
      congrArg Host.Outcome.next (State.clerk_queued hphase hrun hwork hexpired hqueue hnames hlate _)
    obtain ⟨p, -, hreply⟩ := (s.modBarter fun b => { b with queue := rest }).reply_framed q .ok (pingBody s)
    obtain ⟨⟨hframe⟩, harbs, htolls⟩ :=
      (s.modBarter fun b => { b with queue := rest }).finish_portsReset q .ok (pingBody s) 0
    rw [hreply] at hframe harbs htolls
    generalize (s.modBarter fun b => { b with queue := rest }).finish (some q) .ok (pingBody s) = t at hexec hframe harbs htolls
    have hbarter := congrArg State.barter hframe
    have hcode := congrArg State.code hframe
    refine ⟨t, p, hexec, ?_, harbs, htolls, hcode, ?_, ?_, ?_⟩
    · exact congrArg (fun u : State => { u with code := s.code, barter := s.barter }) hframe
    · exact congrArg Barter.queue hbarter
    · exact congrArg Barter.kept hbarter
    · exact congrArg Barter.sent hbarter
  case resent =>
    intro s f k hcarries hauth hkept hlen
    have htrailer := trailer_eq (State.length_of_authentic hauth)
    rw [← htrailer] at hkept
    obtain ⟨htake, hflag, hdrop⟩ := resent_spec hlen
    refine ⟨_, ?_, htake, hflag, hdrop⟩
    refine congrArg Host.Outcome.next ?_
    rw [State.receive_of_carries hcarries, State.barterPayload_of_kept hauth hkept]
    rfl

/-- Settles O3, frame by frame along the layers of R334. -/
theorem framesAndTheLinkAreAnswered : Obligations.FramesAndTheLinkAreAnswered := by
  unfold Obligations.FramesAndTheLinkAreAnswered
  refine ⟨?payload, fun s f hup hwatch => ⟨?arp, ?icmp, ?fallback, ?restore, ?abandoned⟩⟩
  case payload =>
    intro s f hcarries p
    have hexec : exec (.barterFrameReceived f) s = .next (s.barterPayload p (sourceOf f)) :=
      congrArg Host.Outcome.next (State.receive_of_carries hcarries)
    rw [hexec]
    refine ⟨fun hauth => ?_, fun hauth hkept hnonce => ?_⟩
    · simp only [State.barterPayload, hauth]
      rfl
    · rw [State.barterPayload_of_fresh hauth hkept hnonce]
      refine ⟨fun hold => ?_, fun hnew hop hroom => ?_⟩
      · rw [hold]
        rfl
      · rw [hnew, if_pos rfl, State.register_of_room hop hroom]
        exact ⟨_, rfl, rfl, rfl, rfl, s.barter.accept_not_accepts _, rfl⟩
  case arp =>
    intro hmac htype hfields hip
    have hlen : 60 ≤ f.length := by
      simp only [State.macAccepts, Bool.and_eq_true, decide_eq_true_eq] at hmac
      omega
    refine congrArg Host.Outcome.next ?_
    rw [if_pos htype, State.receive_awake hup hwatch hmac, State.takeFrame_of_arp htype, State.arpFrame,
      if_pos (arpFields hlen hfields), if_pos hip]
    rfl
  case icmp =>
    intro hmac htype hip hproto hlen hecho hsum
    have hgood : ¬((udpOf f).length < 8 ∨ (udpOf f).take 2 ≠ [8, 0] ∨ onesSum (udpOf f) ≠ 0xFFFF) := by
      simp [hlen, hecho, hsum]
    refine congrArg Host.Outcome.next ?_
    rw [if_pos ⟨htype, hproto⟩, State.receive_awake hup hwatch hmac, (State.takeFrame_of_ip htype hip).1 hproto,
      State.icmpPacket, if_neg hgood]
    rfl
  case fallback => exact fun hplca hcsma => congrArg Host.Outcome.next (plcaFallback_of_plca hplca hup hcsma)
  case restore =>
    exact fun hplca => congrArg Host.Outcome.next (if_pos (by rw [hplca, hup]; rfl))
  case abandoned =>
    intro hcsma
    exact congrArg Host.Outcome.next (if_pos hcsma)

end

section

open Sys2Proof Sys2Proof.Machine

namespace Sys2Proof.Machine

variable {s : State}

/-! Attention, tolls, logs and the deadline (16_barter R340, R344; 19_tolls R397, R401). -/

/-- The numbers in a body of two. -/
theorem beAt_two_numbers {a b : Nat} (ha : a < 2 ^ 16) (hb : b < 2 ^ 16) :
    beAt (beBytes 2 a ++ beBytes 2 b) 0 2 = a ∧ beAt (beBytes 2 a ++ beBytes 2 b) 2 2 = b :=
  ⟨beAt_beBytes_append ha _, beAt_of_eq (rest := []) (by simp) (beBytes_length 2 a) hb⟩

/-- The status items that are left where `clears` tells the masked ones (R344). -/
def Status.acknowledged (x : Status) (clears : Nat → Bool) : Status :=
  { x with
    level := if clears 0 then 0 else x.level
    attnNew := x.attnNew && !clears 0
    segReady := x.segReady && !clears 1
    measLimit := x.measLimit && !clears 2
    tollMoved := x.tollMoved && !clears 3 }

/-- An acknowledgement with a number other than ASEQ is answered RANGE (R344). -/
theorem ackAttn_of_ne {num mask : BitVec 16} (h : num.toNat ≠ s.status.aseq) :
    ackAttn (beBytes 2 num.toNat ++ beBytes 2 mask.toNat) none s = s.replied .range [] := by
  obtain ⟨hnum, -⟩ := beAt_two_numbers num.isLt mask.isLt
  have hlen : ¬(beBytes 2 num.toNat ++ beBytes 2 mask.toNat).length ≠ 4 := by simp
  rw [ackAttn, if_neg hlen, hnum, if_pos h]
  rfl

/-- An acknowledgement with ASEQ's number clears the masked items whose event does not fall in the present tick (R344). -/
theorem ackAttn_of_eq {num mask : BitVec 16} (h : num.toNat = s.status.aseq) :
    ackAttn (beBytes 2 num.toNat ++ beBytes 2 mask.toNat) none s = State.replied { s with
      status := s.status.acknowledged fun i => mask.getLsbD i && !s.ev.items.contains i
      ev := { s.ev with acked := some (none, s.status) } } .ok [] := by
  obtain ⟨hnum, hmask⟩ := beAt_two_numbers num.isLt mask.isLt
  have hlen : ¬(beBytes 2 num.toNat ++ beBytes 2 mask.toNat).length ≠ 4 := by simp
  rw [ackAttn, if_neg hlen, hnum, if_neg (not_not_intro h), hmask]
  rfl

theorem Status.acknowledged_level (x : Status) (clears : Nat → Bool) :
    (x.acknowledged clears).level = 0 ∨ (x.acknowledged clears).level = x.level := by
  simp only [Status.acknowledged]
  split
  · exact .inl rfl
  · exact .inr rfl

theorem Status.acknowledged_cleared {x : Status} {clears : Nat → Bool} (h : clears 0 = true) :
    (x.acknowledged clears).level = 0 ∧ (x.acknowledged clears).attnNew = false := by
  simp [Status.acknowledged, h]

theorem Status.acknowledged_kept {x : Status} {clears : Nat → Bool} (h : clears 0 = false) :
    (x.acknowledged clears).level = x.level ∧ (x.acknowledged clears).attnNew = x.attnNew := by
  simp [Status.acknowledged, h]

/-- Without a sample that waits no Bell has anything to evaluate. -/
theorem State.evalDue_of_idle (h : ∀ n : Fin 16, (s.bell n).obs = []) : s.evalDue = s := by
  have hnone (n : Fin 16) : s.evalMany n (s.dueSamples n) = s := by
    have hobs : (s.stalls[n]).bell.obs = [] := h n
    have hdue : s.dueSamples n = 0 := by rw [State.dueSamples, hobs]; rfl
    rw [hdue]
    rfl
  exact List.foldlRecOn (motive := fun t => t = s) _ _ rfl fun t ht n _ => by rw [ht, hnone n]

/-- Without counts of earlier ticks to be added, a toll is read as it stands (R397). -/
theorem State.tollShown_of_idle (h : ∀ n : Fin 16, (s.bell n).obs = []) (hpast : s.ev.past = []) (i : Nat) :
    s.tollShown i = min (2 ^ 32 - 1) (s.tollValue i) := by
  simp only [State.tollShown, State.evalDue_of_idle h, hpast, Sparse.get, Nat.add_zero]

theorem locate_TOL_CNT : ∀ i < 256, locate (0x2800 + i) = some (R.TOL_CNT, i, 0) := by decide +kernel

/-- A toll counter reads as it is shown (R397). -/
theorem State.readValue_tollCount {i : Nat} (h : i < 256) :
    s.readValue (0x2800 + i) = some (BitVec.ofNat 32 (s.tollShown i)) := by
  have hheld : R.TOL_CNT.mask (fun a => a == .lv || a == .sl || a == .im) = 0#32 := by decide
  have hother : R.TOL_CNT.base ≠ R.IMG_OTP_DATA.base := by decide
  have hown : s.roBits R.TOL_CNT.base i = BitVec.ofNat 32 (s.tollShown i) := rfl
  rw [State.readValue, locate_TOL_CNT i h, Option.map_some]
  dsimp only
  rw [if_neg hother, hheld, BitVec.and_zero, if_neg (by decide), hown, BitVec.zero_or]

/-- TOLL_READ returns the counters it asks for (R345, R397). -/
theorem tollRead_eq {i n : Nat} (hn : 1 ≤ n) (hi : i + n ≤ 256) : tollRead (beBytes 2 i ++ beBytes 2 n) none s =
    s.replied .ok (beBytes 2 i ++ beBytes 2 n ++ (List.range n).flatMap fun j => beBytes 4 (s.tollShown (i + j))) := by
  obtain ⟨hfirst, hcount⟩ := beAt_two_numbers (a := i) (b := n) (by omega) (by omega)
  have hok : ¬((beBytes 2 i ++ beBytes 2 n).length ≠ 4 ∨ 255 < i ∨ n = 0 ∨ 256 - i < n) := by
    rw [List.length_append, beBytes_length, beBytes_length]
    omega
  rw [tollRead, hfirst, hcount, if_neg hok]
  rfl

/-- An entry of a log stands at its number modulo the ring's size (R401). -/
theorem State.logBytes_mod (s : State) {log : Nat} (h : log ≤ 1) (i : Nat) : s.logBytes log (i % logSize log) = s.logBytes log i := by
  obtain rfl | rfl : log = 0 ∨ log = 1 := by omega
  · simp [State.logBytes, logSize]
  · simp [State.logBytes, logSize]

/-- LOG_READ returns the entries it asks for (R345, R401). -/
theorem logRead_eq {log first n : Nat} (hlog : log ≤ 1) (hfirst : first < logSize log) (hn : 1 ≤ n) (hmax : n ≤ 89) :
    logRead ([BitVec.ofNat 8 log, 0] ++ beBytes 2 first ++ beBytes 2 n ++ [0, 0]) none s =
      s.replied .ok (beBytes 2 (if log = 0 then s.log.head else s.dram.head) ++ [0, 0] ++
        beBytes 4 (if log = 0 then s.log.total else s.dram.total) ++
        (List.range n).flatMap fun i => s.logBytes log ((first + i) % logSize log)) := by
  have hsize : logSize log ≤ 256 := by unfold logSize; split <;> decide
  generalize hbody : [BitVec.ofNat 8 log, 0] ++ beBytes 2 first ++ beBytes 2 n ++ [0, 0] = body
  have hlen : body.length = 8 := by simp [← hbody]
  simp only [List.append_assoc] at hbody
  have hlogAt : beAt body 0 1 = log := by
    simp [← hbody, beAt, ofBeBytes]
    omega
  have hfirstAt : beAt body 2 2 = first := beAt_of_eq (pre := [BitVec.ofNat 8 log, 0]) hbody.symm rfl (by omega)
  have hnAt : beAt body 4 2 = n := beAt_of_eq (pre := [BitVec.ofNat 8 log, 0] ++ beBytes 2 first)
    (by simpa only [List.append_assoc] using hbody.symm) (by simp) (by omega)
  have hok : ¬(body.length ≠ 8 ∨ 1 < log ∨ logSize log ≤ first ∨ n = 0 ∨ 89 < n) := by omega
  simp only [logRead, hlogAt, hfirstAt, hnAt, if_neg hok, s.logBytes_mod hlog]
  obtain rfl | rfl : log = 0 ∨ log = 1 := by omega
  · rfl
  · rfl

/-- The places among the kept replies after a reply to `q` (R339). -/
theorem kept_after_reply (l : List Kept) (q : BarterRequest) {p : List Byte} (hp : p ≠ []) :
    let l' := l.map fun k => if k.seq = q.seq ∧ k.trailer = q.trailer then ⟨k.seq, k.trailer, p⟩ else k
    (∀ k ∈ l, ¬(k.seq = q.seq ∧ k.trailer = q.trailer) → k ∈ l') ∧ l'.length = l.length ∧
      ∀ k ∈ l', k.seq = q.seq → k.trailer = q.trailer → k.payload ≠ [] := by
  intro l'
  refine ⟨fun k hk hne => List.mem_map.2 ⟨k, hk, if_neg hne⟩, List.length_map _, fun k hk hseq htrailer => ?_⟩
  obtain ⟨k0, -, rfl⟩ := List.mem_map.1 hk
  by_cases hof : k0.seq = q.seq ∧ k0.trailer = q.trailer
  · rwa [if_pos hof]
  · rw [if_neg hof] at hseq htrailer
    exact absurd ⟨hseq, htrailer⟩ hof

/-- RESET_REQUEST with its confirmation word makes a reset due 1 ms later (R350). -/
theorem resetRequest_confirmed : resetRequest [0x52, 0x53, 0, 0] none s = { s with
    code := .ok, barter := { s.barter with reply := [], resetAt := some (s.now + 40000000) } } :=
  if_neg (by decide)

/-- At its deadline the oldest request that waits is turned back in a running device (R340). -/
theorem requestDeadline_of_reached {q : BarterRequest} {rest : List BarterRequest} (hqueue : s.barter.queue = q :: rest)
    (hdue : s.reached (q.at_ + 900 * mitesPerMs) = true) (hphase : s.image.phase = .running) : requestDeadline s =
      { ((s.modBarter fun b => { b with queue := rest }).toll 245).reply (some q) .busyRetry [] with
        ev := { s.ev with expired := some (q, s.barter) } } := by
  rw [requestDeadline, hqueue]
  refine (if_pos hdue).trans ?_
  have hturn : (s.modBarter fun b => { b with queue := rest }).turnBack q =
      ((s.modBarter fun b => { b with queue := rest }).toll 245).reply (some q) .busyRetry [] := by
    rw [State.turnBack, State.modBarter_image, hphase]
    rfl
  rw [hturn]
  rfl

end Sys2Proof.Machine

/-- Settles O9: the number decides, and each item is cleared or kept by its mask bit and its event. -/
theorem attentionIsAcknowledged : Obligations.AttentionIsAcknowledged := by
  unfold Obligations.AttentionIsAcknowledged
  intro s num mask hfree haseq req
  have hexec : exec req s = .next (ackAttn (beBytes 2 num.toNat ++ beBytes 2 mask.toNat) none s) :=
    congrArg Host.Outcome.next (State.clerk_free hfree ..)
  refine ⟨fun hne => ?_, fun heq => ?_⟩
  · rw [hexec, ackAttn_of_ne hne]
  · rw [hexec, ackAttn_of_eq heq]
    refine ⟨_, rfl, rfl, rfl, rfl, rfl, Status.acknowledged_level .., ?_, ?_, ?_, ?_, ?_⟩
    · exact fun hmask hitem => Status.acknowledged_cleared (by simp [hmask, hitem])
    · rintro (hmask | hitem)
      · exact Status.acknowledged_kept (by simp only [hmask, Bool.false_and])
      · exact Status.acknowledged_kept (by simp [hitem])
    · simp [State.replied, Status.acknowledged]
    · simp [State.replied, Status.acknowledged]
    · simp [State.replied, Status.acknowledged]

/-- Settles O10: each counter by its parameter and in a run, and what does not move it. -/
theorem tollsAreRead : Obligations.TollsAreRead := by
  unfold Obligations.TollsAreRead
  refine ⟨fun s i h => State.readValue_tollCount h, fun s i n hfree hn hi => ?_,
    fun s i h hpast => State.tollShown_of_idle h hpast i, fun s i k n => rfl⟩
  have hexec := congrArg (Host.Outcome.next (φ := Fault) (ρ := Refusal))
    (State.clerk_free hfree 0x000F (beBytes 2 i ++ beBytes 2 n) (tollRead (beBytes 2 i ++ beBytes 2 n)))
  rw [tollRead_eq hn hi] at hexec
  exact hexec

/-- Settles O11: the two rings, the reset's due time, and the reply at the deadline. -/
theorem logsAndDeadlines : Obligations.LogsAndDeadlines := by
  unfold Obligations.LogsAndDeadlines
  intro s
  refine ⟨fun hfree => ⟨fun log first n hlog hfirst hn hmax => ?log, ?reset⟩, fun q rest hqueue hnow hphase => ?deadline⟩
  case log =>
    have hexec := congrArg (Host.Outcome.next (φ := Fault) (ρ := Refusal)) (State.clerk_free hfree 0x0010
      ([BitVec.ofNat 8 log, 0] ++ beBytes 2 first ++ beBytes 2 n ++ [0, 0])
      (logRead ([BitVec.ofNat 8 log, 0] ++ beBytes 2 first ++ beBytes 2 n ++ [0, 0])))
    rw [logRead_eq hlog hfirst hn hmax] at hexec
    exact hexec
  case reset => exact congrArg Host.Outcome.next ((State.clerk_free hfree ..).trans resetRequest_confirmed)
  case deadline =>
    have hreached : s.reached (q.at_ + 900 * mitesPerMs) = true := by
      refine State.reached_iff.2 ?_
      have hlen : 0 < s.tickLen := by unfold State.tickLen; split <;> decide
      have hms : 900 * mitesPerMs = 900 * 40000000 := rfl
      omega
    have hexec := requestDeadline_of_reached hqueue hreached hphase
    obtain ⟨p, hp, hreply⟩ := ((s.modBarter fun b => { b with queue := rest }).toll 245).reply_framed q .busyRetry []
    rw [hreply] at hexec
    obtain ⟨hother, hlength, hown⟩ := kept_after_reply s.barter.kept q hp
    exact ⟨_, congrArg Host.Outcome.next hexec, rfl, rfl, rfl, rfl, rfl, hother, hlength, hown⟩

end

/-! ## The fuses (17_image R366 to R368) -/

section

open Sys2Proof Sys2Proof.Machine

namespace Sys2Proof.Machine

variable {s : State}

/-- Further fuses do not lower the count of those blown (R366). -/
theorem popCount_or_le (n x y : Nat) : popCount n y ≤ popCount n (x ||| y) := by
  induction n generalizing x y with
  | zero => exact le_refl _
  | succ n ih =>
    have hbit : y % 2 ≤ (x ||| y) % 2 := by
      have h := Nat.or_mod_two_pow (a := x) (b := y) (n := 1)
      rw [pow_one] at h
      rw [h]
      exact Nat.right_le_or
    rw [popCount, popCount, Nat.or_div_two]
    exact Nat.add_le_add hbit (ih _ _)

/-- Of a number whose low `k` bits are ones, `min n k` are counted among its low `n` bits. -/
theorem popCount_ones (n k : Nat) : popCount n (2 ^ k - 1) = min n k := by
  induction n generalizing k with
  | zero => simp [popCount]
  | succ n ih =>
    cases k with
    | zero => simpa [popCount] using ih 0
    | succ k =>
      have hpos : 0 < 2 ^ k := Nat.two_pow_pos k
      have hmod : (2 ^ (k + 1) - 1) % 2 = 1 := by rw [Nat.pow_succ]; omega
      have hdiv : (2 ^ (k + 1) - 1) / 2 = 2 ^ k - 1 := by rw [Nat.pow_succ]; omega
      rw [popCount, hmod, hdiv, ih]
      omega

/-- The fuses of the first `k` levels, word by word (R366). -/
theorem toNat_levelFuses {k : Nat} (h : k ≤ 64) :
    (BitVec.ofNat 32 (2 ^ k - 1)).toNat = 2 ^ min k 32 - 1 ∧
      (BitVec.ofNat 32 ((2 ^ k - 1) / 2 ^ 32)).toNat = 2 ^ (k - 32) - 1 := by
  rw [BitVec.toNat_ofNat, BitVec.toNat_ofNat]
  by_cases hk : k ≤ 32
  · have hle : 2 ^ k ≤ 2 ^ 32 := Nat.pow_le_pow_right (by decide) hk
    rw [Nat.min_eq_left hk, Nat.sub_eq_zero_of_le hk, Nat.mod_eq_of_lt (by omega), Nat.div_eq_of_lt (by omega)]
    exact ⟨rfl, rfl⟩
  · obtain ⟨j, rfl⟩ : ∃ j, k = 32 + j := ⟨k - 32, by omega⟩
    have hle : 2 ^ j ≤ 2 ^ 32 := Nat.pow_le_pow_right (by decide) (by omega)
    have hpos : 0 < 2 ^ j := Nat.two_pow_pos j
    have hpow : 2 ^ (32 + j) = 2 ^ 32 * 2 ^ j := Nat.pow_add ..
    rw [Nat.min_eq_right (by omega), Nat.add_sub_cancel_left, hpow]
    omega

/-- Programming a word is refused, or ORs the data into the fuses that exist (R367). -/
theorem otpProgram_accepted (hbusy : s.otpBusy = false)
    (hok : s.otpRefused (s.val F.IMG_OTP_SEL_WORD) (s.word R.IMG_OTP_DATA.base) = false) :
    otpProgram s = { s with code := .ok, image := { s.image with
      otp := s.image.otp.set (s.val F.IMG_OTP_SEL_WORD % 32) (s.image.otp[s.val F.IMG_OTP_SEL_WORD % 32] |||
        (s.word R.IMG_OTP_DATA.base &&& otpMask (s.val F.IMG_OTP_SEL_WORD))) (Nat.mod_lt _ (by decide))
      otpUntil := some (s.now + 80000000) } } := by
  rw [otpProgram]
  dsimp only
  rw [hbusy, hok, if_neg Bool.false_ne_true, if_neg Bool.false_ne_true]
  rfl

/-- The level of an image that did not come by its slot's signature blows no fuse (R368). -/
theorem rollbackAdvance_refused (h : s.image.source ≠ 0 ∨ s.image.sigchk = false) :
    rollbackAdvance s = (s.toll 243).answer .badParam := by
  refine if_pos ?_
  rcases h with h | h <;> simp [h]

section Advance

variable (hphase : s.image.phase = .running) (hsource : s.image.source = 0) (hsig : s.image.sigchk = true)

include hphase hsource hsig

theorem rollbackAdvance_of_blown (h : s.image.level ≤ arbCount s.image.otp) :
    rollbackAdvance s = { s with code := .ok } :=
  (if_neg (by simp [hphase, hsource, hsig])).trans (if_pos h)

/-- The fuses of the running image's level are blown where they are not (R368). -/
theorem rollbackAdvance_of_unblown (h : arbCount s.image.otp < s.image.level) :
    rollbackAdvance s = { s with code := .ok, image := { s.image with
      otp := updAt (updAt s.image.otp 17 fun w => w ||| BitVec.ofNat 32 (2 ^ s.image.level - 1)) 18 fun w =>
        w ||| BitVec.ofNat 32 ((2 ^ s.image.level - 1) / 2 ^ 32) } } := by
  rw [rollbackAdvance]
  dsimp only
  rw [if_neg (by simp [hphase, hsource, hsig]), if_neg (Nat.not_le.2 h)]
  rfl

end Advance

/-- With the fuses of a level blown at least as many are counted (R366). -/
theorem popCount_advanced (x y : Nat) {k : Nat} (h : k ≤ 64) :
    k ≤ popCount 32 (x ||| (BitVec.ofNat 32 (2 ^ k - 1)).toNat) +
      popCount 32 (y ||| (BitVec.ofNat 32 ((2 ^ k - 1) / 2 ^ 32)).toNat) := by
  obtain ⟨hlow, hhigh⟩ := toNat_levelFuses h
  have h17 := popCount_or_le 32 x (2 ^ min k 32 - 1)
  have h18 := popCount_or_le 32 y (2 ^ (k - 32) - 1)
  rw [popCount_ones] at h17 h18
  rw [hlow, hhigh]
  omega

/-- The anti-rollback counter is not below a level whose fuses are blown (R366). -/
theorem arbCount_advanced (otp : Vector Word 32) {k : Nat} (h : k ≤ 64) :
    k ≤ arbCount (updAt (updAt otp 17 fun w => w ||| BitVec.ofNat 32 (2 ^ k - 1)) 18 fun w =>
      w ||| BitVec.ofNat 32 ((2 ^ k - 1) / 2 ^ 32)) := by
  refine (popCount_advanced otp[17].toNat otp[18].toNat h).trans_eq ?_
  simp [arbCount, updAt]

end Sys2Proof.Machine

/-- Settles O45, along the refusals of R367 and R368. -/
theorem fusesAreBlown : Obligations.FusesAreBlown := by
  unfold Obligations.FusesAreBlown
  intro s i data
  refine ⟨?busy, ?refused, fun hbusy hok => congrArg Host.Outcome.next (otpProgram_accepted hbusy hok), rfl,
    fun h => congrArg Host.Outcome.next (rollbackAdvance_refused h), fun hphase hsource hsig hlevel => ⟨?blown, ?unblown⟩⟩
  case busy => exact fun hbusy => congrArg Host.Outcome.next (if_pos hbusy)
  case refused =>
    exact fun hbusy hno => congrArg Host.Outcome.next ((if_neg (by simp [hbusy])).trans (if_pos hno))
  case blown => exact fun h => congrArg Host.Outcome.next (rollbackAdvance_of_blown hphase hsource hsig h)
  case unblown =>
    intro h
    refine ⟨_, congrArg Host.Outcome.next (rollbackAdvance_of_unblown hphase hsource hsig h), rfl, rfl, rfl,
      arbCount_advanced _ hlevel, fun j hj h17 h18 => ?_⟩
    have h17' : (17 : Fin 32) ≠ ⟨j, hj⟩ := fun e => h17 (congrArg Fin.val e).symm
    have h18' : (18 : Fin 32) ≠ ⟨j, hj⟩ := fun e => h18 (congrArg Fin.val e).symm
    exact (updAt_other _ h18' _).trans (updAt_other _ h17' _)

end

/-! ## The Clerk's writes of Hall, where the arbiters are out of order (12_hall R247, R258; 16_barter R349) -/

section

open Sys2Proof Sys2Proof.Machine

namespace Sys2Proof.Machine

/-- The words that the Clerk has still to write: one at bank 1, then one at bank 0. -/
def twoWrites : List (Nat × BitVec 128) := [(16, 0), (0, 0)]

/-- The device of `hiddenHolder`, whose Clerk has words to write in place of those to read. -/
def hiddenHolderOfWrites : State := { hiddenHolder with
  barter := { work := some { req := none, items := twoWrites.map fun x => .write x.1 x.2 } } }

/-- Both words lie in a region that port 21 may access, at banks of their own that let it in. -/
theorem hiddenHolderOfWrites_clerkReaches :
    hiddenHolderOfWrites.clerkReaches ((twoWrites.take 4).map fun x => .write x.1 x.2) := by decide +kernel

/-- The grant at bank 1 leaves its arbiter as a fresh one, its entry goes, and the holder of bank 0 behind it is read: the second
word waits. -/
theorem hiddenHolderOfWrites_waits : (hiddenHolderOfWrites.workOn 4).barter.work.isSome = true := by decide +kernel

end Sys2Proof.Machine

/-- Refutes O7: the statement asks canonical form (`Sparse.wf`) of the memories, but not of the arbiters' map. Where that map is
not in canonical form, a write at one bank uncovers an arbiter that was not read before, and a word whose bank let the Clerk in at
the beginning of the tick (R247) waits, though no more than four words were left. -/
theorem not_overlaysAreUploaded : ¬ Obligations.OverlaysAreUploaded := by
  unfold Obligations.OverlaysAreUploaded
  intro h
  obtain ⟨-, hwork⟩ := h
  obtain ⟨-, -, -, -, hdone⟩ := hwork hiddenHolderOfWrites twoWrites ⟨rfl, rfl, rfl, rfl⟩ (by simp [twoWrites]) (by decide) rfl
    hiddenHolderOfWrites_clerkReaches
  obtain ⟨hnone, -⟩ := hdone (by decide)
  have hwaits := hiddenHolderOfWrites_waits
  rw [hnone] at hwaits
  exact absurd hwaits (by decide)

end

/-! ## The flash (16_barter R350; 17_image R377) -/

section

open Sys2Proof Sys2Proof.Machine

namespace Sys2Proof.Machine

variable {s : State}

/-- The sectors that begin at the addresses `l`, `u` bytes each, are erased one after another (R377). -/
def State.eraseSectors (s : State) (u : Nat) (l : List Nat) : State :=
  l.foldl (fun s a => s.modImage fun x => { x with
    flash := s.flashErased a u, torn := x.torn.filter fun t => !(decide (a ≤ t) && decide (t < a + u)) }) s

/-- Erased sectors read as ones, and every other byte stands (R377). -/
theorem State.eraseSectors_spec (u : Nat) (l : List Nat) (s : State) (hwf : Sparse.wf flashFill s.image.flash = true) :
    ∃ flash torn, s.eraseSectors u l = { s with image := { s.image with flash := flash, torn := torn } } ∧
      Sparse.wf flashFill flash = true ∧
      ∀ x, Sparse.get flashFill flash x = if ∃ a ∈ l, a ≤ x ∧ x < a + u then 0xFF else Sparse.get flashFill s.image.flash x := by
  induction l generalizing s with
  | nil => exact ⟨_, _, rfl, hwf, fun x => by simp⟩
  | cons a l ih =>
    obtain ⟨flash, torn, heq, hflash, hget⟩ := ih (s.modImage fun x => { x with
      flash := s.flashErased a u, torn := x.torn.filter fun t => !(decide (a ≤ t) && decide (t < a + u)) })
      (Sparse.wf_filter hwf _)
    refine ⟨flash, torn, heq, hflash, fun x => ?_⟩
    have hone : Sparse.get flashFill (s.flashErased a u) x =
        if x < a ∨ a + u ≤ x then Sparse.get flashFill s.image.flash x else flashFill x := by
      have := Sparse.get_filter hwf (fun k => decide (k < a) || decide (a + u ≤ k)) x
      simpa [State.flashErased] using this
    rw [hget x]
    simp only [List.mem_cons, exists_eq_or_imp, State.modImage, hone]
    by_cases hl : ∃ b ∈ l, b ≤ x ∧ x < b + u
    · rw [if_pos hl, if_pos (.inr hl)]
    · rw [if_neg hl]
      by_cases ha : a ≤ x ∧ x < a + u
      · rw [if_neg (by omega), if_pos (.inl ha)]
        rfl
      · rw [if_pos (by omega), if_neg (by simp only [ha, hl, or_self, not_false_eq_true])]

/-- Bytes written one after another, each ANDed with what stands there. -/
theorem Sparse.get_program (g : Nat → Byte) (addr : Nat) (bs : List Byte) (k : Nat) (m : List (Nat × Byte))
    (h : Sparse.wf flashFill m = true) (x : Nat) :
    Sparse.get flashFill (Sparse.setAll flashFill m ((bs.zipIdx k).map fun (b, i) => (addr + i, b &&& g (addr + i)))) x =
      if addr + k ≤ x ∧ x < addr + k + bs.length then bs.getD (x - (addr + k)) 0 &&& g x else Sparse.get flashFill m x := by
  induction bs generalizing k m with
  | nil => simp [Sparse.setAll]
  | cons b bs ih =>
    have hset := Sparse.wf_set h (addr + k) (b &&& g (addr + k))
    have hrest := ih (k + 1) _ hset
    rw [Sparse.get_set h] at hrest
    rw [List.zipIdx_cons, List.map_cons]
    refine hrest.trans ?_
    rw [List.length_cons]
    rcases Nat.lt_trichotomy x (addr + k) with hx | rfl | hx
    · rw [if_neg (by omega), if_neg (by omega), if_neg (by omega)]
    · rw [if_neg (by omega), if_pos rfl, if_pos (by omega), Nat.sub_self]
      rfl
    · rw [if_neg (show x ≠ addr + k by omega), show x - (addr + k) = (x - (addr + (k + 1))) + 1 by omega, List.getD_cons_succ]
      by_cases hin : addr + (k + 1) ≤ x ∧ x < addr + (k + 1) + bs.length
      · rw [if_pos hin, if_pos (by omega)]
      · rw [if_neg hin, if_neg (by omega)]

theorem State.eraseUnit_pos (s : State) (a : Nat) : 0 < s.eraseUnit a := by
  unfold State.eraseUnit
  split
  · decide
  · exact Nat.lt_of_lt_of_le Nat.one_pos (Nat.le_max_left _ _)

/-- A byte lies in a sector that begins within an operation, where its own sector does (R377). -/
theorem exists_erased_iff {u a n : Nat} (hu : 0 < u) (hn : n ≠ 0) (x : Nat) :
    (∃ b ∈ ((unitsOf u a n).map (· * u)).filter fun b => decide (a ≤ b), b ≤ x ∧ x < b + u) ↔
      a ≤ x / u * u ∧ x / u * u < a + n := by
  simp only [unitsOf, if_neg hn, List.mem_filter, List.mem_map, List.mem_range, decide_eq_true_eq]
  constructor
  · rintro ⟨b, ⟨⟨c, ⟨i, hi, rfl⟩, rfl⟩, hab⟩, hbx, hxb⟩
    have hdiv : x / u = i + a / u := by
      refine (Nat.div_eq_iff hu).2 ⟨hbx, ?_⟩
      omega
    have hle : i + a / u ≤ (a + n - 1) / u := by
      have : a / u ≤ (a + n - 1) / u := Nat.div_le_div_right (by omega)
      omega
    rw [hdiv]
    have := (Nat.le_div_iff_mul_le hu).1 hle
    exact ⟨hab, by omega⟩
  · rintro ⟨hlow, hhigh⟩
    have h1 : a / u ≤ x / u := by
      have := Nat.div_le_div_right (c := u) hlow
      rwa [Nat.mul_div_cancel _ hu] at this
    have h2 : x / u ≤ (a + n - 1) / u := (Nat.le_div_iff_mul_le hu).2 (by omega)
    have hx1 := Nat.div_mul_le_self x u
    have hx2 := Nat.lt_div_mul_add (a := x) hu
    refine ⟨x / u * u, ⟨⟨x / u, ⟨x / u - a / u, by omega, by omega⟩, rfl⟩, hlow⟩, hx1, hx2⟩

/-- The flash after an operation (R350, R377): the sectors that begin within it are erased, its bytes are programmed, and every other
byte stands. -/
theorem State.flashDone_spec {op : FlashOp} (hwf : Sparse.wf flashFill s.image.flash = true) (hop : op.bytes ≠ []) :
    ∃ flash torn, s.flashDone op = { s with image := { s.image with op := none, flash := flash, torn := torn } } ∧
      ∀ x, Sparse.get flashFill flash x =
        let u := s.eraseUnit op.addr
        let was : Byte := if op.addr ≤ x / u * u ∧ x / u * u < op.addr + op.bytes.length then 0xFF
          else Sparse.get flashFill s.image.flash x
        if op.addr ≤ x ∧ x < op.addr + op.bytes.length then op.bytes.getD (x - op.addr) 0 &&& was else was := by
  have hlen : op.bytes.length ≠ 0 := fun h => hop (List.length_eq_zero_iff.1 h)
  have hunit := s.eraseUnit_pos op.addr
  obtain ⟨flash, torn, heq, hflash, hget⟩ := State.eraseSectors_spec (s.eraseUnit op.addr)
    ((s.opSectors op).filter fun a => decide (op.addr ≤ a)) s hwf
  refine ⟨Sparse.setAll flashFill flash (op.bytes.zipIdx.map fun (b, i) =>
    (op.addr + i, b &&& Sparse.get flashFill flash (op.addr + i))), torn, ?_, fun x => ?_⟩
  · have hdone : s.flashDone op = (s.eraseSectors (s.eraseUnit op.addr)
        ((s.opSectors op).filter fun a => decide (op.addr ≤ a))).modImage fun x => { x with
      op := none
      flash := Sparse.setAll flashFill x.flash (op.bytes.zipIdx.map fun (b, i) => (op.addr + i, b &&& Sparse.get flashFill
        (s.eraseSectors (s.eraseUnit op.addr) ((s.opSectors op).filter fun a => decide (op.addr ≤ a))).image.flash
          (op.addr + i))) } := rfl
    rw [hdone, heq]
    rfl
  · have hprogram := Sparse.get_program (Sparse.get flashFill flash) op.addr op.bytes 0 flash hflash x
    rw [Nat.add_zero] at hprogram
    have herased := exists_erased_iff hunit hlen (a := op.addr) x
    rw [hprogram, hget x]
    simp only [State.opSectors, herased]

/-- A flash operation for a request named by a command begins, where it can end within 1 s (R340). -/
theorem State.beginFlash_of_fits {op : FlashOp} (h : s.flashMites op ≤ mitesPerSec) :
    s.beginFlash none op = { s with image := { s.image with op := some op } } :=
  if_pos (Nat.add_le_add_left h _)

section Write

variable {slot : Fin 2} {offset m : Nat} {data : List Byte}

/-- The fields of an IMAGE_WRITE body (R345). -/
theorem imageWriteBody_fields (hoffset : offset < 2 ^ 32) (hlen : data.length < 2 ^ 16) :
    let body : List Byte := [BitVec.ofNat 8 slot, 0, 0, 0] ++ beBytes 4 offset ++ beBytes 2 data.length ++ [0, 0] ++ data
    beAt body 0 1 = slot.val ∧ beAt body 4 4 = offset ∧ beAt body 8 2 = data.length ∧ body.length = 12 + data.length ∧
      body.drop 12 = data := by
  intro body
  have hbody : body = [BitVec.ofNat 8 slot, 0, 0, 0] ++ (beBytes 4 offset ++ (beBytes 2 data.length ++ ([0, 0] ++ data))) := by
    simp only [body, List.append_assoc]
  refine ⟨?_, beAt_of_eq hbody rfl hoffset, beAt_of_eq (pre := [BitVec.ofNat 8 slot, 0, 0, 0] ++ beBytes 4 offset)
    (by rw [hbody, List.append_assoc]) (by simp) hlen, ?_, List.drop_left' (by simp)⟩
  · have hslot := slot.isLt
    simp [hbody, beAt, ofBeBytes]
    omega
  · simp [body]
    omega

/-- IMAGE_WRITE: a write to the running slot is answered IMAGE_ERROR, and any other begins its operation (R350, R377). -/
theorem imageWriteRequest_eq (hm : 1 ≤ m) (hmax : m ≤ 5) (hlen : data.length = 256 * m) (halign : offset % 256 = 0)
    (hfit : offset + data.length ≤ s.slotLen) (hslot : s.slotLen ≤ 2 ^ 31) (hop : s.image.op = none) :
    imageWriteRequest ([BitVec.ofNat 8 slot, 0, 0, 0] ++ beBytes 4 offset ++ beBytes 2 data.length ++ [0, 0] ++ data) none s =
      if s.runsFrom slot then s.imageError none
      else s.beginFlash none ⟨s.slotAddr slot + offset, data, none⟩ := by
  obtain ⟨hslotAt, hoffsetAt, hnAt, hbodyLen, hdata⟩ :=
    imageWriteBody_fields (slot := slot) (offset := offset) (data := data) (by omega) (by omega)
  have hslot2 := slot.isLt
  have hok : ¬(data.length < 256 ∨ 1280 < data.length ∨ data.length % 256 ≠ 0 ∨ offset % 256 ≠ 0 ∨ 1 < slot.val ∨
      12 + data.length ≠ 12 + data.length ∨ s.slotLen < offset + data.length) := by omega
  have hidle : ¬s.image.op.isSome = true := by simp [hop]
  rw [imageWriteRequest, hslotAt, hoffsetAt, hnAt, hbodyLen, hdata, if_neg hok, if_neg hidle]

/-- IMAGE_COMMIT of a slot that checks (R377). -/
theorem imageCommit_eq {x : ImageFile} (hcheck : s.checkSlot slot = (.ok x, s)) :
    imageCommit [BitVec.ofNat 8 slot, 0, 0, 0] none s =
      if s.preferredSlot = slot.val then s.finish none .ok []
      else s.beginFlash none ⟨(s.commitRecord slot).1, (s.commitRecord slot).2, none⟩ := by
  have hslot := slot.isLt
  have hslotAt : beAt [BitVec.ofNat 8 slot, 0, 0, 0] 0 1 = slot.val := by
    simp [beAt, ofBeBytes]
    omega
  have hok : ¬([BitVec.ofNat 8 slot.val, 0, 0, 0].length ≠ 4 ∨ 1 < slot.val) := by simp; omega
  rw [imageCommit, hslotAt, if_neg hok, hcheck]

end Write

end Sys2Proof.Machine

/-- Settles O8: the requests that begin an operation, and the bytes of the flash after it. -/
theorem flashIsWritten : Obligations.FlashIsWritten := by
  unfold Obligations.FlashIsWritten
  refine ⟨?write, ?commit, ?done⟩
  case write =>
    intro s slot offset m data hfree hm hmax hlen halign hfit hslot hop req op
    have hexec : exec req s = .next (if s.runsFrom slot then s.imageError none else s.beginFlash none op) :=
      congrArg Host.Outcome.next ((State.clerk_free hfree ..).trans
        (imageWriteRequest_eq hm hmax hlen halign hfit hslot hop))
    rw [hexec]
    refine ⟨fun hruns => by rw [if_pos hruns]; rfl, fun hruns htime => ?_⟩
    rw [hruns, if_neg Bool.false_ne_true, State.beginFlash_of_fits htime]
  case commit =>
    rintro s slot hfree hop ⟨x, hcheck⟩ req op
    have hexec : exec req s = .next (if s.preferredSlot = slot.val then s.finish none .ok [] else s.beginFlash none op) :=
      congrArg Host.Outcome.next ((if_neg (by simp [hop])).trans ((State.clerk_free hfree ..).trans (imageCommit_eq hcheck)))
    rw [hexec]
    refine ⟨fun hpref => by rw [if_pos hpref]; rfl, fun hpref htime => ?_⟩
    rw [if_neg hpref, State.beginFlash_of_fits htime]
  case done =>
    intro s op hmem hop hbytes hreq u stop was
    obtain ⟨-, -, hwf, -⟩ := hmem
    obtain ⟨flash, torn, hdone, hget⟩ := State.flashDone_spec hwf hbytes
    have hexec : exec .flashOperationDone s = .next ((s.flashDone op).finish none .ok []) := by
      refine congrArg Host.Outcome.next ?_
      rw [flashOperationDone, hop, ← hreq]
    rw [hdone] at hexec
    exact ⟨_, hexec, rfl, rfl, rfl, hget⟩

end

/-! ## Self-refresh and refresh (13_dram R270, R279 to R281) -/

section

open Sys2Proof Sys2Proof.Machine

namespace Sys2Proof.Machine

variable {s : State} {c : Fin 8}

/-- Without a bank that is listed there is no row to close. -/
theorem Subchannel.closeRows_of_none {x : Subchannel} (h : x.banks = []) (p : Nat → Bool) : x.closeRows p = x :=
  Subchannel.mapBanks_of_none h _

/-- A subchannel is changed by what the change makes of the subchannel that stands there. -/
theorem State.modSub_congr {f g : Subchannel → Subchannel} (h : f s.dram.subs[c] = g s.dram.subs[c]) :
    s.modSub c f = s.modSub c g :=
  congrArg (fun v => { s with dram := { s.dram with subs := v } }) (updAt_congr h)

theorem srEntry_of_idle (hsr : (s.dram.subs[c]).sr = .active) (hlimit : (s.dram.subs[c]).idleLimit ≠ 0)
    (hidle : (s.dram.subs[c]).idleLimit ≤ (s.dram.subs[c]).idle) (hbusy : s.subBusy c = false)
    (hbanks : (s.dram.subs[c]).banks = []) :
    srEntry c s = s.modSub c fun x => { x with sr := .entering false } := by
  refine (if_pos ⟨hsr, hlimit, hidle, by simp [hbusy]⟩).trans (State.modSub_congr ?_)
  rw [Subchannel.closeRows_of_none hbanks]

theorem srEntry_of_busy (h : s.subBusy c = true) : srEntry c s = s :=
  if_neg fun ⟨_, _, _, hidle⟩ => hidle h

theorem srEntryDone_of_entering {asked : Bool} (h : (s.dram.subs[c]).sr = .entering asked) :
    srEntryDone c s = s.modSub c fun x => { x with sr := if asked && !s.heldAsleep then .exiting else .asleep } := by
  rw [srEntryDone, h]

theorem srExit_of_asked (hsr : (s.dram.subs[c]).sr = .asleep) (hbusy : s.subBusy c = true) (hheld : s.heldAsleep = false) :
    srExit c s = s.modSub c fun x => { x with sr := .exiting } :=
  if_pos ⟨hsr, hbusy, by simp [hheld]⟩

theorem srExit_of_unasked (h : s.subBusy c = false ∨ s.heldAsleep = true) : srExit c s = s := by
  refine if_neg fun ⟨_, hbusy, hheld⟩ => ?_
  rcases h with h | h
  · exact Bool.false_ne_true (h.symm.trans hbusy)
  · exact hheld h

/-! Refresh (R279). -/

theorem refreshDue_of_not_reached (h : s.now + s.tickLen ≤ (s.dram.subs[c]).refreshAt) : refreshDue c s = s := by
  simp only [refreshDue, State.not_reached_iff.2 h, Bool.not_false, Bool.or_true, if_true]

/-- The bank indices left in a tREFI: all four, where none is (R279). -/
def Subchannel.indicesLeft (x : Subchannel) : List Nat := if x.refreshLeft.isEmpty then [0, 1, 2, 3] else x.refreshLeft

theorem Subchannel.indicesLeft_eq (x : Subchannel) :
    x.indicesLeft = if x.refreshLeft = [] then [0, 1, 2, 3] else x.refreshLeft := by
  simp only [Subchannel.indicesLeft, List.isEmpty_iff]

theorem Subchannel.indicesLeft_ne_nil (x : Subchannel) : x.indicesLeft ≠ [] := by
  unfold Subchannel.indicesLeft
  split
  · exact List.cons_ne_nil _ _
  next h => exact fun e => h (List.isEmpty_iff.2 e)

/-- The indices of which one is refreshed: those without an ACQ burst queued, where there is one (R279). -/
def State.refreshIndices (s : State) (c : Fin 8) : List Nat :=
  let quiet := (s.dram.subs[c]).indicesLeft.filter fun k => !s.acqQueued c k
  if quiet.isEmpty then (s.dram.subs[c]).indicesLeft else quiet

theorem State.refreshIndices_ne_nil (s : State) (c : Fin 8) : s.refreshIndices c ≠ [] := by
  unfold State.refreshIndices
  extract_lets quiet
  split
  · exact Subchannel.indicesLeft_ne_nil _
  next h => exact fun e => h (List.isEmpty_iff.2 e)

theorem State.mem_indicesLeft_of_refreshIndices {k : Nat} (h : k ∈ s.refreshIndices c) : k ∈ (s.dram.subs[c]).indicesLeft := by
  unfold State.refreshIndices at h
  extract_lets quiet at h
  split at h
  · exact h
  · exact (List.mem_filter.1 h).1

theorem State.acqQueued_of_refreshIndices {k : Nat} (h : k ∈ s.refreshIndices c)
    (hquiet : ∃ j ∈ (s.dram.subs[c]).indicesLeft, s.acqQueued c j = false) : s.acqQueued c k = false := by
  obtain ⟨j, hj, hjq⟩ := hquiet
  unfold State.refreshIndices at h
  extract_lets quiet at h
  have hsome : ¬quiet.isEmpty = true := by
    rw [List.isEmpty_iff]
    exact List.ne_nil_of_mem (List.mem_filter.2 ⟨hj, by simp [hjq]⟩)
  rw [if_neg hsome] at h
  simpa using (List.mem_filter.1 h).2

section Due

variable (hsr : (s.dram.subs[c]).sr = .active) (hbanks : (s.dram.subs[c]).banks = [])
  (hdue : (s.dram.subs[c]).refreshAt < s.now + s.tickLen)

include hsr hbanks hdue

/-- A refresh of every bank, while no stall runs (R279). -/
theorem refreshDue_all (hstall : s.anyStall = false) : refreshDue c s = s.modSub c fun x => { x with
    refreshing := true, refreshAt := x.refreshAt + s.refreshMites, refreshLeft := [0, 1, 2, 3] } := by
  have hawake : ¬((s.dram.subs[c]).sr != .active || !s.reached (s.dram.subs[c]).refreshAt) = true := by
    rw [hsr, State.reached_iff.2 hdue]
    decide
  have hstall' : ¬s.anyStall = true := by simp [hstall]
  refine (if_neg hawake).trans ((if_neg hstall').trans (State.modSub_congr ?_))
  rw [Subchannel.closeRows_of_none hbanks]

/-- A subchannel whose refresh has begun, the next one due `d` mites after it (R279). -/
def Subchannel.refreshed (d : Nat) (left : List Nat) (x : Subchannel) : Subchannel :=
  { x with refreshing := true, refreshAt := x.refreshAt + d, refreshLeft := left }

/-- A refresh of one bank index, while a stall runs (R279). -/
theorem refreshDue_one (hstall : s.anyStall = true) : ∃ k ∈ s.refreshIndices c,
    refreshDue c s = s.draw.2.modSub c fun x => { x with
      refreshing := true, refreshAt := x.refreshAt + s.refreshMites / 4, refreshLeft := (s.dram.subs[c]).indicesLeft.erase k } := by
  have hawake : ¬((s.dram.subs[c]).sr != .active || !s.reached (s.dram.subs[c]).refreshAt) = true := by
    rw [hsr, State.reached_iff.2 hdue]
    decide
  have hlt := Nat.mod_lt s.draw.1 (List.length_pos_iff.2 (s.refreshIndices_ne_nil c))
  refine ⟨(s.refreshIndices c).getD (s.draw.1 % (s.refreshIndices c).length) 0, ?_, ?_⟩
  · rw [List.getD_eq_getElem _ _ hlt]
    exact List.getElem_mem hlt
  · refine (if_neg hawake).trans ((if_pos hstall).trans (State.modSub_congr ?_))
    exact congrArg (Subchannel.refreshed (s.refreshMites / 4) _) (Subchannel.closeRows_of_none hbanks _)

end Due

/-- A quarter of tREFI, at both rates (R279). -/
theorem State.refreshMites_quarter (s : State) : s.refreshMites / 4 = if s.dram.rate2 then 19500 else 39000 := by
  unfold State.refreshMites
  split <;> rfl

/-- The rate and the next reading of MR4 (R279). -/
def State.mr4Rate (s : State) (r : Bool) : State := { s with dram := { s.dram with
  rate2 := r, mr4At := s.dram.mr4At + s.val F.DRM_REFRESH_MR4_PER * 40000000 } }

theorem mr4Read_of_reached (h : s.dram.mr4At < s.now + s.tickLen) :
    mr4Read 0 s = s.mr4Rate false ∧ mr4Read 1 s = s.mr4Rate true ∧
      mr4Read 2 s = ((s.mr4Rate true).toll 204).attention 3 := by
  have hdue : ¬(!s.reached s.dram.mr4At) = true := by simp [State.reached_iff.2 h]
  exact ⟨if_neg hdue, if_neg hdue, if_neg hdue⟩

end Sys2Proof.Machine

/-- Settles O39: the moves of self-refresh, then refresh and MR4. -/
theorem subchannelsSleepAndRefresh : Obligations.SubchannelsSleepAndRefresh := by
  unfold Obligations.SubchannelsSleepAndRefresh
  refine ⟨fun s c => ?sleeps, fun s => ⟨fun c => ?refreshes, fun hdue => ?mr4⟩⟩
  case sleeps =>
    intro x put
    refine ⟨fun hsr hlimit hidle hbusy hbanks => congrArg Host.Outcome.next (srEntry_of_idle hsr hlimit hidle hbusy hbanks),
      fun hbusy => congrArg Host.Outcome.next (srEntry_of_busy hbusy),
      fun asked hsr => congrArg Host.Outcome.next (srEntryDone_of_entering hsr),
      fun hsr => ⟨fun hbusy hheld => congrArg Host.Outcome.next (srExit_of_asked hsr hbusy hheld),
        fun h => congrArg Host.Outcome.next (srExit_of_unasked h)⟩,
      fun hsr hwatch => congrArg Host.Outcome.next (if_pos ⟨hsr, hwatch⟩),
      fun _ hwatch => congrArg Host.Outcome.next (if_neg fun h => h.2 hwatch)⟩
  case refreshes =>
    intro x put hsr hbanks
    refine ⟨fun hearly => congrArg Host.Outcome.next (refreshDue_of_not_reached hearly), fun hdue =>
      ⟨fun hstall => congrArg Host.Outcome.next (refreshDue_all hsr hbanks hdue hstall), fun hstall => ?_⟩⟩
    intro left
    have hleft : left = x.indicesLeft := x.indicesLeft_eq.symm
    obtain ⟨k, hk, heq⟩ := refreshDue_one hsr hbanks hdue hstall
    rw [s.refreshMites_quarter] at heq
    rw [hleft]
    exact ⟨_, k, congrArg Host.Outcome.next heq, State.mem_indicesLeft_of_refreshIndices hk,
      State.acqQueued_of_refreshIndices hk, rfl, rfl⟩
  case mr4 =>
    intro rate
    obtain ⟨h0, h1, h2⟩ := mr4Read_of_reached hdue
    exact ⟨congrArg Host.Outcome.next h0, congrArg Host.Outcome.next h1, congrArg Host.Outcome.next h2⟩

end

/-! ## Training (13_dram R273, R283 to R286) -/

section

open Sys2Proof Sys2Proof.Machine

namespace Sys2Proof.Machine

variable {s : State}

/-- A write leaves what stands above its key. -/
theorem Sparse.get_set_above {α : Type} [DecidableEq α] {d : Nat → α} {k j : Nat} (hj : k < j) (v : α) (m : List (Nat × α)) :
    Sparse.get d (Sparse.set d m k v) j = Sparse.get d m j := by
  have hcell (m : List (Nat × α)) : Sparse.get d (Sparse.cell d k v ++ m) j = Sparse.get d m j := by
    unfold Sparse.cell
    split
    · rfl
    · exact Sparse.get_cons_above hj
  induction m with
  | nil => exact (congrArg (Sparse.get d · j) (List.append_nil _)).symm.trans (hcell [])
  | cons c m ih =>
    obtain ⟨i, w⟩ := c
    unfold Sparse.set
    split
    · exact hcell _
    · split
      next h => rw [hcell, ← h, Sparse.get_cons_above hj]
      next => rw [Sparse.get, Sparse.get, ih]

section SetAll

variable {α : Type} [DecidableEq α] {d : Nat → α}

/-- A key that is not written keeps its value. -/
theorem Sparse.get_setAll_of_not_mem {k : Nat} {l : List (Nat × α)} (hk : k ∉ l.map (·.1)) {m : List (Nat × α)}
    (hm : Sparse.wf d m = true) : Sparse.get d (Sparse.setAll d m l) k = Sparse.get d m k := by
  induction l generalizing m with
  | nil => rfl
  | cons c l ih =>
    obtain ⟨hc, hl⟩ := not_or.1 (mt List.mem_cons.2 hk)
    have hstep := ih hl (Sparse.wf_set hm c.1 c.2)
    rw [Sparse.get_set hm, if_neg hc] at hstep
    exact hstep

/-- A key that is written once holds what is written. -/
theorem Sparse.get_setAll_of_mem {k : Nat} {v : α} {l : List (Nat × α)} (hl : (l.map (·.1)).Nodup) (hk : (k, v) ∈ l)
    {m : List (Nat × α)} (hm : Sparse.wf d m = true) : Sparse.get d (Sparse.setAll d m l) k = v := by
  induction l generalizing m with
  | nil => cases hk
  | cons c l ih =>
    obtain ⟨hfresh, hl⟩ := List.nodup_cons.1 hl
    rcases List.mem_cons.1 hk with rfl | hk
    · have hstep := Sparse.get_setAll_of_not_mem hfresh (Sparse.wf_set hm k v)
      rw [Sparse.get_set hm, if_pos rfl] at hstep
      exact hstep
    · exact ih hl hk (Sparse.wf_set hm c.1 c.2)

end SetAll

/-! A sweep and its results (R286). -/

/-- A GO reads the parameters of its sweep as they stand: they lie above DRM_TR_CTRL. -/
theorem State.newSweep_trainingGo (s : State) (w : Word) :
    (((s.setWritten R.DRM_TR_CTRL.base w trainingMask).setForce R.DRM_TR_CTRL.base w trainingMask).answer .ok).newSweep w =
      s.newSweep w := by
  have habove {j : Nat} (hj : R.DRM_TR_CTRL.base < j) :
      (((s.setWritten R.DRM_TR_CTRL.base w trainingMask).setForce R.DRM_TR_CTRL.base w trainingMask).answer .ok).word j = s.word j :=
    Sparse.get_set_above hj _ _
  unfold State.newSweep State.val
  rw [habove (by decide), habove (by decide), habove (by decide), habove (by decide)]

section Go

variable {w : Word} (hcount : F.DRM_TR_CTRL_COUNT.get w ≠ 0)

include hcount

theorem trainingGo_of_not_frozen (hgo : F.DRM_TR_CTRL_GO.get w = 1) (hfree : s.subFrozen (F.DRM_TR_CTRL_SUB.get w) = false) :
    trainingGo w s = (s.toll 203).refuseWrite .stopLocked :=
  (if_neg hcount).trans (if_pos ⟨hgo, by simp [hfree]⟩)

theorem trainingGo_of_no_go (hgo : F.DRM_TR_CTRL_GO.get w = 0) : trainingGo w s =
    ((s.setWritten R.DRM_TR_CTRL.base w trainingMask).setForce R.DRM_TR_CTRL.base w trainingMask).answer .ok := by
  have hno : ¬F.DRM_TR_CTRL_GO.get w = 1 := by omega
  exact (if_neg hcount).trans ((if_neg fun h => hno h.1).trans (if_neg hno))

theorem trainingGo_of_frozen (hgo : F.DRM_TR_CTRL_GO.get w = 1) (hfrozen : s.subFrozen (F.DRM_TR_CTRL_SUB.get w) = true) :
    trainingGo w s =
      ((((s.setWritten R.DRM_TR_CTRL.base w trainingMask).setForce R.DRM_TR_CTRL.base w trainingMask).answer .ok).modSub
        (Fin.ofNat 8 (F.DRM_TR_CTRL_SUB.get w)) fun x => { x with sweep := some (s.newSweep w) }).modDram
          fun d => { d with sweepDone := false } := by
  rw [← s.newSweep_trainingGo w]
  exact (if_neg hcount).trans ((if_neg fun h => h.2 hfrozen).trans (if_pos hgo))

end Go

/-- The sum of the powers of two at the places of a list that `p` names, the first place lowest. -/
def bitSum (p : List Nat → Bool) (n : Nat) (l : List (List Nat)) : Nat :=
  (((l.zipIdx n).filter fun e => p e.1).map fun e => 2 ^ e.2).sum

theorem bitSum_cons (p : List Nat → Bool) (n : Nat) (e : List Nat) (l : List (List Nat)) :
    bitSum p n (e :: l) = (p e).toNat * 2 ^ n + bitSum p (n + 1) l := by
  unfold bitSum
  cases h : p e <;> simp [List.zipIdx_cons, h]

theorem bitSum_succ (p : List Nat → Bool) (n : Nat) (l : List (List Nat)) : bitSum p (n + 1) l = 2 * bitSum p n l := by
  induction l generalizing n with
  | nil => rfl
  | cons e l ih =>
    rw [bitSum_cons, bitSum_cons, ih, Nat.pow_succ]
    ring

theorem testBit_bitSum (p : List Nat → Bool) (l : List (List Nat)) (i : Nat) (hi : i < l.length) :
    (bitSum p 0 l).testBit i = p l[i] := by
  induction l generalizing i with
  | nil => cases hi
  | cons e l ih =>
    rw [bitSum_cons, bitSum_succ, pow_zero, Nat.mul_one, Nat.add_comm]
    cases i with
    | zero => cases h : p e <;> simp [h]
    | succ i =>
      rw [Nat.testBit_succ, Nat.mul_add_div two_pos, Nat.div_eq_of_lt (Bool.toNat_lt (p e)), Nat.add_zero]
      exact ih i (Nat.lt_of_succ_lt_succ hi)

/-- DRM_TR_ERR shows, of each bit, whether it failed at the last point (R286). -/
theorem failedBits_getLsbD (errs : Vector (List Nat) 40) (i : Fin 40) :
    (failedBits errs.toList).getLsbD i = decide (errs[i].getLastD 0 ≠ 0) := by
  have hlen : i.val < errs.toList.length := by simp
  unfold failedBits
  rw [BitVec.getLsbD_ofNat, decide_eq_true i.isLt, Bool.true_and]
  refine (testBit_bitSum (fun e => e.getLastD 0 != 0) errs.toList i hlen).trans ?_
  exact Bool.eq_iff_iff.2 (by simp)

/-- FIRST and LAST of a bit with a point that passes (R286). -/
theorem Sweep.result_of_good {w : Sweep} {free a : Nat} {errs ps : List Nat}
    (h : ((w.points.zip errs).filter fun p => p.2 == 0).map (·.1) = a :: ps) :
    (w.result free errs).1 = BitVec.ofNat 10 a ∧ (w.result free errs).2.1 = BitVec.ofNat 10 (ps.getLastD a) := by
  have hhead := congrArg List.head? h
  have hlast := congrArg List.getLast? h
  rw [List.head?_map] at hhead
  rw [List.getLast?_map, List.getLast?_cons] at hlast
  obtain ⟨x, hx, rfl⟩ := Option.map_eq_some_iff.1 hhead
  obtain ⟨y, hy, hlast⟩ := Option.map_eq_some_iff.1 hlast
  unfold Sweep.result
  extract_lets good open_ at_
  have hx : good.head? = some x := hx
  have hy : good.getLast? = some y := hy
  rw [hx, hy]
  exact ⟨rfl, congrArg (BitVec.ofNat 10) (hlast.trans (List.getLastD_eq_getLast? ..).symm)⟩

/-- The errors of every bit at the points of a sweep (R286). -/
def Sweep.allErrors (w : Sweep) (reads : List (List (BitVec 640))) (counts : Vector (List Nat) 40) : Vector (List Nat) 40 :=
  Vector.ofFn fun i => w.errors i reads counts

/-- What a sweep that is done leaves, with the free value of its results (R286). -/
theorem trainingSweepDone_of_sweep {c : Fin 8} {w : Sweep} (reads : List (List (BitVec 640))) (counts : Vector (List Nat) 40)
    (h : (s.dram.subs[c]).sweep = some w) : ∃ x, trainingSweepDone c reads counts s =
      (s.draw.2.modSub c fun y => { y with sweep := none }).modDram fun d => { d with
        sweepDone := true, errors := failedBits (w.allErrors reads counts).toList
        results := (w.allErrors reads counts).map fun e => w.result x e } := by
  refine ⟨s.draw.1, ?_⟩
  rw [trainingSweepDone, h]
  rfl

/-! Delays (R284, R286). -/

/-- Delays set one after another. -/
theorem State.foldl_setDelay {n : Nat} (key v : Fin n → Nat) (l : List (Fin n)) (s : State) :
    l.foldl (fun s i => s.setDelay (key i) (v i)) s = { s with dram := { s.dram with
      delays := Sparse.setAll s.trainedDelay s.dram.delays (l.map fun i => (key i, v i)) } } := by
  induction l generalizing s with
  | nil => rfl
  | cons i l ih => exact ih (s.setDelay (key i) (v i))

theorem State.delayOf_setDelay (hwf : Sparse.wf s.trainedDelay s.dram.delays = true) (k d j : Nat) :
    (s.setDelay k d).delayOf j = if j = k then d else s.delayOf j :=
  Sparse.get_set hwf k j d

/-- What delays of different numbers, set one after another, leave. -/
theorem State.delayOf_foldl_setDelay {n : Nat} {key v : Fin n → Nat} (hkey : Function.Injective key)
    (hwf : Sparse.wf s.trainedDelay s.dram.delays = true) :
    let t := (List.finRange n).foldl (fun s i => s.setDelay (key i) (v i)) s
    (∀ i, t.delayOf (key i) = v i) ∧ ∀ k, (∀ i, k ≠ key i) → t.delayOf k = s.delayOf k := by
  intro t
  have hkeys : ((List.finRange n).map fun i => (key i, v i)).map (·.1) = (List.finRange n).map key := by
    rw [List.map_map]
    rfl
  have ht (k : Nat) : t.delayOf k =
      Sparse.get s.trainedDelay (Sparse.setAll s.trainedDelay s.dram.delays ((List.finRange n).map fun i => (key i, v i))) k :=
    congrArg (State.delayOf · k) (State.foldl_setDelay key v _ s)
  refine ⟨fun i => (ht _).trans (Sparse.get_setAll_of_mem ?_ ?_ hwf),
    fun k hk => (ht k).trans (Sparse.get_setAll_of_not_mem ?_ hwf)⟩
  · rw [hkeys]
    exact (List.nodup_finRange n).map hkey
  · exact List.mem_map.2 ⟨i, List.mem_finRange i, rfl⟩
  · rw [hkeys]
    exact fun h => let ⟨i, _, e⟩ := List.mem_map.1 h; hk i e.symm

/-- The delays of a byte lane have different numbers (R283). -/
theorem delayKey_lane_injective (lean : Bool) (sub target : Nat) (lane : Fin 5) :
    Function.Injective fun i : Fin 8 => delayKey lean sub target (8 * lane + i) := by
  intro i j h
  simp only [delayKey] at h
  omega

/-- The numbers of the delays that a retraining step sets (R284). -/
def State.laneKey (s : State) (c : Fin 8) (dqs : Bool) (lane : Fin 5) (i : Fin 8) : Nat :=
  delayKey (s.power.regime = .lean) c (retrainTarget dqs) (8 * lane + i)

/-- The delays of a byte lane are set (R284). -/
def setLane (key : Fin 8 → Nat) (d : Vector (BitVec 10) 8) (t : State) : State :=
  (List.finRange 8).foldl (fun t i => t.setDelay (key i) d[i].toNat) t

theorem setLane_eq (key : Fin 8 → Nat) (d : Vector (BitVec 10) 8) (t : State) : setLane key d t =
    { t with dram := { t.dram with delays := (setLane key d t).dram.delays } } := by
  rw [setLane, State.foldl_setDelay]

/-- What a retraining step takes up, before its delays (R273, R284). -/
def State.retrained (s : State) (c : Fin 8) (dqs : Bool) : State :=
  (s.takeCycle c).modSub c fun x => { x with
    refreshing := false, retrainLeft := if dqs then x.retrainLeft else x.retrainLeft - 1 }

theorem any_finRange_decide {n : Nat} (p : Fin n → Prop) [DecidablePred p] :
    ((List.finRange n).any fun i => decide (p i)) = decide (∃ i, p i) :=
  Bool.eq_iff_iff.2 (by simp)

/-- A toll taken under a condition, the tolls that fell due being those of another state. -/
theorem State.tollIf_eq_of_tollDue {t : State} (h : t.tollDue = s.tollDue) (b : Bool) (i : Nat) :
    t.tollIf b i = { t with tollDue := (s.tollIf b i).tollDue } := by
  cases b
  · exact congrArg (fun l => { t with tollDue := l }) h
  · exact congrArg (fun l => { t with tollDue := Sparse.set (fun _ => 0) l i (Sparse.get (fun _ => 0) l i + 1) }) h

/-- What a retraining step takes up moves nothing outside the arbiters and its subchannel (R273, R284). -/
theorem State.retrained_eq (s : State) (c : Fin 8) (dqs : Bool) : s.retrained c dqs = { s with
    hall := { s.hall with arbs := (s.retrained c dqs).hall.arbs }
    dram := { s.dram with subs := (s.retrained c dqs).dram.subs } } := rfl

theorem State.retrained_other (s : State) (c : Fin 8) (dqs : Bool) (e : Fin 8) (he : e ≠ c) :
    (s.retrained c dqs).dram.subs[e] = s.dram.subs[e] :=
  (updAt_other _ he.symm _).trans (updAt_other _ he.symm _)

/-- A retraining step is not made where its situation does not hold (R273, R284). -/
theorem retrainStep_of_not_ready {c : Fin 8} {dqs : Bool} (h : s.dram.trained = false ∨ s.maintMay c = false ∨
    s.maintWaits c = true ∨ (s.dram.subs[c]).refreshing = false ∨ dqs = false ∧ (s.dram.subs[c]).retrainLeft = 0)
    (lane : Fin 5) (d : Option (Vector (BitVec 10) 8)) : retrainStep c dqs lane d s = s := by
  refine if_pos ?_
  rcases h with h | h | h | h | ⟨h, hleft⟩
  · simp [h]
  · simp [h]
  · simp [h]
  · rw [h]
    simp
  · rw [h, hleft]
    simp

section Ready

variable {c : Fin 8} {dqs : Bool} (htrained : s.dram.trained = true) (hmay : s.maintMay c = true)
  (hwaits : s.maintWaits c = false) (hrefresh : (s.dram.subs[c]).refreshing = true)
  (hleft : dqs = true ∨ (s.dram.subs[c]).retrainLeft ≠ 0)

include htrained hmay hwaits hrefresh hleft

theorem retrain_ready :
    ¬(!s.dram.trained || !s.maintMay c || s.maintWaits c || !(s.dram.subs[c]).refreshing ||
      (!dqs && (s.dram.subs[c]).retrainLeft == 0)) = true := by
  rw [htrained, hmay, hwaits, hrefresh]
  rcases hleft with rfl | hleft
  · simp
  · simpa using fun _ => hleft

/-- A step that finds no passing window (R284). -/
theorem retrainStep_none (lane : Fin 5) : retrainStep c dqs lane none s = (s.retrained c dqs).toll 199 :=
  if_neg (retrain_ready htrained hmay hwaits hrefresh hleft)

/-- A step that finds the new delays of a byte lane (R284). -/
theorem retrainStep_some (lane : Fin 5) (d : Vector (BitVec 10) 8) :
    retrainStep c dqs lane (some d) s =
      (setLane (s.laneKey c dqs lane) d (s.retrained c dqs)).tollIf ((List.finRange 8).any fun i =>
        decide (s.val F.DRM_RETRAIN_DRIFT_LIM < ((d[i].toNat : Int) - s.delayOf (s.laneKey c dqs lane i)).natAbs)) 198 :=
  if_neg (retrain_ready htrained hmay hwaits hrefresh hleft)

end Ready

end Sys2Proof.Machine

/-- Settles O41: a GO, a delay write, a sweep that is done, and the steps of retraining. -/
theorem delaysAreTrained : Obligations.DelaysAreTrained := by
  unfold Obligations.DelaysAreTrained
  intro s
  refine ⟨fun w => ?go, fun w => ⟨fun h => ?_, fun h hwf => ?delay⟩, fun c reads counts => ⟨fun h => ?_, fun w h => ?sweep⟩,
    fun c dqs lane d h => congrArg Host.Outcome.next (retrainStep_of_not_ready h lane d),
    fun c dqs lane d htrained hmay hwaits hrefresh hleft hwf => ?step⟩
  case go =>
    intro c s1
    refine ⟨fun hcount => congrArg Host.Outcome.next (if_pos hcount), fun hcount =>
      ⟨fun hgo hfree => congrArg Host.Outcome.next (trainingGo_of_not_frozen hcount hgo hfree),
        fun hgo => congrArg Host.Outcome.next (trainingGo_of_no_go hcount hgo), fun hgo hfrozen =>
        ⟨_, congrArg Host.Outcome.next (trainingGo_of_frozen hcount hgo hfrozen), rfl, rfl, rfl, fun d hd => ?_, ?_⟩⟩⟩
    · refine updAt_other _ (fun e => hd ?_) _
      rw [← e]
      exact Nat.mod_eq_of_lt (Nat.mod_lt _ (by decide))
    · exact congrArg Subchannel.sweep (updAt_same ..)
  · exact congrArg Host.Outcome.next (if_pos (by simp [h]))
  case delay =>
    refine ⟨_, congrArg Host.Outcome.next (if_neg (by simp [h])), rfl, rfl, ?_, fun k hk => ?_⟩
    · exact (State.delayOf_setDelay hwf ..).trans (if_pos rfl)
    · exact (State.delayOf_setDelay hwf ..).trans (if_neg hk)
  · simp only [exec, execTrainingSweepDone, trainingSweepDone, h]
  case sweep =>
    obtain ⟨x, hexec⟩ := trainingSweepDone_of_sweep reads counts h
    refine ⟨_, congrArg Host.Outcome.next hexec, rfl, rfl, rfl, rfl, fun i => ?_⟩
    intro errs good last
    have herrs : (w.allErrors reads counts)[i] = errs := Vector.getElem_ofFn ..
    have hresult : ((w.allErrors reads counts).map fun e => w.result x e)[i] = w.result x errs :=
      (Vector.getElem_map ..).trans (congrArg (w.result x) herrs)
    refine ⟨?_, ?_, fun a ps hgood => ?_⟩
    · exact (failedBits_getLsbD _ i).trans (by rw [herrs])
    · exact congrArg (·.2.2) hresult
    · obtain ⟨hfirst, hlast⟩ := Sweep.result_of_good (free := x) hgood
      exact ⟨(congrArg (·.1) hresult).trans hfirst, (congrArg (·.2.1) hresult).trans hlast⟩
  case step =>
    intro key moved
    have hother := s.retrained_other c dqs
    have hmoved := s.retrained_eq c dqs
    generalize ht : s.retrained c dqs = t at hother hmoved
    have hnone := retrainStep_none htrained hmay hwaits hrefresh hleft lane
    have hsome := retrainStep_some htrained hmay hwaits hrefresh hleft lane d
    rw [ht] at hnone hsome
    constructor
    · refine ⟨_, congrArg Host.Outcome.next hnone, ⟨?_, ?_, ?_, hother⟩, ?_, ?_⟩ <;> rw [hmoved] <;> rfl
    · obtain ⟨hset, hkept⟩ := State.delayOf_foldl_setDelay (s := t) (v := fun i => d[i].toNat)
        (delayKey_lane_injective (s.power.regime = .lean) c (retrainTarget dqs) lane) (by rw [hmoved]; exact hwf)
      have hlane := setLane_eq (s.laneKey c dqs lane) d t
      generalize hu : setLane (s.laneKey c dqs lane) d t = u at hsome hlane
      change (∀ i, (setLane (s.laneKey c dqs lane) d t).delayOf _ = _) at hset
      change (∀ k, _ → (setLane (s.laneKey c dqs lane) d t).delayOf k = _) at hkept
      rw [hu] at hset hkept
      rw [State.tollIf_eq_of_tollDue (s := s) (by rw [hlane, hmoved])] at hsome
      refine ⟨_, congrArg Host.Outcome.next hsome, ⟨?_, ?_, ?_, fun e he => ?_⟩, hset, fun k hk => (hkept k hk).trans ?_, ?_⟩
      · rw [hlane, hmoved]
      · rw [hlane, hmoved]
      · rw [hlane, hmoved]
      · rw [hlane]
        exact hother e he
      · rw [hmoved]
        rfl
      · exact congrArg (fun b => (s.tollIf b 198).tollDue) (any_finRange_decide fun i =>
          s.val F.DRM_RETRAIN_DRIFT_LIM < ((d[i].toNat : Int) - s.delayOf (key i)).natAbs)

end

/-! ## Bursts of record memory (13_dram R272, R277, R280, R287 to R289) -/

section

open Sys2Proof Sys2Proof.Machine

namespace Sys2Proof.Machine

variable {s : State}

/-! A codeword with one wrong symbol (R287). -/

section OneSymbol

variable (i : Fin 10) (e : BitVec 8)

/-- The errors of a codeword of which symbol `i` alone is wrong. -/
def oneSymbol : SymbolErrors := BitVec.ofNat 80 (e.toNat * 256 ^ i.val)

theorem oneSymbol_toNat : (oneSymbol i e).toNat = e.toNat * 256 ^ i.val := by
  have hi : 256 ^ i.val ≤ 256 ^ 9 := Nat.pow_le_pow_right (by decide) (by omega)
  refine Nat.mod_eq_of_lt ?_
  calc e.toNat * 256 ^ i.val ≤ 255 * 256 ^ 9 := Nat.mul_le_mul (by have := e.isLt; omega) hi
    _ < 2 ^ 80 := by decide

theorem symbolAt_oneSymbol (j : Nat) : symbolAt (oneSymbol i e) j = if j = i.val then e.toNat else 0 := by
  unfold symbolAt
  rw [oneSymbol_toNat]
  have he : e.toNat < 256 := e.isLt
  rcases Nat.lt_trichotomy j i.val with h | rfl | h
  · obtain ⟨k, hk⟩ := Nat.exists_eq_add_of_lt h
    rw [if_neg h.ne, hk, Nat.add_assoc, Nat.pow_add, Nat.pow_succ, ← Nat.mul_assoc, Nat.mul_right_comm,
      Nat.mul_div_cancel _ (by positivity),
      ← Nat.mul_assoc, Nat.mul_mod_left]
  · rw [if_pos rfl, Nat.mul_div_cancel _ (by positivity), Nat.mod_eq_of_lt he]
  · obtain ⟨k, hk⟩ := Nat.exists_eq_add_of_lt h
    rw [if_neg h.ne', hk, Nat.add_assoc, Nat.pow_add, Nat.mul_comm, Nat.mul_div_mul_left _ _ (by positivity),
      Nat.div_eq_of_lt (he.trans_le (Nat.le_self_pow (by omega) _)), Nat.zero_mod]

/-- The syndromes of one wrong symbol (R287): its error, and its error times the power of α at its place. -/
theorem syndromes_oneSymbol : syndromes (oneSymbol i e) = (e.toNat, gfAlphas (9 - i.val) e.toNat) := by
  unfold syndromes
  simp only [symbolAt_oneSymbol]
  fin_cases i <;> simp [List.range, List.range.loop, gfAlphas, gfAlpha]

end OneSymbol

/-- The powers of α up to the ninth take a symbol that is not zero to different symbols, none of them zero (R287). -/
theorem gfAlphas_nodup : ∀ e : Fin 256, e.val ≠ 0 → ((List.range 10).map fun n => gfAlphas n e.val).Nodup ∧
    0 ∉ (List.range 10).map fun n => gfAlphas n e.val := by decide +kernel

section OneSymbol

variable (i : Fin 10) {e : BitVec 8} (he : e ≠ 0)

include he

/-- One wrong symbol is found at its place (R287). -/
theorem rsDecode_oneSymbol : rsDecode (oneSymbol i e) = .corrected i := by
  have hne : e.toNat ≠ 0 := fun h => he (BitVec.eq_of_toNat_eq h)
  obtain ⟨hnodup, hzero⟩ := gfAlphas_nodup ⟨e.toNat, e.isLt⟩ hne
  have hmem (j : Fin 10) : 9 - j.val < 10 := by omega
  have hs1 : gfAlphas (9 - i.val) e.toNat ≠ 0 := fun h => hzero (List.mem_map.2 ⟨_, List.mem_range.2 (hmem i), h⟩)
  have hfind : ((List.finRange 10).find? fun j => gfAlphas (9 - j.val) e.toNat == gfAlphas (9 - i.val) e.toNat) = some i := by
    have hsame (j : Fin 10) : (gfAlphas (9 - j.val) e.toNat == gfAlphas (9 - i.val) e.toNat) = decide (j = i) := by
      refine Bool.eq_iff_iff.2 ⟨fun h => ?_, fun h => ?_⟩
      · have hinj := List.inj_on_of_nodup_map hnodup (List.mem_range.2 (hmem j)) (List.mem_range.2 (hmem i)) (beq_iff_eq.1 h)
        exact decide_eq_true (Fin.ext (by omega))
      · rw [of_decide_eq_true h]
        exact beq_self_eq_true _
    simp only [hsame]
    exact (by decide : ∀ i : Fin 10, ((List.finRange 10).find? fun j => decide (j = i)) = some i) i
  unfold rsDecode
  rw [syndromes_oneSymbol]
  simp only [hne, hs1, hfind, false_and, false_or, if_false]

theorem residualErrors_oneSymbol : residualErrors (oneSymbol i e) = 0 := by
  unfold residualErrors
  rw [rsDecode_oneSymbol i he, syndromes_oneSymbol]
  exact BitVec.xor_self

end OneSymbol

/-! Codewords of a burst that are corrected (R288). -/

theorem State.markSlot_of_no_ring {a : Nat} (h : s.ringAt a = none) (flags : Nat) : s.markSlot a flags = s := by
  unfold State.markSlot
  rw [h]

/-- A codeword that is corrected with nothing left of its errors (R287, R288, R291): toll 192, and what the log keeps of it. -/
theorem State.codewordFound_corrected {cw : Nat} {e : SymbolErrors} {i : Fin 10} (owner : Nat)
    (hbad : s.dram.bad.contains cw = false) (he : rsDecode e = .corrected i) (hresidual : residualErrors e = 0)
    (hring : s.ringAt (cw * 8) = none) : ∃ d, s.codewordFound owner cw e = { s.toll 192 with dram := d } ∧
      { d with log := s.dram.log, head := s.dram.head, total := s.dram.total } = s.dram := by
  have hno : ¬(s.dram.bad.contains cw || rsDecode e == .uncorrectable) = true := by
    rw [hbad, he, Bool.false_or]
    exact fun h => Codeword.noConfusion (beq_iff_eq.1 h)
  have hfound : s.codewordFound owner cw e = (if (s.toll 192).flag F.DRM_ECC_CTRL_LOGCORR then
      (s.toll 192).dramLog (cw * 8) i owner false else s.toll 192).markSlot (cw * 8) (2 ^ 8) := by
    refine (if_neg hno).trans ?_
    rw [he, hresidual, State.leaveErrors_zero]
    rfl
  rw [hfound]
  split
  · exact ⟨_, State.markSlot_of_no_ring (s := (s.toll 192).dramLog (cw * 8) i owner false) hring _, rfl⟩
  · exact ⟨_, State.markSlot_of_no_ring (s := s.toll 192) hring _, rfl⟩

/-- An uncorrectable codeword outside every ring (R287, R288, R291). -/
theorem State.codewordFound_uncorrectable_of_no_ring {cw : Nat} {e : SymbolErrors} (owner : Nat) (hbad : s.dram.bad = [])
    (he : rsDecode e = .uncorrectable) (hring : s.ringAt (cw * 8) = none) : ∃ l, s.codewordFound owner cw e =
      { s.toll 193 with dram := { s.dram with
        bad := [cw], log := l, head := (s.dram.head + 1) % 64, total := (s.dram.total + 1) % 2 ^ 24 } } := by
  have hfound : s.codewordFound owner cw e =
      (((s.modDram fun d => { d with bad := [cw] }).toll 193).dramLog (cw * 8) 0xF owner true).markSlot (cw * 8) (2 ^ 9) := by
    simp [State.codewordFound, hbad, he, State.modDram]
  exact ⟨_, hfound.trans (State.markSlot_of_no_ring
    (s := ((s.modDram fun d => { d with bad := [cw] }).toll 193).dramLog (cw * 8) 0xF owner true) hring _)⟩

section Found

variable (k : Fin 8) (e : SymbolErrors)

theorem oneFound_same : ((Vector.replicate 8 (0 : SymbolErrors)).set k.val e k.isLt)[k] = e := Vector.getElem_set_self ..

theorem oneFound_other {j : Fin 8} (h : j ≠ k) : ((Vector.replicate 8 (0 : SymbolErrors)).set k.val e k.isLt)[j] = 0 :=
  (Vector.getElem_set_ne _ _ fun e => h (Fin.ext e.symm)).trans (Vector.getElem_replicate ..)

/-- A burst of which one codeword is corrected is written back in a MAINT cycle, for which the controller asks (R288). -/
theorem State.burstFound_corrected {cw : Nat} {i : Fin 10} (owner : Nat) (hbad : s.dram.bad = [])
    (he : rsDecode e = .corrected i) (hresidual : residualErrors e = 0) (hring : s.ringAt ((cw + k.val) * 8) = none) :
    ∃ d, s.burstFound owner cw ((Vector.replicate 8 0).set k.val e k.isLt) =
        State.presentDram { s.toll 192 with dram := d } (s.dramPlace (8 * cw)).sub 2 false [8 * cw] false ∧
      { d with log := s.dram.log, head := s.dram.head, total := s.dram.total } = s.dram := by
  have hfree (x : Nat) : s.dram.bad.contains x = false := by rw [hbad]; rfl
  obtain ⟨d, hfound, hd⟩ := State.codewordFound_corrected owner (hfree _) he hresidual hring
  refine ⟨d, ?_, hd⟩
  have hdbad : ({ s.toll 192 with dram := d } : State).dram.bad = s.dram.bad := (congrArg Dram.bad hd :)
  generalize ({ s.toll 192 with dram := d } : State) = t at hfound hdbad
  have hcorrects : s.corrects cw ((Vector.replicate 8 0).set k.val e k.isLt) = true := by
    refine List.any_eq_true.2 ⟨k, List.mem_finRange k, ?_⟩
    rw [hfree, oneFound_same, he]
    rfl
  have hfold : (List.finRange 8).foldl (fun s j =>
      s.codewordFound owner (cw + j.val) ((Vector.replicate 8 (0 : SymbolErrors)).set k.val e k.isLt)[j]) s = t := by
    refine foldl_of_one (List.nodup_finRange 8) (List.mem_finRange k) (by rw [oneFound_same, hfound]) (fun j hj => ?_) fun j hj => ?_
    · rw [oneFound_other k e hj]
      exact State.codewordFound_clean (hfree _) owner
    · rw [oneFound_other k e hj]
      exact State.codewordFound_clean (by rw [hdbad]; exact hfree _) owner
  rw [State.burstFound, if_pos hcorrects, hfold]

end Found

/-! The issue of a burst (R277). -/

/-- The state in which a burst has left its queue and reached its row (R277, R282). -/
def State.issued (s : State) (o : Fin 4) (a : Nat) : State :=
  s.modSub (s.dramPlace a).sub fun x => { x with
    queue := x.queue.erase (o, a), refreshing := false
    banks := Sparse.set (fun _ => ({} : Bank)) x.banks (s.dramPlace a).bank
      ((x.bank (s.dramPlace a).bank).access (s.dramPlace a).row) }

/-- A burst is the one that the controller issues next, where it stands as the youngest if no queue holds it (R277). -/
def State.issuesNext (s : State) (o : Fin 4) (a : Nat) : Prop :=
  s.nextBurst (s.dramPlace a).sub (if (o, a) ∈ (s.dram.subs[(s.dramPlace a).sub]).queue then
    (s.dram.subs[(s.dramPlace a).sub]).queue else (s.dram.subs[(s.dramPlace a).sub]).queue ++ [(o, a)]) = some (o, a)

/-- The scrub may visit a burst (R261, R273, R289). -/
def State.scrubReady (s : State) (c : Fin 8) : Prop :=
  s.maintWaits c = false ∧ s.retrainWaits c = false ∧ s.scrubRuns = true ∧ s.scrubMay c = true

/-- What a read burst answers (R272, R288). -/
def State.burstAnswered (s : State) (o : Fin 4) (a : Nat) : State :=
  s.modDram fun d => { d with answer := {
    owner := o, data := if s.burstBad (a / 8) then 0 else BitVec.ofNat 512 (memNat d.mem a 64), error := s.burstBad (a / 8) } }

/-- Nothing holds a burst back (R277, R280, R289). -/
theorem dramBurst_issues {o : Fin 4} {a : Nat} {scrub : Bool} (hsr : (s.dram.subs[(s.dramPlace a).sub]).sr = .active)
    (hnext : s.issuesNext o a) (hscrub : scrub = true → s.scrubReady (s.dramPlace a).sub) :
    ¬((s.dram.subs[(s.dramPlace a).sub]).sr != .active ||
      s.nextBurst (s.dramPlace a).sub (if (s.dram.subs[(s.dramPlace a).sub]).queue.contains (o, a) then
        (s.dram.subs[(s.dramPlace a).sub]).queue else (s.dram.subs[(s.dramPlace a).sub]).queue ++ [(o, a)]) != some (o, a) ||
      (scrub && (s.maintWaits (s.dramPlace a).sub || s.retrainWaits (s.dramPlace a).sub || !s.scrubRuns ||
        !s.scrubMay (s.dramPlace a).sub))) = true := by
  unfold State.issuesNext at hnext
  simp only [List.contains_iff_mem, hsr, hnext]
  cases scrub with
  | false => simp
  | true =>
    obtain ⟨hmaint, hretrain, hruns, hmay⟩ := hscrub rfl
    rw [hmaint, hretrain, hruns, hmay]
    simp

section Issue

variable {o : Fin 4} {addr : BitVec 38} {a : Nat} (ha : addr.toNat / 64 * 64 = a)

include ha

theorem dramBurst_of_beyond (h : s.dramSize ≤ a) (w : Option (BitVec 512)) (scrub : Bool) (found : Vector SymbolErrors 8) :
    dramBurst o addr w scrub found s =
      (s.modDram fun d => { d with answer := { owner := o, error := true } }).toll 194 := by
  subst ha
  exact if_pos h

variable (hin : a < s.dramSize)

include hin

theorem dramBurst_of_waiting (h : (s.dram.subs[(s.dramPlace a).sub]).sr ≠ .active ∨ ¬s.issuesNext o a)
    (w : Option (BitVec 512)) (scrub : Bool) (found : Vector SymbolErrors 8) : dramBurst o addr w scrub found s = s := by
  subst ha
  refine (if_neg (Nat.not_le.2 hin)).trans (if_pos ?_)
  rcases h with h | h
  · rw [bne_iff_ne.2 h, Bool.true_or, Bool.true_or]
  · unfold State.issuesNext at h
    simp only [← List.contains_iff_mem] at h
    rw [Bool.or_eq_true, Bool.or_eq_true]
    exact .inl (.inr (bne_iff_ne.2 h))

variable (hsr : (s.dram.subs[(s.dramPlace a).sub]).sr = .active) (hnext : s.issuesNext o a) {scrub : Bool}
  (hscrub : scrub = true → s.scrubReady (s.dramPlace a).sub)

include hsr hnext hscrub

/-- A write burst (R272). -/
theorem dramBurst_write (w : BitVec 512) (found : Vector SymbolErrors 8) : dramBurst o addr (some w) scrub found s =
    ((s.issued o a).dramWrite a (leBytes 64 w.toNat)).modDram fun d => { d with answer := { owner := o } } := by
  subst ha
  have hissues := dramBurst_issues hsr hnext hscrub
  unfold dramBurst
  extract_lets
  rw [if_neg (Nat.not_le.2 hin), if_neg hissues]
  rfl

/-- A read burst, and the scrub's step where the read is its visit (R272, R287 to R289). -/
theorem dramBurst_read (found : Vector SymbolErrors 8) : dramBurst o addr none scrub found s =
    let t := ((s.issued o a).burstFound o (a / 8) found).burstAnswered o a
    let x := t.dram.subs[(s.dramPlace a).sub]
    if scrub && x.scrubOn && x.scrubAt == (s.dramPlace a).local_ / 64 then
      t.modSub (s.dramPlace a).sub fun x => x.scrubbed s.scrubBursts
    else t := by
  subst ha
  have hissues := dramBurst_issues hsr hnext hscrub
  unfold dramBurst
  extract_lets
  rw [if_neg (Nat.not_le.2 hin), if_neg hissues]
  rfl

end Issue

/-! What a burst moves (R272, R277). -/

/-- What a burst of sound record memory leaves: its bytes `m` and its answer (R272). -/
def State.transferred (s : State) (o : Fin 4) (a : Nat) (m : List Host.Cell) (r : DramAnswer) : State :=
  (s.issued o a).modDram fun d => { d with mem := m, answer := r }

theorem State.transferred_frame (s : State) (o : Fin 4) (a : Nat) (m : List Host.Cell) (r : DramAnswer) :
    { s.transferred o a m r with dram := s.dram } = s ∧
      { (s.transferred o a m r).dram with mem := s.dram.mem, answer := s.dram.answer, subs := s.dram.subs } = s.dram := ⟨rfl, rfl⟩

theorem State.issued_other (o : Fin 4) (a : Nat) {c : Fin 8} (h : c ≠ (s.dramPlace a).sub) :
    (s.issued o a).dram.subs[c] = s.dram.subs[c] := updAt_other _ h.symm _

theorem State.issued_queue (o : Fin 4) (a : Nat) : ((s.issued o a).dram.subs[(s.dramPlace a).sub]).queue =
    (s.dram.subs[(s.dramPlace a).sub]).queue.erase (o, a) := congrArg Subchannel.queue (updAt_same ..)

theorem State.issued_sr (o : Fin 4) (a : Nat) : ((s.issued o a).dram.subs[(s.dramPlace a).sub]).sr =
    (s.dram.subs[(s.dramPlace a).sub]).sr := (congrArg Subchannel.sr (updAt_same ..)).trans rfl

theorem toNat_mod_256_pow {n : Nat} (w : BitVec (8 * n)) : w.toNat % 256 ^ n = w.toNat := by
  have h := w.isLt
  rw [pow_mul] at h
  exact Nat.mod_eq_of_lt h

theorem State.issued_scrubOn (o : Fin 4) (a : Nat) : ((s.issued o a).dram.subs[(s.dramPlace a).sub]).scrubOn =
    (s.dram.subs[(s.dramPlace a).sub]).scrubOn := (congrArg Subchannel.scrubOn (updAt_same ..)).trans rfl

theorem State.issued_scrubAt (o : Fin 4) (a : Nat) : ((s.issued o a).dram.subs[(s.dramPlace a).sub]).scrubAt =
    (s.dram.subs[(s.dramPlace a).sub]).scrubAt := (congrArg Subchannel.scrubAt (updAt_same ..)).trans rfl

/-- The 64 bytes of a write burst are read back (R272). -/
theorem memNat_memWrite_burst {m : List Host.Cell} (h : Memory.wf m = true) (a : Nat) (w : BitVec 512) :
    memNat (memWrite m a (leBytes 64 w.toNat)) a 64 = w.toNat :=
  (memNat_memWrite h a 64 w.toNat).trans (toNat_mod_256_pow (n := 64) w)

/-- A write of sound record memory (R272). -/
theorem State.dramWrite_of_sound (hbad : s.dram.bad = []) (a : Nat) (bs : List Byte) :
    s.dramWrite a bs = s.modDram fun d => { d with mem := memWrite d.mem a bs } := by
  unfold State.dramWrite Dram.write
  rw [hbad, List.filter_nil, ← hbad]
  rfl

/-- A read burst of sound codewords (R272). -/
theorem State.burstAnswered_of_sound (hbad : s.dram.bad = []) (o : Fin 4) (a : Nat) :
    s.burstAnswered o a = s.modDram fun d => { d with answer := ⟨o, BitVec.ofNat 512 (memNat d.mem a 64), false⟩ } := by
  rw [State.burstAnswered, State.burstBad_of_nil hbad]
  rfl

/-- A read burst of a codeword that is uncorrectable (R288). -/
theorem State.burstAnswered_of_bad {a : Nat} {k : Fin 8} (hbad : s.dram.bad = [a / 8 + k.val]) (o : Fin 4) :
    s.burstAnswered o a = s.modDram fun d => { d with answer := ⟨o, 0, true⟩ } := by
  rw [State.burstAnswered, State.burstBad_of_one hbad]
  rfl

/-- A write burst to sound record memory (R272). -/
theorem dramBurst_write_of_sound {o : Fin 4} {addr : BitVec 38} {a : Nat} {scrub : Bool} (ha : addr.toNat / 64 * 64 = a)
    (hbad : s.dram.bad = []) (hin : a < s.dramSize) (hsr : (s.dram.subs[(s.dramPlace a).sub]).sr = .active)
    (hnext : s.issuesNext o a) (hscrub : scrub = true → s.scrubReady (s.dramPlace a).sub) (w : BitVec 512)
    (found : Vector SymbolErrors 8) : dramBurst o addr (some w) scrub found s =
      s.transferred o a (memWrite s.dram.mem a (leBytes 64 w.toNat)) { owner := o } := by
  have hibad : (s.issued o a).dram.bad = [] := hbad
  rw [dramBurst_write ha hin hsr hnext hscrub, State.dramWrite_of_sound hibad]
  generalize leBytes 64 w.toNat = bs
  rfl

/-- MAINT asks for a cycle at a subchannel that is awake (R258). -/
theorem State.presentDram_of_active {c : Fin 8} (h : (s.dram.subs[c]).sr = .active) (work : List Nat) :
    s.presentDram c 2 false work false = s.present (256 + c) 2 false work false := by
  rw [State.presentDram, h]

section OneFound

variable {a : Nat} {k : Fin 8} {e : SymbolErrors} (o : Fin 4) (haligned : a % 64 = 0) (hbad : s.dram.bad = [])
  (hring : s.ringAt (a + 8 * k.val) = none)

include haligned hbad hring

/-- A read burst of which one codeword is corrected (R287, R288): its bytes, toll 192, and a MAINT cycle to write it back. -/
theorem State.burst_corrected {i : Fin 10} (hsr : (s.dram.subs[(s.dramPlace a).sub]).sr = .active)
    (he : rsDecode e = .corrected i) (hresidual : residualErrors e = 0) :
    ∃ d : Dram, ((s.issued o a).burstFound o (a / 8) ((Vector.replicate 8 0).set k.val e k.isLt)).burstAnswered o a =
        State.present { s.toll 192 with dram := d } (256 + (s.dramPlace a).sub) 2 false [a] false ∧
      d.mem = s.dram.mem ∧ d.bad = [] ∧ d.answer = ⟨o, BitVec.ofNat 512 (memNat s.dram.mem a 64), false⟩ := by
  have hibad : (s.issued o a).dram.bad = [] := hbad
  have hfirst : 8 * (a / 8) = a := by omega
  have hiring : (s.issued o a).ringAt ((a / 8 + k.val) * 8) = none := by
    rw [show (a / 8 + k.val) * 8 = a + 8 * k.val by omega]
    exact hring
  obtain ⟨d, hfound, hd⟩ := State.burstFound_corrected k e o hibad he hresidual hiring
  have hmem : d.mem = (s.issued o a).dram.mem := (congrArg Dram.mem hd :)
  have hdbad : d.bad = (s.issued o a).dram.bad := (congrArg Dram.bad hd :)
  have hsubs : d.subs = (s.issued o a).dram.subs := (congrArg Dram.subs hd :)
  have hactive : (({ (s.issued o a).toll 192 with dram := d } : State).dram.subs[(s.dramPlace a).sub]).sr = .active := by
    rw [hsubs, State.issued_sr, hsr]
  have hpresent := State.presentDram_of_active hactive [a]
  refine ⟨{ d with answer := ⟨o, BitVec.ofNat 512 (memNat d.mem a 64), false⟩ }, ?_, hmem, hdbad.trans hibad,
    congrArg (fun m => (⟨o, BitVec.ofNat 512 (memNat m a 64), false⟩ : DramAnswer)) hmem⟩
  rw [hfound, hfirst]
  refine (congrArg (·.burstAnswered o a) hpresent).trans ((State.burstAnswered_of_sound (hdbad.trans hibad) o a).trans ?_)
  rfl

/-- A read burst of which one codeword is uncorrectable (R287, R288, R291). -/
theorem State.burst_uncorrectable (he : rsDecode e = .uncorrectable) :
    ∃ d : Dram, ((s.issued o a).burstFound o (a / 8) ((Vector.replicate 8 0).set k.val e k.isLt)).burstAnswered o a =
        { s.toll 193 with dram := d } ∧
      d.mem = s.dram.mem ∧ d.bad = [a / 8 + k.val] ∧ d.answer = ⟨o, 0, true⟩ ∧ d.head = (s.dram.head + 1) % 64 ∧
      d.total = (s.dram.total + 1) % 2 ^ 24 := by
  have hibad : (s.issued o a).dram.bad = [] := hbad
  have hiring : (s.issued o a).ringAt ((a / 8 + k.val) * 8) = none := by
    rw [show (a / 8 + k.val) * 8 = a + 8 * k.val by omega]
    exact hring
  obtain ⟨l, hfound⟩ := State.codewordFound_uncorrectable_of_no_ring o hibad he hiring
  have hburst := State.burstFound_uncorrectable hibad he hfound rfl
  have hanswered := (congrArg (·.burstAnswered o a) hburst).trans (State.burstAnswered_of_bad rfl o)
  refine ⟨_, hanswered, ?_⟩
  exact ⟨rfl, rfl, rfl, rfl, rfl⟩

end OneFound

/-- The scrub goes on to the next burst of its pass (R289). -/
theorem Subchannel.scrubbed_scrubAt {x : Subchannel} {bursts : Nat} (h : x.scrubAt + 1 < bursts) :
    (x.scrubbed bursts).scrubAt = x.scrubAt + 1 := by
  rw [Subchannel.scrubbed, if_pos h]

/-- A visit of the scrub that finds a sound burst (R289). -/
theorem dramBurst_scrub {o : Fin 4} {addr : BitVec 38} {a : Nat} (ha : addr.toNat / 64 * 64 = a) (hbad : s.dram.bad = [])
    (hin : a < s.dramSize) (hsr : (s.dram.subs[(s.dramPlace a).sub]).sr = .active) (hnext : s.issuesNext o a)
    (hready : s.scrubReady (s.dramPlace a).sub) (hon : (s.dram.subs[(s.dramPlace a).sub]).scrubOn = true)
    (hat : (s.dram.subs[(s.dramPlace a).sub]).scrubAt = (s.dramPlace a).local_ / 64) :
    dramBurst o addr none true (Vector.replicate 8 0) s =
      ((s.issued o a).burstAnswered o a).modSub (s.dramPlace a).sub fun x => x.scrubbed s.scrubBursts := by
  have hibad : (s.issued o a).dram.bad = [] := hbad
  have hread := dramBurst_read (scrub := true) ha hin hsr hnext (fun _ => hready) (Vector.replicate 8 0)
  rw [State.burstFound_clean hibad] at hread
  refine hread.trans (if_pos ?_)
  have hon' : (((s.issued o a).burstAnswered o a).dram.subs[(s.dramPlace a).sub]).scrubOn = true := (s.issued_scrubOn o a).trans hon
  have hat' : (((s.issued o a).burstAnswered o a).dram.subs[(s.dramPlace a).sub]).scrubAt = _ := (s.issued_scrubAt o a).trans hat
  rw [hon', hat']
  exact beq_self_eq_true _

end Sys2Proof.Machine

/-- Settles O38: the decoder's corrections, then a burst beyond the memory, one that waits, and what each burst issued moves. -/
theorem burstsAreIssued : Obligations.BurstsAreIssued := by
  unfold Obligations.BurstsAreIssued
  refine ⟨fun i e he => ⟨rsDecode_oneSymbol i he, residualErrors_oneSymbol i he⟩, fun s o addr hwf hbad haligned => ?_⟩
  intro a clean read p x ready
  have ha : addr.toNat / 64 * 64 = a := Nat.div_mul_cancel (Nat.dvd_of_mod_eq_zero haligned)
  refine ⟨fun hbeyond w c found => congrArg Host.Outcome.next (dramBurst_of_beyond ha hbeyond w c found),
    fun hin hwait w c found => congrArg Host.Outcome.next (dramBurst_of_waiting ha hin hwait w c found),
    fun hin hsr hnext => ?_⟩
  intro moved
  have hplain : false = true → s.scrubReady (s.dramPlace a).sub := fun h => absurd h Bool.false_ne_true
  have hread (found : Vector SymbolErrors 8) : exec (.dramBurst o addr none false found) s =
      .next (((s.issued o a).burstFound o (a / 8) found).burstAnswered o a) :=
    congrArg Host.Outcome.next (dramBurst_read ha hin hsr hnext hplain found)
  have hibad : (s.issued o a).dram.bad = [] := hbad
  have hunits (k : Fin 8) : (a / 8 + k.val) * 8 = a + 8 * k.val := by omega
  refine ⟨⟨_, hread clean, ?clean⟩,
    fun w => ⟨_, congrArg Host.Outcome.next (dramBurst_write_of_sound ha hbad hin hsr hnext hplain w clean),
    ?write⟩, fun k e hring => ⟨fun i he hresidual => ⟨_, hread _, ?corrected⟩, fun he => ⟨_, hread _, ?uncorrectable⟩⟩,
    fun hruns hmaint hretrain hmay hon hat hlast => ?scrub⟩
  case clean =>
    rw [State.burstFound_clean hibad, State.burstAnswered_of_sound hibad]
    exact ⟨⟨rfl, rfl, fun c hc => s.issued_other o a hc, s.issued_queue o a⟩, rfl, rfl⟩
  case write =>
    obtain ⟨-, hdram, -⟩ := hwf
    have hword := memNat_memWrite_burst hdram a w
    have houtside (x : Nat) (hx : x < a ∨ a + 64 ≤ x) :
        memByte (memWrite s.dram.mem a (leBytes 64 w.toNat)) x = memByte s.dram.mem x :=
      memByte_memWrite_outside hdram (by simpa using hx)
    generalize memWrite s.dram.mem a (leBytes 64 w.toNat) = m at hword houtside
    obtain ⟨hframe, hdframe⟩ := s.transferred_frame o a m { owner := o }
    exact ⟨⟨hframe, hdframe, fun c hc => s.issued_other o a hc, s.issued_queue o a⟩, rfl, hword, houtside⟩
  case corrected =>
    obtain ⟨d, ht, hmem, hdbad, hanswer⟩ := State.burst_corrected o haligned hbad hring hsr he hresidual
    rw [ht]
    refine ⟨rfl, rfl, ?_, rfl, hmem, hanswer, hdbad⟩
    exact congrArg Arbiter.live (State.arb_present ..)
  case uncorrectable =>
    obtain ⟨d, ht, hmem, hdbad, hanswer, hhead, htotal⟩ := State.burst_uncorrectable o haligned hbad hring he
    rw [ht]
    exact ⟨rfl, rfl, hmem, hanswer, hdbad, hhead, htotal⟩
  case scrub =>
    refine ⟨_, congrArg Host.Outcome.next
      (dramBurst_scrub ha hbad hin hsr hnext ⟨hmaint, hretrain, hruns, hmay⟩ hon hat), rfl, ?_⟩
    have hsub : (s.issued o a).dram.subs[p.sub].scrubAt = p.local_ / 64 := (s.issued_scrubAt o a).trans hat
    refine (congrArg Subchannel.scrubAt (updAt_same ..)).trans ((Subchannel.scrubbed_scrubAt ?_).trans (congrArg (· + 1) hsub))
    exact hsub ▸ hlast

end

/-! ## Hall's scrubber, the freezes and the requests (12_hall R251, R258, R261, R263, R265, R266) -/

section

open Sys2Proof Sys2Proof.Machine

namespace Sys2Proof.Machine

variable {s : State}

section Scrub

variable (hon : s.hall.scrubOn = true) (hsound : s.hallSound) (hmay : s.backgroundMay 24 (16 * s.hall.scrubWord) = true)

include hon hsound hmay

/-- A step of the scrubber over a sound word (R251, R261). -/
theorem scrubStep_of_sound : scrubStep .clean .clean s =
    let u := s.takeBank 24 (16 * s.hall.scrubWord)
    if s.hall.scrubWord + 1 < hallWords then { u with hall := { u.hall with scrubWord := s.hall.scrubWord + 1 } }
    else
      let v := { u with hall := { u.hall with
        scrubWord := 0, scrubOn := false, scrubPasses := (s.hall.scrubPasses + 1) % 256 } }
      if s.hall.scrubLate then v.scrubBegin else v := by
  have hgoes : ¬(!s.hall.scrubOn || !s.backgroundMay 24 (16 * s.hall.scrubWord)) = true := by
    rw [hon, hmay]
    decide
  have hclean : (s.takeBank 24 (16 * s.hall.scrubWord)).eccWord 24 (16 * s.hall.scrubWord) true true .clean .clean =
      s.takeBank 24 (16 * s.hall.scrubWord) := State.eccWord_of_sound (s := s.takeBank ..) hsound ..
  unfold scrubStep
  rw [if_neg hgoes, hclean]

theorem scrubStep_within (hnext : s.hall.scrubWord + 1 < 2 ^ 23) : scrubStep .clean .clean s =
    let u := s.takeBank 24 (16 * s.hall.scrubWord)
    { u with hall := { u.hall with scrubWord := s.hall.scrubWord + 1 } } :=
  (scrubStep_of_sound hon hsound hmay).trans (if_pos hnext)

theorem scrubStep_last (hlast : s.hall.scrubWord + 1 = 2 ^ 23) (hlate : s.hall.scrubLate = false) : scrubStep .clean .clean s =
    let u := s.takeBank 24 (16 * s.hall.scrubWord)
    { u with hall := { u.hall with scrubWord := 0, scrubOn := false, scrubPasses := (s.hall.scrubPasses + 1) % 256 } } := by
  have hend : ¬s.hall.scrubWord + 1 < hallWords := by
    rw [hlast]
    decide
  refine (scrubStep_of_sound hon hsound hmay).trans ((if_neg hend).trans (if_neg ?_))
  rw [hlate]
  decide

end Scrub

section Period

variable (hlate : s.hall.scrubLate = false)
  (hdue : s.hall.scrubStart + s.hall.scrubPeriod * 40000000000 < s.now + s.tickLen)

include hlate hdue

theorem scrubPeriod_ends :
    ¬(s.hall.scrubLate || !s.reached (s.hall.scrubStart + s.hall.scrubPeriod * 40000000000)) = true := by
  rw [hlate, State.reached_iff.2 hdue]
  decide

/-- A period that ends before its pass (R251). -/
theorem scrubPeriod_of_on (hon : s.hall.scrubOn = true) :
    scrubPeriod s = { s with hall := { s.hall with scrubLate := true } }.toll 166 :=
  (if_neg (scrubPeriod_ends hlate hdue)).trans (if_pos hon)

/-- A period that ends after its pass (R251). -/
theorem scrubPeriod_of_off (hon : s.hall.scrubOn = false) : scrubPeriod s = { s with hall := { s.hall with
    scrubOn := true, scrubStart := s.now, scrubPeriod := s.wval F.HAL_SCRUB_PERIOD } } := by
  have hoff : ¬s.hall.scrubOn = true := by simp [hon]
  refine (if_neg (scrubPeriod_ends hlate hdue)).trans ((if_neg hoff).trans ?_)
  rw [State.scrubBegin, ← hlate]

end Period

/-! Freezes (R265, R266): `x` the bits that are new, `b` whether a function runs that they would starve. -/

theorem freeze_refused {x : Word} {b : Bool} (hx : x ≠ 0) (hb : b = true) : (x != 0 && b) = true := by
  rw [bne_iff_ne.2 hx, hb]
  rfl

theorem freeze_not_refused {x : Word} {b : Bool} (h : x = 0 ∨ b = false) : ¬(x != 0 && b) = true := by
  rcases h with rfl | rfl
  · exact Bool.false_ne_true
  · rw [Bool.and_false]
    exact Bool.false_ne_true

/-! Requests (R258, R263). -/

/-- The request that is presented, single where a held grant would break the order of R263. -/
def State.requestOf (s : State) (i port : Nat) (held : Bool) (work : List Nat) (background : Bool) : Request :=
  ⟨port, held && !(held && s.holdsLater port i), max 1 work.length, background, work⟩

/-- The arbiter at which it waits. -/
def State.askedArb (s : State) (i port : Nat) (held : Bool) (work : List Nat) (background : Bool) : Arbiter :=
  { s.arb i with live := (s.arb i).live ++ [s.requestOf i port held work background] }

/-- A request that is presented waits at its arbiter (R258, R263). -/
theorem State.present_eq (s : State) (i port : Nat) (held : Bool) (work : List Nat) (background : Bool) :
    s.present i port held work background = { s with
      hall := { s.hall with
        arbs := Sparse.set (fun _ => ({} : Arbiter)) s.hall.arbs i (s.askedArb i port held work background) }
      ev := { s.ev with presented := (i, port) :: s.ev.presented }
      tollDue := (s.tollIf (held && s.holdsLater port i) 165).tollDue } := by
  unfold State.present
  extract_lets out a r s1
  refine (State.tollIf_eq_of_tollDue (s := s) (t := { s1 with ev := { s1.ev with presented := (i, port) :: s1.ev.presented } })
    ?_ out 165).trans ?_
  · rfl
  · rfl

theorem State.present_arb (s : State) (i port : Nat) (held : Bool) (work : List Nat) (background : Bool) :
    (s.present i port held work background).arb i = s.askedArb i port held work background := by
  rw [State.present_eq]
  refine Sparse.get_set_same_of_ne (fun h => ?_) s.hall.arbs
  exact List.append_ne_nil_of_right_ne_nil _ (List.cons_ne_nil _ _) (congrArg Arbiter.live h)

/-- A request is presented (R247, R253, R258, R280): at a bank, at a transmit queue by its sender, at a subchannel that is not about
to sleep. -/
theorem hallRequest_presents {arb : Fin 269} {port : Fin 26} {work : List (BitVec 38)} (hwork : work ≠ [])
    (h : arb.val < 256 ∧ (arb.val, port.val) ∉ s.ev.presented ∧
        (s.ev.presented.filter fun x => decide (x.1 < 256) && x.2 == port.val).length < portWidth port ∨
      264 ≤ arb.val ∧ port.val = (if arb.val = 268 then 23 else 22) ∨
      256 ≤ arb.val ∧ arb.val < 264 ∧ port.val < 4 ∧ ∀ b, (s.dram.subs[subOf arb]).sr ≠ .entering b)
    (held bg : Bool) : hallRequest arb port held work bg s = s.present arb port held (work.map (·.toNat)) bg := by
  have hsome : ¬work.isEmpty = true := by simpa using hwork
  refine (if_neg hsome).trans ?_
  rcases h with ⟨hbank, hfresh, hwidth⟩ | ⟨hqueue, hsender⟩ | ⟨hlow, hhigh, howner, hawake⟩
  · refine (if_pos hbank).trans (if_neg ?_)
    rw [Bool.or_eq_true, List.contains_iff_mem, decide_eq_true_eq]
    exact not_or.2 ⟨hfresh, Nat.not_le.2 hwidth⟩
  · exact (if_neg (by omega)).trans ((if_pos hqueue).trans (if_pos hsender))
  · refine (if_neg (by omega)).trans ((if_neg (by omega)).trans ((if_neg (by omega)).trans ?_))
    have harb : 256 + (subOf arb).val = arb.val := by
      show 256 + arb.val % 8 = arb.val
      omega
    unfold State.presentDram
    rw [harb]
    split
    next hsr => exact absurd hsr (hawake _)
    · rfl

end Sys2Proof.Machine

/-- Settles O19: the scrubber's steps and periods, the two freezes, and a request presented. -/
theorem scrubsFreezesAndRequests : Obligations.ScrubsFreezesAndRequests := by
  unfold Obligations.ScrubsFreezesAndRequests
  refine ⟨fun s => ⟨fun hon hsound hmay => ?steps, fun hlate hdue =>
    ⟨fun hon => congrArg Host.Outcome.next (scrubPeriod_of_on hlate hdue hon),
      fun hon => congrArg Host.Outcome.next (scrubPeriod_of_off hlate hdue hon)⟩⟩,
    fun s => ⟨fun j w => ⟨fun h => ?hallFree, fun hnew husers => ?hallHeld⟩,
      fun w => ⟨fun h => ?dramFree, fun hnew hstall => ?dramHeld⟩,
      fun arb port held work bg hwork h => ?request⟩⟩
  case steps =>
    intro u
    exact ⟨fun hnext => congrArg Host.Outcome.next (scrubStep_within hon hsound hmay hnext),
      fun hlast hlate => congrArg Host.Outcome.next (scrubStep_last hon hsound hmay hlast hlate)⟩
  case hallFree => exact congrArg Host.Outcome.next (if_neg (freeze_not_refused h))
  case hallHeld => exact congrArg Host.Outcome.next (if_pos (freeze_refused hnew husers))
  case dramFree => exact congrArg Host.Outcome.next (if_neg (freeze_not_refused h))
  case dramHeld => exact congrArg Host.Outcome.next (if_pos (freeze_refused hnew hstall))
  case request =>
    refine ⟨_, congrArg Host.Outcome.next (hallRequest_presents hwork h held bg), ?_, ?_, ?_, ?_⟩
    · rw [State.present_eq]
    · rw [State.present_eq]
    · rw [State.present_eq]
    · have hheld (x : Bool) : (held && !(held && x)) = (held && !x) := by cases held <;> rfl
      rw [State.present_arb, State.askedArb, State.requestOf, hheld, List.length_map,
        Nat.max_eq_right (List.length_pos_iff.2 hwork)]

end

/-! ## Temperature (13_dram R270, 18_power R394) -/

section

open Sys2Proof Sys2Proof.Machine

namespace Sys2Proof.Machine

variable {s : State}

/-! The highest reading. -/

/-- The highest of the values of a list's elements that have one, and of a first value. -/
def highest {α : Type} (f : α → Option Int) (l : List α) (a : Int) : Int :=
  l.foldl (fun a i => match f i with | some v => max a v | none => a) a

theorem le_highest {α : Type} (f : α → Option Int) (l : List α) (a : Int) : a ≤ highest f l a := by
  refine List.foldlRecOn (motive := fun b => a ≤ b) l _ le_rfl fun b hb i _ => ?_
  split
  · exact hb.trans (Int.le_max_left ..)
  · exact hb

theorem le_highest_of_mem {α : Type} {f : α → Option Int} {l : List α} {i : α} {v : Int} (hi : i ∈ l) (hv : f i = some v)
    (a : Int) :
    v ≤ highest f l a := by
  induction l generalizing a with
  | nil => cases hi
  | cons j l ih =>
    rcases List.mem_cons.1 hi with rfl | hi
    · refine le_trans ?_ (le_highest f l _)
      simp only [hv]
      exact Int.le_max_right ..
    · exact ih hi _

theorem highest_attained {α : Type} (f : α → Option Int) (l : List α) (a : Int) :
    highest f l a = a ∨ ∃ i ∈ l, f i = some (highest f l a) := by
  refine List.foldlRecOn (motive := fun b => b = a ∨ ∃ i ∈ l, f i = some b) l _ (.inl rfl) fun b hb i hi => ?_
  split
  next v hv =>
    rcases Int.le_total b v with h | h
    · rw [Int.max_eq_right h]
      exact .inr ⟨i, hi, hv⟩
    · rw [Int.max_eq_left h]
      exact hb
  next => exact hb

/-- The hottest sensor gives TJ, and none reads more (R394). -/
theorem Power.hottest_spec {p : Power} {n : Fin 12} {v : Int} (h : p.temps[n] = some v) :
    ∃ i t, p.hottest (n, v) = (i, t) ∧ p.temps[i] = some t ∧ ∀ (j : Fin 12) (x : Int), p.temps[j] = some x → x ≤ t := by
  have hmax (i : Fin 12) (x : Int) (hx : p.temps[i] = some x) : x ≤ highest (fun i : Fin 12 => p.temps[i]) (List.finRange 12) v :=
    le_highest_of_mem (List.mem_finRange i) hx v
  have hat : ∃ i : Fin 12, p.temps[i] = some (highest (fun i : Fin 12 => p.temps[i]) (List.finRange 12) v) := by
    rcases highest_attained (fun i : Fin 12 => p.temps[i]) (List.finRange 12) v with he | ⟨i, -, hi⟩
    · exact ⟨n, h.trans (congrArg some he.symm)⟩
    · exact ⟨i, hi⟩
  have hfold : ∃ t, t = highest (fun i : Fin 12 => p.temps[i]) (List.finRange 12) v ∧ p.hottest (n, v) =
      match (List.finRange 12).find? fun i => p.temps[i] == some t with
      | some i => (i, t)
      | none => (n, v) := by
    refine ⟨_, ?_, rfl⟩
    exact congrArg (fun g => List.foldl g v (List.finRange 12)) (funext₂ fun a i => rfl)
  obtain ⟨t, ht, heq⟩ := hfold
  rw [← ht] at hat hmax
  cases hfind : (List.finRange 12).find? fun i => p.temps[i] == some t with
  | some i => exact ⟨i, t, by rw [heq, hfind], beq_iff_eq.1 (List.find?_some (p := fun i => p.temps[i] == some t) hfind), hmax⟩
  | none =>
    obtain ⟨i, hi⟩ := hat
    exact absurd (beq_iff_eq.2 hi) (List.find?_eq_none.1 hfind i (List.mem_finRange i))

/-- A sensor that reads more than every other is the hottest. -/
theorem Power.hottest_of_highest {p : Power} {n : Fin 12} {v : Int} (h : p.temps[n] = some v)
    (hother : ∀ (i : Fin 12) (x : Int), i ≠ n → p.temps[i] = some x → x < v) : p.hottest (n, v) = (n, v) := by
  obtain ⟨i, t, hq, hat, hmax⟩ := Power.hottest_spec h
  rw [hq]
  by_cases hn : i = n
  · subst hn
    exact congrArg (Prod.mk i) (Option.some.inj (hat.symm.trans h))
  · exact absurd (hother i t hn hat) (not_lt.2 (hmax n v h))

/-! What a function's stop leaves of the power manager: everything. -/

theorem State.foldl_power {α : Type} {f : State → α → State} (h : ∀ (t : State) (a : α), (f t a).power = t.power)
    (l : List α) (s : State) : (l.foldl f s).power = s.power := by
  induction l generalizing s with
  | nil => rfl
  | cons a l ih => exact (ih _).trans (h s a)

theorem State.leaveUp_power (s : State) (p : Fin 4) : (s.leaveUp p).power = s.power := by
  unfold State.leaveUp
  extract_lets q s1 n
  split
  · rfl
  · split
    · rfl
    · rfl

theorem State.dropPort_power (s : State) (p : Fin 4) (next : PortState) : (s.dropPort p next).power = s.power := by
  unfold State.dropPort
  extract_lets s1
  have hs1 : s1.power = s.power := s.leaveUp_power p
  split
  · exact hs1
  · exact hs1

theorem State.stopCrier_power (s : State) : s.stopCrier.power = s.power := by
  unfold State.stopCrier
  rw [State.modCrier_power]
  exact State.foldl_power (fun t p => t.dropPort_power p .off) _ s

theorem State.requestStop_power (s : State) (n : Fin 16) : (s.requestStop n).power = s.power := by
  unfold State.requestStop
  extract_lets s1 s2
  split
  · rfl
  · rfl

theorem State.fnStops_power (s : State) (fn : Nat) : (s.fnStops fn).power = s.power := by
  unfold State.fnStops
  split
  · exact s.requestStop_power _
  · extract_lets t
    split
    · rfl
    · split
      · rfl
      · split
        · exact t.stopCrier_power
        · split
          · rfl
          · split
            · rfl
            · rfl

theorem State.stopLeaves_power (fns : List Nat) (k : Nat) (s : State) : (State.stopLeaves fns k s).power = s.power := by
  induction k generalizing s with
  | zero => rfl
  | succ k ih =>
    unfold State.stopLeaves
    split
    · rfl
    · exact (ih _).trans (s.fnStops_power _)

theorem State.shed_power (s : State) (n : Fin 16) : (s.shed n).power = s.power := by
  unfold State.shed
  rw [State.attention_power, State.setSticky_power, State.toll_power, State.stopLeaves_power]

theorem State.shedForLean_power (s : State) : s.shedForLean.power = s.power := by
  unfold State.shedForLean
  refine State.foldl_power (fun t n => ?_) _ s
  split
  · exact t.shed_power n
  · rfl

/-! What else TJ does not move. -/

/-- The readings of the sensors, TJ and its sensor (R394). -/
def Power.heat (p : Power) : Vector (Option Int) 12 × Int × Nat := (p.temps, p.tj, p.sensor)

theorem State.raiseFrom_heat (s : State) (i : Nat) : (s.raiseFrom i).power.heat = s.power.heat := by
  unfold State.raiseFrom
  split
  · rfl
  · rfl

theorem State.wakeIfDue_heat (s : State) : s.wakeIfDue.power.heat = s.power.heat := by
  unfold State.wakeIfDue
  split
  · exact State.raiseFrom_heat _ 0
  · rfl

theorem State.thermalWarning_heat (s : State) : s.thermalWarning.power.heat = s.power.heat := by
  unfold State.thermalWarning
  extract_lets warn
  split
  · rw [State.attention_power]
    rfl
  · split
    · rfl
    · rfl

theorem State.forceLean_heat (s : State) : s.forceLean.power.heat = s.power.heat := by
  unfold State.forceLean
  have hcharged := s.recharge_recharged.power
  generalize s.recharge = r at hcharged ⊢
  have hshed := State.shedForLean_power (((r.modPower fun p => { p with forced := true }).toll 253).attention 3)
  rw [State.attention_power] at hshed
  generalize State.shedForLean _ = u at hshed ⊢
  rw [State.beginChange_eq]
  have hu : u.power.heat = r.power.heat := (congrArg Power.heat hshed).trans rfl
  exact hu.trans (congrArg Power.heat hcharged)

theorem State.coolDown_heat (s : State) : s.coolDown.power.heat = s.power.heat := by
  unfold State.coolDown
  extract_lets p
  split
  · exact s.forceLean_heat
  · rfl

/-! A reading of a sensor (R394). -/

/-- The power manager after a reading, before what TJ brings about (R394). -/
def State.readTemp (s : State) (n : Fin 12) (v : BitVec 16) (hot : Fin 12) (tj : Int) : State :=
  s.modPower fun p => { p with
    temps := p.temps.set n.val (some v.toInt) n.isLt, tj := tj, sensor := hot.val
    coolSince := if tj < tjCool then some (p.coolSince.getD s.now) else none }

/-- What TJ brings about (R394). -/
def State.heeded (s : State) : State :=
  if s.power.regime = .watch then s.wakeIfDue
  else if tjWatch ≤ s.power.tj then (if s.power.watchForced then s else s.forceWatch)
  else s.coolDown

theorem tempReading_eq (n : Fin 12) (v : BitVec 16) (s : State) :
    ∃ (hot : Fin 12) (tj : Int),
      ({ s.power with temps := s.power.temps.set n.val (some v.toInt) n.isLt } : Power).hottest (n, v.toInt) =
      (hot, tj) ∧ tempReading n v s = (s.readTemp n v hot tj).thermalWarning.heeded :=
  ⟨_, _, rfl, rfl⟩

theorem State.heeded_heat (s : State) : s.heeded.power.heat = s.power.heat := by
  unfold State.heeded
  split
  · exact s.wakeIfDue_heat
  · split
    · split
      · rfl
      · rw [State.forceWatch, State.attention_power]
        rfl
    · exact s.coolDown_heat

/-- A reading forms TJ anew from the sensors' readings (R394). -/
theorem tempReading_heat (n : Fin 12) (v : BitVec 16) (s : State) :
    (tempReading n v s).power.temps = s.power.temps.set n.val (some v.toInt) n.isLt ∧
      (∀ (i : Fin 12) (x : Int), (tempReading n v s).power.temps[i] = some x → x ≤ (tempReading n v s).power.tj) ∧
      ∃ i : Fin 12, (tempReading n v s).power.sensor = i.val ∧
        (tempReading n v s).power.temps[i] = some (tempReading n v s).power.tj := by
  obtain ⟨hot, tj, hhot, heq⟩ := tempReading_eq n v s
  have hread : ({ s.power with temps := s.power.temps.set n.val (some v.toInt) n.isLt } : Power).temps[n] = some v.toInt :=
    Vector.getElem_set_self ..
  obtain ⟨i, t, hq, hat, hmax⟩ := Power.hottest_spec hread
  obtain ⟨rfl, rfl⟩ := Prod.mk.inj (hq.symm.trans hhot)
  have hheat : (tempReading n v s).power.heat = (s.readTemp n v i t).power.heat := by
    rw [heq, State.heeded_heat, State.thermalWarning_heat]
  obtain ⟨htemps, hrest⟩ := Prod.mk.inj hheat
  obtain ⟨htj, hsensor⟩ := Prod.mk.inj hrest
  rw [htemps, htj, hsensor]
  exact ⟨rfl, hmax, i, rfl, hat⟩

theorem State.thermalWarning_of_cool (h : s.power.tj < ((s.val F.PWR_THERM_TJ_WARN : Int) - 5) * 128) :
    s.thermalWarning = s.modPower fun p => { p with thermal := false } := by
  have hno : ¬((s.val F.PWR_THERM_TJ_WARN : Int) * 128 ≤ s.power.tj ∧ (!s.power.thermal) = true) := fun ⟨hw, _⟩ => by omega
  exact (if_neg hno).trans (if_pos h)

theorem State.thermalWarning_of_warm (h : (s.val F.PWR_THERM_TJ_WARN : Int) * 128 ≤ s.power.tj) (hth : s.power.thermal = false) :
    s.thermalWarning = (s.modPower fun p => { p with thermal := true }).attention 2 :=
  if_pos ⟨h, by rw [hth]; rfl⟩

theorem State.thermalWarning_of_warned (h : (s.val F.PWR_THERM_TJ_WARN : Int) * 128 ≤ s.power.tj) (hth : s.power.thermal = true) :
    s.thermalWarning = s := by
  have hno : ¬((s.val F.PWR_THERM_TJ_WARN : Int) * 128 ≤ s.power.tj ∧ (!s.power.thermal) = true) := by
    rw [hth]
    exact fun h => Bool.false_ne_true h.2
  exact (if_neg hno).trans (if_neg (by omega))

theorem State.heeded_of_cool (hregime : s.power.regime ≠ .watch) (h : s.power.tj < 120 * 128) : s.heeded = s := by
  have hw : ¬tjWatch ≤ s.power.tj := by unfold tjWatch; omega
  have hl : ¬tjLean ≤ s.power.tj := by unfold tjLean; omega
  exact (if_neg hregime).trans ((if_neg hw).trans (if_neg fun h => hl h.1))

theorem State.heeded_of_hot (hfull : s.power.regime = .full) (hforced : s.power.forced = false) (hlow : 120 * 128 ≤ s.power.tj)
    (hhigh : s.power.tj < 130 * 128) : s.heeded = s.forceLean := by
  have hregime : s.power.regime ≠ .watch := by rw [hfull]; decide
  have hw : ¬tjWatch ≤ s.power.tj := by unfold tjWatch; omega
  refine (if_neg hregime).trans ((if_neg hw).trans (if_pos ⟨hlow, ?_, hregime, .inl hfull⟩))
  rw [hforced]
  rfl

theorem State.heeded_of_hottest (hfull : s.power.regime = .full) (hforced : s.power.watchForced = false)
    (h : 130 * 128 ≤ s.power.tj) : s.heeded = s.forceWatch := by
  have hregime : s.power.regime ≠ .watch := by rw [hfull]; decide
  have hno : ¬s.power.watchForced = true := by simp [hforced]
  exact (if_neg hregime).trans ((if_pos h).trans (if_neg hno))

section Full

variable {n : Fin 12} {v : BitVec 16}
  (hother : ∀ (i : Fin 12) (x : Int), i ≠ n → s.power.temps[i] = some x → x < v.toInt)

include hother

/-- A reading above every other is TJ (R394). -/
theorem tempReading_of_highest : tempReading n v s = (s.readTemp n v n v.toInt).thermalWarning.heeded := by
  obtain ⟨hot, tj, hhot, heq⟩ := tempReading_eq n v s
  have hread : ({ s.power with temps := s.power.temps.set n.val (some v.toInt) n.isLt } : Power).temps[n] = some v.toInt :=
    Vector.getElem_set_self ..
  have hrest (i : Fin 12) (x : Int) (hi : i ≠ n)
      (hx : ({ s.power with temps := s.power.temps.set n.val (some v.toInt) n.isLt } : Power).temps[i] = some x) : x < v.toInt :=
    hother i x hi ((Vector.getElem_set_ne n.isLt i.isLt fun e => hi (Fin.ext e.symm)).symm.trans hx)
  obtain ⟨rfl, rfl⟩ := Prod.mk.inj ((Power.hottest_of_highest hread hrest).symm.trans hhot)
  exact heq

/-- A reading below the warning (R394). -/
theorem tempReading_cool (hfull : s.power.regime = .full) (hcool : v.toInt < ((s.val F.PWR_THERM_TJ_WARN : Int) - 5) * 128)
    (hlow : v.toInt < 120 * 128) :
    tempReading n v s = (s.readTemp n v n v.toInt).modPower fun p => { p with thermal := false } := by
  have hregime : ((s.readTemp n v n v.toInt).modPower fun p => { p with thermal := false }).power.regime ≠ .watch := by
    intro h
    exact Regime.noConfusion (hfull.symm.trans h)
  rw [tempReading_of_highest hother, State.thermalWarning_of_cool hcool, State.heeded_of_cool hregime hlow]

/-- A reading that raises the warning (R394). -/
theorem tempReading_warm (hfull : s.power.regime = .full) (hwarm : (s.val F.PWR_THERM_TJ_WARN : Int) * 128 ≤ v.toInt)
    (hlow : v.toInt < 120 * 128) (hth : s.power.thermal = false) :
    tempReading n v s = ((s.readTemp n v n v.toInt).modPower fun p => { p with thermal := true }).attention 2 := by
  have hregime : (((s.readTemp n v n v.toInt).modPower fun p => { p with thermal := true }).attention 2).power.regime ≠ .watch := by
    rw [State.attention_power]
    intro h
    exact Regime.noConfusion (hfull.symm.trans h)
  have htj : (((s.readTemp n v n v.toInt).modPower fun p => { p with thermal := true }).attention 2).power.tj < 120 * 128 := by
    rw [State.attention_power]
    exact hlow
  rw [tempReading_of_highest hother, State.thermalWarning_of_warm (s := s.readTemp n v n v.toInt) hwarm hth,
    State.heeded_of_cool hregime htj]

/-- A reading at which LEAN is forced (R394). -/
theorem tempReading_hot (hfull : s.power.regime = .full) (hforced : s.power.forced = false)
    (hwarm : (s.val F.PWR_THERM_TJ_WARN : Int) * 128 ≤ v.toInt) (hth : s.power.thermal = true) (hlow : 120 * 128 ≤ v.toInt)
    (hhigh : v.toInt < 130 * 128) : tempReading n v s = (s.readTemp n v n v.toInt).forceLean := by
  rw [tempReading_of_highest hother, State.thermalWarning_of_warned (s := s.readTemp n v n v.toInt) hwarm hth]
  exact State.heeded_of_hot hfull hforced hlow hhigh

/-- A reading at which WATCH is forced (R394). -/
theorem tempReading_hottest (hfull : s.power.regime = .full) (hforced : s.power.watchForced = false)
    (hwarm : (s.val F.PWR_THERM_TJ_WARN : Int) * 128 ≤ v.toInt) (hth : s.power.thermal = true) (hhigh : 130 * 128 ≤ v.toInt) :
    tempReading n v s = (s.readTemp n v n v.toInt).forceWatch := by
  rw [tempReading_of_highest hother, State.thermalWarning_of_warned (s := s.readTemp n v n v.toInt) hwarm hth]
  exact State.heeded_of_hottest hfull hforced hhigh

end Full

/-! What is forced (R394). -/

/-- The charge of one running stall at LEAN rates (R389). -/
def State.rechargeOne (s : State) (n : Fin 16) : State :=
  if s.running (fnStall n) then
    s.modStall n fun t => { t with setup := { t.setup with bitsLean := (s.chargedSetup n t.setup).bitsLean } }
  else s

theorem State.rechargeOne_withPower (s : State) (p : Power) (n : Fin 16) :
    State.rechargeOne { s with power := p } n = { s.rechargeOne n with power := p } := by
  have hrun : State.running { s with power := p } (fnStall n) = s.running (fnStall n) := rfl
  unfold State.rechargeOne
  rw [hrun]
  split
  · rfl
  · rfl

/-- The charges at LEAN rates do not depend on the power manager's state (R389). -/
theorem State.recharge_withPower (s : State) (p : Power) :
    State.recharge { s with power := p } = { s.recharge with power := p } := by
  have hfold (l : List (Fin 16)) :
      l.foldl State.rechargeOne { s with power := p } = { l.foldl State.rechargeOne s with power := p } :=
    foldl_eq_map (f := State.rechargeOne) (g := State.rechargeOne) (fun u : State => { u with power := p })
      (fun u n => u.rechargeOne_withPower p n) l rfl
  exact hfold (List.finRange 16)

theorem State.recharge_eq (s : State) : ∃ stalls, s.recharge = { s with stalls := stalls } := by
  have hframe := s.recharge_recharged.frame
  generalize s.recharge = r at hframe ⊢
  exact ⟨r.stalls, by rw [← hframe]⟩

/-- Where the charges fit LEAN, no stall is shed for it (R389). -/
theorem State.shedForLean_of_fits (h : s.leanFits = true) : s.shedForLean = s := by
  refine foldl_eq_self fun n _ => if_neg ?_
  rw [h]
  simp

/-- LEAN is forced where the charges fit it (R389, R394). -/
theorem State.forceLean_of_fits (h : s.recharge.leanFits = true) : s.forceLean =
    (((s.recharge.modPower fun p => { p with forced := true }).toll 253).attention 3).beginChange .lean := by
  unfold State.forceLean
  generalize s.recharge = r at h ⊢
  have hfits : (((r.modPower fun p => { p with forced := true }).toll 253).attention 3).leanFits = true := by
    rw [State.attention_eq rfl rfl]
    exact h
  rw [State.shedForLean_of_fits hfits]

/-- LEAN is forced where the charges fit it (R389, R394): what stands besides the charges, and the change that is due. -/
theorem State.forceLean_eq (p : Power) (h : s.recharge.leanFits = true) : State.forceLean { s with power := p } = { s.recharge with
    power := { p with forced := true, change := if p.regime = .lean then none else some .lean }
    tollDue := (s.toll 253).tollDue, status := (s.attention 3).status, ev := (s.attention 3).ev
    dram := { s.dram with subs := State.subsAsked { s with power := p } .lean } } := by
  have hrecharge := s.recharge_withPower p
  have hfits : (State.recharge { s with power := p }).leanFits = true := by
    rw [hrecharge]
    generalize s.recharge = r at h ⊢
    exact h
  obtain ⟨stalls, hcharged⟩ := s.recharge_eq
  rw [State.forceLean_of_fits hfits, hrecharge, hcharged]
  have hattention := State.attention_eq (s := s)
    (t := ({ s with stalls := stalls, power := { p with forced := true } } : State).toll 253) rfl rfl 3
  refine (congrArg (State.beginChange · .lean) hattention).trans ?_
  rw [State.beginChange_eq]
  rfl

theorem State.forceWatch_eq (p : Power) : State.forceWatch { s with power := p } = { s with
    power := { p with forced := true, watchForced := true, watchAt := some s.now }
    tollDue := (s.toll 254).tollDue, status := (s.attention 3).status, ev := (s.attention 3).ev } := by
  unfold State.forceWatch
  refine (State.attention_eq (s := s) ?_ ?_ 3).trans ?_
  · rfl
  · rfl
  · rfl

/-- The subchannels that a change from a regime other than WATCH sends to sleep (R270). -/
theorem State.subsAsked_awake (p : Power) (r : Regime) (hregime : p.regime = s.power.regime) (hwatch : s.power.regime ≠ .watch)
    (c : Fin 8) : (State.subsAsked { s with power := p } r)[c] = if s.power.regime ≠ r ∧ (s.dram.subs[c]).sr = .active
      then { (s.dram.subs[c]).closeRows (fun _ => true) with sr := .entering false } else s.dram.subs[c] := by
  refine (State.subsAsked_get _ r c).trans ?_
  simp only [hregime, hwatch, ne_eq, not_false_eq_true, true_and]

/-- The power manager after a reading that is above every other (R394). -/
def State.readPower (s : State) (n : Fin 12) (v : BitVec 16) (th : Bool) : Power :=
  { s.power with
    temps := s.power.temps.set n.val (some v.toInt) n.isLt, tj := v.toInt, sensor := n.val, thermal := th
    coolSince := if v.toInt < 110 * 128 then some (s.power.coolSince.getD s.now) else none }

theorem State.readTemp_of_warned (n : Fin 12) (v : BitVec 16) (hth : s.power.thermal = true) :
    s.readTemp n v n v.toInt = { s with power := s.readPower n v true } :=
  congrArg (fun th => { s with power := s.readPower n v th }) hth

/-- The recovery, once TJ has stayed below 110 °C for 10 s (R394). -/
theorem thermalRecovery_of_due {c : Nat} (hc : s.power.coolSince = some c) (hdue : c + 400000000000 < s.now + s.tickLen)
    (hforced : s.power.forced = true) (hregime : s.power.regime ≠ .watch) (hwatch : s.power.watchAt = none) :
    thermalRecovery s = ({ s with power := { s.power with forced := false } } : State).beginChange s.requested := by
  have hgoes : (s.power.forced && s.power.regime != .watch && s.power.watchAt.isNone && s.reached (c + 400000000000)) = true := by
    rw [hforced, hwatch, State.reached_iff.2 hdue, bne_iff_ne.2 hregime]
    rfl
  rw [thermalRecovery, hc]
  exact (if_pos hgoes).trans (if_neg Bool.false_ne_true)

theorem thermalRecovery_of_early {c : Nat} (hc : s.power.coolSince = some c) (hearly : s.now + s.tickLen ≤ c + 400000000000) :
    thermalRecovery s = s := by
  have hstays : ¬(s.power.forced && s.power.regime != .watch && s.power.watchAt.isNone && s.reached (c + 400000000000)) = true := by
    rw [State.not_reached_iff.2 hearly, Bool.and_false]
    exact Bool.false_ne_true
  rw [thermalRecovery, hc]
  exact if_neg hstays

end Sys2Proof.Machine

/-- Settles O50: TJ and its sensor, then a reading by how high it is, and the recovery. -/
theorem temperatureIsWatched : Obligations.TemperatureIsWatched := by
  unfold Obligations.TemperatureIsWatched
  intro s sleeps
  refine ⟨fun n v => ⟨_, rfl, tempReading_heat n v s⟩, fun n v hfull hat hforced hchange hwatch hother => ?readings,
    fun c hc => ?recovers⟩
  case readings =>
    intro warn read
    have hawake : s.power.regime ≠ .watch := by rw [hfull]; decide
    refine ⟨fun hcool hlow => congrArg Host.Outcome.next (tempReading_cool hother hfull hcool hlow),
      fun hwarm hlow hth => congrArg Host.Outcome.next (tempReading_warm hother hfull hwarm hlow hth),
      fun hlow hhigh hwarn hth hfits => ?_, fun hhigh hwarn hth => ?_⟩
    · have hwarm : warn * 128 ≤ v.toInt := by omega
      have hhot := tempReading_hot hother hfull hforced hwarm hth hlow hhigh
      rw [State.readTemp_of_warned n v hth, State.forceLean_eq _ hfits] at hhot
      have hchange : (if (s.readPower n v true).regime = .lean then none else some Regime.lean) = some .lean :=
        if_neg fun h => Regime.noConfusion (hfull.symm.trans h)
      obtain ⟨stalls, hcharged⟩ := s.recharge_eq
      rw [hchange, hcharged] at hhot
      refine ⟨_, congrArg Host.Outcome.next hhot, s.subsAsked_awake _ .lean rfl hawake, ?_, rfl, rfl, rfl⟩
      rw [hcharged]
    · have hwarm : warn * 128 ≤ v.toInt := by omega
      have hhottest := tempReading_hottest hother hfull hwatch hwarm hth hhigh
      rw [State.readTemp_of_warned n v hth, State.forceWatch_eq] at hhottest
      exact ⟨_, congrArg Host.Outcome.next hhottest, rfl, rfl, rfl, rfl⟩
  case recovers =>
    refine ⟨fun hearly => congrArg Host.Outcome.next (thermalRecovery_of_early hc hearly), fun hdue hforced hregime hwatch => ?_⟩
    have hdone := thermalRecovery_of_due hc hdue hforced hregime hwatch
    rw [State.beginChange_eq] at hdone
    exact ⟨_, congrArg Host.Outcome.next hdone, s.subsAsked_awake _ s.requested rfl hregime, rfl⟩

end

/-! ## Rails and brown-outs (18_power R382 to R384, 19_tolls R396) -/

section

open Sys2Proof Sys2Proof.Machine

namespace Sys2Proof.Machine

variable {s : State}

/-! The rail sequence (R383). -/

/-- From a rail on, the first that is not in regulation is enabled and waited for (R383). -/
theorem State.raiseFrom_of_first {n : Nat} {j : Fin 6} (hn : n ≤ j.val)
    (hlow : ∀ i : Fin 6, n ≤ i.val → i < j → s.regulated i = true) (hj : s.regulated j = false) :
    s.raiseFrom n = s.modPower fun p => { p with pen := p.pen.set j.val true j.isLt, waiting := some (j, s.now) } := by
  have hfind : ((List.finRange 6).find? fun k => decide (n ≤ k.val) && !s.regulated k) = some j := by
    refine List.find?_eq_some_iff_getElem.mpr ⟨by simp [hj, hn], j.val, by simp, by simp, fun k hk => ?_⟩
    have hk6 := hk.trans j.isLt
    have hbelow : k < n ∨ s.regulated ⟨k, hk6⟩ = true :=
      (Nat.lt_or_ge k n).imp id fun hnk => hlow ⟨k, hk6⟩ hnk hk
    simpa using hbelow
  rw [State.raiseFrom, hfind]
  rfl

/-- With every rail from there on in regulation, the rails are up (R383). -/
theorem State.raiseFrom_of_none {n : Nat} (h : ∀ i : Fin 6, n ≤ i.val → s.regulated i = true) :
    s.raiseFrom n = s.modPower fun p => { p with waiting := none, railsUp := true } := by
  have hfind : ((List.finRange 6).find? fun k => decide (n ≤ k.val) && !s.regulated k) = none := by
    refine List.find?_eq_none.2 fun k _ => ?_
    simpa using h k
  rw [State.raiseFrom, hfind]

theorem State.undoTimeout_of_none (h : s.ev.railOut = none) : s.undoTimeout = s := by rw [State.undoTimeout, h]

/-- What settles is what stands once the timeout of the present tick is undone. -/
theorem railSettled_congr {t : State} (h : t.undoTimeout = s.undoTimeout) : railSettled t = railSettled s := by
  simp only [railSettled, h]

section Waiting

variable {k : Fin 6} {t0 : Nat} (hwait : s.power.waiting = some (k, t0))

include hwait

theorem railSettled_of_waiting (hout : s.ev.railOut = none) :
    railSettled s = if s.reached (t0 + 40000000) && !s.strays k then s.raiseFrom (k + 1) else s := by
  rw [railSettled, State.undoTimeout_of_none hout, hwait]
  rfl

/-- The state in which a rail has not come into regulation in time (R383). -/
def State.railLost (s : State) (k : Fin 6) : State := { s with
  ev := { s.ev with railOut := some (s.power.pen, s.power.waiting, s.power.railsUp, s.power.failCh) }
  power := { s.power with
    pen := Vector.replicate 6 false, waiting := none, railsUp := false, failCh := k, retryAt := some (s.now + 40000000000) } }

theorem railTimeout_of_waiting :
    railTimeout s = if s.reached (t0 + 800000000) && !s.reachedWindow k t0 then (s.railLost k).toll 252 else s := by
  unfold railTimeout
  split
  next j t h =>
    obtain ⟨rfl, rfl⟩ := Prod.mk.inj (Option.some.inj (hwait.symm.trans h))
    rfl
  next h => exact nomatch hwait.symm.trans h

end Waiting

/-- A count that is the tick's first is taken back (R396). -/
theorem State.untoll_toll (h : s.tollDue = []) (i : Nat) : ((s.toll i).untoll i).tollDue = [] := by
  simp [State.toll, State.untoll, h, Sparse.set, Sparse.cell, Sparse.get]

/-- A rail that settles in the tick of its timeout wins (00_scope, wording). -/
theorem State.undoTimeout_railLost (hout : s.ev.railOut = none) (hretry : s.power.retryAt = none) (htolls : s.tollDue = [])
    (k : Fin 6) : ((s.railLost k).toll 252).undoTimeout = s := by
  have hdue : ((s.toll 252).untoll 252).tollDue = s.tollDue := (State.untoll_toll htolls 252).trans htolls.symm
  have hundone : ((s.railLost k).toll 252).undoTimeout = { s with
      tollDue := ((s.toll 252).untoll 252).tollDue, power := { s.power with retryAt := none }
      ev := { s.ev with railOut := none } } := rfl
  rw [hundone, hdue, ← hretry, ← hout]

section Again

variable {at_ : Nat}

/-- A time that has not come, or RESET_N that is asserted (R383, R384). -/
theorem again_not_yet (h : s.now + s.tickLen ≤ at_ ∨ s.power.resetN = true) : ¬(s.reached at_ && !s.power.resetN) = true := by
  rcases h with h | h
  · rw [State.not_reached_iff.2 h]
    exact Bool.false_ne_true
  · simp [h]

theorem again_now (hdue : at_ < s.now + s.tickLen) (hreset : s.power.resetN = false) : (s.reached at_ && !s.power.resetN) = true := by
  rw [State.reached_iff.2 hdue, hreset]
  rfl

theorem sequenceRetry_of_failed (hat : s.power.retryAt = some at_) : sequenceRetry s =
    if s.reached at_ && !s.power.resetN then (s.modPower fun p => { p with store := none }).beginSequence else s := by
  rw [sequenceRetry, hat]

theorem brownOutRestart_of_held (hat : s.power.holdEnd = some at_) : brownOutRestart s =
    if s.reached at_ && !s.power.resetN then (s.modImage fun x => { x with released := s.now }).beginSequence else s := by
  rw [brownOutRestart, hat]

end Again

/-! A brown-out (R384, R396, R430). -/

/-- A Mint that stops changes the Mints and the references alone (R430). -/
theorem State.stopMint_eq (s : State) (m : Fin 5) : ∃ mints refs, s.stopMint m = { s with mints := mints, refs := refs } ∧
    ∀ j : Fin 5, j = m ∨ (s.mints[j]).mode = .stopped → (mints[j]).mode = .stopped := by
  have hmode (j : Fin 5) (hj : j = m ∨ (s.mints[j]).mode = .stopped) : ((updAt s.mints m fun x =>
      { x with mode := .stopped, settled := false, dco := s.dcoNow m, gatedPower := true })[j]).mode = .stopped := by
    rw [updAt_get]
    split
    · rfl
    next hne => exact hj.resolve_left fun e => hne e.symm
  unfold State.stopMint State.endHold
  split
  · exact ⟨_, _, rfl, hmode⟩
  · exact ⟨_, _, rfl, hmode⟩

theorem State.foldl_stopMint_eq (l : List (Fin 5)) (s : State) :
    ∃ mints refs, l.foldl State.stopMint s = { s with mints := mints, refs := refs } ∧
      ∀ j : Fin 5, j ∈ l ∨ (s.mints[j]).mode = .stopped → (mints[j]).mode = .stopped := by
  induction l generalizing s with
  | nil => exact ⟨_, _, rfl, fun j hj => hj.resolve_left List.not_mem_nil⟩
  | cons m l ih =>
    obtain ⟨mints, refs, hstop, hmode⟩ := s.stopMint_eq m
    obtain ⟨mints', refs', hrest, hmode'⟩ := ih { s with mints := mints, refs := refs }
    refine ⟨mints', refs', ?_, fun j hj => hmode' j ?_⟩
    · rw [List.foldl_cons, hstop, hrest]
    · rcases hj with hj | hj
      · exact (List.mem_cons.1 hj).elim (fun e => .inr (hmode j (.inl e))) .inl
      · exact .inr (hmode j (.inr hj))

/-- Every Mint stops, and nothing else changes but the references (R430). -/
theorem State.stopMints_eq (s : State) : ∃ mints refs, s.stopMints = { s with mints := mints, refs := refs } ∧
    ∀ j : Fin 5, (mints[j]).mode = .stopped := by
  obtain ⟨mints, refs, hstop, hmode⟩ := State.foldl_stopMint_eq (List.finRange 5) s
  exact ⟨mints, refs, hstop, fun j => hmode j (.inl (List.mem_finRange j))⟩

/-- A relock leaves a Mint that has stopped alone (R61, R66). -/
theorem Mint.relocked_of_stopped {x : Mint} (h : x.mode = .stopped) (ok : Bool) (now : Nat) (m : Fin 5) :
    (x.relocked ok now m).mode = .stopped := by
  cases ok with
  | false => exact (Mint.relocked_mode_of_not_ok ..).trans h
  | true => exact (Mint.relocked_mode_of_ok ..).trans (if_pos h)

/-- RESET_N leaves Mints that have stopped alone (R396, R430). -/
theorem State.resetAll_stopped (s : State) : ∃ mints refs, s.resetAll = { s.outlives with mints := mints, refs := refs } ∧
    ∀ j : Fin 5, (s.mints[j]).mode = .stopped → (mints[j]).mode = .stopped := by
  unfold State.resetAll
  dsimp only
  split
  · rw [State.relock_eq]
    refine ⟨_, _, rfl, fun j hj => ?_⟩
    have hstays : ((s.outlives.mints[j]).relocked s.outlives.selectedOk s.outlives.now j).mode = .stopped :=
      Mint.relocked_of_stopped hj ..
    simpa using hstays
  · exact ⟨_, _, rfl, fun _ hj => hj⟩

/-- The restart keeps tolls and log, and leaves Mints that have stopped alone (R384, R396). -/
theorem State.restart_eq (s : State) : ∃ mints refs, s.restart = { s.outlives with
    mints := mints, refs := refs, tolls := s.tolls, tollDue := s.tollDue, log := s.log } ∧
      ∀ j : Fin 5, (s.mints[j]).mode = .stopped → (mints[j]).mode = .stopped := by
  obtain ⟨mints, refs, hreset, hmode⟩ := s.resetAll_stopped
  refine ⟨mints, refs, ?_, hmode⟩
  rw [State.restart, hreset]

/-- What outlives a reset depends on the Mints and the references in themselves alone (R371, R377). -/
theorem State.outlives_withMints (s : State) (mints : Vector Mint 5) (refs : Refs) :
    State.outlives { s with mints := mints, refs := refs } =
      { s.outlives with mints := mints, refs := { refs with chronHi := 0, chronEra := 0 } } := by
  have hflash : (State.interruptFlash { s with mints := mints, refs := refs }).image = s.interruptFlash.image := by
    unfold State.interruptFlash
    cases h : s.image.op with
    | none => rfl
    | some op =>
      dsimp only
      split
      · rfl
      · rfl
  exact congrArg (fun x : Image => { s.outlives with
    mints := mints, refs := { refs with chronHi := 0, chronEra := 0 }, image := x.outlives }) hflash

/-- What a brown-out leaves (R384, R396, R430). -/
theorem brownOut_of_due (hdue : s.railsDue = true) : ∃ mints refs,
    brownOut s = ({ s.outlives with
      mints := mints, refs := refs, tolls := s.tolls, tollDue := s.tollDue, log := s.log
      hall := { s.outlives.hall with mem := [], bad := [], latent := [] }
      power := { s.outlives.power with
        pen := (Vector.replicate 6 false).set 3 s.power.pen[railVddq], railsUp := false, waiting := none, retryAt := none
        holdEnd := some (s.now + 40000000000) } } : State).toll 252 ∧
    ∀ j : Fin 5, (mints[j]).mode = .stopped := by
  obtain ⟨mints, refs, hstop, hmode⟩ := s.stopMints_eq
  obtain ⟨mints', refs', hrestart, hkept⟩ := s.stopMints.restart_eq
  have hno : ¬(!s.railsDue) = true := by simp [hdue]
  refine ⟨mints', refs', ?_, fun j => hkept j ?_⟩
  · refine (if_neg hno).trans ?_
    rw [hrestart, hstop, State.outlives_withMints]
    rfl
  · rw [hstop]
    exact hmode j

theorem brownOut_of_not_due (h : s.railsDue = false) : brownOut s = s := if_pos (by simp [h])

end Sys2Proof.Machine

/-- Settles O48: a rail that is waited for, the sequence's retry, a brown-out and its restart. -/
theorem railsAndBrownOuts : Obligations.RailsAndBrownOuts := by
  unfold Obligations.RailsAndBrownOuts
  refine ⟨fun s => ⟨fun k t0 hwait hout => ?waits, fun at_ hat => ⟨fun h => ?held, fun hdue hreset j hlow hj => ?retries⟩⟩,
    fun s => ⟨fun hdue => ?brownOut, fun h => congrArg Host.Outcome.next (brownOut_of_not_due h), fun at_ hat =>
      ⟨fun h => ?stays, fun j hdue hreset hlow hj => ?restarts⟩⟩⟩
  case waits =>
    have hsettled := railSettled_of_waiting hwait hout
    have htimeout := railTimeout_of_waiting hwait
    refine ⟨fun hearly => ⟨?_, ?_⟩, fun _ hstrays => ?_, fun hdue hstays => ⟨fun j hkj hlow hj => ?_, fun hall => ?_⟩,
      fun hwindow => ?_, fun hdue hwindow => ?_⟩
    · refine congrArg Host.Outcome.next (hsettled.trans (if_neg ?_))
      simp [State.not_reached_iff.2 hearly]
    · have hearly' : s.now + s.tickLen ≤ t0 + 800000000 := by omega
      refine congrArg Host.Outcome.next (htimeout.trans (if_neg ?_))
      simp [State.not_reached_iff.2 hearly']
    · refine congrArg Host.Outcome.next (hsettled.trans (if_neg ?_))
      simp [hstrays]
    · refine congrArg Host.Outcome.next (hsettled.trans ((if_pos ?_).trans (State.raiseFrom_of_first hkj hlow hj)))
      simp [State.reached_iff.2 hdue, hstays]
    · refine congrArg Host.Outcome.next (hsettled.trans ((if_pos ?_).trans (State.raiseFrom_of_none hall)))
      simp [State.reached_iff.2 hdue, hstays]
    · refine congrArg Host.Outcome.next (htimeout.trans (if_neg ?_))
      simp [hwindow]
    · refine ⟨congrArg Host.Outcome.next (htimeout.trans (if_pos ?_)), fun hretry htolls => congrArg Host.Outcome.next ?_⟩
      · simp [State.reached_iff.2 hdue, hwindow]
      · exact railSettled_congr ((State.undoTimeout_railLost hout hretry htolls k).trans (State.undoTimeout_of_none hout).symm)
  case held => exact congrArg Host.Outcome.next ((sequenceRetry_of_failed hat).trans (if_neg (again_not_yet h)))
  case retries =>
    refine congrArg Host.Outcome.next ((sequenceRetry_of_failed hat).trans ((if_pos (again_now hdue hreset)).trans ?_))
    exact State.beginSequence_of_first (s := s.modPower fun p => { p with store := none }) hlow hj
  case brownOut =>
    obtain ⟨mints, refs, heq, hmode⟩ := brownOut_of_due hdue
    refine ⟨_, congrArg Host.Outcome.next heq, rfl, rfl, rfl, rfl, rfl, rfl, rfl, rfl, rfl, s.interruptFlash_otp, rfl,
      fun hop => ?_, hmode⟩
    exact congrArg (·.image.flash) (State.interruptFlash_eq_self hop)
  case stays => exact congrArg Host.Outcome.next ((brownOutRestart_of_held hat).trans (if_neg (again_not_yet h)))
  case restarts =>
    refine congrArg Host.Outcome.next ((brownOutRestart_of_held hat).trans ((if_pos (again_now hdue hreset)).trans ?_))
    exact State.beginSequence_of_first (s := s.modImage fun x => { x with released := s.now }) hlow hj

end

/-! ## Regulators and the core voltage (18_power R385, R386) -/

section

open Sys2Proof Sys2Proof.Machine

namespace Sys2Proof.Machine

variable {s : State}

/-- What is written over a value that is not the default stands in its place, in whatever order the keys stand. -/
theorem Sparse.set_set_same_of_ne {α : Type} [DecidableEq α] {d : Nat → α} {k : Nat} {v : α} (hv : v ≠ d k) (w : α)
    (m : List (Nat × α)) : Sparse.set d (Sparse.set d m k v) k w = Sparse.set d m k w := by
  have hcell : Sparse.cell d k v = [(k, v)] := if_neg hv
  induction m with
  | nil => simp [Sparse.set, hcell]
  | cons c m ih =>
    obtain ⟨j, u⟩ := c
    rw [Sparse.set, Sparse.set]
    split
    next h => simp [Sparse.set, hcell]
    next h =>
      split
      next => simp [Sparse.set, hcell]
      next hne => rw [Sparse.set, if_neg h, if_neg hne, ih]

/-- Counts of one toll in a tick add up (R396). -/
theorem State.toll_toll (s : State) (i n m : Nat) (hn : n ≠ 0) : (s.toll i n).toll i m = s.toll i (n + m) := by
  have hne : Sparse.get (fun _ => 0) s.tollDue i + n ≠ 0 := by omega
  unfold State.toll
  rw [Sparse.get_set_same_of_ne hne, Sparse.set_set_same_of_ne hne, Nat.add_assoc]

/-- The status after attention depends on the status and on what an acknowledgement has cleared (R343, R344). -/
theorem State.attention_status_congr {t : State} (hstatus : t.status = s.status) (hacked : t.ev.acked = s.ev.acked) (l : Nat) :
    (t.attention l).status = (s.attention l).status := by
  simp only [State.attention, State.unack, hacked]
  split <;> simp only [hstatus]

/-! The STATUS_WORDs. -/

theorem statusFaulty_iff (w : BitVec 16) : statusFaulty w = true ↔ 2 ≤ w.toNat := by
  unfold statusFaulty
  rw [bne_iff_ne, ne_eq, ← BitVec.toNat_inj, BitVec.toNat_ushiftRight, Nat.shiftRight_eq_div_pow]
  have hhalf : ¬w.toNat / 2 ^ 1 = 0 ↔ 2 ≤ w.toNat := by omega
  exact hhalf

theorem State.readStatus_of_none (h : ∀ k : Fin 6, s.pmAddressed k = false) (words : Vector (Option (BitVec 16)) 6) :
    s.readStatus words = s :=
  foldl_eq_self fun k _ => if_neg (by simp [h k])

theorem State.regulatorFault_of_none (h : ∀ k : Fin 6, s.pmAddressed k = false) (words : Vector (Option (BitVec 16)) 6) :
    s.regulatorFault words = false := by
  simp [State.regulatorFault, h]

section OneChannel

variable {c : Fin 6} (hc : s.pmAddressed c = true) (hother : ∀ k : Fin 6, k ≠ c → s.pmAddressed k = false)

include hc hother

/-- Of what is done for every channel that is addressed, what is done for the one. -/
theorem State.foldl_oneChannel {f : State → Fin 6 → State} {t : State} (hf : f s c = t)
    (hkeep : ∀ k, t.pmAddressed k = s.pmAddressed k) :
    (List.finRange 6).foldl (fun s k => if s.pmAddressed k then f s k else s) s = t := by
  refine foldl_of_one (List.nodup_finRange 6) (List.mem_finRange c) ((if_pos hc).trans hf)
    (fun j hj => if_neg ?_) fun j hj => if_neg ?_
  · simp [hother j hj]
  · simp [hkeep, hother j hj]

theorem State.readStatus_of_one_some {words : Vector (Option (BitVec 16)) 6} {w : BitVec 16} (hw : words[c] = some w) :
    s.readStatus words = s.modPower fun p => { p with channels := updAt p.channels c fun x => (w, x.2) } :=
  State.foldl_oneChannel hc hother (by rw [hw]) fun _ => rfl

theorem State.readStatus_of_one_none {words : Vector (Option (BitVec 16)) 6} (hw : words[c] = none) :
    s.readStatus words = s.toll 252 :=
  State.foldl_oneChannel hc hother (by rw [hw]) fun _ => rfl

theorem State.regulatorFault_of_one (words : Vector (Option (BitVec 16)) 6) :
    s.regulatorFault words = match words[c] with | some w => statusFaulty w | none => false := by
  refine Bool.eq_iff_iff.2 ⟨fun h => ?_, fun h => List.any_eq_true.2 ⟨c, List.mem_finRange c, ?_⟩⟩
  · obtain ⟨k, -, hk⟩ := List.any_eq_true.1 h
    obtain ⟨haddressed, hfault⟩ := Bool.and_eq_true_iff.1 hk
    by_cases hkc : k = c
    · rw [← hkc]
      exact hfault
    · exact absurd ((hother k hkc).symm.trans haddressed) Bool.false_ne_true
  · rw [hc, Bool.true_and]
    exact h

end OneChannel

/-! An alert and a poll (R385). -/

/-- A fault is reported whatever else the power manager holds (R385). -/
theorem State.reported_withPower (s : State) (p : Power) :
    (((({ s with power := p } : State).toll 252).setSticky R.PWR_STAT.base (F.PWR_STAT_FAULT.put 1)).attention 3).modPower
        (fun p => { p with alertSeen := true }) = { s with
      power := { p with alertSeen := true }, tollDue := (s.toll 252).tollDue
      sticky := (s.setSticky R.PWR_STAT.base (F.PWR_STAT_FAULT.put 1)).sticky
      status := ((s.setSticky R.PWR_STAT.base (F.PWR_STAT_FAULT.put 1)).attention 3).status
      ev := ((s.setSticky R.PWR_STAT.base (F.PWR_STAT_FAULT.put 1)).attention 3).ev } := by
  have hattention := State.attention_eq (s := s.setSticky R.PWR_STAT.base (F.PWR_STAT_FAULT.put 1))
    (t := (({ s with power := p } : State).toll 252).setSticky R.PWR_STAT.base (F.PWR_STAT_FAULT.put 1)) rfl rfl 3
  rw [hattention]
  rfl

/-- A fault that a channel reports (R385). -/
theorem pmAlert_of_fault {c : Fin 6} {words : Vector (Option (BitVec 16)) 6} {w : BitVec 16} (hc : s.pmAddressed c = true)
    (hother : ∀ k : Fin 6, k ≠ c → s.pmAddressed k = false) (hw : words[c] = some w) (hfault : 2 ≤ w.toNat) :
    pmAlert words s = { s with
      power := { s.power with channels := updAt s.power.channels c fun x => (w, x.2), alertSeen := true }
      tollDue := (s.toll 252).tollDue, sticky := (s.setSticky R.PWR_STAT.base (F.PWR_STAT_FAULT.put 1)).sticky
      status := (s.attention 3).status, ev := ((s.setSticky R.PWR_STAT.base (F.PWR_STAT_FAULT.put 1)).attention 3).ev } := by
  have hread := State.readStatus_of_one_some hc hother hw
  have hfaulty : ((s.readStatus words).modPower fun p => { p with alertSeen := false }).regulatorFault words = true := by
    rw [hread]
    refine (State.regulatorFault_of_one (c := c) ?_ ?_ words).trans ?_
    · exact hc
    · exact hother
    · rw [hw]
      exact (statusFaulty_iff w).2 hfault
  have hstatus : ((s.setSticky R.PWR_STAT.base (F.PWR_STAT_FAULT.put 1)).attention 3).status = (s.attention 3).status :=
    State.attention_status_congr (s := s) (t := s.setSticky R.PWR_STAT.base (F.PWR_STAT_FAULT.put 1)) rfl rfl 3
  rw [pmAlert, State.faultReported, if_pos hfaulty, hread, ← hstatus]
  exact State.reported_withPower s _

theorem pmAlert_of_none (h : ∀ k : Fin 6, s.pmAddressed k = false) (words : Vector (Option (BitVec 16)) 6) :
    pmAlert words s = s.modPower fun p => { p with alertSeen := false } := by
  have hnone : (s.modPower fun p => { p with alertSeen := false }).regulatorFault words = false := State.regulatorFault_of_none h words
  rw [pmAlert, State.readStatus_of_none h, State.faultReported, hnone]
  rfl

/-- What a poll leaves that finds no fault (R385). -/
theorem pmbusPoll_of_sound {words : Vector Telemetry 6} {t : State} (ht : (List.finRange 6).foldl (fun s k =>
    if s.pmAddressed k then s.takeReading k words[k] else s) (s.readStatus (words.map (·.status))) = t)
    (hsound : t.regulatorFault (words.map (·.status)) = false) :
    pmbusPoll words s = t.modPower fun p => { p with alertSeen := false } := by
  have hno : ¬t.regulatorFault (words.map (·.status)) = true := by simp [hsound]
  unfold pmbusPoll
  extract_lets status s1 s2
  have hs2 : s2 = t := ht
  rw [hs2, if_neg hno]

theorem pmbusPoll_of_none (h : ∀ k : Fin 6, s.pmAddressed k = false) (words : Vector Telemetry 6) :
    pmbusPoll words s = s.modPower fun p => { p with alertSeen := false } := by
  refine pmbusPoll_of_sound ?_ (State.regulatorFault_of_none h _)
  rw [State.readStatus_of_none h]
  refine foldl_eq_self fun k _ => ?_
  rw [if_neg (by simp [h k])]

/-- A reading as a field shows it draws a free value at most (log entry 42). -/
theorem State.fieldOf_eq (s : State) (w : Nat) (x : Rat) : ∃ y free, s.fieldOf w x = (y, { s with free := free }) := by
  unfold State.fieldOf
  extract_lets i
  split
  · exact ⟨_, _, rfl⟩
  · exact ⟨_, _, rfl⟩

theorem State.tollMany_tollMany (s : State) (i n m : Nat) : (s.tollMany i n).tollMany i m = s.tollMany i (n + m) := by
  by_cases hn : n = 0
  · subst hn
    rw [Nat.zero_add]
    rfl
  · by_cases hm : m = 0
    · subst hm
      rfl
    · have hsum : ¬n + m = 0 := by omega
      simp only [State.tollMany, if_neg hn, if_neg hm, if_neg hsum, s.toll_toll i n m hn]

section Poll

/-- What a transaction that fails twice counts (R385). -/
def missed (w : Option (BitVec 16)) : Nat := w.isNone.toNat

theorem State.takeVout_of_other {c : Fin 6} (hc : c ≠ 0) (w : Option (BitVec 16)) : s.takeVout c w = s.tollMany 252 (missed w) := by
  cases w with
  | none => rfl
  | some v => exact if_neg hc

theorem State.takeIout_eq (s : State) (c : Fin 6) (w : Option (BitVec 16)) : ∃ power free, s.takeIout c w =
    { s.tollMany 252 (missed w) with power := power, free := free } ∧ power.regime = s.power.regime := by
  cases w with
  | none => exact ⟨_, _, rfl, rfl⟩
  | some i =>
    obtain ⟨ma, free, hfield⟩ := s.fieldOf_eq 16 (linear11Milli i)
    refine ⟨{ s.power with channels := updAt s.power.channels c fun x => (x.1, BitVec.ofNat 16 ma) }, free, ?_, rfl⟩
    rw [State.takeIout]
    simp only [hfield]
    rfl

theorem State.readStatus_of_one {c : Fin 6} (hc : s.pmAddressed c = true) (hother : ∀ k : Fin 6, k ≠ c → s.pmAddressed k = false)
    (words : Vector (Option (BitVec 16)) 6) :
    ∃ power, s.readStatus words = { s.tollMany 252 (missed words[c]) with power := power } ∧
      power.regime = s.power.regime := by
  cases hw : words[c] with
  | none => exact ⟨_, State.readStatus_of_one_none hc hother hw, rfl⟩
  | some w => exact ⟨_, State.readStatus_of_one_some hc hother hw, rfl⟩

end Poll

theorem State.pmAddressed_congr {t : State} (hforce : t.force = s.force) (hregime : t.power.regime = s.power.regime) (k : Fin 6) :
    t.pmAddressed k = s.pmAddressed k := by
  simp only [State.pmAddressed, State.val, State.word, hforce, hregime]

theorem State.tollMany_withPower (s : State) (p : Power) (i n : Nat) :
    ({ s with power := p } : State).tollMany i n = { s.tollMany i n with power := p } := by
  unfold State.tollMany
  split <;> rfl

theorem State.tollMany_force (s : State) (i n : Nat) : (s.tollMany i n).force = s.force := by
  unfold State.tollMany
  split <;> rfl

theorem State.tollMany_tollDue (s : State) (i n : Nat) :
    (s.tollMany i n).tollDue = if n = 0 then s.tollDue else (s.toll i n).tollDue := by
  unfold State.tollMany
  split <;> rfl

theorem State.tollMany_frame (s : State) (i n : Nat) :
    { s.tollMany i n with power := s.power, tollDue := s.tollDue, free := s.free } = s := by
  unfold State.tollMany
  split <;> rfl

section OneRead

variable {c : Fin 6} (hc : s.pmAddressed c = true) (hother : ∀ k : Fin 6, k ≠ c → s.pmAddressed k = false)
  {words : Vector Telemetry 6}

include hc hother

/-- A poll of the one channel that is addressed, which reports no fault (R385): its status, then its readings. -/
theorem pmbusPoll_of_one {t u : State} (hstatus : s.readStatus (words.map (·.status)) = t) (hread : t.takeReading c words[c] = u)
    (ht : ∀ k, t.pmAddressed k = s.pmAddressed k) (hu : ∀ k, u.pmAddressed k = s.pmAddressed k)
    (hsound : ∀ w, words[c].status = some w → statusFaulty w = false) :
    pmbusPoll words s = u.modPower fun p => { p with alertSeen := false } := by
  refine pmbusPoll_of_sound (t := u) ?_ ?_
  · rw [hstatus]
    exact State.foldl_oneChannel ((ht c).trans hc) (fun k hk => (ht k).trans (hother k hk)) hread fun k => (hu k).trans (ht k).symm
  · have hword : (words.map (·.status))[c] = words[c].status := Vector.getElem_map ..
    rw [State.regulatorFault_of_one ((hu c).trans hc) fun k hk => (hu k).trans (hother k hk), hword]
    cases h : words[c].status with
    | none => rfl
    | some w => exact hsound w h

/-- What a poll counts of one channel but VCORE's that reports no fault: each transaction that failed twice (R385). -/
theorem pmbusPoll_of_missed (hcore : c ≠ 0) (hsound : ∀ w, words[c].status = some w → statusFaulty w = false) :
    ∃ power free, pmbusPoll words s = { s.tollMany 252 (missed words[c].status + missed words[c].vout + missed words[c].iout) with
      power := power, free := free } := by
  have hword : (words.map (·.status))[c] = words[c].status := Vector.getElem_map ..
  obtain ⟨p1, hstatus, hr1⟩ := State.readStatus_of_one hc hother (words.map (·.status))
  rw [hword] at hstatus
  generalize ht : ({ s.tollMany 252 (missed words[c].status) with power := p1 } : State) = t at hstatus
  have htpower : t.power.regime = s.power.regime := by rw [← ht]; exact hr1
  have htforce : t.force = s.force := by rw [← ht]; exact s.tollMany_force ..
  obtain ⟨p2, free, hiout, hr2⟩ := (t.tollMany 252 (missed words[c].vout)).takeIout_eq c words[c].iout
  rw [State.tollMany_tollMany] at hiout
  have hread : t.takeReading c words[c] =
      { t.tollMany 252 (missed words[c].vout + missed words[c].iout) with power := p2, free := free } := by
    rw [State.takeReading, State.takeVout_of_other hcore, hiout]
  have hpower (n : Nat) : (t.tollMany 252 n).power = t.power := by
    unfold State.tollMany
    split <;> rfl
  have hpoll := pmbusPoll_of_one hc hother hstatus hread (State.pmAddressed_congr htforce htpower)
    (State.pmAddressed_congr ((t.tollMany_force ..).trans htforce)
      ((hr2.trans (congrArg Power.regime (hpower _))).trans htpower)) hsound
  rw [← ht, State.tollMany_withPower, State.tollMany_tollMany, ← Nat.add_assoc] at hpoll
  exact ⟨_, _, hpoll⟩

end OneRead

/-- A current of zero is shown as it is (R385). -/
theorem State.fieldOf_linear11_zero (s : State) : s.fieldOf 16 (linear11Milli 0) = (0, s) := by
  have hzero : linear11Milli 0 = 0 := by
    have hsigned : signed 11 (0 : BitVec 16).toNat = 0 := by decide
    rw [linear11Milli, hsigned, Int.cast_zero, zero_mul, zero_mul]
  have hround : openRound 0 = 0 := rfl
  unfold State.fieldOf
  rw [hzero, hround]
  rfl

/-- A poll that finds a regulator other than VCORE's without a fault and without current (R385). -/
theorem pmbusPoll_of_quiet {c : Fin 6} (hc : s.pmAddressed c = true) (hother : ∀ k : Fin 6, k ≠ c → s.pmAddressed k = false)
    (hcore : c ≠ 0) (v : BitVec 16) : pmbusPoll (Vector.replicate 6 ⟨some 0, some v, some 0⟩) s =
      s.modPower fun p => { p with alertSeen := false, channels := p.channels.set c.val (0, 0) c.isLt } := by
  have hwords : (Vector.replicate 6 (⟨some 0, some v, some 0⟩ : Telemetry))[c] = ⟨some 0, some v, some 0⟩ :=
    Vector.getElem_replicate ..
  have hword : ((Vector.replicate 6 (⟨some 0, some v, some 0⟩ : Telemetry)).map (·.status))[c] = some 0 :=
    (Vector.getElem_map ..).trans (congrArg Telemetry.status hwords)
  have hread (t : State) : t.takeReading c (Vector.replicate 6 (⟨some 0, some v, some 0⟩ : Telemetry))[c] =
      t.modPower fun p => { p with channels := updAt p.channels c fun x => (x.1, 0) } := by
    rw [hwords, State.takeReading, State.takeVout_of_other hcore, State.takeIout]
    simp only [State.fieldOf_linear11_zero]
    rfl
  have hpoll := pmbusPoll_of_one hc hother (State.readStatus_of_one_some hc hother hword) (hread _) (fun _ => rfl) (fun _ => rfl)
    fun w hw => by
      rw [hwords] at hw
      rw [← Option.some.inj hw]
      rfl
  rw [hpoll]
  have hchannels : updAt (updAt s.power.channels c fun x => ((0 : BitVec 16), x.2)) c (fun x => (x.1, 0)) =
      s.power.channels.set c.val (0, 0) c.isLt := updAt_updAt ..
  exact congrArg (fun v => { s with power := { s.power with alertSeen := false, channels := v } }) hchannels

/-! The core voltage (R386). -/

section Core

variable {up : Option Bool} {next : Nat}

/-- What the speed monitors ask for: 5 mV up or down, within 750 to 900 mV (R386). -/
def nextVcore (up : Option Bool) (c : Nat) : Nat :=
  match up with
  | some true => min 900 (c + 5)
  | some false => max 750 (c - 5)
  | none => c

theorem vcoreAdapt_of_stays (h : nextVcore up s.power.vcoreCmd = s.power.vcoreCmd ∨ s.power.pen[0] = false ∨
    s.vcoreHolds (nextVcore up s.power.vcoreCmd) = false) : vcoreAdapt up s = s := by
  refine if_pos ?_
  rcases h with h | h | h
  · rw [Bool.or_eq_true, Bool.or_eq_true]
    exact .inl (.inl (decide_eq_true h))
  · rw [Bool.or_eq_true, Bool.or_eq_true]
    exact .inl (.inr (by rw [h]; rfl))
  · rw [Bool.or_eq_true]
    refine .inr ?_
    exact congrArg (!·) h

theorem vcoreAdapt_of_moves (hpen : s.power.pen[0] = true) (hne : nextVcore up s.power.vcoreCmd ≠ s.power.vcoreCmd)
    (hholds : s.vcoreHolds (nextVcore up s.power.vcoreCmd) = true) : vcoreAdapt up s =
      ({ s with power := { s.power with vcoreCmd := nextVcore up s.power.vcoreCmd, sent := [] } } : State).sendVout
        (nextVcore up s.power.vcoreCmd) := by
  refine if_neg ?_
  rw [Bool.or_eq_true, Bool.or_eq_true]
  rintro ((h | h) | h)
  · exact hne (of_decide_eq_true h)
  · rw [hpen] at h
    exact Bool.false_ne_true h
  · exact Bool.false_ne_true ((congrArg (!·) hholds).symm.trans h)

theorem State.sendVout_of_no_address (h : s.val F.PWR_RG_CFG_ADDR 0 = 0) (mv : Nat) : s.sendVout mv = s := if_pos h

theorem State.sendVout_of_mute (h : s.val F.PWR_RG_CFG_ADDR 0 ≠ 0) (hmute : s.power.mute.getLsbD 0 = true) (mv : Nat) :
    ∃ free, s.sendVout mv = ({ s with free := free } : State).toll 252 := by
  obtain ⟨x, free, hfield⟩ := s.fieldOf_eq 16 ((mv : Rat) / 1000 / (2 : Rat) ^ signed 5 (s.val F.PWR_RG_CFG_EXP 0))
  refine ⟨free, (if_neg h).trans ?_⟩
  simp only [hfield]
  exact (if_neg h).trans (if_pos hmute)

theorem State.sendVout_of_heard (h : s.val F.PWR_RG_CFG_ADDR 0 ≠ 0) (hmute : s.power.mute.getLsbD 0 = false) (mv : Nat) :
    ∃ x free, s.sendVout mv = ({ s with free := free } : State).modPower fun p => { p with
      sent := p.sent ++ [⟨s.val F.PWR_RG_CFG_ADDR 0, s.flag F.PWR_RG_CFG_PEC 0, 0x21, leBytes 2 x⟩] } := by
  obtain ⟨x, free, hfield⟩ := s.fieldOf_eq 16 ((mv : Rat) / 1000 / (2 : Rat) ^ signed 5 (s.val F.PWR_RG_CFG_EXP 0))
  have hheard : ¬s.power.mute.getLsbD 0 = true := Bool.eq_false_iff.1 hmute
  refine ⟨x, free, (if_neg h).trans ?_⟩
  simp only [hfield]
  exact (if_neg h).trans (if_neg hheard)

end Core

end Sys2Proof.Machine

/-- Settles O49: an alert, the polls, and the moves of the core voltage. -/
theorem regulatorsAreWatched : Obligations.RegulatorsAreWatched := by
  unfold Obligations.RegulatorsAreWatched
  intro s
  refine ⟨fun w hc hother hfault => ?alert, fun hnone => ⟨fun w => congrArg Host.Outcome.next (pmAlert_of_none hnone w),
      fun w => congrArg Host.Outcome.next (pmbusPoll_of_none hnone w)⟩,
    fun hc hother => ⟨fun v => congrArg Host.Outcome.next (pmbusPoll_of_quiet hc hother (by decide) v), fun x hx => ?missed⟩,
    congrArg Host.Outcome.next (vcoreAdapt_of_stays (.inl rfl)),
    fun hpen up => congrArg Host.Outcome.next (vcoreAdapt_of_stays (.inr (.inl hpen))), fun up => ?moves⟩
  case alert =>
    have hw : (Vector.replicate 6 (some w))[(0 : Fin 6)] = some w := Vector.getElem_replicate ..
    exact ⟨_, congrArg Host.Outcome.next (pmAlert_of_fault hc hother hw hfault), rfl, rfl, rfl, rfl, rfl, rfl, rfl⟩
  case missed =>
    have hwords : (Vector.replicate 6 x)[(3 : Fin 6)] = x := Vector.getElem_replicate ..
    have hsound (w : BitVec 16) (hw : x.status = some w) : statusFaulty w = false := by
      rcases hx with hx | hx
      · rw [hw] at hx
        cases hx
      · rw [Option.some.inj (hw.symm.trans hx)]
        rfl
    obtain ⟨power, free, hpoll⟩ := pmbusPoll_of_missed hc hother (words := Vector.replicate 6 x) (by decide) (by rwa [hwords])
    rw [hwords] at hpoll
    refine ⟨_, congrArg Host.Outcome.next hpoll, ?_, ?_⟩
    · exact State.tollMany_frame ..
    · exact State.tollMany_tollDue ..
  case moves =>
    intro c next addr
    have hnext : nextVcore (some up) s.power.vcoreCmd = next := by cases up <;> rfl
    refine ⟨fun h => congrArg Host.Outcome.next (vcoreAdapt_of_stays ?_), fun hpen hne hholds => ?_⟩
    · rw [hnext]
      exact h.imp id .inr
    · have hmoves := vcoreAdapt_of_moves (up := some up) hpen (by rwa [hnext]) (by rwa [hnext])
      rw [hnext] at hmoves
      refine ⟨fun haddr => ?_, fun haddr hmute => ?_, fun haddr hmute => ?_⟩
      · exact congrArg Host.Outcome.next (hmoves.trans (State.sendVout_of_no_address
          (s := { s with power := { s.power with vcoreCmd := next, sent := [] } }) haddr next))
      · obtain ⟨free, hsent⟩ := State.sendVout_of_mute
          (s := { s with power := { s.power with vcoreCmd := next, sent := [] } }) haddr hmute next
        exact ⟨_, congrArg Host.Outcome.next (hmoves.trans hsent), rfl, rfl, rfl⟩
      · obtain ⟨x, free, hsent⟩ := State.sendVout_of_heard
          (s := { s with power := { s.power with vcoreCmd := next, sent := [] } }) haddr hmute next
        exact ⟨_, x, congrArg Host.Outcome.next (hmoves.trans hsent), rfl, rfl⟩

end

/-! ## Hop delays (15_crier R316, R319, R320) -/

section

open Sys2Proof Sys2Proof.Machine

namespace Sys2Proof.Machine

variable {s : State}

/-- A good frame of a type, on a port that follows its line, is taken (R314). -/
theorem State.receiveFrame_of_good {p : Fin 4} {type : Nat} {f : CrierFrame} (hsynced : (s.crier.ports[p]).state.synced = true)
    (hgood : f.good = true) (htype : frameType f.w = type) (act : State → State) : s.receiveFrame p type f act = act s := by
  have hs : ¬(!(s.portState p).synced) = true := by
    rw [State.portState, hsynced]
    decide
  have hg : ¬(!f.good) = true := by
    rw [hgood]
    decide
  exact (if_neg hs).trans ((if_neg hg).trans (if_pos htype))

/-- A request waits for the slot of its answer (R319). -/
theorem delayRequest_of_request {p : Fin 4} {f : CrierFrame} (hgood : f.good = true) (htype : frameType f.w = frameDelay)
    (hrequest : frameBits f.w 60 1 = 0) (hsynced : (s.crier.ports[p]).state.synced = true) : delayRequest p f s =
      s.modPortC p fun q => { q with replies := q.replies ++ [(frameBits f.w 48 8, f.arrival)] } := by
  have hno : ¬frameBits f.w 60 1 = 1 := by omega
  exact (State.receiveFrame_of_good hsynced hgood htype _).trans (if_neg hno)

/-- A request of CP0 falls due (R319). -/
theorem delayDue_of_due (hasked : s.crier.asked = none) (hrequest : (s.crier.ports[(0 : Fin 4)]).request = none)
    (hdue : (s.crier.ports[(0 : Fin 4)]).state = .ranging ∨
      ((s.crier.ports[(0 : Fin 4)]).state = .up ∧ s.crier.askAt < s.now + s.tickLen)) : ∃ askAt, delayDue s =
      { s with crier := { s.crier with
        ports := updAt s.crier.ports 0 fun q => { q with request := some s.crier.seq }
        seq := (s.crier.seq + 1) % 256, askAt := askAt } } := by
  have hfree : (s.crier.asked.isNone && (s.crier.ports[(0 : Fin 4)]).request.isNone) = true := by
    rw [hasked, hrequest]
    rfl
  have hnow : (s.portState 0 == .ranging || (s.portState 0 == .up && s.reached s.crier.askAt)) = true := by
    rw [State.portState]
    rcases hdue with h | ⟨h, hat⟩
    · rw [h]
      rfl
    · rw [h, State.reached_iff.2 hat]
      rfl
  exact ⟨_, if_pos (Bool.and_eq_true_iff.2 ⟨hfree, hnow⟩)⟩

section Unanswered

variable {seq d1 : Nat} (hasked : s.crier.asked = some (seq, d1))

include hasked

theorem delayUnanswered_of_asked : delayUnanswered s = if s.reached (d1 / 16 + 16 * 2048) then
    { s.toll 239 with crier := { s.crier with asked := none }, ev := { s.ev with unanswered := some (seq, d1) } } else s := by
  rw [delayUnanswered, hasked]
  rfl

/-- A response to the request outstanding (R319). -/
theorem State.takeResponse_of_asked {f : CrierFrame} (hseq : frameBits f.w 48 8 = seq) :
    s.takeResponse f = (s.modCrier fun c => { c with asked := none }).useResponse f d1 := by
  have hanswered : answered f s.crier.asked = some d1 := by
    rw [hasked]
    simp [answered, hseq]
  unfold State.takeResponse
  rw [hanswered]

end Unanswered

/-- A response to a request whose wait has run out in the same tick (R319; 00_scope, wording). -/
theorem State.takeResponse_of_unanswered {seq d1 : Nat} {f : CrierFrame} (hasked : s.crier.asked = none)
    (hun : s.ev.unanswered = some (seq, d1)) (hseq : frameBits f.w 48 8 = seq) :
    s.takeResponse f = ({ s with ev := { s.ev with unanswered := none } }.untoll 239).useResponse f d1 := by
  have hnone : answered f s.crier.asked = none := by
    rw [hasked]
    rfl
  have hanswered : answered f s.ev.unanswered = some d1 := by
    rw [hun]
    simp [answered, hseq]
  unfold State.takeResponse
  rw [hnone, hanswered]

/-- A good response on CP0 (R319). -/
theorem delayResponse_of_response {f : CrierFrame} (hgood : f.good = true) (htype : frameType f.w = frameDelay)
    (hresponse : frameBits f.w 60 1 = 1) (hsynced : (s.crier.ports[(0 : Fin 4)]).state.synced = true) :
    delayResponse 0 f s = s.takeResponse f := by
  refine (State.receiveFrame_of_good hsynced hgood htype _).trans (if_pos ?_)
  simp [hresponse]

/-! What a sample leaves (R316, R319, R325, R329). -/

/-- The Crier but for what a sample moves: what was asked, the latency that a response carried, and the ports but CP0's. -/
structure Crier.Kept (c d : Crier) : Prop where
  asked : d.asked = c.asked
  accumIn : d.accumIn = c.accumIn
  ports : ∀ r : Fin 4, r ≠ 0 → d.ports[r] = c.ports[r]

theorem Crier.Kept.refl (c : Crier) : c.Kept c := ⟨rfl, rfl, fun _ _ => rfl⟩

theorem Crier.Kept.trans {c d e : Crier} (h : c.Kept d) (k : d.Kept e) : c.Kept e :=
  ⟨k.asked.trans h.asked, k.accumIn.trans h.accumIn, fun r hr => (k.ports r hr).trans (h.ports r hr)⟩

theorem State.judgeLead_kept (s : State) : s.crier.Kept s.judgeLead.crier := by
  unfold State.judgeLead
  extract_lets short s1
  split
  · rw [State.attention_crier]
    exact ⟨rfl, rfl, fun _ _ => rfl⟩
  · exact ⟨rfl, rfl, fun _ _ => rfl⟩

theorem State.portUp_kept (s : State) : s.crier.Kept (s.portUp 0).crier :=
  ⟨rfl, rfl, fun _ hr => updAt_other _ hr.symm _⟩

theorem State.hopSample_kept (s : State) (d : Rat) : s.crier.Kept (s.hopSample d).crier := by
  unfold State.hopSample
  extract_lets c l s1 q
  have hmean : s.crier.Kept { s.crier with hop := meanOf l, samples := [], remean := false, rejected := 0 } :=
    ⟨rfl, rfl, fun _ _ => rfl⟩
  have hs1 : s.crier.Kept s1.crier := hmean.trans (State.judgeLead_kept (s.modCrier fun c => { c with
    hop := meanOf l, samples := [], remean := false, rejected := 0 }))
  split
  · split
    · exact ⟨rfl, rfl, fun _ _ => rfl⟩
    · split
      · exact hs1.trans s1.portUp_kept
      · exact hs1
  · split
    · exact ⟨rfl, rfl, fun _ _ => rfl⟩
    · have hmoved : s.crier.Kept { s.crier with hop := s.crier.hop + (d - s.crier.hop) / 16, rejected := 0 } :=
        ⟨rfl, rfl, fun _ _ => rfl⟩
      exact hmoved.trans (State.judgeLead_kept (s.modCrier fun c => { c with
        hop := c.hop + (d - c.hop) / 16, rejected := 0 }))

theorem State.useResponse_kept (s : State) (f : CrierFrame) (d1 : Nat) :
    ({ s.crier with accumIn := frameBits f.w 0 24 } : Crier).Kept (s.useResponse f d1).crier :=
  (State.judgeLead_kept (s.modCrier fun c => { c with accumIn := frameBits f.w 0 24 })).trans (State.hopSample_kept _ _)

/-- Who is the root is said by registers alone (R311). -/
theorem State.isRoot_congr {t : State} (h : t.force = s.force) : t.isRoot = s.isRoot := by
  simp only [State.isRoot, State.flag, State.val, State.word, h]

section Root

variable (hroot : s.isRoot = true) (hlead : 0 < s.crier.lead) (hlong : 4096 ≤ 32 * s.crier.lead)
  (hshort : s.crier.leadShort = false)

include hroot hlead hlong hshort

/-- At the root a lead of 4,096 mites is long enough (R320, R325, R329). -/
theorem State.judgeLead_of_long : s.judgeLead = s := by
  have hmites : s.accumMites = deviceLatency := if_pos hroot
  have hticks : s.leadTicks = s.crier.lead := if_neg hlead.ne'
  have hfits : decide (((32 * s.leadTicks : Nat) : Rat) < s.accumMites) = false := by
    rw [hmites, hticks]
    refine decide_eq_false (not_lt.2 ?_)
    exact_mod_cast hlong
  have hkept : s.modCrier (fun c => { c with leadShort := false }) = s := by
    rw [← hshort]
    rfl
  rw [State.judgeLead, hfits]
  exact hkept

/-- The first sample in RANGING at the root (R316, R319, R320). -/
theorem State.useResponse_of_first (hranging : (s.crier.ports[(0 : Fin 4)]).state = .ranging) (hsamples : s.crier.samples = [])
    (f : CrierFrame) (d1 : Nat) : s.useResponse f d1 = { s with crier := { s.crier with
      accumIn := frameBits f.w 0 24
      samples := [((f.arrival : Rat) - d1 - frameBits f.w 24 24) / 2 + signed 16 (s.val F.CRY_ASYM_ASYM)] } } := by
  have hjudge := State.judgeLead_of_long (s := s.modCrier fun c => { c with accumIn := frameBits f.w 0 24 }) hroot hlead hlong hshort
  have hfirst (d : Rat) (t : State) (ht : t.portState 0 = .ranging) (hs : t.crier.samples = []) :
      t.hopSample d = t.modCrier fun c => { c with samples := [d] } := by
    unfold State.hopSample
    extract_lets c l
    have hl : l = [d] := congrArg (· ++ [d]) hs
    rw [ht, hl]
    rfl
  rw [State.useResponse, hjudge]
  exact hfirst _ _ hranging hsamples

end Root

end Sys2Proof.Machine

/-- Settles O43: a request, a request that falls due, one without an answer, and the two answers. -/
theorem delaysAreMeasured : Obligations.DelaysAreMeasured := by
  unfold Obligations.DelaysAreMeasured
  intro s
  refine ⟨fun p f hgood htype hrequest hsynced => congrArg Host.Outcome.next (delayRequest_of_request hgood htype hrequest hsynced),
    ?due, fun seq d1 hasked => ⟨fun hdue => ?_, fun hearly => ?_, fun f hgood htype hresponse hseq hsynced =>
      ⟨?taken, fun hranging hsamples hroot hlead hlong hshort => ?first⟩⟩,
    fun seq d1 f hasked hun hgood htype hresponse hseq hroot hranging hsamples hlead hlong hshort => ?late⟩
  case due =>
    intro q hasked hrequest hdue
    obtain ⟨askAt, heq⟩ := delayDue_of_due hasked hrequest hdue
    exact ⟨_, congrArg Host.Outcome.next heq, rfl, congrArg CrierPort.request (updAt_same ..), rfl⟩
  · exact congrArg Host.Outcome.next ((delayUnanswered_of_asked hasked).trans (if_pos (State.reached_iff.2 hdue)))
  · refine congrArg Host.Outcome.next ((delayUnanswered_of_asked hasked).trans (if_neg ?_))
    rw [State.not_reached_iff.2 hearly]
    exact Bool.false_ne_true
  case taken =>
    have heq := (delayResponse_of_response hgood htype hresponse hsynced).trans (State.takeResponse_of_asked hasked hseq)
    obtain ⟨hkept, haccum, hports⟩ := State.useResponse_kept (s.modCrier fun c => { c with asked := none }) f d1
    exact ⟨_, congrArg Host.Outcome.next heq, hkept, haccum, hports⟩
  case first =>
    have heq := (delayResponse_of_response hgood htype hresponse hsynced).trans (State.takeResponse_of_asked hasked hseq)
    exact congrArg Host.Outcome.next (heq.trans (State.useResponse_of_first (s := s.modCrier fun c => { c with asked := none })
      hroot hlead hlong hshort hranging hsamples f d1))
  case late =>
    have hsynced : (s.crier.ports[(0 : Fin 4)]).state.synced = true := by
      rw [hranging]
      rfl
    have heq := (delayResponse_of_response hgood htype hresponse hsynced).trans (State.takeResponse_of_unanswered hasked hun hseq)
    have hkept : ({ s with ev := { s.ev with unanswered := none } }.untoll 239).crier = s.crier := rfl
    have hforce : ({ s with ev := { s.ev with unanswered := none } }.untoll 239).force = s.force := rfl
    have hev : ({ s with ev := { s.ev with unanswered := none } }.untoll 239).ev.unanswered = none := rfl
    have hdue : ({ s with ev := { s.ev with unanswered := none } }.untoll 239).tollDue = (s.untoll 239).tollDue := rfl
    generalize { s with ev := { s.ev with unanswered := none } }.untoll 239 = u at heq hkept hforce hev hdue
    rw [← hkept] at hranging hsamples hlead hlong hshort
    have hfirst := State.useResponse_of_first ((State.isRoot_congr hforce).trans hroot) hlead hlong hshort hranging hsamples f d1
    exact ⟨_, congrArg Host.Outcome.next (heq.trans hfirst), hev, hdue, rfl⟩

end

/-! ## The Signboard's commits, latches and windows (14_signboard R296, R300 to R308) -/

section

open Sys2Proof Sys2Proof.Machine

namespace Sys2Proof.Machine

variable {s t u : State}

/-! Bits of words (R304). -/

theorem ofNat_toNat_div {v : Quad} : BitVec.ofNat 32 (v.toNat / 2 ^ 32) = v.extractLsb' 32 32 := by
  apply BitVec.eq_of_toNat_eq
  simp [Nat.shiftRight_eq_div_pow]

theorem ofNat_toNat_low {v : Quad} : BitVec.ofNat 32 v.toNat = v.extractLsb' 0 32 := by
  apply BitVec.eq_of_toNat_eq
  simp

theorem ofNat_now_64 (s : State) : BitVec.ofNat 64 s.now = s.chron.extractLsb' 0 64 := by
  apply BitVec.eq_of_toNat_eq
  simp [State.now]

/-! The scan of a frame without errors (R297, R303, R307). -/

/-- A Signboard but for the scan of its frame. -/
def Signboard.unscanned (g : Signboard) : Signboard :=
  { g with fetchBase := 0, nextLine := 0, fetchAt := 0, lines := [], crc := 0 }

/-- A scan of words that answer without an error: but for the scan itself, only free values are drawn. -/
structure State.Scans (s t : State) : Prop where
  frame : { t with sign := s.sign, free := s.free } = s
  sign : t.sign.unscanned = s.sign.unscanned

theorem State.Scans.refl (s : State) : s.Scans s := ⟨rfl, rfl⟩

theorem State.Scans.trans (h : s.Scans t) (k : t.Scans u) : s.Scans u :=
  ⟨(congrArg (fun x : State => { x with sign := s.sign, free := s.free }) k.frame).trans h.frame, k.sign.trans h.sign⟩

/-- The state that a scan leaves, written out. -/
theorem State.Scans.eq (h : s.Scans t) : t = { s with sign := t.sign, free := t.free } :=
  congrArg (fun x : State => { x with sign := t.sign, free := t.free }) h.frame

theorem State.planFetch_scans (s : State) : s.Scans s.planFetch := by
  unfold State.planFetch
  split
  · exact .refl s
  · exact ⟨rfl, rfl⟩

/-- No word that line `y` reads answers with an error. -/
def State.LineSound (s : State) (y : Nat) : Prop :=
  s.errorWords (s.mapWordsOf y) = [] ∧ s.errorWords (s.plotWordsOf y) = [] ∧ s.errorWords (s.overlayWordsOf y) = []

theorem State.plotWordsOf_congr {g : Signboard} (n : Nat) (h : g.plot = s.sign.plot) (y : Nat) :
    State.plotWordsOf { s with sign := g, free := n } y = s.plotWordsOf y := by
  unfold State.plotWordsOf
  rw [h]
  rfl

/-- A scan does not change what the lines read. -/
theorem State.Scans.lineSound (h : s.Scans t) {y : Nat} (hy : s.LineSound y) : t.LineSound y := by
  obtain ⟨hmap, hplot, hoverlay⟩ := hy
  have hsame : t.sign.plot = s.sign.plot := (congrArg Signboard.plot h.sign :)
  rw [h.eq]
  refine ⟨hmap, ?_, hoverlay⟩
  rw [State.plotWordsOf_congr _ hsame]
  exact hplot

theorem State.Scans.panelHeight (h : s.Scans t) : t.panelHeight = s.panelHeight := by
  rw [h.eq]
  rfl

/-- The fetch of a line whose words answer without an error. -/
theorem State.fetchLine_of_sound (h : s.LineSound s.sign.nextLine) :
    s.Scans s.fetchLine ∧ s.fetchLine.sign.nextLine = s.sign.nextLine + 1 := by
  obtain ⟨hmap, hplot, hoverlay⟩ := h
  obtain ⟨u, hscan, hnext, heq⟩ : ∃ u : State,
      s.Scans u ∧ u.sign.nextLine = s.sign.nextLine + 1 ∧ s.fetchLine = u.planFetch := by
    have hmap0 : s.fetchWords (s.errorWords (s.mapWordsOf s.sign.nextLine)) = ([], s) := by rw [hmap]; rfl
    have hplot0 : s.fetchWords (s.errorWords (s.plotWordsOf s.sign.nextLine)) = ([], s) := by rw [hplot]; rfl
    have hoverlay0 : s.fetchWords (s.errorWords (s.overlayWordsOf s.sign.nextLine)) = ([], s) := by rw [hoverlay]; rfl
    unfold State.fetchLine
    simp only [hmap0, hplot0, hoverlay0, List.append_nil, List.isEmpty_nil, Bool.not_true, Bool.or_false]
    refine ⟨_, ?_, ?_, rfl⟩
    · exact ⟨rfl, rfl⟩
    · rfl
  rw [heq]
  refine ⟨hscan.trans u.planFetch_scans, Eq.trans ?_ hnext⟩
  unfold State.planFetch
  split
  · rfl
  · rfl

/-- The lines still to be fetched, none of which meets an error. -/
theorem State.fetchLines_of_sound (k : Nat) (hk : s.sign.nextLine + k ≤ s.panelHeight) (h : ∀ y < s.panelHeight, s.LineSound y)
    (l : List Nat) (hl : l.length = k) : s.Scans (l.foldl (fun s _ => s.fetchLine) s) := by
  induction l generalizing s k with
  | nil => exact .refl s
  | cons x l ih =>
    rw [List.length_cons] at hl
    obtain ⟨hscan, hnext⟩ := State.fetchLine_of_sound (h s.sign.nextLine (by omega))
    have hheight := hscan.panelHeight
    refine hscan.trans (ih (k - 1) ?_ ?_ (by omega))
    · omega
    · intro y hy
      exact hscan.lineSound (h y (hheight ▸ hy))

theorem State.fetchRest_of_sound (h : ∀ y < s.panelHeight, s.LineSound y) : s.Scans s.fetchRest := by
  unfold State.fetchRest
  extract_lets left
  split
  · rcases Nat.lt_or_ge s.panelHeight s.sign.nextLine with hover | hunder
    · have hleft : left = 0 := Nat.sub_eq_zero_of_le hover.le
      rw [hleft]
      exact .refl s
    · exact State.fetchLines_of_sound left (by omega) h _ List.length_range
  · exact ⟨rfl, rfl⟩

/-- The CRC-32 over the overlay is computed, or taken as a free value (R307). -/
theorem State.overlayCrc_scans (s : State) : s.Scans s.overlayCrc.2 := by
  unfold State.overlayCrc
  split
  · exact ⟨rfl, rfl⟩
  · exact .refl s

/-! The flip (R304). -/

/-- What a flip moves, and the frame's number. -/
def Signboard.flip (g : Signboard) : List (Fin 5) × Nat × Nat × Quad × Quad :=
  (g.pending, g.frame, g.flipFrame, g.flipChron, g.flipPos)

/-- The scan takes no part in a flip. -/
theorem Signboard.flip_scan (g : Signboard) (base next crc : Nat) (lines : List SignLine) (free err : Bool) :
    Signboard.flip { g with
      fetchBase := base, nextLine := next, lines := lines, crc := crc, crcFree := free, fetchErr := err } = g.flip := rfl

theorem Signboard.flip_of_unscanned {g h : Signboard} (heq : g.unscanned = h.unscanned) : g.flip = h.flip :=
  (congrArg Signboard.flip heq :)

theorem State.captureForce_eq (s : State) (l : List (Nat × Word)) :
    s.captureForce l = { s with force := (s.captureForce l).force } := by
  induction l generalizing s with
  | nil => rfl
  | cons x l ih => exact ih (s.setForce x.1 x.2 (BitVec.allOnes 32))

theorem State.captureForce_force_congr (h : t.force = s.force) (l : List (Nat × Word)) :
    (t.captureForce l).force = (s.captureForce l).force := by
  induction l generalizing s t with
  | nil => exact h
  | cons x l ih =>
    refine ih (t := t.setForce x.1 x.2 (BitVec.allOnes 32)) (s := s.setForce x.1 x.2 (BitVec.allOnes 32)) ?_
    simp only [State.setForce, State.word, h]

/-- With nothing pending there is no flip (R304). -/
theorem State.applyFlip_of_none (h : s.sign.pending = []) : s.applyFlip = s := by
  unfold State.applyFlip
  exact if_pos (by rw [h]; rfl)

/-- What is pending comes into force with the flip's instant (R304, R306). -/
theorem State.applyFlip_of_pending (h : s.sign.pending ≠ []) :
    ∃ g, s.applyFlip = { s with force := (s.captureForce s.sign.pendWords).force, sign := g } ∧
      g.flip = ([], s.sign.frame, s.sign.frame, BitVec.ofNat 64 s.now, s.positionNow) := by
  unfold State.applyFlip
  rw [if_neg (by simpa using h)]
  rw [State.captureForce_eq]
  extract_lets s1 s2 map overlay s3
  have hs2 : s2.sign.flip = ([], s.sign.frame, s.sign.frame, BitVec.ofNat 64 s.now, s.positionNow) := rfl
  have hs3 : ∃ g, s3 = { s2 with sign := g } ∧ g.flip = s2.sign.flip := by
    unfold s3
    split
    · exact ⟨_, rfl, rfl⟩
    · exact ⟨_, rfl, rfl⟩
  obtain ⟨g, heq, hflip⟩ := hs3
  rw [heq]
  split
  · exact ⟨_, rfl, hflip.trans hs2⟩
  · exact ⟨g, rfl, hflip.trans hs2⟩

/-- The fill that a latch begins (R300). -/
theorem State.beginFill_eq (s : State) : ∃ g, s.beginFill = { s with sign := g } ∧ g.flip = s.sign.flip := by
  unfold State.beginFill
  extract_lets n t shown
  split
  · exact ⟨_, rfl, rfl⟩
  · exact ⟨_, rfl, rfl⟩

/-- The frame that a latch begins (R297). -/
theorem State.beginFrame_eq (s : State) (lines : Nat) :
    ∃ g n, s.beginFrame lines = { s with sign := g, free := n } ∧ g.flip = s.sign.flip := by
  obtain ⟨g, heq, hflip⟩ : ∃ g : Signboard, s.beginFrame lines = State.planFetch { s with sign := g } ∧ g.flip = s.sign.flip :=
    ⟨_, rfl, s.sign.flip_scan ..⟩
  have hscan := State.planFetch_scans { s with sign := g }
  exact ⟨_, _, heq.trans hscan.eq, (Signboard.flip_of_unscanned hscan.sign).trans hflip⟩

/-- The end of a frame that no fill waits for (R296, R300, R304): but for what a flip brings into force, the Signboard alone
changes. -/
theorem State.latch_eq (lines : Nat) (hfill : s.sign.fill = none) :
    ∃ g n, ((s.latchFill.applyFlip.beginFill).beginFrame lines) =
        { s with sign := g, free := n, force := (s.captureForce (if s.sign.pending = [] then [] else s.sign.pendWords)).force } ∧
      (s.sign.pending = [] → g.flip = s.sign.flip) ∧
      (s.sign.pending ≠ [] → g.flip = ([], s.sign.frame, s.sign.frame, BitVec.ofNat 64 s.now, s.positionNow)) := by
  have hlatch : s.latchFill = s := by
    unfold State.latchFill
    rw [hfill]
  rw [hlatch]
  obtain ⟨g1, hfilled, hflip1⟩ := s.applyFlip.beginFill_eq
  obtain ⟨g2, n, hframe, hflip2⟩ := s.applyFlip.beginFill.beginFrame_eq lines
  refine ⟨g2, n, ?_⟩
  rw [hframe, hfilled]
  rw [hfilled] at hflip2
  by_cases hp : s.sign.pending = []
  · rw [State.applyFlip_of_none hp] at hflip1 ⊢
    exact ⟨by rw [if_pos hp]; rfl, fun _ => hflip2.trans hflip1, fun hne => absurd hp hne⟩
  · obtain ⟨g, hforce, hflip⟩ := State.applyFlip_of_pending hp
    rw [hforce] at hflip1 ⊢
    exact ⟨by rw [if_neg hp], fun hnone => absurd hnone hp, fun _ => hflip2.trans (hflip1.trans hflip)⟩

/-! The latch (R296, R307, R308). -/

/-- An output's mismatch, where there is one (R308). -/
def State.mismatchIf (s : State) (c : Bool) (bit toll : Nat) : State := if c then s.mismatch bit toll else s

/-- A frame ends, with the checks of its output behind it (R296, R304). -/
def State.endFrame (s : State) : State :=
  let s1 := s.modSign fun g => { g with frame := (g.frame + 1) % 2 ^ 32 }
  let s2 := (s1.latchFill.applyFlip.beginFill).beginFrame (s1.blankLines - 1)
  { s2 with ev := { s2.ev with latched := true } }

/-- The end of a frame without a fill. -/
theorem State.endFrame_eq (hfill : s.sign.fill = none) :
    ∃ g n, s.endFrame = { s with
        sign := g, free := n, force := (s.captureForce (if s.sign.pending = [] then [] else s.sign.pendWords)).force
        ev := { s.ev with latched := true } } ∧
      (s.sign.pending = [] →
        g.flip = ([], (s.sign.frame + 1) % 2 ^ 32, s.sign.flipFrame, s.sign.flipChron, s.sign.flipPos)) ∧
      (s.sign.pending ≠ [] →
        g.flip = ([], (s.sign.frame + 1) % 2 ^ 32, (s.sign.frame + 1) % 2 ^ 32, BitVec.ofNat 64 s.now, s.positionNow)) := by
  unfold State.endFrame
  extract_lets s1 s2
  obtain ⟨g, n, heq, hnone, hsome⟩ := State.latch_eq (s := s1) (s1.blankLines - 1) hfill
  have hforce : (s1.captureForce (if s1.sign.pending = [] then [] else s1.sign.pendWords)).force =
      (s.captureForce (if s.sign.pending = [] then [] else s.sign.pendWords)).force :=
    State.captureForce_force_congr (t := s1) (s := s) rfl _
  refine ⟨g, n, ?_, fun hp => (hnone hp).trans ?_, hsome⟩
  · rw [hforce] at heq
    exact congrArg (fun u : State => { u with ev := { u.ev with latched := true } }) heq
  · rw [← hp]
    rfl

theorem State.mismatchIf_force (s : State) (c : Bool) (bit toll : Nat) : (s.mismatchIf c bit toll).force = s.force := by
  cases c
  · rfl
  · rfl

theorem State.mismatchIf_fill (s : State) (c : Bool) (bit toll : Nat) : (s.mismatchIf c bit toll).sign.fill = s.sign.fill := by
  cases c
  · rfl
  · rfl

theorem State.mismatchIf_tollDue (h : t.tollDue = s.tollDue) (c : Bool) (bit toll : Nat) :
    (t.mismatchIf c bit toll).tollDue = (s.tollIf c toll).tollDue := by
  cases c
  · exact h
  · exact congrArg (fun l => Sparse.set (fun _ => 0) l toll (Sparse.get (fun _ => 0) l toll + 1)) h

theorem getLsbD_ofNat_two_pow {bit : Nat} (hbit : bit < 32) : (BitVec.ofNat 32 (2 ^ bit)).getLsbD bit = true := by
  rw [BitVec.getLsbD_ofNat]
  simp [hbit]

/-- A mismatch adds its bit of SGN_RB to those that are set (R307, R308). -/
theorem State.stickyBits_mismatch (s : State) {bit : Nat} (hbit : bit < 32) (toll : Nat) :
    (s.mismatch bit toll).stickyBits R.SGN_RB.base = s.stickyBits R.SGN_RB.base ||| BitVec.ofNat 32 (2 ^ bit) := by
  refine Sparse.get_set_same_of_ne (fun h => ?_) s.sticky
  have hset := congrArg (BitVec.getLsbD · bit) h
  rw [BitVec.getLsbD_or, getLsbD_ofNat_two_pow hbit, Bool.or_true] at hset
  exact Bool.noConfusion (hset.trans BitVec.getLsbD_zero)

theorem State.stickyBits_mismatch_same {bit toll : Nat} (hbit : bit < 32) :
    ((s.mismatchIf true bit toll).stickyBits R.SGN_RB.base).getLsbD bit = true := by
  refine (congrArg (BitVec.getLsbD · bit) (s.stickyBits_mismatch hbit toll)).trans ?_
  rw [BitVec.getLsbD_or, getLsbD_ofNat_two_pow hbit, Bool.or_true]

theorem State.stickyBits_mismatchIf_of_set {k bit : Nat} (h : (s.stickyBits R.SGN_RB.base).getLsbD k = true) (hbit : bit < 32)
    (c : Bool) (toll : Nat) : ((s.mismatchIf c bit toll).stickyBits R.SGN_RB.base).getLsbD k = true := by
  cases c
  · exact h
  · refine (congrArg (BitVec.getLsbD · k) (s.stickyBits_mismatch hbit toll)).trans ?_
    simp [h]

theorem State.Scans.force (h : s.Scans t) : t.force = s.force := (congrArg State.force h.frame :)

/-- What read-back compares depends on the words in force alone (R308). -/
theorem State.readBackDiffers_congr (h : t.force = s.force) (even odd : List PadFlip) :
    t.readBackDiffers even odd = s.readBackDiffers even odd := by
  calc t.readBackDiffers even odd = State.readBackDiffers { s with force := t.force } even odd := rfl
    _ = s.readBackDiffers even odd := by rw [h]

/-- The checks of R308 on both outputs. -/
def State.readBack (s : State) (even0 odd0 even1 odd1 : List PadFlip) : State :=
  let s1 := s.mismatchIf (s.readBackDiffers even0 odd0) 0 224
  s1.mismatchIf (s1.readBackDiffers even1 odd1) 1 225

theorem State.readBack_of_force (h : t.force = s.force) (e0 o0 e1 o1 : List PadFlip) : t.readBack e0 o0 e1 o1 =
    (t.mismatchIf (s.readBackDiffers e0 o0) 0 224).mismatchIf (s.readBackDiffers e1 o1) 1 225 := by
  unfold State.readBack
  rw [State.readBackDiffers_congr h]
  exact congrArg (fun c => State.mismatchIf _ c 1 225)
    (State.readBackDiffers_congr ((State.mismatchIf_force ..).trans h) e1 o1)

/-- The latch of a running Signboard (R296, R303, R307, R308). -/
theorem signboardLatch_eq (hrun : s.running fnSignboard = true) (e0 o0 e1 o1 : List PadFlip) :
    signboardLatch e0 o0 e1 o1 s =
      ((((s.fetchRest.tollIf s.fetchRest.sign.fetchErr 228).overlayCrc.2.readBack e0 o0 e1 o1).mismatchIf
        (s.flag F.SGN_LAYERS_ECRC_EN && (s.fetchRest.tollIf s.fetchRest.sign.fetchErr 228).overlayCrc.1 != s.word R.SGN_L2_ECRC.base)
        2 226).endFrame) :=
  if_neg (by simp [hrun])

section Latch

variable (hrun : s.running fnSignboard = true) (hcrc : s.flag F.SGN_LAYERS_ECRC_EN = false) (herr : s.sign.fetchErr = false)
  (hsound : ∀ y < s.panelHeight, s.LineSound y)

include hrun hcrc herr hsound

/-- The latch of a frame without a fetch error, the overlay's CRC-32 not being checked (R296, R308). -/
theorem signboardLatch_of_sound (e0 o0 e1 o1 : List PadFlip) : ∃ u, s.Scans u ∧ signboardLatch e0 o0 e1 o1 s =
    ((u.mismatchIf (s.readBackDiffers e0 o0) 0 224).mismatchIf (s.readBackDiffers e1 o1) 1 225).endFrame := by
  have hrest := State.fetchRest_of_sound hsound
  have hnoErr : s.fetchRest.sign.fetchErr = false := (congrArg Signboard.fetchErr hrest.sign :).trans herr
  have hnoToll : s.fetchRest.tollIf s.fetchRest.sign.fetchErr 228 = s.fetchRest := by
    rw [hnoErr]
    rfl
  have hscan := hrest.trans s.fetchRest.overlayCrc_scans
  have hlatch := signboardLatch_eq hrun e0 o0 e1 o1
  rw [hnoToll, hcrc, Bool.false_and] at hlatch
  refine ⟨_, hscan, hlatch.trans (congrArg State.endFrame ?_)⟩
  exact State.readBack_of_force hscan.force e0 o0 e1 o1

variable (hfill : s.sign.fill = none)

include hfill

/-- The latch of a frame that shows what was composed (R296, R304). -/
theorem signboardLatch_of_shown : ∃ t, signboardLatch [] [] [] [] s = t ∧
    { t with sign := s.sign, force := s.force, free := s.free, ev := s.ev } = s ∧
    t.force = (s.captureForce (if s.sign.pending = [] then [] else s.sign.pendWords)).force ∧
    (s.sign.pending = [] →
      t.sign.flip = ([], (s.sign.frame + 1) % 2 ^ 32, s.sign.flipFrame, s.sign.flipChron, s.sign.flipPos)) ∧
    (s.sign.pending ≠ [] → t.sign.flip =
      ([], (s.sign.frame + 1) % 2 ^ 32, (s.sign.frame + 1) % 2 ^ 32, s.chron.extractLsb' 0 64, s.positionNow)) := by
  obtain ⟨u, hscan, hlatch⟩ := signboardLatch_of_sound hrun hcrc herr hsound [] [] [] []
  obtain ⟨g, n, rfl⟩ : ∃ g n, u = { s with sign := g, free := n } := ⟨_, _, hscan.eq⟩
  have hsign := hscan.sign
  have hpending : g.pending = s.sign.pending := (congrArg Signboard.pending hsign :)
  have hwords : g.pendWords = s.sign.pendWords := (congrArg Signboard.pendWords hsign :)
  have hframe : g.frame = s.sign.frame := (congrArg Signboard.frame hsign :)
  have hflipFrame : g.flipFrame = s.sign.flipFrame := (congrArg Signboard.flipFrame hsign :)
  have hflipChron : g.flipChron = s.sign.flipChron := (congrArg Signboard.flipChron hsign :)
  have hflipPos : g.flipPos = s.sign.flipPos := (congrArg Signboard.flipPos hsign :)
  obtain ⟨g', n', heq, hnone, hsome⟩ := State.endFrame_eq (s := { s with sign := g, free := n })
    ((congrArg Signboard.fill hsign :).trans hfill)
  refine ⟨_, hlatch.trans heq, rfl, ?_, fun hp => ?_, fun hp => ?_⟩
  · rw [hpending, hwords]
    exact congrArg State.force (State.captureForce_eq { s with sign := g, free := n } _) |>.trans
      (State.captureForce_force_congr (t := { s with sign := g, free := n }) (s := s) rfl _)
  · rw [← hframe, ← hflipFrame, ← hflipChron, ← hflipPos]
    exact hnone (hpending.trans hp)
  · rw [← hframe, ← ofNat_now_64]
    exact hsome (by rw [hpending]; exact hp)

/-- What the checks of a latch count (R308). -/
theorem signboardLatch_checks (e0 o0 e1 o1 : List PadFlip) : ∃ t, signboardLatch e0 o0 e1 o1 s = t ∧
    t.tollDue = ((s.tollIf (s.readBackDiffers e0 o0) 224).tollIf (s.readBackDiffers e1 o1) 225).tollDue ∧
    (s.readBackDiffers e0 o0 = true → (t.stickyBits R.SGN_RB.base).getLsbD 0 = true) ∧
    (s.readBackDiffers e1 o1 = true → (t.stickyBits R.SGN_RB.base).getLsbD 1 = true) := by
  obtain ⟨u, hscan, hlatch⟩ := signboardLatch_of_sound hrun hcrc herr hsound e0 o0 e1 o1
  have hu : u.sign.fill = none := (congrArg Signboard.fill hscan.sign :).trans hfill
  have hdue : u.tollDue = s.tollDue := (congrArg State.tollDue hscan.frame :)
  obtain ⟨g, n, heq, -⟩ := State.endFrame_eq
    (s := (u.mismatchIf (s.readBackDiffers e0 o0) 0 224).mismatchIf (s.readBackDiffers e1 o1) 1 225)
    ((State.mismatchIf_fill ..).trans ((State.mismatchIf_fill ..).trans hu))
  refine ⟨_, hlatch.trans heq, ?_, fun hrb => ?_, fun hrb => ?_⟩
  · exact (State.mismatchIf_tollDue ((State.mismatchIf_tollDue hdue ..)) ..)
  · refine State.stickyBits_mismatchIf_of_set ?_ (by decide) ..
    rw [hrb]
    exact State.stickyBits_mismatch_same (by decide)
  · rw [hrb]
    exact State.stickyBits_mismatch_same (toll := 225) (by decide)

end Latch

/-! What pads that differ do (R294, R308). -/

/-- A colour slot carries one of its byte's eight bits (R294). -/
def LvdsBit.inByte : LvdsBit → Bool
  | .colour _ bit => decide (bit < 8)
  | _ => true

theorem lvdsBit_inByte : ∀ (b : Bool) (pair : Fin 4) (slot : Fin 7), (lvdsBit b pair slot).inByte = true := by
  decide

/-- One bit that differs: the byte that holds it shifts a difference into the register (R308). -/
theorem crcChange_one (i b : Nat) :
    crcChange [(i, b)] = crc32Byte 0 (BitVec.ofNat 8 (((List.range 8).filter fun x => decide (x = b)).map (2 ^ ·)).sum) := by
  have hone : i + 1 - i = 1 := by omega
  simp [crcChange, hone]

theorem crc32Byte_one_bit : ∀ b < 8,
    crc32Byte 0 (BitVec.ofNat 8 (((List.range 8).filter fun x => decide (x = b)).map (2 ^ ·)).sum) ≠ 0 := by
  decide

/-- A colour bit of an active pixel that differs is found (R308). -/
theorem State.readBackDiffers_of_colour {f : PadFlip} {comp : Fin 3} {bit : Nat}
    (hslot : lvdsBit (s.flag F.SGN_CTRL_MAP) f.pair f.slot = .colour comp bit) (hcycle : f.cycle.val < s.val F.SGN_HACT_HACT)
    (hline : f.line.val < s.panelHeight) : s.readBackDiffers [f] [] = true := by
  have hflips : s.colourFlips 0 [f] = [(((f.line.val * s.val F.SGN_HACT_HACT + f.cycle.val) * 2 + 0) * 3 + comp.val, bit)] := by
    simp [State.colourFlips, hslot, hcycle, hline]
  have hbit : bit < 8 := by
    have hin := lvdsBit_inByte (s.flag F.SGN_CTRL_MAP) f.pair f.slot
    rw [hslot] at hin
    exact of_decide_eq_true hin
  have hcrc : crcChange (s.colourFlips 0 [f] ++ s.colourFlips 1 []) ≠ 0 := by
    rw [hflips]
    exact (crcChange_one _ bit).trans_ne (crc32Byte_one_bit bit hbit)
  simp [State.readBackDiffers, hcrc]

/-! The commit (R304, R305). -/

/-- The groups that a commit names (R304). -/
def commitGroups (w : Word) : List (Fin 5) := (List.finRange 5).filter fun g => (F.SGN_COMMIT_GROUPS.get w).testBit g

/-- The words of the groups named, with their shadows (R304). -/
def State.shadows (s : State) (gs : List (Fin 5)) : List (Nat × Word) := (gs.flatMap groupWords).map fun n => (n, s.lastWritten n)

/-- The groups named are pending (R304). -/
def State.registerCommit (s : State) (gs : List (Fin 5)) : State :=
  (s.modSign fun g => { g with
    pending := g.pending ++ gs.filter fun x => !g.pending.contains x
    pendWords := (g.pendWords.filter fun x => !(s.shadows gs).any fun y => y.1 == x.1) ++ s.shadows gs
    pendPalette := if gs.contains 3 then g.palette else g.pendPalette }).tollIf (gs.any s.sign.pending.contains) 227

theorem sgnCommit_of_none {w : Word} (h : F.SGN_COMMIT_GROUPS.get w = 0) : sgnCommit w s = s.answer .ok := by
  unfold sgnCommit
  simp [h]

theorem State.registerCommit_eq (s : State) (gs : List (Fin 5)) : s.registerCommit gs = { s with
    sign := { s.sign with
      pending := s.sign.pending ++ gs.filter fun x => !s.sign.pending.contains x
      pendWords := (s.sign.pendWords.filter fun x => !(s.shadows gs).any fun y => y.1 == x.1) ++ s.shadows gs
      pendPalette := if gs.contains 3 then s.sign.palette else s.sign.pendPalette }
    tollDue := (s.tollIf (gs.any s.sign.pending.contains) 227).tollDue } := by
  unfold State.registerCommit State.tollIf
  split
  · rfl
  · rfl

theorem State.mem_registerCommit {gs : List (Fin 5)} {g : Fin 5} :
    g ∈ (s.registerCommit gs).sign.pending ↔ g ∈ s.sign.pending ∨ g ∈ gs := by
  rw [State.registerCommit_eq]
  by_cases hg : g ∈ s.sign.pending
  · simp [hg]
  · simp [hg]

/-- A commit of the tick of a latch (R304). -/
theorem State.flipAtLatch_of_latched (hlatched : s.ev.latched = true) (hp : s.sign.pending ≠ []) :
    ∃ g force, s.flipAtLatch = { s with force := force, sign := g } ∧
      g.flip = ([], s.sign.frame, s.sign.frame, BitVec.ofNat 64 s.now, s.positionNow) := by
  obtain ⟨g, hflip, hg⟩ := State.applyFlip_of_pending (s := s.modSign fun g => { g with
    fill := g.fill.filter fun f => f.done.isSome }) hp
  obtain ⟨g', hfill, hg'⟩ := State.beginFill_eq (State.applyFlip (s.modSign fun g => { g with
    fill := g.fill.filter fun f => f.done.isSome }))
  rw [hflip] at hfill hg'
  exact ⟨g', _, (if_pos hlatched).trans ((congrArg State.beginFill hflip).trans hfill), hg'.trans hg⟩

section Commit

variable {w : Word} (hgs : commitGroups w ≠ [])

include hgs

theorem sgnCommit_of_bad (hbad : s.commitBad (commitGroups w) = true) : sgnCommit w s = s.refuseWrite .badParam :=
  (if_neg (mt List.isEmpty_iff.1 hgs)).trans (if_pos hbad)

theorem sgnCommit_of_good (hgood : s.commitBad (commitGroups w) = false) :
    sgnCommit w s = ((s.registerCommit (commitGroups w)).flipAtLatch).answer .ok :=
  (if_neg (mt List.isEmpty_iff.1 hgs)).trans (if_neg (Bool.eq_false_iff.1 hgood))

end Commit

/-! The fill of the plot (R300). -/

/-- A segment without uncorrectable codewords is read as record memory holds it (R273, R300). -/
theorem State.readFill_of_sound (h : s.dram.bad = []) (n : Fin 16) (q : Nat) : s.readFill n q = (s.dram.mem, s) := by
  have hnone (l : List Nat) : l.filter s.dram.bad.contains = [] := by
    rw [h]
    exact List.filter_eq_nil_iff.2 fun _ _ => Bool.false_ne_true
  simp [State.readFill, State.readRecord, hnone]

/-- The plot of a fill as it stands, and the half it is written to (R300). -/
def State.nextPlot (s : State) (n : Fin 16) (q width : Nat) : Plot :=
  ⟨n, q, match s.sign.plot with | some p => !p.upper | none => false, width⟩

theorem State.completeFill_of_sound (h : s.dram.bad = []) (f : Fill) :
    let cols := (s.plotOf s.dram.mem f.stall f.number).take ((s.region (s.val F.SGN_REGIONS_PLOT)).size / 8)
    let p := s.nextPlot f.stall f.number cols.length
    s.completeFill f =
      (s.hallWrite (s.plotBase p) (plotBytes cols)).modSign fun g => { g with fill := some { f with done := some (s.now, p) } } := by
  intro cols p
  unfold State.completeFill
  rw [s.readFill_of_sound h]
  rfl

theorem l1FillDone_of_lost {f : Fill} (hfill : s.sign.fill = some f) (hdone : f.done = none) (hlost : s.ev.fillLost = none)
    (hover : s.overwritten f.stall f.number = true) : l1FillDone s = (s.modSign fun g => { g with fill := none }).toll 229 := by
  unfold l1FillDone
  rw [hlost, hfill]
  exact (if_neg (by simp [hdone])).trans (if_pos hover)

theorem l1FillDone_of_held {f : Fill} (hfill : s.sign.fill = some f) (hdone : f.done = none) (hlost : s.ev.fillLost = none)
    (hover : s.overwritten f.stall f.number = false) : l1FillDone s = s.completeFill f := by
  unfold l1FillDone
  rw [hlost, hfill]
  exact (if_neg (by simp [hdone])).trans (if_neg (Bool.eq_false_iff.1 hover))

/-- A read of SGN_FLIP_CLO (R304). -/
theorem flipRead_eq (s : State) : flipRead s = { s with code := .ok, sign := { s.sign with
    latchChi := s.sign.flipChron.extractLsb' 32 32, latchPlo := s.sign.flipPos.extractLsb' 0 32
    latchPhi := s.sign.flipPos.extractLsb' 32 32 } } := by
  rw [← ofNat_toNat_div, ← ofNat_toNat_div, ← ofNat_toNat_low]
  rfl

end Sys2Proof.Machine
/-- Settles O24: commits, the latch and its two checks, the palette window, the flip's words and the fill of the plot. -/
theorem signboardFlipsAndFills : Obligations.SignboardFlipsAndFills := by
  unfold Obligations.SignboardFlipsAndFills
  refine ⟨fun s => ⟨?none, ?commit, ?stopped, ?colour, ?latched⟩, fun s => ⟨?palette, ?flip, ?fill⟩⟩
  case none => exact fun w hnone => congrArg Host.Outcome.next (sgnCommit_of_none hnone)
  case commit =>
    intro w gs
    refine ⟨fun hgs hbad => congrArg Host.Outcome.next (sgnCommit_of_bad hgs hbad), fun hgs hgood hlatched => ?_,
      fun hgs hgood hlatched => ?_⟩
    · obtain ⟨x, hx⟩ := List.exists_mem_of_ne_nil gs hgs
      have hpending : (s.registerCommit gs).sign.pending ≠ [] := List.ne_nil_of_mem (State.mem_registerCommit.2 (.inr hx))
      have heq := State.registerCommit_eq s gs
      have hnow : (s.registerCommit gs).ev.latched = true := by rw [heq]; exact hlatched
      obtain ⟨g, force, hflip, hg⟩ := State.flipAtLatch_of_latched hnow hpending
      have hchron : BitVec.ofNat 64 (s.registerCommit gs).now = s.chron.extractLsb' 0 64 := by rw [heq]; exact ofNat_now_64 s
      have hframe : (s.registerCommit gs).sign.frame = s.sign.frame := by rw [heq]
      rw [hchron, hframe] at hg
      refine ⟨_, congrArg Host.Outcome.next ((sgnCommit_of_good hgs hgood).trans (congrArg (State.answer · .ok) hflip)), rfl, ?_⟩
      exact ⟨(congrArg Prod.fst hg :), (congrArg (·.2.2.1) hg :), (congrArg (·.2.2.2.1) hg :)⟩
    · have heq := State.registerCommit_eq s gs
      have hflip : (s.registerCommit gs).flipAtLatch = s.registerCommit gs := if_neg (by rw [heq]; simp [hlatched])
      refine ⟨_, congrArg Host.Outcome.next ((sgnCommit_of_good hgs hgood).trans (congrArg (State.answer · .ok) hflip)), ?_, rfl, ?_,
        fun g => State.mem_registerCommit, fun g hg n hn => ?_, ?_, ?_⟩
      · rw [heq]
        rfl
      · rw [heq]
        rfl
      · rw [heq]
        exact List.mem_append_right _ (List.mem_map_of_mem (List.mem_flatMap_of_mem hg hn))
      · rw [heq]
        simp [State.answer]
      · rw [heq]
        rfl
  case stopped => exact fun e0 o0 e1 o1 hrun => congrArg Host.Outcome.next (if_pos (by simp [hrun]))
  case colour => exact fun f comp bit hslot hcycle hline => State.readBackDiffers_of_colour hslot hcycle hline
  case latched =>
    intro hrun hcrc hfill herr hsound
    refine ⟨?_, ?_⟩
    · obtain ⟨t, heq, hframe, hforce, hnone, hsome⟩ := signboardLatch_of_shown hrun hcrc herr hsound hfill
      by_cases hp : s.sign.pending = []
      · have hflip := hnone hp
        exact ⟨t, congrArg Host.Outcome.next heq, hframe, hforce, (congrArg Prod.fst hflip :), (congrArg (·.2.1) hflip :),
          fun _ => (congrArg (·.2.2.1) hflip :), fun hne => absurd hp hne⟩
      · have hflip := hsome hp
        have hnumber : t.sign.frame = (s.sign.frame + 1) % 2 ^ 32 := (congrArg (·.2.1) hflip :)
        exact ⟨t, congrArg Host.Outcome.next heq, hframe, hforce, (congrArg Prod.fst hflip :), hnumber, fun hnil => absurd hnil hp,
          fun _ => ⟨(congrArg (·.2.2.1) hflip :).trans hnumber.symm, (congrArg (·.2.2.2.1) hflip :),
            (congrArg (·.2.2.2.2) hflip :)⟩⟩
    · intro e0 o0 e1 o1
      obtain ⟨t, heq, hchecks⟩ := signboardLatch_checks hrun hcrc herr hsound hfill e0 o0 e1 o1
      exact ⟨t, congrArg Host.Outcome.next heq, hchecks⟩
  case palette => exact ⟨rfl, fun w => rfl⟩
  case flip => exact congrArg Host.Outcome.next (flipRead_eq s)
  case fill =>
    intro f hfill hdone hlost
    refine ⟨fun hover => congrArg Host.Outcome.next (l1FillDone_of_lost hfill hdone hlost hover), fun hover hsound hwf => ?_⟩
    obtain ⟨hhall, -⟩ := id hwf
    intro cols upper p a
    refine ⟨_, congrArg Host.Outcome.next ((l1FillDone_of_held hfill hdone hlost hover).trans
        (State.completeFill_of_sound hsound f)),
      rfl, rfl, memBytes_memWrite hhall .., fun x hx => memByte_memWrite_outside hhall hx⟩

end

/-! ## A wake source that fires in a wake under way (18_power R392) -/

section

open Sys2Proof Sys2Proof.Machine

namespace Sys2Proof.Machine

/-- A device in WATCH whose wake is under way, its last wake source being enabled. -/
def wakingDevice : State := { State.reset with
  force := [(R.PWR_WAKE_EN.base, 16)], power := { State.reset.power with regime := .watch, waking := true } }

/-- The bit of PWR_WAKE_CAUSE is set by an event of the present tick, and is recorded as one (R8, R10, R392). -/
theorem wakingDevice_records : (wakingDevice.wakeEvent 4).ev.sticky ≠ wakingDevice.ev.sticky := by decide +kernel

end Sys2Proof.Machine

/-- Refutes O47: of a source that fires in a wake under way the statement says that nothing but PWR_WAKE_CAUSE's bits changes. The
event that sets the bit is recorded for its tick too, so that a write of 1 in the same tick does not clear it (R8, R10). -/
theorem not_watchIsEnteredAndLeft : ¬ Obligations.WatchIsEnteredAndLeft := by
  unfold Obligations.WatchIsEnteredAndLeft
  intro h
  obtain ⟨hlate, hsources, -⟩ := h.2 wakingDevice
  have hfire := hlate 4 (by decide)
  obtain ⟨-, hfires⟩ := hsources 4
  obtain ⟨-, hin, -⟩ := hfires hfire
  obtain ⟨-, hwaking⟩ := hin (.inl rfl)
  have heq := Host.Outcome.next.inj (hwaking (by decide +kernel) rfl)
  have hsame := congrArg (fun t : State => t.ev.sticky) ((if_pos hfire).symm.trans heq)
  exact wakingDevice_records hsame

end

/-! ## What starting a function leaves alone (17_image R370, R372) -/

section

open Sys2Proof Sys2Proof.Machine

namespace Sys2Proof.Machine

variable {s t u : State}

/-- The flash, the slots and the fuses are as they were. -/
structure State.KeepsImage (s t : State) : Prop where
  image : t.image = s.image

theorem State.KeepsImage.refl (s : State) : s.KeepsImage s := ⟨rfl⟩

theorem State.KeepsImage.trans (h : s.KeepsImage t) (k : t.KeepsImage u) : s.KeepsImage u := ⟨k.image.trans h.image⟩

theorem State.KeepsImage.ite {c : Prop} [Decidable c] (ht : s.KeepsImage t) (hu : s.KeepsImage u) :
    s.KeepsImage (if c then t else u) := by
  split
  · exact ht
  · exact hu

theorem State.KeepsImage.foldl {α : Type} {f : State → α → State} (h : ∀ (t : State) (a : α), t.KeepsImage (f t a)) (l : List α)
    (s : State) : s.KeepsImage (l.foldl f s) := by
  induction l generalizing s with
  | nil => exact .refl s
  | cons a l ih => exact (h s a).trans (ih (f s a))

/-- The state of a pair that is given a name. -/
theorem State.KeepsImage.of_snd {α : Type} {a : α} {p : α × State} (h : s.KeepsImage p.2) (e : p = (a, t)) : s.KeepsImage t := by
  rw [e] at h
  exact h

/-- A loop that carries more than the state along, which `g` finds in it. -/
theorem State.KeepsImage.foldlOf {α β : Type} (g : β → State) {f : β → α → β}
    (h : ∀ (p : β) (a : α), (g p).KeepsImage (g (f p a))) (l : List α) (p : β) : (g p).KeepsImage (g (l.foldl f p)) := by
  induction l generalizing p with
  | nil => exact .refl _
  | cons a l ih => exact (h p a).trans (ih (f p a))

/-! Nothing that a START brings about touches the flash, the slots or the fuses. The lemmas follow the functions of the model, each
before those that call it: first counts, words in force and free values. -/

theorem State.tollIf_keepsImage (s : State) (c : Bool) (i : Nat) : s.KeepsImage (s.tollIf c i) := .ite ⟨rfl⟩ ⟨rfl⟩

theorem State.tollMany_keepsImage (s : State) (i n : Nat) : s.KeepsImage (s.tollMany i n) := .ite ⟨rfl⟩ ⟨rfl⟩

theorem State.turnTolls_keepsImage (s : State) (turns : Nat) : s.KeepsImage (s.turnTolls turns) :=
  .ite (s.tollIf_keepsImage ..) ((s.tollIf_keepsImage ..).trans ⟨rfl⟩)

theorem State.satToll_keepsImage (s : State) (n : Fin 16) (sat : Bool) : s.KeepsImage (s.satToll n sat) := .ite ⟨rfl⟩ ⟨rfl⟩

theorem State.notePast_keepsImage (s t : State) (i : Nat) : t.KeepsImage (s.notePast t i) := .ite ⟨rfl⟩ ⟨rfl⟩

theorem State.bringIntoForce_keepsImage (s : State) (ns : List Nat) : s.KeepsImage (s.bringIntoForce ns) := by
  rw [s.bringIntoForce_eq]
  exact ⟨rfl⟩

theorem State.forceLocked_keepsImage (s : State) (fn : Nat) : s.KeepsImage (s.forceLocked fn) := by
  unfold State.forceLocked
  refine .foldl (fun t n => ?_) _ s
  exact ⟨rfl⟩

theorem State.attention_keepsImage (s : State) (level : Nat) : s.KeepsImage (s.attention level) := ⟨s.attention_image level⟩

/-! The relief slice. -/

theorem State.beginCalOr_keepsImage (s : State) (k : Fin 16) : s.KeepsImage (s.beginCalOr k) :=
  ⟨(congrArg State.image (s.beginCalOr_calFrame k).frame :)⟩

theorem State.startRelief_keepsImage (s : State) : s.KeepsImage s.startRelief := by
  unfold State.startRelief
  extract_lets _ s1 _ s2
  split
  · split
    · exact ⟨rfl⟩
    · exact ⟨rfl⟩
  · have hs2 : s.KeepsImage s2 := ⟨rfl⟩
    exact .ite (hs2.trans ⟨rfl⟩) (.ite (hs2.trans (s2.beginCalOr_keepsImage _)) (hs2.trans ⟨rfl⟩))

/-! The Bells. -/

theorem State.modBell_keepsImage (s : State) (n : Fin 16) (f : Bell → Bell) : s.KeepsImage (s.modBell n f) := ⟨rfl⟩

theorem State.happen_keepsImage (s : State) (n : Fin 16) (h : Happening) : s.KeepsImage (s.happen n h) := ⟨rfl⟩

theorem State.relink_keepsImage (s : State) (n : Fin 16) : s.KeepsImage (s.relink n) := ⟨rfl⟩

theorem State.endSegment_keepsImage (s : State) (n : Fin 16) (c : Conds) (v : Val) : s.KeepsImage (s.endSegment n c v) := ⟨rfl⟩

theorem State.accept_keepsImage (s : State) (n : Fin 16) (c : Conds) (v : Val) (f : Nat) (forced late : Bool) (instant : Rat) :
    s.KeepsImage (s.accept n c v f forced late instant) := by
  unfold State.accept
  extract_lets u b first hold g s1 s2
  have hs2 : s.KeepsImage s2 := ⟨rfl⟩
  exact .ite (hs2.trans ⟨rfl⟩) hs2

theorem State.acceptForced_keepsImage (s : State) (n : Fin 16) (c : Conds) (v : Val) (f : Forced) :
    s.KeepsImage (s.acceptForced n c v f) :=
  s.accept_keepsImage ..

theorem State.enter_keepsImage (s : State) (n : Fin 16) (c : Conds) (v : Val) (k f : Nat) (trig : Bool) :
    s.KeepsImage (s.enter n c v k f trig).2 := by
  unfold State.enter
  extract_lets s1 s2 s3 s4
  have hs2 : s.KeepsImage s2 := .ite ⟨rfl⟩ ⟨rfl⟩
  have hs3 : s.KeepsImage s3 := .ite (hs2.trans ⟨rfl⟩) hs2
  have hs4 : s.KeepsImage s4 := .ite (hs3.trans ⟨rfl⟩) hs3
  split
  rename_i c5 s5 heq
  have hs5 : s.KeepsImage s5 := by
    split at heq
    · exact hs4.trans ⟨(congrArg (fun p => p.2.image) heq).symm⟩
    · exact hs4.trans ⟨(congrArg (fun p => p.2.image) heq).symm⟩
  exact .ite (hs5.trans (s5.accept_keepsImage ..)) hs5

theorem State.ignoreTrigger_keepsImage (s : State) (n : Fin 16) : s.KeepsImage (s.ignoreTrigger n) := .ite ⟨rfl⟩ ⟨rfl⟩

theorem State.ignoreAll_keepsImage {α : Type} (s : State) (n : Fin 16) (l : List α) :
    s.KeepsImage (l.foldl (fun s _ => s.ignoreTrigger n) s) :=
  .foldl (fun t _ => t.ignoreTrigger_keepsImage n) l s

theorem State.countRound_keepsImage (s : State) (n : Fin 16) (c : Conds) (l : List (Fin 4)) :
    s.KeepsImage (s.countRound n c l).2.1 := by
  unfold State.countRound
  extract_lets st
  refine State.KeepsImage.foldlOf (fun p : Conds × State × List (Fin 4) => p.2.1) (fun p k => ?_) l (c, s, [])
  obtain ⟨c, t, rest⟩ := p
  dsimp only
  split
  · exact ⟨rfl⟩
  · exact .refl t

theorem State.countAll_keepsImage (s : State) (n : Fin 16) (c : Conds) : s.KeepsImage (s.countAll n c).2 := by
  unfold State.countAll
  exact (((s.countRound_keepsImage ..).trans (State.countRound_keepsImage ..)).trans (State.countRound_keepsImage ..)).trans
    (State.countRound_keepsImage ..)

theorem State.sequenceMove_keepsImage (s : State) (n : Fin 16) (c : Conds) : s.KeepsImage (s.sequenceMove n c).2 := by
  unfold State.sequenceMove
  extract_lets st adv rst
  split
  · exact .refl s
  · split
    · split
      · exact ⟨rfl⟩
      · exact .refl s
    · exact .refl s

theorem State.autoStep_keepsImage (s : State) (n : Fin 16) (c : Conds) (v : Val) (last : Bool) :
    s.KeepsImage (s.autoStep n c v last) := by
  unfold State.autoStep
  extract_lets b w now
  exact .ite (.refl s) (.ite ((s.accept_keepsImage ..).trans ⟨rfl⟩) (.ite ⟨rfl⟩ (.refl s)))

/-- A move of the sequence, where there is one (R149, R157). -/
theorem State.moved_keepsImage (s : State) (n : Fin 16) (c : Conds) (v : Val) (move : Option (Nat × Nat × Bool)) (trig : Bool) :
    s.KeepsImage (match move with
      | some (k, f, adv) =>
        ((s.modBell n fun b => { b with rstHeld := false }).happen n (if adv then .advanced else .reset)).enter n c v k f trig
      | none => (c, s)).2 := by
  split
  · exact ((s.modBell_keepsImage n _).trans (State.happen_keepsImage ..)).trans (State.enter_keepsImage ..)
  · exact .refl s

/-- The forced triggers that an armed Bell meets (R164). -/
theorem State.forced_keepsImage (s : State) (n : Fin 16) (c : Conds) (v : Val) (forced : List Forced) (first trig : Bool) :
    s.KeepsImage (match forced with
      | [] => s
      | f :: fs =>
        if first then
          let s1 := if trig then s.ignoreTrigger n else s
          fs.foldl (fun s _ => s.ignoreTrigger n) (s1.acceptForced n c v f)
        else forced.foldl (fun s _ => s.ignoreTrigger n) s) := by
  split
  · exact .refl s
  · have hfirst : s.KeepsImage (if trig then s.ignoreTrigger n else s) := .ite (s.ignoreTrigger_keepsImage n) (.refl s)
    exact .ite ((hfirst.trans (State.acceptForced_keepsImage ..)).trans (State.ignoreAll_keepsImage ..)) (s.ignoreAll_keepsImage ..)

theorem State.armedSample_keepsImage (s : State) (n : Fin 16) (c : Conds) (v : Val) (forced : List Forced) (last : Bool) :
    s.KeepsImage (s.armedSample n c v forced last).2 := by
  unfold State.armedSample
  extract_lets s1 c1 st
  have hexpired : s.KeepsImage s1 := .foldl (fun t k => t.happen_keepsImage n (.expired k)) _ s
  split
  rename_i c2 s2 hcount
  have hcounted := (hexpired.trans (s1.countAll_keepsImage n c1)).of_snd hcount
  split
  rename_i move s3 hmove
  have hasked := (hcounted.trans (s2.sequenceMove_keepsImage n c2)).of_snd hmove
  extract_lets first taken overlap s4 seqTrig forcedFirst
  have hoverlap : s.KeepsImage s4 := .ite (hasked.trans ⟨rfl⟩) hasked
  clear_value s1 c1 st first taken overlap s4 seqTrig forcedFirst
  split
  rename_i c5 s5 hmoved
  have hmoves := (hoverlap.trans (State.moved_keepsImage ..)).of_snd hmoved
  extract_lets _ s6
  have hforced : s.KeepsImage s6 := hmoves.trans (s5.forced_keepsImage n c5 v forced forcedFirst seqTrig.isSome)
  clear_value s6
  split
  rename_i c7 s7 hheld
  have hreset : s.KeepsImage s7 := by
    split at hheld
    · exact (((hforced.trans (State.modBell_keepsImage ..)).trans (State.happen_keepsImage ..)).trans
        (State.enter_keepsImage ..)).of_snd hheld
    · exact State.KeepsImage.of_snd (p := (c5, s6)) hforced hheld
  exact hreset.trans (State.autoStep_keepsImage ..)

theorem State.latchHold_keepsImage (s : State) (n : Fin 16) (v : Val) : s.KeepsImage (s.latchHold n v) := .ite ⟨rfl⟩ (.refl s)

theorem State.syncBuffer_keepsImage (s : State) (n : Fin 16) (v : Val) : s.KeepsImage (s.syncBuffer n v) := .ite ⟨rfl⟩ (.refl s)

theorem State.beginBuffer_keepsImage (s : State) (n : Fin 16) (v : Val) : s.KeepsImage (s.beginBuffer n v) := by
  unfold State.beginBuffer
  extract_lets b
  split
  · refine .ite ?_ (.refl s)
    exact ((s.modBell_keepsImage n _).trans (State.syncBuffer_keepsImage ..)).trans (State.happen_keepsImage ..)
  · exact .refl s

theorem State.armIfReady_keepsImage (s : State) (n : Fin 16) (v : Val) : s.KeepsImage (s.armIfReady n v) := by
  unfold State.armIfReady
  extract_lets b
  exact .ite ((((s.bringIntoForce_keepsImage _).trans (State.relink_keepsImage ..)).trans (State.modBell_keepsImage ..)).trans
    (State.happen_keepsImage ..)) (.refl s)

theorem State.settle_keepsImage (s : State) (f : Option Nat) : s.KeepsImage (s.settle f).2 := by
  unfold State.settle
  split
  · exact .refl s
  · exact ⟨rfl⟩

theorem State.countHold_keepsImage (s : State) (n : Fin 16) (c : Conds) (v : Val) : s.KeepsImage (s.countHold n c v) :=
  .ite ⟨rfl⟩ (.refl s)

theorem State.formComps_keepsImage (s : State) (n : Fin 16) (v : Val) : s.KeepsImage (s.formComps n v).2 := by
  unfold State.formComps
  extract_lets pair b
  split
  rename_i cs es _
  extract_lets s1
  have hcomps : s.KeepsImage s1 := s.modBell_keepsImage ..
  split
  · exact hcomps
  · refine hcomps.trans (State.KeepsImage.foldlOf (Prod.snd : List (Nat × Nat) × State → State) (fun p e => ?_) es ([], s1))
    obtain ⟨l, t⟩ := p
    obtain ⟨k, f⟩ := e
    dsimp only
    split
    · exact .refl t
    · exact t.settle_keepsImage f

theorem State.formConds_keepsImage (s : State) (n : Fin 16) (v : Val) : s.KeepsImage (s.formConds n v).2 := by
  unfold State.formConds
  extract_lets b interval e3 exp
  split
  rename_i e1 s1 hcomps
  split
  rename_i e2 s2 houtside
  have hformed := (s.formComps_keepsImage n v).of_snd hcomps
  have hmet : s1.KeepsImage (s1.formOutside n interval v).2 := ⟨rfl⟩
  extract_lets s3
  have htimed : s2.KeepsImage s3 := s2.modBell_keepsImage ..
  exact (hformed.trans (hmet.of_snd houtside)).trans htimed

/-- What a sample is to a Bell in its phase (R157, R163 to R165). -/
theorem State.bellPhase_keepsImage (s : State) (n : Fin 16) (c : Conds) (v : Val) (forced : List Forced) (armedNow trig last : Bool) :
    s.KeepsImage (match (s.bell n).phase with
      | .armed =>
        let (c, s) := if armedNow then s.enter n c v 0 0 true else (c, s)
        s.armedSample n c v forced last
      | .hold =>
        let short := s.prefillShort n v
        let s := if trig && short && (s.bell n).holdWord = 0 then s.ignoreTrigger n else s
        match forced with
        | [] => (c, s)
        | f :: fs =>
          (c, if short then forced.foldl (fun s _ => s.ignoreTrigger n) s
            else fs.foldl (fun s _ => s.ignoreTrigger n) (s.acceptForced n c v f))
      | p =>
        let s := if trig && (p == Phase.post || p == Phase.rearm) then s.ignoreTrigger n else s
        (c, forced.foldl (fun s _ => s.ignoreTrigger n) s)).2 := by
  split
  · split
    rename_i c1 s1 harmed
    refine State.KeepsImage.trans ?_ (State.armedSample_keepsImage ..)
    split at harmed
    · exact (s.enter_keepsImage ..).of_snd harmed
    · exact State.KeepsImage.of_snd (p := (c, s)) (.refl s) harmed
  · extract_lets short s1
    have hignored : s.KeepsImage s1 := .ite (s.ignoreTrigger_keepsImage n) (.refl s)
    split
    · exact hignored
    · exact .ite (hignored.trans (State.ignoreAll_keepsImage ..))
        ((hignored.trans (State.acceptForced_keepsImage ..)).trans (State.ignoreAll_keepsImage ..))
  · extract_lets s1
    have hignored : s.KeepsImage s1 := .ite (s.ignoreTrigger_keepsImage n) (.refl s)
    exact hignored.trans (State.ignoreAll_keepsImage ..)

theorem State.bellSample_keepsImage (s : State) (n : Fin 16) (v : Val) (last : Bool) : s.KeepsImage (s.bellSample n v last) := by
  unfold State.bellSample
  extract_lets s1 post s2 armedNow
  have hseen : s.KeepsImage s1 := s.modBell_keepsImage ..
  refine .ite hseen ?_
  have hready : s.KeepsImage s2 := ((hseen.trans (State.latchHold_keepsImage ..)).trans (State.beginBuffer_keepsImage ..)).trans
    (State.armIfReady_keepsImage ..)
  split
  rename_i c3 s3 hconds
  have hformed := (hready.trans (s2.formConds_keepsImage n v)).of_snd hconds
  extract_lets forced s4 trig
  have hforces : s.KeepsImage s4 := hformed.trans (State.modBell_keepsImage ..)
  split
  rename_i c5 s5 hphase
  have hphased := (hforces.trans (s4.bellPhase_keepsImage n c3 v forced armedNow trig last)).of_snd hphase
  extract_lets s6 ends s7
  have hheld : s.KeepsImage s6 := hphased.trans (State.countHold_keepsImage ..)
  have hended : s.KeepsImage s7 := .ite (hheld.trans (State.endSegment_keepsImage ..)) hheld
  exact hended.trans (State.modBell_keepsImage ..)

theorem State.evalNext_keepsImage (s : State) (n : Fin 16) : s.KeepsImage (s.evalNext n) := by
  unfold State.evalNext
  split
  · exact .refl s
  · extract_lets last t
    have ht : s.KeepsImage t := (s.modBell_keepsImage ..).trans (State.bellSample_keepsImage ..)
    exact .ite ((ht.trans (s.notePast_keepsImage ..)).trans (s.notePast_keepsImage ..)) ht

theorem State.evalMany_keepsImage (s : State) (n : Fin 16) (k : Nat) : s.KeepsImage (s.evalMany n k) := by
  induction k generalizing s with
  | zero => exact .refl s
  | succ k ih => exact .ite (s.evalNext_keepsImage n) ((s.evalNext_keepsImage n).trans (ih _))

end Sys2Proof.Machine
end

/-! ## The two stages of the start-up (17_image R357, R370, R372, R376) -/

section

open Sys2Proof Sys2Proof.Machine

namespace Sys2Proof.Machine

variable {s : State}

/-! The Sieve, and the end of a stop. -/

theorem State.clampAt_keepsImage (s : State) (tick toll : Nat) : s.KeepsImage (s.clampAt tick toll) := .ite (.refl s) ⟨rfl⟩

theorem State.undoWrites_keepsImage (s : State) (n : Fin 16) (bank : Bool) (tick : Nat) : s.KeepsImage (s.undoWrites n bank tick) := by
  unfold State.undoWrites
  extract_lets mine
  refine State.KeepsImage.trans (t := { s with sieve := { s.sieve with
    recent := s.sieve.recent.filter fun r => !mine.contains r } }) ⟨rfl⟩ (.foldl (fun t r => ?_) mine _)
  exact ⟨rfl⟩

theorem State.sieveTake_keepsImage (s : State) (n : Fin 16) (v : Val) (tick : Nat) : s.KeepsImage (s.sieveTake n v tick) := by
  unfold State.sieveTake
  extract_lets _ c0 c median s1
  have hundone : s.KeepsImage s1 := by
    unfold s1
    split
    · exact .ite (.refl s) (s.undoWrites_keepsImage ..)
    · exact .refl s
  clear_value c0 c median s1
  split
  rename_i c' y cl co hfilter
  extract_lets out s2 _ s3 s4
  have hout : s1.KeepsImage s3 := ⟨rfl⟩
  have hclamped : s.KeepsImage s4 := (hundone.trans hout).trans (.foldl (fun t j => t.clampAt_keepsImage ..) cl s3)
  exact .ite (hclamped.trans (State.clampAt_keepsImage ..)) hclamped

theorem sieveInput_keepsImage (s : State) : s.KeepsImage (sieveInput s) := by
  unfold sieveInput
  split
  · rename_i x _
    exact State.KeepsImage.trans (t := { s with sieve := { s.sieve with inputs := s.sieve.inputs.erase x } }) ⟨rfl⟩
      (State.sieveTake_keepsImage ..)
  · exact .refl s

theorem State.sieveMany_keepsImage (s : State) (k : Nat) : s.KeepsImage (s.sieveMany k) := by
  induction k generalizing s with
  | zero => exact .refl s
  | succ k ih => exact (sieveInput_keepsImage s).trans (ih _)

theorem State.finishStop_keepsImage (s : State) (n : Fin 16) : s.KeepsImage (s.finishStop n) := by
  unfold State.finishStop
  extract_lets s1 t mine ready
  have hdrained : s.KeepsImage s1 := ((s.evalMany_keepsImage n _).trans (State.modBell_keepsImage ..)).trans
    (State.sieveMany_keepsImage ..)
  clear_value s1
  split
  rename_i x s2 hdraw
  have hdrawn : s.KeepsImage s2 := State.KeepsImage.of_snd (p := s1.draw) (hdrained.trans ⟨rfl⟩) hdraw
  split
  rename_i flushed sat turns hflush
  extract_lets s3 kept segs _ s4 s5
  have htolled : s.KeepsImage s3 := (hdrawn.trans (s2.satToll_keepsImage ..)).trans (State.turnTolls_keepsImage ..)
  have hsieve : s.KeepsImage s4 := htolled.trans ⟨rfl⟩
  have hchan : s.KeepsImage s5 := .ite (hsieve.trans ⟨rfl⟩) hsieve
  exact hchan.trans ⟨rfl⟩

/-! The reading of a map's words. -/

theorem State.markStaging_keepsImage (s : State) (a flags : Nat) : s.KeepsImage (s.markStaging a flags) := by
  unfold State.markStaging
  split
  · exact .refl s
  · exact ⟨rfl⟩

theorem State.eccFound_keepsImage (s : State) (port half : Nat) (e : Ecc) : s.KeepsImage (s.eccFound port half e) := by
  unfold State.eccFound
  extract_lets e' _ s1 marked _
  have hseen : s.KeepsImage s1 := ⟨rfl⟩
  have hbad : s.KeepsImage marked := hseen.trans (s1.markStaging_keepsImage (half * 8) (2 ^ 9))
  have hcorrected := hseen.trans (s1.markStaging_keepsImage (half * 8) (2 ^ 8))
  clear_value marked
  generalize s1.markStaging (half * 8) (2 ^ 8) = corrected at *
  exact .ite (hbad.trans ⟨rfl⟩) (.ite (hcorrected.trans ⟨rfl⟩) hseen)

theorem State.eccWord_keepsImage (s : State) (port a : Nat) (t0 t1 : Bool) (e0 e1 : Ecc) :
    s.KeepsImage (s.eccWord port a t0 t1 e0 e1) := by
  unfold State.eccWord
  extract_lets h s1
  have hlow : s.KeepsImage s1 := .ite (s.eccFound_keepsImage ..) (.refl s)
  exact .ite (hlow.trans (s1.eccFound_keepsImage ..)) hlow

theorem State.copyWord_keepsImage (s : State) (k : Fin 8) (i : Nat) : s.KeepsImage (s.copyWord k i) := by
  unfold State.copyWord
  extract_lets a s1
  have hread : s.KeepsImage s1 := s.eccWord_keepsImage ..
  refine .ite ⟨rfl⟩ ?_
  split
  rename_i w s2 hdraw
  have hdrawn : s.KeepsImage s2 := by
    split at hdraw
    · exact State.KeepsImage.of_snd (p := s1.draw) (hread.trans ⟨rfl⟩) hdraw
    · exact State.KeepsImage.of_snd (p := (_, s1)) hread hdraw
  exact hdrawn.trans ⟨rfl⟩

theorem State.copyFirst_keepsImage (s : State) (a : Nat) : s.KeepsImage (s.copyFirst a) := by
  unfold State.copyFirst
  refine .foldl (fun t k => ?_) _ s
  refine .ite (.ite ?_ (.refl t)) (.refl t)
  exact (t.copyWord_keepsImage k _).trans ⟨rfl⟩

theorem State.putLanes_keepsImage (s : State) (a : Nat) (mask : BitVec 4) (v : Nat → Nat) : s.KeepsImage (s.putLanes a mask v) := by
  unfold State.putLanes
  refine .foldl (fun t i => ?_) _ s
  exact .ite ⟨rfl⟩ (.refl t)

theorem State.laneAtomic_keepsImage (s : State) (port a : Nat) (mask : BitVec 4) (ret : Bool) (e0 e1 : Ecc)
    (f : Nat → Nat → Nat × Bool) : s.KeepsImage (s.laneAtomic port a mask ret e0 e1 f).1 := by
  unfold State.laneAtomic
  split
  rename_i t0 t1 _
  extract_lets s1 old sat
  have hread : s.KeepsImage s1 := s.eccWord_keepsImage ..
  split
  · exact hread.trans ⟨rfl⟩
  · exact (hread.trans (s1.putLanes_keepsImage ..)).trans ⟨rfl⟩

theorem State.portLanes_keepsImage (s : State) (port a : Nat) (mask : BitVec 4) (ret : Bool) (e0 e1 : Ecc)
    (f : Nat → Nat → Nat × Bool) : s.KeepsImage (s.portLanes port a mask ret e0 e1 f).1 := by
  unfold State.portLanes
  split
  · exact ⟨rfl⟩
  · refine (s.copyFirst_keepsImage a).trans ?_
    exact State.laneAtomic_keepsImage ..

theorem State.passWords_keepsImage (s : State) (a n i : Nat) {f : State → Nat → State}
    (hf : ∀ (t : State) (i : Nat), t.KeepsImage (f t i)) : s.KeepsImage (s.passWords a n i f) := by
  unfold State.passWords
  extract_lets words t
  exact .ite (.foldl hf _ s) ((s.tollMany_keepsImage ..).trans ⟨rfl⟩)

/-! What START brings about in each function. -/

theorem State.startYard_keepsImage (s : State) (k : Fin 8) : s.KeepsImage (s.startYard k) := by
  unfold State.startYard
  extract_lets s1 s2
  have hcleared : s.KeepsImage s1 := (s.bringIntoForce_keepsImage _).trans ⟨rfl⟩
  have hpassed : s1.KeepsImage s2 := by
    refine .foldl (fun t r => t.passWords_keepsImage _ _ _ fun u i => ?_) _ s1
    exact u.portLanes_keepsImage ..
  exact (hcleared.trans hpassed).trans ⟨rfl⟩

theorem State.startSign_keepsImage (s : State) : s.KeepsImage s.startSign := by
  unfold State.startSign
  obtain ⟨g, n, heq, -⟩ := State.beginFrame_eq ((s.bringIntoForce ((List.finRange 5).flatMap groupWords)).modSign fun g => { g with
    paletteForce := g.palette, pending := [], pendWords := [], pendPalette := [], frame := 0, plot := none, fill := none }) 0
  rw [heq]
  exact (s.bringIntoForce_keepsImage _).trans ⟨rfl⟩

theorem State.judgeLead_keepsImage (s : State) : s.KeepsImage s.judgeLead := by
  unfold State.judgeLead
  extract_lets short s1
  have hjudged : s.KeepsImage s1 := ⟨rfl⟩
  have htolled : s.KeepsImage (s1.toll 238) := hjudged.trans ⟨rfl⟩
  exact .ite (htolled.trans (State.attention_keepsImage ..)) hjudged

theorem State.startCrier_keepsImage (s : State) : s.KeepsImage s.startCrier := by
  unfold State.startCrier
  refine State.KeepsImage.trans (.foldl (fun t p => ?_) _ s) (State.judgeLead_keepsImage _)
  exact .ite ⟨rfl⟩ (.refl t)

theorem State.modAux_keepsImage (s : State) (f : Auxiliary → Auxiliary) : s.KeepsImage (s.modAux f) := ⟨rfl⟩

theorem State.beginConv_keepsImage (s : State) (job : AuxJob) (chan : Nat) : s.KeepsImage (s.beginConv job chan) := by
  unfold State.beginConv
  extract_lets s1
  have hbegun : s.KeepsImage s1 := ⟨rfl⟩
  split
  · extract_lets s2
    have htaken : s.KeepsImage s2 := hbegun.trans ⟨rfl⟩
    exact .ite (htaken.trans ⟨rfl⟩) htaken
  · exact hbegun

theorem State.warmUp_keepsImage (s : State) : s.KeepsImage s.warmUp := .ite (.refl s) ⟨rfl⟩

theorem State.chooseConv_keepsImage (s : State) : s.KeepsImage s.chooseConv := by
  unfold State.chooseConv
  split
  · exact .ite (s.beginConv_keepsImage ..) s.warmUp_keepsImage
  · split
    · exact .ite ((s.beginConv_keepsImage ..).trans ⟨rfl⟩) (s.beginConv_keepsImage ..)
    · extract_lets keep
      exact .ite (.ite (s.beginConv_keepsImage ..) s.warmUp_keepsImage) (.ite (.refl s) ⟨rfl⟩)

theorem State.startSequence_keepsImage (s : State) (due : Nat) : s.KeepsImage (s.startSequence due) := by
  unfold State.startSequence
  extract_lets s1 awake
  have hentered : s.KeepsImage s1 := ⟨rfl⟩
  exact .ite hentered (.ite (hentered.trans s1.chooseConv_keepsImage)
    (.ite ((hentered.trans (s1.modAux_keepsImage _)).trans (State.chooseConv_keepsImage _)) (hentered.trans ⟨rfl⟩)))

theorem State.startAux_keepsImage (s : State) : s.KeepsImage s.startAux := by
  unfold State.startAux
  extract_lets s1
  have hcleared : s.KeepsImage s1 := ⟨rfl⟩
  exact .ite hcleared (hcleared.trans (s1.startSequence_keepsImage _))

theorem State.fnStarts_keepsImage (s : State) (fn : Nat) : s.KeepsImage (s.fnStarts fn) :=
  .ite ⟨rfl⟩ (.ite (s.startYard_keepsImage _) (.ite s.startSign_keepsImage (.ite s.startCrier_keepsImage
    (.ite s.startAux_keepsImage (.refl s)))))

theorem State.assignWeighers_keepsImage (s : State) (n : Fin 16) (w : Nat) : s.KeepsImage (s.assignWeighers n w) := by
  unfold State.assignWeighers
  extract_lets picked s1 _ s2
  have hpicked : s.KeepsImage s1 := by
    refine .foldl (fun t k => ?_) _ s
    exact ⟨rfl⟩
  have htest : s.KeepsImage s2 := by
    unfold s2
    split
    · exact .ite (hpicked.trans ⟨rfl⟩) hpicked
    · exact hpicked
  clear_value s2
  exact .ite (htest.trans (s2.attention_keepsImage 2)) htest

theorem State.admitStall_keepsImage (s : State) (n : Fin 16) (u : Setup) (eighths w : Nat) :
    s.KeepsImage (s.admitStall n u eighths w) := by
  unfold State.admitStall
  extract_lets s1 s2 _ s3 s4
  have hforced : s.KeepsImage s1 := (s.assignWeighers_keepsImage n w).trans (State.bringIntoForce_keepsImage ..)
  clear_value s1
  have hstall : s.KeepsImage s2 := hforced.trans ⟨rfl⟩
  have hstarted : s.KeepsImage s3 := hstall.trans ⟨rfl⟩
  have hchan : s.KeepsImage s4 := .ite (hstarted.trans ⟨rfl⟩) hstarted
  exact .ite (hchan.trans ⟨rfl⟩) hchan

theorem State.startStall_keepsImage {u : State} (h : s.KeepsImage u) (n : Fin 16) : s.KeepsImage (s.startStall u n).2 := by
  unfold State.startStall
  extract_lets t trial cost w need refuse charged lane dram hall yard sieve
  have hrefuse (c : Code) (bits : Word) (tolls : List Nat) : s.KeepsImage (refuse c bits tolls).2 := by
    refine State.KeepsImage.trans (t := (s.toll 244).modStall n fun t => { t with admitWord := need ||| bits }) ⟨rfl⟩
      (.foldl (fun t i => ?_) tolls _)
    exact ⟨rfl⟩
  split
  · exact hrefuse ..
  · split
    · exact hrefuse ..
    · split
      · exact hrefuse ..
      · exact h.trans (u.admitStall_keepsImage ..)

theorem State.startAStall_keepsImage (s : State) (n : Fin 16) : s.KeepsImage (s.startAStall n).2 := by
  have hstart := State.startStall_keepsImage (s.forceLocked_keepsImage (fnStall n)) n
  unfold State.startAStall
  split
  · rename_i s1 heq
    exact (hstart.of_snd heq).trans ⟨rfl⟩
  · rename_i s1 heq
    exact (hstart.of_snd heq).trans ⟨rfl⟩
  · rename_i c s1 heq
    exact (hstart.of_snd heq).trans ⟨rfl⟩

theorem State.startOther_keepsImage (s : State) (fn : Nat) : s.KeepsImage (s.startOther fn).2 := by
  unfold State.startOther
  extract_lets t
  split
  · exact ⟨rfl⟩
  · split
    · exact ⟨rfl⟩
    · split
      · exact ⟨rfl⟩
      · exact ((s.forceLocked_keepsImage fn).trans (t.fnStarts_keepsImage fn)).trans ⟨rfl⟩

theorem State.startFn_keepsImage (s : State) (fn : Nat) : s.KeepsImage (s.startFn fn).2 := by
  unfold State.startFn
  extract_lets t
  have hsettled : s.KeepsImage t := .ite (s.finishStop_keepsImage _) (.refl s)
  split
  · exact ⟨rfl⟩
  · split
    · exact ⟨rfl⟩
    · split
      · exact hsettled.trans (t.startAStall_keepsImage _)
      · exact hsettled.trans (t.startOther_keepsImage fn)

theorem State.startAll_keepsImage (s : State) (fns : List Nat) : s.KeepsImage (s.startAll fns) := by
  unfold State.startAll
  refine .foldl (fun t fn => ?_) _ s
  exact .ite (t.startFn_keepsImage fn) ((t.startFn_keepsImage fn).trans (State.attention_keepsImage ..))

/-! The second stage (R283, R370, R372). -/

theorem State.trainDram_keepsImage (s : State) (t : Training) : s.KeepsImage (s.trainDram t) := by
  unfold State.trainDram
  extract_lets ok s1
  have htrained : s.KeepsImage s1 := ⟨rfl⟩
  have htolled : s.KeepsImage (s1.toll 200) := htrained.trans ⟨rfl⟩
  exact .ite (htrained.trans ⟨rfl⟩) (htolled.trans (State.attention_keepsImage ..))

/-- The image runs, and START_MS holds the time since the release (R370, R372). -/
theorem State.startStage_image (s : State) (t : Training) : (s.startStage t).image =
    { s.image with phase := .running, starts := [], startMs := (s.now - s.image.released) / 40000000 } := by
  obtain ⟨himage⟩ := ((s.trainDram_keepsImage t).trans (State.startRelief_keepsImage _)).trans (State.startAll_keepsImage _
    (s.trainDram t).startRelief.image.starts)
  exact congrArg (fun x : Image => { x with
    phase := .running, starts := [], startMs := (s.now - x.released) / 40000000 }) himage

/-- With every training passed, no function to start and the relief slice retired, the second stage touches little (R283, R370). -/
theorem State.startStage_of_none {t : Training} (hpass : s.trainingPasses t (fun _ => true) = true) (hnone : s.image.starts = [])
    (hretired : s.conv.retired = some 16) : ∃ u, s.startStage t = u ∧ u.dram.trained = true ∧ u.dram.mem = [] ∧
      u.tollDue = s.tollDue ∧ u.status = s.status ∧ u.run = s.run ∧ u.hall = s.hall := by
  have htrain : ∃ d : Dram, s.trainDram t = { s with dram := d } ∧ d.trained = true ∧ d.mem = [] := by
    unfold State.trainDram
    rw [hpass]
    exact ⟨_, rfl, rfl, rfl⟩
  obtain ⟨d, htrain, htrained, hmem⟩ := htrain
  have hrelief : ∃ conv cal, State.startRelief { s with dram := d } = { s with dram := d, conv := conv, cal := cal } := by
    simp only [State.startRelief, hretired]
    exact ⟨_, _, rfl⟩
  obtain ⟨conv, cal, hrelief⟩ := hrelief
  refine ⟨_, rfl, ?_⟩
  unfold State.startStage
  extract_lets s1
  have hs1 : s1 = { s with dram := d, conv := conv, cal := cal } := (congrArg State.startRelief htrain).trans hrelief
  have hstarts : s1.image.starts = [] := by
    rw [hs1]
    exact hnone
  have hall : s1.startAll s1.image.starts = s1 := by
    rw [hstarts]
    rfl
  rw [hall, hs1]
  exact ⟨htrained, hmem, rfl, rfl, rfl, rfl⟩

/-! The stages (R370). -/

theorem startup_of_held {f : Option Sfdp} {a : List (Nat × Byte)} {d : Training}
    (h : s.power.resetN = true ∨ s.power.railsUp = false) : startup f a d s = s :=
  if_pos (by simpa using h)

theorem startup_of_down {f : Option Sfdp} {a : List (Nat × Byte)} {d : Training} (hreset : s.power.resetN = false)
    (hrails : s.power.railsUp = true) (hphase : s.image.phase = .down) : startup f a d s = s.applyStage f a := by
  unfold startup
  rw [if_neg (by simp [hreset, hrails]), hphase]

theorem startup_of_applying {f : Option Sfdp} {a : List (Nat × Byte)} {d : Training} (hreset : s.power.resetN = false)
    (hrails : s.power.railsUp = true) (hphase : s.image.phase = .applying) : startup f a d s = s.startStage d := by
  unfold startup
  rw [if_neg (by simp [hreset, hrails]), hphase]

/-! The first stage (R357, R366, R370, R375, R376). -/

/-- The field link comes up with a new nonce (R333, R338). -/
theorem State.linkUp_spec (s : State) : ∃ n, n ≠ 0 ∧ s.linkUp = { s with
    free := s.free + 1, barter := { s.barter with nonce := n, hi := 0, seen := [], up := true, plcaOk := false, csma := true } } := by
  obtain ⟨n, hne, -, heq⟩ := s.newNonce_spec
  refine ⟨n, hne, ?_⟩
  unfold State.linkUp
  rw [heq]

/-- The TAP is locked, which the TAP alone shows (R424). -/
theorem State.lockTap_eq (s : State) : ∃ tap, s.lockTap = { s with tap := tap } := by
  unfold State.lockTap
  split
  · exact ⟨_, rfl⟩
  · exact ⟨_, rfl⟩

/-- The safe state (R376). -/
theorem State.enterSafe_spec (s : State) : ∃ n key, n ≠ 0 ∧ s.enterSafe = { s with
    image := { s.image with phase := .safe, source := 2 }, status := (s.attention 3).status, ev := (s.attention 3).ev
    free := s.free + 1, barter := { s.barter with
      key := key, nonce := n, hi := 0, seen := [], up := true, plcaOk := false, csma := true } } := by
  unfold State.enterSafe
  extract_lets otp key _ t
  have hattention : t = { s with
      image := { s.image with phase := .safe, source := 2 }, status := (s.attention 3).status, ev := (s.attention 3).ev
      barter := { s.barter with key := key } } :=
    State.attention_eq (s := s) (t := ({ s with barter := { s.barter with key := key } } : State).modImage fun x => { x with
      phase := .safe, source := 2 }) rfl rfl 3
  obtain ⟨n, hne, heq⟩ := t.linkUp_spec
  refine ⟨n, key, hne, heq.trans ?_⟩
  rw [hattention]

/-- A slot that fails leaves its reason, a log entry and a count of toll 250 (R375). -/
theorem State.slotFails_spec (s : State) (slot reason : Nat) : ∃ image log,
    s.slotFails slot reason = { s.toll 250 with image := image, log := log } ∧ image.otpForce = s.image.otpForce := by
  unfold State.slotFails
  refine ⟨_, _, rfl, ?_⟩
  rw [State.logEvent_image, State.modImage_image]
  split
  · rfl
  · rfl

/-- No slot is found (R375): toll 250 counts twice. -/
theorem State.noSlot_spec (s : State) : ∃ image log, (s.slotFails 0 0).slotFails 1 0 =
    { (s.toll 250).toll 250 with image := image, log := log } ∧ image.otpForce = s.image.otpForce := by
  obtain ⟨image0, log0, hfirst, hotp0⟩ := s.slotFails_spec 0 0
  obtain ⟨image1, log1, hsecond, hotp1⟩ := (s.slotFails 0 0).slotFails_spec 1 0
  rw [hfirst] at hsecond hotp1
  rw [hfirst]
  exact ⟨image1, log1, hsecond, hotp1.trans hotp0⟩

/-- Without a flash that answers (R375, R376). -/
theorem State.applyStage_none (s : State) (reread : List (Nat × Byte)) : ∃ t, s.applyStage none reread = t ∧
    t.image.phase = .safe ∧ t.image.source = 2 ∧ t.image.otpForce = s.image.otp ∧ t.tollDue = ((s.toll 250).toll 250).tollDue ∧
    t.status = (s.attention 3).status ∧ t.barter.up = true ∧ t.barter.nonce ≠ 0 ∧ t.hall = s.hall ∧ t.written = s.written ∧
    t.force = s.force ∧ t.run = s.run := by
  unfold State.applyStage
  extract_lets s0
  obtain ⟨tap, htap⟩ := State.lockTap_eq (s.modImage fun x => { x with otpForce := x.otp })
  have hs0 : s0 = { s with tap := tap, image := { s.image with otpForce := s.image.otp } } := htap
  obtain ⟨image, log, hfails, hotp⟩ := s0.noSlot_spec
  obtain ⟨n, key, hne, heq⟩ := State.enterSafe_spec { (s0.toll 250).toll 250 with image := image, log := log }
  have hstatus := State.attention_status_congr (s := s) (t := { (s0.toll 250).toll 250 with image := image, log := log })
    (by rw [hs0]; rfl) (by rw [hs0]; rfl) 3
  refine ⟨_, (congrArg State.enterSafe hfails).trans heq, rfl, rfl, hotp.trans ?_, ?_, hstatus, rfl, hne, ?_⟩
  · rw [hs0]
  · rw [hs0]
    rfl
  · rw [hs0]
    exact ⟨rfl, rfl, rfl, rfl⟩

/-- The first stage ends with the parameters applied or in the safe state, the link being up in either case (R371, R373, R376). -/
theorem State.applyStage_up (s : State) (f : Option Sfdp) (reread : List (Nat × Byte)) :
    ((s.applyStage f reread).image.phase = .applying ∨ (s.applyStage f reread).image.phase = .safe) ∧
      (s.applyStage f reread).barter.up = true := by
  have hsafe (t : State) : t.enterSafe.image.phase = .safe ∧ t.enterSafe.barter.up = true := by
    obtain ⟨n, key, -, heq⟩ := t.enterSafe_spec
    rw [heq]
    exact ⟨rfl, rfl⟩
  have hup (t : State) (h : t.image.phase = .applying) : t.linkUp.image.phase = .applying ∧ t.linkUp.barter.up = true := by
    obtain ⟨n, -, heq⟩ := t.linkUp_spec
    rw [heq]
    exact ⟨h, rfl⟩
  unfold State.applyStage
  extract_lets s0
  split
  · exact (hsafe _).imp_left .inr
  · extract_lets s1 first
    split
    · exact (hup _ rfl).imp_left .inl
    · split
      · exact (hup _ (congrArg Image.phase (State.attention_image ..))).imp_left .inl
      · exact (hsafe _).imp_left .inr

end Sys2Proof.Machine

/-- Settles O52: before the rails are up, the first stage without a flash and with one, and the second stage. -/
theorem startupRuns : Obligations.StartupRuns := by
  unfold Obligations.StartupRuns
  intro s
  refine ⟨?early, ?noFlash, ?first, ?second, ?quiet⟩
  case early =>
    intro f a d h
    exact congrArg Host.Outcome.next (startup_of_held h)
  case noFlash =>
    intro a d hreset hrails hphase
    obtain ⟨t, heq, hfacts⟩ := s.applyStage_none a
    exact ⟨t, congrArg Host.Outcome.next ((startup_of_down hreset hrails hphase).trans heq), hfacts⟩
  case first =>
    intro f a d hreset hrails hphase
    exact ⟨_, congrArg Host.Outcome.next (startup_of_down hreset hrails hphase), s.applyStage_up f a⟩
  case second =>
    intro f a d hreset hrails hphase
    have himage := s.startStage_image d
    refine ⟨_, congrArg Host.Outcome.next (startup_of_applying hreset hrails hphase), ?_⟩
    rw [himage]
    exact ⟨rfl, rfl, rfl⟩
  case quiet =>
    intro f hreset hrails hphase hnone hretired r w hpass
    obtain ⟨u, heq, htrained, hmem, hfacts⟩ := State.startStage_of_none hpass hnone hretired
    have himage := s.startStage_image w
    rw [heq] at himage
    refine ⟨u, congrArg Host.Outcome.next ((startup_of_applying hreset hrails hphase).trans heq), ?_, htrained, hmem, ?_, hfacts⟩
    · rw [himage]
    · rw [himage]

end
